-- ==== Sys2Proof/Word.lean ====
section
/-! DEFINITION. The word types of the KM7-16 and their plainest arithmetic (R9, R10): 32-bit registers, bytes,
64 B lines, 256 B stitches, and saturating counts. -/
namespace Sys2Proof

/-- One byte. -/
abbrev Byte := BitVec 8
/-- One BAR2 register (R13). -/
abbrev Word := BitVec 32
/-- One 64 B line of memory (R10); byte 0 is bits 7:0 (R9). -/
abbrev Line := BitVec 512
/-- One stitch: a 256 B cold-tier sector on one DDR5 channel (Table 0.5). -/
abbrev Stitch := BitVec 2048

/-- Lines in a 4 KiB page (R10). -/
abbrev linesPerPage : Nat := 64

/-- Byte number `i` of a bit vector whose byte 0 holds bits 7:0 (R9). -/
def byteAt {w : Nat} (v : BitVec w) (i : Nat) : Byte := (v >>> (8 * i)).setWidth 8

/-- The `n` bytes of a bit vector, byte 0 first (R9). -/
def bytesOf {w : Nat} (v : BitVec w) (n : Nat) : List Byte := (List.range n).map (byteAt v)

/-- The little-endian number that a list of bytes spells (R9). -/
def leNat : List Byte → Nat
  | [] => 0
  | b :: bs => b.toNat + 256 * leNat bs

/-- `v` with every byte whose mask bit is 1 taken from `d`: a partial write (R206). -/
def mergeLine (v d : Line) (mask : BitVec 64) : Line :=
  (List.range 64).foldl
    (fun acc i => if mask.getLsbD i then (acc &&& ~~~((255 : Line) <<< (8 * i))) ||| (d &&& ((255 : Line) <<< (8 * i))) else acc) v

/-- A count that saturates at `2 ^ w - 1`. -/
def satAdd (w a b : Nat) : Nat := Nat.min (a + b) (2 ^ w - 1)

/-- The larger of two levels or limits. -/
def atLeast (lo v : Nat) : Nat := if v < lo then lo else v

/-- `v` clamped to the range from `lo` to `hi`. -/
def clamp (lo hi v : Nat) : Nat := if v < lo then lo else if hi < v then hi else v

/-- `v` rounded up to a multiple of `n`, as a quotient. -/
def ceilDiv (v n : Nat) : Nat := (v + n - 1) / n

end Sys2Proof
end

