-- ==== Sys2Proof/Syntax.lean ====
section
/-! DEFINITION. The commands of the module: one constructor of `Instr` for every row of spec/opcode_table.json, and the types of
their operands. A command is a step of the spec: an access of a host, a register access, an event on a pin or a line, a timer that
runs out, a mailbox command, or a step that one block takes of its own. What the environment shows the module (a temperature, what
a SPD says, what an error check finds) is an operand. -/

namespace Sys2Proof

/-- An access path of BAR2 (R17, R490): the function of LD `ld` on head `h`, or the plaza's internal port. -/
inductive Path where
  | head (h : Fin 4) (ld : Fin 16)
  | plaza
  deriving DecidableEq, Repr

/-- The size of a BAR2 access (R16); 8 and 16 bits are narrower than a register. -/
inductive AccSize where
  | w8
  | w16
  | w32
  | w64
  deriving DecidableEq, Repr

/-- The three selector registers of R18. -/
inductive Selector where
  | qosCsel
  | cryEpochSel
  | nocMpSel
  deriving DecidableEq, Repr

/-- The MetaValue of a CXL.mem request (Table 3.3). -/
inductive MetaValue where
  | invalid
  | shared
  | any
  deriving DecidableEq, Repr

/-- A PCIe AtomicOp of R99. -/
inductive AtomicKind where
  | fetchAdd
  | swap
  | cas
  deriving DecidableEq, Repr

/-- An operation on one naturally aligned word of a line: the AtomicOps of R99 and the batched atomics of Table 10.4. -/
inductive WordOp where
  | fetchAdd
  | swap
  | cas
  | add
  | and
  | or
  | xor
  | minU
  | maxU
  | minS
  | maxS
  deriving DecidableEq, Repr

/-- An atomic inside a line: `off` its byte offset, `bytes` its width, the operand and, for a compare-and-swap, the value compared. -/
structure AtomicOp where
  op : WordOp
  off : Nat
  bytes : Nat
  operand : BitVec 128
  compare : BitVec 128
  deriving DecidableEq, Repr

/-- A host's answer to a back-invalidation snoop (Table 3.3): what the host still holds. -/
inductive BiRsp where
  | invalid
  | shared
  | exclusive
  deriving DecidableEq, Repr

/-- The two IDE streams of a head (R51). -/
inductive IdeStream where
  | mem
  | io
  deriving DecidableEq, Repr

/-- The two directions of an IDE stream, each with a key set of its own (R52). -/
inductive IdeDir where
  | rx
  | tx
  deriving DecidableEq, Repr

/-- A sub-stream as KEY_PROG names it: one direction of one stream (R52). -/
structure IdeSub where
  stream : IdeStream
  dir : IdeDir
  deriving DecidableEq, Repr

/-- How the flits that carry a CXL.mem request arrived (R38, R54): `macOk`: the MAC that covers the sequence verified; `fec`: flits that FEC corrected;
`replays`: flits whose CRC failed after FEC, each replayed until it arrived whole. -/
structure Arrival where
  macOk : Bool := true
  fec : Nat := 0
  replays : Nat := 0
  deriving DecidableEq, Repr

/-- The options of Tables 2.2 and 2.3 that a capability structure can advertise. -/
inductive LinkOption where
  | flitMode
  | nonFlitMode
  | l0p
  | aspmL0s
  | aspmL1
  | l1Substates
  | ptmResponder
  | ptmRequester
  | aer
  | dpc
  | doe
  | laneReversal
  | cxlIo
  | cxlMem
  | cxlCache
  | backInvalidate
  | dynamicCapacity
  | sharableExtents
  | ideContainment
  | ideSkid
  | persistentMemory
  | globalPersistentFlush
  | globalFabricAttached
  | poison
  | viral
  | devLoad
  deriving DecidableEq, Repr

/-- What training finds out about a link partner (R59); fields as HPA_PARTNER gives them. -/
structure Partner where
  rates : BitVec 4
  flit : Bool
  lopt : Bool
  switch : Bool
  ide : Bool
  ptm : Bool
  cxlVer : BitVec 4
  cxlMem : Bool
  deriving DecidableEq, Repr

/-- What the error check of a stack access found (R115, R135): nothing, a corrected symbol, an uncorrectable error of the line, one of the line in both of its
copies, or `bits` in error in the frame's descriptor. -/
inductive StackErr where
  | none
  | corrected
  | uncorrectable
  | both
  | descriptor (bits : BitVec 512)
  deriving DecidableEq, Repr

/-- The frame descriptors that a command reads with bits in error (R115): the frame, and its bits. -/
abbrev DescErrors := List (Nat × BitVec 512)

/-- The two append streams of a stitcher (R155). -/
inductive Stream where
  | W
  | G
  deriving DecidableEq, Repr

/-- One of the two map-entry sources of R160. -/
inductive EntrySource where
  | cache
  | ledger
  deriving DecidableEq, Repr

/-- One load record of a section (R455): a masked write. -/
structure LoadRecord where
  target : Nat
  mask : Nat
  value : Nat
  deriving DecidableEq, Repr

/-- The parameters of one LD in section LDS (Table 16.2): static capacity and DC region in GiB, page base, and the DPA ranges (first GiB,
GiB count) that are HDM-DB. -/
structure LdParams where
  ld : Nat
  staticGib : Nat
  dcGib : Nat
  pageBase : Nat
  db : List (Nat × Nat)
  deriving DecidableEq, Repr

/-- What a section sets (Table 16.2). -/
inductive SectionBody where
  | heads (split : Nat) (ldHead : List (Nat × Nat)) (mgr : Nat)
  | lds (l : List LdParams)
  | share (first gib : Nat)
  | slices (remap : List Nat) (spare0 spare1 : Nat)
  | cold (tack : Nat) (windows : List (Nat × Nat × Nat))
  | classes (l : List Nat)
  | qos (l : List LoadRecord)
  | routes (l : List (Nat × Nat))
  | power (l : List LoadRecord)
  | groups (l : List (List Nat))
  | reset (l : List (Nat × Nat))
  | modes (mode fixed : Nat)
  | faults (l : List LoadRecord)
  | tiering (l : List LoadRecord)
  | rings (l : List (Nat × Nat))
  | keys (l : List LoadRecord)
  | unknown (id : Nat)
  deriving DecidableEq, Repr

/-- One section of a layout image with the outcome of its CRC-32C (R455, R458). -/
structure Section where
  crcOk : Bool
  body : SectionBody
  deriving DecidableEq, Repr

/-- A layout image or amendment (Table 16.1). `base`: the digest of the image it amends. -/
structure LayoutImage where
  formOk : Bool
  layoutId : Nat
  ver : Nat
  svn : Nat
  key : Nat
  amendment : Bool
  base : Nat
  seq : Nat
  sections : List Section
  deriving DecidableEq, Repr

/-- A management firmware image (R471). -/
structure FwImage where
  version : Nat
  svn : Nat
  key : Nat
  deriving DecidableEq, Repr

/-- The path a command arrives on (R468): an LD's mailbox, the FM API, MCTP on the sideband, or an SPDM secured session
over DOE on head `h`, or over MCTP where `h` is none (R189). -/
inductive CmdPath where
  | mailbox (ld : Fin 16)
  | fmApi
  | sideband
  | spdm (h : Option (Fin 4))
  deriving DecidableEq, Repr

/-- The Request Cinch payload (Table 8.3). `rsvd`: some reserved bit is set. -/
structure CinchRequest where
  ld : Nat
  cls : Nat
  pin : Bool
  baseGib : Nat
  lenGib : Nat
  readMbs : Nat
  writeMbs : Nat
  bound : Nat
  allow : Nat
  rsvd : Bool
  deriving DecidableEq, Repr

/-- The class of a street-grid packet (R289). -/
inductive PktClass where
  | req
  | snp
  | rsp
  deriving DecidableEq, Repr

/-- A street-grid packet: the header fields of Table 9.3 but HCHK, which follows from them. -/
structure Packet where
  cls : PktClass
  lane : Nat
  be : Bool
  svc : Nat
  repoch : Bool
  hint : Nat
  len : Nat
  retry : Bool
  opc : Nat
  tepoch : Nat
  dst : Nat
  src : Nat
  mport : Nat
  tag : Nat
  dl : Nat
  bnd : Nat
  far : Bool
  deriving DecidableEq, Repr

/-- A packet that a local port hands to its crossing: for an in-contract request, when the access started (TIME_NS) and its cinch's bound in ns, from which FAR, DL and BND follow
(R292). -/
structure PacketIn where
  port : Fin 3
  pkt : Packet
  start : Nat := 0
  bound : Nat := 0
  deriving DecidableEq, Repr

/-- What the SPD of a DIMM says (Table 7.2): MRDIMM, capacity in GiB, ranks, the rate codes of DCC_POP.RATE it lists, serial number. -/
structure SpdInfo where
  mr : Bool := false
  capGib : Nat := 256
  ranks : Nat := 2
  rates : List Nat := [1, 2, 3]
  serial : Nat := 0
  deriving DecidableEq, Repr

/-- The readings of Table 7.2. -/
inductive DimmReading where
  | spd
  | temps
  | pmic
  deriving DecidableEq, Repr

/-- A scheduler of Table 7.3: a channel controller, or the pseudo-channel group `g` of stack `st` (R256). -/
inductive Scheduler where
  | dcc (ch : Fin 16)
  | group (st : Fin 2) (g : Fin 8)
  deriving DecidableEq, Repr

/-- What the ECC of a DIMM access found (R239). -/
inductive Ecc where
  | ok
  | corrected
  | uncorrectable
  deriving DecidableEq, Repr

/-- The eye margins that a pass measured for one rank, in % UI (R233). -/
structure RankMargin where
  slot : Fin 2
  rank : Fin 4
  rd : Nat
  wr : Nat
  deriving DecidableEq, Repr

/-- A unit that trains: a channel or a stack (R235, Table 16.5). -/
inductive TrainUnit where
  | channel (ch : Fin 16)
  | stack (st : Fin 2)
  deriving DecidableEq, Repr

/-- What a filtered reset pin does (R431): a low pulse of `ns` that has ended, a fall after which the pin stays low, a rise. -/
inductive PinEvent where
  | pulse (ns : Nat)
  | low
  | high
  deriving DecidableEq, Repr

/-- The actions of a firmware or layout transfer (R460): the image is presented at the end. -/
inductive Transfer (α : Type) where
  | initiate
  | more (bytes : Nat)
  | finish (img : α)
  | abort
  deriving DecidableEq, Repr

/-- One event occurrence on the counting bus (R476): block code, instance, event code, how many, class and best-effort flag, line address,
master port and tag, and the program counter of a plaza event. -/
structure Occurrence where
  block : Nat
  inst : Nat
  event : Nat
  n : Nat := 1
  cls : Nat := 0
  be : Bool := false
  la : Nat := 0
  mport : Nat := 0
  tag : Nat := 0
  pc : Nat := 0
  deriving DecidableEq, Repr

/-- The two ways Inject Fault goes (R345): a forced report or a data-path injection. -/
inductive Injection where
  | force (src inst : BitVec 8)
  | arm (tgt : BitVec 4) (inst bit : BitVec 8)
  deriving DecidableEq, Repr

/-- Life-cycle states (CRY_STS.LC). -/
inductive LifeCycle where
  | manufacture
  | development
  | production
  | retired
  deriving DecidableEq, Repr

/-- What a debug access asks to read (Table 6.8). -/
inductive DebugTarget where
  | hotTier
  | sram
  | keyVault
  deriving DecidableEq, Repr

/-- The requests that a management host puts over MCTP or through the standard capability structures: a numeric sensor, or the FRU record of the module
(none) or a DIMM (R470); the CDAT of an LD (R46); whether an option is advertised (R37, R39); the FM API's LD information, its LD allocations, and a
QoS-control command (Table 2.3); the life-cycle state of the module's SPDM measurements, and whether a debug access is allowed (R212); and a vendor command
with an opcode of Table 16.5 or one that the table does not list (R468). -/
inductive PldmRequest where
  | sensor (id : Nat)
  | fru (dimm : Option (Fin 32))
  | cdat (ld : Fin 16)
  | advertised (o : LinkOption)
  | fmLdInfo
  | fmLdAllocations
  | fmQosControl
  | measurements
  | debugAccess (t : DebugTarget)
  | vendorOpcode (via : CmdPath) (op : BitVec 16)
  deriving DecidableEq, Repr

/-- What happens at a parity block of an SRAM: the scrubber's visit, the last of a pass or not (R351), or a read or a write of one of its words (R348, R350). -/
inductive SramAct where
  | scrub (last : Bool)
  | read (w : Fin 64)
  | write (w : Fin 64)
  deriving DecidableEq, Repr

/-- The commands (spec/opcode_table.json), in the table's order but for those without operands, which stand last. -/
inductive Instr where
  /-- REGISTER_WRITE (R13): a write of `v` to BAR2 offset `off`. -/
  | registerWrite (p : Path) (off : Nat) (size : AccSize) (v : BitVec 64)
  /-- LO_HALF_READ (R17): a read of BAR2 offset `off`, an _LO register. -/
  | loHalfRead (p : Path) (off : Nat) (size : AccSize)
  /-- HI_HALF_READ (R17): a read of BAR2 offset `off`, an _HI register. -/
  | hiHalfRead (p : Path) (off : Nat)
  /-- PAIR_HI_WRITE (R17): a write to the _HI register at `off` of a writable pair. -/
  | pairHiWrite (p : Path) (off : Nat) (v : BitVec 32)
  /-- SELECTOR_WRITE (R18). -/
  | selectorWrite (p : Path) (sel : Selector) (v : BitVec 32)
  /-- SLEEPING_REGISTER_ACCESS (R375): a read (none) or write of `off` in a block whose domain is not On. -/
  | sleepingRegisterAccess (p : Path) (off : Nat) (w : Option (BitVec 32))
  /-- FENCED_REGISTER_ACCESS (R377): a read (none) or write of `off` in a fenced or failed block. -/
  | fencedRegisterAccess (p : Path) (off : Nat) (w : Option (BitVec 32))
  /-- HOST_MEM_READ (R44): a CXL.mem read of `hpa` for LD `ld` with tag `tag`; `arr`: how its flits arrived. -/
  | hostMemRead (h : Fin 4) (ld : Fin 16) (hpa : Nat) (m : MetaValue) (tag : Nat) (arr : Arrival)
  /-- HOST_MEM_WRITE (R54): a CXL.mem write of the bytes of `data` that `mask` names. -/
  | hostMemWrite (h : Fin 4) (ld : Fin 16) (hpa : Nat) (m : MetaValue) (tag : Nat) (data : BitVec 512) (mask : BitVec 64) (poison : Bool) (arr : Arrival)
  /-- BAR4_ATOMICOP (R99): a request to offset `x` of BAR4; `none` is any request that is no AtomicOp. -/
  | bar4AtomicOp (h : Fin 4) (x : Nat) (tag : Nat) (op : Option (AtomicKind × Nat × BitVec 128 × BitVec 128))
  /-- PEN_ENTRY_FREE (R61): the acceptance of request `id` reaches head `h`. -/
  | penEntryFree (h : Fin 4) (id : Nat)
  /-- PEN_REINJECT (R62). -/
  | penReinject (h : Fin 4) (id : Nat)
  /-- PEN_READ_EXPIRY (R64). -/
  | penReadExpiry (h : Fin 4) (id : Nat)
  /-- PEN_WRITE_EXPIRY (R65). -/
  | penWriteExpiry (h : Fin 4) (id : Nat)
  /-- HEAD_RESPONSE (R68): the oldest reply under way to head `h` for request `id` arrives. -/
  | headResponse (h : Fin 4) (id : Nat)
  /-- SURPRISE_LINK_DOWN (R68). -/
  | surpriseLinkDown (h : Fin 4)
  /-- CABLE_MEASUREMENT_DONE (R56): worst-lane loss in 0.5 dB units and length in 5 cm units, where they were measured. -/
  | cableMeasurementDone (h : Fin 4) (loss : Option (Fin 255)) (len : Option (Fin 255)) (idValid : Bool)
  /-- LINK_TRAINING_DONE (R522): the partner found, the width reached and the retimers in the path; on a link that is up, the end of a training that the
  partner asked for. -/
  | linkTrainingDone (h : Fin 4) (partner : Partner) (width : Nat) (retimers : Fin 3)
  /-- LINK_RECOVERY (R66). -/
  | linkRecovery (h : Fin 4)
  /-- RATE_FALLBACK (R66). -/
  | rateFallback (h : Fin 4)
  /-- RETRY_RATE (R66). -/
  | retryRate (h : Fin 4)
  /-- LINK_DISABLE (R68). -/
  | linkDisable (h : Fin 4)
  /-- LINK_ENABLE (R68). -/
  | linkEnable (h : Fin 4)
  /-- VIRAL_RECEIVED (R67). -/
  | viralReceived (h : Fin 4)
  /-- IDE_KEY_PROG (R52): a key set for one direction of a stream. -/
  | ideKeyProg (h : Fin 4) (sub : IdeSub) (key : BitVec 256)
  /-- IDE_MAC_FAILURE (R55). -/
  | ideMacFailure (h : Fin 4) (st : IdeStream)
  /-- ADD_CAPACITY_OFFER (R179): one extent at GiB `gib` of LD `ld`'s DC region; `share` names the sharable extent it belongs to. -/
  | addCapacityOffer (ld : Fin 16) (gib : Nat) (share : Option Nat)
  /-- ADD_CAPACITY_RESPONSE (R50). -/
  | addCapacityResponse (ld : Fin 16) (gib : Nat)
  /-- RELEASE_DYNAMIC_CAPACITY (R50). -/
  | releaseDynamicCapacity (ld : Fin 16) (gib : Nat)
  /-- SLICE_REQUEST (R89): the requests `ids` under way reach slice `sl` in one cycle. -/
  | sliceRequest (sl : Fin 34) (ids : List Nat)
  /-- BIRSP_RECEIVED (R85): LD `ld` answers the snoop of line address `la`. -/
  | birspReceived (sl : Fin 34) (la : Nat) (ld : Fin 16) (rsp : BiRsp)
  /-- SNOOP_TIMEOUT (R103): the snoop of `la` to LD `ld` stays unanswered. -/
  | snoopTimeout (sl : Fin 34) (la : Nat) (ld : Fin 16)
  /-- TICKET_FORFEIT (R77): the ticket of the address key `key`. -/
  | ticketForfeit (sl : Fin 34) (key : Nat)
  /-- NACK_RETRY (R75): the internal request `id` retries. -/
  | nackRetry (id : Nat)
  /-- LD_TEARDOWN (R105): the LDs of head `h`. -/
  | ldTeardown (h : Fin 4)
  /-- SPARE_POWER_UP_DONE (R108). -/
  | sparePowerUpDone (e : Fin 32)
  /-- SPARE_ARRAY_LOAD_DONE (R108). -/
  | spareArrayLoadDone (e : Fin 32)
  /-- BUDDY_ENTRY_DRAINED (R108). -/
  | buddyEntryDrained (e : Fin 32)
  /-- MAP_ENTRY_RETURN (R160): the map entry of page `gpn` arrives from `src`; `err` are bits in error, `authOk` whether its ledger block verified or was repaired. -/
  | mapEntryReturn (gpn : Nat) (src : EntrySource) (err : BitVec 128) (authOk : Bool)
  /-- HTC_LINE_ACCESS (R116): the frame access of open transaction `id`, with what the error check found. -/
  | htcLineAccess (id : Nat) (err : StackErr)
  /-- FILL_DATA (R119): the data of the open fill of page `gpn` arrives; `errs`: descriptors read with bits in error (R115). -/
  | fillData (gpn : Nat) (errs : DescErrors := [])
  /-- HELD_WRITE_RESUME (R118): the held write `id`. -/
  | heldWriteResume (id : Nat)
  /-- COLD_WRITEBACK_OPEN (R123); `errs`: descriptors read with bits in error (R115). -/
  | coldWritebackOpen (gpn : Nat) (errs : DescErrors := [])
  /-- SHED_FRAME_RELEASE (R130); `errs`: descriptors read with bits in error (R115). -/
  | shedFrameRelease (st : Fin 2) (errs : DescErrors := [])
  /-- SHED_FLOOR_RELEASE (R131); `errs`: descriptors read with bits in error (R115). -/
  | shedFloorRelease (st : Fin 2) (errs : DescErrors := [])
  /-- PIN_SET (R133). -/
  | pinSet (gpn : Nat)
  /-- PIN_CLEAR (R133). -/
  | pinClear (gpn : Nat)
  /-- KEEP_FRAME_MOVE (R139): the clean page `gpn` in a keep frame of stack `st`. -/
  | keepFrameMove (st : Fin 2) (gpn : Nat) (errs : DescErrors := [])
  /-- STITCHER_READ (R154): the read job `id` is dispatched. -/
  | stitcherRead (id : Nat)
  /-- STITCHER_ALL_FENCED_TIMEOUT (R154). -/
  | stitcherAllFencedTimeout (id : Nat)
  /-- STITCH_READ_DONE (R174): all stitches of read job `id` have arrived. -/
  | stitchReadDone (id : Nat)
  /-- IMAGE_APPEND (R151): the image of page `gpn`'s open operation is placed by stitcher `st`. -/
  | imageAppend (st : Fin 16) (gpn : Nat)
  /-- SEAM_SEAL_TIMEOUT (R157). -/
  | seamSealTimeout (st : Fin 16) (stream : Stream)
  /-- PAGE_OP_COMMIT (R163). -/
  | pageOpCommit (gpn : Nat)
  /-- LEDGER_GROUP_WRITE (R201): the write of map-area group `g` begun, where it is not under way, and carried on by `n` of the five steps that follow its beginning. -/
  | ledgerGroupWrite (g : Nat) (n : Nat := 5)
  /-- LEDGER_RECOVERY_DONE (R167); `errs`: the wrong bits that the DIMMs are found to hold in the journal area, by journal seam and channel (R203). -/
  | ledgerRecoveryDone (errs : List (Nat × Fin 16 × BitVec 2048))
  /-- SEGMENT_FREE (R172). -/
  | segmentFree (seg : Nat)
  /-- KEY_WINDOW_TIMEOUT (R188). -/
  | keyWindowTimeout (ld : Fin 16)
  /-- REENC_SLOT_START (R210). -/
  | reencSlotStart (slot : Nat)
  /-- REENC_PAGE_OPEN (R209). -/
  | reencPageOpen (slot : Nat)
  /-- REENC_CHECKPOINT (R211). -/
  | reencCheckpoint (slot : Nat)
  /-- REENC_FINAL_PASS (R209). -/
  | reencFinalPass (slot : Nat)
  /-- REQUEST_CINCH (R275). -/
  | requestCinch (via : CmdPath) (r : CinchRequest)
  /-- RELEASE_CINCH (R262). -/
  | releaseCinch (via : CmdPath) (cinchId : Nat)
  /-- CONFIRM_CINCH (R277). -/
  | confirmCinch (via : CmdPath) (cinchId : Nat) (ok : Bool)
  /-- CINCH_CONFIRM_TIMEOUT (R277). -/
  | cinchConfirmTimeout (slot : Fin 64)
  /-- CINCH_PINNED_ACTIVE (R264). -/
  | cinchPinnedActive (slot : Fin 64)
  /-- PACKET_FORWARD (R293): crossing `c` sends the next packet of output port `o` (0 N, 1 E, 2 S, 3 W, 4 to 6 local); `inject` is a
  packet that a local port hands to the crossing first; `fails`: how many times in a row a flit of the packet fails the street's CRC (R290, R302). -/
  | packetForward (c : Fin 48) (o : Fin 7) (inject : Option PacketIn) (fails : Fin 5 := 0)
  /-- PACKET_EJECT (R290): the oldest packet that crossing `c` has sent to local port `o` is ejected; `err`: the bits of its header that have gone wrong. -/
  | packetEject (c : Fin 48) (o : Fin 3) (err : BitVec 128)
  /-- REQUEST_REISSUE_TIMEOUT (R301): request `id` of a holding pen or an internal requester. -/
  | requestReissueTimeout (id : Nat)
  /-- STREET_SILENCE (R302): the street that arrives at crossing `c` from direction `d`; `selfCheck`: the crossing's self-check failed. -/
  | streetSilence (c : Fin 48) (d : Fin 4) (selfCheck : Bool)
  /-- ROUTE_TABLE_WRITE (R299). -/
  | routeTableWrite (p : Path) (v : BitVec 32)
  /-- ROUTE_FLIP (R300). -/
  | routeFlip (p : Path)
  /-- ROUTE_DRAINED (R300): crossing `c` declares. -/
  | routeDrained (c : Fin 48)
  /-- RING_ENABLE (R310): a write of `v` to NMR_CFG of ring `r` that sets EN. -/
  | ringEnable (p : Path) (r : Fin 256) (v : BitVec 32)
  /-- RING_DOORBELL (R311): a write of `v` to NMR_TAIL of ring `r`. -/
  | ringDoorbell (p : Path) (r : Fin 256) (v : BitVec 32)
  /-- DESCRIPTOR_FETCH (R323): engine `n` has a free context. -/
  | descriptorFetch (n : Fin 8)
  /-- NOP (R315): descriptor `idx` of ring `r`, which is running. -/
  | nop (r : Fin 256) (idx : Nat)
  /-- COPY (R315). -/
  | copy (r : Fin 256) (idx : Nat)
  /-- FILL (R315). -/
  | fill (r : Fin 256) (idx : Nat)
  /-- ZERO (R318). -/
  | zero (r : Fin 256) (idx : Nat)
  /-- CRC32C (R315). -/
  | crc32c (r : Fin 256) (idx : Nat)
  /-- SHA256 (R315). -/
  | sha256 (r : Fin 256) (idx : Nat)
  /-- RS_ENC (R316). -/
  | rsEnc (r : Fin 256) (idx : Nat)
  /-- RS_REC (R317). -/
  | rsRec (r : Fin 256) (idx : Nat)
  /-- COMPARE (R315). -/
  | compare (r : Fin 256) (idx : Nat)
  /-- ATOMIC_BATCH (R319). -/
  | atomicBatch (r : Fin 256) (idx : Nat)
  /-- TIER_HINT (R320). -/
  | tierHint (r : Fin 256) (idx : Nat)
  /-- DESCRIPTOR_COMPLETE (R321): the record of ring `r`'s head index. -/
  | descriptorComplete (r : Fin 256)
  /-- DESCRIPTOR_WAIT_TIMEOUT (R325). -/
  | descriptorWaitTimeout (r : Fin 256)
  /-- RING_RESUME (R327). -/
  | ringResume (p : Path) (r : Fin 256)
  /-- SPD_READ_RETRY (R221): reading `k` of slot `z` of channel `ch` failed its CRC or got no answer. -/
  | spdReadRetry (ch : Fin 16) (z : Fin 2) (k : DimmReading)
  /-- SPD_SILENT (R221). -/
  | spdSilent (ch : Fin 16) (z : Fin 2)
  /-- SPD_READ_DONE (R221): `info` is what the SPD says. -/
  | spdReadDone (ch : Fin 16) (z : Fin 2) (info : SpdInfo)
  /-- DIMM_TEMP_READING (R222): TS0 and TS1 in °C. -/
  | dimmTempReading (ch : Fin 16) (z : Fin 2) (ts0 ts1 : Fin 255)
  /-- PMIC_READING (Table 7.2): rail voltages in mV, currents in mA, and whether the PMIC reports a fault. -/
  | pmicReading (ch : Fin 16) (z : Fin 2) (mv ma : List Nat) (fault : Bool)
  /-- DCC_READ_REQUEST (R224): the stitch of seam `seam` that read job `id` asks of channel `ch`. -/
  | dccReadRequest (ch : Fin 16) (id : Nat) (seam : Nat)
  /-- DCC_WRITE_REQUEST (R224, R228): the oldest issued write of channel `ch`'s stitch of seam `seam`. -/
  | dccWriteRequest (ch : Fin 16) (seam : Nat)
  /-- STITCH_READ_TIMEOUT (R338). -/
  | stitchReadTimeout (ch : Fin 16) (id : Nat) (seam : Nat)
  /-- REFRESH_DUE (R229): the same-bank refresh of bank `bank` of channel `ch` falls due. -/
  | refreshDue (ch : Fin 16) (bank : Nat)
  /-- SELF_REFRESH_ENTRY (R230). -/
  | selfRefreshEntry (ch : Fin 16)
  /-- SELF_REFRESH_EXIT (R230). -/
  | selfRefreshExit (ch : Fin 16)
  /-- CHANNEL_TRAINING_DONE (R231, R232): `failed` lists the ranks (slot, rank) whose training failed. -/
  | channelTrainingDone (ch : Fin 16) (failed : List (Fin 2 × Fin 4))
  /-- TRAINING_HOLD_TIMEOUT (R232). -/
  | trainingHoldTimeout (u : TrainUnit)
  /-- STACK_TRAINING_DONE (R258): the data lanes each of the eight groups has to replace. -/
  | stackTrainingDone (st : Fin 2) (lanes : List Nat)
  /-- MARGINING_PASS (R233, R258): what the pass of a channel, or of a stack, measured. -/
  | marginingPass (u : TrainUnit) (m : List RankMargin)
  /-- RANK_RETRAIN_DONE (R233): the retrained rank with its margins afterwards. -/
  | rankRetrainDone (u : TrainUnit) (m : RankMargin)
  /-- PATROL_SEAM_CHECK (R236): the seam at the cursor; `ce`, `ue`: the channels whose DIMM ECC corrected the stitch or could not. -/
  | patrolSeamCheck (ce ue : List (Fin 16))
  /-- PATROL_FLOOR_VISIT (R238): the same for a seam not visited within the floor. -/
  | patrolFloorVisit (seam : Nat) (ce ue : List (Fin 16))
  /-- ROW_REPAIR (R240): `spare`: its bank group has a spare row left. -/
  | rowRepair (ch : Fin 16) (z : Fin 2) (rank : Fin 4) (bank row : Nat) (spare : Bool)
  /-- RANK_RETIRE (Table 7.5). -/
  | rankRetire (ch : Fin 16) (z : Fin 2) (rank : Fin 4)
  /-- REBUILD_UNIT_DONE (R246, R251): the next unit of tack block `b`'s operation; `ue`: the stitches (seam, channel) that it read and that DIMM ECC reported uncorrectable. -/
  | rebuildUnitDone (b : Fin 4) (ue : List (Nat × Fin 16) := [])
  /-- COVERAGE_REFRESH (R244): segment `seg` of the range that block `b` covers; `ue` as for a unit. -/
  | coverageRefresh (b : Fin 4) (seg : Nat) (ue : List (Nat × Fin 16) := [])
  /-- EVACUATE (R251): DCM_SVC with CMD 1. -/
  | evacuate (p : Path) (ch : Fin 16) (z : Fin 2)
  /-- FENCE_FOR_SERVICE (R252): CMD 2. -/
  | fenceForService (p : Path) (ch : Fin 16) (z : Fin 2)
  /-- SLOT_RETURN (R253): CMD 3. -/
  | slotReturn (p : Path) (ch : Fin 16) (z : Fin 2)
  /-- CANCEL_EVACUATION (R255): CMD 4. -/
  | cancelEvacuation (p : Path) (ch : Fin 16) (z : Fin 2)
  /-- STACK_TEMP_READING (R257). -/
  | stackTempReading (st : Fin 2) (t : Fin 256)
  /-- FAULT_REPORT (R331): a detector's report with the four words of its detail. -/
  | faultReport (src inst : BitVec 8) (info : List Nat)
  /-- HOST_DECISION_TIMEOUT (R334). -/
  | hostDecisionTimeout (src inst : BitVec 8)
  /-- AUTO_RETURN_TIMER (R335): the slice, stitcher or engine of domain `dom`. -/
  | autoReturnTimer (dom : Fin 144)
  /-- FIRST_ERROR_CLEAR (R343). -/
  | firstErrorClear (p : Path)
  /-- SOURCE_PEND_CLEAR (R344): 1 written to PEND of source `k`; `ovf`: and to OVF. -/
  | sourcePendClear (p : Path) (k : Fin 64) (ovf : Bool)
  /-- FORCE_REPORT (R345): FLT_FORCE with GO. -/
  | forceReport (p : Path) (src inst : BitVec 8)
  /-- ARM_INJECTION (R345): FLT_INJ with ARM. -/
  | armInjection (p : Path) (tgt : BitVec 4) (inst bit : BitVec 8)
  /-- SRAM_SCRUB_VISIT (R347, R348, R350, R351): parity block `blk` of array `array` of domain `dom`, or of the TP7 keep-island SRAM (none), is visited or used; `bad`: the bits
  (word, bit) of the stored block that have gone wrong since, word 64 standing for the column-parity word and bit 0 for a word's row parity. -/
  | sramScrubVisit (dom : Option (Fin 144)) (array blk : Nat) (bad : List (Fin 65 × Nat)) (act : SramAct)
  /-- LATENCY_TOLERANCE_WRITE (R365): a write of `v` to HPA_LAT_TOL of head `h`. -/
  | latencyToleranceWrite (p : Path) (h : Fin 4) (v : BitVec 32)
  /-- DOMAIN_POWER_DOWN (R361). -/
  | domainPowerDown (d : Fin 144)
  /-- DOMAIN_POWER_UP (R363). -/
  | domainPowerUp (d : Fin 144)
  /-- WAKE (R374): a wake of code `src` (Table 12.10) and instance `inst`. -/
  | wake (src : Fin 9) (inst : BitVec 8)
  /-- REGULATOR_ACK (R380): rail 0 VCORE, 1 VSRAM, 2 VHEAD, 3 VPHY. -/
  | regulatorAck (rail : Fin 4)
  /-- VOLTAGE_ACK_TIMEOUT (R380): whether the repeat over PMBus is acknowledged within 25 µs, and whether the comparator finds the rail inside its window. -/
  | voltageAckTimeout (rail : Fin 4) (repeatAck : Bool) (inWindow : Bool)
  /-- VCORE_TRIM (R381): the setpoint that the monitors ask for, in mV. -/
  | vcoreTrim (mv : Nat)
  /-- FEED_PRESENT (R501): feed `f` at `mv` has been present and stable for 1 ms. -/
  | feedPresent (f : Fin 2) (mv : Nat)
  /-- FEED_ABSENT (R501). -/
  | feedAbsent (f : Fin 2)
  /-- PG_WINDOW_END (R396). -/
  | pgWindowEnd (j : Fin 36)
  /-- CURRENT_LIMIT (R385). -/
  | currentLimit (j : Fin 36)
  /-- FAULT_TIMER_CLEAR (R396). -/
  | faultTimerClear (j : Fin 36)
  /-- FAULT_TIMER_EXPIRY (R397). -/
  | faultTimerExpiry (j : Fin 36)
  /-- FAST_TRIP (R397). -/
  | fastTrip (j : Fin 36)
  /-- OVER_VOLTAGE_OPEN (R386): the feed has reached `mv`. -/
  | overVoltageOpen (f : Fin 2) (mv : Nat)
  /-- OVER_VOLTAGE_RECLOSE (R386). -/
  | overVoltageReclose (f : Fin 2) (mv : Nat)
  /-- RETRY_TIMER (R398). -/
  | retryTimer (j : Fin 36)
  /-- BAND_FALL (R390): Vin has stayed at or below `mv` for 20 µs. -/
  | bandFall (mv : Nat)
  /-- BAND_RISE (R390): Vin has stayed at or above `mv` for 10 ms. -/
  | bandRise (mv : Nat)
  /-- POWER_CAP_UPDATE (R392): Vin in mV. -/
  | powerCapUpdate (vin : Nat)
  /-- THROTTLE_RAISE (R392): P_in in W, averaged over 1 ms. -/
  | throttleRaise (pin : Nat)
  /-- THROTTLE_LOWER (R392): the largest P_in in W of the last 10 ms. -/
  | throttleLower (pin : Nat)
  /-- BUS_LOW_THROTTLE (R392): the module bus, in mV, over 10 µs. -/
  | busLowThrottle (mv : Nat)
  /-- PHASE_FAULT (R394). -/
  | phaseFault (ph : Fin 6)
  /-- POWER_FAIL_WARNING (R400): Vin in mV. -/
  | powerFailWarning (vin : Nat)
  /-- INPUT_RETURN (R401): one feed, or the whole input (none). -/
  | inputReturn (f : Option (Fin 2))
  /-- MEASUREMENT_SAMPLE (R403): voltage in mV and current in units of 10 mA. -/
  | measurementSample (j : Fin 36) (mv cur : BitVec 16)
  /-- MEASUREMENT_SELECT (R403): a write of `v` to SUP_MSEL. -/
  | measurementSelect (p : Path) (v : BitVec 32)
  /-- SUPPLY_POWER_OFF (R409): SUP_CMD with CMD 1. -/
  | supplyPowerOff (p : Path) (j : Fin 64)
  /-- SUPPLY_POWER_ON (R409): CMD 2. -/
  | supplyPowerOn (p : Path) (j : Fin 64)
  /-- CLEAR_LATCH_OFF (R399): CMD 3. -/
  | clearLatchOff (p : Path) (j : Fin 64)
  /-- EJECTOR_LATCH_OPEN (R407): slot `k` is 2 × channel + slot. -/
  | ejectorLatchOpen (k : Fin 32)
  /-- EJECTOR_LATCH_CLOSE (R399): both latches closed; `fitted`: a DIMM lies in the socket. -/
  | ejectorLatchClose (k : Fin 32) (fitted : Bool)
  /-- DISCHARGE_COMPLETE (R406). -/
  | dischargeComplete (k : Fin 32)
  /-- DISCHARGE_TIMEOUT (R406). -/
  | dischargeTimeout (k : Fin 32)
  /-- REFERENCE_LOST (R414): 0 REFCLK0, 1 REFCLK1, 2 LOCAL. -/
  | referenceLost (r : Fin 3)
  /-- REFERENCE_GOOD (R414). -/
  | referenceGood (r : Fin 3)
  /-- CLOCK_MONITOR_FAIL (R421): clock domain `d` of Table 14.2. -/
  | clockMonitorFail (d : Fin 101)
  /-- KEEP_CAL_COUNT (R423): the count completed. -/
  | keepCalCount (cycles : BitVec 27)
  /-- SET_TIMESTAMP (R425). -/
  | setTimestamp (via : CmdPath) (t : BitVec 64)
  /-- PTM_REQUEST (R426). -/
  | ptmRequest (h : Fin 4)
  /-- POWER_ON (R444): with the strap pins as they stand. -/
  | powerOn (bootSrc clkMode : Fin 4) (addr : Fin 8)
  /-- MRST_N (R431): with the strap pins as they stand at its rise. -/
  | mrstN (e : PinEvent) (bootSrc clkMode : Fin 4)
  /-- PERST (R431, R497): PERST# pin `p` of the host connectors: 0 and 1 are A# and B# of HCN0, 2 and 3 those of HCN1. -/
  | perst (p : Fin 4) (e : PinEvent)
  /-- HOT_RESET (R428). -/
  | hotReset (h : Fin 4)
  /-- FLR (R436). -/
  | flr (ld : Fin 16)
  /-- CXL_RESET (R436). -/
  | cxlReset (ld : Fin 16)
  /-- RST_CMD_LEVEL3 (R440): RST_CMD with GO and LEVEL 3. -/
  | rstCmdLevel3 (p : Path) (dom : BitVec 8)
  /-- RST_CMD_LEVEL4 (R441). -/
  | rstCmdLevel4 (p : Path)
  /-- RST_CMD_LEVEL5 (R444). -/
  | rstCmdLevel5 (p : Path)
  /-- BLOCK_IDLE_REACHED (R437): `us` after the idle request. -/
  | blockIdleReached (dom : Fin 144) (us : Fin 200)
  /-- IDLE_TIMEOUT (R438). -/
  | idleTimeout (dom : Fin 144)
  /-- CLOCK_RELEASE_TIMEOUT (R442). -/
  | clockReleaseTimeout (dom : Fin 144)
  /-- SELF_TEST_DONE (R443). -/
  | selfTestDone (dom : Fin 144) (pass : Bool)
  /-- FUSE_LOAD_DONE (R448): `bad` names a bank that failed its check. -/
  | fuseLoadDone (bad : Option (BitVec 8))
  /-- HEAD_READY (R445). -/
  | headReady (h : Fin 4)
  /-- STATUS_RESPONDER_READ (R506): the SMBus command code. -/
  | statusResponderRead (cmd : BitVec 8)
  /-- CABLE_PRESENCE_CHANGE (R498): connector HCN `c`. -/
  | cablePresenceChange (c : Fin 2) (present : Bool)
  /-- INLET_LIMIT_UPDATE (R515): the inlet temperature in tenths of a °C. -/
  | inletLimitUpdate (t : Nat)
  /-- PMU_EVENT (R478). -/
  | pmuEvent (o : Occurrence)
  /-- PMU_WINDOW_RESTART (R484): a write of `v` to PMU_WIN_CFG, or to PMU_FIX_SEL (`fix`). -/
  | pmuWindowRestart (p : Path) (fix : Bool) (v : BitVec 32)
  /-- PMU_CLEAR_ALL (R475): a write of `v` to PMU_CTL with CLEAR_ALL. -/
  | pmuClearAll (p : Path) (v : BitVec 32)
  /-- GET_LAYOUT_INFO (Table 16.5). -/
  | getLayoutInfo (via : CmdPath)
  /-- TRANSFER_LAYOUT (R460). -/
  | transferLayout (via : CmdPath) (a : Transfer LayoutImage)
  /-- SELECT_LAYOUT_SLOT (R460). -/
  | selectLayoutSlot (via : CmdPath) (slot : Fin 2)
  /-- AMEND_LAYOUT (R461). -/
  | amendLayout (via : CmdPath) (img : LayoutImage)
  /-- SET_FUNCTION_MODE (R465): function `f` of Table 16.4. -/
  | setFunctionMode (via : CmdPath) (f : Fin 8) (host : Bool)
  /-- FUNCTION_MODE_SWITCH (R465): function `f` at its quiet point. -/
  | functionModeSwitch (f : Fin 8)
  /-- RAISE_LAYOUT_MINIMUM_VERSION (R457). -/
  | raiseLayoutMinimumVersion (via : CmdPath)
  /-- GET_FAULT_LOG (R356): `n` records from the `first` newest on. -/
  | getFaultLog (via : CmdPath) (first n : Nat)
  /-- CLEAR_FAULT (Table 16.5): the sources whose PEND is cleared, and whether RST_HIST and RST_NVW.VALID are too. -/
  | clearFault (via : CmdPath) (srcs : List (Fin 64)) (hist : Bool)
  /-- APPLY_REACTION (Table 16.6). -/
  | applyReaction (via : CmdPath) (src inst code : BitVec 8)
  /-- INJECT_FAULT (R345). -/
  | injectFault (via : CmdPath) (j : Injection)
  /-- DIMM_SERVICE (R251 to R255): the commands of DCM_SVC. -/
  | dimmService (via : CmdPath) (cmd : BitVec 3) (ch : Fin 16) (z : Fin 2)
  /-- SLOT_POWER (R409): the commands of SUP_CMD. -/
  | slotPower (via : CmdPath) (cmd : BitVec 3) (j : Fin 64)
  /-- TIER_PAGES (R320): `len` bytes from DPA `dpa` of LD `ld`. -/
  | tierPages (via : CmdPath) (ld : Fin 16) (dpa len : Nat) (promote : Bool)
  /-- NAME_GC_VICTIMS (R173). -/
  | nameGcVictims (via : CmdPath) (segs : List Nat)
  /-- PATROL_RANGE (R238). -/
  | patrolRange (via : CmdPath) (first last : Nat)
  /-- GET_TRAINING_RESULTS (R232). -/
  | getTrainingResults (via : CmdPath) (u : TrainUnit)
  /-- COMMIT_TRAINING_SETTINGS (R232): the settings as one word, and whether the read-back check passes with them. -/
  | commitTrainingSettings (via : CmdPath) (u : TrainUnit) (settings : Nat) (pass : Bool)
  /-- SET_REBUILD_RATE (R247). -/
  | setRebuildRate (via : CmdPath) (mibs : BitVec 16)
  /-- BLOCK_RESET (R440). -/
  | blockReset (via : CmdPath) (dom : BitVec 8)
  /-- WARM_RESET (Table 16.5). -/
  | warmReset (via : CmdPath)
  /-- COLD_RESET (Table 16.5). -/
  | coldReset (via : CmdPath)
  /-- INJECT_ROOT_KEY (R189, Table 16.6). -/
  | injectRootKey (via : CmdPath) (ld : BitVec 8) (rsvd : BitVec 24) (key : BitVec 256) (check : BitVec 32)
  /-- SET_LIFE_CYCLE_STATE (R213): `auth`: the vendor-signed authorisation, bound to the serial number, verifies. -/
  | setLifeCycleState (via : CmdPath) (target : LifeCycle) (auth : Bool)
  /-- SECURE_ERASE (R217). -/
  | secureErase (via : CmdPath)
  /-- SANITIZE (R217). -/
  | sanitize (via : CmdPath)
  /-- GET_FW_INFO (R471). -/
  | getFwInfo (via : CmdPath)
  /-- TRANSFER_FW (R471). -/
  | transferFw (via : CmdPath) (a : Transfer FwImage)
  /-- ACTIVATE_FW (R474): the slot numbered as Get FW Info does. -/
  | activateFw (via : CmdPath) (slot : Fin 4) (online : Bool)
  /-- FW_ACTIVATION_TIMEOUT (R474): `failed`: the new firmware fails its verification. -/
  | fwActivationTimeout (failed : Bool)
  /-- PLDM_REQUEST (R470). -/
  | pldmRequest (r : PldmRequest)
  /-- NEW_CAPACITY_REQUEST (R48): LD `ld` asks for `n` extents. -/
  | newCapacityRequest (ld : Fin 16) (n : Nat)
  /-- FEED_REVERSE_TURN_OFF (R384). -/
  | feedReverseTurnOff (f : Fin 2) (mv : Nat)
  /-- SWITCH_RAMP_DONE (R396). -/
  | switchRampDone (j : Fin 36)
  /-- RETRY_ATTEMPT_TIMEOUT (R398). -/
  | retryAttemptTimeout (j : Fin 36)
  /-- PWRGD_DEASSERTED (R395): the module bus in mV. -/
  | pwrgdDeasserted (bus : Nat)
  /-- DCC_COLUMN_COMMAND (R225): the banks that cannot accept a command now, and what the ECC finds at the access. -/
  | dccColumnCommand (u : Scheduler) (busy : List Nat) (ecc : Ecc)
  /-- OPEN_ROW_IDLE_CLOSE (R227). -/
  | openRowIdleClose (u : Scheduler) (bank : Nat)
  /-- STACK_PATROL_VISIT (R258): the stack location at the patrol's cursor, and what the error check found. -/
  | stackPatrolVisit (st : Fin 2) (err : StackErr)
  /-- FIRMWARE_BOOT_DONE (R444): `ok`: the firmware of the running slot verified. -/
  | firmwareBootDone (ok : Bool)
  /-- RECOVERY_FIRMWARE_IMAGE (R433). -/
  | recoveryFirmwareImage (img : FwImage)
  /-- IDE_KM_K_SET_GO (R52). -/
  | ideKmKSetGo (h : Fin 4) (st : IdeStream)
  /-- HEAT_EPOCH (R127); `errs`: descriptors read with bits in error (R115). -/
  | heatEpoch (errs : DescErrors := [])
  /-- JOURNAL_SEAM_DRAIN (R164). -/
  | journalSeamDrain
  /-- GC_START (R170). -/
  | gcStart
  /-- GC_HOST_FALLBACK (R173). -/
  | gcHostFallback
  /-- RATIO_RECOMPUTE (R178). -/
  | ratioRecompute
  /-- DISTRESS_STAGE_ENTRY (R180). -/
  | distressStageEntry
  /-- TACK_BORROW (R181). -/
  | tackBorrow
  /-- TACK_RETURN (R181). -/
  | tackReturn
  /-- DISTRESS_DEADLINE (R180). -/
  | distressDeadline
  /-- EXTENT_FREEZE (R182). -/
  | extentFreeze
  /-- TRNG_HEALTH_FAILURE (R190). -/
  | trngHealthFailure
  /-- OVERWRITE_DONE (R216); `failed`: the DIMMs (2 × channel + slot) on which a location did not read back as zeros. -/
  | overwriteDone (failed : List (Fin 32) := [])
  /-- ADMISSION_RERUN (R281). -/
  | admissionRerun
  /-- CINCH_RESTORE (R282). -/
  | cinchRestore
  /-- EXCESS_WINDOW (R284). -/
  | excessWindow
  /-- ROUTE_GUARD_EXPIRY (R300). -/
  | routeGuardExpiry
  /-- FIRST_REACTION_DONE (R341). -/
  | firstReactionDone
  /-- DOZE_ENTRY (R369). -/
  | dozeEntry
  /-- DOZE_EXIT (R370). -/
  | dozeExit
  /-- KEEP_ENTRY (R371). -/
  | keepEntry
  /-- KEEP_RELEASES_DONE (Table 12.8). -/
  | keepReleasesDone
  /-- KEEP_EXIT (R372). -/
  | keepExit
  /-- MAINTENANCE_BURST (R368). -/
  | maintenanceBurst
  /-- TRIP_RECORD_WRITE (R402). -/
  | tripRecordWrite
  /-- PLL_REACQUIRED (R415). -/
  | pllReacquired
  /-- CLOCK_FAILBACK (R416). -/
  | clockFailback
  /-- KEEP_CLOCK_FAIL (R420). -/
  | keepClockFail
  /-- FUSE_LOAD_HOLD (R449). -/
  | fuseLoadHold
  /-- LAYOUT_LOAD_ATTEMPT (R458). -/
  | layoutLoadAttempt
  /-- NV_PULSE_END (R451). -/
  | nvPulseEnd
  /-- CTM_INIT (R459). -/
  | ctmInit
  /-- TP7_OVERTEMP (R516). -/
  | tp7Overtemp
  /-- PMU_WINDOW_BOUNDARY (R484). -/
  | pmuWindowBoundary
  /-- FW_ACTIVATION_HANDOVER (Table 16.7). -/
  | fwActivationHandover
  /-- TRNG_HEALTH_TEST_PASS (R190). -/
  | trngHealthTestPass
  /-- TIME_SLEW_DONE (R425). -/
  | timeSlewDone
  deriving DecidableEq, Repr

end Sys2Proof
end

