-- ==== Sys2Proof/Machine/Crypto.lean ====
section
/-! DEFINITION. The checks and ciphers the spec names: CRC-16 and CRC-32C (R519), the field GF(2^8) of the seam code and
its RS(16,14) encoder and erasure decoder (R142, R174), AES-256, GCM (R197, R199), SHA-256 and the region-key derivation
(R193). All of it is plain arithmetic that can be evaluated. -/
namespace Sys2Proof.Crypto

/-! ### CRCs (R519) -/

/-- One byte fed into a CRC-16 with generator 0x1021, most significant bit first. -/
def crc16Byte (crc : Nat) (b : Byte) : Nat :=
  (List.range 8).foldl
    (fun c _ => if c.testBit 15 then ((c <<< 1) ^^^ 0x1021) % 65536 else (c <<< 1) % 65536)
    (crc ^^^ (b.toNat <<< 8))

/-- CRC-16, initial value 0xFFFF, nothing reflected, no final XOR (R519). -/
def crc16 (bs : List Byte) : Nat := bs.foldl crc16Byte 0xFFFF

/-- One byte fed into a CRC-32C (Castagnoli, reflected polynomial 0x82F63B78). -/
def crc32cByte (crc : Nat) (b : Byte) : Nat :=
  (List.range 8).foldl (fun c _ => if c.testBit 0 then (c >>> 1) ^^^ 0x82F63B78 else c >>> 1) (crc ^^^ b.toNat)

/-- CRC-32C continued from the value `seed` of the bytes before (0 for none). -/
def crc32cFrom (seed : Nat) (bs : List Byte) : Nat := (bs.foldl crc32cByte (seed ^^^ 0xFFFFFFFF)) ^^^ 0xFFFFFFFF

/-- CRC-32C of a byte string. -/
def crc32c (bs : List Byte) : Nat := crc32cFrom 0 bs

/-! ### GF(2^8) and the seam code (R142) -/

/-- Multiplication by x in GF(2^8) with the field polynomial `poly`. -/
def xtime (poly a : Nat) : Nat := if a.testBit 7 then ((a <<< 1) ^^^ poly) % 256 else (a <<< 1) % 256

/-- Multiplication in GF(2^8) with the field polynomial `poly`. -/
def gfMul (poly a b : Nat) : Nat :=
  ((List.range 8).foldl (fun (p : Nat × Nat) i => (if b.testBit i then p.1 ^^^ p.2 else p.1, xtime poly p.2)) (0, a)).1

/-- `a` to the power `n` in GF(2^8). -/
def gfPow (poly a : Nat) : Nat → Nat
  | 0 => 1
  | n + 1 => gfMul poly a (gfPow poly a n)

/-- The inverse in GF(2^8): the 254th power; the inverse of 0 is 0. -/
def gfInv (poly a : Nat) : Nat :=
  let a2 := gfMul poly a a
  let a3 := gfMul poly a2 a
  let a6 := gfMul poly a3 a3
  let a12 := gfMul poly a6 a6
  let a15 := gfMul poly a12 a3
  let a30 := gfMul poly a15 a15
  let a60 := gfMul poly a30 a30
  let a120 := gfMul poly a60 a60
  let a126 := gfMul poly a120 a6
  let a127 := gfMul poly a126 a
  gfMul poly a127 a127

/-- The field polynomial of the seam code (R142). -/
abbrev seamPoly : Nat := 0x11D

/-- The weight of symbol `i` in the second condition of R142: alpha to the power 15 - i. -/
def seamWeight (i : Nat) : Nat := gfPow seamPoly 2 (15 - i)

/-- XOR of a list of symbols. -/
def xorAll (l : List Nat) : Nat := l.foldl (· ^^^ ·) 0

/-- The two syndromes of sixteen symbols `c0 … c15` (R142): both 0 for a code word. -/
def syndromes (c : List Nat) : Nat × Nat :=
  (xorAll c, xorAll ((List.range 16).map (fun i => gfMul seamPoly (seamWeight i) (c.getD i 0))))

/-- The symbols at the erased positions `i ≠ j` that make both conditions of R142 hold, given the others (erased symbols
taken as 0 in `c`): ei + ej = S0, wi ei + wj ej = S1. -/
def solveTwo (c : List Nat) (i j : Nat) : Nat × Nat :=
  let z := (c.set i 0).set j 0
  let s := syndromes z
  let wi := seamWeight i
  let wj := seamWeight j
  let ei := gfMul seamPoly (s.2 ^^^ gfMul seamPoly wj s.1) (gfInv seamPoly (wi ^^^ wj))
  (ei, ei ^^^ s.1)

/-- The symbols with the erased positions `es` (at most two) reconstructed (R142, R174); none for three or more. -/
def recoverSymbols (c : List Nat) (es : List Nat) : Option (List Nat) :=
  match es with
  | [] => some c
  | [i] => let z := c.set i 0; some (z.set i (syndromes z).1)
  | [i, j] => let e := solveTwo c i j; some ((c.set i e.1).set j e.2)
  | _ => none

/-- The two parity symbols P0 and P1 of fourteen data symbols (R142). -/
def parityOf (d : List Nat) : Nat × Nat := solveTwo (d ++ [0, 0]) 14 15

/-- Symbol `j` of each stitch of a seam. -/
def symbolsAt (st : List Stitch) (j : Nat) : List Nat := st.map (fun v => (byteAt v j).toNat)

/-- A stitch from its 256 bytes. -/
def stitchOf (bs : List Nat) : Stitch := BitVec.ofNat 2048 (bs.foldr (fun b acc => b + 256 * acc) 0)

/-- The two parity stitches of fourteen data stitches (R142, byte by byte). -/
def seamParity (d : List Stitch) : Stitch × Stitch :=
  let ps := (List.range 256).map (fun j => parityOf (symbolsAt d j))
  (stitchOf (ps.map Prod.fst), stitchOf (ps.map Prod.snd))

/-- The sixteen stitches of a seam in code order (positions 0 to 13, then P0, P1) with the erased ones (none) rebuilt;
none where three or more are erased (R174, R175). -/
def seamRecover (st : List (Option Stitch)) : Option (List Stitch) :=
  let es := (List.range 16).filter (fun i => ((st.getD i none).isNone))
  if es.length > 2 then none
  else
    let cs := (List.range 16).map (fun i => (st.getD i none).getD 0)
    let cols := (List.range 256).map (fun j => (recoverSymbols (symbolsAt cs j) es).getD [])
    some ((List.range 16).map (fun i => stitchOf (cols.map (fun c => c.getD i 0))))

/-! ### AES-256 (FIPS 197) -/

/-- The field polynomial of AES. -/
abbrev aesPoly : Nat := 0x11B

/-- The AES S-box: inverse, then the affine map. -/
def sbox (b : Nat) : Nat :=
  let x := gfInv aesPoly b
  let rot := fun k => ((x <<< k) ||| (x >>> (8 - k))) % 256
  x ^^^ rot 1 ^^^ rot 2 ^^^ rot 3 ^^^ rot 4 ^^^ 0x63

/-- XOR of two byte lists. -/
def xorList (a b : List Nat) : List Nat := List.zipWith (· ^^^ ·) a b

/-- The key schedule's words from index `i` on, `n` of them still to make; `ws` holds the words so far. -/
def expandKey (ws : List (List Nat)) (i : Nat) : Nat → List (List Nat)
  | 0 => ws
  | n + 1 =>
    let p := ws.getD (i - 1) []
    let t := if i % 8 = 0 then xorList (((p.drop 1) ++ (p.take 1)).map sbox) [gfPow aesPoly 2 (i / 8 - 1), 0, 0, 0]
             else if i % 8 = 4 then p.map sbox else p
    expandKey (ws ++ [xorList (ws.getD (i - 8) []) t]) (i + 1) n

/-- The sixty words of the AES-256 key schedule. -/
def keySchedule (key : List Nat) : List (List Nat) :=
  expandKey ((List.range 8).map (fun i => (key.drop (4 * i)).take 4)) 8 52

/-- Round key `r`: 16 bytes. -/
def roundKey (ws : List (List Nat)) (r : Nat) : List Nat :=
  ws.getD (4 * r) [] ++ ws.getD (4 * r + 1) [] ++ ws.getD (4 * r + 2) [] ++ ws.getD (4 * r + 3) []

/-- ShiftRows on a column-major state. -/
def shiftRows (s : List Nat) : List Nat :=
  (List.range 16).map (fun i => s.getD ((i + 4 * (i % 4)) % 16) 0)

/-- MixColumns on one column. -/
def mixColumn (c : List Nat) : List Nat :=
  (List.range 4).map (fun i =>
    gfMul aesPoly 2 (c.getD i 0) ^^^ gfMul aesPoly 3 (c.getD ((i + 1) % 4) 0) ^^^ c.getD ((i + 2) % 4) 0 ^^^ c.getD ((i + 3) % 4) 0)

/-- MixColumns. -/
def mixColumns (s : List Nat) : List Nat :=
  mixColumn (s.take 4) ++ mixColumn ((s.drop 4).take 4) ++ mixColumn ((s.drop 8).take 4) ++ mixColumn ((s.drop 12).take 4)

/-- AES-256 of one 16 B block under a key schedule. -/
def aesBlock (ws : List (List Nat)) (blk : List Nat) : List Nat :=
  let s0 := xorList blk (roundKey ws 0)
  let s13 := (List.range 13).foldl (fun s r => xorList (mixColumns (shiftRows (s.map sbox))) (roundKey ws (r + 1))) s0
  xorList (shiftRows (s13.map sbox)) (roundKey ws 14)

/-! ### GCM (NIST SP 800-38D) -/

/-- The number that a byte list spells, most significant byte first. -/
def beNat (bs : List Nat) : Nat := bs.foldl (fun a b => a * 256 + b) 0

/-- The `n` bytes of a number, most significant byte first. -/
def beBytes (n v : Nat) : List Nat := (List.range n).map (fun i => v / 256 ^ (n - 1 - i) % 256)

/-- Multiplication in GF(2^128) in GCM's bit order. -/
def gmul128 (x y : Nat) : Nat :=
  ((List.range 128).foldl
    (fun (p : Nat × Nat) i =>
      (if x.testBit (127 - i) then p.1 ^^^ p.2 else p.1,
       if p.2.testBit 0 then (p.2 >>> 1) ^^^ (0xE1 <<< 120) else p.2 >>> 1)) (0, y)).1

/-- The 16 B blocks of a byte list, the last one filled with zeros; `n` bounds their number. -/
def blocks16 : Nat → List Nat → List (List Nat)
  | 0, _ => []
  | n + 1, l => if l.isEmpty then [] else ((l.take 16) ++ List.replicate (16 - (l.take 16).length) 0) :: blocks16 n (l.drop 16)

/-- GHASH of additional data and ciphertext under the hash key `h`. -/
def ghash (h : Nat) (aad ct : List Nat) : Nat :=
  let bs := blocks16 (aad.length + 1) aad ++ blocks16 (ct.length + 1) ct
    ++ [beBytes 8 (8 * aad.length) ++ beBytes 8 (8 * ct.length)]
  bs.foldl (fun y b => gmul128 (y ^^^ beNat b) h) 0

/-- The keystream of `n` blocks from counter block `iv ‖ c`. -/
def ctrStream (ws : List (List Nat)) (iv : List Nat) (c n : Nat) : List Nat :=
  (List.range n).foldr (fun i acc => aesBlock ws (iv ++ beBytes 4 (c + i)) ++ acc) []

/-- GCM with a 96-bit IV: the payload XORed with the keystream. Encryption and decryption are the same. -/
def gcmCrypt (key iv pt : List Nat) : List Nat :=
  let ws := keySchedule key
  xorList pt (ctrStream ws iv 2 (pt.length / 16 + 1))

/-- The 16 B GCM tag over additional data and ciphertext. -/
def gcmTag (key iv aad ct : List Nat) : List Nat :=
  let ws := keySchedule key
  let h := beNat (aesBlock ws (List.replicate 16 0))
  xorList (beBytes 16 (ghash h aad ct)) (aesBlock ws (iv ++ [0, 0, 0, 1]))

/-! ### SHA-256 and the key derivation (R193) -/

/-- The round constants of SHA-256. -/
def shaK : List Nat :=
  [0x428a2f98, 0x71374491, 0xb5c0fbcf, 0xe9b5dba5, 0x3956c25b, 0x59f111f1, 0x923f82a4, 0xab1c5ed5]
  ++ [0xd807aa98, 0x12835b01, 0x243185be, 0x550c7dc3, 0x72be5d74, 0x80deb1fe, 0x9bdc06a7, 0xc19bf174]
  ++ [0xe49b69c1, 0xefbe4786, 0x0fc19dc6, 0x240ca1cc, 0x2de92c6f, 0x4a7484aa, 0x5cb0a9dc, 0x76f988da]
  ++ [0x983e5152, 0xa831c66d, 0xb00327c8, 0xbf597fc7, 0xc6e00bf3, 0xd5a79147, 0x06ca6351, 0x14292967]
  ++ [0x27b70a85, 0x2e1b2138, 0x4d2c6dfc, 0x53380d13, 0x650a7354, 0x766a0abb, 0x81c2c92e, 0x92722c85]
  ++ [0xa2bfe8a1, 0xa81a664b, 0xc24b8b70, 0xc76c51a3, 0xd192e819, 0xd6990624, 0xf40e3585, 0x106aa070]
  ++ [0x19a4c116, 0x1e376c08, 0x2748774c, 0x34b0bcb5, 0x391c0cb3, 0x4ed8aa4a, 0x5b9cca4f, 0x682e6ff3]
  ++ [0x748f82ee, 0x78a5636f, 0x84c87814, 0x8cc70208, 0x90befffa, 0xa4506ceb, 0xbef9a3f7, 0xc67178f2]

/-- The initial hash value of SHA-256. -/
def shaInit : List Nat := [0x6a09e667, 0xbb67ae85, 0x3c6ef372, 0xa54ff53a, 0x510e527f, 0x9b05688c, 0x1f83d9ab, 0x5be0cd19]

/-- Rotation of a 32-bit word to the right. -/
def ror32 (x n : Nat) : Nat := ((x >>> n) ||| (x <<< (32 - n))) % 2 ^ 32

/-- The message schedule from word `i` on, `n` words still to make. -/
def shaSchedule (w : List Nat) (i : Nat) : Nat → List Nat
  | 0 => w
  | n + 1 =>
    let g := fun k => w.getD (i - k) 0
    let s0 := ror32 (g 15) 7 ^^^ ror32 (g 15) 18 ^^^ (g 15 >>> 3)
    let s1 := ror32 (g 2) 17 ^^^ ror32 (g 2) 19 ^^^ (g 2 >>> 10)
    shaSchedule (w ++ [(g 16 + s0 + g 7 + s1) % 2 ^ 32]) (i + 1) n

/-- One round of SHA-256 on the eight working variables. -/
def shaRound (v : List Nat) (kw : Nat) : List Nat :=
  let g := fun i => v.getD i 0
  let s1 := ror32 (g 4) 6 ^^^ ror32 (g 4) 11 ^^^ ror32 (g 4) 25
  let ch := (g 4 &&& g 5) ^^^ ((2 ^ 32 - 1 - g 4) &&& g 6)
  let t1 := g 7 + s1 + ch + kw
  let s0 := ror32 (g 0) 2 ^^^ ror32 (g 0) 13 ^^^ ror32 (g 0) 22
  let maj := (g 0 &&& g 1) ^^^ (g 0 &&& g 2) ^^^ (g 1 &&& g 2)
  [(t1 + s0 + maj) % 2 ^ 32, g 0, g 1, g 2, (g 3 + t1) % 2 ^ 32, g 4, g 5, g 6]

/-- One 64 B block of SHA-256. -/
def shaBlock (h : List Nat) (blk : List Nat) : List Nat :=
  let w := shaSchedule ((List.range 16).map (fun i => beNat ((blk.drop (4 * i)).take 4))) 16 48
  let v := (List.range 64).foldl (fun v i => shaRound v (shaK.getD i 0 + w.getD i 0)) h
  List.zipWith (fun a b => (a + b) % 2 ^ 32) h v

/-- `n` blocks of SHA-256 over padded bytes. -/
def shaBlocks (h : List Nat) (bs : List Nat) : Nat → List Nat
  | 0 => h
  | n + 1 => shaBlocks (shaBlock h (bs.take 64)) (bs.drop 64) n

/-- SHA-256 of a byte string. -/
def sha256 (m : List Nat) : List Nat :=
  let pad := (119 - m.length % 64) % 64
  let p := m ++ [0x80] ++ List.replicate pad 0 ++ beBytes 8 (8 * m.length)
  (shaBlocks shaInit p (p.length / 64)).flatMap (beBytes 4)

/-- HMAC-SHA-256 for keys of at most 64 B. -/
def hmacSha256 (key m : List Nat) : List Nat :=
  let k := key ++ List.replicate (64 - key.length) 0
  sha256 (k.map (· ^^^ 0x5C) ++ sha256 (k.map (· ^^^ 0x36) ++ m))

/-- The region key of LD `ld`, region `ridx`, epoch `ep` under a root key (R193). -/
def regionKey (root : List Nat) (ld ridx ep : Nat) : List Nat :=
  hmacSha256 root ([0, 0, 0, 1] ++ [0x4B, 0x4C, 0x52, 0x47, 0x4E] ++ [0] ++ beBytes 1 ld ++ beBytes 4 ridx ++ beBytes 4 ep
    ++ [0, 0, 1, 0])

/-- The bytes of a 256-bit key, byte 0 first. -/
def keyBytes (k : BitVec 256) : List Nat := (bytesOf k 32).map BitVec.toNat

end Sys2Proof.Crypto
end

