-- ==== Sys2Proof/Config.lean ====
section
/-! DEFINITION. What the spec leaves open, as constants with no body. Nothing can evaluate them, so a statement holds for every value
they might have. -/
namespace Sys2Proof.Config

/-- A value the spec leaves open, `w` bits wide, taken at the counter `n` of State.free (log entries 3 and 12 to 16). -/
opaque freeValue (w n : Nat) : BitVec w

/-- A token of Page LZ (Table 5.3): a byte, or a match of `len` bytes that lies `dist` bytes back. -/
inductive LzToken where
  | lit (b : BitVec 8)
  | copy (len dist : Nat)
  deriving DecidableEq, Repr

/-- The tokens that the compressor chooses for the bytes of a page: Table 5.3 fixes what tokens may be, not which are chosen (log entry 4). -/
opaque lzTokens (page : List Nat) : List LzToken

/-- The prefix code of ALG 1: the bytes that tokens are coded in. The spec names the method and not the code (log entry 4). -/
opaque lzPack (ts : List LzToken) : List Nat

/-- The tokens that coded bytes spell; none where they spell none (log entry 4). -/
opaque lzUnpack (enc : List Nat) : Option (List LzToken)

/-- The DevLoad that a response reports for the levels of the buckets of the requester's class: Table 2.3 gives no mapping (log entry 89). -/
opaque devLoad (levels : List (Int × Int)) : BitVec 2

/-- The SHA-384 digest of a layout image's bytes (R456). Images are held as what they say, not as bytes (log entry 5). -/
opaque layoutDigest (img : LayoutImage) : BitVec 384

/-- Whether the ECDSA P-384 signature of a layout image verifies under the key it names (R456, log entry 5). -/
opaque layoutSigned (img : LayoutImage) : Bool

/-- Whether the signature of a firmware image verifies (R471, log entry 5). -/
opaque fwSigned (img : FwImage) : Bool

end Sys2Proof.Config
end

