-- ==== Sys2Proof/Machine/Mem.lean ====
section
/-! DEFINITION. Sparse stores as plain data: a list of (key, value) pairs in one canonical form (keys strictly rising,
no entry equal to what an unlisted key reads as). Every store of State that the spec indexes by an address or an
instance number (registers, stitches, frame lines, map entries, per-instance blocks) has this form. -/
namespace Sys2Proof

/-- A sparse store: keys strictly rising, no entry at its default. -/
abbrev SMap (α : Type) := List (Nat × α)

/-- What key `x` holds; `d` is what an unlisted key reads as. -/
def SMap.get {α : Type} (d : α) : SMap α → Nat → α
  | [], _ => d
  | (k, v) :: m, x => if x = k then v else SMap.get d m x

/-- Key `x` with value `v` listed before the first greater key. -/
def SMap.insert {α : Type} : SMap α → Nat → α → SMap α
  | [], x, v => [(x, v)]
  | (k, w) :: m, x, v => if x < k then (x, v) :: (k, w) :: m else (k, w) :: SMap.insert m x v

/-- Key `x` set to `v`; an entry equal to the default `d` of its key is not listed. -/
def SMap.put {α : Type} [DecidableEq α] (d : α) (m : SMap α) (x : Nat) (v : α) : SMap α :=
  let rest := m.filter fun e => e.1 != x
  if v = d then rest else SMap.insert rest x v

/-- Key `x` changed by `f`. -/
def SMap.upd {α : Type} [DecidableEq α] (d : α) (m : SMap α) (x : Nat) (f : α → α) : SMap α :=
  SMap.put d m x (f (SMap.get d m x))

/-- The listed keys. -/
def SMap.keys {α : Type} (m : SMap α) : List Nat := m.map Prod.fst

/-- Only the entries whose key satisfies `p` stay listed; the others read as their default. -/
def SMap.keep {α : Type} (p : Nat → Bool) (m : SMap α) : SMap α := m.filter (fun e => p e.1)

/-- Every listed entry changed by `f`; entries that come out at their default `d` are no longer listed. -/
def SMap.mapAll {α : Type} [DecidableEq α] (d : Nat → α) (f : Nat → α → α) : SMap α → SMap α
  | [] => []
  | (k, v) :: m => if f k v = d k then SMap.mapAll d f m else (k, f k v) :: SMap.mapAll d f m

/-- The keys of `m` all lie above `lo` and rise strictly. -/
def SMap.risingFrom {α : Type} (lo : Nat) : SMap α → Bool
  | [] => true
  | (k, _) :: m => decide (lo ≤ k) && SMap.risingFrom (k + 1) m

/-- The canonical form: keys strictly rising, no entry at its default. -/
def SMap.wf {α : Type} [DecidableEq α] (d : Nat → α) (m : SMap α) : Bool :=
  SMap.risingFrom 0 m && m.all (fun e => decide (e.2 ≠ d e.1))

end Sys2Proof
end

