-- ==== Sys2Proof/Machine/RegTable.lean ====
section
/-! DEFINITION. The BAR2 register map (Tables 18.2 and 18.3 and every chapter's register and field tables): one address
function per register, one field reference per field, and the table of reset values and access masks that R13 to R15
act on. Registers with more than one instance take the instance `i`; arrays take the index `j`. -/
namespace Sys2Proof.Reg

/-- A field of a register: its BAR2 offset, lowest bit and width. -/
structure FRef where
  addr : Nat
  lo : Nat
  w : Nat
  deriving DecidableEq, Repr

/-- One row of the register map. The masks give the bits of each access type (Table 0.4) and the bits that a reset keeps:
`keepLow` at Levels 1 to 3, `keep4` at Level 4, `keep5` at Level 5 (R14, R434, R435). `rst` is the reset value of instance `i`,
index `j`. -/
structure Row where
  name : String
  base : Nat
  count : Nat
  stride : Nat
  inst : Nat
  istride : Nat
  rst : Nat → Nat → Nat
  rw : Nat
  rws : Nat
  wo : Nat
  w1c : Nat
  keepLow : Nat
  keep4 : Nat
  keep5 : Nat

/-- Head configuration register (HPA_CFG), 02: BAR2 offset. -/
def HPA_CFG (i : Nat) : Nat := 0x160000 + 0x4000 * i
def HPA_CFG_LD_MASK (i : Nat) : FRef := ⟨(HPA_CFG i), 8, 16⟩
def HPA_CFG_PRESENT (i : Nat) : FRef := ⟨(HPA_CFG i), 2, 1⟩
def HPA_CFG_SPLIT (i : Nat) : FRef := ⟨(HPA_CFG i), 0, 2⟩
/-- Head control register (HPA_CTL), 02: BAR2 offset. -/
def HPA_CTL (i : Nat) : Nat := 0x160004 + 0x4000 * i
def HPA_CTL_FALLBACK_THR (i : Nat) : FRef := ⟨(HPA_CTL i), 8, 8⟩
def HPA_CTL_L1_EN (i : Nat) : FRef := ⟨(HPA_CTL i), 7, 1⟩
def HPA_CTL_L0P_EN (i : Nat) : FRef := ⟨(HPA_CTL i), 6, 1⟩
def HPA_CTL_LOPT_EN (i : Nat) : FRef := ⟨(HPA_CTL i), 5, 1⟩
def HPA_CTL_RETRY_RATE (i : Nat) : FRef := ⟨(HPA_CTL i), 4, 1⟩
def HPA_CTL_RATE_MAX (i : Nat) : FRef := ⟨(HPA_CTL i), 1, 3⟩
def HPA_CTL_LINK_EN (i : Nat) : FRef := ⟨(HPA_CTL i), 0, 1⟩
/-- Link status register (HPA_LINK_STS), 02: BAR2 offset. -/
def HPA_LINK_STS (i : Nat) : Nat := 0x160008 + 0x4000 * i
def HPA_LINK_STS_CAP_ERR (i : Nat) : FRef := ⟨(HPA_LINK_STS i), 15, 1⟩
def HPA_LINK_STS_CAP_LOSS (i : Nat) : FRef := ⟨(HPA_LINK_STS i), 14, 1⟩
def HPA_LINK_STS_RETIMERS (i : Nat) : FRef := ⟨(HPA_LINK_STS i), 12, 2⟩
def HPA_LINK_STS_VIRAL (i : Nat) : FRef := ⟨(HPA_LINK_STS i), 11, 1⟩
def HPA_LINK_STS_CXL_MEM (i : Nat) : FRef := ⟨(HPA_LINK_STS i), 10, 1⟩
def HPA_LINK_STS_FLIT_LOPT (i : Nat) : FRef := ⟨(HPA_LINK_STS i), 9, 1⟩
def HPA_LINK_STS_WIDTH (i : Nat) : FRef := ⟨(HPA_LINK_STS i), 4, 5⟩
def HPA_LINK_STS_RATE (i : Nat) : FRef := ⟨(HPA_LINK_STS i), 1, 3⟩
def HPA_LINK_STS_UP (i : Nat) : FRef := ⟨(HPA_LINK_STS i), 0, 1⟩
/-- Link-partner capabilities register (HPA_PARTNER), 02: BAR2 offset. -/
def HPA_PARTNER (i : Nat) : Nat := 0x16000C + 0x4000 * i
def HPA_PARTNER_CXL_VER (i : Nat) : FRef := ⟨(HPA_PARTNER i), 12, 4⟩
def HPA_PARTNER_PTM (i : Nat) : FRef := ⟨(HPA_PARTNER i), 8, 1⟩
def HPA_PARTNER_IDE (i : Nat) : FRef := ⟨(HPA_PARTNER i), 7, 1⟩
def HPA_PARTNER_SWITCH (i : Nat) : FRef := ⟨(HPA_PARTNER i), 6, 1⟩
def HPA_PARTNER_LOPT (i : Nat) : FRef := ⟨(HPA_PARTNER i), 5, 1⟩
def HPA_PARTNER_FLIT (i : Nat) : FRef := ⟨(HPA_PARTNER i), 4, 1⟩
def HPA_PARTNER_RATES (i : Nat) : FRef := ⟨(HPA_PARTNER i), 0, 4⟩
/-- Cable measurement register (HPA_CABLE), 02: BAR2 offset. -/
def HPA_CABLE (i : Nat) : Nat := 0x160010 + 0x4000 * i
def HPA_CABLE_RATE_LIMIT (i : Nat) : FRef := ⟨(HPA_CABLE i), 17, 3⟩
def HPA_CABLE_ID_VALID (i : Nat) : FRef := ⟨(HPA_CABLE i), 16, 1⟩
def HPA_CABLE_LENGTH (i : Nat) : FRef := ⟨(HPA_CABLE i), 8, 8⟩
def HPA_CABLE_LOSS (i : Nat) : FRef := ⟨(HPA_CABLE i), 0, 8⟩
/-- Host latency tolerance register (HPA_LAT_TOL), 02: BAR2 offset. -/
def HPA_LAT_TOL (i : Nat) : Nat := 0x160014 + 0x4000 * i
def HPA_LAT_TOL_TOL_NS (i : Nat) : FRef := ⟨(HPA_LAT_TOL i), 0, 32⟩
/-- Transaction epoch register (HPA_EPOCH), 02: BAR2 offset. -/
def HPA_EPOCH (i : Nat) : Nat := 0x160018 + 0x4000 * i
def HPA_EPOCH_EPOCH (i : Nat) : FRef := ⟨(HPA_EPOCH i), 0, 8⟩
/-- Presented logical devices register (HPA_LD_ACT), 02: BAR2 offset. -/
def HPA_LD_ACT (i : Nat) : Nat := 0x16001C + 0x4000 * i
def HPA_LD_ACT_LD_ACTIVE (i : Nat) : FRef := ⟨(HPA_LD_ACT i), 0, 16⟩
/-- Holding-pen configuration register (HPA_PEN_CFG), 02: BAR2 offset. -/
def HPA_PEN_CFG (i : Nat) : Nat := 0x160020 + 0x4000 * i
def HPA_PEN_CFG_LIMIT (i : Nat) : FRef := ⟨(HPA_PEN_CFG i), 16, 8⟩
def HPA_PEN_CFG_ENTRIES (i : Nat) : FRef := ⟨(HPA_PEN_CFG i), 0, 16⟩
/-- Holding-pen status register (HPA_PEN_STS), 02: BAR2 offset. -/
def HPA_PEN_STS (i : Nat) : Nat := 0x160024 + 0x4000 * i
def HPA_PEN_STS_TICKETS (i : Nat) : FRef := ⟨(HPA_PEN_STS i), 16, 16⟩
def HPA_PEN_STS_OCC (i : Nat) : FRef := ⟨(HPA_PEN_STS i), 0, 16⟩
/-- Holding-pen expiries register (HPA_PEN_EXP), 02: BAR2 offset. -/
def HPA_PEN_EXP (i : Nat) : Nat := 0x160028 + 0x4000 * i
def HPA_PEN_EXP_WRITE_EXP (i : Nat) : FRef := ⟨(HPA_PEN_EXP i), 16, 16⟩
def HPA_PEN_EXP_READ_EXP (i : Nat) : FRef := ⟨(HPA_PEN_EXP i), 0, 16⟩
/-- FEC corrections register (HPA_FEC_CNT), 02: BAR2 offset. -/
def HPA_FEC_CNT (i : Nat) : Nat := 0x160030 + 0x4000 * i
def HPA_FEC_CNT_COUNT (i : Nat) : FRef := ⟨(HPA_FEC_CNT i), 0, 32⟩
/-- Flit replays register (HPA_REPLAY_CNT), 02: BAR2 offset. -/
def HPA_REPLAY_CNT (i : Nat) : Nat := 0x160034 + 0x4000 * i
def HPA_REPLAY_CNT_COUNT (i : Nat) : FRef := ⟨(HPA_REPLAY_CNT i), 0, 32⟩
/-- Recoveries, fallbacks and link-downs register (HPA_RECOV), 02: BAR2 offset. -/
def HPA_RECOV (i : Nat) : Nat := 0x160038 + 0x4000 * i
def HPA_RECOV_LINK_DOWNS (i : Nat) : FRef := ⟨(HPA_RECOV i), 24, 8⟩
def HPA_RECOV_FALLBACKS (i : Nat) : FRef := ⟨(HPA_RECOV i), 16, 8⟩
def HPA_RECOV_RECOVERIES (i : Nat) : FRef := ⟨(HPA_RECOV i), 0, 16⟩
/-- Stale replies discarded register (HPA_STALE_CNT), 02: BAR2 offset. -/
def HPA_STALE_CNT (i : Nat) : Nat := 0x16003C + 0x4000 * i
def HPA_STALE_CNT_COUNT (i : Nat) : FRef := ⟨(HPA_STALE_CNT i), 0, 32⟩
/-- IDE status register (HPA_IDE_STS), 02: BAR2 offset. -/
def HPA_IDE_STS (i : Nat) : Nat := 0x160040 + 0x4000 * i
def HPA_IDE_STS_CONTAIN (i : Nat) : FRef := ⟨(HPA_IDE_STS i), 16, 1⟩
def HPA_IDE_STS_REFUSED (i : Nat) : FRef := ⟨(HPA_IDE_STS i), 8, 8⟩
def HPA_IDE_STS_IO_KEY_LOCK (i : Nat) : FRef := ⟨(HPA_IDE_STS i), 5, 1⟩
def HPA_IDE_STS_MEM_KEY_LOCK (i : Nat) : FRef := ⟨(HPA_IDE_STS i), 4, 1⟩
def HPA_IDE_STS_IO_STATE (i : Nat) : FRef := ⟨(HPA_IDE_STS i), 2, 2⟩
def HPA_IDE_STS_MEM_STATE (i : Nat) : FRef := ⟨(HPA_IDE_STS i), 0, 2⟩
/-- Slice status register (HSL_STS), 03: BAR2 offset. -/
def HSL_STS (i : Nat) : Nat := 0xC0000 + 0x1000 * i
def HSL_STS_ENTRY2 (i : Nat) : FRef := ⟨(HSL_STS i), 16, 5⟩
def HSL_STS_ENTRY (i : Nat) : FRef := ⟨(HSL_STS i), 8, 5⟩
def HSL_STS_ROLE (i : Nat) : FRef := ⟨(HSL_STS i), 0, 2⟩
/-- Snoop-filter occupancy register (HSL_SF_OCC), 03: BAR2 offset. -/
def HSL_SF_OCC (i : Nat) : Nat := 0xC0004 + 0x1000 * i
def HSL_SF_OCC_OCC (i : Nat) : FRef := ⟨(HSL_SF_OCC i), 0, 19⟩
/-- Snoop-filter capacity evictions register (HSL_SF_EVICT), 03: BAR2 offset. -/
def HSL_SF_EVICT (i : Nat) : Nat := 0xC0008 + 0x1000 * i
def HSL_SF_EVICT_COUNT (i : Nat) : FRef := ⟨(HSL_SF_EVICT i), 0, 32⟩
/-- Back-invalidation snoops sent register (HSL_BI_CNT), 03: BAR2 offset. -/
def HSL_BI_CNT (i : Nat) : Nat := 0xC000C + 0x1000 * i
def HSL_BI_CNT_COUNT (i : Nat) : FRef := ⟨(HSL_BI_CNT i), 0, 32⟩
/-- Snoop timeouts and late responses register (HSL_BI_TMO), 03: BAR2 offset. -/
def HSL_BI_TMO (i : Nat) : Nat := 0xC0010 + 0x1000 * i
def HSL_BI_TMO_LATE (i : Nat) : FRef := ⟨(HSL_BI_TMO i), 16, 16⟩
def HSL_BI_TMO_TIMEOUTS (i : Nat) : FRef := ⟨(HSL_BI_TMO i), 0, 16⟩
/-- NACKs sent register (HSL_NACK_CNT), 03: BAR2 offset. -/
def HSL_NACK_CNT (i : Nat) : Nat := 0xC0014 + 0x1000 * i
def HSL_NACK_CNT_COUNT (i : Nat) : FRef := ⟨(HSL_NACK_CNT i), 0, 32⟩
/-- Ticket status register (HSL_TKT_STS), 03: BAR2 offset. -/
def HSL_TKT_STS (i : Nat) : Nat := 0xC0018 + 0x1000 * i
def HSL_TKT_STS_FORFEIT (i : Nat) : FRef := ⟨(HSL_TKT_STS i), 16, 16⟩
def HSL_TKT_STS_ACTIVE (i : Nat) : FRef := ⟨(HSL_TKT_STS i), 0, 9⟩
/-- Ticket-table full NACKs register (HSL_TKT_FULL), 03: BAR2 offset. -/
def HSL_TKT_FULL (i : Nat) : Nat := 0xC001C + 0x1000 * i
def HSL_TKT_FULL_COUNT (i : Nat) : FRef := ⟨(HSL_TKT_FULL i), 0, 32⟩
/-- Atomics executed register (HSL_ATOM_CNT), 03: BAR2 offset. -/
def HSL_ATOM_CNT (i : Nat) : Nat := 0xC0020 + 0x1000 * i
def HSL_ATOM_CNT_COUNT (i : Nat) : FRef := ⟨(HSL_ATOM_CNT i), 0, 32⟩
/-- Lines poisoned register (HSL_POISON), 03: BAR2 offset. -/
def HSL_POISON (i : Nat) : Nat := 0xC0024 + 0x1000 * i
def HSL_POISON_TEARDOWN (i : Nat) : FRef := ⟨(HSL_POISON i), 16, 16⟩
def HSL_POISON_TIMEOUT (i : Nat) : FRef := ⟨(HSL_POISON i), 0, 16⟩
/-- Eviction–snoop crossings register (HSL_XCROSS), 03: BAR2 offset. -/
def HSL_XCROSS (i : Nat) : Nat := 0xC0028 + 0x1000 * i
def HSL_XCROSS_COUNT (i : Nat) : FRef := ⟨(HSL_XCROSS i), 0, 32⟩
/-- Transaction and mirror occupancy register (HSL_TXM_STS), 03: BAR2 offset. -/
def HSL_TXM_STS (i : Nat) : Nat := 0xC002C + 0x1000 * i
def HSL_TXM_STS_MIRROR (i : Nat) : FRef := ⟨(HSL_TXM_STS i), 16, 10⟩
def HSL_TXM_STS_OPEN (i : Nat) : FRef := ⟨(HSL_TXM_STS i), 0, 10⟩
/-- Slice remap table entry (HSC_REMAP), 03: BAR2 offset. -/
def HSC_REMAP (j : Nat) : Nat := 0xF0000 + 0x4 * j
def HSC_REMAP_SLICE (j : Nat) : FRef := ⟨(HSC_REMAP j), 0, 6⟩
/-- Spare slices register (HSC_SPARE), 03: BAR2 offset. -/
def HSC_SPARE : Nat := 0xF0080
def HSC_SPARE_FREE1 : FRef := ⟨HSC_SPARE, 17, 1⟩
def HSC_SPARE_FREE0 : FRef := ⟨HSC_SPARE, 16, 1⟩
def HSC_SPARE_SPARE1 : FRef := ⟨HSC_SPARE, 8, 6⟩
def HSC_SPARE_SPARE0 : FRef := ⟨HSC_SPARE, 0, 6⟩
/-- Back-invalidation configuration register (HSC_BI_CFG), 03: BAR2 offset. -/
def HSC_BI_CFG : Nat := 0xF0084
def HSC_BI_CFG_TMO_US : FRef := ⟨HSC_BI_CFG, 0, 10⟩
/-- Atomic window register (HSC_AWIN), 03: BAR2 offset. -/
def HSC_AWIN (j : Nat) : Nat := 0xF0100 + 0x4 * j
def HSC_AWIN_DPA_GIB (j : Nat) : FRef := ⟨(HSC_AWIN j), 8, 24⟩
def HSC_AWIN_LD (j : Nat) : FRef := ⟨(HSC_AWIN j), 4, 4⟩
def HSC_AWIN_EN (j : Nat) : FRef := ⟨(HSC_AWIN j), 0, 1⟩
/-- Stack status register (HTC_STS), 04: BAR2 offset. -/
def HTC_STS (i : Nat) : Nat := 0xA0000 + 0x10000 * i
def HTC_STS_UNMIRRORED (i : Nat) : FRef := ⟨(HTC_STS i), 16, 16⟩
def HTC_STS_GRP_FENCED (i : Nat) : FRef := ⟨(HTC_STS i), 8, 8⟩
def HTC_STS_SINGLE (i : Nat) : FRef := ⟨(HTC_STS i), 2, 1⟩
def HTC_STS_FENCED (i : Nat) : FRef := ⟨(HTC_STS i), 1, 1⟩
def HTC_STS_READY (i : Nat) : FRef := ⟨(HTC_STS i), 0, 1⟩
/-- Free keep frames register (HTC_FREE_KEEP), 04: BAR2 offset. -/
def HTC_FREE_KEEP (i : Nat) : Nat := 0xA0004 + 0x10000 * i
def HTC_FREE_KEEP_COUNT (i : Nat) : FRef := ⟨(HTC_FREE_KEEP i), 0, 22⟩
/-- Free shed frames register (HTC_FREE_SHED), 04: BAR2 offset. -/
def HTC_FREE_SHED (i : Nat) : Nat := 0xA0008 + 0x10000 * i
def HTC_FREE_SHED_COUNT (i : Nat) : FRef := ⟨(HTC_FREE_SHED i), 0, 23⟩
/-- Dirty primary frames register (HTC_PRIM_DIRTY), 04: BAR2 offset. -/
def HTC_PRIM_DIRTY (i : Nat) : Nat := 0xA000C + 0x10000 * i
def HTC_PRIM_DIRTY_COUNT (i : Nat) : FRef := ⟨(HTC_PRIM_DIRTY i), 0, 22⟩
/-- Mirror frames register (HTC_MIRROR), 04: BAR2 offset. -/
def HTC_MIRROR (i : Nat) : Nat := 0xA0010 + 0x10000 * i
def HTC_MIRROR_COUNT (i : Nat) : FRef := ⟨(HTC_MIRROR i), 0, 22⟩
/-- Map-cache hits register (HTC_MAPC_HIT), 04: BAR2 offset. -/
def HTC_MAPC_HIT (i : Nat) : Nat := 0xA0014 + 0x10000 * i
def HTC_MAPC_HIT_COUNT (i : Nat) : FRef := ⟨(HTC_MAPC_HIT i), 0, 32⟩
/-- Map-cache misses register (HTC_MAPC_MISS), 04: BAR2 offset. -/
def HTC_MAPC_MISS (i : Nat) : Nat := 0xA0018 + 0x10000 * i
def HTC_MAPC_MISS_COUNT (i : Nat) : FRef := ⟨(HTC_MAPC_MISS i), 0, 32⟩
/-- Stack ECC errors register (HTC_ECC), 04: BAR2 offset. -/
def HTC_ECC (i : Nat) : Nat := 0xA001C + 0x10000 * i
def HTC_ECC_UNCORR (i : Nat) : FRef := ⟨(HTC_ECC i), 16, 16⟩
def HTC_ECC_CORR (i : Nat) : FRef := ⟨(HTC_ECC i), 0, 16⟩
/-- Retired frames register (HTC_RETIRED), 04: BAR2 offset. -/
def HTC_RETIRED (i : Nat) : Nat := 0xA0020 + 0x10000 * i
def HTC_RETIRED_COUNT (i : Nat) : FRef := ⟨(HTC_RETIRED i), 0, 23⟩
/-- Tiering configuration register (HTM_TIER_CFG), 04: BAR2 offset. -/
def HTM_TIER_CFG : Nat := 0xA8000
def HTM_TIER_CFG_SHED_HIGH : FRef := ⟨HTM_TIER_CFG, 24, 8⟩
def HTM_TIER_CFG_SHED_LOW : FRef := ⟨HTM_TIER_CFG, 16, 8⟩
def HTM_TIER_CFG_PROMO_THR : FRef := ⟨HTM_TIER_CFG, 8, 4⟩
def HTM_TIER_CFG_MODE_ACT : FRef := ⟨HTM_TIER_CFG, 1, 1⟩
def HTM_TIER_CFG_MODE : FRef := ⟨HTM_TIER_CFG, 0, 1⟩
/-- Dirty budget configuration register (HTM_DIRTY_CFG), 04: BAR2 offset. -/
def HTM_DIRTY_CFG : Nat := 0xA8004
def HTM_DIRTY_CFG_AGE_MS : FRef := ⟨HTM_DIRTY_CFG, 16, 16⟩
def HTM_DIRTY_CFG_LIMIT : FRef := ⟨HTM_DIRTY_CFG, 8, 8⟩
def HTM_DIRTY_CFG_HIGH_WM : FRef := ⟨HTM_DIRTY_CFG, 0, 8⟩
/-- Heat configuration register (HTM_HEAT_CFG), 04: BAR2 offset. -/
def HTM_HEAT_CFG : Nat := 0xA8008
def HTM_HEAT_CFG_EPOCH_MS : FRef := ⟨HTM_HEAT_CFG, 16, 16⟩
def HTM_HEAT_CFG_EPOCH : FRef := ⟨HTM_HEAT_CFG, 0, 4⟩
/-- Dirty pages register (HTM_DIRTY_PAGES), 04: BAR2 offset. -/
def HTM_DIRTY_PAGES : Nat := 0xA800C
def HTM_DIRTY_PAGES_COUNT : FRef := ⟨HTM_DIRTY_PAGES, 0, 22⟩
/-- Pinned pages register (HTM_PIN_PAGES), 04: BAR2 offset. -/
def HTM_PIN_PAGES : Nat := 0xA8010
def HTM_PIN_PAGES_COUNT : FRef := ⟨HTM_PIN_PAGES, 0, 24⟩
/-- Promotions committed register (HTM_PROMO_CNT), 04: BAR2 offset. -/
def HTM_PROMO_CNT : Nat := 0xA8014
def HTM_PROMO_CNT_COUNT : FRef := ⟨HTM_PROMO_CNT, 0, 32⟩
/-- Frame releases committed register (HTM_DEMO_CNT), 04: BAR2 offset. -/
def HTM_DEMO_CNT : Nat := 0xA8018
def HTM_DEMO_CNT_COUNT : FRef := ⟨HTM_DEMO_CNT, 0, 32⟩
/-- Writes held for frames register (HTM_ALLOC_STALL), 04: BAR2 offset. -/
def HTM_ALLOC_STALL : Nat := 0xA801C
def HTM_ALLOC_STALL_COUNT : FRef := ⟨HTM_ALLOC_STALL, 0, 32⟩
/-- Promotions skipped register (HTM_SKIP), 04: BAR2 offset. -/
def HTM_SKIP : Nat := 0xA8020
def HTM_SKIP_COUNT : FRef := ⟨HTM_SKIP, 0, 32⟩
/-- Cold-tier status register (CTM_STS), 05: BAR2 offset. -/
def CTM_STS : Nat := 0x90000
def CTM_STS_JRNL_STALL : FRef := ⟨CTM_STS, 4, 1⟩
def CTM_STS_DEGRADED_OPEN : FRef := ⟨CTM_STS, 3, 1⟩
def CTM_STS_GC_ACTIVE : FRef := ⟨CTM_STS, 2, 1⟩
def CTM_STS_RECOVERING : FRef := ⟨CTM_STS, 1, 1⟩
def CTM_STS_READY : FRef := ⟨CTM_STS, 0, 1⟩
/-- Garbage-collection configuration register (CTM_GC_CFG), 05: BAR2 offset. -/
def CTM_GC_CFG : Nat := 0x90004
def CTM_GC_CFG_CRIT : FRef := ⟨CTM_GC_CFG, 24, 8⟩
def CTM_GC_CFG_HIGH : FRef := ⟨CTM_GC_CFG, 16, 8⟩
def CTM_GC_CFG_LOW : FRef := ⟨CTM_GC_CFG, 8, 8⟩
def CTM_GC_CFG_MODE_ACT : FRef := ⟨CTM_GC_CFG, 1, 1⟩
def CTM_GC_CFG_MODE : FRef := ⟨CTM_GC_CFG, 0, 1⟩
/-- Seal configuration register (CTM_SEAL_CFG), 05: BAR2 offset. -/
def CTM_SEAL_CFG : Nat := 0x90008
def CTM_SEAL_CFG_SEAL_US : FRef := ⟨CTM_SEAL_CFG, 0, 16⟩
/-- Log segments register (CTM_SEGS), 05: BAR2 offset. -/
def CTM_SEGS : Nat := 0x9000C
def CTM_SEGS_LOG : FRef := ⟨CTM_SEGS, 0, 21⟩
/-- Free log segments register (CTM_FREE_SEGS), 05: BAR2 offset. -/
def CTM_FREE_SEGS : Nat := 0x90010
def CTM_FREE_SEGS_COUNT : FRef := ⟨CTM_FREE_SEGS, 0, 21⟩
/-- Tack reserve register (CTM_TACK), 05: BAR2 offset. -/
def CTM_TACK : Nat := 0x90014
def CTM_TACK_IN_USE : FRef := ⟨CTM_TACK, 8, 3⟩
def CTM_TACK_BORROWED : FRef := ⟨CTM_TACK, 4, 3⟩
def CTM_TACK_DIMMS : FRef := ⟨CTM_TACK, 0, 3⟩
/-- Capacities register (CTM_CAP), 05: BAR2 offset. -/
def CTM_CAP : Nat := 0x90018
def CTM_CAP_VMAX : FRef := ⟨CTM_CAP, 16, 16⟩
def CTM_CAP_GUAR : FRef := ⟨CTM_CAP, 0, 16⟩
/-- Elastic extents register (CTM_ELASTIC), 05: BAR2 offset. -/
def CTM_ELASTIC : Nat := 0x9001C
def CTM_ELASTIC_AVAIL : FRef := ⟨CTM_ELASTIC, 16, 16⟩
def CTM_ELASTIC_HELD : FRef := ⟨CTM_ELASTIC, 0, 16⟩
/-- Free space register (CTM_FREE_MIB), 05: BAR2 offset. -/
def CTM_FREE_MIB : Nat := 0x90020
def CTM_FREE_MIB_F : FRef := ⟨CTM_FREE_MIB, 0, 32⟩
/-- Measured ratio register (CTM_RATIO), 05: BAR2 offset. -/
def CTM_RATIO : Nat := 0x90024
def CTM_RATIO_RHO : FRef := ⟨CTM_RATIO, 0, 16⟩
/-- Distress configuration register (CTM_DIST_CFG), 05: BAR2 offset. -/
def CTM_DIST_CFG : Nat := 0x90028
def CTM_DIST_CFG_DEADLINE_S : FRef := ⟨CTM_DIST_CFG, 24, 8⟩
def CTM_DIST_CFG_WM_OFFER : FRef := ⟨CTM_DIST_CFG, 12, 12⟩
def CTM_DIST_CFG_WM_DISTRESS : FRef := ⟨CTM_DIST_CFG, 0, 12⟩
/-- Distress status register (CTM_DIST_STS), 05: BAR2 offset. -/
def CTM_DIST_STS : Nat := 0x9002C
def CTM_DIST_STS_ELAPSED_S : FRef := ⟨CTM_DIST_STS, 16, 16⟩
def CTM_DIST_STS_FROZEN : FRef := ⟨CTM_DIST_STS, 4, 12⟩
def CTM_DIST_STS_STAGE : FRef := ⟨CTM_DIST_STS, 0, 2⟩
/-- Journal occupancy register (CTM_JRNL_STS), 05: BAR2 offset. -/
def CTM_JRNL_STS : Nat := 0x90030
def CTM_JRNL_STS_LIVE : FRef := ⟨CTM_JRNL_STS, 16, 12⟩
def CTM_JRNL_STS_BUF : FRef := ⟨CTM_JRNL_STS, 0, 9⟩
/-- Seams written register (CTM_SEAM_WR), 05: BAR2 offset. -/
def CTM_SEAM_WR : Nat := 0x90034
def CTM_SEAM_WR_COUNT : FRef := ⟨CTM_SEAM_WR, 0, 32⟩
/-- Padding stitches register (CTM_PAD_CNT), 05: BAR2 offset. -/
def CTM_PAD_CNT : Nat := 0x90038
def CTM_PAD_CNT_COUNT : FRef := ⟨CTM_PAD_CNT, 0, 32⟩
/-- Relocations committed register (CTM_RELOC_CNT), 05: BAR2 offset. -/
def CTM_RELOC_CNT : Nat := 0x9003C
def CTM_RELOC_CNT_COUNT : FRef := ⟨CTM_RELOC_CNT, 0, 32⟩
/-- Images abandoned register (CTM_ABANDON), 05: BAR2 offset. -/
def CTM_ABANDON : Nat := 0x90040
def CTM_ABANDON_STITCHER : FRef := ⟨CTM_ABANDON, 16, 16⟩
def CTM_ABANDON_CONDITION : FRef := ⟨CTM_ABANDON, 0, 16⟩
/-- Writes dropped in distress register (CTM_DROP_CNT), 05: BAR2 offset. -/
def CTM_DROP_CNT : Nat := 0x90044
def CTM_DROP_CNT_COUNT : FRef := ⟨CTM_DROP_CNT, 0, 32⟩
/-- Stitcher status register (CTM_STCH), 05: BAR2 offset. -/
def CTM_STCH (j : Nat) : Nat := 0x90100 + 0x4 * j
def CTM_STCH_DEGR_RD (j : Nat) : FRef := ⟨(CTM_STCH j), 16, 16⟩
def CTM_STCH_OPEN (j : Nat) : FRef := ⟨(CTM_STCH j), 1, 1⟩
def CTM_STCH_FENCED (j : Nat) : FRef := ⟨(CTM_STCH j), 0, 1⟩
/-- Ledger window register (CTM_LWIN), 05: BAR2 offset. -/
def CTM_LWIN (j : Nat) : Nat := 0x90200 + 0x4 * j
def CTM_LWIN_SLOTS (j : Nat) : FRef := ⟨(CTM_LWIN j), 16, 16⟩
def CTM_LWIN_SLOT_BASE (j : Nat) : FRef := ⟨(CTM_LWIN j), 0, 16⟩
/-- Cryptographic status register (CRY_STS), 06: BAR2 offset. -/
def CRY_STS : Nat := 0x80000
def CRY_STS_LC : FRef := ⟨CRY_STS, 8, 2⟩
def CRY_STS_LEDGER_FATAL : FRef := ⟨CRY_STS, 4, 1⟩
def CRY_STS_WIPING : FRef := ⟨CRY_STS, 3, 1⟩
def CRY_STS_LEDGER_KEY : FRef := ⟨CRY_STS, 2, 1⟩
def CRY_STS_TRNG_OK : FRef := ⟨CRY_STS, 1, 1⟩
def CRY_STS_VAULT_READY : FRef := ⟨CRY_STS, 0, 1⟩
/-- Root-key sources register (CRY_KEY_SRC), 06: BAR2 offset. -/
def CRY_KEY_SRC : Nat := 0x80004
def CRY_KEY_SRC_SRC : FRef := ⟨CRY_KEY_SRC, 0, 32⟩
/-- Injection windows register (CRY_INJ), 06: BAR2 offset. -/
def CRY_INJ : Nat := 0x80008
def CRY_INJ_REFUSED : FRef := ⟨CRY_INJ, 16, 8⟩
def CRY_INJ_WIN_OPEN : FRef := ⟨CRY_INJ, 0, 16⟩
/-- Key-provisioning configuration register (CRY_KP_CFG), 06: BAR2 offset. -/
def CRY_KP_CFG : Nat := 0x8000C
def CRY_KP_CFG_WIN_S : FRef := ⟨CRY_KP_CFG, 8, 8⟩
def CRY_KP_CFG_MODE_ACT : FRef := ⟨CRY_KP_CFG, 1, 1⟩
def CRY_KP_CFG_MODE : FRef := ⟨CRY_KP_CFG, 0, 1⟩
/-- Re-encryption configuration register (CRY_REENC_CFG), 06: BAR2 offset. -/
def CRY_REENC_CFG : Nat := 0x80010
def CRY_REENC_CFG_MAX : FRef := ⟨CRY_REENC_CFG, 16, 3⟩
def CRY_REENC_CFG_RATE_MIN : FRef := ⟨CRY_REENC_CFG, 0, 16⟩
/-- Re-encryption status register (CRY_REENC_STS), 06: BAR2 offset. -/
def CRY_REENC_STS : Nat := 0x80014
def CRY_REENC_STS_QUEUED : FRef := ⟨CRY_REENC_STS, 8, 8⟩
def CRY_REENC_STS_ACTIVE : FRef := ⟨CRY_REENC_STS, 0, 3⟩
/-- Re-encryptions completed register (CRY_REENC_DONE), 06: BAR2 offset. -/
def CRY_REENC_DONE : Nat := 0x80018
def CRY_REENC_DONE_COUNT : FRef := ⟨CRY_REENC_DONE, 0, 32⟩
/-- Write-backs held register (CRY_WB_HELD), 06: BAR2 offset. -/
def CRY_WB_HELD : Nat := 0x8001C
def CRY_WB_HELD_COUNT : FRef := ⟨CRY_WB_HELD, 0, 32⟩
/-- Page-image tag failures register (CRY_TAG), 06: BAR2 offset. -/
def CRY_TAG : Nat := 0x80020
def CRY_TAG_POISONED : FRef := ⟨CRY_TAG, 16, 16⟩
def CRY_TAG_REPAIRED : FRef := ⟨CRY_TAG, 0, 16⟩
/-- Ledger verification failures register (CRY_LAUTH), 06: BAR2 offset. -/
def CRY_LAUTH : Nat := 0x80024
def CRY_LAUTH_UNREPAIRED : FRef := ⟨CRY_LAUTH, 16, 16⟩
def CRY_LAUTH_REPAIRED : FRef := ⟨CRY_LAUTH, 0, 16⟩
/-- Active re-encryption register (CRY_REENC_SLOT), 06: BAR2 offset. -/
def CRY_REENC_SLOT (j : Nat) : Nat := 0x80040 + 0x4 * j
def CRY_REENC_SLOT_VALID (j : Nat) : FRef := ⟨(CRY_REENC_SLOT j), 31, 1⟩
def CRY_REENC_SLOT_DONE (j : Nat) : FRef := ⟨(CRY_REENC_SLOT j), 26, 5⟩
def CRY_REENC_SLOT_SLOT (j : Nat) : FRef := ⟨(CRY_REENC_SLOT j), 0, 16⟩
/-- Epoch table selector register (CRY_EPOCH_SEL), 06: BAR2 offset. -/
def CRY_EPOCH_SEL : Nat := 0x80050
def CRY_EPOCH_SEL_SLOT : FRef := ⟨CRY_EPOCH_SEL, 0, 16⟩
/-- Epoch of selected slot register (CRY_EPOCH_DATA), 06: BAR2 offset. -/
def CRY_EPOCH_DATA : Nat := 0x80054
def CRY_EPOCH_DATA_EPOCH : FRef := ⟨CRY_EPOCH_DATA, 0, 32⟩
/-- Key source of selected slot register (CRY_EPOCH_INFO), 06: BAR2 offset. -/
def CRY_EPOCH_INFO : Nat := 0x80058
def CRY_EPOCH_INFO_HOLD : FRef := ⟨CRY_EPOCH_INFO, 29, 1⟩
def CRY_EPOCH_INFO_REENC : FRef := ⟨CRY_EPOCH_INFO, 28, 1⟩
def CRY_EPOCH_INFO_KLD : FRef := ⟨CRY_EPOCH_INFO, 24, 4⟩
def CRY_EPOCH_INFO_RIDX : FRef := ⟨CRY_EPOCH_INFO, 0, 24⟩
/-- Channel status register (DCC_STS), 07: BAR2 offset. -/
def DCC_STS (i : Nat) : Nat := 0x100000 + 0x4000 * i
def DCC_STS_SR (i : Nat) : FRef := ⟨(DCC_STS i), 7, 1⟩
def DCC_STS_RETRAIN (i : Nat) : FRef := ⟨(DCC_STS i), 6, 1⟩
def DCC_STS_DRAIN (i : Nat) : FRef := ⟨(DCC_STS i), 5, 1⟩
def DCC_STS_THROTTLE (i : Nat) : FRef := ⟨(DCC_STS i), 4, 1⟩
def DCC_STS_FG (i : Nat) : FRef := ⟨(DCC_STS i), 3, 1⟩
def DCC_STS_TRAINING (i : Nat) : FRef := ⟨(DCC_STS i), 2, 1⟩
def DCC_STS_FENCED (i : Nat) : FRef := ⟨(DCC_STS i), 1, 1⟩
def DCC_STS_READY (i : Nat) : FRef := ⟨(DCC_STS i), 0, 1⟩
/-- Population and rate register (DCC_POP), 07: BAR2 offset. -/
def DCC_POP (i : Nat) : Nat := 0x100004 + 0x4000 * i
def DCC_POP_ERR (i : Nat) : FRef := ⟨(DCC_POP i), 8, 8⟩
def DCC_POP_DPC (i : Nat) : FRef := ⟨(DCC_POP i), 4, 2⟩
def DCC_POP_MR (i : Nat) : FRef := ⟨(DCC_POP i), 3, 1⟩
def DCC_POP_RATE (i : Nat) : FRef := ⟨(DCC_POP i), 0, 3⟩
/-- Slot status register (DCC_SLOT), 07: BAR2 offset. -/
def DCC_SLOT (i : Nat) (j : Nat) : Nat := 0x100008 + 0x4000 * i + 0x4 * j
def DCC_SLOT_STATE (i : Nat) (j : Nat) : FRef := ⟨(DCC_SLOT i j), 28, 4⟩
def DCC_SLOT_RET (i : Nat) (j : Nat) : FRef := ⟨(DCC_SLOT i j), 24, 4⟩
def DCC_SLOT_RANKS (i : Nat) (j : Nat) : FRef := ⟨(DCC_SLOT i j), 20, 2⟩
def DCC_SLOT_CAP (i : Nat) (j : Nat) : FRef := ⟨(DCC_SLOT i j), 16, 4⟩
def DCC_SLOT_PPR (i : Nat) (j : Nat) : FRef := ⟨(DCC_SLOT i j), 8, 8⟩
def DCC_SLOT_CAUSE (i : Nat) (j : Nat) : FRef := ⟨(DCC_SLOT i j), 0, 8⟩
/-- Scheduler configuration register (DCC_SCHED), 07: BAR2 offset. -/
def DCC_SCHED (i : Nat) : Nat := 0x100010 + 0x4000 * i
def DCC_SCHED_WQ_HIGH (i : Nat) : FRef := ⟨(DCC_SCHED i), 24, 8⟩
def DCC_SCHED_WQ_LOW (i : Nat) : FRef := ⟨(DCC_SCHED i), 16, 8⟩
def DCC_SCHED_HIT_CAP (i : Nat) : FRef := ⟨(DCC_SCHED i), 10, 6⟩
def DCC_SCHED_OPEN (i : Nat) : FRef := ⟨(DCC_SCHED i), 5, 5⟩
def DCC_SCHED_AGE (i : Nat) : FRef := ⟨(DCC_SCHED i), 0, 5⟩
/-- Refresh and thermal configuration register (DCC_REF), 07: BAR2 offset. -/
def DCC_REF (i : Nat) : Nat := 0x100014 + 0x4000 * i
def DCC_REF_THR_THROTTLE (i : Nat) : FRef := ⟨(DCC_REF i), 16, 8⟩
def DCC_REF_FG_C (i : Nat) : FRef := ⟨(DCC_REF i), 8, 8⟩
/-- DIMM temperatures register (DCC_TEMP), 07: BAR2 offset. -/
def DCC_TEMP (i : Nat) : Nat := 0x100018 + 0x4000 * i
def DCC_TEMP_S1_TS1 (i : Nat) : FRef := ⟨(DCC_TEMP i), 24, 8⟩
def DCC_TEMP_S1_TS0 (i : Nat) : FRef := ⟨(DCC_TEMP i), 16, 8⟩
def DCC_TEMP_S0_TS1 (i : Nat) : FRef := ⟨(DCC_TEMP i), 8, 8⟩
def DCC_TEMP_S0_TS0 (i : Nat) : FRef := ⟨(DCC_TEMP i), 0, 8⟩
/-- Error thresholds register (DCC_ERR_CFG), 07: BAR2 offset. -/
def DCC_ERR_CFG (i : Nat) : Nat := 0x10001C + 0x4000 * i
def DCC_ERR_CFG_PPR_THR (i : Nat) : FRef := ⟨(DCC_ERR_CFG i), 8, 8⟩
def DCC_ERR_CFG_UE_THR (i : Nat) : FRef := ⟨(DCC_ERR_CFG i), 0, 8⟩
/-- Margining result register (DCC_MARGIN), 07: BAR2 offset. -/
def DCC_MARGIN (i : Nat) : Nat := 0x100020 + 0x4000 * i
def DCC_MARGIN_RD_MIN (i : Nat) : FRef := ⟨(DCC_MARGIN i), 24, 8⟩
def DCC_MARGIN_WR_MIN (i : Nat) : FRef := ⟨(DCC_MARGIN i), 16, 8⟩
def DCC_MARGIN_RETRAINS (i : Nat) : FRef := ⟨(DCC_MARGIN i), 0, 16⟩
/-- DIMM ECC events register (DCC_ECC), 07: BAR2 offset. -/
def DCC_ECC (i : Nat) : Nat := 0x100024 + 0x4000 * i
def DCC_ECC_UE (i : Nat) : FRef := ⟨(DCC_ECC i), 16, 16⟩
def DCC_ECC_CE (i : Nat) : FRef := ⟨(DCC_ECC i), 0, 16⟩
/-- Forwarded reads register (DCC_FWD_CNT), 07: BAR2 offset. -/
def DCC_FWD_CNT (i : Nat) : Nat := 0x100028 + 0x4000 * i
def DCC_FWD_CNT_COUNT (i : Nat) : FRef := ⟨(DCC_FWD_CNT i), 0, 32⟩
/-- Queue occupancy register (DCC_QUEUE), 07: BAR2 offset. -/
def DCC_QUEUE (i : Nat) : Nat := 0x10002C + 0x4000 * i
def DCC_QUEUE_RQ (i : Nat) : FRef := ⟨(DCC_QUEUE i), 16, 8⟩
def DCC_QUEUE_WQ (i : Nat) : FRef := ⟨(DCC_QUEUE i), 0, 9⟩
/-- Function modes register (DCM_MODE), 07: BAR2 offset. -/
def DCM_MODE : Nat := 0x102000
def DCM_MODE_REB_ACT : FRef := ⟨DCM_MODE, 5, 1⟩
def DCM_MODE_REB_MODE : FRef := ⟨DCM_MODE, 4, 1⟩
def DCM_MODE_PATROL_ACT : FRef := ⟨DCM_MODE, 3, 1⟩
def DCM_MODE_PATROL_MODE : FRef := ⟨DCM_MODE, 2, 1⟩
def DCM_MODE_TRAIN_ACT : FRef := ⟨DCM_MODE, 1, 1⟩
def DCM_MODE_TRAIN_MODE : FRef := ⟨DCM_MODE, 0, 1⟩
/-- Rebuild pacing register (DCM_REB_CFG), 07: BAR2 offset. -/
def DCM_REB_CFG : Nat := 0x102004
def DCM_REB_CFG_RATE_HOST : FRef := ⟨DCM_REB_CFG, 16, 16⟩
def DCM_REB_CFG_RATE_MIN : FRef := ⟨DCM_REB_CFG, 0, 16⟩
/-- Service command register (DCM_SVC), 07: BAR2 offset. -/
def DCM_SVC : Nat := 0x102008
def DCM_SVC_CMD : FRef := ⟨DCM_SVC, 8, 3⟩
def DCM_SVC_SLOT : FRef := ⟨DCM_SVC, 4, 1⟩
def DCM_SVC_CH : FRef := ⟨DCM_SVC, 0, 4⟩
/-- Service status register (DCM_SVC_STS), 07: BAR2 offset. -/
def DCM_SVC_STS : Nat := 0x10200C
def DCM_SVC_STS_CODE : FRef := ⟨DCM_SVC_STS, 8, 8⟩
def DCM_SVC_STS_BUSY : FRef := ⟨DCM_SVC_STS, 7, 1⟩
def DCM_SVC_STS_SLOT : FRef := ⟨DCM_SVC_STS, 4, 1⟩
def DCM_SVC_STS_CH : FRef := ⟨DCM_SVC_STS, 0, 4⟩
/-- Tack block status register (DCM_BLK), 07: BAR2 offset. -/
def DCM_BLK (j : Nat) : Nat := 0x102010 + 0x4 * j
def DCM_BLK_VALID (j : Nat) : FRef := ⟨(DCM_BLK j), 31, 1⟩
def DCM_BLK_OP (j : Nat) : FRef := ⟨(DCM_BLK j), 28, 3⟩
def DCM_BLK_CH (j : Nat) : FRef := ⟨(DCM_BLK j), 24, 4⟩
def DCM_BLK_SLOT (j : Nat) : FRef := ⟨(DCM_BLK j), 23, 1⟩
def DCM_BLK_BORROWED (j : Nat) : FRef := ⟨(DCM_BLK j), 22, 1⟩
def DCM_BLK_DONE (j : Nat) : FRef := ⟨(DCM_BLK j), 0, 16⟩
/-- Patrol configuration register (DCM_PATROL_CFG), 07: BAR2 offset. -/
def DCM_PATROL_CFG : Nat := 0x102020
def DCM_PATROL_CFG_FLOOR_D : FRef := ⟨DCM_PATROL_CFG, 16, 8⟩
def DCM_PATROL_CFG_PERIOD_H : FRef := ⟨DCM_PATROL_CFG, 0, 16⟩
/-- Patrol cursor register (DCM_PATROL_STS), 07: BAR2 offset. -/
def DCM_PATROL_STS : Nat := 0x102024
def DCM_PATROL_STS_CURSOR : FRef := ⟨DCM_PATROL_STS, 0, 32⟩
/-- Patrol results register (DCM_PATROL_CNT), 07: BAR2 offset. -/
def DCM_PATROL_CNT : Nat := 0x102028
def DCM_PATROL_CNT_LOCATED : FRef := ⟨DCM_PATROL_CNT, 16, 16⟩
def DCM_PATROL_CNT_PASSES : FRef := ⟨DCM_PATROL_CNT, 0, 16⟩
/-- Training configuration register (DCM_TRAIN_CFG), 07: BAR2 offset. -/
def DCM_TRAIN_CFG : Nat := 0x10202C
def DCM_TRAIN_CFG_RET_WAIT_S : FRef := ⟨DCM_TRAIN_CFG, 16, 8⟩
def DCM_TRAIN_CFG_MARGIN_MIN : FRef := ⟨DCM_TRAIN_CFG, 8, 8⟩
def DCM_TRAIN_CFG_MARGIN_H : FRef := ⟨DCM_TRAIN_CFG, 0, 8⟩
/-- Contract status register (QOS_STS), 08: BAR2 offset. -/
def QOS_STS : Nat := 0x60000
def QOS_STS_PIN_GIB : FRef := ⟨QOS_STS, 24, 8⟩
def QOS_STS_DEMOTED : FRef := ⟨QOS_STS, 16, 8⟩
def QOS_STS_HELD : FRef := ⟨QOS_STS, 8, 8⟩
def QOS_STS_SUPPLY_DEMOTE : FRef := ⟨QOS_STS, 1, 1⟩
def QOS_STS_PENDING : FRef := ⟨QOS_STS, 0, 1⟩
/-- Admission configuration register (QOS_ADM_CFG), 08: BAR2 offset. -/
def QOS_ADM_CFG : Nat := 0x60004
def QOS_ADM_CFG_HOST_WAIT_MS : FRef := ⟨QOS_ADM_CFG, 24, 8⟩
def QOS_ADM_CFG_UTIL : FRef := ⟨QOS_ADM_CFG, 16, 8⟩
def QOS_ADM_CFG_BURST_NS : FRef := ⟨QOS_ADM_CFG, 4, 12⟩
def QOS_ADM_CFG_MODE_ACT : FRef := ⟨QOS_ADM_CFG, 1, 1⟩
def QOS_ADM_CFG_MODE : FRef := ⟨QOS_ADM_CFG, 0, 1⟩
/-- Lane escalation register (QOS_LANE_CFG), 08: BAR2 offset. -/
def QOS_LANE_CFG : Nat := 0x60008
def QOS_LANE_CFG_BE_AGE_US : FRef := ⟨QOS_LANE_CFG, 16, 8⟩
def QOS_LANE_CFG_ESC2 : FRef := ⟨QOS_LANE_CFG, 8, 8⟩
def QOS_LANE_CFG_ESC1 : FRef := ⟨QOS_LANE_CFG, 0, 8⟩
/-- Excess hold time register (QOS_HOLD_CFG), 08: BAR2 offset. -/
def QOS_HOLD_CFG : Nat := 0x6000C
def QOS_HOLD_CFG_HOLD_MS : FRef := ⟨QOS_HOLD_CFG, 0, 16⟩
/-- Capacity inputs register (QOS_CAP), 08: BAR2 offset. -/
def QOS_CAP : Nat := 0x60010
def QOS_CAP_STITCH_OUT : FRef := ⟨QOS_CAP, 27, 5⟩
def QOS_CAP_FAILED_CH : FRef := ⟨QOS_CAP, 22, 5⟩
def QOS_CAP_THR_CH : FRef := ⟨QOS_CAP, 17, 5⟩
def QOS_CAP_HSL_PAIRS : FRef := ⟨QOS_CAP, 12, 5⟩
def QOS_CAP_REBUILDS : FRef := ⟨QOS_CAP, 9, 3⟩
def QOS_CAP_STK_FENCED : FRef := ⟨QOS_CAP, 8, 1⟩
def QOS_CAP_STK_THR : FRef := ⟨QOS_CAP, 6, 2⟩
def QOS_CAP_HEAD_RED : FRef := ⟨QOS_CAP, 0, 4⟩
/-- Demotions and restorations register (QOS_DEMO_CNT), 08: BAR2 offset. -/
def QOS_DEMO_CNT : Nat := 0x60014
def QOS_DEMO_CNT_RESTORES : FRef := ⟨QOS_DEMO_CNT, 16, 16⟩
def QOS_DEMO_CNT_DEMOTIONS : FRef := ⟨QOS_DEMO_CNT, 0, 16⟩
/-- Refused requests register (QOS_REFUSE_CNT), 08: BAR2 offset. -/
def QOS_REFUSE_CNT : Nat := 0x60018
def QOS_REFUSE_CNT_COUNT : FRef := ⟨QOS_REFUSE_CNT, 0, 32⟩
/-- Cinch selector register (QOS_CSEL), 08: BAR2 offset. -/
def QOS_CSEL : Nat := 0x60020
def QOS_CSEL_SLOT : FRef := ⟨QOS_CSEL, 0, 6⟩
/-- Cinch information register (QOS_CINFO), 08: BAR2 offset. -/
def QOS_CINFO : Nat := 0x60024
def QOS_CINFO_SEQ : FRef := ⟨QOS_CINFO, 16, 16⟩
def QOS_CINFO_LD : FRef := ⟨QOS_CINFO, 12, 4⟩
def QOS_CINFO_PIN : FRef := ⟨QOS_CINFO, 11, 1⟩
def QOS_CINFO_CLASS : FRef := ⟨QOS_CINFO, 8, 3⟩
def QOS_CINFO_PENDING : FRef := ⟨QOS_CINFO, 2, 1⟩
def QOS_CINFO_STATE : FRef := ⟨QOS_CINFO, 0, 2⟩
/-- Cinch read rate register (QOS_CRD), 08: BAR2 offset. -/
def QOS_CRD : Nat := 0x60028
def QOS_CRD_READ_MBS : FRef := ⟨QOS_CRD, 0, 32⟩
/-- Cinch write rate register (QOS_CWR), 08: BAR2 offset. -/
def QOS_CWR : Nat := 0x6002C
def QOS_CWR_WRITE_MBS : FRef := ⟨QOS_CWR, 0, 32⟩
/-- Cinch bound register (QOS_CBOUND), 08: BAR2 offset. -/
def QOS_CBOUND : Nat := 0x60030
def QOS_CBOUND_BOUND_NS : FRef := ⟨QOS_CBOUND, 0, 32⟩
/-- Cinch allowance register (QOS_CALLOW), 08: BAR2 offset. -/
def QOS_CALLOW : Nat := 0x60034
def QOS_CALLOW_ALLOW_NS : FRef := ⟨QOS_CALLOW, 0, 32⟩
/-- Cinch range register (QOS_CRANGE), 08: BAR2 offset. -/
def QOS_CRANGE : Nat := 0x60038
def QOS_CRANGE_LEN_GIB : FRef := ⟨QOS_CRANGE, 16, 16⟩
def QOS_CRANGE_BASE_GIB : FRef := ⟨QOS_CRANGE, 0, 16⟩
/-- In-contract bytes of class c registers (QOS_CLS_INB_LO), 08: BAR2 offset. -/
def QOS_CLS_INB_LO (j : Nat) : Nat := 0x60100 + 0x20 * j
def QOS_CLS_INB_LO_COUNT (j : Nat) : FRef := ⟨(QOS_CLS_INB_LO j), 0, 32⟩
/-- In-contract bytes of class c registers (QOS_CLS_INB_HI), 08: BAR2 offset. -/
def QOS_CLS_INB_HI (j : Nat) : Nat := 0x60104 + 0x20 * j
def QOS_CLS_INB_HI_COUNT (j : Nat) : FRef := ⟨(QOS_CLS_INB_HI j), 0, 32⟩
/-- Best-effort bytes of class c registers (QOS_CLS_OVB_LO), 08: BAR2 offset. -/
def QOS_CLS_OVB_LO (j : Nat) : Nat := 0x60108 + 0x20 * j
def QOS_CLS_OVB_LO_COUNT (j : Nat) : FRef := ⟨(QOS_CLS_OVB_LO j), 0, 32⟩
/-- Best-effort bytes of class c registers (QOS_CLS_OVB_HI), 08: BAR2 offset. -/
def QOS_CLS_OVB_HI (j : Nat) : Nat := 0x6010C + 0x20 * j
def QOS_CLS_OVB_HI_COUNT (j : Nat) : FRef := ⟨(QOS_CLS_OVB_HI j), 0, 32⟩
/-- Accumulated delay of class c registers (QOS_CLS_DLY_LO), 08: BAR2 offset. -/
def QOS_CLS_DLY_LO (j : Nat) : Nat := 0x60110 + 0x20 * j
def QOS_CLS_DLY_LO_NS (j : Nat) : FRef := ⟨(QOS_CLS_DLY_LO j), 0, 32⟩
/-- Accumulated delay of class c registers (QOS_CLS_DLY_HI), 08: BAR2 offset. -/
def QOS_CLS_DLY_HI (j : Nat) : Nat := 0x60114 + 0x20 * j
def QOS_CLS_DLY_HI_NS (j : Nat) : FRef := ⟨(QOS_CLS_DLY_HI j), 0, 32⟩
/-- Bound misses of class c register (QOS_CLS_MISS), 08: BAR2 offset. -/
def QOS_CLS_MISS (j : Nat) : Nat := 0x60118 + 0x20 * j
def QOS_CLS_MISS_COUNT (j : Nat) : FRef := ⟨(QOS_CLS_MISS j), 0, 32⟩
/-- Excess episodes of class c register (QOS_CLS_EPI), 08: BAR2 offset. -/
def QOS_CLS_EPI (j : Nat) : Nat := 0x6011C + 0x20 * j
def QOS_CLS_EPI_EPISODES (j : Nat) : FRef := ⟨(QOS_CLS_EPI j), 16, 16⟩
def QOS_CLS_EPI_ACTIVE (j : Nat) : FRef := ⟨(QOS_CLS_EPI j), 0, 1⟩
/-- Street-grid status register (NOC_STS), 09: BAR2 offset. -/
def NOC_STS : Nat := 0x70000
def NOC_STS_DOWN_ST : FRef := ⟨NOC_STS, 16, 16⟩
def NOC_STS_FAILED_X : FRef := ⟨NOC_STS, 8, 8⟩
def NOC_STS_DETOUR : FRef := ⟨NOC_STS, 1, 1⟩
def NOC_STS_READY : FRef := ⟨NOC_STS, 0, 1⟩
/-- Street-grid configuration register (NOC_CFG), 09: BAR2 offset. -/
def NOC_CFG : Nat := 0x70004
def NOC_CFG_SDOWN_US : FRef := ⟨NOC_CFG, 16, 8⟩
def NOC_CFG_TMO_US : FRef := ⟨NOC_CFG, 0, 16⟩
/-- Route control register (NOC_RT_CTL), 09: BAR2 offset. -/
def NOC_RT_CTL : Nat := 0x70008
def NOC_RT_CTL_CHECK_FAIL : FRef := ⟨NOC_RT_CTL, 3, 1⟩
def NOC_RT_CTL_BUSY : FRef := ⟨NOC_RT_CTL, 2, 1⟩
def NOC_RT_CTL_EPOCH : FRef := ⟨NOC_RT_CTL, 1, 1⟩
def NOC_RT_CTL_FLIP : FRef := ⟨NOC_RT_CTL, 0, 1⟩
/-- Route table address register (NOC_RT_ADDR), 09: BAR2 offset. -/
def NOC_RT_ADDR : Nat := 0x7000C
def NOC_RT_ADDR_SHADOW : FRef := ⟨NOC_RT_ADDR, 16, 1⟩
def NOC_RT_ADDR_INJ : FRef := ⟨NOC_RT_ADDR, 15, 1⟩
def NOC_RT_ADDR_NODE : FRef := ⟨NOC_RT_ADDR, 8, 7⟩
def NOC_RT_ADDR_ENTRY : FRef := ⟨NOC_RT_ADDR, 0, 7⟩
/-- Route table data register (NOC_RT_DATA), 09: BAR2 offset. -/
def NOC_RT_DATA : Nat := 0x70010
def NOC_RT_DATA_VALUE : FRef := ⟨NOC_RT_DATA, 0, 7⟩
/-- Failed crossings registers (NOC_XFAIL_LO), 09: BAR2 offset. -/
def NOC_XFAIL_LO : Nat := 0x70014
def NOC_XFAIL_LO_MASK : FRef := ⟨NOC_XFAIL_LO, 0, 32⟩
/-- Failed crossings registers (NOC_XFAIL_HI), 09: BAR2 offset. -/
def NOC_XFAIL_HI : Nat := 0x70018
def NOC_XFAIL_HI_MASK : FRef := ⟨NOC_XFAIL_HI, 0, 32⟩
/-- Packets discarded register (NOC_DROP), 09: BAR2 offset. -/
def NOC_DROP : Nat := 0x7001C
def NOC_DROP_DOWN : FRef := ⟨NOC_DROP, 22, 10⟩
def NOC_DROP_FENCED : FRef := ⟨NOC_DROP, 11, 11⟩
def NOC_DROP_STALE : FRef := ⟨NOC_DROP, 0, 11⟩
/-- Requests re-issued register (NOC_REISSUE), 09: BAR2 offset. -/
def NOC_REISSUE : Nat := 0x70020
def NOC_REISSUE_COUNT : FRef := ⟨NOC_REISSUE, 0, 32⟩
/-- Street flit replays register (NOC_REPLAY), 09: BAR2 offset. -/
def NOC_REPLAY : Nat := 0x70024
def NOC_REPLAY_COUNT : FRef := ⟨NOC_REPLAY, 0, 32⟩
/-- Master-port selector register (NOC_MP_SEL), 09: BAR2 offset. -/
def NOC_MP_SEL : Nat := 0x70040
def NOC_MP_SEL_MPORT : FRef := ⟨NOC_MP_SEL, 0, 6⟩
/-- Packets of selected port register (NOC_MP_PKTS), 09: BAR2 offset. -/
def NOC_MP_PKTS : Nat := 0x70044
def NOC_MP_PKTS_COUNT : FRef := ⟨NOC_MP_PKTS, 0, 32⟩
/-- Bytes of selected port registers (NOC_MP_BYTES_LO), 09: BAR2 offset. -/
def NOC_MP_BYTES_LO : Nat := 0x70048
def NOC_MP_BYTES_LO_COUNT : FRef := ⟨NOC_MP_BYTES_LO, 0, 32⟩
/-- Bytes of selected port registers (NOC_MP_BYTES_HI), 09: BAR2 offset. -/
def NOC_MP_BYTES_HI : Nat := 0x7004C
def NOC_MP_BYTES_HI_COUNT : FRef := ⟨NOC_MP_BYTES_HI, 0, 32⟩
/-- Latency sum of selected port registers (NOC_MP_LAT_LO), 09: BAR2 offset. -/
def NOC_MP_LAT_LO : Nat := 0x70050
def NOC_MP_LAT_LO_NS : FRef := ⟨NOC_MP_LAT_LO, 0, 32⟩
/-- Latency sum of selected port registers (NOC_MP_LAT_HI), 09: BAR2 offset. -/
def NOC_MP_LAT_HI : Nat := 0x70054
def NOC_MP_LAT_HI_NS : FRef := ⟨NOC_MP_LAT_HI, 0, 32⟩
/-- Largest latency of selected port register (NOC_MP_LATMAX), 09: BAR2 offset. -/
def NOC_MP_LATMAX : Nat := 0x70058
def NOC_MP_LATMAX_NS : FRef := ⟨NOC_MP_LATMAX, 0, 32⟩
/-- Engine status register (NME_STS), 10: BAR2 offset. -/
def NME_STS (i : Nat) : Nat := 0x140000 + 0x1000 * i
def NME_STS_RINGS (i : Nat) : FRef := ⟨(NME_STS i), 16, 9⟩
def NME_STS_CTX (i : Nat) : FRef := ⟨(NME_STS i), 4, 3⟩
def NME_STS_STAGE (i : Nat) : FRef := ⟨(NME_STS i), 2, 1⟩
def NME_STS_FENCED (i : Nat) : FRef := ⟨(NME_STS i), 1, 1⟩
def NME_STS_READY (i : Nat) : FRef := ⟨(NME_STS i), 0, 1⟩
/-- Engine configuration register (NME_CFG), 10: BAR2 offset. -/
def NME_CFG (i : Nat) : Nat := 0x140004 + 0x1000 * i
def NME_CFG_WAIT_MS (i : Nat) : FRef := ⟨(NME_CFG i), 0, 16⟩
/-- Descriptors completed register (NME_DONE), 10: BAR2 offset. -/
def NME_DONE (i : Nat) : Nat := 0x140008 + 0x1000 * i
def NME_DONE_COUNT (i : Nat) : FRef := ⟨(NME_DONE i), 0, 32⟩
/-- Refusals and errors register (NME_CNT), 10: BAR2 offset. -/
def NME_CNT (i : Nat) : Nat := 0x14000C + 0x1000 * i
def NME_CNT_ERRORS (i : Nat) : FRef := ⟨(NME_CNT i), 16, 16⟩
def NME_CNT_REFUSED (i : Nat) : FRef := ⟨(NME_CNT i), 0, 16⟩
/-- Ring configuration register (NMR_CFG), 10: BAR2 offset. -/
def NMR_CFG (i : Nat) : Nat := 0x148000 + 0x20 * i
def NMR_CFG_EN (i : Nat) : FRef := ⟨(NMR_CFG i), 31, 1⟩
def NMR_CFG_ENG (i : Nat) : FRef := ⟨(NMR_CFG i), 28, 3⟩
def NMR_CFG_WEIGHT (i : Nat) : FRef := ⟨(NMR_CFG i), 24, 4⟩
def NMR_CFG_LD (i : Nat) : FRef := ⟨(NMR_CFG i), 20, 4⟩
def NMR_CFG_OWNED (i : Nat) : FRef := ⟨(NMR_CFG i), 19, 1⟩
def NMR_CFG_VEC (i : Nat) : FRef := ⟨(NMR_CFG i), 11, 5⟩
def NMR_CFG_SIZE (i : Nat) : FRef := ⟨(NMR_CFG i), 0, 4⟩
/-- Descriptor ring base register (NMR_DBASE), 10: BAR2 offset. -/
def NMR_DBASE (i : Nat) : Nat := 0x148004 + 0x20 * i
def NMR_DBASE_DPA_64K (i : Nat) : FRef := ⟨(NMR_DBASE i), 0, 32⟩
/-- Completion ring base register (NMR_CBASE), 10: BAR2 offset. -/
def NMR_CBASE (i : Nat) : Nat := 0x148008 + 0x20 * i
def NMR_CBASE_DPA_64K (i : Nat) : FRef := ⟨(NMR_CBASE i), 0, 32⟩
/-- Doorbell register (NMR_TAIL), 10: BAR2 offset. -/
def NMR_TAIL (i : Nat) : Nat := 0x14800C + 0x20 * i
def NMR_TAIL_TAIL (i : Nat) : FRef := ⟨(NMR_TAIL i), 0, 16⟩
/-- Ring head register (NMR_HEAD), 10: BAR2 offset. -/
def NMR_HEAD (i : Nat) : Nat := 0x148010 + 0x20 * i
def NMR_HEAD_HEAD (i : Nat) : FRef := ⟨(NMR_HEAD i), 0, 16⟩
/-- Ring status register (NMR_STS), 10: BAR2 offset. -/
def NMR_STS (i : Nat) : Nat := 0x148014 + 0x20 * i
def NMR_STS_ERR_IDX (i : Nat) : FRef := ⟨(NMR_STS i), 16, 16⟩
def NMR_STS_LAST_ERR (i : Nat) : FRef := ⟨(NMR_STS i), 8, 8⟩
def NMR_STS_ENG_ACT (i : Nat) : FRef := ⟨(NMR_STS i), 4, 3⟩
def NMR_STS_PHASE (i : Nat) : FRef := ⟨(NMR_STS i), 2, 1⟩
def NMR_STS_HALTED (i : Nat) : FRef := ⟨(NMR_STS i), 1, 1⟩
def NMR_STS_ACTIVE (i : Nat) : FRef := ⟨(NMR_STS i), 0, 1⟩
/-- Fault status register (FLT_STS), 11: BAR2 offset. -/
def FLT_STS : Nat := 0x40000
def FLT_STS_FENCED : FRef := ⟨FLT_STS, 8, 8⟩
def FLT_STS_EXPOSED : FRef := ⟨FLT_STS, 2, 1⟩
def FLT_STS_HALT : FRef := ⟨FLT_STS, 1, 1⟩
def FLT_STS_FAULT_N : FRef := ⟨FLT_STS, 0, 1⟩
/-- Error-handling configuration register (FLT_CFG), 11: BAR2 offset. -/
def FLT_CFG : Nat := 0x40004
def FLT_CFG_RETURN_EN : FRef := ⟨FLT_CFG, 16, 1⟩
def FLT_CFG_HOST_WAIT_MS : FRef := ⟨FLT_CFG, 8, 8⟩
def FLT_CFG_MODE_ACT : FRef := ⟨FLT_CFG, 1, 1⟩
def FLT_CFG_MODE : FRef := ⟨FLT_CFG, 0, 1⟩
/-- First-error latch register (FLT_FIRST), 11: BAR2 offset. -/
def FLT_FIRST : Nat := 0x40008
def FLT_FIRST_VALID : FRef := ⟨FLT_FIRST, 31, 1⟩
def FLT_FIRST_OVF : FRef := ⟨FLT_FIRST, 30, 1⟩
def FLT_FIRST_DONE : FRef := ⟨FLT_FIRST, 29, 1⟩
def FLT_FIRST_INJ : FRef := ⟨FLT_FIRST, 28, 1⟩
def FLT_FIRST_ACT : FRef := ⟨FLT_FIRST, 24, 3⟩
def FLT_FIRST_MERGED : FRef := ⟨FLT_FIRST, 16, 8⟩
def FLT_FIRST_INST : FRef := ⟨FLT_FIRST, 8, 8⟩
def FLT_FIRST_SRC : FRef := ⟨FLT_FIRST, 0, 6⟩
/-- Time of first error registers (FLT_FIRST_TIME_LO), 11: BAR2 offset. -/
def FLT_FIRST_TIME_LO : Nat := 0x4000C
def FLT_FIRST_TIME_LO_TIME : FRef := ⟨FLT_FIRST_TIME_LO, 0, 32⟩
/-- Time of first error registers (FLT_FIRST_TIME_HI), 11: BAR2 offset. -/
def FLT_FIRST_TIME_HI : Nat := 0x40010
def FLT_FIRST_TIME_HI_TIME : FRef := ⟨FLT_FIRST_TIME_HI, 0, 32⟩
/-- First-error detail register (FLT_FIRST_INFO), 11: BAR2 offset. -/
def FLT_FIRST_INFO (j : Nat) : Nat := 0x40014 + 0x4 * j
def FLT_FIRST_INFO_DETAIL (j : Nat) : FRef := ⟨(FLT_FIRST_INFO j), 0, 32⟩
/-- Force report register (FLT_FORCE), 11: BAR2 offset. -/
def FLT_FORCE : Nat := 0x40024
def FLT_FORCE_GO : FRef := ⟨FLT_FORCE, 31, 1⟩
def FLT_FORCE_INST : FRef := ⟨FLT_FORCE, 8, 8⟩
def FLT_FORCE_SRC : FRef := ⟨FLT_FORCE, 0, 6⟩
/-- Injection status register (FLT_FORCE_STS), 11: BAR2 offset. -/
def FLT_FORCE_STS : Nat := 0x40028
def FLT_FORCE_STS_COUNT : FRef := ⟨FLT_FORCE_STS, 16, 16⟩
def FLT_FORCE_STS_FIRED : FRef := ⟨FLT_FORCE_STS, 8, 1⟩
def FLT_FORCE_STS_CODE : FRef := ⟨FLT_FORCE_STS, 0, 8⟩
/-- Data-path injection register (FLT_INJ), 11: BAR2 offset. -/
def FLT_INJ : Nat := 0x4002C
def FLT_INJ_ARM : FRef := ⟨FLT_INJ, 31, 1⟩
def FLT_INJ_TGT : FRef := ⟨FLT_INJ, 24, 4⟩
def FLT_INJ_INST : FRef := ⟨FLT_INJ, 8, 8⟩
def FLT_INJ_BIT : FRef := ⟨FLT_INJ, 0, 8⟩
/-- SRAM scrubber register (FLT_SCRUB), 11: BAR2 offset. -/
def FLT_SCRUB : Nat := 0x40030
def FLT_SCRUB_PASSES : FRef := ⟨FLT_SCRUB, 16, 16⟩
def FLT_SCRUB_MENDED : FRef := ⟨FLT_SCRUB, 0, 16⟩
/-- Interruptions register (FLT_INTR), 11: BAR2 offset. -/
def FLT_INTR : Nat := 0x40034
def FLT_INTR_COUNT : FRef := ⟨FLT_INTR, 16, 16⟩
def FLT_INTR_MAX_US : FRef := ⟨FLT_INTR, 0, 16⟩
/-- Reaction of source s register (FLT_REACT), 11: BAR2 offset. -/
def FLT_REACT (j : Nat) : Nat := 0x40400 + 0x4 * j
def FLT_REACT_EFF (j : Nat) : FRef := ⟨(FLT_REACT j), 12, 3⟩
def FLT_REACT_FLOOR (j : Nat) : FRef := ⟨(FLT_REACT j), 8, 3⟩
def FLT_REACT_HA (j : Nat) : FRef := ⟨(FLT_REACT j), 6, 1⟩
def FLT_REACT_FN (j : Nat) : FRef := ⟨(FLT_REACT j), 5, 1⟩
def FLT_REACT_SB (j : Nat) : FRef := ⟨(FLT_REACT j), 4, 1⟩
def FLT_REACT_ACT (j : Nat) : FRef := ⟨(FLT_REACT j), 0, 3⟩
/-- Status of source s register (FLT_SSTS), 11: BAR2 offset. -/
def FLT_SSTS (j : Nat) : Nat := 0x40500 + 0x4 * j
def FLT_SSTS_PEND (j : Nat) : FRef := ⟨(FLT_SSTS j), 31, 1⟩
def FLT_SSTS_OVF (j : Nat) : FRef := ⟨(FLT_SSTS j), 30, 1⟩
def FLT_SSTS_LAST_INST (j : Nat) : FRef := ⟨(FLT_SSTS j), 16, 8⟩
def FLT_SSTS_COUNT (j : Nat) : FRef := ⟨(FLT_SSTS j), 0, 16⟩
/-- Power status register (PWR_STS), 12: BAR2 offset. -/
def PWR_STS : Nat := 0x30000
def PWR_STS_BLOCK : FRef := ⟨PWR_STS, 16, 8⟩
def PWR_STS_LIMIT : FRef := ⟨PWR_STS, 8, 3⟩
def PWR_STS_FORCED : FRef := ⟨PWR_STS, 5, 1⟩
def PWR_STS_TRANS : FRef := ⟨PWR_STS, 4, 1⟩
def PWR_STS_ALLOWED : FRef := ⟨PWR_STS, 2, 2⟩
def PWR_STS_STATE : FRef := ⟨PWR_STS, 0, 2⟩
/-- Power configuration register (PWR_CFG), 12: BAR2 offset. -/
def PWR_CFG : Nat := 0x30004
def PWR_CFG_KEEP_IDLE : FRef := ⟨PWR_CFG, 24, 8⟩
def PWR_CFG_DOZE_IDLE : FRef := ⟨PWR_CFG, 16, 8⟩
def PWR_CFG_TRIM_IDLE : FRef := ⟨PWR_CFG, 8, 8⟩
def PWR_CFG_MAX_STATE : FRef := ⟨PWR_CFG, 0, 2⟩
/-- Effective host tolerance register (PWR_TOL), 12: BAR2 offset. -/
def PWR_TOL : Nat := 0x30008
def PWR_TOL_T_HOST : FRef := ⟨PWR_TOL, 0, 32⟩
/-- Smallest cold-start allowance register (PWR_ALLOW), 12: BAR2 offset. -/
def PWR_ALLOW : Nat := 0x3000C
def PWR_ALLOW_A_MIN : FRef := ⟨PWR_ALLOW, 0, 32⟩
/-- Keep exit as counted register (PWR_KEEP_EXIT), 12: BAR2 offset. -/
def PWR_KEEP_EXIT : Nat := 0x30010
def PWR_KEEP_EXIT_EXIT_US : FRef := ⟨PWR_KEEP_EXIT, 0, 18⟩
/-- Last wake register (PWR_LAST_WAKE), 12: BAR2 offset. -/
def PWR_LAST_WAKE : Nat := 0x30014
def PWR_LAST_WAKE_FROM : FRef := ⟨PWR_LAST_WAKE, 16, 2⟩
def PWR_LAST_WAKE_INST : FRef := ⟨PWR_LAST_WAKE, 8, 8⟩
def PWR_LAST_WAKE_SRC : FRef := ⟨PWR_LAST_WAKE, 0, 8⟩
/-- State exits register (PWR_EXIT_CNT), 12: BAR2 offset. -/
def PWR_EXIT_CNT : Nat := 0x30018
def PWR_EXIT_CNT_DOZE : FRef := ⟨PWR_EXIT_CNT, 16, 16⟩
def PWR_EXIT_CNT_KEEP : FRef := ⟨PWR_EXIT_CNT, 0, 16⟩
/-- Entries abandoned register (PWR_ABANDON), 12: BAR2 offset. -/
def PWR_ABANDON : Nat := 0x3001C
def PWR_ABANDON_KEEP : FRef := ⟨PWR_ABANDON, 16, 16⟩
def PWR_ABANDON_DOZE : FRef := ⟨PWR_ABANDON, 0, 16⟩
/-- Domain power-ups register (PWR_GATE_CNT), 12: BAR2 offset. -/
def PWR_GATE_CNT : Nat := 0x30020
def PWR_GATE_CNT_COUNT : FRef := ⟨PWR_GATE_CNT, 0, 32⟩
/-- Power-down aborts register (PWR_ABORT), 12: BAR2 offset. -/
def PWR_ABORT : Nat := 0x30024
def PWR_ABORT_BEFORE_CLAMP : FRef := ⟨PWR_ABORT, 16, 16⟩
def PWR_ABORT_AFTER_CLAMP : FRef := ⟨PWR_ABORT, 0, 16⟩
/-- Requests that waited on a wake register (PWR_WAIT_CNT), 12: BAR2 offset. -/
def PWR_WAIT_CNT : Nat := 0x30028
def PWR_WAIT_CNT_COUNT : FRef := ⟨PWR_WAIT_CNT, 0, 32⟩
/-- Voltage request status register (PWR_REG_STS), 12: BAR2 offset. -/
def PWR_REG_STS : Nat := 0x3002C
def PWR_REG_STS_TARGET_MV : FRef := ⟨PWR_REG_STS, 20, 12⟩
def PWR_REG_STS_RAIL : FRef := ⟨PWR_REG_STS, 16, 4⟩
def PWR_REG_STS_TIMEOUTS : FRef := ⟨PWR_REG_STS, 8, 8⟩
def PWR_REG_STS_RETRY : FRef := ⟨PWR_REG_STS, 1, 1⟩
def PWR_REG_STS_PEND : FRef := ⟨PWR_REG_STS, 0, 1⟩
/-- Domains powered register (PWR_DOM_ON), 12: BAR2 offset. -/
def PWR_DOM_ON (j : Nat) : Nat := 0x30040 + 0x4 * j
def PWR_DOM_ON_ON (j : Nat) : FRef := ⟨(PWR_DOM_ON j), 0, 32⟩
/-- Supply status register (SUP_STS), 13: BAR2 offset. -/
def SUP_STS : Nat := 0x38000
def SUP_STS_PHASE_OK : FRef := ⟨SUP_STS, 16, 6⟩
def SUP_STS_THROTTLE : FRef := ⟨SUP_STS, 8, 3⟩
def SUP_STS_PFW : FRef := ⟨SUP_STS, 7, 1⟩
def SUP_STS_CAP : FRef := ⟨SUP_STS, 6, 1⟩
def SUP_STS_PWRGD : FRef := ⟨SUP_STS, 5, 1⟩
def SUP_STS_BUS_OK : FRef := ⟨SUP_STS, 4, 1⟩
def SUP_STS_FEED_B_PG : FRef := ⟨SUP_STS, 3, 1⟩
def SUP_STS_FEED_A_PG : FRef := ⟨SUP_STS, 2, 1⟩
def SUP_STS_BAND : FRef := ⟨SUP_STS, 0, 2⟩
/-- Fault-timer configuration register (SUP_CFG), 13: BAR2 offset. -/
def SUP_CFG : Nat := 0x38004
def SUP_CFG_SLOT_FT_MS : FRef := ⟨SUP_CFG, 8, 8⟩
def SUP_CFG_FEED_FT_MS : FRef := ⟨SUP_CFG, 0, 8⟩
/-- Power cap and input power register (SUP_CAP), 13: BAR2 offset. -/
def SUP_CAP : Nat := 0x38008
def SUP_CAP_PIN_W : FRef := ⟨SUP_CAP, 16, 16⟩
def SUP_CAP_PCAP_W : FRef := ⟨SUP_CAP, 0, 16⟩
/-- Measurement selector register (SUP_MSEL), 13: BAR2 offset. -/
def SUP_MSEL : Nat := 0x3800C
def SUP_MSEL_CH : FRef := ⟨SUP_MSEL, 0, 6⟩
/-- Voltage and current register (SUP_M_VI), 13: BAR2 offset. -/
def SUP_M_VI : Nat := 0x38010
def SUP_M_VI_V_MV : FRef := ⟨SUP_M_VI, 16, 16⟩
def SUP_M_VI_I_10MA : FRef := ⟨SUP_M_VI, 0, 16⟩
/-- Power register (SUP_M_P), 13: BAR2 offset. -/
def SUP_M_P : Nat := 0x38014
def SUP_M_P_P_MW : FRef := ⟨SUP_M_P, 0, 32⟩
/-- Energy registers (SUP_M_E_LO), 13: BAR2 offset. -/
def SUP_M_E_LO : Nat := 0x38018
def SUP_M_E_LO_E_MJ : FRef := ⟨SUP_M_E_LO, 0, 32⟩
/-- Energy registers (SUP_M_E_HI), 13: BAR2 offset. -/
def SUP_M_E_HI : Nat := 0x3801C
def SUP_M_E_HI_E_MJ : FRef := ⟨SUP_M_E_HI, 0, 32⟩
/-- Supply command register (SUP_CMD), 13: BAR2 offset. -/
def SUP_CMD : Nat := 0x38020
def SUP_CMD_CMD : FRef := ⟨SUP_CMD, 8, 3⟩
def SUP_CMD_CH : FRef := ⟨SUP_CMD, 0, 6⟩
/-- Command status register (SUP_CMD_STS), 13: BAR2 offset. -/
def SUP_CMD_STS : Nat := 0x38024
def SUP_CMD_STS_BUSY : FRef := ⟨SUP_CMD_STS, 15, 1⟩
def SUP_CMD_STS_CH : FRef := ⟨SUP_CMD_STS, 8, 6⟩
def SUP_CMD_STS_CODE : FRef := ⟨SUP_CMD_STS, 0, 8⟩
/-- History before fresh insertion register (SUP_HIST), 13: BAR2 offset. -/
def SUP_HIST : Nat := 0x38028
def SUP_HIST_VALID : FRef := ⟨SUP_HIST, 31, 1⟩
def SUP_HIST_LATCHED : FRef := ⟨SUP_HIST, 24, 1⟩
def SUP_HIST_SLOT_TRIPS : FRef := ⟨SUP_HIST, 16, 8⟩
def SUP_HIST_TRIPS_B : FRef := ⟨SUP_HIST, 8, 8⟩
def SUP_HIST_TRIPS_A : FRef := ⟨SUP_HIST, 0, 8⟩
/-- Dropouts register (SUP_DROP), 13: BAR2 offset. -/
def SUP_DROP : Nat := 0x3802C
def SUP_DROP_FEED_B : FRef := ⟨SUP_DROP, 24, 8⟩
def SUP_DROP_FEED_A : FRef := ⟨SUP_DROP, 16, 8⟩
def SUP_DROP_DROPOUTS : FRef := ⟨SUP_DROP, 0, 16⟩
/-- Channel configuration register (SUP_CH_CFG), 13: BAR2 offset. -/
def SUP_CH_CFG (j : Nat) : Nat := 0x38100 + 0x4 * j
def SUP_CH_CFG_RETRIES (j : Nat) : FRef := ⟨(SUP_CH_CFG j), 4, 4⟩
def SUP_CH_CFG_MODE (j : Nat) : FRef := ⟨(SUP_CH_CFG j), 0, 1⟩
/-- Channel status register (SUP_CH_STS), 13: BAR2 offset. -/
def SUP_CH_STS (j : Nat) : Nat := 0x38200 + 0x4 * j
def SUP_CH_STS_TRIPS (j : Nat) : FRef := ⟨(SUP_CH_STS j), 24, 8⟩
def SUP_CH_STS_NEXT_10MS (j : Nat) : FRef := ⟨(SUP_CH_STS j), 16, 8⟩
def SUP_CH_STS_LAST_TRIP (j : Nat) : FRef := ⟨(SUP_CH_STS j), 12, 4⟩
def SUP_CH_STS_RETRY_LEFT (j : Nat) : FRef := ⟨(SUP_CH_STS j), 8, 4⟩
def SUP_CH_STS_SAFE (j : Nat) : FRef := ⟨(SUP_CH_STS j), 6, 1⟩
def SUP_CH_STS_LATCH (j : Nat) : FRef := ⟨(SUP_CH_STS j), 5, 1⟩
def SUP_CH_STS_FT_RUN (j : Nat) : FRef := ⟨(SUP_CH_STS j), 4, 1⟩
def SUP_CH_STS_PG (j : Nat) : FRef := ⟨(SUP_CH_STS j), 3, 1⟩
def SUP_CH_STS_STATE (j : Nat) : FRef := ⟨(SUP_CH_STS j), 0, 3⟩
/-- Clock status register (CLK_STS), 14: BAR2 offset. -/
def CLK_STS : Nat := 0x28000
def CLK_STS_KEEP_FAIL : FRef := ⟨CLK_STS, 15, 1⟩
def CLK_STS_FREE_RUN : FRef := ⟨CLK_STS, 14, 1⟩
def CLK_STS_HOLDOVER : FRef := ⟨CLK_STS, 13, 1⟩
def CLK_STS_REF_OK : FRef := ⟨CLK_STS, 8, 3⟩
def CLK_STS_CORE_SRC : FRef := ⟨CLK_STS, 4, 2⟩
def CLK_STS_MODE : FRef := ⟨CLK_STS, 0, 2⟩
/-- Clock configuration register (CLK_CFG), 14: BAR2 offset. -/
def CLK_CFG : Nat := 0x28004
def CLK_CFG_HEAD_SRIS : FRef := ⟨CLK_CFG, 9, 1⟩
def CLK_CFG_FAILBACK : FRef := ⟨CLK_CFG, 8, 1⟩
def CLK_CFG_SLEW_PPM : FRef := ⟨CLK_CFG, 0, 8⟩
/-- Keep-clock calibration register (CLK_CAL), 14: BAR2 offset. -/
def CLK_CAL : Nat := 0x28008
def CLK_CAL_VALID : FRef := ⟨CLK_CAL, 31, 1⟩
def CLK_CAL_CYCLES : FRef := ⟨CLK_CAL, 0, 27⟩
/-- Failovers register (CLK_FOVER), 14: BAR2 offset. -/
def CLK_FOVER : Nat := 0x2800C
def CLK_FOVER_CORE : FRef := ⟨CLK_FOVER, 16, 16⟩
def CLK_FOVER_HEAD : FRef := ⟨CLK_FOVER, 0, 16⟩
/-- Failed clock domains register (CLK_DOM_FAIL), 14: BAR2 offset. -/
def CLK_DOM_FAIL (j : Nat) : Nat := 0x28010 + 0x4 * j
def CLK_DOM_FAIL_FAIL (j : Nat) : FRef := ⟨(CLK_DOM_FAIL j), 0, 32⟩
/-- Module time registers (TIME_NS_LO), 14: BAR2 offset. -/
def TIME_NS_LO : Nat := 0x28020
def TIME_NS_LO_NS : FRef := ⟨TIME_NS_LO, 0, 32⟩
/-- Module time registers (TIME_NS_HI), 14: BAR2 offset. -/
def TIME_NS_HI : Nat := 0x28024
def TIME_NS_HI_NS : FRef := ⟨TIME_NS_HI, 0, 32⟩
/-- Time status register (TIME_STATUS), 14: BAR2 offset. -/
def TIME_STATUS : Nat := 0x28028
def TIME_STATUS_ERR_US : FRef := ⟨TIME_STATUS, 8, 24⟩
def TIME_STATUS_SOURCE : FRef := ⟨TIME_STATUS, 2, 2⟩
def TIME_STATUS_SLEWING : FRef := ⟨TIME_STATUS, 1, 1⟩
def TIME_STATUS_EXTRAPOLATED : FRef := ⟨TIME_STATUS, 0, 1⟩
/-- Slew remaining register (TIME_SLEW_REM), 14: BAR2 offset. -/
def TIME_SLEW_REM : Nat := 0x2802C
def TIME_SLEW_REM_NS : FRef := ⟨TIME_SLEW_REM, 0, 32⟩
/-- Reset status register (RST_STS), 15: BAR2 offset. -/
def RST_STS : Nat := 0x20000
def RST_STS_HOLD : FRef := ⟨RST_STS, 15, 1⟩
def RST_STS_SAFE_LAYOUT : FRef := ⟨RST_STS, 14, 1⟩
def RST_STS_MEM_ACTIVE : FRef := ⟨RST_STS, 13, 1⟩
def RST_STS_IO_READY : FRef := ⟨RST_STS, 12, 1⟩
def RST_STS_BLOCK_RST : FRef := ⟨RST_STS, 11, 1⟩
def RST_STS_PHASE : FRef := ⟨RST_STS, 4, 4⟩
def RST_STS_LEVEL : FRef := ⟨RST_STS, 0, 3⟩
/-- Cause of the latest module reset register (RST_CAUSE), 15: BAR2 offset. -/
def RST_CAUSE : Nat := 0x20004
def RST_CAUSE_INST : FRef := ⟨RST_CAUSE, 16, 8⟩
def RST_CAUSE_DEFERRED : FRef := ⟨RST_CAUSE, 15, 1⟩
def RST_CAUSE_MERGED : FRef := ⟨RST_CAUSE, 14, 1⟩
def RST_CAUSE_LEVEL : FRef := ⟨RST_CAUSE, 8, 3⟩
def RST_CAUSE_SRC : FRef := ⟨RST_CAUSE, 0, 5⟩
/-- Latest Level 1 to 3 reset register (RST_LOCAL), 15: BAR2 offset. -/
def RST_LOCAL : Nat := 0x20008
def RST_LOCAL_INST : FRef := ⟨RST_LOCAL, 16, 8⟩
def RST_LOCAL_LEVEL : FRef := ⟨RST_LOCAL, 8, 3⟩
def RST_LOCAL_SRC : FRef := ⟨RST_LOCAL, 0, 5⟩
/-- Reset sources seen register (RST_HIST), 15: BAR2 offset. -/
def RST_HIST : Nat := 0x2000C
def RST_HIST_SEEN : FRef := ⟨RST_HIST, 0, 16⟩
/-- Reset command register (RST_CMD), 15: BAR2 offset. -/
def RST_CMD : Nat := 0x20010
def RST_CMD_GO : FRef := ⟨RST_CMD, 31, 1⟩
def RST_CMD_LEVEL : FRef := ⟨RST_CMD, 8, 3⟩
def RST_CMD_DOM : FRef := ⟨RST_CMD, 0, 8⟩
/-- Reset command status register (RST_CMD_STS), 15: BAR2 offset. -/
def RST_CMD_STS : Nat := 0x20014
def RST_CMD_STS_BUSY : FRef := ⟨RST_CMD_STS, 8, 1⟩
def RST_CMD_STS_CODE : FRef := ⟨RST_CMD_STS, 0, 8⟩
/-- Idle requests register (RST_IDLE), 15: BAR2 offset. -/
def RST_IDLE : Nat := 0x20018
def RST_IDLE_TIMEOUTS : FRef := ⟨RST_IDLE, 16, 16⟩
def RST_IDLE_LAST_DOM : FRef := ⟨RST_IDLE, 8, 8⟩
def RST_IDLE_LAST_US : FRef := ⟨RST_IDLE, 0, 8⟩
/-- Interrupted non-volatile write register (RST_NVW), 15: BAR2 offset. -/
def RST_NVW : Nat := 0x2001C
def RST_NVW_VALID : FRef := ⟨RST_NVW, 31, 1⟩
def RST_NVW_KIND : FRef := ⟨RST_NVW, 28, 3⟩
def RST_NVW_DELAY_US : FRef := ⟨RST_NVW, 12, 12⟩
def RST_NVW_UNIT : FRef := ⟨RST_NVW, 0, 12⟩
/-- Boot and load status register (RST_BOOT), 15: BAR2 offset. -/
def RST_BOOT : Nat := 0x20020
def RST_BOOT_BOOT_SRC : FRef := ⟨RST_BOOT, 30, 2⟩
def RST_BOOT_CLK_MODE : FRef := ⟨RST_BOOT, 28, 2⟩
def RST_BOOT_LAYOUT_TRIES : FRef := ⟨RST_BOOT, 20, 4⟩
def RST_BOOT_SLOT : FRef := ⟨RST_BOOT, 17, 1⟩
def RST_BOOT_SAFE : FRef := ⟨RST_BOOT, 16, 1⟩
def RST_BOOT_FUSE_TRIES : FRef := ⟨RST_BOOT, 8, 4⟩
def RST_BOOT_FUSE_BANK : FRef := ⟨RST_BOOT, 0, 8⟩
/-- Filtered PERST# pulses register (RST_FILT), 15: BAR2 offset. -/
def RST_FILT : Nat := 0x20024
def RST_FILT_H : FRef := ⟨RST_FILT, 0, 32⟩
/-- Start-up times register (RST_TIME), 15: BAR2 offset. -/
def RST_TIME : Nat := 0x20028
def RST_TIME_MEM_MS : FRef := ⟨RST_TIME, 16, 16⟩
def RST_TIME_IO_MS : FRef := ⟨RST_TIME, 0, 16⟩
/-- Reach of source s register (RST_MAP), 15: BAR2 offset. -/
def RST_MAP (j : Nat) : Nat := 0x20100 + 0x4 * j
def RST_MAP_EFF (j : Nat) : FRef := ⟨(RST_MAP j), 8, 3⟩
def RST_MAP_LAYOUT (j : Nat) : FRef := ⟨(RST_MAP j), 4, 3⟩
def RST_MAP_FUSE (j : Nat) : FRef := ⟨(RST_MAP j), 0, 3⟩
/-- Layout status register (CFG_STS), 16: BAR2 offset. -/
def CFG_STS : Nat := 0x10000
def CFG_STS_AMENDS : FRef := ⟨CFG_STS, 16, 8⟩
def CFG_STS_LAST_CODE : FRef := ⟨CFG_STS, 8, 8⟩
def CFG_STS_SAFE : FRef := ⟨CFG_STS, 2, 1⟩
def CFG_STS_SLOT : FRef := ⟨CFG_STS, 1, 1⟩
def CFG_STS_COMMITTED : FRef := ⟨CFG_STS, 0, 1⟩
/-- Layout identifier register (CFG_ID), 16: BAR2 offset. -/
def CFG_ID : Nat := 0x10004
def CFG_ID_LAYOUT_ID : FRef := ⟨CFG_ID, 0, 32⟩
/-- Layout versions register (CFG_VER), 16: BAR2 offset. -/
def CFG_VER : Nat := 0x10008
def CFG_VER_LAYOUT_VER : FRef := ⟨CFG_VER, 16, 16⟩
def CFG_VER_SVN : FRef := ⟨CFG_VER, 8, 8⟩
def CFG_VER_MIN_SVN : FRef := ⟨CFG_VER, 0, 8⟩
/-- Layout slots register (CFG_SLOTS), 16: BAR2 offset. -/
def CFG_SLOTS : Nat := 0x1000C
def CFG_SLOTS_B_AMENDS : FRef := ⟨CFG_SLOTS, 16, 8⟩
def CFG_SLOTS_A_AMENDS : FRef := ⟨CFG_SLOTS, 8, 8⟩
def CFG_SLOTS_ACTIVE : FRef := ⟨CFG_SLOTS, 2, 1⟩
def CFG_SLOTS_B_VALID : FRef := ⟨CFG_SLOTS, 1, 1⟩
def CFG_SLOTS_A_VALID : FRef := ⟨CFG_SLOTS, 0, 1⟩
/-- Function modes register (CFG_FMODE), 16: BAR2 offset. -/
def CFG_FMODE : Nat := 0x10010
def CFG_FMODE_FIXED : FRef := ⟨CFG_FMODE, 16, 8⟩
def CFG_FMODE_PENDING : FRef := ⟨CFG_FMODE, 8, 8⟩
def CFG_FMODE_ACT : FRef := ⟨CFG_FMODE, 0, 8⟩
/-- Manager LDs register (CFG_MGR), 16: BAR2 offset. -/
def CFG_MGR : Nat := 0x10014
def CFG_MGR_MGR_LD : FRef := ⟨CFG_MGR, 0, 16⟩
/-- Firmware status register (MGT_STS), 16: BAR2 offset. -/
def MGT_STS : Nat := 0x150000
def MGT_STS_STANDBY_OK : FRef := ⟨MGT_STS, 4, 1⟩
def MGT_STS_RESIDENT : FRef := ⟨MGT_STS, 3, 1⟩
def MGT_STS_ACTIVATING : FRef := ⟨MGT_STS, 2, 1⟩
def MGT_STS_CORE : FRef := ⟨MGT_STS, 1, 1⟩
def MGT_STS_FW_RUN : FRef := ⟨MGT_STS, 0, 1⟩
/-- Firmware slots register (MGT_FW), 16: BAR2 offset. -/
def MGT_FW : Nat := 0x150004
def MGT_FW_SVN : FRef := ⟨MGT_FW, 8, 8⟩
def MGT_FW_STAGED : FRef := ⟨MGT_FW, 4, 2⟩
def MGT_FW_RUN_SLOT : FRef := ⟨MGT_FW, 0, 2⟩
/-- Running firmware version register (MGT_FW_VER), 16: BAR2 offset. -/
def MGT_FW_VER : Nat := 0x150008
def MGT_FW_VER_VERSION : FRef := ⟨MGT_FW_VER, 0, 32⟩
/-- Firmware heartbeat register (MGT_HB), 16: BAR2 offset. -/
def MGT_HB : Nat := 0x15000C
def MGT_HB_COUNT : FRef := ⟨MGT_HB, 0, 32⟩
/-- Commands register (MGT_CMD_CNT), 16: BAR2 offset. -/
def MGT_CMD_CNT : Nat := 0x150010
def MGT_CMD_CNT_REFUSED : FRef := ⟨MGT_CMD_CNT, 16, 16⟩
def MGT_CMD_CNT_EXECUTED : FRef := ⟨MGT_CMD_CNT, 0, 16⟩
/-- Last activation time register (MGT_ACT_TIME), 16: BAR2 offset. -/
def MGT_ACT_TIME : Nat := 0x150014
def MGT_ACT_TIME_ROLLED_BACK : FRef := ⟨MGT_ACT_TIME, 31, 1⟩
def MGT_ACT_TIME_MS : FRef := ⟨MGT_ACT_TIME, 0, 16⟩
/-- PMU control register (PMU_CTL), 17: BAR2 offset. -/
def PMU_CTL : Nat := 0x50000
def PMU_CTL_FREEZE_ON_OVF : FRef := ⟨PMU_CTL, 2, 1⟩
def PMU_CTL_CLEAR_ALL : FRef := ⟨PMU_CTL, 1, 1⟩
def PMU_CTL_FREEZE : FRef := ⟨PMU_CTL, 0, 1⟩
/-- PMU status register (PMU_STS), 17: BAR2 offset. -/
def PMU_STS : Nat := 0x50004
def PMU_STS_LOST : FRef := ⟨PMU_STS, 8, 8⟩
def PMU_STS_FROZEN : FRef := ⟨PMU_STS, 0, 1⟩
/-- Overflow interrupt register (PMU_INT_CFG), 17: BAR2 offset. -/
def PMU_INT_CFG : Nat := 0x50008
def PMU_INT_CFG_VEC : FRef := ⟨PMU_INT_CFG, 11, 5⟩
def PMU_INT_CFG_LD : FRef := ⟨PMU_INT_CFG, 4, 4⟩
def PMU_INT_CFG_EN : FRef := ⟨PMU_INT_CFG, 0, 1⟩
/-- Window length register (PMU_WIN_CFG), 17: BAR2 offset. -/
def PMU_WIN_CFG : Nat := 0x5000C
def PMU_WIN_CFG_WIN_US : FRef := ⟨PMU_WIN_CFG, 0, 20⟩
/-- Window sequence register (PMU_WIN_SEQ), 17: BAR2 offset. -/
def PMU_WIN_SEQ : Nat := 0x50010
def PMU_WIN_SEQ_SLEPT : FRef := ⟨PMU_WIN_SEQ, 31, 1⟩
def PMU_WIN_SEQ_ADJ : FRef := ⟨PMU_WIN_SEQ, 30, 1⟩
def PMU_WIN_SEQ_SEQ : FRef := ⟨PMU_WIN_SEQ, 0, 30⟩
/-- Fixed-counter master port register (PMU_FIX_SEL), 17: BAR2 offset. -/
def PMU_FIX_SEL : Nat := 0x50014
def PMU_FIX_SEL_MPORT : FRef := ⟨PMU_FIX_SEL, 0, 6⟩
/-- Group source register (PMU_GRP), 17: BAR2 offset. -/
def PMU_GRP (j : Nat) : Nat := 0x50020 + 0x4 * j
def PMU_GRP_BLOCK (j : Nat) : FRef := ⟨(PMU_GRP j), 8, 4⟩
def PMU_GRP_INST (j : Nat) : FRef := ⟨(PMU_GRP j), 0, 6⟩
/-- Overflow status register (PMU_OVF), 17: BAR2 offset. -/
def PMU_OVF (j : Nat) : Nat := 0x50060 + 0x4 * j
def PMU_OVF_OVF (j : Nat) : FRef := ⟨(PMU_OVF j), 0, 32⟩
/-- Sample information register (PMU_SMP_INFO), 17: BAR2 offset. -/
def PMU_SMP_INFO : Nat := 0x50070
def PMU_SMP_INFO_VALID : FRef := ⟨PMU_SMP_INFO, 31, 1⟩
def PMU_SMP_INFO_MULTI : FRef := ⟨PMU_SMP_INFO, 30, 1⟩
def PMU_SMP_INFO_PC : FRef := ⟨PMU_SMP_INFO, 29, 1⟩
def PMU_SMP_INFO_CTR : FRef := ⟨PMU_SMP_INFO, 22, 7⟩
def PMU_SMP_INFO_MPORT : FRef := ⟨PMU_SMP_INFO, 16, 6⟩
def PMU_SMP_INFO_TAG : FRef := ⟨PMU_SMP_INFO, 0, 12⟩
/-- Sample address registers (PMU_SMP_ADDR_LO), 17: BAR2 offset. -/
def PMU_SMP_ADDR_LO : Nat := 0x50074
def PMU_SMP_ADDR_LO_ADDR : FRef := ⟨PMU_SMP_ADDR_LO, 0, 32⟩
/-- Sample address registers (PMU_SMP_ADDR_HI), 17: BAR2 offset. -/
def PMU_SMP_ADDR_HI : Nat := 0x50078
def PMU_SMP_ADDR_HI_ADDR : FRef := ⟨PMU_SMP_ADDR_HI, 0, 32⟩
/-- Event selection register (PMU_EVT), 17: BAR2 offset. -/
def PMU_EVT (j : Nat) : Nat := 0x50400 + 0x4 * j
def PMU_EVT_EN (j : Nat) : FRef := ⟨(PMU_EVT j), 31, 1⟩
def PMU_EVT_INT (j : Nat) : FRef := ⟨(PMU_EVT j), 30, 1⟩
def PMU_EVT_CLS (j : Nat) : FRef := ⟨(PMU_EVT j), 16, 8⟩
def PMU_EVT_BEF (j : Nat) : FRef := ⟨(PMU_EVT j), 14, 2⟩
def PMU_EVT_EVENT (j : Nat) : FRef := ⟨(PMU_EVT j), 0, 8⟩
/-- Programmable counter registers (PMU_CTR_LO), 17: BAR2 offset. -/
def PMU_CTR_LO (j : Nat) : Nat := 0x50800 + 0x8 * j
def PMU_CTR_LO_COUNT (j : Nat) : FRef := ⟨(PMU_CTR_LO j), 0, 32⟩
/-- Programmable counter registers (PMU_CTR_HI), 17: BAR2 offset. -/
def PMU_CTR_HI (j : Nat) : Nat := 0x50804 + 0x8 * j
def PMU_CTR_HI_COUNT (j : Nat) : FRef := ⟨(PMU_CTR_HI j), 0, 16⟩
/-- Fixed counter registers (PMU_FIX_LO), 17: BAR2 offset. -/
def PMU_FIX_LO (j : Nat) : Nat := 0x50C00 + 0x8 * j
def PMU_FIX_LO_BYTES (j : Nat) : FRef := ⟨(PMU_FIX_LO j), 0, 32⟩
/-- Fixed counter registers (PMU_FIX_HI), 17: BAR2 offset. -/
def PMU_FIX_HI (j : Nat) : Nat := 0x50C04 + 0x8 * j
def PMU_FIX_HI_BYTES (j : Nat) : FRef := ⟨(PMU_FIX_HI j), 0, 32⟩
/-- Product identity register (IDG_ID), 18: BAR2 offset. -/
def IDG_ID : Nat := 0x0
def IDG_ID_PRODUCT : FRef := ⟨IDG_ID, 16, 16⟩
def IDG_ID_FAMILY : FRef := ⟨IDG_ID, 0, 8⟩
/-- Ordering code and steppings register (IDG_PART), 18: BAR2 offset. -/
def IDG_PART : Nat := 0x4
def IDG_PART_TP7_STEP : FRef := ⟨IDG_PART, 12, 4⟩
def IDG_PART_TV7_STEP : FRef := ⟨IDG_PART, 8, 4⟩
def IDG_PART_CODE : FRef := ⟨IDG_PART, 0, 2⟩
/-- Device serial number registers (IDG_SERIAL_LO), 18: BAR2 offset. -/
def IDG_SERIAL_LO : Nat := 0x8
def IDG_SERIAL_LO_SERIAL : FRef := ⟨IDG_SERIAL_LO, 0, 32⟩
/-- Device serial number registers (IDG_SERIAL_HI), 18: BAR2 offset. -/
def IDG_SERIAL_HI : Nat := 0xC
def IDG_SERIAL_HI_SERIAL : FRef := ⟨IDG_SERIAL_HI, 0, 32⟩
/-- Register map register (IDG_MAP), 18: BAR2 offset. -/
def IDG_MAP : Nat := 0x10
def IDG_MAP_SIZE_MIB : FRef := ⟨IDG_MAP, 16, 16⟩
def IDG_MAP_MAP_VER : FRef := ⟨IDG_MAP, 0, 8⟩
/-- Access path of the reader register (IDG_PATH), 18: BAR2 offset. -/
def IDG_PATH : Nat := 0x14
def IDG_PATH_PATH : FRef := ⟨IDG_PATH, 4, 3⟩
def IDG_PATH_LD : FRef := ⟨IDG_PATH, 0, 4⟩
/-- Scratch register (IDG_SCRATCH), 18: BAR2 offset. -/
def IDG_SCRATCH : Nat := 0x18
def IDG_SCRATCH_VALUE : FRef := ⟨IDG_SCRATCH, 0, 32⟩
/-- Sticky scratch register (IDG_STICKY), 18: BAR2 offset. -/
def IDG_STICKY : Nat := 0x1C
def IDG_STICKY_VALUE : FRef := ⟨IDG_STICKY, 0, 32⟩
/-- Stack PHY status register (HTC_PHY_STS), 07: BAR2 offset. -/
def HTC_PHY_STS (i : Nat) : Nat := 0xA0100 + 0x10000 * i
def HTC_PHY_STS_TEMP (i : Nat) : FRef := ⟨(HTC_PHY_STS i), 24, 8⟩
def HTC_PHY_STS_PCG_TRAINED (i : Nat) : FRef := ⟨(HTC_PHY_STS i), 16, 8⟩
def HTC_PHY_STS_LANES_REPAIRED (i : Nat) : FRef := ⟨(HTC_PHY_STS i), 8, 8⟩
def HTC_PHY_STS_THROTTLE (i : Nat) : FRef := ⟨(HTC_PHY_STS i), 2, 1⟩
def HTC_PHY_STS_FG (i : Nat) : FRef := ⟨(HTC_PHY_STS i), 1, 1⟩
def HTC_PHY_STS_TRAINED (i : Nat) : FRef := ⟨(HTC_PHY_STS i), 0, 1⟩

/-- Fuse level of reset source `s` (Table 15.2); 0 for the reserved IDs. -/
def fuseLevel (s : Nat) : Nat :=
  [5, 5, 1, 1, 1, 2, 2, 3, 3, 3, 3, 4, 4, 5, 5, 5].getD s 0

/-- Reset value of FLT_REACT[s]: FLOOR from fuses, ACT, HA, FN and SB from Table 11.1 and R333; reserved IDs read 0. -/
def fltReactReset (s : Nat) : Nat :=
  [0x0, 0x0, 0x1101, 0x2112, 0x2212, 0x2212, 0x2212, 0x4434, 0x4434, 0x0, 0x1101, 0x4434, 0x4434, 0x1101, 0x2212, 0x7737, 0x2212, 0x4434, 0x4434, 0x4434, 0x1101, 0x4434, 0x4434, 0x2212, 0x5535, 0x1101, 0x1101, 0x2212, 0x4434, 0x1001, 0x1001, 0x1001, 0x4434, 0x3313, 0x0, 0x4234, 0x2212, 0x2212, 0x2112, 0x4434, 0x2112, 0x6636, 0x2212, 0x2212, 0x4434, 0x2212, 0x7737, 0x2212, 0x7737, 0x2212, 0x1101, 0x7737, 0x4434, 0x1101, 0x0, 0x0, 0x0, 0x0, 0x0, 0x0, 0x0, 0x0, 0x0, 0x0].getD s 0

/-- The rows of the HPA block. -/
def rowsHPA : List Row := [
  ⟨"HPA_CFG", 0x160000, 1, 4, 4, 0x4000, fun i _ => if i = 0 then 0x104 else 0, 0, 0, 0, 0, 0, 0, 0⟩,
  ⟨"HPA_CTL", 0x160004, 1, 4, 4, 0x4000, fun _ _ => 0x8E9, 1, 0xFFEE, 0x10, 0, 0xFFEF, 0xFFEE, 0⟩,
  ⟨"HPA_LINK_STS", 0x160008, 1, 4, 4, 0x4000, fun _ _ => 0, 0, 0, 0, 0, 0, 0, 0⟩,
  ⟨"HPA_PARTNER", 0x16000C, 1, 4, 4, 0x4000, fun _ _ => 0, 0, 0, 0, 0, 0, 0, 0⟩,
  ⟨"HPA_CABLE", 0x160010, 1, 4, 4, 0x4000, fun _ _ => 0xFFFF, 0, 0, 0, 0, 0, 0, 0⟩,
  ⟨"HPA_LAT_TOL", 0x160014, 1, 4, 4, 0x4000, fun _ _ => 0, 0xFFFFFFFF, 0, 0, 0, 0, 0, 0⟩,
  ⟨"HPA_EPOCH", 0x160018, 1, 4, 4, 0x4000, fun _ _ => 0, 0, 0, 0, 0, 0xFF, 0xFF, 0⟩,
  ⟨"HPA_LD_ACT", 0x16001C, 1, 4, 4, 0x4000, fun _ _ => 0, 0, 0, 0, 0, 0, 0, 0⟩,
  ⟨"HPA_PEN_CFG", 0x160020, 1, 4, 4, 0x4000, fun _ _ => 0x20400, 0, 0xFF0000, 0, 0, 0xFF0000, 0xFF0000, 0⟩,
  ⟨"HPA_PEN_STS", 0x160024, 1, 4, 4, 0x4000, fun _ _ => 0, 0, 0, 0, 0, 0, 0, 0⟩,
  ⟨"HPA_PEN_EXP", 0x160028, 1, 4, 4, 0x4000, fun _ _ => 0, 0, 0, 0, 0, 0xFFFFFFFF, 0, 0⟩,
  ⟨"HPA_FEC_CNT", 0x160030, 1, 4, 4, 0x4000, fun _ _ => 0, 0, 0, 0, 0, 0xFFFFFFFF, 0, 0⟩,
  ⟨"HPA_REPLAY_CNT", 0x160034, 1, 4, 4, 0x4000, fun _ _ => 0, 0, 0, 0, 0, 0xFFFFFFFF, 0, 0⟩,
  ⟨"HPA_RECOV", 0x160038, 1, 4, 4, 0x4000, fun _ _ => 0, 0, 0, 0, 0, 0xFFFFFFFF, 0, 0⟩,
  ⟨"HPA_STALE_CNT", 0x16003C, 1, 4, 4, 0x4000, fun _ _ => 0, 0, 0, 0, 0, 0xFFFFFFFF, 0, 0⟩,
  ⟨"HPA_IDE_STS", 0x160040, 1, 4, 4, 0x4000, fun _ _ => 0x10000, 0, 0, 0, 0, 0xFF00, 0xFF00, 0⟩]
/-- The rows of the HSL block. -/
def rowsHSL : List Row := [
  ⟨"HSL_STS", 0xC0000, 1, 4, 34, 0x1000, fun i _ => if i < 32 then 0x100 * i else 1, 0, 0, 0, 0, 0, 0, 0⟩,
  ⟨"HSL_SF_OCC", 0xC0004, 1, 4, 34, 0x1000, fun _ _ => 0, 0, 0, 0, 0, 0, 0, 0⟩,
  ⟨"HSL_SF_EVICT", 0xC0008, 1, 4, 34, 0x1000, fun _ _ => 0, 0, 0, 0, 0, 0, 0, 0⟩,
  ⟨"HSL_BI_CNT", 0xC000C, 1, 4, 34, 0x1000, fun _ _ => 0, 0, 0, 0, 0, 0, 0, 0⟩,
  ⟨"HSL_BI_TMO", 0xC0010, 1, 4, 34, 0x1000, fun _ _ => 0, 0, 0, 0, 0, 0, 0, 0⟩,
  ⟨"HSL_NACK_CNT", 0xC0014, 1, 4, 34, 0x1000, fun _ _ => 0, 0, 0, 0, 0, 0, 0, 0⟩,
  ⟨"HSL_TKT_STS", 0xC0018, 1, 4, 34, 0x1000, fun _ _ => 0, 0, 0, 0, 0, 0, 0, 0⟩,
  ⟨"HSL_TKT_FULL", 0xC001C, 1, 4, 34, 0x1000, fun _ _ => 0, 0, 0, 0, 0, 0, 0, 0⟩,
  ⟨"HSL_ATOM_CNT", 0xC0020, 1, 4, 34, 0x1000, fun _ _ => 0, 0, 0, 0, 0, 0, 0, 0⟩,
  ⟨"HSL_POISON", 0xC0024, 1, 4, 34, 0x1000, fun _ _ => 0, 0, 0, 0, 0, 0, 0, 0⟩,
  ⟨"HSL_XCROSS", 0xC0028, 1, 4, 34, 0x1000, fun _ _ => 0, 0, 0, 0, 0, 0, 0, 0⟩,
  ⟨"HSL_TXM_STS", 0xC002C, 1, 4, 34, 0x1000, fun _ _ => 0, 0, 0, 0, 0, 0, 0, 0⟩]
/-- The rows of the HSC block. -/
def rowsHSC : List Row := [
  ⟨"HSC_REMAP", 0xF0000, 32, 4, 1, 0x1000000, fun _ j => j, 0, 0, 0, 0, 0, 0, 0⟩,
  ⟨"HSC_SPARE", 0xF0080, 1, 4, 1, 0x1000000, fun _ _ => 0x32120, 0, 0, 0, 0, 0, 0, 0⟩,
  ⟨"HSC_BI_CFG", 0xF0084, 1, 4, 1, 0x1000000, fun _ _ => 0x32, 0, 0x3FF, 0, 0, 0x3FF, 0x3FF, 0⟩,
  ⟨"HSC_AWIN", 0xF0100, 4, 4, 1, 0x1000000, fun _ _ => 0, 0xFFFFFFF1, 0, 0, 0, 0, 0, 0⟩]
/-- The rows of the HTC block. -/
def rowsHTC : List Row := [
  ⟨"HTC_STS", 0xA0000, 1, 4, 2, 0x10000, fun _ _ => 0, 0, 0, 0, 0, 0, 0, 0⟩,
  ⟨"HTC_FREE_KEEP", 0xA0004, 1, 4, 2, 0x10000, fun _ _ => 0, 0, 0, 0, 0, 0, 0, 0⟩,
  ⟨"HTC_FREE_SHED", 0xA0008, 1, 4, 2, 0x10000, fun _ _ => 0, 0, 0, 0, 0, 0, 0, 0⟩,
  ⟨"HTC_PRIM_DIRTY", 0xA000C, 1, 4, 2, 0x10000, fun _ _ => 0, 0, 0, 0, 0, 0, 0, 0⟩,
  ⟨"HTC_MIRROR", 0xA0010, 1, 4, 2, 0x10000, fun _ _ => 0, 0, 0, 0, 0, 0, 0, 0⟩,
  ⟨"HTC_MAPC_HIT", 0xA0014, 1, 4, 2, 0x10000, fun _ _ => 0, 0, 0, 0, 0, 0, 0, 0⟩,
  ⟨"HTC_MAPC_MISS", 0xA0018, 1, 4, 2, 0x10000, fun _ _ => 0, 0, 0, 0, 0, 0, 0, 0⟩,
  ⟨"HTC_ECC", 0xA001C, 1, 4, 2, 0x10000, fun _ _ => 0, 0, 0, 0, 0, 0, 0, 0⟩,
  ⟨"HTC_RETIRED", 0xA0020, 1, 4, 2, 0x10000, fun _ _ => 0, 0, 0, 0, 0, 0xFFFFFFFF, 0xFFFFFFFF, 0⟩,
  ⟨"HTC_PHY_STS", 0xA0100, 1, 4, 2, 0x10000, fun _ _ => 0, 0, 0, 0, 0, 0, 0, 0⟩]
/-- The rows of the HTM block. -/
def rowsHTM : List Row := [
  ⟨"HTM_TIER_CFG", 0xA8000, 1, 4, 1, 0x1000000, fun _ _ => 0x8040400, 1, 0xFFFF0F00, 0, 0, 0xFFFF0F00, 0xFFFF0F00, 0⟩,
  ⟨"HTM_DIRTY_CFG", 0xA8004, 1, 4, 1, 0x1000000, fun _ _ => 0x323028, 0, 0xFFFFFFFF, 0, 0, 0xFFFFFFFF, 0xFFFFFFFF, 0⟩,
  ⟨"HTM_HEAT_CFG", 0xA8008, 1, 4, 1, 0x1000000, fun _ _ => 0x3E80000, 0, 0xFFFF0000, 0, 0, 0xFFFF0000, 0xFFFF0000, 0⟩,
  ⟨"HTM_DIRTY_PAGES", 0xA800C, 1, 4, 1, 0x1000000, fun _ _ => 0, 0, 0, 0, 0, 0, 0, 0⟩,
  ⟨"HTM_PIN_PAGES", 0xA8010, 1, 4, 1, 0x1000000, fun _ _ => 0, 0, 0, 0, 0, 0, 0xFFFFFFFF, 0⟩,
  ⟨"HTM_PROMO_CNT", 0xA8014, 1, 4, 1, 0x1000000, fun _ _ => 0, 0, 0, 0, 0, 0, 0, 0⟩,
  ⟨"HTM_DEMO_CNT", 0xA8018, 1, 4, 1, 0x1000000, fun _ _ => 0, 0, 0, 0, 0, 0, 0, 0⟩,
  ⟨"HTM_ALLOC_STALL", 0xA801C, 1, 4, 1, 0x1000000, fun _ _ => 0, 0, 0, 0, 0, 0, 0, 0⟩,
  ⟨"HTM_SKIP", 0xA8020, 1, 4, 1, 0x1000000, fun _ _ => 0, 0, 0, 0, 0, 0, 0, 0⟩]
/-- The rows of the CTM block. -/
def rowsCTM : List Row := [
  ⟨"CTM_STS", 0x90000, 1, 4, 1, 0x1000000, fun _ _ => 0, 0, 0, 0, 0, 0, 0, 0⟩,
  ⟨"CTM_GC_CFG", 0x90004, 1, 4, 1, 0x1000000, fun _ _ => 0x4201000, 1, 0xFFFFFF00, 0, 0, 0xFFFFFF00, 0xFFFFFF00, 0⟩,
  ⟨"CTM_SEAL_CFG", 0x90008, 1, 4, 1, 0x1000000, fun _ _ => 0x64, 0, 0xFFFF, 0, 0, 0xFFFF, 0xFFFF, 0⟩,
  ⟨"CTM_SEGS", 0x9000C, 1, 4, 1, 0x1000000, fun _ _ => 0, 0, 0, 0, 0, 0, 0, 0⟩,
  ⟨"CTM_FREE_SEGS", 0x90010, 1, 4, 1, 0x1000000, fun _ _ => 0, 0, 0, 0, 0, 0, 0, 0⟩,
  ⟨"CTM_TACK", 0x90014, 1, 4, 1, 0x1000000, fun _ _ => 2, 0, 0, 0, 0, 0, 0, 0⟩,
  ⟨"CTM_CAP", 0x90018, 1, 4, 1, 0x1000000, fun _ _ => 0, 0, 0, 0, 0, 0, 0, 0⟩,
  ⟨"CTM_ELASTIC", 0x9001C, 1, 4, 1, 0x1000000, fun _ _ => 0, 0, 0, 0, 0, 0, 0, 0⟩,
  ⟨"CTM_FREE_MIB", 0x90020, 1, 4, 1, 0x1000000, fun _ _ => 0, 0, 0, 0, 0, 0, 0, 0⟩,
  ⟨"CTM_RATIO", 0x90024, 1, 4, 1, 0x1000000, fun _ _ => 0x100, 0, 0, 0, 0, 0, 0, 0⟩,
  ⟨"CTM_DIST_CFG", 0x90028, 1, 4, 1, 0x1000000, fun _ _ => 0x1E100040, 0, 0xFFFFFFFF, 0, 0, 0xFFFFFFFF, 0xFFFFFFFF, 0⟩,
  ⟨"CTM_DIST_STS", 0x9002C, 1, 4, 1, 0x1000000, fun _ _ => 0, 0, 0, 0, 0, 0, 0, 0⟩,
  ⟨"CTM_JRNL_STS", 0x90030, 1, 4, 1, 0x1000000, fun _ _ => 0, 0, 0, 0, 0, 0, 0, 0⟩,
  ⟨"CTM_SEAM_WR", 0x90034, 1, 4, 1, 0x1000000, fun _ _ => 0, 0, 0, 0, 0, 0, 0, 0⟩,
  ⟨"CTM_PAD_CNT", 0x90038, 1, 4, 1, 0x1000000, fun _ _ => 0, 0, 0, 0, 0, 0, 0, 0⟩,
  ⟨"CTM_RELOC_CNT", 0x9003C, 1, 4, 1, 0x1000000, fun _ _ => 0, 0, 0, 0, 0, 0, 0, 0⟩,
  ⟨"CTM_ABANDON", 0x90040, 1, 4, 1, 0x1000000, fun _ _ => 0, 0, 0, 0, 0, 0, 0, 0⟩,
  ⟨"CTM_DROP_CNT", 0x90044, 1, 4, 1, 0x1000000, fun _ _ => 0, 0, 0, 0, 0, 0, 0, 0⟩,
  ⟨"CTM_STCH", 0x90100, 16, 4, 1, 0x1000000, fun _ _ => 0, 0, 0, 0, 0, 0, 0, 0⟩,
  ⟨"CTM_LWIN", 0x90200, 17, 4, 1, 0x1000000, fun _ _ => 0, 0, 0, 0, 0, 0, 0, 0⟩]
/-- The rows of the CRY block. -/
def rowsCRY : List Row := [
  ⟨"CRY_STS", 0x80000, 1, 4, 1, 0x1000000, fun _ _ => 0x200, 0, 0, 0, 0, 0x300, 0xFFFFFFFF, 0x300⟩,
  ⟨"CRY_KEY_SRC", 0x80004, 1, 4, 1, 0x1000000, fun _ _ => 0, 0, 0, 0, 0, 0, 0xFFFFFFFF, 0⟩,
  ⟨"CRY_INJ", 0x80008, 1, 4, 1, 0x1000000, fun _ _ => 0, 0, 0, 0, 0, 0, 0xFFFF, 0⟩,
  ⟨"CRY_KP_CFG", 0x8000C, 1, 4, 1, 0x1000000, fun _ _ => 0x7800, 1, 0xFF00, 0, 0, 0xFF00, 0xFF00, 0⟩,
  ⟨"CRY_REENC_CFG", 0x80010, 1, 4, 1, 0x1000000, fun _ _ => 0x40100, 0, 0x7FFFF, 0, 0, 0x7FFFF, 0x7FFFF, 0⟩,
  ⟨"CRY_REENC_STS", 0x80014, 1, 4, 1, 0x1000000, fun _ _ => 0, 0, 0, 0, 0, 0, 0, 0⟩,
  ⟨"CRY_REENC_DONE", 0x80018, 1, 4, 1, 0x1000000, fun _ _ => 0, 0, 0, 0, 0, 0, 0, 0⟩,
  ⟨"CRY_WB_HELD", 0x8001C, 1, 4, 1, 0x1000000, fun _ _ => 0, 0, 0, 0, 0, 0, 0, 0⟩,
  ⟨"CRY_TAG", 0x80020, 1, 4, 1, 0x1000000, fun _ _ => 0, 0, 0, 0, 0, 0, 0, 0⟩,
  ⟨"CRY_LAUTH", 0x80024, 1, 4, 1, 0x1000000, fun _ _ => 0, 0, 0, 0, 0, 0, 0, 0⟩,
  ⟨"CRY_REENC_SLOT", 0x80040, 4, 4, 1, 0x1000000, fun _ _ => 0, 0, 0, 0, 0, 0, 0, 0⟩,
  ⟨"CRY_EPOCH_SEL", 0x80050, 1, 4, 1, 0x1000000, fun _ _ => 0, 0xFFFF, 0, 0, 0, 0, 0, 0⟩,
  ⟨"CRY_EPOCH_DATA", 0x80054, 1, 4, 1, 0x1000000, fun _ _ => 0, 0, 0, 0, 0, 0, 0, 0⟩,
  ⟨"CRY_EPOCH_INFO", 0x80058, 1, 4, 1, 0x1000000, fun _ _ => 0, 0, 0, 0, 0, 0, 0, 0⟩]
/-- The rows of the DCC block. -/
def rowsDCC : List Row := [
  ⟨"DCC_STS", 0x100000, 1, 4, 16, 0x4000, fun _ _ => 0, 0, 0, 0, 0, 0, 0, 0⟩,
  ⟨"DCC_POP", 0x100004, 1, 4, 16, 0x4000, fun _ _ => 0, 0, 0, 0, 0, 0, 0, 0⟩,
  ⟨"DCC_SLOT", 0x100008, 2, 4, 16, 0x4000, fun _ _ => 0, 0, 0, 0, 0, 0, 0, 0⟩,
  ⟨"DCC_SCHED", 0x100010, 1, 4, 16, 0x4000, fun _ _ => 0xC040414A, 0, 0xFFFFFFFF, 0, 0, 0xFFFFFFFF, 0xFFFFFFFF, 0⟩,
  ⟨"DCC_REF", 0x100014, 1, 4, 16, 0x4000, fun _ _ => 0x5A5500, 0, 0xFFFF00, 0, 0, 0xFFFF00, 0xFFFF00, 0⟩,
  ⟨"DCC_TEMP", 0x100018, 1, 4, 16, 0x4000, fun _ _ => 0xFFFFFFFF, 0, 0, 0, 0, 0, 0, 0⟩,
  ⟨"DCC_ERR_CFG", 0x10001C, 1, 4, 16, 0x4000, fun _ _ => 0x208, 0, 0xFFFF, 0, 0, 0xFFFF, 0xFFFF, 0⟩,
  ⟨"DCC_MARGIN", 0x100020, 1, 4, 16, 0x4000, fun _ _ => 0, 0, 0, 0, 0, 0, 0, 0⟩,
  ⟨"DCC_ECC", 0x100024, 1, 4, 16, 0x4000, fun _ _ => 0, 0, 0, 0, 0, 0, 0, 0⟩,
  ⟨"DCC_FWD_CNT", 0x100028, 1, 4, 16, 0x4000, fun _ _ => 0, 0, 0, 0, 0, 0, 0, 0⟩,
  ⟨"DCC_QUEUE", 0x10002C, 1, 4, 16, 0x4000, fun _ _ => 0, 0, 0, 0, 0, 0, 0, 0⟩]
/-- The rows of the DCM block. -/
def rowsDCM : List Row := [
  ⟨"DCM_MODE", 0x102000, 1, 4, 1, 0x1000000, fun _ _ => 0, 0x15, 0, 0, 0, 0, 0, 0⟩,
  ⟨"DCM_REB_CFG", 0x102004, 1, 4, 1, 0x1000000, fun _ _ => 0x20, 0xFFFF0000, 0xFFFF, 0, 0, 0xFFFF, 0xFFFF, 0⟩,
  ⟨"DCM_SVC", 0x102008, 1, 4, 1, 0x1000000, fun _ _ => 0, 0, 0, 0x71F, 0, 0, 0, 0⟩,
  ⟨"DCM_SVC_STS", 0x10200C, 1, 4, 1, 0x1000000, fun _ _ => 0, 0, 0, 0, 0, 0, 0, 0⟩,
  ⟨"DCM_BLK", 0x102010, 4, 4, 1, 0x1000000, fun _ _ => 0, 0, 0, 0, 0, 0, 0, 0⟩,
  ⟨"DCM_PATROL_CFG", 0x102020, 1, 4, 1, 0x1000000, fun _ _ => 0x70018, 0, 0xFFFFFF, 0, 0, 0xFFFFFF, 0xFFFFFF, 0⟩,
  ⟨"DCM_PATROL_STS", 0x102024, 1, 4, 1, 0x1000000, fun _ _ => 0, 0, 0, 0, 0, 0, 0, 0⟩,
  ⟨"DCM_PATROL_CNT", 0x102028, 1, 4, 1, 0x1000000, fun _ _ => 0, 0, 0, 0, 0, 0, 0, 0⟩,
  ⟨"DCM_TRAIN_CFG", 0x10202C, 1, 4, 1, 0x1000000, fun _ _ => 0xA1418, 0, 0xFFFFFF, 0, 0, 0xFFFFFF, 0xFFFFFF, 0⟩]
/-- The rows of the QOS block. -/
def rowsQOS : List Row := [
  ⟨"QOS_STS", 0x60000, 1, 4, 1, 0x1000000, fun _ _ => 0, 0, 0, 0, 0, 0, 0xFFFFFFFF, 0⟩,
  ⟨"QOS_ADM_CFG", 0x60004, 1, 4, 1, 0x1000000, fun _ _ => 0xA501F40, 1, 0xFFFFFFF0, 0, 0, 0xFFFFFFF0, 0xFFFFFFFF, 0⟩,
  ⟨"QOS_LANE_CFG", 0x60008, 1, 4, 1, 0x1000000, fun _ _ => 0x144B32, 0, 0xFFFFFF, 0, 0, 0xFFFFFF, 0xFFFFFFFF, 0⟩,
  ⟨"QOS_HOLD_CFG", 0x6000C, 1, 4, 1, 0x1000000, fun _ _ => 0x64, 0, 0xFFFF, 0, 0, 0xFFFF, 0xFFFFFFFF, 0⟩,
  ⟨"QOS_CAP", 0x60010, 1, 4, 1, 0x1000000, fun _ _ => 0, 0, 0, 0, 0, 0, 0xFFFFFFFF, 0⟩,
  ⟨"QOS_DEMO_CNT", 0x60014, 1, 4, 1, 0x1000000, fun _ _ => 0, 0, 0, 0, 0, 0, 0, 0⟩,
  ⟨"QOS_REFUSE_CNT", 0x60018, 1, 4, 1, 0x1000000, fun _ _ => 0, 0, 0, 0, 0, 0, 0, 0⟩,
  ⟨"QOS_CSEL", 0x60020, 1, 4, 1, 0x1000000, fun _ _ => 0, 0x3F, 0, 0, 0, 0, 0xFFFFFFFF, 0⟩,
  ⟨"QOS_CINFO", 0x60024, 1, 4, 1, 0x1000000, fun _ _ => 0, 0, 0, 0, 0, 0, 0xFFFFFFFF, 0⟩,
  ⟨"QOS_CRD", 0x60028, 1, 4, 1, 0x1000000, fun _ _ => 0, 0, 0, 0, 0, 0, 0xFFFFFFFF, 0⟩,
  ⟨"QOS_CWR", 0x6002C, 1, 4, 1, 0x1000000, fun _ _ => 0, 0, 0, 0, 0, 0, 0xFFFFFFFF, 0⟩,
  ⟨"QOS_CBOUND", 0x60030, 1, 4, 1, 0x1000000, fun _ _ => 0, 0, 0, 0, 0, 0, 0xFFFFFFFF, 0⟩,
  ⟨"QOS_CALLOW", 0x60034, 1, 4, 1, 0x1000000, fun _ _ => 0, 0, 0, 0, 0, 0, 0xFFFFFFFF, 0⟩,
  ⟨"QOS_CRANGE", 0x60038, 1, 4, 1, 0x1000000, fun _ _ => 0, 0, 0, 0, 0, 0, 0xFFFFFFFF, 0⟩,
  ⟨"QOS_CLS_INB_LO", 0x60100, 8, 32, 1, 0x1000000, fun _ _ => 0, 0, 0, 0, 0, 0, 0, 0⟩,
  ⟨"QOS_CLS_INB_HI", 0x60104, 8, 32, 1, 0x1000000, fun _ _ => 0, 0, 0, 0, 0, 0, 0, 0⟩,
  ⟨"QOS_CLS_OVB_LO", 0x60108, 8, 32, 1, 0x1000000, fun _ _ => 0, 0, 0, 0, 0, 0, 0, 0⟩,
  ⟨"QOS_CLS_OVB_HI", 0x6010C, 8, 32, 1, 0x1000000, fun _ _ => 0, 0, 0, 0, 0, 0, 0, 0⟩,
  ⟨"QOS_CLS_DLY_LO", 0x60110, 8, 32, 1, 0x1000000, fun _ _ => 0, 0, 0, 0, 0, 0, 0, 0⟩,
  ⟨"QOS_CLS_DLY_HI", 0x60114, 8, 32, 1, 0x1000000, fun _ _ => 0, 0, 0, 0, 0, 0, 0, 0⟩,
  ⟨"QOS_CLS_MISS", 0x60118, 8, 32, 1, 0x1000000, fun _ _ => 0, 0, 0, 0, 0, 0, 0, 0⟩,
  ⟨"QOS_CLS_EPI", 0x6011C, 8, 32, 1, 0x1000000, fun _ _ => 0, 0, 0, 0, 0, 0, 0, 0⟩]
/-- The rows of the NOC block. -/
def rowsNOC : List Row := [
  ⟨"NOC_STS", 0x70000, 1, 4, 1, 0x1000000, fun _ _ => 1, 0, 0, 0, 0, 0, 0, 0⟩,
  ⟨"NOC_CFG", 0x70004, 1, 4, 1, 0x1000000, fun _ _ => 0x20064, 0, 0xFFFFFF, 0, 0, 0xFFFFFF, 0xFFFFFF, 0⟩,
  ⟨"NOC_RT_CTL", 0x70008, 1, 4, 1, 0x1000000, fun _ _ => 0, 0, 0, 1, 0, 0, 0, 0⟩,
  ⟨"NOC_RT_ADDR", 0x7000C, 1, 4, 1, 0x1000000, fun _ _ => 0, 0x1FF7F, 0, 0, 0, 0, 0, 0⟩,
  ⟨"NOC_RT_DATA", 0x70010, 1, 4, 1, 0x1000000, fun _ _ => 0, 0x7F, 0, 0, 0, 0, 0, 0⟩,
  ⟨"NOC_XFAIL_LO", 0x70014, 1, 4, 1, 0x1000000, fun _ _ => 0, 0, 0, 0, 0, 0, 0, 0⟩,
  ⟨"NOC_XFAIL_HI", 0x70018, 1, 4, 1, 0x1000000, fun _ _ => 0, 0, 0, 0, 0, 0, 0, 0⟩,
  ⟨"NOC_DROP", 0x7001C, 1, 4, 1, 0x1000000, fun _ _ => 0, 0, 0, 0, 0, 0, 0, 0⟩,
  ⟨"NOC_REISSUE", 0x70020, 1, 4, 1, 0x1000000, fun _ _ => 0, 0, 0, 0, 0, 0, 0, 0⟩,
  ⟨"NOC_REPLAY", 0x70024, 1, 4, 1, 0x1000000, fun _ _ => 0, 0, 0, 0, 0, 0, 0, 0⟩,
  ⟨"NOC_MP_SEL", 0x70040, 1, 4, 1, 0x1000000, fun _ _ => 0, 0x3F, 0, 0, 0, 0, 0, 0⟩,
  ⟨"NOC_MP_PKTS", 0x70044, 1, 4, 1, 0x1000000, fun _ _ => 0, 0, 0, 0, 0, 0, 0, 0⟩,
  ⟨"NOC_MP_BYTES_LO", 0x70048, 1, 4, 1, 0x1000000, fun _ _ => 0, 0, 0, 0, 0, 0, 0, 0⟩,
  ⟨"NOC_MP_BYTES_HI", 0x7004C, 1, 4, 1, 0x1000000, fun _ _ => 0, 0, 0, 0, 0, 0, 0, 0⟩,
  ⟨"NOC_MP_LAT_LO", 0x70050, 1, 4, 1, 0x1000000, fun _ _ => 0, 0, 0, 0, 0, 0, 0, 0⟩,
  ⟨"NOC_MP_LAT_HI", 0x70054, 1, 4, 1, 0x1000000, fun _ _ => 0, 0, 0, 0, 0, 0, 0, 0⟩,
  ⟨"NOC_MP_LATMAX", 0x70058, 1, 4, 1, 0x1000000, fun _ _ => 0, 0, 0, 0, 0, 0, 0, 0⟩]
/-- The rows of the NME block. -/
def rowsNME : List Row := [
  ⟨"NME_STS", 0x140000, 1, 4, 8, 0x1000, fun i _ => if i < 4 then 0 else 4, 0, 0, 0, 0, 0, 0, 0⟩,
  ⟨"NME_CFG", 0x140004, 1, 4, 8, 0x1000, fun _ _ => 0xA, 0, 0xFFFF, 0, 0, 0xFFFF, 0xFFFF, 0⟩,
  ⟨"NME_DONE", 0x140008, 1, 4, 8, 0x1000, fun _ _ => 0, 0, 0, 0, 0, 0, 0, 0⟩,
  ⟨"NME_CNT", 0x14000C, 1, 4, 8, 0x1000, fun _ _ => 0, 0, 0, 0, 0, 0, 0, 0⟩]
/-- The rows of the NMR block. -/
def rowsNMR : List Row := [
  ⟨"NMR_CFG", 0x148000, 1, 4, 256, 0x20, fun i _ => 0x1080000 + 0x10000000 * (i % 8), 0xFF00F80F, 0, 0, 0, 0, 0, 0⟩,
  ⟨"NMR_DBASE", 0x148004, 1, 4, 256, 0x20, fun _ _ => 0, 0xFFFFFFFF, 0, 0, 0, 0, 0, 0⟩,
  ⟨"NMR_CBASE", 0x148008, 1, 4, 256, 0x20, fun _ _ => 0, 0xFFFFFFFF, 0, 0, 0, 0, 0, 0⟩,
  ⟨"NMR_TAIL", 0x14800C, 1, 4, 256, 0x20, fun _ _ => 0, 0xFFFF, 0, 0, 0, 0, 0, 0⟩,
  ⟨"NMR_HEAD", 0x148010, 1, 4, 256, 0x20, fun _ _ => 0, 0, 0, 0, 0, 0, 0, 0⟩,
  ⟨"NMR_STS", 0x148014, 1, 4, 256, 0x20, fun _ _ => 0, 0, 0, 0, 2, 0, 0, 0⟩]
/-- The rows of the FLT block. -/
def rowsFLT : List Row := [
  ⟨"FLT_STS", 0x40000, 1, 4, 1, 0x1000000, fun _ _ => 0, 0, 0, 0, 0, 2, 0xFFFFFFFF, 0⟩,
  ⟨"FLT_CFG", 0x40004, 1, 4, 1, 0x1000000, fun _ _ => 0x10A00, 1, 0x1FF00, 0, 0, 0x1FF00, 0xFFFFFFFF, 0⟩,
  ⟨"FLT_FIRST", 0x40008, 1, 4, 1, 0x1000000, fun _ _ => 0, 0, 0, 0, 0x80000000, 0xF7FFFF3F, 0xFFFFFFFF, 0⟩,
  ⟨"FLT_FIRST_TIME_LO", 0x4000C, 1, 4, 1, 0x1000000, fun _ _ => 0, 0, 0, 0, 0, 0xFFFFFFFF, 0xFFFFFFFF, 0⟩,
  ⟨"FLT_FIRST_TIME_HI", 0x40010, 1, 4, 1, 0x1000000, fun _ _ => 0, 0, 0, 0, 0, 0xFFFFFFFF, 0xFFFFFFFF, 0⟩,
  ⟨"FLT_FIRST_INFO", 0x40014, 4, 4, 1, 0x1000000, fun _ _ => 0, 0, 0, 0, 0, 0xFFFFFFFF, 0xFFFFFFFF, 0⟩,
  ⟨"FLT_FORCE", 0x40024, 1, 4, 1, 0x1000000, fun _ _ => 0, 0, 0, 0x8000FF3F, 0, 0, 0xFFFFFFFF, 0⟩,
  ⟨"FLT_FORCE_STS", 0x40028, 1, 4, 1, 0x1000000, fun _ _ => 0, 0, 0, 0, 0, 0, 0xFFFFFFFF, 0⟩,
  ⟨"FLT_INJ", 0x4002C, 1, 4, 1, 0x1000000, fun _ _ => 0, 0x8F00FFFF, 0, 0, 0, 0, 0, 0⟩,
  ⟨"FLT_SCRUB", 0x40030, 1, 4, 1, 0x1000000, fun _ _ => 0, 0, 0, 0, 0, 0xFFFFFFFF, 0, 0⟩,
  ⟨"FLT_INTR", 0x40034, 1, 4, 1, 0x1000000, fun _ _ => 0, 0, 0, 0, 0, 0xFFFFFFFF, 0xFFFFFFFF, 0⟩,
  ⟨"FLT_REACT", 0x40400, 64, 4, 1, 0x1000000, fun _ j => fltReactReset j, 0x77, 0, 0, 0, 0x700, 0x700, 0x700⟩,
  ⟨"FLT_SSTS", 0x40500, 64, 4, 1, 0x1000000, fun _ _ => 0, 0, 0, 0, 0xC0000000, 0xC0FFFFFF, 0xFFFFFFFF, 0⟩]
/-- The rows of the PWR block. -/
def rowsPWR : List Row := [
  ⟨"PWR_STS", 0x30000, 1, 4, 1, 0x1000000, fun _ _ => 0, 0, 0, 0, 0, 0, 0xFFFFFFFF, 0⟩,
  ⟨"PWR_CFG", 0x30004, 1, 4, 1, 0x1000000, fun _ _ => 0x32320A03, 0, 0xFFFFFF03, 0, 0, 0xFFFFFF03, 0xFFFFFFFF, 0⟩,
  ⟨"PWR_TOL", 0x30008, 1, 4, 1, 0x1000000, fun _ _ => 0xFFFFFFFF, 0, 0, 0, 0, 0, 0xFFFFFFFF, 0⟩,
  ⟨"PWR_ALLOW", 0x3000C, 1, 4, 1, 0x1000000, fun _ _ => 0xFFFFFFFF, 0, 0, 0, 0, 0, 0xFFFFFFFF, 0⟩,
  ⟨"PWR_KEEP_EXIT", 0x30010, 1, 4, 1, 0x1000000, fun _ _ => 0x1F4, 0, 0, 0, 0, 0, 0xFFFFFFFF, 0⟩,
  ⟨"PWR_LAST_WAKE", 0x30014, 1, 4, 1, 0x1000000, fun _ _ => 0, 0, 0, 0, 0, 0, 0xFFFFFFFF, 0⟩,
  ⟨"PWR_EXIT_CNT", 0x30018, 1, 4, 1, 0x1000000, fun _ _ => 0, 0, 0, 0, 0, 0, 0, 0⟩,
  ⟨"PWR_ABANDON", 0x3001C, 1, 4, 1, 0x1000000, fun _ _ => 0, 0, 0, 0, 0, 0, 0, 0⟩,
  ⟨"PWR_GATE_CNT", 0x30020, 1, 4, 1, 0x1000000, fun _ _ => 0, 0, 0, 0, 0, 0, 0, 0⟩,
  ⟨"PWR_ABORT", 0x30024, 1, 4, 1, 0x1000000, fun _ _ => 0, 0, 0, 0, 0, 0, 0, 0⟩,
  ⟨"PWR_WAIT_CNT", 0x30028, 1, 4, 1, 0x1000000, fun _ _ => 0, 0, 0, 0, 0, 0, 0, 0⟩,
  ⟨"PWR_REG_STS", 0x3002C, 1, 4, 1, 0x1000000, fun _ _ => 0, 0, 0, 0, 0, 0, 0xFFFF00FF, 0⟩,
  ⟨"PWR_DOM_ON", 0x30040, 5, 4, 1, 0x1000000, fun _ _ => 0, 0, 0, 0, 0, 0, 0xFFFFFFFF, 0⟩]
/-- The rows of the SUP block. -/
def rowsSUP : List Row := [
  ⟨"SUP_STS", 0x38000, 1, 4, 1, 0x1000000, fun _ _ => 0x3F003C, 0, 0, 0, 0, 0x3F07FF, 0xFFFFFFFF, 0x3F07FF⟩,
  ⟨"SUP_CFG", 0x38004, 1, 4, 1, 0x1000000, fun _ _ => 0x205, 0, 0xFFFF, 0, 0, 0xFFFF, 0xFFFFFFFF, 0⟩,
  ⟨"SUP_CAP", 0x38008, 1, 4, 1, 0x1000000, fun _ _ => 0x320, 0, 0, 0, 0, 0xFFFFFFFF, 0xFFFFFFFF, 0xFFFFFFFF⟩,
  ⟨"SUP_MSEL", 0x3800C, 1, 4, 1, 0x1000000, fun _ _ => 0, 0x3F, 0, 0, 0, 0, 0xFFFFFFFF, 0⟩,
  ⟨"SUP_M_VI", 0x38010, 1, 4, 1, 0x1000000, fun _ _ => 0, 0, 0, 0, 0, 0, 0xFFFFFFFF, 0⟩,
  ⟨"SUP_M_P", 0x38014, 1, 4, 1, 0x1000000, fun _ _ => 0, 0, 0, 0, 0, 0, 0xFFFFFFFF, 0⟩,
  ⟨"SUP_M_E_LO", 0x38018, 1, 4, 1, 0x1000000, fun _ _ => 0, 0, 0, 0, 0, 0, 0xFFFFFFFF, 0⟩,
  ⟨"SUP_M_E_HI", 0x3801C, 1, 4, 1, 0x1000000, fun _ _ => 0, 0, 0, 0, 0, 0, 0xFFFFFFFF, 0⟩,
  ⟨"SUP_CMD", 0x38020, 1, 4, 1, 0x1000000, fun _ _ => 0, 0, 0, 0x73F, 0, 0, 0xFFFFFFFF, 0⟩,
  ⟨"SUP_CMD_STS", 0x38024, 1, 4, 1, 0x1000000, fun _ _ => 0, 0, 0, 0, 0, 0, 0xFFFFFFFF, 0⟩,
  ⟨"SUP_HIST", 0x38028, 1, 4, 1, 0x1000000, fun _ _ => 0, 0, 0, 0, 0, 0x81FFFFFF, 0xFFFFFFFF, 0x81FFFFFF⟩,
  ⟨"SUP_DROP", 0x3802C, 1, 4, 1, 0x1000000, fun _ _ => 0, 0, 0, 0, 0, 0xFFFFFFFF, 0xFFFFFFFF, 0xFFFFFFFF⟩,
  ⟨"SUP_CH_CFG", 0x38100, 36, 4, 1, 0x1000000, fun _ j => if j < 4 then 0 else 1, 0, 0xF1, 0, 0, 0xF1, 0xFFFFFFFF, 0⟩,
  ⟨"SUP_CH_STS", 0x38200, 36, 4, 1, 0x1000000, fun _ j => if j < 2 then 0xB else if j < 4 then 0 else 0x60, 0, 0, 0, 0, 0xFFFFFF7F, 0xFFFFFFFF, 0xFFFFFF7F⟩]
/-- The rows of the CLK block. -/
def rowsCLK : List Row := [
  ⟨"CLK_STS", 0x28000, 1, 4, 1, 0x1000000, fun _ _ => 0x30, 0, 0, 0, 0, 3, 0xFFFFFFFF, 3⟩,
  ⟨"CLK_CFG", 0x28004, 1, 4, 1, 0x1000000, fun _ _ => 0x264, 0, 0x3FF, 0, 0, 0x3FF, 0xFFFFFFFF, 0⟩,
  ⟨"CLK_CAL", 0x28008, 1, 4, 1, 0x1000000, fun _ _ => 0, 0, 0, 0, 0, 0, 0xFFFFFFFF, 0⟩,
  ⟨"CLK_FOVER", 0x2800C, 1, 4, 1, 0x1000000, fun _ _ => 0, 0, 0, 0, 0, 0xFFFFFFFF, 0xFFFFFFFF, 0⟩,
  ⟨"CLK_DOM_FAIL", 0x28010, 4, 4, 1, 0x1000000, fun _ _ => 0, 0, 0, 0, 0, 0xFFFFFFFF, 0xFFFFFFFF, 0⟩,
  ⟨"TIME_NS_LO", 0x28020, 1, 4, 1, 0x1000000, fun _ _ => 0, 0, 0, 0, 0, 0xFFFFFFFF, 0xFFFFFFFF, 0⟩,
  ⟨"TIME_NS_HI", 0x28024, 1, 4, 1, 0x1000000, fun _ _ => 0, 0, 0, 0, 0, 0xFFFFFFFF, 0xFFFFFFFF, 0⟩,
  ⟨"TIME_STATUS", 0x28028, 1, 4, 1, 0x1000000, fun _ _ => 0, 0, 0, 0, 0, 0xFFFFFF01, 0xFFFFFFFF, 0⟩,
  ⟨"TIME_SLEW_REM", 0x2802C, 1, 4, 1, 0x1000000, fun _ _ => 0, 0, 0, 0, 0, 0xFFFFFFFF, 0xFFFFFFFF, 0⟩]
/-- The rows of the RST block. -/
def rowsRST : List Row := [
  ⟨"RST_STS", 0x20000, 1, 4, 1, 0x1000000, fun _ _ => 0, 0, 0, 0, 0, 0, 0xFFFFFFFF, 0⟩,
  ⟨"RST_CAUSE", 0x20004, 1, 4, 1, 0x1000000, fun _ _ => 0x500, 0, 0, 0, 0, 0xFFC71F, 0xFFFFFFFF, 0xFFC71F⟩,
  ⟨"RST_LOCAL", 0x20008, 1, 4, 1, 0x1000000, fun _ _ => 0, 0, 0, 0, 0, 0, 0xFFFFFFFF, 0⟩,
  ⟨"RST_HIST", 0x2000C, 1, 4, 1, 0x1000000, fun _ _ => 1, 0, 0, 0, 0xFFFF, 0xFFFF, 0xFFFFFFFF, 0xFFFF⟩,
  ⟨"RST_CMD", 0x20010, 1, 4, 1, 0x1000000, fun _ _ => 0, 0, 0, 0x800007FF, 0, 0, 0xFFFFFFFF, 0⟩,
  ⟨"RST_CMD_STS", 0x20014, 1, 4, 1, 0x1000000, fun _ _ => 0, 0, 0, 0, 0, 0, 0xFFFFFFFF, 0⟩,
  ⟨"RST_IDLE", 0x20018, 1, 4, 1, 0x1000000, fun _ _ => 0, 0, 0, 0, 0, 0, 0, 0⟩,
  ⟨"RST_NVW", 0x2001C, 1, 4, 1, 0x1000000, fun _ _ => 0, 0, 0, 0, 0x80000000, 0xF0FFFFFF, 0xFFFFFFFF, 0xF0FFFFFF⟩,
  ⟨"RST_BOOT", 0x20020, 1, 4, 1, 0x1000000, fun _ _ => 0xFF, 0, 0, 0, 0, 0xF0F00FFF, 0xFFFFFFFF, 0xF0F00FFF⟩,
  ⟨"RST_FILT", 0x20024, 1, 4, 1, 0x1000000, fun _ _ => 0, 0, 0, 0, 0, 0xFFFFFFFF, 0xFFFFFFFF, 0xFFFFFFFF⟩,
  ⟨"RST_TIME", 0x20028, 1, 4, 1, 0x1000000, fun _ _ => 0, 0, 0, 0, 0, 0, 0, 0⟩,
  ⟨"RST_MAP", 0x20100, 32, 4, 1, 0x1000000, fun _ j => 0x101 * fuseLevel j, 0, 0, 0, 0, 7, 7, 7⟩]
/-- The rows of the CFG block. -/
def rowsCFG : List Row := [
  ⟨"CFG_STS", 0x10000, 1, 4, 1, 0x1000000, fun _ _ => 0, 0, 0, 0, 0, 0, 0, 0⟩,
  ⟨"CFG_ID", 0x10004, 1, 4, 1, 0x1000000, fun _ _ => 0, 0, 0, 0, 0, 0, 0, 0⟩,
  ⟨"CFG_VER", 0x10008, 1, 4, 1, 0x1000000, fun _ _ => 0, 0, 0, 0, 0, 0xFF, 0xFF, 0xFF⟩,
  ⟨"CFG_SLOTS", 0x1000C, 1, 4, 1, 0x1000000, fun _ _ => 0, 0, 0, 0, 0, 0xFFFF07, 0xFFFF07, 0xFFFF07⟩,
  ⟨"CFG_FMODE", 0x10010, 1, 4, 1, 0x1000000, fun _ _ => 0, 0, 0, 0, 0, 0, 0, 0⟩,
  ⟨"CFG_MGR", 0x10014, 1, 4, 1, 0x1000000, fun _ _ => 1, 0, 0, 0, 0, 0, 0, 0⟩]
/-- The rows of the MGT block. -/
def rowsMGT : List Row := [
  ⟨"MGT_STS", 0x150000, 1, 4, 1, 0x1000000, fun _ _ => 0, 0, 0, 0, 0, 0, 0, 0⟩,
  ⟨"MGT_FW", 0x150004, 1, 4, 1, 0x1000000, fun _ _ => 1, 0, 0, 0, 0, 0xFF33, 0xFF33, 0xFF33⟩,
  ⟨"MGT_FW_VER", 0x150008, 1, 4, 1, 0x1000000, fun _ _ => 0, 0, 0, 0, 0, 0, 0, 0⟩,
  ⟨"MGT_HB", 0x15000C, 1, 4, 1, 0x1000000, fun _ _ => 0, 0, 0, 0, 0, 0, 0, 0⟩,
  ⟨"MGT_CMD_CNT", 0x150010, 1, 4, 1, 0x1000000, fun _ _ => 0, 0, 0, 0, 0, 0, 0, 0⟩,
  ⟨"MGT_ACT_TIME", 0x150014, 1, 4, 1, 0x1000000, fun _ _ => 0, 0, 0, 0, 0, 0, 0, 0⟩]
/-- The rows of the PMU block. -/
def rowsPMU : List Row := [
  ⟨"PMU_CTL", 0x50000, 1, 4, 1, 0x1000000, fun _ _ => 0, 5, 0, 2, 0, 0, 0, 0⟩,
  ⟨"PMU_STS", 0x50004, 1, 4, 1, 0x1000000, fun _ _ => 0, 0, 0, 0, 0, 0, 0, 0⟩,
  ⟨"PMU_INT_CFG", 0x50008, 1, 4, 1, 0x1000000, fun _ _ => 0, 0xF8F1, 0, 0, 0, 0, 0, 0⟩,
  ⟨"PMU_WIN_CFG", 0x5000C, 1, 4, 1, 0x1000000, fun _ _ => 0x3E8, 0xFFFFF, 0, 0, 0, 0, 0, 0⟩,
  ⟨"PMU_WIN_SEQ", 0x50010, 1, 4, 1, 0x1000000, fun _ _ => 0, 0, 0, 0, 0, 0, 0, 0⟩,
  ⟨"PMU_FIX_SEL", 0x50014, 1, 4, 1, 0x1000000, fun _ _ => 0, 0x3F, 0, 0, 0, 0, 0, 0⟩,
  ⟨"PMU_GRP", 0x50020, 12, 4, 1, 0x1000000, fun _ _ => 0, 0xF3F, 0, 0, 0, 0, 0, 0⟩,
  ⟨"PMU_OVF", 0x50060, 3, 4, 1, 0x1000000, fun _ _ => 0, 0, 0, 0, 0xFFFFFFFF, 0, 0, 0⟩,
  ⟨"PMU_SMP_INFO", 0x50070, 1, 4, 1, 0x1000000, fun _ _ => 0, 0, 0, 0, 0x80000000, 0, 0, 0⟩,
  ⟨"PMU_SMP_ADDR_LO", 0x50074, 1, 4, 1, 0x1000000, fun _ _ => 0, 0, 0, 0, 0, 0, 0, 0⟩,
  ⟨"PMU_SMP_ADDR_HI", 0x50078, 1, 4, 1, 0x1000000, fun _ _ => 0, 0, 0, 0, 0, 0, 0, 0⟩,
  ⟨"PMU_EVT", 0x50400, 96, 4, 1, 0x1000000, fun _ _ => 0, 0xC0FFC0FF, 0, 0, 0, 0, 0, 0⟩,
  ⟨"PMU_CTR_LO", 0x50800, 96, 8, 1, 0x1000000, fun _ _ => 0, 0xFFFFFFFF, 0, 0, 0, 0, 0, 0⟩,
  ⟨"PMU_CTR_HI", 0x50804, 96, 8, 1, 0x1000000, fun _ _ => 0, 0xFFFF, 0, 0, 0, 0, 0, 0⟩,
  ⟨"PMU_FIX_LO", 0x50C00, 26, 8, 1, 0x1000000, fun _ _ => 0, 0, 0, 0, 0, 0, 0, 0⟩,
  ⟨"PMU_FIX_HI", 0x50C04, 26, 8, 1, 0x1000000, fun _ _ => 0, 0, 0, 0, 0, 0, 0, 0⟩]
/-- The rows of the IDG block. -/
def rowsIDG : List Row := [
  ⟨"IDG_ID", 0, 1, 4, 1, 0x1000000, fun _ _ => 0x7016004B, 0, 0, 0, 0, 0, 0xFFFFFFFF, 0⟩,
  ⟨"IDG_PART", 4, 1, 4, 1, 0x1000000, fun _ _ => 0, 0, 0, 0, 0, 0xFF03, 0xFFFFFFFF, 0xFF03⟩,
  ⟨"IDG_SERIAL_LO", 8, 1, 4, 1, 0x1000000, fun _ _ => 0, 0, 0, 0, 0, 0xFFFFFFFF, 0xFFFFFFFF, 0xFFFFFFFF⟩,
  ⟨"IDG_SERIAL_HI", 0xC, 1, 4, 1, 0x1000000, fun _ _ => 0, 0, 0, 0, 0, 0xFFFFFFFF, 0xFFFFFFFF, 0xFFFFFFFF⟩,
  ⟨"IDG_MAP", 0x10, 1, 4, 1, 0x1000000, fun _ _ => 0x100001, 0, 0, 0, 0, 0, 0xFFFFFFFF, 0⟩,
  ⟨"IDG_PATH", 0x14, 1, 4, 1, 0x1000000, fun _ _ => 0, 0, 0, 0, 0, 0, 0xFFFFFFFF, 0⟩,
  ⟨"IDG_SCRATCH", 0x18, 1, 4, 1, 0x1000000, fun _ _ => 0, 0xFFFFFFFF, 0, 0, 0, 0, 0, 0⟩,
  ⟨"IDG_STICKY", 0x1C, 1, 4, 1, 0x1000000, fun _ _ => 0, 0, 0xFFFFFFFF, 0, 0, 0xFFFFFFFF, 0xFFFFFFFF, 0⟩]

/-- Every implemented register of BAR2 outside the CXL blocks of R493 (Table 18.2). -/
def rows : List Row := rowsHPA ++ rowsHSL ++ rowsHSC ++ rowsHTC ++ rowsHTM ++ rowsCTM ++ rowsCRY ++ rowsDCC ++ rowsDCM ++ rowsQOS ++ rowsNOC ++ rowsNME ++ rowsNMR ++ rowsFLT ++ rowsPWR ++ rowsSUP ++ rowsCLK ++ rowsRST ++ rowsCFG ++ rowsMGT ++ rowsPMU ++ rowsIDG

/-- The instance and index at which row `r` has BAR2 offset `a`, if it has. -/
def Row.place (r : Row) (a : Nat) : Option (Nat × Nat) :=
  if a < r.base then none
  else
    let i := (a - r.base) / r.istride
    let d := (a - r.base) % r.istride
    if i < r.inst && d % r.stride == 0 && d / r.stride < r.count then some (i, d / r.stride) else none

/-- The row, instance and index of BAR2 offset `a`; none where the offset is unimplemented (R15). -/
def findRow (a : Nat) : List Row → Option (Row × Nat × Nat)
  | [] => none
  | r :: rs => match r.place a with
    | some (i, j) => some (r, i, j)
    | none => findRow a rs

/-- The reset value of BAR2 offset `a`; 0 where it is unimplemented (R14, R15). -/
def resetOf (a : Nat) : Word :=
  match findRow a rows with
  | some (r, i, j) => BitVec.ofNat 32 (r.rst i j)
  | none => 0

end Sys2Proof.Reg
end

