-- ==== Sys2Proof/Machine/State.lean ====
section
/-! DEFINITION. The state of the module, as plain data: its registers, the requests and replies under way, the heads and logical devices,
the home slices, the hot and the cold tier, the key vault, the fault collector, layout, flash and fuses, the contract machinery, the
street grid, the near-memory engines, the DRAM channels, power, supply, clocks, reset, the PMU, management, and the queue of commands. -/

namespace Sys2Proof.Machine

open Sys2Proof

/-! ### Requests and replies (R60 to R92) -/

/-- The page-level operations (Table 3.4), with promotions and frame moves of the hot tier (R128, R139), the distress poison (R182) and
the new images of a page marked poisoned (R171) and of one with poison marks that its image does not hold yet (R104). -/
inductive OpKind where
  | writeback
  | relocation
  | reenc
  | release
  | discard
  | promotion
  | move
  | distress
  | poison
  | mark
  deriving DecidableEq, Repr

/-- What a request asks of the home slice; `pin`: the plaza sets or clears PIN (R133). -/
inductive ReqKind where
  | read
  | write
  | atomic (op : AtomicOp) (returning : Bool)
  | pageOp (k : OpKind)
  | pin (on : Bool)
  deriving DecidableEq, Repr

/-- Who issued a request (R29): a host through a head, an engine, a stitcher or the CTM, the plaza, a tiering port. -/
inductive Agent where
  | host (h : Nat) (ld : Nat)
  | engine (n : Nat)
  | stitcher (n : Nat)
  | plaza
  | tiering (n : Nat)
  deriving DecidableEq, Repr

/-- One request on its way to, or held by, a home slice. `ids` are unique over the module's life. `db`: the line lies in an HDM-DB
range. `port`: master port (Table 9.2). `cls`, `be`: service class and best-effort flag (R29). `cinch`: the cinch that covers it.
`lat`: the idle latency of the path it took, in ns, once served (R284); `loc`: the image that a relocation asks for, as seam and position (R169); `slow`: it started in a power state other than Full, or
during a wake from one (R278). -/
structure Req where
  id : Nat := 0
  agent : Agent := .plaza
  port : Nat := 58
  kind : ReqKind := .read
  gpn : Nat := 0
  line : Nat := 0
  data : Line := 0
  mask : BitVec 64 := 0
  poison : Bool := false
  mval : MetaValue := .invalid
  db : Bool := false
  tag : Nat := 0
  epoch : Nat := 0
  retry : Bool := false
  cls : Nat := 2
  be : Bool := true
  cinch : Option Nat := none
  t0 : Nat := 0
  slow : Bool := false
  nacks : Nat := 0
  nackAt : Nat := 0
  ticket : Option Nat := none
  lat : Nat := 0
  loc : Nat × Nat := (0, 0)
  deriving DecidableEq, Repr

/-- Where a held request stands (R61, R62). -/
inductive PenPhase where
  | held
  | injected
  | backoff
  | accepted
  deriving DecidableEq, Repr

/-- One holding-pen entry. `whole`: all data received and verified (Table 2.6). -/
structure PenEntry where
  req : Req := {}
  phase : PenPhase := .held
  whole : Bool := true
  expired : Bool := false
  deriving DecidableEq, Repr

/-- What a home slice sends back to a requester; `refused`: a promotion that finds no free shed frame (R131). -/
inductive ReplyKind where
  | accepted
  | data (v : Line) (poison : Bool)
  | done
  | atomic (orig : BitVec 128) (poison : Bool)
  | nack (reason : Nat) (ticket : Option Nat)
  | refused
  deriving DecidableEq, Repr

/-- A reply on its way to the requester of `req`. -/
structure Reply where
  req : Req
  kind : ReplyKind
  deriving DecidableEq, Repr

/-- The back-invalidation snoops (R85). -/
inductive SnoopKind where
  | cur
  | data
  | inv
  deriving DecidableEq, Repr

/-- Severity of an event record (Table 11.5). -/
inductive Severity where
  | info
  | warning
  | failure
  | fatal
  deriving DecidableEq, Repr

/-- A record of an LD's event logs (Tables 11.6 and 11.7). `media`: a General Media event naming a page, a line and a page count; `dram`: a DRAM event
of a source (0: a row repair) with slot (2 × channel + slot), rank, bank and row; `module`: a Memory Module event with DCC_SLOT; `vendor`: a vendor event
of a kind of Table 11.8; `fault`: the vendor record of a source and instance with its FLAGS and DETAIL; `capacity`: a capacity record (R48). -/
inductive Event where
  | media (gpn line pages : Nat) (corrected : Bool) (inj : Bool)
  | dram (src slot rank bank row : Nat) (inj : Bool)
  | module (src slot : Nat) (status : Nat) (inj : Bool)
  | vendor (kind : Nat) (detail : List Nat)
  | fault (src inst flags : Nat) (info : List Nat)
  | capacity (kind : Nat) (ld gib : Nat)
  deriving DecidableEq, Repr

/-- What the module has driven outwards, newest first: the observable side of a step. -/
inductive Out where
  | memData (h tag : Nat) (v : Line) (poison : Bool) (devLoad : BitVec 2)
  | memDone (h tag : Nat) (devLoad : BitVec 2)
  | atomicData (h tag : Nat) (v : BitVec 128) (poison : Bool)
  | unsupported (h tag : Nat)
  | credit (h : Nat)
  | snoop (ld la : Nat) (k : SnoopKind)
  | viral (h : Nat)
  | aer (h : Nat)
  | link (h : Nat) (up : Bool)
  | regRead (p : Path) (off : Nat) (v : Nat)
  | regDone (p : Path) (off : Nat)
  | msix (ld vec : Nat)
  | sideband (e : Event)
  | reply (ld : Option Nat) (status : Nat) (payload : List Nat)
  | kpAck (h : Nat) (st : IdeStream) (status : Nat)
  | ptm (h : Nat) (t : Nat)
  | bytes (l : List Nat)
  | crs (h : Nat) (on : Bool)
  deriving DecidableEq, Repr

/-! ### Heads and logical devices (chapter 02) -/

/-- One HDM decoder of an LD (R43). -/
structure HdmDecoder where
  base : Nat := 0
  size : Nat := 0
  ways : Nat := 1
  gran : Nat := 256
  dpaBase : Nat := 0
  skip : Nat := 0
  committed : Bool := false
  deriving DecidableEq, Repr

/-- One dynamic-capacity extent of 1 GiB (R48, R100): offered, then accepted; `block` is its shared block where it is sharable,
`seq` the order of acceptance. -/
structure Extent where
  gib : Nat
  accepted : Bool := false
  share : Option Nat := none
  frozen : Bool := false
  seq : Nat := 0
  deriving DecidableEq, Repr

/-- A sharable extent and its sharing domain (R100, R101): the first page of its block, its members, each an LD with the GiB of its DPA space, and the
one that accepted first. -/
structure ShareDomain where
  key : Nat
  firstPage : Nat
  members : List (Nat × Nat) := []
  first : Nat × Nat := (0, 0)
  deriving DecidableEq, Repr

/-- State of one LD: its decoders, extents, the GiBs whose release waits for requests or snoop responses (R50, R102), the snoops of those releases that it has not
answered yet (line address and when each was sent), event logs (Informational, Warning, Failure, Fatal: R353), poison list (R42),
Memory_Active (R446) and the MSI-X pending bits (R489). -/
structure Ld where
  decoders : List HdmDecoder := [{}, {}, {}, {}]
  extents : List Extent := []
  releasing : List Nat := []
  recalls : List (Nat × Nat) := []
  logs : List (List (Nat × Event)) := [[], [], [], []]
  logOvf : Nat := 0
  poison : List (Nat × Nat) := []
  memActive : Bool := false
  msixPending : BitVec 32 := 0
  deriving DecidableEq, Repr

/-- Link bring-up of a head. -/
inductive LinkPhase where
  | reset
  | measuring
  | training
  | up
  | disabled
  deriving DecidableEq, Repr

/-- The key sets of one IDE stream, one for each direction (R52). -/
structure StreamKeys where
  rx : Option (BitVec 256) := none
  tx : Option (BitVec 256) := none
  deriving DecidableEq, Repr

/-- State of one head: its pen (oldest entry first), link, Viral from the host, the key sets of the two IDE streams, the recoveries of the last
second at the present rate (R66), the highest rate that fallback allows, readiness (R445) and when its PERST# last rose, whether an IDE stream is insecure, the
streams that need a new key exchange before CXL.mem resumes (R55), whether the epoch's advance still waits for requests under the value that it is about to take
(R432), and whether the link has trained in SRIS for want of its REFCLK (R418). -/
structure Head where
  pen : List PenEntry := []
  link : LinkPhase := .reset
  hostViral : Bool := false
  memKey : StreamKeys := {}
  ioKey : StreamKeys := {}
  recov : List Nat := []
  ready : Bool := false
  perstRise : Nat := 0
  rateCap : Nat := 4
  insecure : Bool := false
  rekey : List IdeStream := []
  epochDue : Bool := false
  sris : Bool := false
  deriving DecidableEq, Repr

/-! ### Home slices (chapter 03) -/

/-- One snoop-filter entry (Table 3.2); with STATE 0 and SNP its way is still taken by a snoop under way. `stamp` orders uses for the least-recently-used choice
of R82, `silent` names the LDs whose snoop timed out
and whose late response is still to come (R104). -/
structure FilterEntry where
  state : Nat := 0
  holders : BitVec 16 := 0
  snp : Bool := false
  la : Nat := 0
  stamp : Nat := 0
  silent : BitVec 16 := 0
  deriving DecidableEq, Repr

/-- What an open transaction waits for; `order`: an older write of its line that has not landed yet (R88, R90). -/
inductive TxnPhase where
  | snoop
  | map
  | frames
  | frame
  | fill
  | cold
  | victim
  | order
  deriving DecidableEq, Repr

/-- One open transaction of a slice's line table (R73). `snoops`: LDs whose BIRsp is awaited; `job`: the read job it is attached to.
`val`: the line read with its poison, once it is known; `lat`: the idle latency of the path taken, in ns (R284); `wb`: it is a writeback (R89); `snap`: the
map entry at its acceptance (R91, R95). -/
structure Txn where
  req : Req := {}
  phase : TxnPhase := .map
  snoops : List Nat := []
  poisonResult : Bool := false
  victim : Option Nat := none
  slot : Option Nat := none
  job : Option Nat := none
  sentAt : Nat := 0
  val : Option (Line × Bool) := none
  lat : Nat := 170
  wb : Bool := false
  snap : BitVec 128 := 0
  deriving DecidableEq, Repr

/-- One ticket-table entry (R76): the address key, the issue and serve counters, and since when the served ticket is next (R77). -/
structure Ticket where
  key : Nat
  issue : Nat
  serve : Nat
  since : Nat
  deriving DecidableEq, Repr

/-- State of one home slice. `completed`: the completion bits of tags (R301); `uses`: the number of uses of its filter so far. -/
structure Slice where
  txns : List Txn := []
  tickets : List Ticket := []
  nackLog : List (Nat × Nat) := []
  rr : Nat := 0
  filter : SMap FilterEntry := []
  mirror : SMap FilterEntry := []
  txMirror : List Req := []
  entries : List (Nat × BitVec 128) := []
  quiesce : Bool := false
  fenced : Bool := false
  completed : List (Nat × Nat) := []
  uses : Nat := 0
  deriving DecidableEq, Repr

/-- A spare-slice takeover under way for a remap entry (Table 3.6). `double`: both slices of the pair have failed, so no filter is copied (R110). -/
structure Takeover where
  entry : Nat
  failed : Nat
  spare : Option Nat
  step : Nat
  double : Bool := false
  deriving DecidableEq, Repr

/-! ### The hot tier (chapter 04) -/

/-- One frame descriptor (Table 4.2). -/
structure FrameDesc where
  valid : BitVec 64 := 0
  dirty : BitVec 64 := 0
  poison : BitVec 64 := 0
  gpn : Nat := 0
  partner : Option Nat := none
  kind : Nat := 0
  heat : Nat := 0
  noimg : Bool := false
  pin : Bool := false
  fill : Bool := false
  wb : Bool := false
  dtime : Nat := 0
  deriving DecidableEq, Repr

/-- Where a fill takes its lines from (R117, R120, R135). -/
inductive FillSource where
  | cold (job : Nat)
  | frame (f : Nat)
  deriving DecidableEq, Repr

/-- One open-fill entry (R119): the page, its primary frame, the source and the byte masks of partial writes (R206). -/
structure Fill where
  gpn : Nat
  frame : Nat
  source : FillSource
  masks : List (Nat × BitVec 64) := []
  deriving DecidableEq, Repr

/-- One way of a map-cache set (R125): the block, modified, and its use stamp. -/
structure MapTag where
  valid : Bool := false
  modified : Bool := false
  block : Nat := 0
  stamp : Nat := 0
  deriving DecidableEq, Repr

/-- The hot tier: frame lines (key 64 × frame + line), descriptors, open fills, pending masks (R124), the map cache's tags
(key (stack × 131072 + set) × 16 + way) and entries (by page), the heat epoch, the release cursors, pages waiting to be promoted
for PIN, the poison marks of lines that the page's image header does not hold yet (R104), the pages whose demotion waits for a write-back (R131), the line that each stack's patrol visits next, when the heat epoch last advanced, and the lines (64 × frame + line) that hold an
injected error, with whether it is uncorrectable (Table 11.4); the hints of Tier Pages that wait for a switch of the tiering mode (path, LD, DPA, length, promote; Table
16.4); the damaged lines of frames whose page waits for a new one (R135), whether each stack's releases go on until SHED_HIGH (R130), and the ledger blocks
whose cached entries were lost and are to be rebuilt (R167). -/
structure HotTier where
  lines : SMap Line := []
  desc : SMap FrameDesc := []
  fills : List Fill := []
  pending : List (Nat × BitVec 64) := []
  tags : SMap MapTag := []
  entries : SMap (BitVec 128) := []
  heatEpoch : Nat := 0
  cursor : List Nat := [0, 0]
  pinWait : List Nat := []
  marks : SMap (BitVec 64) := []
  hints : List Nat := []
  patrol : List Nat := [0, 0]
  heatAt : Nat := 0
  inject : List (Nat × Bool) := []
  held : List (CmdPath × Nat × Nat × Nat × Bool) := []
  damaged : SMap (BitVec 64) := []
  shedRun : List Bool := [false, false]
  lostBlocks : List Nat := []
  deriving DecidableEq, Repr

/-! ### The cold tier (chapter 05) -/

/-- The location and counters of a page image. -/
structure Image where
  seam : Nat := 0
  spos : Nat := 0
  scnt : Nat := 0
  wcnt : Nat := 0
  epb : Bool := false
  deriving DecidableEq, Repr

/-- What a page-image read is for. -/
inductive JobUse where
  | txn
  | fill
  | op
  deriving DecidableEq, Repr

/-- How a read job has ended. -/
inductive JobResult where
  | lines (l : List Line) (poison : BitVec 64)
  | raw (bytes : List Nat)
  | failed
  deriving DecidableEq, Repr

/-- One read of a page image (R154): the stitches still to read and those that have arrived (none: an erasure). -/
structure ReadJob where
  id : Nat
  gpn : Nat
  img : Image
  use : JobUse
  stitcher : Option Nat := none
  needs : List (Nat × Nat) := []
  got : List (Nat × Nat × Option Stitch) := []
  t0 : Nat := 0
  result : Option JobResult := none
  deriving DecidableEq, Repr

/-- How far a page-level operation has got (R163). -/
inductive OpPhase where
  | opened
  | reading (job : Nat)
  | ready
  | placed
  deriving DecidableEq, Repr

/-- One open page-level operation (R91): its kind, the snapshot of the map entry, whether a line write was accepted since, the image it
writes with the POISON mask that it holds, the frame it fills, the port that opened it the bytes that it gives its stitcher (R155), and whether its
traffic is best-effort (R269). -/
structure PageOp where
  gpn : Nat
  kind : OpKind
  snap : BitVec 128
  written : Bool := false
  phase : OpPhase := .opened
  image : List Nat := []
  loc : Image := {}
  stitcher : Option Nat := none
  frame : Option Nat := none
  port : Nat := 58
  poison : BitVec 64 := 0
  input : Nat := 4096
  be : Bool := true
  deriving DecidableEq, Repr

/-- State of a log segment (R168). -/
inductive SegState where
  | free
  | opened
  | sealed
  | victim
  | tack
  | ledger
  deriving DecidableEq, Repr

/-- One segment-table entry (R168). -/
structure Segment where
  live : Nat := 0
  st : SegState := .free
  lastWrite : Nat := 0
  deriving DecidableEq, Repr

/-- One append stream of a stitcher (R155): its segment, the next seam number in it, and the two seam buffers with their images. -/
structure AppendStream where
  seg : Option Nat := none
  seam : Nat := 0
  bufs : List Stitch := []
  gpns : List Nat := []
  firstAt : Nat := 0
  deriving DecidableEq, Repr

/-- A stitch write that has been issued and not yet accepted by its channel controller. -/
structure StitchWrite where
  seam : Nat
  ch : Nat
  data : Stitch
  deriving DecidableEq, Repr

/-- A map block that a ledger group write writes (R201): its number, the ledger block whose 4,096 plain bytes it holds, and its CNT. -/
structure GroupBlock where
  block : Nat
  page : Nat
  plain : List Nat
  cnt : Nat
  deriving DecidableEq, Repr

/-- A ledger group write under way (R201): the step that comes next (0 the map group, 1 the root counters, 2 the root groups, 3 the pending-update records, 4 the
TYPE 6 record), and the last SEQ that the group's content holds. -/
structure GroupRun where
  group : Nat
  step : Nat := 0
  top : Nat := 0
  blocks : List GroupBlock := []
  deriving DecidableEq, Repr

/-- The cold tier. `stitches`: every DIMM location (key 16 × seam + channel). `journal`: live records, oldest first, with the time each
was written; `drained`: the SEQ up to which they lie in the journal
area; `applied`: by map-area group, the highest SEQ that its last TYPE 6 record names. `victims`: segments under collection; `hostVictims`: those a host named;
`images`: pages with a committed image; `used`: by map slot, the pages not in STATE 0 and the stitches charged to the slot (R178). `jseam`: the journal seam that is written
next; `jpos`: by SEQ of a drained record, one more than the number of seams that the journal wrote before the record's; `groups`: the group writes under way;
`badRoots`: root blocks that failed (R203); `discarding`: releases whose discard is not complete, as LD, GiB and first page (R184). -/
structure ColdTier where
  stitches : SMap Stitch := []
  unwritten : SMap Bool := []
  jobs : List ReadJob := []
  ops : List PageOp := []
  segs : SMap Segment := []
  streams : SMap AppendStream := []
  writes : List StitchWrite := []
  journal : List (Nat × BitVec 256) := []
  drained : Nat := 0
  jseam : Nat := 0
  jpos : SMap Nat := []
  groups : List GroupRun := []
  badRoots : List Nat := []
  discarding : List (Nat × Nat × Nat) := []
  jtags : SMap Nat := []
  applied : SMap Nat := []
  nextSeq : Nat := 1
  victims : List Nat := []
  hostVictims : List Nat := []
  nSeg : Nat := 0
  nLedger : Nat := 0
  nSlots : Nat := 0
  rawGib : Nat := 0
  dimmGib : Nat := 256
  images : Nat := 0
  used : SMap (Nat × Nat) := []
  distressT0 : Nat := 0
  lastFreeze : Nat := 0
  acceptSeq : Nat := 0
  domains : List ShareDomain := []
  deriving DecidableEq, Repr

/-! ### The key vault (chapter 06) -/

/-- One region epoch table entry (Table 6.3). -/
structure EpochEntry where
  hold : Bool := false
  reenc : Bool := false
  kld : Nat := 0
  ridx : Nat := 0
  epoch : Nat := 0
  deriving DecidableEq, Repr

/-- One pending-update record (R201): a map block with its old and new CNT and tag. -/
structure PendingUpdate where
  block : Nat
  oldCnt : Nat
  newCnt : Nat
  oldTag : Nat
  newTag : Nat
  root : Nat
  oldRoot : Nat
  deriving DecidableEq, Repr

/-- One slot's re-encryption (R209 to R211): the next page offset, the units of 64 MiB checkpointed, whether it is active or queued, and whether a
further epoch advance waits for its end (R207). -/
structure Reenc where
  slot : Nat
  next : Nat := 0
  done : Nat := 0
  active : Bool := false
  again : Bool := false
  deriving DecidableEq, Repr

/-- What the key vault holds twice (R353): the root key of an LD, the ledger root key, the epoch-table entry of a map slot, a root counter. -/
inductive VaultItem where
  | root (ld : Nat)
  | ledger
  | epoch (slot : Nat)
  | counter (r : Nat)
  deriving DecidableEq, Repr

/-- The key vault and the re-encryptions. `roots`: LD root keys; `withheld`: LDs whose key waits for the TRNG; `wbHeld`: pages whose write-back is held (R208);
`jpass`: the journal's wraps since the last Level 5 reset (R199); `badCopies`: the copies whose check value does not verify, the second copy where the flag is set
(R353). -/
structure Vault where
  roots : SMap (Option (BitVec 256)) := []
  ledgerKey : Option (BitVec 256) := none
  epochs : SMap EpochEntry := []
  rootCnt : SMap Nat := []
  updates : List PendingUpdate := []
  reenc : List Reenc := []
  withheld : List Nat := []
  wbHeld : List Nat := []
  ledgerWithheld : Bool := false
  jpass : Nat := 0
  badCopies : List (VaultItem × Bool) := []
  winStart : Nat := 0
  deriving DecidableEq, Repr

/-! ### The fault collector (chapter 11) -/

/-- A block that can be fenced or reset on its own (R336, R359). -/
inductive Block where
  | slice (n : Nat)
  | stitcher (n : Nat)
  | engine (n : Nat)
  | channel (n : Nat)
  | slot (ch z : Nat)
  | stack (n : Nat)
  | group (st g : Nat)
  | crossing (n : Nat)
  | street (x dir : Nat)
  | head (n : Nat)
  | plazaPair
  | ctm
  | dcm
  | domain (d : Nat)
  deriving DecidableEq, Repr

/-- A report on its way to the fault collector (R331): source, instance, the four words of DETAIL (R355) and after them, where it concerns memory
contents, a page, a line and a page count; injected; and presented by FLT_FORCE (R345, class A). -/
structure Report where
  src : Nat
  inst : Nat
  info : List Nat := []
  inj : Bool := false
  forced : Bool := false
  deriving DecidableEq, Repr

/-- A report whose source waits for a host decision (R334), and when the wait ends. -/
structure Decision where
  report : Report
  due : Nat
  deriving DecidableEq, Repr

/-- An exposure of Table 11.3a in force: the source that set it and the instance. -/
structure Exposure where
  src : Nat
  inst : Nat
  deriving DecidableEq, Repr

/-- State of the fault collector beside its registers. `inbox`: reports not yet handled in this step; `firstBlocks`: blocks that the first
fault's reaction fenced, reset or isolated (R341); `returnAt`: automatic returns due (R335); `log`: the management fault log in flash,
newest first (R356); `queued`: records waiting for the firmware; `sram`: for each parity block of an on-die SRAM that holds some, the wrong bits (word, bit) standing in the
stored block (R347, R350), under domain·2^32 + parity block·65536 + array, word 64 being the column-parity word and bit 0 a word's row parity. -/
structure Collector where
  inbox : List Report := []
  fenced : List Block := []
  firstBlocks : List Block := []
  firstAt : Nat := 0
  awaiting : List Decision := []
  exposures : List Exposure := []
  returned : List Block := []
  returnAt : List (Block × Nat) := []
  log : List (Nat × Event) := []
  queued : List (Nat × Event) := []
  halt : Bool := false
  sram : SMap (List (Nat × Nat)) := []
  deriving DecidableEq, Repr

/-! ### Layout, fuses and flash (chapter 16) -/

/-- The layout-store parameters of one LD (Table 16.2, section LDS). `db`: the DPA ranges, in GiB, that are HDM-DB. -/
structure LdLayout where
  head : Option Nat := none
  staticGib : Nat := 0
  dcGib : Nat := 0
  pageBase : Nat := 0
  db : List (Nat × Nat) := []
  deriving DecidableEq, Repr

/-- The layout in force beside what the registers hold (Table 16.2): LDs, sharing area, master-port classes, Trim groups; `loaded`: the registers whose
reset value the layout gives, as it gives them (R14). -/
structure Layout where
  lds : List LdLayout := [{ head := some 0 }]
  share : Option (Nat × Nat) := none
  classes : List Nat := []
  groups : List (List Nat) := []
  image : Option LayoutImage := none
  amends : List LayoutImage := []
  safe : Bool := true
  committed : Bool := false
  loaded : SMap Word := []
  deriving DecidableEq, Repr

/-- One layout slot of module flash (R458, R460). -/
structure LayoutSlot where
  image : Option LayoutImage := none
  amends : List LayoutImage := []
  partialWrite : Bool := false
  deriving DecidableEq, Repr

/-- One firmware slot of module flash (R471). -/
structure FwSlot where
  image : Option FwImage := none
  deriving DecidableEq, Repr

/-- A fence record in module flash (R250): of a slot, with the serial number of its DIMM, or of a channel (no slot); `restoring`: a return was accepted. -/
structure FenceRecord where
  ch : Nat
  slot : Option Nat := none
  serial : Nat := 0
  cause : Nat := 0
  restoring : Bool := false
  deriving DecidableEq, Repr

/-- What a program or erase sequence of fuses or flash writes when its pulses have ended (R451): a layout slot, a live amendment for a path, a
firmware slot, the fused minimum layout version, the life-cycle state; a slot erased at the start of a firmware or layout transfer, or a chunk of it. -/
inductive FlashJob where
  | layout (slot : Nat) (img : LayoutImage)
  | amend (img : LayoutImage)
  | firmware (slot : Nat) (img : FwImage)
  | minSvn (v : Nat)
  | lifeCycle (t : LifeCycle)
  | erase (fw : Bool) (slot : Nat)
  | chunk (fw : Bool) (n : Nat)
  deriving DecidableEq, Repr

/-- Module flash: two layout slots with the active marker, two firmware slots, fence records, rows repaired hard or known bad, a transfer in
progress with its bytes so far, the job under way, whether an interrupted write is still to be reported, and the unit of a write that a loss of input cut. -/
structure Flash where
  slots : List LayoutSlot := [{}, {}]
  active : Nat := 0
  fw : List FwSlot := [{ image := some { version := 0, svn := 0, key := 0 } }, {}]
  runSlot : Nat := 1
  staged : Nat := 0
  fences : List FenceRecord := []
  rows : List (Nat × Nat × Nat) := []
  transfer : Option Nat := none
  job : Option FlashJob := none
  report : Bool := false
  cut : Option Nat := none
  deriving DecidableEq, Repr

/-- The fuses (R6, R42, R212, R456, R457): ordering code, serial number, life-cycle state, minimum security versions, key slots that
hold a digest, keys revoked, and the same for firmware (R471). `loaded`: a load has completed with every check passing (R448). -/
structure Fuses where
  code : Nat := 1
  steps : Nat := 0
  serial : Nat := 0
  lc : Nat := 2
  minSvn : Nat := 0
  fwMinSvn : Nat := 0
  keySlots : List Nat := [0, 1, 2, 3]
  revoked : List Nat := []
  fwKeySlots : List Nat := [0, 1, 2, 3]
  fwRevoked : List Nat := []
  loaded : Bool := false
  deriving DecidableEq, Repr

/-! ### Contracts (chapter 08) -/

/-- The states of a cinch (Table 8.6). -/
inductive CinchSt where
  | free
  | pinning
  | active
  | demoted
  deriving DecidableEq, Repr

/-- One cinch slot: the request (Table 8.3), its state, whether it awaits Confirm Cinch (R277) and until when, its sequence number, its
order of admission, its two buckets in units of 1/1000 byte (R267), and the path of the request. -/
structure Cinch where
  st : CinchSt := .free
  waiting : Bool := false
  due : Nat := 0
  ld : Nat := 0
  cls : Nat := 0
  pin : Bool := false
  baseGib : Nat := 0
  lenGib : Nat := 0
  readMbs : Nat := 0
  writeMbs : Nat := 0
  bound : Nat := 0
  allow : Nat := 0
  seq : Nat := 0
  order : Nat := 0
  rbucket : Int := 0
  wbucket : Int := 0
  filled : Nat := 0
  via : CmdPath := .fmApi
  deriving DecidableEq, Repr

/-- Excess accounting of one class (R284): best-effort bytes with delay in the window under way, windows in a row with them (or without
them while an episode runs), whether an episode runs, and the heads that took part. -/
structure Excess where
  bytes : Nat := 0
  run : Nat := 0
  on : Bool := false
  heads : List Nat := []
  deriving DecidableEq, Repr

/-- A rein of background work: what its bucket lacks of being full, in thousandths of a byte, and since when it refills. -/
structure Rein where
  used : Nat := 0
  at_ : Nat := 0
  deriving DecidableEq, Repr

/-- The contract machinery: 64 cinch slots, excess accounting per class, the demotion order (latest first), since when the checks have passed with
a demoted slot included (R282), the next sequence number, the requests that wait for a switch of the admission mode (R465), the reins of the background
work (R269; 0 the W streams, 1 the G streams, 2 the DCM, 3 the ledger port), and the hot-pinned cinches of before a Level 4 reset, whose pages still carry PIN (R266). -/
structure Qos where
  cinches : SMap Cinch := []
  excess : SMap Excess := []
  demoted : List Nat := []
  passSince : List (Nat × Nat) := []
  nextSeq : Nat := 0
  heldReq : List (CmdPath × CinchRequest) := []
  reins : SMap Rein := []
  lastPinned : List Cinch := []
  deriving DecidableEq, Repr

/-! ### The street grid (chapter 09) -/

/-- A packet in a crossing's input buffer, with the time of its arrival. -/
structure Queued where
  pkt : Packet
  at_ : Nat
  deriving DecidableEq, Repr

/-- State of the street grid. `bufs`: input buffers, key ((crossing × 7 + input port) × 2 + route epoch) × 12 + class × 4 + lane (R291);
`outs`: packets sent to a local port and not yet ejected, by endpoint; `gates`: packets waiting at a closed gate, by endpoint
(R298); `closed`: power domains whose gates are closed; `rr`: the round-robin pointer of each output and class; `tables`: route tables where they differ
from the defaults, key (copy × 2 + kind) × 16384 + node × 128 + entry (R299); `epoch`: route epoch in force; `flipping`: a route change is under way;
`declared`: crossings that declared the old epoch drained; `guard`: end of the guard; `down`: streets down, sending crossing × 4 + direction; `failed`: failed
crossings; `mp`: per-master-port packets, bytes, latency sum and largest latency (R305); `sent`: requests with their injection time and the time of
their last response so far (port, tag, injection, last); `tepochs`: the transaction epochs of endpoints (R303). -/
structure Noc where
  bufs : SMap (List Queued) := []
  outs : SMap (List Queued) := []
  gates : SMap (List Queued) := []
  closed : List Nat := []
  rr : SMap Nat := []
  tables : SMap Nat := []
  epoch : Bool := false
  flipping : Bool := false
  declared : List Nat := []
  guard : Option Nat := none
  down : List Nat := []
  failed : List Nat := []
  mp : SMap (Nat × Nat × Nat × Nat) := []
  sent : List (Nat × Nat × Nat × Nat) := []
  tepochs : SMap Nat := []
  deriving DecidableEq, Repr

/-! ### Near-memory engines (chapter 10) -/

/-- A descriptor (Table 10.2). `rsvd`: some reserved field is not 0. -/
structure Descriptor where
  opc : Nat := 0
  fence : Bool := false
  intr : Bool := false
  mat : Bool := false
  tag : Nat := 0
  src : Nat := 0
  dst : Nat := 0
  len : Nat := 0
  aux : Nat := 0
  imm : BitVec 128 := 0
  res : Nat := 0
  rsvd : Bool := false
  deriving DecidableEq, Repr

/-- What a descriptor ended with: status code, RESULT and DONE (Table 10.4). -/
structure Ending where
  status : Nat
  result : Nat
  done : Nat
  deriving DecidableEq, Repr

/-- A descriptor that an engine has fetched or refused. `fetched`: its line has been read; `started`: it executes (R323); `waits`: the request of it that
a home slice is serving. `pos`: bytes of the operation dealt with; `fin`: the work counted in DONE; `res`: RESULT so far; `buf`: bytes gathered (the data of
a digest, a host matrix); `mat`: the coefficients of RS_REC; `vals`, `wrote`: lines read and written of the part under way; `bad`: it met poison; `asked`: the discard of
the page at hand has been asked for (R318); `stamp`: its doorbell's (R311). -/
structure Running where
  ring : Nat
  idx : Nat
  eng : Nat
  d : Descriptor := {}
  fetched : Bool := false
  started : Bool := false
  waits : Option Nat := none
  pos : Nat := 0
  fin : Nat := 0
  res : Nat := 0
  buf : List Nat := []
  mat : List (List Nat) := []
  vals : List Line := []
  wrote : Nat := 0
  bad : Bool := false
  asked : Bool := false
  stamp : Nat := 0
  ended : Option Ending := none
  deriving DecidableEq, Repr

/-- State of one ring: the loaded bases and size (R310), the next index to fetch, and the doorbell stamps of the indices not fetched yet (R311). -/
structure Ring where
  dbase : Nat := 0
  cbase : Nat := 0
  entries : Nat := 64
  start : Nat := 0
  stamps : List (Nat × Nat) := []
  deriving DecidableEq, Repr

/-- The engines: descriptors, ring state, and per engine the ring served last and its consecutive picks (R323). -/
structure Nme where
  running : List Running := []
  rings : SMap Ring := []
  picks : SMap (Nat × Nat) := []
  deriving DecidableEq, Repr

/-! ### DDR5 channels, the channel-maintenance unit and the stack controllers (chapter 07) -/

/-- A read in a channel controller's read queue (R224), or outstanding to the DIMM: its effective rank (R260), its page hint, and the stitch as the last
write accepted before it left it (R228). `promoted` is derived from `at_` (Table 7.3). -/
structure ReadEntry where
  job : Nat
  seam : Nat
  cls : Nat
  val : Stitch := 0
  openHint : Bool
  at_ : Nat
  deriving DecidableEq, Repr

/-- A write in a channel controller's write queue (R224). -/
structure WriteEntry where
  seam : Nat
  data : Stitch
  at_ : Nat
  deriving DecidableEq, Repr

/-- An open row of a bank, with its last access (R227). -/
structure OpenRow where
  bank : Nat
  row : Nat
  at_ : Nat
  deriving DecidableEq, Repr

/-- An uncorrectable stitch as DCC logged it (R239): when, slot, rank, bank, row. -/
structure UeLog where
  at_ : Nat
  z : Nat
  rank : Nat
  bank : Nat
  row : Nat
  deriving DecidableEq, Repr

/-- One DIMM slot beside DCC_SLOT: what its SPD said (none: not read yet), whether a DIMM is fitted, the readings that are being retried with the time
of their first failure (R221), whether a power-on command's check is still to come (R409), the PMIC rails and currents, the state that a return command in progress found (R254), the ranks retired of the DIMM
with this serial number, and whether its temperature halves the refresh interval and throttles (R222). -/
structure DimmSlot where
  info : Option SpdInfo := none
  fitted : Bool := true
  failing : List (DimmReading × Nat) := []
  check : Bool := false
  rails : List Nat := []
  currents : List Nat := []
  prev : Option Nat := none
  retired : Nat × Nat := (0, 0)
  fg : Bool := false
  thr : Bool := false
  deriving DecidableEq, Repr

/-- State of one channel controller (R224 to R241). `rq`, `wq`: the queues, oldest first; `hits`: row hits in a row of each rank while a miss of it
waits; `run`: writes of the drain's burst under way; `due`, `ahead`: refreshes postponed and pulled in, by bank (R229); `marginAt`: when the last margining
pass ran (R233); `stopped`: no request is accepted (R230); `held`: training
results held for the host, as the ranks that failed (R232), since `heldAt`; `applied`: settings committed by the host are in force; `fast`: the
training under way is a fast one; `retrain`: ranks being retrained; `srTemps`: DCC_TEMP at self-refresh entry; `zqCal`: the last exit ran ZQ
calibration; `ueLog`: the uncorrectable errors of the last 24 h; `inject`, `corrupt`: seams whose stitch holds an injected error that ECC
corrects, or one beyond it (Table 11.4); `lost`: its training results are lost, so that its next training is a full one (Table 11.5). -/
structure Dcc where
  rq : List ReadEntry := []
  wq : List WriteEntry := []
  hits : SMap Nat := []
  run : Nat := 0
  rows : List OpenRow := []
  due : List (Nat × Nat) := []
  ahead : SMap Nat := []
  marginAt : Nat := 0
  stopped : Bool := false
  held : Option (List (Nat × Nat)) := none
  heldAt : Nat := 0
  applied : Option Nat := none
  fast : Bool := false
  retrain : List (Nat × Nat) := []
  srTemps : Word := 0xFFFFFFFF
  zqCal : Bool := false
  ueLog : List UeLog := []
  slots : List DimmSlot := [{}, {}]
  inject : List Nat := []
  corrupt : List Nat := []
  lost : Bool := false
  deriving DecidableEq, Repr

/-- A line access in the queue of a pseudo-channel group (R256): transaction, write or read. -/
structure LineAccess where
  id : Nat
  write : Bool
  cls : Nat
  row : Nat
  bank : Nat
  at_ : Nat
  deriving DecidableEq, Repr

/-- One pseudo-channel group of a stack (R256): queues, open rows, drain. -/
structure Group where
  rq : List LineAccess := []
  wq : List LineAccess := []
  rows : List OpenRow := []
  hits : Nat := 0
  run : Nat := 0
  drain : Bool := false
  deriving DecidableEq, Repr

/-- The channel-maintenance unit: the coverage bits of R244 (key block × 1048576 + segment of the slot), DCM_BLK as the keep island holds it through
a Level 4 reset (R249), DCC_SLOT (2 × channel + slot) as it was before the reset under way, the ranges that patrol commands named (R238), when each seam was last visited, the failed slots that wait for a block (2 × channel
+ slot, R245), ranks that wait for their retrain (R233; channel 16 + st: group 4 × slot + rank of a stack), restores that have no block, with the units done,
and when each block's last unit ended (R247). -/
structure Dcm where
  cover : SMap Bool := []
  saved : List Word := []
  slots : List Word := []
  ranges : List (Nat × Nat) := []
  visited : SMap Nat := []
  pend : List Nat := []
  retrainQ : List (Nat × Nat × Nat) := []
  restores : List (Nat × Nat × Nat) := []
  unitAt : List Nat := [0, 0, 0, 0]
  deriving DecidableEq, Repr

/-- The DRAM side of the module: channel controllers, pseudo-channel groups (key 8 × stack + group), the DCM, held training results of the
stacks, the pseudo-channel group (8 × stack + group) that retrains (R258), when each stack's last margining pass ran, and whether the population has been
checked (R219). -/
structure Dram where
  dcc : SMap Dcc := []
  groups : SMap Group := []
  dcm : Dcm := {}
  stackHeld : List (Nat × Nat × List Nat) := []
  stackRetrain : Option Nat := none
  stackMarginAt : List Nat := [0, 0]
  checked : Bool := false
  deriving DecidableEq, Repr

/-! ### Power, supply, clocks and reset (chapters 12 to 15, 19) -/

/-- What an indicator of the module shows (Table 13.7, R510). -/
inductive Lamp where
  | off
  | green
  | greenBlink
  | amber
  | amberBlink
  deriving DecidableEq, Repr

/-- The condition of a power domain (Table 12.2). -/
inductive DomCond where
  | on
  | stopped
  | retained
  | off
  deriving DecidableEq, Repr

/-- A state entry or exit in progress (Tables 12.6 to 12.9). -/
inductive PowerMove where
  | none
  | keepReleasing
  | keepRails
  | keepExit
  deriving DecidableEq, Repr

/-- A voltage request that awaits its acknowledgement (R380). -/
structure VoltReq where
  rail : Nat
  mv : Nat
  at_ : Nat
  deriving DecidableEq, Repr

/-- The power controller. `cond`: condition of domains 0 to 143 (key; default off); `idleSince`: the last request of R366; `rails`: the
setpoints of Table 12.12 in mV; `reqs`: one outstanding request per rail; `wake`: a wake that waits for its exit; `downs`: power-downs with
their t0 (R361, R362); `burstAt`: the last maintenance burst; `sleptAt`: when keep-clock counting began; `usedAt`: when a stitcher's or an engine's domain last had a request or
a context of its own (TRIM_IDLE). -/
structure Power where
  cond : SMap DomCond := []
  move : PowerMove := .none
  moveAt : Nat := 0
  idleSince : Nat := 0
  rails : List Nat := [0, 0, 0, 0]
  reqs : List VoltReq := []
  wake : Option Nat := none
  downs : List (Nat × Nat) := []
  burstAt : Nat := 0
  inBurst : Bool := false
  sleptAt : Nat := 0
  usedAt : SMap Nat := []
  deriving DecidableEq, Repr

/-- One supply channel of Table 13.1 beside SUP_CH_STS: the fault timer's start, whether it ran in the qualification window, the window's
start, retry attempt under way, the next retry, the newest sample, the energy counter in mJ with its remainder, and for a slot the
switch-off time. `rampAt`: start of the ramp; `ramped`: the output has reached the PG threshold with the switch fully on; `used`: retries used
(R398). `rem` counts in 0.1 nJ. -/
structure Channel where
  mv : Nat := 0
  ftAt : Option Nat := none
  ftInWin : Bool := false
  winAt : Option Nat := none
  retrying : Bool := false
  rampAt : Nat := 0
  nextAt : Option Nat := none
  offAt : Nat := 0
  ovAt : Option Nat := none
  sampleMv : Nat := 0
  sampleCur : Nat := 0
  energy : Nat := 0
  rem : Nat := 0
  ramped : Bool := false
  used : Nat := 0
  deriving DecidableEq, Repr

/-- The TP7 (chapter 13): its channels, Vin, the module bus in mV, the input lost since, the trip record store (trips of feeds A and B, slot trips, a channel latched off), the bounds on P_cap from the
inlet (R515) and the junction (R516), the times of the last throttle steps, and junction over-temperature. -/
structure Supply where
  chans : SMap Channel := [(0, { mv := 12000, ramped := true }), (1, { mv := 12000, ramped := true })]
  vin : Nat := 12000
  bus : Nat := 12000
  lostAt : Option Nat := none
  feedLostAt : List (Option Nat) := [none, none]
  record : Option (Nat × Nat × Nat × Bool) := none
  inletCap : Nat := 800
  inletOkAt : Option Nat := none
  inletMax : Nat := 0
  raiseAt : Nat := 0
  overtemp : Bool := false
  thermCap : Bool := false
  deriving DecidableEq, Repr

/-- The keep island's clocks and time (chapter 14): which references have been good since when, the core reference in use, sub-nanosecond
remainders of TIME_NS in units of 2^-32 ns and of the slew in ppm, sleep counting since, the last calibration. -/
structure Clocks where
  refGoodAt : List (Option Nat) := [none, none, none]
  keepTick : Nat := 0
  frac : Nat := 0
  slewFrac : Nat := 0
  slewRem : Nat := 0
  sleepStart : Option Nat := none
  calAt : Option Nat := none
  lockedAt : Nat := 0
  deriving DecidableEq, Repr

/-- A Level 3 reset of one block under way (R437): the domain, its source, when the idle request went out, and whether idle has been reached. -/
structure BlockReset where
  dom : Nat
  src : Nat
  at_ : Nat
  released : Bool := false
  deriving DecidableEq, Repr

/-- A non-volatile pulse under way (R451): kind (1 fuse program, 2 flash program, 3 flash erase), unit and start. -/
structure NvPulse where
  kind : Nat
  unit : Nat
  at_ : Nat
  deriving DecidableEq, Repr

/-- The reset controller (chapter 15): the pins as sampled, the start-up under way with its t0 and source, Level 3 resets, a fuse load and
the times of incomplete loads, the non-volatile pulse under way, the reset deferred behind it (source, instance, level, arrival), whether
MRST_N is low, the domains whose self-test is over in this start-up, whether an overwrite follows it (R216), which host cables are present (R498), and which
PERST# pins are low (Table 19.3: 0 and 1 are A# and B# of HCN0, 2 and 3 those of HCN1). -/
structure Resets where
  bootSrc : Nat := 0
  clkMode : Nat := 0
  addr : Nat := 0
  t0 : Nat := 0
  blocks : List BlockReset := []
  fuseFails : List Nat := []
  pulse : Option NvPulse := none
  deferred : Option (Nat × Nat × Nat × Nat) := none
  mrstLow : Bool := false
  released : List Nat := []
  overwrite : Bool := false
  cables : List Bool := [true, true]
  lowPins : List (Fin 4) := [0, 1, 2, 3]
  deriving DecidableEq, Repr

/-! ### PMU and management (chapters 16, 17) -/

/-- The PMU beside its registers: the fixed accumulators of the window under way, TIME_NS at its start, whether it was changed by a time
correction or held sleep; for a freeze by overflow, when it began and what each counter has added since (R482); and the counter whose sample is
still to be taken, with the occurrences until it (R481). -/
structure Pmu where
  acc : SMap Nat := []
  winStart : Nat := 0
  adjusted : Bool := false
  slept : Bool := false
  freezeAt : Option Nat := none
  late : SMap Nat := []
  pick : Option (Nat × Nat) := none
  deriving DecidableEq, Repr

/-- The management complex: whether an MGR command is in progress and the path that its reply takes (none where a reset has cut it off), an online
activation with its slot, its start and the path of its reply, the bytes of a firmware transfer so far, and when the firmware started. -/
structure Mgmt where
  mgrBusy : Bool := false
  via : Option CmdPath := none
  act : Option (Nat × Nat) := none
  actVia : Option CmdPath := none
  fwTransfer : Option Nat := none
  fwAt : Nat := 0
  deriving DecidableEq, Repr

/-- What one access path holds of R17 and R18: the _HI halves latched by _LO reads, _LO halves held for a pair's write, and the three
selector registers. -/
structure PathState where
  latch : SMap (Option Word) := []
  held : SMap (Option Word) := []
  qosCsel : Nat := 0
  cryEpochSel : Nat := 0
  nocMpSel : Nat := 0
  deriving DecidableEq, Repr

/-! ### The machine -/

/-- A fault: the machine stops. No command of this block ends in one: the spec gives every command an effect or drops it. `absent` is what a
command would raise that addresses state the spec gives no place; nothing raises it (safe). -/
inductive Fault where
  | absent
  deriving DecidableEq, Repr

/-- A refusal: the model declines the command. -/
inductive Refusal where
  /-- Raised by an arm of `exec` whose command has no meaning yet (safe: it stops). -/
  | notModelled (mnemonic : String)
  deriving DecidableEq, Repr

/-- The whole machine. `clk`: nanoseconds since the state after reset (the model's clock); `free`: the counter that free values are taken at
(the model's own field); `nextId`: the next request or job number; `regs`: every register of BAR2 by offset; `paths`: R17 and R18 per access
path (key: head, 4 for the plaza); `flight`: requests on their way to slices; `replies`: replies on their way to requesters;
`out`: what the module has driven outwards, newest first; `dbLost`: remap entries whose filter is lost, each with the heads still to be
reset (R110); `pending`: the commands that wait, first in, first out. -/
structure State where
  clk : Nat := 0
  free : Nat := 0
  nextId : Nat := 1
  regs : SMap Word := []
  paths : SMap PathState := []
  flight : List Req := []
  replies : List Reply := []
  out : List Out := []
  heads : SMap Head := []
  lds : SMap Ld := []
  slices : SMap Slice := []
  takeovers : List Takeover := []
  dbLost : List (Nat × List Nat) := []
  teardown : List Nat := []
  hot : HotTier := {}
  cold : ColdTier := {}
  vault : Vault := {}
  flt : Collector := {}
  layout : Layout := {}
  flash : Flash := {}
  fuses : Fuses := {}
  qos : Qos := {}
  noc : Noc := {}
  nme : Nme := {}
  dram : Dram := {}
  pwr : Power := {}
  sup : Supply := {}
  clocks : Clocks := {}
  rst : Resets := {}
  pmu : Pmu := {}
  mgmt : Mgmt := {}
  pending : List Instr := []
  deriving DecidableEq, Repr

/-- The state right after power-on, with Level 5 asserted and before its start-up begins (R444, Table 15.6): every register at the reset value
that `Reg.resetOf` gives it, nothing in any buffer, memory listing nothing, and no command waiting. -/
def State.reset : State := {}

end Sys2Proof.Machine
end

