-- ==== Sys2Proof/Machine/Ops.lean ====
section
/-! DEFINITION. The named operations over registers, time, free values, reports, logs and per-instance state that every meaning is
written with. -/
namespace Sys2Proof.Machine

open Sys2Proof

/-- The outcome of a meaning. -/
abbrev Res := Host.Outcome State Fault Refusal

/-! ### Registers (R13 to R18) -/

/-- The stored value of the register at BAR2 offset `a`. -/
def State.reg (s : State) (a : Nat) : Word := SMap.get (Reg.resetOf a) s.regs a

/-- The register at offset `a` set to `v`. -/
def State.setReg (s : State) (a : Nat) (v : Word) : State := { s with regs := SMap.put (Reg.resetOf a) s.regs a v }

/-- The bits of a register that field `f` holds. -/
def fieldBits (f : Reg.FRef) : Nat := (2 ^ f.w - 1) * 2 ^ f.lo

/-- The value of field `f` in register value `v`. -/
def fieldOf (v : Word) (f : Reg.FRef) : Nat := v.toNat / 2 ^ f.lo % 2 ^ f.w

/-- `v` with field `f` set to `x` (modulo the field's width). -/
def withField (v : Word) (f : Reg.FRef) (x : Nat) : Word :=
  BitVec.ofNat 32 (v.toNat - fieldOf v f * 2 ^ f.lo + x % 2 ^ f.w * 2 ^ f.lo)

/-- The stored value of field `f`. -/
def State.fld (s : State) (f : Reg.FRef) : Nat := fieldOf (s.reg f.addr) f

/-- Whether a one-bit field is 1. -/
def State.on (s : State) (f : Reg.FRef) : Bool := s.fld f != 0

/-- Field `f` set to `x`. -/
def State.setFld (s : State) (f : Reg.FRef) (x : Nat) : State := s.setReg f.addr (withField (s.reg f.addr) f x)

/-- A one-bit field set to `b`. -/
def State.setBit (s : State) (f : Reg.FRef) (b : Bool) : State := s.setFld f b.toNat

/-- Field `f` of the word computed as `x`, at most the field's greatest value. -/
def showFld (f : Reg.FRef) (x : Nat) (w : Word) : Word := withField w f (Nat.min x (2 ^ f.w - 1))

/-- A one-bit field of the word computed as `b`. -/
def showBit (f : Reg.FRef) (b : Bool) (w : Word) : Word := withField w f b.toNat

/-- A saturating counter field advanced by `n`. -/
def State.count (s : State) (f : Reg.FRef) (n : Nat := 1) : State := s.setFld f (satAdd f.w (s.fld f) n)

/-- A wrapping counter field advanced by `n`. -/
def State.wrap (s : State) (f : Reg.FRef) (n : Nat := 1) : State := s.setFld f (s.fld f + n)

/-- Bit `i` of the field `f`. -/
def State.bitOf (s : State) (f : Reg.FRef) (i : Nat) : Bool := (s.fld f).testBit i

/-- Bit `i` of field `f` set to `b`. -/
def State.setBitOf (s : State) (f : Reg.FRef) (i : Nat) (b : Bool) : State :=
  let x := s.fld f
  s.setFld f (if b then x ||| 2 ^ i else x - (if x.testBit i then 2 ^ i else 0))

/-- A 64-bit value held in an _LO and an _HI register. -/
def State.pair (s : State) (lo hi : Nat) : Nat := (s.reg lo).toNat + 2 ^ 32 * (s.reg hi).toNat

/-- An _LO and _HI pair set to `v`. -/
def State.setPair (s : State) (lo hi v : Nat) : State := (s.setReg lo (BitVec.ofNat 32 v)).setReg hi (BitVec.ofNat 32 (v / 2 ^ 32))

/-- A 64-bit counter in a pair advanced by `n`, wrapping. -/
def State.wrapPair (s : State) (lo hi n : Nat) : State := s.setPair lo hi (s.pair lo hi + n)

/-- TIME_NS (R422). -/
def State.time (s : State) : Nat := s.pair Reg.TIME_NS_LO Reg.TIME_NS_HI

/-- TIME_NS set to `t`. -/
def State.setTime (s : State) (t : Nat) : State := s.setPair Reg.TIME_NS_LO Reg.TIME_NS_HI t

/-! ### Free values -/

/-- The free value that the counter stands at. -/
def State.freeVal (s : State) (w : Nat) : BitVec w := Config.freeValue w s.free

/-- The counter of free values advanced past the one just taken. -/
def State.spent (s : State) : State := { s with free := s.free + 1 }

/-- A fresh number for a request or a job. -/
def State.fresh (s : State) : Nat × State := (s.nextId, { s with nextId := s.nextId + 1 })

/-! ### Outputs and reports -/

/-- Something driven outwards. -/
def State.emit (s : State) (o : Out) : State := { s with out := o :: s.out }

/-- A detector reports source `src`, instance `inst` (R330); the fault collector judges it when the step's own effect is complete. -/
def State.report (s : State) (src inst : Nat) (info : List Nat := []) : State :=
  { s with flt := { s.flt with inbox := s.flt.inbox ++ [{ src := src, inst := inst, info := info }] } }

/-- The same for an injected fault (R346). -/
def State.reportInj (s : State) (src inst : Nat) (info : List Nat := []) : State :=
  { s with flt := { s.flt with inbox := s.flt.inbox ++ [{ src := src, inst := inst, info := info, inj := true }] } }

/-- The same, injected or not. -/
def State.reportAs (s : State) (inj : Bool) (src inst : Nat) (info : List Nat := []) : State :=
  if inj then s.reportInj src inst info else s.report src inst info

/-- Whether data-path injection `tgt` is armed for instance `inst` (R345, Table 11.4). -/
def State.armed (s : State) (tgt inst : Nat) : Bool :=
  s.on Reg.FLT_INJ_ARM && s.fld Reg.FLT_INJ_TGT == tgt && s.fld Reg.FLT_INJ_INST == inst

/-- The armed injection fires. -/
def fire (s : State) : State := (s.setFld Reg.FLT_INJ_ARM 0).setFld Reg.FLT_FORCE_STS_FIRED 1

/-- A write through a path that the register does not accept is dropped and reported as ACCESS_FAULT (source 0x1D). -/
def State.accessFault (s : State) : State := s.report 0x1D 0

/-- The effect `f` of a plaza-only register write; through a head the write is dropped and reported. -/
def plazaOnly (p : Path) (s : State) (f : State → State) : State :=
  match p with
  | .plaza => f s
  | .head _ _ => s.accessFault

/-! ### Changing one part of the machine -/

def State.onPwr (s : State) (f : Power → Power) : State := { s with pwr := f s.pwr }
def State.onSup (s : State) (f : Supply → Supply) : State := { s with sup := f s.sup }
def State.onRst (s : State) (f : Resets → Resets) : State := { s with rst := f s.rst }
def State.onClocks (s : State) (f : Clocks → Clocks) : State := { s with clocks := f s.clocks }
def State.onMgmt (s : State) (f : Mgmt → Mgmt) : State := { s with mgmt := f s.mgmt }
def State.onFlt (s : State) (f : Collector → Collector) : State := { s with flt := f s.flt }
def State.onHot (s : State) (f : HotTier → HotTier) : State := { s with hot := f s.hot }
def State.onCold (s : State) (f : ColdTier → ColdTier) : State := { s with cold := f s.cold }
def State.onVault (s : State) (f : Vault → Vault) : State := { s with vault := f s.vault }
def State.onNoc (s : State) (f : Noc → Noc) : State := { s with noc := f s.noc }
def State.onNme (s : State) (f : Nme → Nme) : State := { s with nme := f s.nme }
def State.onDram (s : State) (f : Dram → Dram) : State := { s with dram := f s.dram }
def State.onQos (s : State) (f : Qos → Qos) : State := { s with qos := f s.qos }
def State.onLayout (s : State) (f : Layout → Layout) : State := { s with layout := f s.layout }
def State.onFlash (s : State) (f : Flash → Flash) : State := { s with flash := f s.flash }
def State.onFuses (s : State) (f : Fuses → Fuses) : State := { s with fuses := f s.fuses }
def State.onPmu (s : State) (f : Pmu → Pmu) : State := { s with pmu := f s.pmu }
def State.onDcm (s : State) (f : Dcm → Dcm) : State := s.onDram fun d => { d with dcm := f d.dcm }

/-! ### Per-instance state -/

def State.head (s : State) (h : Nat) : Head := SMap.get {} s.heads h
def State.updHead (s : State) (h : Nat) (f : Head → Head) : State := { s with heads := SMap.upd {} s.heads h f }
def State.ld (s : State) (k : Nat) : Ld := SMap.get {} s.lds k
def State.updLd (s : State) (k : Nat) (f : Ld → Ld) : State := { s with lds := SMap.upd {} s.lds k f }
def State.slice (s : State) (n : Nat) : Slice := SMap.get {} s.slices n
def State.updSlice (s : State) (n : Nat) (f : Slice → Slice) : State := { s with slices := SMap.upd {} s.slices n f }
def State.dcc (s : State) (c : Nat) : Dcc := SMap.get {} s.dram.dcc c
def State.updDcc (s : State) (c : Nat) (f : Dcc → Dcc) : State :=
  { s with dram := { s.dram with dcc := SMap.upd {} s.dram.dcc c f } }
def State.group (s : State) (k : Nat) : Group := SMap.get {} s.dram.groups k
def State.updGroup (s : State) (k : Nat) (f : Group → Group) : State :=
  { s with dram := { s.dram with groups := SMap.upd {} s.dram.groups k f } }
def State.chan (s : State) (j : Nat) : Channel := SMap.get {} s.sup.chans j
def State.updChan (s : State) (j : Nat) (f : Channel → Channel) : State :=
  { s with sup := { s.sup with chans := SMap.upd {} s.sup.chans j f } }
def State.ring (s : State) (r : Nat) : Ring := SMap.get {} s.nme.rings r
def State.updRing (s : State) (r : Nat) (f : Ring → Ring) : State := { s with nme := { s.nme with rings := SMap.upd {} s.nme.rings r f } }
def State.cinch (s : State) (k : Nat) : Cinch := SMap.get {} s.qos.cinches k
def State.updCinch (s : State) (k : Nat) (f : Cinch → Cinch) : State :=
  { s with qos := { s.qos with cinches := SMap.upd {} s.qos.cinches k f } }
def State.path (s : State) (k : Nat) : PathState := SMap.get {} s.paths k
def State.updPath (s : State) (k : Nat) (f : PathState → PathState) : State := { s with paths := SMap.upd {} s.paths k f }

/-- The access path of R17: the head that carries the access, or 4 for the plaza. -/
def Path.key : Path → Nat
  | .head h _ => h.val
  | .plaza => 4

/-- The wrong bits of the SRAMs of domain `d` are gone with what the SRAMs held. -/
def State.clearSram (s : State) (d : Nat) : State :=
  { s with flt := { s.flt with sram := SMap.keep (fun k => k / 2 ^ 32 != d) s.flt.sram,
                               exposures := s.flt.exposures.filter fun e => !(e.src == 0x22 && e.inst / 2 ^ 32 == d) } }

/-- The condition of power domain `d` (Table 12.2). A domain switched off loses what its SRAMs held. -/
def State.cond (s : State) (d : Nat) : DomCond := SMap.get .off s.pwr.cond d
def State.setCond (s : State) (d : Nat) (c : DomCond) : State :=
  let s1 := { s with pwr := { s.pwr with cond := SMap.put .off s.pwr.cond d c } }
  if c = .off then s1.clearSram d else s1

/-- Apply `f` for every number of `l`, in order. -/
def forAll {α : Type} (l : List α) (s : State) (f : State → α → State) : State := l.foldl f s

/-- A queue of R366 has just let a request go: the idle time is counted from here. Requests of a maintenance burst do not end idleness. -/
def touchIdle (s : State) : State := if s.pwr.inBurst then s else { s with pwr := { s.pwr with idleSince := s.clk } }

/-- Domain `d` has just been used: TRIM_IDLE is counted from here. -/
def touchDomain (d : Nat) (s : State) : State := { s with pwr := { s.pwr with usedAt := SMap.put 0 s.pwr.usedAt d s.clk } }

/-! ### Heads and logical devices presented (R34, HPA_LD_ACT) -/

/-- Whether head `h` is present. -/
def State.present (s : State) (h : Nat) : Bool := s.on (Reg.HPA_CFG_PRESENT h)

/-- Whether head `h`'s link is up. -/
def State.linkUp (s : State) (h : Nat) : Bool := s.on (Reg.HPA_LINK_STS_UP h)

/-- The LDs that head `h` presents. -/
def State.ldsOf (s : State) (h : Nat) : List Nat := (List.range 16).filter (fun k => s.bitOf (Reg.HPA_LD_ACT_LD_ACTIVE h) k)

/-- Every presented LD. -/
def State.allLds (s : State) : List Nat := (List.range 4).flatMap s.ldsOf

/-- The head that LD `k` is assigned to (HPA_CFG.LD_MASK). -/
def State.headOf (s : State) (k : Nat) : Option Nat := (List.range 4).find? (fun h => s.bitOf (Reg.HPA_CFG_LD_MASK h) k)

/-! ### MSI-X (R322, R489) -/

/-- The MSI-X message of vector `vec` of LD `k`: sent while its head's link is up, and held until then otherwise. -/
def State.msix (s : State) (k vec : Nat) : State :=
  match s.headOf k with
  | some h => if s.linkUp h then s.emit (.msix k vec) else s.updLd k fun d => { d with msixPending := d.msixPending ||| (1 <<< vec) }
  | none => s

/-- The held messages of the LDs of head `h` are sent. -/
def State.flushMsix (s : State) (h : Nat) : State :=
  forAll (s.ldsOf h) s fun t k =>
    let p := (t.ld k).msixPending
    (forAll (List.range 32) t fun u v => if p.getLsbD v then u.emit (.msix k v) else u).updLd k fun d => { d with msixPending := 0 }

/-! ### The counting bus (R475 to R482) -/

/-- How an event of Table 17.1 is marked: "c" (class and best-effort flag), "a" (address and master port). None: the table does not list it. -/
def eventMark (block ev : Nat) : Option (Bool × Bool) :=
  if ev = 0 then (if 1 ≤ block ∧ block ≤ 10 then some (false, false) else none)
  else
    let t : List (Option (Bool × Bool)) := match block with
      | 1 => [some (true, true), some (true, true), some (true, true), some (true, true), some (false, true), some (false, false), some (false, false),
          some (false, false)]
      | 2 => [some (true, true), some (true, true), some (true, true), some (false, true), some (false, true), some (false, true), some (true, true),
          some (true, true), some (true, true), some (false, true), some (false, true)]
      | 3 => [some (true, true), some (true, true), some (false, true), some (false, false), some (false, false), some (false, false), some (false, false)]
      | 4 => [some (true, true), some (true, true), some (false, false), some (false, true), some (false, true), some (false, false)]
      | 5 => [some (true, false), some (true, false), some (false, false), some (false, false), some (false, false), some (false, false),
          some (false, false), some (false, false)]
      | 6 => [some (false, false), some (false, true), some (false, true), some (false, false)]
      | 7 => [some (true, false), some (true, false), some (false, false), some (false, false)]
      | 8 => [some (false, true), some (false, true), some (false, false), some (false, false)]
      | 9 => [some (false, false), some (false, false), some (false, false), some (false, false)]
      | 10 => [some (false, false), some (false, false), some (false, false), some (false, false)]
      | _ => []
    (t[ev - 1]?).join

/-- Whether counter `i` counts occurrence `o` (R475 to R477). -/
def State.counts (s : State) (i : Nat) (o : Occurrence) : Bool :=
  match eventMark o.block o.event with
  | none => false
  | some (c, _) =>
    s.fld (Reg.PMU_GRP_BLOCK (i / 8)) == o.block && s.fld (Reg.PMU_GRP_INST (i / 8)) == o.inst && s.on (Reg.PMU_EVT_EN i) &&
    s.fld (Reg.PMU_EVT_EVENT i) == o.event &&
    (!c || ((s.fld (Reg.PMU_EVT_CLS i) == 0 || (s.fld (Reg.PMU_EVT_CLS i)).testBit o.cls) &&
      (match s.fld (Reg.PMU_EVT_BEF i) with
       | 1 => !o.be
       | 2 => o.be
       | _ => true)))

/-- The value of counter `i`. -/
def State.ctr (s : State) (i : Nat) : Nat := s.pair (Reg.PMU_CTR_LO i) (Reg.PMU_CTR_HI i)

/-- The sample of occurrence `o` of counter `i` latched (R481). -/
def State.sample (s : State) (i : Nat) (o : Occurrence) : State :=
  let a := match eventMark o.block o.event with
    | some (_, b) => b
    | none => false
  let pc := o.block == 9 && o.event != 0
  let s1 := (((s.setFld Reg.PMU_SMP_INFO_VALID 1).setFld Reg.PMU_SMP_INFO_CTR i).setBit Reg.PMU_SMP_INFO_PC pc).setFld
    Reg.PMU_SMP_INFO_MPORT (if a then o.mport else 0)
  (s1.setFld Reg.PMU_SMP_INFO_TAG (if a then o.tag else 0)).setPair Reg.PMU_SMP_ADDR_LO Reg.PMU_SMP_ADDR_HI
    (if a then o.la else if pc then o.pc else 0)

/-- The counters of `is` overflow with INT = 1 in one cycle (R480 to R482): their interrupts go out; the lowest is sampled, at this occurrence or one
of the 16 that follow it (free), unless a sample is latched or awaited, which PMU_STS.LOST counts. -/
def State.overflow (s : State) (is : List Nat) (o : Occurrence) : State :=
  match is with
  | [] => s
  | i :: rest =>
    let s1 := if s.on Reg.PMU_INT_CFG_EN then is.foldl (fun t _ => t.msix (t.fld Reg.PMU_INT_CFG_LD) (t.fld Reg.PMU_INT_CFG_VEC)) s else s
    let s2 := if s1.on Reg.PMU_CTL_FREEZE_ON_OVF then (s1.setFld Reg.PMU_CTL_FREEZE 1).onPmu fun p => { p with freezeAt := some s.clk, late := [] } else s1
    if s2.on Reg.PMU_SMP_INFO_VALID || s2.pmu.pick.isSome then s2.count Reg.PMU_STS_LOST is.length
    else
      let k := (s2.freeVal 5).toNat % 17
      let s3 := s2.spent.setBit Reg.PMU_SMP_INFO_MULTI (!rest.isEmpty)
      if k = 0 then s3.sample i o else s3.onPmu fun p => { p with pick := some (i, k) }

/-- Counter `i` takes one occurrence: it advances, and wraps past 48 bits with its bit of PMU_OVF set (R480). -/
def State.tally (s : State) (i : Nat) (o : Occurrence) : State :=
  let v := s.ctr i + o.n
  let s1 := s.setPair (Reg.PMU_CTR_LO i) (Reg.PMU_CTR_HI i) (v % 2 ^ 48)
  let s2 := if 2 ^ 48 ≤ v then s1.setBitOf (Reg.PMU_OVF_OVF (i / 32)) (i % 32) true else s1
  match s2.pmu.pick with
  | some (j, k) => if j = i then (if k ≤ 1 then (s2.onPmu fun p => { p with pick := none }).sample i o else s2.onPmu fun p => { p with pick := some (j, k - 1) }) else s2
  | none => s2

/-- Whether counter `i` may still advance (R478, R482): not frozen, or within 200 ns of the overflow that froze the counters, where up to 16
occurrences of its stream may still be added (free). -/
def State.mayTally (s : State) (i : Nat) : Bool :=
  !s.on Reg.PMU_CTL_FREEZE ||
    (match s.pmu.freezeAt with
     | some t => decide (s.clk < t + 200) && decide (SMap.get 0 s.pmu.late i < 16) && (s.freeVal 1) == 1#1
     | none => false)

/-- An occurrence of an event reaches the PMU (R478). -/
def State.occur (s : State) (o : Occurrence) : State :=
  let is := (List.range 96).filter fun i => s.counts i o && s.mayTally i
  if is.isEmpty then s
  else
    let ov := is.filter fun i => decide (2 ^ 48 ≤ s.ctr i + o.n) && s.on (Reg.PMU_EVT_INT i)
    let s1 := is.foldl (fun t i => t.tally i o) s
    let s2 := if s.on Reg.PMU_CTL_FREEZE then (s1.onPmu fun p => { p with late := is.foldl (fun m i => SMap.upd 0 m i (· + 1)) p.late }).spent else s1
    s2.overflow ov o

/-- `n` bytes added to fixed counter `k` of the window under way (R483). -/
def State.bytes (s : State) (k n : Nat) : State := s.onPmu fun p => { p with acc := SMap.upd 0 p.acc k (· + n) }

/-! ### Event logs (R354 to R356) -/

/-- A record `e` enters log `l` (0 Informational, 1 Warning, 2 Failure, 3 Fatal) of LD `k`. A full log of 64 records overflows: the record
is not stored and the overflow is counted (R354). -/
def State.log1 (s : State) (l : Nat) (e : Event) (k : Nat) : State :=
  let t := s.time
  s.updLd k fun d =>
    match d.logs[l]? with
    | none => d
    | some es =>
      if es.length < 64 then { d with logs := d.logs.set l (es ++ [(t, e)]) } else { d with logOvf := d.logOvf + 1 }

/-- A record enters the management fault log, newest first and at most 1,024; while the firmware does not run it is queued (R356). -/
def keepRecord (e : Event) (s : State) : State :=
  let r := (s.time, e)
  if s.on Reg.MGT_STS_FW_RUN then { s with flt := { s.flt with log := (r :: s.flt.log).take 1024 } }
  else { s with flt := { s.flt with queued := s.flt.queued ++ [r] } }

/-- The record of a source with SB = 1 as a PLDM platform event message (R333, R356): it is the firmware that sends it. -/
def sendRecord (s : State) (r : Nat × Event) : State :=
  match r.2 with
  | .fault src _ _ _ => if s.on (Reg.FLT_REACT_SB src) then s.emit (.sideband r.2) else s
  | _ => s

/-- The queued records written to the fault log, oldest first, and sent. -/
def writeQueued (s : State) : State :=
  { s.flt.queued.foldl sendRecord s with flt := { s.flt with log := (s.flt.queued.reverse ++ s.flt.log).take 1024, queued := [] } }

/-- The record `e` delivered to log `l` of every LD of `ks`. -/
def State.deliver (s : State) (ks : List Nat) (l : Nat) (e : Event) : State := ks.foldl (fun s k => s.log1 l e k) s

/-- The same, with the management fault log keeping it too (R356). -/
def State.logTo (s : State) (ks : List Nat) (l : Nat) (e : Event) : State := (keepRecord e s).deliver ks l e

/-- A vendor event of a kind of Table 11.8 for every presented LD. -/
def State.vendor (s : State) (l kind : Nat) (detail : List Nat) : State := s.logTo s.allLds l (.vendor kind detail)

/-! ### Fences -/

/-- The power domain of a block (R359), 144 to 175 for a DIMM slot. -/
def Block.dom : Block → Nat
  | .slice n => 8 + n
  | .stitcher n => 42 + n
  | .engine n => 122 + n
  | .channel n => 58 + n
  | .slot ch z => 144 + 2 * ch + z
  | .stack n => 90 + n
  | .group st g => 94 + 8 * st + g
  | .crossing n => 110 + 2 * (n / 8) + n % 8 / 4
  | .street x _ => 110 + 2 * (x / 8) + x % 8 / 4
  | .head n => n
  | .plazaPair => 130
  | .ctm => 117
  | .dcm => 117
  | .domain d => d

/-- The block that alone lies in power domain `d` (Table 12.1). -/
def blockOfDomain (d : Nat) : Block :=
  if d < 4 then .head d
  else if 8 ≤ d ∧ d < 42 then .slice (d - 8)
  else if 42 ≤ d ∧ d < 58 then .stitcher (d - 42)
  else if 58 ≤ d ∧ d < 74 then .channel (d - 58)
  else if 74 ≤ d ∧ d < 90 then .channel (d - 74)
  else if 90 ≤ d ∧ d < 94 then .stack ((d - 90) % 2)
  else if 94 ≤ d ∧ d < 110 then .group ((d - 94) / 8) ((d - 94) % 8)
  else if 122 ≤ d ∧ d < 130 then .engine (d - 122)
  else if d = 130 then .plazaPair
  else .domain d

/-- Whether block `b` owns power domain `d`: its own, its PHY's, and a stack its groups'. Blocks in a shared domain own none (R359). -/
def Block.owns (b : Block) (d : Nat) : Bool :=
  match b with
  | .ctm | .dcm | .crossing _ | .street _ _ => false
  | .channel n => d == 58 + n || d == 74 + n
  | .stack n => d == 90 + n || d == 92 + n || (decide (94 + 8 * n ≤ d) && decide (d < 102 + 8 * n))
  | b => b.dom == d

/-- Whether block `b` is fenced now (R336). -/
def State.isFenced (s : State) (b : Block) : Bool := s.flt.fenced.contains b

/-- Whether the block of power domain `d` is fenced. -/
def State.domFenced (s : State) (d : Nat) : Bool := s.flt.fenced.any fun b => b.owns d

/-- `b` marked fenced. -/
def State.markFenced (s : State) (b : Block) : State :=
  if s.isFenced b then s else { s with flt := { s.flt with fenced := s.flt.fenced ++ [b] } }

/-- `b` fenced (R336): a block with a power domain of its own goes Off (R364). -/
def State.fenceOff (s : State) (b : Block) : State :=
  let s1 := s.markFenced b
  (List.range 144).foldl (fun t d => if b.owns d then { t with pwr := { t.pwr with cond := SMap.put .off t.pwr.cond d .off } } else t) s1

/-- `b` no longer fenced. -/
def State.unfence (s : State) (b : Block) : State := { s with flt := { s.flt with fenced := s.flt.fenced.filter (· != b) } }

/-- An exposure of Table 11.3a comes into force (R520). -/
def State.expose (s : State) (src inst : Nat) : State :=
  if s.flt.exposures.contains ⟨src, inst⟩ then s else { s with flt := { s.flt with exposures := s.flt.exposures ++ [⟨src, inst⟩] } }

/-- The exposures that `p` names end (Table 11.3a). -/
def State.unexpose (s : State) (p : Exposure → Bool) : State :=
  { s with flt := { s.flt with exposures := s.flt.exposures.filter (fun e => !p e) } }

/-- The life-cycle state (R212, R448): 0 Manufacture, 1 Development, 2 Production, 3 Retired; Production until the fuses are loaded. -/
def State.lifeCycle (s : State) : Nat := if s.fuses.loaded then s.fuses.lc else 2

/-! ### Function modes (R465, Table 16.4) -/

/-- The MODE field of function `f`: what has been asked for. -/
def modeFld (f : Nat) : Reg.FRef :=
  match f with
  | 0 => Reg.HTM_TIER_CFG_MODE
  | 1 => Reg.CTM_GC_CFG_MODE
  | 2 => Reg.DCM_MODE_REB_MODE
  | 3 => Reg.DCM_MODE_PATROL_MODE
  | 4 => Reg.DCM_MODE_TRAIN_MODE
  | 5 => Reg.CRY_KP_CFG_MODE
  | 6 => Reg.FLT_CFG_MODE
  | _ => Reg.QOS_ADM_CFG_MODE

/-- The MODE_ACT field of function `f`: the mode in force. -/
def actFld (f : Nat) : Reg.FRef :=
  match f with
  | 0 => Reg.HTM_TIER_CFG_MODE_ACT
  | 1 => Reg.CTM_GC_CFG_MODE_ACT
  | 2 => Reg.DCM_MODE_REB_ACT
  | 3 => Reg.DCM_MODE_PATROL_ACT
  | 4 => Reg.DCM_MODE_TRAIN_ACT
  | 5 => Reg.CRY_KP_CFG_MODE_ACT
  | 6 => Reg.FLT_CFG_MODE_ACT
  | _ => Reg.QOS_ADM_CFG_MODE_ACT

/-- Whether a switch of function `f` is pending. -/
def State.switching (s : State) (f : Nat) : Bool := s.on (modeFld f) != s.on (actFld f)

/-! ### Time (R422 to R425) -/

/-- K of R422 in units of 2^-32 ns: what TIME_NS advances by at one tick of the keep clock. -/
def State.keepK (s : State) : Nat := s.fld Reg.CLK_CAL_CYCLES * 10 * 2 ^ 32 / 32768

/-- What TIME_NS would advance by in `n` nanoseconds before any slew: `n` when it counts the core reference or the RC, and K per keep-clock tick
when it counts the keep clock, with the fraction carried on (R422). -/
def State.counted (s : State) (n : Nat) : Nat × State :=
  if s.fld Reg.TIME_STATUS_SOURCE = 1 then
    if s.keepK = 0 then (0, s)
    else
      let acc := s.clocks.keepTick + n * 2 ^ 32
      let fr := s.clocks.frac + acc / s.keepK * s.keepK
      (fr / 2 ^ 32, { s with clocks := { s.clocks with keepTick := acc % s.keepK, frac := fr % 2 ^ 32 } })
  else (n, s)

/-- SLEW_PPM as it acts (R425): 0 acts as 1, values above 100 act as 100. -/
def State.slewPpm (s : State) : Nat := clamp 1 100 (s.fld Reg.CLK_CFG_SLEW_PPM)

/-- What a running slew absorbs of `d` nanoseconds of counting (R425). -/
def State.slewed (s : State) (d : Nat) : Nat × State :=
  let acc := s.clocks.slewFrac + d * s.slewPpm
  let a := Nat.min s.clocks.slewRem (acc / 1000000)
  let rem := s.clocks.slewRem - a
  (a, ({ s with clocks := { s.clocks with slewRem := rem, slewFrac := if rem = 0 then 0 else acc % 1000000 } }).setFld
    Reg.TIME_SLEW_REM_NS (Nat.min rem (2 ^ 32 - 1)))

/-- `n` nanoseconds pass. -/
def State.advance (s : State) (n : Nat) : State :=
  if n = 0 then s
  else
    let (d, s1) := s.counted n
    let (a, s2) := if s1.clocks.slewRem = 0 then (0, s1) else s1.slewed d
    ({ s2 with clk := s2.clk + n }).setTime (s2.time + (d - a))

/-- Time passes until the model's clock reads `t`; nothing where it already does. A command that stands for a timer's end is given when the
timer ends, so the time up to it has passed when it acts (log entry 2). -/
def State.until (s : State) (t : Nat) : State := s.advance (t - s.clk)

/-- Whether `d` nanoseconds have passed since `t` on the model's clock. -/
def State.past (s : State) (t d : Nat) : Bool := decide (t + d ≤ s.clk)

/-- One millisecond and one second in nanoseconds. -/
abbrev ms : Nat := 1000000
abbrev sec : Nat := 1000000000

/-- A register configuration value, 0 acting as 1. -/
def zeroAsOne (v : Nat) : Nat := if v = 0 then 1 else v

end Sys2Proof.Machine
end

