-- ==== Sys2Proof/Machine/Operands.lean ====
section
/-! DEFINITION. The operand forms: host and device addresses, global page numbers, home slices, seams and the places of their stitches, ledger
blocks, frames, and the formats of map entries, page images and journal records. -/
namespace Sys2Proof.Machine

open Sys2Proof

/-! ### Host and device addresses (R43 to R45, R100) -/

/-- The DPA that a committed decoder gives host address `hpa` (R44); none where the decoder does not match. -/
def HdmDecoder.dpa (d : HdmDecoder) (hpa : Nat) : Option Nat :=
  if !d.committed || decide (hpa < d.base) || decide (d.base + d.size ≤ hpa) || d.gran == 0 || d.ways == 0 then none
  else
    let off := hpa - d.base
    some (d.dpaBase + off / d.gran / d.ways * d.gran + off % d.gran)

/-- The DPA of host address `hpa` of LD `k`: that of the first committed decoder that matches. -/
def State.dpaOf (s : State) (k hpa : Nat) : Option Nat := (s.ld k).decoders.findSome? fun d => d.dpa hpa

/-- The layout parameters of LD `k`. -/
def State.ldLayout (s : State) (k : Nat) : LdLayout := s.layout.lds.getD k {}

/-- One GiB. -/
abbrev gib : Nat := 1073741824

/-- Pages in one GiB. -/
abbrev pagesPerGib : Nat := 262144

/-- The accepted extent of LD `k` that holds GiB `g` of its DPA space, unless its release has been asked for (R50). -/
def State.extentAt (s : State) (k g : Nat) : Option Extent :=
  if (s.ld k).releasing.contains g then none else (s.ld k).extents.find? fun e => e.gib == g && e.accepted

/-- Whether DPA `a` of LD `k` lies in its static capacity or in an accepted extent (R45). -/
def State.inCapacity (s : State) (k a : Nat) : Bool :=
  decide (a < (s.ldLayout k).staticGib * gib) || (s.extentAt k (a / gib)).isSome

/-- Whether DPA `a` of LD `k` lies in an HDM-DB range (Table 2.3). -/
def State.isDb (s : State) (k a : Nat) : Bool :=
  (s.ldLayout k).db.any fun r => decide (r.1 ≤ a / gib) && decide (a / gib < r.1 + r.2)

/-- The sharing domain with key `key`. -/
def State.domainOf (s : State) (key : Nat) : Option ShareDomain := s.cold.domains.find? fun d => d.key == key

/-- The global page number of DPA `a` of LD `k` (R44), or the page of its shared block where the extent is sharable (R100). -/
def State.gpnOf (s : State) (k a : Nat) : Nat :=
  match ((s.extentAt k (a / gib)).bind Extent.share).bind s.domainOf with
  | some d => d.firstPage + a % gib / 4096
  | none => (s.ldLayout k).pageBase + a / 4096

/-- Whether DPA `a` of LD `k` lies in a frozen extent (R182). -/
def State.isFrozen (s : State) (k a : Nat) : Bool := (s.extentAt k (a / gib)).any Extent.frozen

/-! ### Home slices (R70 to R72) -/

/-- The remap index of page `p`: the XOR of seven 5-bit fields (R70). -/
def remapIndex (p : Nat) : Nat := (List.range 7).foldl (fun a i => a ^^^ (p / 2 ^ (5 * i) % 32)) 0

/-- The slice that the remap table names for entry `e`. -/
def State.remap (s : State) (e : Nat) : Nat := s.fld (Reg.HSC_REMAP_SLICE e)

/-- The takeover under way for entry `e` (Table 3.6). -/
def State.takeover (s : State) (e : Nat) : Option Takeover := s.takeovers.find? fun t => t.entry == e

/-- The buddy of the slice of entry `e`: the slice of entry `e xor 1` (R72). -/
def State.buddyOf (s : State) (e : Nat) : Nat := s.remap (e ^^^ 1)

/-- The slice that serves entry `e` now: the buddy from step 4 of Table 3.6 until the spare serves. -/
def State.serving (s : State) (e : Nat) : Nat :=
  match s.takeover e with
  | some t => if 4 ≤ t.step then s.buddyOf e else t.failed
  | none => s.remap e

/-- The home slice of page `p`. -/
def State.home (s : State) (p : Nat) : Nat := s.serving (remapIndex p)

/-- Whether the crossing answers requests to entry `e` with QUIESCE: its slice is fenced, or it is between two steps of a takeover (R107, R108). -/
def State.entryHeld (s : State) (e : Nat) : Bool :=
  match s.takeover e with
  | some t => decide (t.step < 4) || decide (7 ≤ t.step) || t.double
  | none => (s.slice (s.remap e)).fenced

/-- The ticket key of page `p` (R76). -/
def pageKey (p : Nat) : Nat := 2 ^ 54 + p

/-- The ticket-table entry of key `k`. -/
def State.ticketAt (s : State) (sl k : Nat) : Option Ticket := (s.slice sl).tickets.find? fun t => t.key == k

/-- Whether the home slice of page `p` takes a change of its map entry now (R19): its entry is served and it is not being idled. -/
def State.pageServed (s : State) (p : Nat) : Bool := !s.entryHeld (remapIndex p) && !(s.slice (s.home p)).quiesce

/-- The line address of line `l` of page `p` (R81). -/
def lineAddr (p l : Nat) : Nat := 64 * p + l

/-- The filter set of a line address (R81). -/
def filterSet (la : Nat) : Nat := (la % 16384) ^^^ (la / 16384 % 16384)

/-! ### Seams (R140 to R144) -/

/-- The channel of data position `d` of seam `q` (R141). -/
def dataCh (seam d : Nat) : Nat :=
  let q := seam % 16
  if q = 15 then d + 1 else if d < q then d else d + 2

/-- The channel of symbol `i` of a seam's code word: data positions 0 to 13, then P0 and P1 (R141, R142). -/
def codeCh (seam i : Nat) : Nat :=
  if i = 14 then seam % 16 else if i = 15 then (seam + 1) % 16 else dataCh seam i

/-- The symbol of a seam that lies on channel `ch`. -/
def codePos (seam ch : Nat) : Nat := ((List.range 16).find? fun i => codeCh seam i == ch).getD 0

/-- Seams in one DIMM slot: D GiB over 256 B (R243). -/
def State.slotSeams (s : State) : Nat := s.cold.dimmGib * 4194304

/-- The slot that seam `seam` lies in. -/
def State.slotOfSeam (s : State) (seam : Nat) : Nat := if seam < s.slotSeams then 0 else 1

/-- The log segment of a seam (R144). -/
def segOf (seam : Nat) : Nat := seam / 4096

/-- The segments of one slot. -/
def State.slotSegs (s : State) : Nat := s.cold.dimmGib * 1024

/-- Log segments of one tack block (R242). -/
def State.blockSegs (s : State) : Nat := 64 * s.cold.dimmGib

/-- Whether the population has two DIMMs per channel. -/
def State.twoDpc (s : State) : Bool := decide (s.slotSegs < s.cold.nSeg)

/-- The first segment of tack block `b` (R242, Table 7.6). -/
def State.blockFirst (s : State) (b : Nat) : Nat :=
  if s.twoDpc then
    (if b % 2 = 0 then s.cold.nSeg - (b / 2 + 1) * s.blockSegs else s.slotSegs - (b / 2 + 1) * s.blockSegs)
  else s.cold.nSeg - (b + 1) * s.blockSegs

/-- The slot that tack block `b` lies in. -/
def State.blockSlot (s : State) (b : Nat) : Nat := if s.twoDpc && b % 2 == 0 then 1 else 0

/-- Whether segment `g` belongs to a tack block that is not borrowed (R176, R181). -/
def State.inTack (s : State) (g : Nat) : Bool :=
  (List.range (s.fld Reg.CTM_TACK_DIMMS)).any fun b =>
    !s.on (Reg.DCM_BLK_BORROWED b) && decide (s.blockFirst b ≤ g) && decide (g < s.blockFirst b + s.blockSegs)

/-- The tack seam and data position that hold the substitute of the stitch of seam `seam` on channel `ch`, in block `b` (R243). -/
def State.substitutePlace (s : State) (b seam ch : Nat) : Option (Nat × Nat) :=
  let q := seam % 16
  if ch = q ∨ ch = (q + 1) % 16 then none
  else
    let s' := seam - s.slotOfSeam seam * s.slotSeams
    some (s.blockFirst b * 4096 + s' / 16, q - ([ch, (ch + 15) % 16].filter (fun x => decide (x < q))).length)

/-! ### Ledger places (R145 to R147) -/

/-- The first seam of the root area. -/
def State.rootBase (s : State) : Nat := 8 * ceilDiv (s.cold.nSlots * 1024) 7

/-- Root blocks. -/
def State.nRoots (s : State) : Nat := s.cold.nSlots * 8

/-- The first seam of the journal area. -/
def State.journalBase (s : State) : Nat := s.rootBase + 8 * ceilDiv s.nRoots 7

/-- Seams of the journal area. -/
def State.journalSeams (s : State) : Nat := s.cold.nLedger * 4096 - s.journalBase

/-- The first page of ledger window `w`: the page base of LD `w`, or the sharing area for window 16 (R147). -/
def State.windowBase (s : State) (w : Nat) : Nat :=
  if w = 16 then (match s.layout.share with
    | some (p, _) => p
    | none => 0)
  else (s.ldLayout w).pageBase

/-- The ledger window that page `p` lies in. -/
def State.windowOf (s : State) (p : Nat) : Option Nat :=
  (List.range 17).find? fun w =>
    let n := s.fld (Reg.CTM_LWIN_SLOTS w)
    n != 0 && decide (s.windowBase w ≤ p) && decide (p < s.windowBase w + n * pagesPerGib)

/-- The map slot of page `p`. -/
def State.slotOf (s : State) (p : Nat) : Option Nat :=
  (s.windowOf p).map fun w => s.fld (Reg.CTM_LWIN_SLOT_BASE w) + (p - s.windowBase w) / pagesPerGib

/-- The map-area block that holds the entry of page `p` (R147). -/
def State.mapBlock (s : State) (p : Nat) : Option Nat :=
  (s.slotOf p).map fun k => k * 1024 + p / 256 % 1024

/-- The LD and region index that page `p`'s key is derived with (R193). -/
def State.keySource (s : State) (p : Nat) : Nat × Nat :=
  match s.windowOf p with
  | some 16 =>
    (match s.cold.domains.find? fun d => decide (d.firstPage ≤ p) && decide (p < d.firstPage + pagesPerGib) with
     | some d => d.first
     | none => (0, 0))
  | some w => (w, (p - s.windowBase w) / pagesPerGib)
  | none => (0, 0)

/-- The LDs that reach page `p`, each with the DPA of the page (R356). -/
def State.pageOwners (s : State) (p : Nat) : List (Nat × Nat) :=
  match s.windowOf p with
  | some 16 =>
    (match s.cold.domains.find? fun d => decide (d.firstPage ≤ p) && decide (p < d.firstPage + pagesPerGib) with
     | some d => d.members.map fun m => (m.1, m.2 * gib + (p - d.firstPage) * 4096)
     | none => [])
  | some w => [(w, (p - s.windowBase w) * 4096)]
  | none => []

/-! ### Frames (R112, R113) -/

/-- Frames of one stack, and keep frames among them. -/
abbrev stackFrames : Nat := 9961472
abbrev keepFrames : Nat := 3670016

/-- The stack of frame `f`, its local index and its pseudo-channel group. -/
def frameStack (f : Nat) : Nat := f % 2
def frameLocal (f : Nat) : Nat := f / 2
def frameGroup (f : Nat) : Nat := f / 2 % 8

/-- Whether frame `f` lies in keep banks. -/
def isKeepFrame (f : Nat) : Bool := decide (f / 2 < keepFrames)

/-! ### Map entries (Table 5.4) -/

/-- The fields of a map entry. -/
structure MapEntry where
  state : Nat := 0
  epb : Bool := false
  pin : Bool := false
  heat : Nat := 0
  wcnt : Nat := 0
  scnt : Nat := 0
  spos : Nat := 0
  seam : Nat := 0
  frame : Nat := 0
  deriving DecidableEq, Repr

/-- The CHECK of a map entry: CRC-16 over bits 127:16. -/
def entryCheck (e : BitVec 128) : Nat := Crypto.crc16 ((List.range 14).map fun i => byteAt e (i + 2))

/-- The 16 bytes of a map entry, CHECK included. -/
def MapEntry.pack (m : MapEntry) : BitVec 128 :=
  let v := m.state % 4 * 2 ^ 126 + m.epb.toNat * 2 ^ 125 + m.pin.toNat * 2 ^ 124 + m.heat % 256 * 2 ^ 112 + m.wcnt % 2 ^ 24 * 2 ^ 88 +
    m.scnt % 32 * 2 ^ 83 + m.spos % 16 * 2 ^ 79 + m.seam % 2 ^ 31 * 2 ^ 48 + m.frame % 2 ^ 25 * 2 ^ 23 + m.seam / 2 ^ 31 % 2 * 2 ^ 22
  BitVec.ofNat 128 (v + entryCheck (BitVec.ofNat 128 v))

/-- The fields of a stored entry. -/
def unpackEntry (e : BitVec 128) : MapEntry :=
  let n := e.toNat
  { state := n / 2 ^ 126, epb := n.testBit 125, pin := n.testBit 124, heat := n / 2 ^ 112 % 256, wcnt := n / 2 ^ 88 % 2 ^ 24,
    scnt := n / 2 ^ 83 % 32, spos := n / 2 ^ 79 % 16, seam := n / 2 ^ 48 % 2 ^ 31 + (n.testBit 22).toNat * 2 ^ 31,
    frame := n / 2 ^ 23 % 2 ^ 25 }

/-- Whether a stored entry's CHECK holds (R160). -/
def entryOk (e : BitVec 128) : Bool := e.toNat % 65536 == entryCheck e

/-- The entry of a zero page (R200): zeros, and the CRC-16 of fourteen zero bytes. -/
def zeroEntry : BitVec 128 := 0xA96A#128

/-! ### Journal records (Table 5.5) -/

/-- A journal record of a commit, RCRC included. -/
def journalRecord (type gpn seq : Nat) (new old : Image) : BitVec 256 :=
  let v := seq % 2 ^ 48 + gpn % 2 ^ 48 * 2 ^ 48 + new.seam % 2 ^ 32 * 2 ^ 96 + new.spos % 16 * 2 ^ 128 + new.scnt % 32 * 2 ^ 132 +
    new.wcnt % 2 ^ 24 * 2 ^ 137 + new.epb.toNat * 2 ^ 161 + type % 16 * 2 ^ 162 + old.seam % 2 ^ 32 * 2 ^ 176 + old.spos % 16 * 2 ^ 208 +
    old.scnt % 32 * 2 ^ 212
  BitVec.ofNat 256 (v + Crypto.crc16 (bytesOf (BitVec.ofNat 256 v) 30) * 2 ^ 240)

/-- A TYPE 7 checkpoint record: `body` are bits 239:48 without TYPE (Tables 6.6 and 7.7). -/
def checkpointRecord (seq body : Nat) : BitVec 256 :=
  let v := seq % 2 ^ 48 + body + 7 * 2 ^ 162
  BitVec.ofNat 256 (v + Crypto.crc16 (bytesOf (BitVec.ofNat 256 v) 30) * 2 ^ 240)

/-- The type, page and sequence number of a record. -/
def recType (r : BitVec 256) : Nat := r.toNat / 2 ^ 162 % 16
def recPage (r : BitVec 256) : Nat := r.toNat / 2 ^ 48 % 2 ^ 48
def recSeq (r : BitVec 256) : Nat := r.toNat % 2 ^ 48

/-- The new location that a record names. -/
def recImage (r : BitVec 256) : Image :=
  let n := r.toNat
  { seam := n / 2 ^ 96 % 2 ^ 32, spos := n / 2 ^ 128 % 16, scnt := n / 2 ^ 132 % 32, wcnt := n / 2 ^ 137 % 2 ^ 24, epb := n.testBit 161 }

/-! ### Page images (R148 to R152, R197) -/

/-- The header fields of a page image. -/
structure ImageHeader where
  poison : BitVec 64 := 0
  zmask : BitVec 64 := 0
  wcnt : Nat := 0
  gpn : Nat := 0
  scnt : Nat := 0
  len : Nat := 0
  epb : Bool := false
  alg : Nat := 0
  ver : Nat := 1
  deriving DecidableEq, Repr

/-- HCRC over bits 111:0 and 255:128 of a header. -/
def headerCrc (h : BitVec 256) : Nat :=
  Crypto.crc16 (bytesOf h 14 ++ (List.range 16).map fun i => byteAt h (i + 16))

/-- The 32 bytes of a header. -/
def ImageHeader.pack (h : ImageHeader) : BitVec 256 :=
  let v := h.ver % 16 + h.alg % 8 * 2 ^ 4 + h.epb.toNat * 2 ^ 7 + h.len % 2 ^ 13 * 2 ^ 8 + h.scnt % 32 * 2 ^ 21 + h.gpn % 2 ^ 48 * 2 ^ 32 +
    h.wcnt % 2 ^ 24 * 2 ^ 80 + h.zmask.toNat * 2 ^ 128 + h.poison.toNat * 2 ^ 192
  BitVec.ofNat 256 (v + headerCrc (BitVec.ofNat 256 v) * 2 ^ 112)

/-- The fields of a stored header. -/
def unpackHeader (b : BitVec 256) : ImageHeader :=
  let n := b.toNat
  { poison := BitVec.ofNat 64 (n / 2 ^ 192), zmask := BitVec.ofNat 64 (n / 2 ^ 128), wcnt := n / 2 ^ 80 % 2 ^ 24, gpn := n / 2 ^ 32 % 2 ^ 48,
    scnt := n / 2 ^ 21 % 32, len := n / 2 ^ 8 % 2 ^ 13, epb := n.testBit 7, alg := n / 2 ^ 4 % 8, ver := n % 16 }

/-- Whether a stored header's HCRC holds. -/
def headerOk (b : BitVec 256) : Bool := b.toNat / 2 ^ 112 % 65536 == headerCrc b

/-- The IV of a page image (Table 6.4). -/
def imageIv (gpn wcnt : Nat) : List Nat := Crypto.beBytes 6 gpn ++ Crypto.beBytes 3 wcnt ++ [0, 0, 0]

/-- The bytes of a line. -/
def lineBytes (l : Line) : List Nat := (bytesOf l 64).map BitVec.toNat

/-- The `n` bytes of a number, least significant first. -/
def leBytes (n v : Nat) : List Nat := (List.range n).map fun i => v / 256 ^ i % 256

/-- A number from its little-endian bytes. -/
def natOfBytes (bs : List Nat) : Nat := bs.foldr (fun b a => b + 256 * a) 0

/-- Stitches that `n` bytes take. -/
def stitchesFor (n : Nat) : Nat := ceilDiv n 256

/-- `n` bytes padded with zeros to whole stitches (R151). -/
def toStitches (bs : List Nat) : Nat → List Stitch
  | 0 => []
  | n + 1 => BitVec.ofNat 2048 (natOfBytes (bs.take 256)) :: toStitches (bs.drop 256) n

/-- A match of `len` bytes that lies `dist` bytes back, copied byte by byte; `rev`: the bytes produced, the last one first. -/
def lzCopy (dist : Nat) : Nat → List Nat → List Nat
  | 0, rev => rev
  | n + 1, rev => lzCopy dist n (rev.getD (dist - 1) 0 :: rev)

/-- The bytes that tokens spell after those of `rev` (Table 5.3): a match is 4 to 258 bytes long and lies 1 to 4,095 bytes back, never before the first byte of the page,
and the page is 4 KiB at most; none where a token breaks this. -/
def lzExpand : List Config.LzToken → List Nat → Option (List Nat)
  | [], rev => some rev.reverse
  | .lit b :: l, rev => if rev.length < 4096 then lzExpand l (b.toNat :: rev) else none
  | .copy len dist :: l, rev =>
    if 4 ≤ len ∧ len ≤ 258 ∧ 1 ≤ dist ∧ dist ≤ 4095 ∧ dist ≤ rev.length ∧ rev.length + len ≤ 4096 then lzExpand l (lzCopy dist len rev) else none

/-- Page LZ decoded (R149): the bytes that a payload spells, or none. -/
def lzDecode (enc : List Nat) : Option (List Nat) := (Config.lzUnpack enc).bind fun ts => lzExpand ts []

/-- Page LZ of the lines `raw` (R149, R150): a coded form is used only where it decodes to them. -/
def lzEncode (raw : List Nat) : List Nat :=
  let e := Config.lzPack (Config.lzTokens raw)
  if lzDecode e = some raw then e else raw

/-- The image of a page (R148 to R150, R197): the stored payload, or Page LZ where that saves a stitch. -/
def encodeImage (key : List Nat) (gpn wcnt : Nat) (epb : Bool) (lines : List Line) (poison : BitVec 64) : List Nat :=
  let zm := BitVec.ofNat 64 ((List.range 64).foldl (fun a i => if poison.getLsbD i || lines.getD i 0 == 0 then a + 2 ^ i else a) 0)
  let raw := ((List.range 64).filter fun i => !zm.getLsbD i).flatMap fun i => lineBytes (lines.getD i 0)
  let stored := stitchesFor (48 + raw.length)
  let lz := if stored ≤ 1 then raw else lzEncode raw
  let useLz := decide (stitchesFor (48 + lz.length) < stored)
  let payload := if useLz then lz else raw
  let h : ImageHeader :=
    { poison := poison, zmask := zm, wcnt := wcnt, gpn := gpn, scnt := stitchesFor (48 + payload.length),
      len := payload.length, epb := epb, alg := useLz.toNat }
  let hb := (bytesOf h.pack 32).map BitVec.toNat
  let iv := imageIv gpn wcnt
  let ct := Crypto.gcmCrypt key iv payload
  hb ++ ct ++ Crypto.gcmTag key iv hb ct

/-- The header of an image. -/
def imageHeader (img : List Nat) : BitVec 256 := BitVec.ofNat 256 (natOfBytes (img.take 32))

/-- The lines that a decrypted payload spells under a header (R149); none for a reserved algorithm or a payload that spells no page. -/
def payloadLines (h : ImageHeader) (pt : List Nat) : Option (List Line) :=
  let n := ((List.range 64).filter fun i => !h.zmask.getLsbD i).length
  let raw := if h.alg = 0 then some pt else if h.alg = 1 then lzDecode pt else none
  match raw with
  | none => none
  | some bs =>
    if bs.length != 64 * n then none
    else
      let ls := (List.range n).map fun j => BitVec.ofNat 512 (natOfBytes ((bs.drop (64 * j)).take 64))
      some ((List.range 64).map fun i =>
        if h.zmask.getLsbD i then 0 else ls.getD ((List.range i).filter fun k => !h.zmask.getLsbD k).length 0)

/-- An image read back for a map entry: its GCM tag, HCRC, version, GPN, WCNT and EPB are checked before a line is released (R22, R152);
none is a tag failure. -/
def decodeImage (key : List Nat) (gpn wcnt : Nat) (epb : Bool) (img : List Nat) : Option (List Line × BitVec 64) :=
  let hb := imageHeader img
  let h := unpackHeader hb
  let iv := imageIv gpn wcnt
  let ct := (img.drop 32).take h.len
  let tag := (img.drop (32 + h.len)).take 16
  if headerOk hb && h.ver == 1 && h.gpn == gpn && h.wcnt == wcnt && h.epb == epb && Crypto.gcmTag key iv (img.take 32) ct == tag then
    (payloadLines h (Crypto.gcmCrypt key iv ct)).map fun l => (l, h.poison)
  else none

/-! ### Classes (R259, R260) -/

/-- The class of a master port in the built-in safe layout (Table 16.3). -/
def safeClass (port : Nat) : Nat :=
  if port < 16 then 2 else if port < 24 then 5 else if port < 40 then 3 else if port = 57 then 1 else if port = 58 then 0 else 6

/-- The class of a master port in the layout in force (R259). -/
def State.portClass (s : State) (port : Nat) : Nat := s.layout.classes.getD port (safeClass port)

/-- Effective rank of a request (R260). -/
def Req.rank (r : Req) : Nat := r.cls + (if r.be then 8 else 0)

end Sys2Proof.Machine
end

