-- ==== Sys2Proof/Machine/ColdOps.lean ====
section
/-! DEFINITION. The shared operations of the cold tier: stitches and seams on the DIMMs, region keys, the ledger with its journal and the map
cache over it, segments, page-image reads, append streams and page-level operations (chapters 05, 06). -/
namespace Sys2Proof.Machine

open Sys2Proof

/-! ### Stitches on the DIMMs -/

/-- DCC_SLOT[z].STATE of channel `ch` (Table 7.9). -/
def State.slotState (s : State) (ch z : Nat) : Nat := s.fld (Reg.DCC_SLOT_STATE ch z)

/-- The rank of slot `z` that seam `seam` lies in (R223). -/
def State.rankOf (s : State) (ch seam : Nat) : Nat :=
  let z := s.slotOfSeam seam
  if s.slotSeams = 0 then 0 else (seam - z * s.slotSeams) * 2 ^ s.fld (Reg.DCC_SLOT_RANKS ch z) / s.slotSeams

/-- Whether the range that seam `seam` lies in on channel `ch` belongs to a failed channel or a retired rank. -/
def State.rangeLost (s : State) (ch seam : Nat) : Bool :=
  s.on (Reg.DCC_STS_FENCED ch) || s.bitOf (Reg.DCC_SLOT_RET ch (s.slotOfSeam seam)) (s.rankOf ch seam)

/-- Whether the DIMM serves reads of seam `seam` on channel `ch` (Table 7.9, R234). -/
def State.readable (s : State) (ch seam : Nat) : Bool :=
  let z := s.slotOfSeam seam
  !s.rangeLost ch seam && [3, 4, 5].contains (s.slotState ch z) && !(s.dcc ch).retrain.contains (z, s.rankOf ch seam)

/-- Whether a stitch of seam `seam` is written to channel `ch` (R143, R156): a DIMM that is being restored takes writes, and one that trains after a
Level 4 reset takes them once it is trained (R234). -/
def State.writable (s : State) (ch seam : Nat) : Bool :=
  let z := s.slotOfSeam seam
  let st := s.slotState ch z
  !s.rangeLost ch seam && ([3, 4, 5, 8].contains st || (st == 2 && ((s.dcc ch).slots.getD z {}).prev.isNone))

/-- What channel `ch` holds of seam `seam`: the youngest queued write, or the DIMM's stitch (R228). -/
def State.stitchNow (s : State) (ch seam : Nat) : Stitch :=
  match (s.dcc ch).wq.reverse.find? fun w => w.seam == seam with
  | some w => w.data
  | none => SMap.get 0 s.cold.stitches (16 * seam + ch)

/-- The range's own stitch; none is an erasure (R174). -/
def State.rawStitch (s : State) (ch seam : Nat) : Option Stitch :=
  if s.readable ch seam && !SMap.get false s.cold.unwritten (16 * seam + ch) then some (s.stitchNow ch seam) else none

/-- Effective rank of a page-level operation: the class of its master port, best-effort beyond the rate that is reserved for it (R259, R260, R269). -/
def State.opRank (s : State) (o : PageOp) : Nat := s.portClass o.port + (if o.be then 8 else 0)

/-- Effective rank of a read job (R225, R260): that of the most urgent request it serves, else that of its operation's or its stitcher's master port. -/
def State.jobRank (s : State) (j : ReadJob) : Nat :=
  let cs := s.slices.flatMap fun e =>
    (e.2.txns.filter fun t => t.job == some j.id || (j.use == .fill && t.phase == .fill && t.req.gpn == j.gpn)).map fun t => t.req.rank
  match cs with
  | c :: l => l.foldl Nat.min c
  | [] => match (if j.use = .op then s.cold.ops.find? fun o => o.gpn == j.gpn else none) with
    | some o => s.opRank o
    | none => s.portClass (24 + j.stitcher.getD 0) + 8

/-- The tack block whose coverage bit for seam `seam` on channel `ch` is set (R244). -/
def State.coverBlock (s : State) (ch seam : Nat) : Option Nat :=
  (List.range 4).find? fun b =>
    s.on (Reg.DCM_BLK_VALID b) && s.fld (Reg.DCM_BLK_CH b) == ch && s.fld (Reg.DCM_BLK_SLOT b) == s.slotOfSeam seam &&
    SMap.get false s.dram.dcm.cover (b * 1048576 + (segOf seam - s.slotOfSeam seam * s.slotSegs))

/-- The place of the substitute of a stitch: tack seam and channel (R243, R244). -/
def State.substitute (s : State) (ch seam : Nat) : Option (Nat × Nat) :=
  ((s.coverBlock ch seam).bind fun b => s.substitutePlace b seam ch).map fun p => (p.1, dataCh p.1 p.2)

/-- A stitch as a stitcher reads it: from the DIMM where it serves, else from its substitute. -/
def State.readStitch (s : State) (ch seam : Nat) : Option Stitch :=
  match s.rawStitch ch seam with
  | some v => some v
  | none => (s.substitute ch seam).bind fun p => s.rawStitch p.2 p.1

/-- The sixteen stitches of a seam in code order. -/
def State.seamCode (s : State) (seam : Nat) : List (Option Stitch) :=
  (List.range 16).map fun i => s.readStitch (codeCh seam i) seam

/-- Erasures of a seam. -/
def State.erasures (s : State) (seam : Nat) : Nat := ((s.seamCode seam).filter Option.isNone).length

/-- Data position `pos` of a seam, rebuilt where it is erased and the code allows it. -/
def State.dataStitch (s : State) (seam pos : Nat) : Option Stitch :=
  match s.readStitch (dataCh seam pos) seam with
  | some v => some v
  | none => (Crypto.seamRecover (s.seamCode seam)).bind fun l => l[pos]?

/-- What an armed injection makes of a stitch that is written (Table 11.4, targets 1 and 2): two devices corrupted, which DIMM ECC does not see (how is
free), or one, which it corrects. -/
def injectStitch (ch seam : Nat) (v : Stitch) (s : State) : Stitch × State :=
  let s1 := s.updDcc ch fun d => { d with inject := d.inject.filter (· != seam), corrupt := d.corrupt.filter (· != seam) }
  if s.armed 1 ch && s.fld Reg.FLT_INJ_BIT == codePos seam ch then
    let e : BitVec 2048 := s.freeVal 2048
    (v ^^^ (if e = 0 then 1 else e), (fire s1.spent).updDcc ch fun d => { d with corrupt := d.corrupt ++ [seam] })
  else if s.armed 2 ch then (v, (fire s1).updDcc ch fun d => { d with inject := d.inject ++ [seam] })
  else (v, s1)

/-- A stitch stored on a DIMM. -/
def putStitch (ch seam : Nat) (data : Stitch) (s : State) : State :=
  let (v, s0) := injectStitch ch seam data s
  let s1 := s0.onCold fun c =>
    { c with stitches := SMap.put 0 c.stitches (16 * seam + ch) v, unwritten := SMap.put false c.unwritten (16 * seam + ch) false }
  s1.updDcc ch fun d => { d with wq := d.wq.map fun w => if w.seam = seam then { w with data := v } else w }

/-- A position that no stitch is written to: an erasure from now on (R156). -/
def skipStitch (ch seam : Nat) (s : State) : State :=
  s.onCold fun c => { c with unwritten := SMap.put false c.unwritten (16 * seam + ch) true }

/-- The sixteen stitches of a seam with data `d` (R142). -/
def seamStitches (d : List Stitch) : List Stitch :=
  let p := Crypto.seamParity d
  d ++ [p.1, p.2]

/-- The segment table takes the time of a write of seam `seam`, in ms (R168). -/
def noteWrite (seam : Nat) (s : State) : State :=
  s.onCold fun c => { c with segs := SMap.upd {} c.segs (segOf seam) fun g => { g with lastWrite := s.time / ms } }

/-- A whole seam written to the DIMMs by the CTM or the DCM within its own command. -/
def writeSeamDirect (seam : Nat) (d : List Stitch) (s : State) : State :=
  let all := seamStitches d
  let s1 := forAll (List.range 16) s fun t i =>
    let ch := codeCh seam i
    if t.writable ch seam then putStitch ch seam (all.getD i 0) t else skipStitch ch seam t
  (noteWrite seam s1).count Reg.CTM_SEAM_WR_COUNT

/-- The tack seams that hold substitutes of seam `seam` written again with its data `d` (R244). -/
def refreshSubstitutes (seam : Nat) (d : List Stitch) (s : State) : State :=
  forAll (List.range 16) s fun t ch =>
    match (t.coverBlock ch seam).bind fun b => t.substitutePlace b seam ch with
    | none => t
    | some (ts, p) =>
      let old := (List.range 14).map fun i => (t.dataStitch ts i).getD 0
      writeSeamDirect ts (old.set p (d.getD (codePos seam ch) 0)) t

/-- The sixteen stitch writes of a seam issued to the channel controllers (R143, R156). -/
def issueSeam (seam : Nat) (d : List Stitch) (s : State) : State :=
  let all := seamStitches d
  let s1 := forAll (List.range 16) s fun t i =>
    let ch := codeCh seam i
    if t.writable ch seam then t.onCold fun c =>
      { c with writes := c.writes ++ [{ seam := seam, ch := ch, data := all.getD i 0 }], unwritten := SMap.put false c.unwritten (16 * seam + ch) false }
    else skipStitch ch seam t
  (noteWrite seam s1).count Reg.CTM_SEAM_WR_COUNT

/-! ### Region keys (R193 to R196) -/

/-- The region epoch table entry of map slot `k`. -/
def State.epochAt (s : State) (k : Nat) : EpochEntry := SMap.get {} s.vault.epochs k

/-- The region key of page `p` at epoch `ep`; none while the LD has no root key. -/
def State.keyAt (s : State) (p ep : Nat) : Option (List Nat) :=
  let ks := s.keySource p
  (SMap.get none s.vault.roots ks.1).map fun r => Crypto.regionKey (Crypto.keyBytes r) ks.1 ks.2 ep

/-- The key that decrypts an image of page `p` with parity `epb` (R195); none is a tag failure. -/
def State.readKey (s : State) (p : Nat) (epb : Bool) : Option (List Nat) :=
  let e := s.epochAt ((s.slotOf p).getD 0)
  if epb == e.epoch.testBit 0 then s.keyAt p e.epoch else if e.reenc then s.keyAt p (e.epoch - 1) else none

/-- The WCNT and EPB of the next image of page `p` (R196). -/
def State.nextCounter (s : State) (p : Nat) (m : MapEntry) : Nat × Bool :=
  let par := (s.epochAt ((s.slotOf p).getD 0)).epoch.testBit 0
  (if m.epb == par then m.wcnt + 1 else 1, par)

/-- A slot is used: its key source enters the epoch table (Table 6.3). -/
def useSlot (p : Nat) (s : State) : State :=
  match s.slotOf p with
  | none => s
  | some k =>
    let ks := s.keySource p
    s.onVault fun v => { v with epochs := SMap.upd {} v.epochs k fun e => { e with kld := ks.1, ridx := ks.2 } }

/-! ### The journal (R162 to R165) -/

/-- The group of map-area blocks that page `p` lies in. -/
def State.groupOf (s : State) (p : Nat) : Nat := (s.mapBlock p).getD 0 / 7

/-- Whether a record is live: a commit whose group has not been written since, or a checkpoint that none has superseded (R165). -/
def State.liveRecord (s : State) (r : BitVec 256) : Bool :=
  if 1 ≤ recType r ∧ recType r ≤ 5 then decide (SMap.get 0 s.cold.applied (s.groupOf (recPage r)) < recSeq r)
  else recType r == 7

/-- Live journal records. -/
def State.liveRecords (s : State) : List (BitVec 256) := (s.cold.journal.map Prod.snd).filter s.liveRecord

/-- The journal area's capacity in records. -/
def State.journalCap (s : State) : Nat := s.journalSeams * 112

/-- The seams that the journal has written since the last Level 5 reset: its head. -/
def State.journalHead (s : State) : Nat := s.vault.jpass * s.journalSeams + s.cold.jseam

/-- The journal's tail (R165): the seam of its oldest live record, as a count of seams; its head where none is live. -/
def State.journalTail (s : State) : Nat :=
  (s.liveRecords.map fun r => SMap.get 0 s.cold.jpos (recSeq r)).foldl (fun a p => if p = 0 then a else Nat.min a (p - 1)) s.journalHead

/-- Records that wait in the journal buffer. -/
def State.journalWaiting (s : State) : List (Nat × BitVec 256) := s.cold.journal.filter fun e => decide (s.cold.drained < recSeq e.2)

/-- The records that the journal has room for and cannot take any more: those of the seams from its tail to its head, and those that wait (R165). -/
def State.journalUsed (s : State) : Nat := (s.journalHead - s.journalTail) * 112 + s.journalWaiting.length

/-- Whether commits wait for journal space (R165). -/
def State.journalFull (s : State) : Bool := decide (s.journalCap ≤ s.journalUsed)

/-- Whether groups are written oldest record first: more than 75 % of the journal is in use (R165). -/
def State.journalPressed (s : State) : Bool := decide (3 * s.journalCap < 4 * s.journalUsed)

/-- The page of the oldest live record of a commit. -/
def State.oldestPage (s : State) : Option Nat :=
  (s.liveRecords.find? fun r => decide (1 ≤ recType r) && decide (recType r ≤ 5)).map recPage

/-- A record written into both journal-buffer copies: the commit point (R163). -/
def appendRecord (r : Nat → BitVec 256) (s : State) : State :=
  s.onCold fun c => { c with journal := c.journal ++ [(s.clk, r c.nextSeq)], nextSeq := c.nextSeq + 1 }

/-- Records that are drained and no longer live leave the journal. -/
def trimJournal (s : State) : State :=
  let l := s.cold.journal.filter fun e => decide (s.cold.drained < recSeq e.2) || s.liveRecord e.2
  { s with cold := { s.cold with journal := l, jpos := SMap.keep (fun q => l.any fun e => recSeq e.2 == q) s.cold.jpos } }

/-- A TYPE 7 checkpoint; an earlier one with the same bits under `mask` is superseded. -/
def checkpoint (body mask : Nat) (s : State) : State :=
  let key := fun (r : BitVec 256) => r.toNat &&& mask
  appendRecord (fun q => checkpointRecord q body)
    (s.onCold fun c => { c with journal := c.journal.filter fun e => !(recType e.2 == 7 && key e.2 == body &&& mask) })

/-! ### Ledger blocks (R146, R199 to R203) -/

/-- The sixteen stitch places of block `k` of the area that begins at seam `base` (R146). -/
def blockPlaces (base k : Nat) : List (Nat × Nat) :=
  (List.range 16).map fun j => let t := k % 7 * 16 + j; (base + 8 * (k / 7) + t / 14, t % 14)

/-- The bytes of a list of stitches. -/
def stitchBytes (l : List Stitch) : List Nat := l.flatMap fun v => (bytesOf v 256).map BitVec.toNat

/-- All of a list of options, or none. -/
def allSome {α : Type} : List (Option α) → Option (List α)
  | [] => some []
  | none :: _ => none
  | some a :: l => (allSome l).map (a :: ·)

/-- The stitches of seam `p.1` when the stitch at place `p` is treated as one more erasure (R204): every one that is erased is rebuilt from the others. -/
def State.trialSeam (s : State) (p : Nat × Nat) : Option (List Stitch) :=
  Crypto.seamRecover ((s.seamCode p.1).set p.2 none)

/-- The search of R204: each stitch of the block in turn taken as an erasure, until `ok` accepts the bytes; the stitch located and the value. None where a seam of the
block has two erasures or more. -/
def State.locate {α : Type} (s : State) (places : List (Nat × Nat)) (vals : List Stitch) (ok : List Nat → Option α) : Option ((Nat × Nat) × α) :=
  if (places.map Prod.fst).eraseDups.any fun q => decide (1 < s.erasures q) then none
  else places.findSome? fun p => (s.trialSeam p).bind fun l =>
    (ok (stitchBytes ((places.zip vals).map fun e => if e.1.1 = p.1 then l.getD e.1.2 0 else e.2))).map fun a => (p, a)

/-- How reading a ledger structure ended: its bytes, its bytes with the stitch that was located, or a failure. -/
inductive LedgerRead where
  | good (bytes : List Nat)
  | repaired (bytes : List Nat) (place : Nat × Nat)
  | bad
  deriving DecidableEq, Repr

/-- A block of `base` read and checked by `ok`, repaired under R204 where it fails. -/
def State.readChecked (s : State) (base k : Nat) (ok : List Nat → Option (List Nat)) : LedgerRead :=
  let places := blockPlaces base k
  match allSome (places.map fun p => s.dataStitch p.1 p.2) with
  | none => .bad
  | some vals =>
    match ok (stitchBytes vals) with
    | some b => .good b
    | none =>
      match s.locate places vals ok with
      | some (p, b) => .repaired b p
      | none => .bad

/-- The ledger key's bytes; zeros while there is none (nothing is then read). -/
def State.ledgerKeyBytes (s : State) : List Nat := Crypto.keyBytes (s.vault.ledgerKey.getD 0)

/-- The IVs of R199. -/
def ledgerIv (dom n c : Nat) : List Nat := dom :: (Crypto.beBytes 5 n ++ Crypto.beBytes 6 c)

/-- The root counter of root block `r`. -/
def State.rootCounter (s : State) (r : Nat) : Nat := SMap.get 0 s.vault.rootCnt r

/-- The counters under which root block `r` is accepted (R202): its own, and the old one while a pending-update record names it. -/
def State.rootTries (s : State) (r : Nat) : List Nat :=
  s.rootCounter r :: (s.vault.updates.filter fun u => u.root == r).map PendingUpdate.oldRoot

/-- Root block `r` as stored (R199, R202, Table 6.5). -/
def State.readRoot (s : State) (r : Nat) : LedgerRead :=
  if s.rootCounter r = 0 then .good (List.replicate 4096 0)
  else
    let got := s.readChecked s.rootBase r fun b =>
      if (s.rootTries r).any fun c => c != 0 && Crypto.gcmTag s.ledgerKeyBytes (ledgerIv 0x52 r c) (b.take 4080) [] == b.drop 4080 then some b else none
    if got = .bad ∧ (s.rootTries r).contains 0 = true then .good (List.replicate 4096 0) else got

/-- Root block `r`'s 4,096 bytes; zeros where it fails (R203). -/
def State.rootBytes (s : State) (r : Nat) : List Nat :=
  match s.readRoot r with
  | .good b | .repaired b _ => b
  | .bad => List.replicate 4096 0

/-- The CNT and TAG of map block `k` in its root block's bytes (Table 6.5). -/
def rootEntry (b : List Nat) (k : Nat) : Nat × List Nat :=
  let e := (b.drop (24 * (k % 128))).take 24
  (natOfBytes (e.take 6), e.drop 8)

/-- The 4,096 plain bytes of 256 zero-page entries (R200). -/
def zeroBlock : List Nat := (List.range 256).flatMap fun _ => (bytesOf zeroEntry 16).map BitVec.toNat

/-- The ciphertext of a map block's plain bytes under CNT `cnt`, and its tag (R199). -/
def State.sealBlock (s : State) (k cnt : Nat) (plain : List Nat) : List Nat × List Nat :=
  let iv := ledgerIv 0x4D k cnt
  let ct := Crypto.gcmCrypt s.ledgerKeyBytes iv plain
  (ct, Crypto.gcmTag s.ledgerKeyBytes iv [] ct)

/-- The CNTs and tags under which map block `k` is accepted: its root entry's, and the new and the old ones of its pending-update record (R202). -/
def State.mapTries (s : State) (k : Nat) (root : Nat × List Nat) : List (Nat × List Nat) :=
  root :: (s.vault.updates.filter fun u => u.block == k).flatMap fun u =>
    [(u.newCnt, leBytes 16 u.newTag), (u.oldCnt, leBytes 16 u.oldTag)]

/-- The plain bytes that ciphertext `ct` of map block `k` holds under the first of `tries` that accepts it. -/
def State.openBlock (s : State) (k : Nat) (tries : List (Nat × List Nat)) (ct : List Nat) : Option (List Nat) :=
  tries.findSome? fun e =>
    let iv := ledgerIv 0x4D k e.1
    if e.1 != 0 && Crypto.gcmTag s.ledgerKeyBytes iv [] ct == e.2 then some (Crypto.gcmCrypt s.ledgerKeyBytes iv ct) else none

/-- Map block `k` as stored (R199, R200, R202); one that a failed root block knows nothing of fails with it (R203). -/
def State.readMapBlock (s : State) (k : Nat) : LedgerRead :=
  match s.readRoot (k / 128) with
  | .bad => .bad
  | .good rb | .repaired rb _ =>
    let tries := s.mapTries k (rootEntry rb k)
    if tries.all fun e => e.1 == 0 then (if s.cold.badRoots.contains (k / 128) then .bad else .good zeroBlock)
    else
      let got := s.readChecked 0 k (s.openBlock k tries)
      if got = .bad ∧ (tries.any fun e => e.1 == 0) = true then .good zeroBlock else got

/-- Entry `i` of a block's bytes. -/
def blockEntry (b : List Nat) (i : Nat) : BitVec 128 := BitVec.ofNat 128 (natOfBytes ((b.drop (16 * i)).take 16))

/-- A group of eight seams written again with the blocks of `new` (block of the group, bytes) in place (R165). -/
def writeGroup (base g : Nat) (new : List (Nat × List Nat)) (s : State) : State :=
  let old := (List.range 112).map fun t => (s.dataStitch (base + 8 * g + t / 14) (t % 14)).getD 0
  let all := new.foldl (fun l n => (List.range 16).foldl (fun l j => l.set (n.1 * 16 + j) ((toStitches n.2 16).getD j 0)) l) old
  forAll (List.range 8) s fun t j =>
    let d := (all.drop (14 * j)).take 14
    refreshSubstitutes (base + 8 * g + j) d (writeSeamDirect (base + 8 * g + j) d t)

/-! ### The map cache and map entries (R125, R160, R161) -/

/-- Whether pseudo-channel group `g` of stack `st` serves. -/
def State.groupUp (s : State) (st g : Nat) : Bool := !s.on (Reg.HTC_STS_FENCED st) && !s.bitOf (Reg.HTC_STS_GRP_FENCED st) g

/-- The map-cache set of ledger block `b` (R125). -/
def cacheSet (b : Nat) : Nat := (b / 2 % 131072) ^^^ (b / 262144 % 131072)

/-- The stack that caches ledger block `b` (R125, R137); a set lies in the group of its number modulo 8 (log entry 20). -/
def State.cacheStack (s : State) (b : Nat) : Nat :=
  if s.groupUp (b % 2) (cacheSet b % 8) then b % 2 else 1 - b % 2

/-- The tag key of a way. -/
def State.tagKey (s : State) (b way : Nat) : Nat := (s.cacheStack b * 131072 + cacheSet b) * 16 + way

/-- A tag. -/
def State.mapTag (s : State) (key : Nat) : MapTag := SMap.get {} s.hot.tags key

/-- The way that holds ledger block `b`. -/
def State.wayOf (s : State) (b : Nat) : Option Nat :=
  (List.range 16).find? fun w => let t := s.mapTag (s.tagKey b w); t.valid && t.block == b

/-- Journal records applied to a ledger entry in order of SEQ (R167): a record sets the location, WCNT and EPB, and STATE where it is of TYPE 4 or 5. -/
def applyRecords (rs : List (BitVec 256)) (m : MapEntry) : MapEntry :=
  rs.foldl (fun m r =>
    let i := recImage r
    match recType r with
    | 1 | 3 => { m with seam := i.seam, spos := i.spos, scnt := i.scnt, wcnt := i.wcnt, epb := i.epb }
    | 2 => { m with seam := i.seam, spos := i.spos, scnt := i.scnt }
    | 4 => { m with seam := 0, spos := 0, scnt := 0, state := 0 }
    | 5 => { m with seam := 0, spos := 0, scnt := 0, state := 1 }
    | _ => m) m

/-- The primary frame of page `p` (KIND 1). -/
def State.primaryOf (s : State) (p : Nat) : Option Nat :=
  (s.hot.desc.find? fun e => e.2.kind == 1 && e.2.gpn == p && !(s.hot.fills.any fun g => g.source == .frame e.1)).map Prod.fst

/-- An entry of the ledger with the live journal records applied. -/
def State.ledgerEntry (s : State) (p : Nat) (e : BitVec 128) : MapEntry :=
  applyRecords (s.liveRecords.filter fun r => recPage r == p) (unpackEntry e)

/-- An entry that the map cache has lost, rebuilt from its ledger bytes, the live journal records and the frame descriptors (R167); a page without a frame and an image that the
ledger gives STATE 1 stays poisoned (R159). -/
def State.rebuildEntry (s : State) (p : Nat) (e : BitVec 128) : MapEntry :=
  let m := s.ledgerEntry p e
  match s.primaryOf p with
  | some f =>
    let d := SMap.get {} s.hot.desc f
    { m with frame := f, state := if d.dirty != 0 then 3 else 2, heat := d.heat, pin := d.pin }
  | none => { m with frame := 0, state := if m.scnt ≠ 0 ∨ m.state = 1 then 1 else 0, heat := 0 }

/-- The entry of page `p` that the ledger's bytes `e` give: the current one, rebuilt where the map cache lost its block (R161, R167). -/
def State.loadedEntry (s : State) (p : Nat) (e : BitVec 128) : MapEntry :=
  if s.hot.lostBlocks.contains (p / 256) then s.rebuildEntry p e else s.ledgerEntry p e

/-- The current map entry of page `p`: the map cache's, or the ledger's; a block that cannot be verified or repaired poisons its pages (R203). -/
def State.entry (s : State) (p : Nat) : MapEntry :=
  match s.wayOf (p / 256) with
  | some _ => unpackEntry (SMap.get zeroEntry s.hot.entries p)
  | none =>
    match s.mapBlock p with
    | none => {}
    | some k =>
      match s.readMapBlock k with
      | .good b | .repaired b _ => s.loadedEntry p (blockEntry b (p % 256))
      | .bad => { state := 1 }

/-- The page base of the block of pages that map-area block `k` holds. -/
def State.blockOfMap (s : State) (k : Nat) : Option Nat :=
  ((List.range 17).find? fun w =>
    let n := s.fld (Reg.CTM_LWIN_SLOTS w)
    let b := s.fld (Reg.CTM_LWIN_SLOT_BASE w)
    n != 0 && decide (b * 1024 ≤ k) && decide (k < (b + n) * 1024)).map fun w =>
      (s.windowBase w + (k - s.fld (Reg.CTM_LWIN_SLOT_BASE w) * 1024) * 256) / 256

/-- The way of map-area block `k` in the map cache, when it is cached and modified. -/
def State.modifiedKey (s : State) (k : Nat) : Option (Nat × Nat) :=
  match s.blockOfMap k with
  | none => none
  | some b => (s.wayOf b).bind fun w => if (s.mapTag (s.tagKey b w)).modified then some (b, s.tagKey b w) else none

/-- Root block bytes `old` with the entries `new` (map block, CNT, tag) in place, without the tag. -/
def rootWith (old : List Nat) (new : List (Nat × Nat × List Nat)) : List Nat :=
  new.foldl (fun b n =>
    let at_ := 24 * (n.1 % 128)
    b.take at_ ++ leBytes 6 n.2.1 ++ [0, 0] ++ n.2.2 ++ b.drop (at_ + 24)) (old.take 4080)

/-- Root block `r` written with content `body` under its root counter, which is `c` from now on; its group is written with it. -/
def putRoot (r c : Nat) (body : List Nat) (s : State) : State :=
  let tag := Crypto.gcmTag s.ledgerKeyBytes (ledgerIv 0x52 r c) body []
  writeGroup s.rootBase (r / 7) [(r % 7, body ++ tag)] (s.onVault fun v => { v with rootCnt := SMap.put 0 v.rootCnt r c })

/-- The pages of ledger block `b` stand poisoned with no image (R203): what the hot tier and open work hold of them is gone, and a request that waits for a fill of
one looks its page up again. -/
def clearPages (b : Nat) (s : State) : State :=
  let mine := fun (p : Nat) => p / 256 == b
  let gone := fun (f : Nat) => let d := SMap.get {} s.hot.desc f; (d.kind == 1 || d.kind == 2) && mine d.gpn
  let s1 := s.onHot fun h =>
    { h with
      lines := SMap.keep (fun k => !gone (k / 64)) h.lines
      desc := SMap.keep (fun f => !gone f) h.desc
      fills := h.fills.filter fun x => !mine x.gpn
      pending := h.pending.filter fun x => !gone x.1
      marks := (List.range 256).foldl (fun m i => SMap.put 0 m (256 * b + i) (BitVec.allOnes 64)) h.marks }
  let s2 := s1.onCold fun c =>
    { c with ops := c.ops.filter fun o => !mine o.gpn, jobs := c.jobs.filter fun j => j.use == .txn || !mine j.gpn }
  { s2 with slices := SMap.mapAll (fun _ => {}) (fun _ sl => { sl with
      txns := sl.txns.map fun t => if t.phase = .fill ∧ mine t.req.gpn = true then { t with phase := .map } else t
      entries := sl.entries.filter fun e => !mine e.1 }) s2.slices }

/-- Every page of ledger block `b`, which the map cache holds, marked poisoned (R203). -/
def poisonCached (b : Nat) (s : State) : State :=
  match s.wayOf b with
  | none => s
  | some w =>
    let lost := fun (p : Nat) => unpackEntry (SMap.get zeroEntry s.hot.entries p)
    let s1 := forAll (List.range 256) (clearPages b s) fun t i =>
      let m := lost (256 * b + i)
      if m.scnt = 0 then t
      else t.onCold fun c => { c with segs := SMap.upd {} c.segs (segOf m.seam) fun g => { g with live := g.live - m.scnt } }
    s1.onHot fun h => { h with
      entries := (List.range 256).foldl (fun m i => SMap.put zeroEntry m (256 * b + i) ({ state := 1 } : MapEntry).pack) h.entries
      tags := SMap.upd {} h.tags (s.tagKey b w) fun t => { t with modified := true } }

/-- Root block `r` has failed (R203): it is counted and reported once, and the pages of its map blocks that the map cache holds are poisoned; the others are as they
are loaded. -/
def failRoot (r : Nat) (s : State) : State :=
  if s.cold.badRoots.contains r then s
  else
    let first := ((List.range 128).findSome? fun i => s.blockOfMap (128 * r + i)).getD 0
    let s1 := ((s.onCold fun c => { c with badRoots := c.badRoots ++ [r] }).count Reg.CRY_LAUTH_UNREPAIRED).report 0x0E 0 [128 * r, 0, 0, 0, first * 256, 0, 32768]
    let hit := (s1.hot.tags.filter fun e => e.2.valid && (s1.mapBlock (e.2.block * 256)).any fun k => k / 128 == r).map fun e => e.2.block
    forAll hit s1 fun t b => poisonCached b t

/-! ### The vault's copies (R353) -/

/-- Root block `r` is lost with its counter, or with what else the vault held for it: its pages are handled as those of a root block that fails, its counter is 0, and its pending
updates are gone (R203, R353). -/
def loseRoot (s : State) (r : Nat) : State :=
  let s1 := failRoot r (s.onCold fun c => { c with badRoots := c.badRoots.filter (· != r) })
  s1.onVault fun v => { v with rootCnt := SMap.put 0 v.rootCnt r 0, updates := v.updates.filter fun u => u.root != r }

/-- The root blocks of the map slots that an item of the vault bears on. -/
def State.itemRoots (s : State) (i : VaultItem) : List Nat :=
  let ofSlot := fun (k : Nat) => (List.range 8).map fun j => 8 * k + j
  match i with
  | .counter r => [r]
  | .epoch k => ofSlot k
  | .root ld => ((List.range s.cold.nSlots).filter fun k => (SMap.get {} s.vault.epochs k).kld == ld).flatMap ofSlot
  | .ledger => s.vault.rootCnt.map Prod.fst

/-- Neither copy of item `i` verifies (R353): the map slots that it bears on are handled as R203 gives for a root block. What the vault holds of it from now on is free. -/
def loseItem (i : VaultItem) (s : State) : State :=
  let s1 := forAll (s.itemRoots i) s loseRoot
  match i with
  | .root ld => let v := s1.freeVal 256; s1.spent.onVault fun u => { u with roots := SMap.upd none u.roots ld fun x => x.map fun _ => v }
  | .ledger => let v := s1.freeVal 256; s1.spent.onVault fun u => { u with ledgerKey := u.ledgerKey.map fun _ => v }
  | .epoch k =>
    let v := (s1.freeVal 32).toNat
    s1.spent.onVault fun u => { u with epochs := SMap.upd {} u.epochs k fun e => { e with epoch := v, reenc := false, hold := false }, reenc := u.reenc.filter fun r => r.slot != k }
  | .counter _ => s1

/-- The vault's item `i` is used (R353): where one copy does not verify it is rewritten from the other, and KEY_COPY is reported; where neither does the item is lost. -/
def useItem (i : VaultItem) (s : State) : State :=
  let a := s.vault.badCopies.contains (i, false)
  let b := s.vault.badCopies.contains (i, true)
  let s1 := s.onVault fun v => { v with badCopies := v.badCopies.filter fun e => e.1 != i }
  if a && b then loseItem i s1 else if a || b then s1.report 0x24 0 [(s1.reg Reg.CRY_STS).toNat] else s

/-- The items that an access to an image of page `p` uses (R193, R194). -/
def usePage (p : Nat) (s : State) : State :=
  let s1 := useItem (.root (s.keySource p).1) s
  match s.slotOf p with
  | some k => useItem (.epoch k) s1
  | none => s1

/-- A new value of item `i` is written to both copies. -/
def freshItem (i : VaultItem) (s : State) : State := s.onVault fun v => { v with badCopies := v.badCopies.filter fun e => e.1 != i }

/-- Root block `r` as it is used (R203, R205): one repaired is counted, reported and written again with its group, unless a group write is about to; one that fails is lost. -/
def checkRoot (r : Nat) (s0 : State) : State :=
  let s := useItem (.counter r) (useItem .ledger s0)
  match s.readRoot r with
  | .good _ => s
  | .repaired b p =>
    let s1 := (s.count Reg.CRY_LAUTH_REPAIRED).report 0x03 0 [2 * dataCh p.1 p.2 + s.slotOfSeam p.1, p.1, p.2, 0]
    if s1.vault.updates.any fun u => u.root == r then s1 else putRoot r (s1.rootCounter r + 1) (b.take 4080) s1
  | .bad => failRoot r s

/-! ### Ledger group writes (R165, R201) -/

/-- The modified cached blocks of map-area group `g`: map block, ledger block and tag key. -/
def State.modifiedBlocks (s : State) (g : Nat) : List (Nat × Nat × Nat) :=
  (List.range 7).filterMap fun j => (s.modifiedKey (7 * g + j)).map fun e => (7 * g + j, e.1, e.2)

/-- The 4,096 plain bytes of cached ledger block `b`. -/
def State.blockPlain (s : State) (b : Nat) : List Nat :=
  (List.range 256).flatMap fun i => (bytesOf (SMap.get zeroEntry s.hot.entries (b * 256 + i)) 16).map BitVec.toNat

/-- The CNT of the next write of map block `k`: above every one that it may have been written under. -/
def State.nextCnt (s : State) (k : Nat) : Nat :=
  ((s.vault.updates.filter fun u => u.block == k).map PendingUpdate.newCnt).foldl Nat.max (rootEntry (s.rootBytes (k / 128)) k).1 + 1

/-- Map blocks for which the key vault holds pending-update records at most (R201). -/
def updateLimit : Nat := 56

/-- Whether a write of map-area group `g` may begin: it has a modified block, the ledger has its key, no write of the group or with a root block of its is under way, and the
key vault has room for its pending-update records (R201). -/
def State.mayWriteGroup (s : State) (g : Nat) : Bool :=
  let mods := s.modifiedBlocks g
  !mods.isEmpty && s.vault.ledgerKey.isSome &&
  !(s.cold.groups.any fun x => x.group == g || x.blocks.any fun e => mods.any fun m => m.1 / 128 == e.block / 128) &&
  decide (s.vault.updates.length + mods.length ≤ updateLimit)

/-- A write of map-area group `g` begins (R201, steps 1 and 2): the CNT of each changed block advances, and the key vault takes the pending-update records. -/
def beginGroup (g : Nat) (s : State) : State :=
  if !s.mayWriteGroup g then s
  else
    let mods := s.modifiedBlocks g
    let s1 := forAll (mods.map fun m => m.1 / 128).eraseDups s fun t r => checkRoot r t
    let bs := mods.map fun m => ({ block := m.1, page := m.2.1, plain := s1.blockPlain m.2.1, cnt := s1.nextCnt m.1 } : GroupBlock)
    let ups := bs.map fun e =>
      let old := rootEntry (s1.rootBytes (e.block / 128)) e.block
      ({ block := e.block, oldCnt := old.1, newCnt := e.cnt, oldTag := natOfBytes old.2, newTag := natOfBytes (s1.sealBlock e.block e.cnt e.plain).2,
         root := e.block / 128, oldRoot := s1.rootCounter (e.block / 128) } : PendingUpdate)
    let s2 := s1.onVault fun v => { v with updates := v.updates ++ ups }
    s2.onCold fun c => { c with groups := c.groups ++ [{ group := g, top := c.nextSeq - 1, blocks := bs }] }

/-- The root counter of root block `r` advanced, unless that has been done since its pending-update record was taken (R201, step 4). -/
def stepRoot (s : State) (r : Nat) : State :=
  match s.vault.updates.find? fun u => u.root == r with
  | some u => if s.rootCounter r = u.oldRoot then s.onVault fun v => { v with rootCnt := SMap.put 0 v.rootCnt r (u.oldRoot + 1) } else s
  | none => s

/-- The blocks of a group write are unmodified where the map cache still holds what was written. -/
def cleanBlocks (x : GroupRun) (s : State) : State :=
  forAll x.blocks s fun t e =>
    match t.wayOf e.page with
    | none => t
    | some w =>
      if t.blockPlain e.page = e.plain then t.onHot fun h => { h with tags := SMap.upd {} h.tags (t.tagKey e.page w) fun y => { y with modified := false } }
      else t

/-- The next step of the write `x` (R201, steps 3 to 6). -/
def groupDo (x : GroupRun) (s : State) : State :=
  let roots := (x.blocks.map fun e => e.block / 128).eraseDups
  match x.step with
  | 0 => writeGroup 0 x.group (x.blocks.map fun e => (e.block % 7, (s.sealBlock e.block e.cnt e.plain).1)) s
  | 1 => forAll roots s stepRoot
  | 2 => forAll roots s fun t r =>
      putRoot r (t.rootCounter r)
        (rootWith (t.rootBytes r) ((x.blocks.filter fun e => e.block / 128 == r).map fun e => (e.block, e.cnt, (t.sealBlock e.block e.cnt e.plain).2))) t
  | 3 => s.onVault fun v => { v with updates := v.updates.filter fun u => !(x.blocks.any fun e => e.block == u.block) }
  | _ =>
    let s1 := cleanBlocks x (appendRecord (fun q => journalRecord 6 x.top q { seam := 8 * x.group } {}) s)
    (trimJournal (s1.onCold fun c => { c with applied := SMap.put 0 c.applied x.group x.top })).unexpose fun e => e.src == 0x03 && e.inst == 2 ^ 40 + x.group

/-- The write of map-area group `g` under way goes on by one step; after its last it is over. -/
def groupStep (g : Nat) (s : State) : State :=
  match s.cold.groups.find? fun x => x.group == g with
  | none => s
  | some x =>
    (groupDo x s).onCold fun c =>
      { c with groups := if x.step < 4 then c.groups.map (fun y => if y.group = g then { y with step := x.step + 1 } else y) else c.groups.filter fun y => y.group != g }

/-- `n` steps of the write of map-area group `g`, begun where it is not under way. -/
def groupSteps (g n : Nat) (s : State) : State :=
  let s0 := if s.cold.groups.any fun x => x.group == g then s else beginGroup g s
  forAll (List.range (Nat.min n 5)) s0 fun t _ => groupStep g t

/-- Every group write under way ended, and then map-area group `g` written whole: what an eviction from the map cache waits for (R125). -/
def groupWrite (g : Nat) (s : State) : State :=
  groupSteps g 5 (forAll (s.cold.groups.map GroupRun.group) s fun t x => groupSteps x 5 t)

/-- Ledger block `b` leaves the map cache from way key `key`. -/
def dropBlock (key : Nat) (s : State) : State :=
  let b := (s.mapTag key).block
  let gone := fun p => p / 256 == b
  let s1 := s.onHot fun h => { h with tags := SMap.put {} h.tags key {}, entries := SMap.keep (fun p => !gone p) h.entries }
  { s1 with slices := SMap.mapAll (fun _ => {}) (fun _ sl => { sl with entries := sl.entries.filter fun e => !gone e.1 }) s1.slices }

/-- Ledger block `b` takes a way with the entries `es` (R125): an invalid way, or the least recently used unmodified one; where all sixteen are
modified, the block used longest ago is first written back with its group. -/
def placeBlock (b : Nat) (es : List (BitVec 128)) (modified : Bool) (s : State) : State :=
  let keys := (List.range 16).map fun w => s.tagKey b w
  let pick := fun (t : State) (p : MapTag → Bool) => (keys.filter fun k => p (t.mapTag k)).foldl
    (fun (a : Option Nat) k => match a with
      | none => some k
      | some m => if (t.mapTag k).stamp < (t.mapTag m).stamp then some k else some m) none
  let s0 := match pick s fun t => !t.valid || !t.modified with
    | some _ => s
    | none =>
      match pick s fun _ => true with
      | some k =>
        (match s.mapBlock ((s.mapTag k).block * 256) with
         | some m => groupWrite (m / 7) s
         | none => s)
      | none => s
  let key := match pick s0 fun t => !t.valid with
    | some k => some k
    | none => pick s0 fun t => !t.modified
  match key with
  | none => s0
  | some k =>
    let s1 := if (s0.mapTag k).valid then dropBlock k s0 else s0
    s1.onHot fun h =>
      { h with
        tags := SMap.put {} h.tags k { valid := true, modified := modified, block := b, stamp := s.clk }
        entries := (List.range 256).foldl (fun m i => SMap.put zeroEntry m (b * 256 + i) (es.getD i zeroEntry)) h.entries }

/-- Ledger block `b`, map block `k`, has failed (R203): it is counted and reported, unless a root block has failed with it, and its 256 pages are poisoned. -/
def failBlock (b k : Nat) (s : State) : State :=
  let known := s.cold.badRoots.contains (k / 128) && (rootEntry (s.rootBytes (k / 128)) k).1 == 0
  let s1 := if known then s else (s.count Reg.CRY_LAUTH_UNREPAIRED).report 0x0E 0 [k, 0, 0, 0, b * 256, 0, 256]
  placeBlock b ((List.range 256).map fun _ => ({ state := 1 } : MapEntry).pack) true (clearPages b s1)

/-- Ledger block `b` brought into the map cache from the ledger with the live journal records applied (R126, R161); a block that the map cache has lost is rebuilt (R167), and
one that cannot be verified or repaired poisons its pages (R203). -/
def loadBlock (b : Nat) (s : State) : State :=
  if (s.wayOf b).isSome then s
  else
    match s.mapBlock (b * 256) with
    | none => s
    | some k =>
      let s0 := checkRoot (k / 128) s
      let build := fun (bytes : List Nat) => (List.range 256).map fun i => (s0.loadedEntry (b * 256 + i) (blockEntry bytes i)).pack
      let found := fun (t : State) => t.onHot fun h => { h with lostBlocks := h.lostBlocks.filter (· != b) }
      match s0.readMapBlock k with
      | .good bytes =>
        let es := build bytes
        let live := s0.liveRecords.any fun r => decide (recType r ≤ 5) && recPage r / 256 == b
        found (placeBlock b es (live || es != (List.range 256).map fun i => blockEntry bytes i) s0)
      | .repaired bytes p =>
        found (placeBlock b (build bytes) true ((s0.count Reg.CRY_LAUTH_REPAIRED).report 0x03 0
          [2 * dataCh p.1 p.2 + s0.slotOfSeam p.1, p.1, p.2, 0, 2 ^ 40 + k / 7]))
      | .bad => found (failBlock b k s0)

/-! ### Group writes repeated (R202) -/

/-- The CNT and tag under which the DIMMs hold the map block of pending-update record `u`: the new ones, unless only the old ones verify (R202). -/
def State.acceptedOf (s : State) (u : PendingUpdate) : Nat × List Nat :=
  let ok := fun (e : Nat × List Nat) => s.readChecked 0 u.block (s.openBlock u.block [e]) != .bad
  let new := (u.newCnt, leBytes 16 u.newTag)
  let old := (u.oldCnt, leBytes 16 u.oldTag)
  if !ok new && (u.oldCnt == 0 || ok old) then old else new

/-- Ledger block `b`, loaded where the map cache does not hold it, counts as modified. -/
def touchBlock (b : Nat) (s : State) : State :=
  let s1 := loadBlock b s
  match s1.wayOf b with
  | some w => s1.onHot fun h => { h with tags := SMap.upd {} h.tags (s1.tagKey b w) fun t => { t with modified := true } }
  | none => s1

/-- The write of map-area group `g` that a reset cut short (R202): steps 3 to 6 of R201 repeated with the blocks that its pending-update records describe; where a block has
changed since, its root blocks take what the DIMMs hold, and the group is written anew under the next CNT (log entry 110). -/
def repeatGroup (s : State) (g : Nat) : State :=
  let s0 := forAll (s.vault.updates.filter fun u => u.block / 7 == g) s fun t u => match t.blockOfMap u.block with
    | some b => touchBlock b t
    | none => t
  let us := s0.vault.updates.filter fun u => u.block / 7 == g
  let bs := us.map fun u =>
    let b := (s0.blockOfMap u.block).getD 0
    ({ block := u.block, page := b, plain := s0.blockPlain b, cnt := u.newCnt } : GroupBlock)
  if us.all fun u => bs.any fun e => e.block == u.block && natOfBytes (s0.sealBlock e.block e.cnt e.plain).2 == u.newTag then
    groupSteps g 5 (s0.onCold fun c => { c with groups := c.groups ++ [{ group := g, top := c.nextSeq - 1, blocks := bs }] })
  else
    let s1 := forAll (us.map PendingUpdate.root).eraseDups s0 fun t r =>
      let held := (us.filter fun u => u.root == r).map fun u => (u.block, t.acceptedOf u)
      putRoot r (t.rootCounter r + 1) (rootWith (t.rootBytes r) held) t
    groupSteps g 5 (s1.onVault fun v => { v with updates := v.updates.filter fun u => u.block / 7 != g })

/-- Every group write that a reset cut short (R202). -/
def repeatUpdates (s : State) : State := forAll (s.vault.updates.map fun u => u.block / 7).eraseDups s repeatGroup

/-! ### Accounts (R178) -/

/-- Pages not in STATE 0 and stitches charged of page `p`'s slot, after its entry changes from `a` to `m` (R178). -/
def account (p : Nat) (a m : MapEntry) (s : State) : State :=
  match s.slotOf p with
  | none => s
  | some k => s.onCold fun c =>
      { c with used := SMap.upd (0, 0) c.used k fun u =>
          (u.1 + (if m.state = 0 then 0 else 1) - (if a.state = 0 then 0 else 1), u.2 + m.scnt - a.scnt)
               images := c.images + (if m.scnt = 0 then 0 else 1) - (if a.scnt = 0 then 0 else 1) }

/-- What slice `sl`'s SRAM holds of a map entry that is written there: with an injection armed for it (Table 11.4, target 8), one bit wrong. -/
def injectEntry (sl : Nat) (e : BitVec 128) (s : State) : BitVec 128 × State :=
  if s.armed 8 sl then (e ^^^ (1 <<< (s.fld Reg.FLT_INJ_BIT % 128)), fire s) else (e, s)

/-- The entry of page `p` in the slices that hold it. -/
def putSram (p : Nat) (e : BitVec 128) (s : State) : State :=
  forAll (s.slices.map Prod.fst) s fun t k =>
    if (t.slice k).entries.any fun x => x.1 == p then
      (let r := injectEntry k e t
       r.2.updSlice k fun sl => { sl with entries := sl.entries.map fun x => if x.1 = p then (p, r.1) else x })
    else t

/-- The home slice changes the map entry of page `p`: in its SRAM, where it holds it, and in the map cache (R161). -/
def putEntry (p : Nat) (m : MapEntry) (s : State) : State :=
  let s1 := loadBlock (p / 256) s
  let a := s1.entry p
  let e := m.pack
  let s2 := s1.onHot fun h =>
    { h with
      entries := SMap.put zeroEntry h.entries p e
      tags := match s1.wayOf (p / 256) with
        | some w => SMap.upd {} h.tags (s1.tagKey (p / 256) w) fun t => { t with modified := true }
        | none => h.tags }
  let s4 := account p a m (putSram p e s2)
  if a.pin == m.pin then s4
  else s4.setFld Reg.HTM_PIN_PAGES_COUNT (if m.pin then s4.fld Reg.HTM_PIN_PAGES_COUNT + 1 else s4.fld Reg.HTM_PIN_PAGES_COUNT - 1)

/-- The map entry of page `p` changed by `f`. -/
def updEntry (p : Nat) (f : MapEntry → MapEntry) (s : State) : State := putEntry p (f (s.entry p)) s

/-! ### Log segments (R144, R156, R168, R172) -/

/-- The segment-table entry of segment `g`. -/
def State.segment (s : State) (g : Nat) : Segment := SMap.get {} s.cold.segs g

/-- The state of segment `g` (R168). -/
def State.segState (s : State) (g : Nat) : SegState :=
  if g < s.cold.nLedger then .ledger else if s.inTack g then .tack else (s.segment g).st

/-- Free log segments, the tack reserve excluded (CTM_FREE_SEGS). -/
def State.freeSegs (s : State) : Nat :=
  let tack := ((List.range (s.fld Reg.CTM_TACK_DIMMS)).filter fun b => !s.on (Reg.DCM_BLK_BORROWED b)).length * s.blockSegs
  s.cold.nSeg - s.cold.nLedger - tack - (s.cold.segs.filter fun e => e.2.st != .free && !s.inTack e.1).length

/-- Whether segment `g` has no stitch on a failed channel, a fenced DIMM or a DIMM under evacuation (R156, R251). -/
def State.segHealthy (s : State) (g : Nat) : Bool :=
  (List.range 16).all fun ch => !s.rangeLost ch (g * 4096) && s.slotState ch (s.slotOfSeam (g * 4096)) == 3

/-- The lowest-numbered free segment from `lo` up to `hi`. -/
def State.freeSegIn (s : State) (lo hi : Nat) : Nat → Option Nat
  | 0 => none
  | n + 1 =>
    if hi ≤ lo then none
    else match (List.range 4).find? fun b => s.inTack lo && decide (s.blockFirst b ≤ lo) && decide (lo < s.blockFirst b + s.blockSegs) with
      | some b => s.freeSegIn (s.blockFirst b + s.blockSegs) hi n
      | none => if (s.segment lo).st = .free then some lo else s.freeSegIn (lo + 1) hi n

/-- The segment that a stream is given (R156), and whether it is degraded. -/
def State.nextSegment (s : State) : Option (Nat × Bool) :=
  let q := s.slotSegs / 4
  let parts := (List.range 8).map fun i => (Nat.max (i * q) s.cold.nLedger, Nat.min ((i + 1) * q) s.cold.nSeg)
  let fuel := s.cold.segs.length + 6
  match parts.findSome? fun r => if s.segHealthy r.1 then s.freeSegIn r.1 r.2 fuel else none with
  | some g => some (g, false)
  | none => (parts.findSome? fun r => s.freeSegIn r.1 r.2 fuel).map fun g => (g, true)

/-- Segment `g` put into state `st`. -/
def setSeg (g : Nat) (st : SegState) (s : State) : State :=
  s.onCold fun c => { c with segs := SMap.upd {} c.segs g fun e => { e with st := st } }

/-- `n` stitches added to the live count of the segment of seam `seam`. -/
def addLive (seam n : Nat) (s : State) : State :=
  s.onCold fun c => { c with segs := SMap.upd {} c.segs (segOf seam) fun e => { e with live := e.live + n } }

/-- `n` stitches taken from it. -/
def subLive (seam n : Nat) (s : State) : State :=
  s.onCold fun c => { c with segs := SMap.upd {} c.segs (segOf seam) fun e => { e with live := e.live - n } }

/-- Whether segment `g` of the range that block `b` covers has its coverage bit set (R244). -/
def State.covered (s : State) (b g : Nat) : Bool :=
  SMap.get false s.dram.dcm.cover (b * 1048576 + (g - s.fld (Reg.DCM_BLK_SLOT b) * s.slotSegs))

/-- The sealed, victim and ledger segments that lie on slot `z`. -/
def State.heldSegs (s : State) (z : Nat) : List Nat :=
  (List.range s.cold.nLedger ++ (s.cold.segs.filter fun e => e.2.st == .sealed || e.2.st == .victim).map Prod.fst).filter fun g =>
    decide (z * s.slotSegs ≤ g) && decide (g < (z + 1) * s.slotSegs)

/-- The segments of block `b`'s range that wait for coverage refresh (R244, R249). -/
def State.needsCover (s : State) (b : Nat) : List Nat := (s.heldSegs (s.fld (Reg.DCM_BLK_SLOT b))).filter fun g => !s.covered b g

/-- The coverage bits of segment `g` cleared (R244), and whether some block held one. -/
def clearCover (g : Nat) (s : State) : State :=
  s.onDcm fun d => { d with cover := (List.range 4).foldl (fun m b =>
    let z := s.fld (Reg.DCM_BLK_SLOT b)
    if z * s.slotSegs ≤ g then SMap.put false m (b * 1048576 + (g - z * s.slotSegs)) false else m) d.cover }

/-- Segment `g` becomes free (R172). -/
def freeSegment (g : Nat) (s : State) : State :=
  clearCover g { s with cold := { s.cold with segs := SMap.upd {} s.cold.segs g fun e => { lastWrite := e.lastWrite }, victims := s.cold.victims.filter (· != g),
                                              hostVictims := s.cold.hostVictims.filter (· != g) } }

/-! ### Events about pages (R354, R356) -/

/-- A General Media record of `pages` pages from line `l` of page `p` on, in log `lg` of the LDs that reach the page; poisoned data enters their
poison lists (R42). -/
def mediaRecord (lg p l pages : Nat) (corrected inj : Bool) (s : State) : State :=
  let ks := (s.pageOwners p).map Prod.fst
  let s1 := s.deliver ks lg (.media p l pages corrected inj)
  if corrected then s1
  else forAll ks s1 fun t k => t.updLd k fun d => { d with poison := if d.poison.contains (p, l) then d.poison else d.poison ++ [(p, l)] }

/-- The same of an error that no fault source reports, kept in the management fault log too (R356). -/
def mediaEvent (lg p l pages : Nat) (corrected : Bool) (s : State) : State :=
  mediaRecord lg p l pages corrected false (keepRecord (.media p l pages corrected false) s)

/-- Lines of page `p` for which `gone` holds leave the poison lists (R42, R104). -/
def clearPoison (p : Nat) (gone : Nat → Bool) (s : State) : State :=
  { s with lds := SMap.mapAll (fun _ => {}) (fun _ d => { d with poison := d.poison.filter fun e => !(e.1 == p && gone e.2) }) s.lds }

/-- Event kinds of a capacity record: an extent is offered, or asked back. -/
def capAdd : Nat := 0
def capRelease : Nat := 1

/-! ### Reading page images (R154, R174) -/

/-- The stitch places of an image (R151). -/
def imagePlaces (i : Image) : List (Nat × Nat) :=
  (List.range i.scnt).map fun k => (i.seam + (i.spos + k) / 14, (i.spos + k) % 14)

/-- The location of a page's image. -/
def MapEntry.image (m : MapEntry) : Image := { seam := m.seam, spos := m.spos, scnt := m.scnt, wcnt := m.wcnt, epb := m.epb }

/-- The stitcher that reads seam `seam`: number SEAM mod 16, or the next unfenced one; none where every stitcher is fenced (R154). -/
def State.stitcherFor (s : State) (seam : Nat) : Option Nat :=
  ((List.range 16).map fun i => (seam + i) % 16).find? fun n => !s.on (Reg.CTM_STCH_FENCED n)

/-- A read job for the image of page `p` at `i` is made; it waits to be dispatched. -/
def startJob (p : Nat) (i : Image) (u : JobUse) (s : State) : Nat × State :=
  let (id, s1) := s.fresh
  (id, s1.onCold fun c => { c with jobs := c.jobs ++ [{ id := id, gpn := p, img := i, use := u, t0 := s.clk }] })

/-- The job with number `id`. -/
def State.job (s : State) (id : Nat) : Option ReadJob := s.cold.jobs.find? fun j => j.id == id

/-- The job `id` changed by `f`. -/
def updJob (id : Nat) (f : ReadJob → ReadJob) (s : State) : State :=
  s.onCold fun c => { c with jobs := c.jobs.map fun j => if j.id = id then f j else j }

/-- The job `id` is over. -/
def endJob (id : Nat) (s : State) : State :=
  let s1 := forAll ((s.cold.jobs.filter fun j => j.id == id).filterMap ReadJob.stitcher) s fun t n => touchDomain (42 + n) t
  s1.onCold fun c => { c with jobs := c.jobs.filter fun j => j.id != id }

/-- The places a stitcher reads for a seam when `lost` of its stitches are erased: the stitches asked for, or every surviving one. -/
def State.readPlace (s : State) (seam ch : Nat) : Option (Nat × Nat) :=
  if (s.rawStitch ch seam).isSome then some (seam, ch)
  else (s.substitute ch seam).bind fun p => if (s.rawStitch p.2 p.1).isSome then some p else none

/-- The stitches to read for an image (R154, R174): its own, and every surviving stitch of a seam in which one of them is an erasure. -/
def State.imageNeeds (s : State) (i : Image) : List (Nat × Nat) :=
  let pl := imagePlaces i
  let seams := (pl.map Prod.fst).eraseDups
  (seams.flatMap fun q =>
    let own := (pl.filter fun p => p.1 == q).map fun p => s.readPlace q (dataCh q p.2)
    if own.all Option.isSome then own.filterMap id
    else (List.range 16).filterMap fun ch => s.readPlace q ch).eraseDups

/-- What a job has got for a place: from the place itself or from its substitute's. -/
def State.gotAt (s : State) (j : ReadJob) (seam ch : Nat) : Option Stitch :=
  let look := fun (q c : Nat) => (j.got.find? fun g => g.1 == q && g.2.1 == c).bind fun g => g.2.2
  match look seam ch with
  | some v => some v
  | none => (s.substitute ch seam).bind fun p => look p.1 p.2

/-- The image's stitches from what the job has got, erased ones rebuilt (R174); none where a seam has three or more erasures (R175). -/
def State.jobStitches (s : State) (j : ReadJob) : Option (List Stitch) :=
  allSome ((imagePlaces j.img).map fun p =>
    match s.gotAt j p.1 (dataCh p.1 p.2) with
    | some v => some v
    | none => (Crypto.seamRecover ((List.range 16).map fun i => s.gotAt j p.1 (codeCh p.1 i))).bind fun l => l[p.2]?)

/-- Whether a stitch that the job reads turned out to be an erasure in a seam that it does not read whole. -/
def State.jobShort (s : State) (j : ReadJob) : List (Nat × Nat) :=
  let pl := imagePlaces j.img
  let bad := ((pl.filter fun p => (s.gotAt j p.1 (dataCh p.1 p.2)).isNone).map Prod.fst).eraseDups
  (bad.flatMap fun q => (List.range 16).filterMap fun ch => s.readPlace q ch).filter fun p => !(j.got.any fun g => g.1 == p.1 && g.2.1 == p.2)

/-! ### Page-level operations (R91) -/

/-- The open operation of page `p`. -/
def State.opOf (s : State) (p : Nat) : Option PageOp := s.cold.ops.find? fun o => o.gpn == p

/-- The operation of page `p` changed by `f`. -/
def updOp (p : Nat) (f : PageOp → PageOp) (s : State) : State :=
  s.onCold fun c => { c with ops := c.ops.map fun o => if o.gpn = p then f o else o }

/-- The operation of page `p` is over. -/
def closeOp (p : Nat) (s : State) : State :=
  let s1 := forAll ((s.cold.ops.filter fun o => o.gpn == p).filterMap PageOp.stitcher) s fun t n => touchDomain (42 + n) t
  s1.onCold fun c => { c with ops := c.ops.filter fun o => o.gpn != p }

/-- The unfenced stitcher with the fewest input bytes queued, the lowest-numbered of equals (R155). -/
def State.leastQueued (s : State) : Option Nat :=
  let queued := fun (n : Nat) =>
    ((s.cold.ops.filter fun o => o.stitcher == some n && (o.phase == .opened || o.phase == .ready)).map PageOp.input).foldl (· + ·) 0
  ((List.range 16).filter fun n => !s.on (Reg.CTM_STCH_FENCED n)).foldl (fun a n => match a with
    | none => some n
    | some m => if queued n < queued m then some n else some m) none

/-- Whether a page-level operation of page `p` may open without a ticket (R19, R76, R91): the page's slice serves it, none is open, and no ticket is out for it. -/
def State.mayOpen (s : State) (p : Nat) : Bool :=
  s.pageServed p && (s.opOf p).isNone && (s.ticketAt (s.home p) (pageKey p)).isNone

/-- Whether a line write of page `p` has been accepted and has not landed yet. -/
def State.writeOpen (s : State) (p : Nat) : Bool :=
  s.slices.any fun e => e.2.txns.any fun t => t.req.gpn == p && (match t.req.kind with
    | .write => true
    | .atomic _ _ => t.val.isSome
    | _ => false)

/-! ### Background work and its reins (R269, Table 8.7). Rates are in thousandths of a byte per second -/

/-- 1 MB/s, 1 GB/s and 1 MiB/s. -/
abbrev mbs : Nat := 1000000000
abbrev gbs : Nat := 1000 * mbs
abbrev mibs : Nat := 1048576000

/-- QOS_ADM_CFG.BURST_NS as it acts. -/
def State.burstNs (s : State) : Nat := Nat.max 100 (s.fld Reg.QOS_ADM_CFG_BURST_NS)

/-- CRY_REENC_CFG.MAX as it acts (R210). -/
def State.reencMax (s : State) : Nat := clamp 1 4 (s.fld Reg.CRY_REENC_CFG_MAX)

/-- RE of R272: re-encryption at its full concurrency. -/
def State.reencRate (s : State) : Nat := s.reencMax * Nat.max 64 (s.fld Reg.CRY_REENC_CFG_RATE_MIN) * mibs

/-- The rebuild-family operations running (R366): the tack blocks whose operation is a rebuild, an evacuation or a restore, or a coverage refresh
with segments waiting. -/
def State.rebuilds (s : State) : List Nat :=
  (List.range 4).filter fun b => s.on (Reg.DCM_BLK_VALID b) &&
    (let op := s.fld (Reg.DCM_BLK_OP b)
     op == 1 || op == 2 || op == 4 || (op == 3 && !(s.needsCover b).isEmpty))

/-- What max(1, running) rebuild-family operations take of the channels at RATE_MIN: 15 reads and 16/14 writes for each MiB/s (R248). -/
def State.rebuildRate (s : State) : Nat :=
  Nat.max 1 s.rebuilds.length * ceilDiv (Nat.max 16 (s.fld Reg.DCM_REB_CFG_RATE_MIN) * mibs * 113) 7

/-- What a patrol pass takes of the channels. -/
def State.patrolRate (s : State) : Nat :=
  ceilDiv (s.cold.rawGib * 2 ^ 30 * 1000) (Nat.max 4 (s.fld Reg.DCM_PATROL_CFG_PERIOD_H) * 3600)

/-- The rein of a master port's background work; none for the ports that have none (R269). -/
def reinOf (port : Nat) : Option Nat :=
  if 24 ≤ port ∧ port < 40 then some 0 else if 40 ≤ port ∧ port < 56 then some 1 else if port = 56 then some 2 else if port = 57 then some 3 else none

/-- The rate at which a rein meters (R269, Table 8.7, log entry 125): re-encryption for the W streams, the relocation that the table reckons with it for the G streams, rebuild and
patrol for the DCM, ledger and journal for the ledger port. -/
def State.reinRate (s : State) : Nat → Nat
  | 0 => s.reencRate
  | 1 => s.reencRate * 7333 / 1000
  | 2 => s.rebuildRate + s.patrolRate
  | _ => 2 * gbs

/-- Background traffic of `n` bytes through master port `port` metered (R267 to R269): whether it is best-effort, and the rein after it. -/
def meter (port n : Nat) (s : State) : Bool × State :=
  match reinOf port with
  | none => (true, s)
  | some k =>
    let r := SMap.get ({} : Rein) s.qos.reins k
    let used := r.used - s.reinRate k * (s.clk - r.at_) / 1000000000
    let room := decide (used + 64000 ≤ s.reinRate k * s.burstNs / 1000000000)
    (!room, s.onQos fun q => { q with reins := SMap.put {} q.reins k { used := if room then used + 1000 * n else used, at_ := s.clk } })

/-- An operation of kind `k` opened for page `p` by master port `port`, with the snapshot of the entry (R91); relocations, re-encryptions of a cold
or clean page, promotions and marks that an image is to take begin with a read of the image. -/
def beginOp (k : OpKind) (p port : Nat) (frame : Option Nat) (s0 : State) : State :=
  let m := s0.entry p
  let (be, s) := meter port (if k = .relocation then 256 * m.scnt else 4096) s0
  let op : PageOp :=
    { gpn := p, kind := k, snap := m.pack, port := port, frame := frame, written := s.writeOpen p, input := if k = .relocation then 256 * m.scnt else 4096, be := be }
  let add := fun (o : PageOp) (t : State) => t.onCold fun c => { c with ops := c.ops ++ [o] }
  if (k = .relocation ∨ k = .promotion ∨ k = .reenc ∨ k = .mark) ∧ m.scnt ≠ 0 then
    let (id, s1) := startJob p m.image .op s
    add { op with phase := .reading id } s1
  else if k = .poison ∨ k = .mark then add { op with phase := .ready, stitcher := s.leastQueued } s
  else if k = .writeback then add { op with stitcher := s.leastQueued } s
  else add op s

/-- Master ports (Table 9.2). -/
def portDcm : Nat := 56
def portLedger : Nat := 57
def portPlaza : Nat := 58

/-- A page-level request of `who` that its slice has answered with a NACK, or its crossing with QUIESCE: the requester retries under R75. With its number. -/
def queueOpOf (who : Agent) (k : OpKind) (p port : Nat) (s : State) : Nat × State :=
  let (id, s1) := s.fresh
  let m := s.entry p
  let r : Req := { id := id, agent := who, port := port, kind := .pageOp k, gpn := p, cls := s.portClass port, t0 := s.clk, nacks := 1,
                   nackAt := Nat.max 1 s.clk, loc := (m.seam, m.spos) }
  let s2 := { s1 with flight := s1.flight ++ [r] }
  (id, if s.entryHeld (remapIndex p) then s2 else s2.count (Reg.HSL_NACK_CNT_COUNT (s1.home p)))

/-- The same of a requester that waits for no answer. -/
def queueOp (k : OpKind) (p port : Nat) (s : State) : State := (queueOpOf .plaza k p port s).2

/-- A page-level operation is asked for: opened at once where it may be, and otherwise retried. -/
def askOp (k : OpKind) (p port : Nat) (s : State) : State :=
  if s.mayOpen p then beginOp k p port none s else queueOp k p port s

/-! ### Append streams (R151, R155 to R157) -/

/-- The key of an append stream: 2 × stitcher + 1 for stream G. -/
def streamKey (st : Nat) (g : Bool) : Nat := 2 * st + g.toNat

/-- An append stream. -/
def State.stream (s : State) (key : Nat) : AppendStream := SMap.get {} s.cold.streams key

/-- A stream changed by `f`. -/
def updStream (key : Nat) (f : AppendStream → AppendStream) (s : State) : State :=
  s.onCold fun c => { c with streams := SMap.upd {} c.streams key f }

/-- The stream moves on to its next seam with the stitches `rest` already in it; past the last seam its segment is sealed. -/
def nextSeam (key : Nat) (rest : List Stitch) (s : State) : State :=
  let a := s.stream key
  match a.seg with
  | none => s
  | some g =>
    if a.seam % 4096 = 4095 then updStream key (fun _ => {}) (setSeg g .sealed s)
    else updStream key (fun a => { a with seam := a.seam + 1, bufs := rest, gpns := if rest.isEmpty then [] else a.gpns, firstAt := s.clk }) s

/-- The open seam of a stream, when its fourteen data positions are full, is written. -/
def writeFull (key : Nat) (s : State) : State :=
  let a := s.stream key
  if a.bufs.length < 14 then s else nextSeam key (a.bufs.drop 14) (issueSeam a.seam (a.bufs.take 14) s)

/-- The open seam of a stream sealed (R157): its free positions are filled with padding stitches of zeros, and it is written. -/
def sealStream (key : Nat) (s : State) : State :=
  let a := s.stream key
  if a.seg.isNone || a.bufs.isEmpty then s
  else
    let n := 14 - a.bufs.length
    writeFull key ((updStream key (fun a => { a with bufs := a.bufs ++ List.replicate n 0 }) s).count Reg.CTM_PAD_CNT_COUNT n)

/-- Every open seam sealed, the following seam of a spanning image included. -/
def sealAll (s : State) : State :=
  forAll (List.range 32) s fun t k => sealStream k (sealStream k t)

/-- A stream is given a segment where it has none (R156). -/
def openSegment (key : Nat) (s : State) : State :=
  if (s.stream key).seg.isSome then s
  else match s.nextSegment with
    | none => s
    | some (g, deg) =>
      updStream key (fun _ => { seg := some g, seam := g * 4096 })
        ((setSeg g .opened s).setBit Reg.CTM_STS_DEGRADED_OPEN (deg || s.on Reg.CTM_STS_DEGRADED_OPEN))

/-- Whether an image of `n` stitches may be placed at the stream's next position (R151). -/
def AppendStream.fits (a : AppendStream) (n : Nat) : Bool :=
  a.seg.isSome && decide (a.bufs.length + n ≤ (if a.seam % 4096 = 4095 then 14 else 28))

/-- The image of page `p` placed in a stream (R151): its location, or none where no segment can be had. -/
def placeImage (key p : Nat) (img : List Nat) (s : State) : Option (Image × State) :=
  let n := stitchesFor img.length
  let s0 := openSegment key s
  let s1 := if (s0.stream key).fits n then s0 else openSegment key (sealStream key s0)
  let a := s1.stream key
  if !a.fits n then none
  else
    let loc : Image := { seam := a.seam, spos := a.bufs.length, scnt := n }
    let s2 := updStream key (fun a => { a with bufs := a.bufs ++ toStitches img n, gpns := a.gpns ++ [p],
                                               firstAt := if a.bufs.isEmpty then s.clk else a.firstAt }) s1
    some (loc, writeFull key (writeFull key s2))

/-- Whether every seam that holds a stitch of the image has been written and each of its writes accepted (R163, step 2). -/
def State.imageStored (s : State) (i : Image) : Bool :=
  let seams := ((imagePlaces i).map Prod.fst).eraseDups
  seams.all fun q => !(s.cold.writes.any fun w => w.seam == q) && !(s.cold.streams.any fun a => a.2.seg.isSome && a.2.seam == q)
    && !(s.cold.streams.any fun a => a.2.seg.isSome && a.2.seam + 1 == q && decide (14 < a.2.bufs.length))

/-- The live images of seam `q`, as pages: each stitch whose header names a page whose entry holds this place (R169). -/
def State.liveIn (s : State) (q : Nat) : List Nat :=
  (List.range 14).filterMap fun d =>
    (s.dataStitch q d).bind fun v =>
      let hb : BitVec 256 := v.setWidth 256
      let h := unpackHeader hb
      let m := s.entry h.gpn
      if headerOk hb && h.ver == 1 && (s.slotOf h.gpn).isSome && m.seam == q && m.spos == d && m.scnt != 0 then some h.gpn else none

/-- The seams of segment `g` that hold something, on the DIMMs or in a write queue. -/
def State.writtenSeams (s : State) (g : Nat) : List Nat :=
  let stored : List Nat := (s.cold.stitches.filter fun e => segOf (e.1 / 16) == g).map fun e => e.1 / 16
  let queued : List Nat := s.dram.dcc.flatMap fun e => (e.2.wq.filter fun w => segOf w.seam == g).map WriteEntry.seam
  (stored ++ queued).eraseDups

/-! ### Commits (R163) -/

/-- A new image of page `p` committed with a record of TYPE `ty`: the journal record, the entry's location, the live counts (R163, steps 4, 5). -/
def commitImage (ty p : Nat) (new : Image) (f : MapEntry → MapEntry) (s : State) : State :=
  let m := s.entry p
  let s1 := appendRecord (fun q => journalRecord ty p q new m.image) s
  let s2 := updEntry p (fun m => f { m with seam := new.seam, spos := new.spos, scnt := new.scnt, wcnt := new.wcnt, epb := new.epb }) s1
  let s3 := addLive new.seam new.scnt s2
  if m.scnt = 0 then s3 else subLive m.seam m.scnt s3

/-- A discard or distress poison of page `p` committed: its image is freed (R163, R182, R184). -/
def commitFree (ty p : Nat) (f : MapEntry → MapEntry) (s : State) : State :=
  let m := s.entry p
  let s1 := appendRecord (fun q => journalRecord ty p q {} m.image) s
  let s2 := updEntry p (fun m => f { m with seam := 0, spos := 0, scnt := 0, frame := 0 }) s1
  if m.scnt = 0 then s2 else subLive m.seam m.scnt s2

/-! ### Capacity (R176 to R180) -/

/-- DIMM-worths of tack that are still held. -/
def State.tackLeft (s : State) : Nat := s.fld Reg.CTM_TACK_DIMMS - s.fld Reg.CTM_TACK_BORROWED

/-- Clog in units of 256 B stitches (R176). -/
def State.clog (s : State) : Nat :=
  (s.cold.nSeg - s.cold.nLedger - s.fld Reg.CTM_TACK_DIMMS * s.blockSegs) * 57344

/-- Whether the descriptor is the primary of a dirty page with no committed image; during its first write-back its dirty lines are pending (R124, R178). -/
def FrameDesc.unstored (d : FrameDesc) : Bool := d.kind == 1 && d.noimg && (d.dirty != 0 || d.wb)

/-- The stitches charged (R178): every page's image, and 17 for a dirty page with none. -/
def State.charged (s : State) : Nat :=
  (s.cold.used.map fun e => e.2.2).foldl (· + ·) 0 +
    17 * (s.hot.desc.filter fun e => e.2.unstored).length

/-- F in stitches: Clog less the headroom of 12 % and the charges, plus borrowed tack (R178, R181). -/
def State.freeStitches (s : State) : Int :=
  (s.clog : Int) - (s.clog * 12 / 100 : Nat) - s.charged + (s.fld Reg.CTM_TACK_BORROWED * s.blockSegs * 57344 : Nat)

/-- Stitches in one GiB. -/
abbrev gibStitches : Nat := 4194304

/-- F in MiB (CTM_FREE_MIB). -/
def State.freeMib (s : State) : Int := s.freeStitches / 4096

/-- The measured ratio in units of 1/256 (CTM_RATIO), 256 while no image exists (R178). -/
def State.measured (s : State) : Nat :=
  let st := (s.cold.used.map fun e => e.2.2).foldl (· + ·) 0
  if s.cold.images = 0 ∨ st = 0 then 256 else 4096 * s.cold.images / st

/-- WM_DISTRESS and WM_OFFER in GiB. -/
def State.wmDistress (s : State) : Nat := zeroAsOne (s.fld Reg.CTM_DIST_CFG_WM_DISTRESS)
def State.wmOffer (s : State) : Nat := Nat.max s.wmDistress (s.fld Reg.CTM_DIST_CFG_WM_OFFER)

/-- The map slots that LD `k`'s extents take, with whether each is accepted. -/
def State.extentSlots (s : State) : List (Nat × Nat × Extent) :=
  (List.range 16).flatMap fun k => (s.ld k).extents.map fun e => (k, e.gib, e)

/-- Extents accepted or offered, module-wide (CTM_ELASTIC.HELD). -/
def State.heldExtents (s : State) : Nat := s.extentSlots.length

/-- Pages in STATE 0 of map slot `k`. -/
def State.zeroPages (s : State) (k : Nat) : Nat := pagesPerGib - (SMap.get (0, 0) s.cold.used k).1

/-- The map slot of GiB `g` of LD `k`. -/
def State.slotOfGib (s : State) (k g : Nat) : Nat := ((s.slotOf (s.gpnOf k (g * gib))).getD 0)

/-- Us + Ue in pages (R179). -/
def State.unusedPages (s : State) : Nat :=
  ((List.range 16).map fun k => ((List.range (s.ldLayout k).staticGib).map fun g => s.zeroPages (s.slotOfGib k g)).foldl (· + ·) 0).foldl (· + ·) 0 +
  (s.extentSlots.map fun e => if e.2.2.accepted then s.zeroPages (s.slotOfGib e.1 e.2.1) else pagesPerGib).foldl (· + ·) 0

/-- Static capacity of every LD in GiB. -/
def State.staticTotal (s : State) : Nat := ((List.range 16).map fun k => (s.ldLayout k).staticGib).foldl (· + ·) 0

/-- The largest number of further extents that R179 allows: each takes 1 GiB over the ratio as it was last recomputed (R178). -/
def State.offersAllowed (s : State) : Nat :=
  if s.fld Reg.CTM_DIST_STS_STAGE ≠ 0 ∨ s.fld Reg.CTM_DIST_STS_FROZEN ≠ 0 ∨ !s.on Reg.CTM_STS_READY then 0
  else
    let rho := Nat.max 1 (s.fld Reg.CTM_RATIO_RHO)
    let room := s.freeStitches - (s.unusedPages * 16 * 256 / rho : Nat) - (s.wmOffer * gibStitches : Nat)
    let byF := if room ≤ 0 then 0 else room.toNat * rho / (256 * gibStitches)
    Nat.min byF (s.fld Reg.CTM_CAP_VMAX - s.staticTotal - s.heldExtents)

end Sys2Proof.Machine
end

