-- ==== Sys2Proof/Machine/HotOps.lean ====
section
/-! DEFINITION. The shared operations of the hot tier: frames and their descriptors, allocation, mirrors, fills, heat, releases and the loss of a
stack or a pseudo-channel group (chapter 04). -/
namespace Sys2Proof.Machine

open Sys2Proof

/-! ### Frames (R113 to R115) -/

/-- The descriptor of frame `f`. -/
def State.desc (s : State) (f : Nat) : FrameDesc := SMap.get {} s.hot.desc f

/-- The descriptor of frame `f` changed by `g`. -/
def updDesc (f : Nat) (g : FrameDesc → FrameDesc) (s : State) : State := s.onHot fun h => { h with desc := SMap.upd {} h.desc f g }

/-- Line `l` of frame `f`. -/
def State.frameLine (s : State) (f l : Nat) : Line := SMap.get 0 s.hot.lines (64 * f + l)

/-- Line `l` of frame `f` set to `v`. -/
def setLine (f l : Nat) (v : Line) (s : State) : State := s.onHot fun h => { h with lines := SMap.put 0 h.lines (64 * f + l) v }

/-- Bit `l` of a mask set to `b`. -/
def setMask (m : BitVec 64) (l : Nat) (b : Bool) : BitVec 64 := if b then m ||| (1 <<< l) else m &&& ~~~(1 <<< l : BitVec 64)

/-- The lines of frame `f` known to be damaged (R135). -/
def State.damagedLines (s : State) (f : Nat) : BitVec 64 := SMap.get 0 s.hot.damaged f

/-- The descriptor of frame `f` becomes `d`; its lines and its damage are forgotten. -/
def clearFrame (f : Nat) (d : FrameDesc) (s : State) : State :=
  s.onHot fun h => { h with desc := SMap.put {} h.desc f d, lines := SMap.keep (fun k => k / 64 != f) h.lines, damaged := SMap.put 0 h.damaged f 0 }

/-- Frame `f` is retired (KIND 3). -/
def retireFrame (f : Nat) (s : State) : State := (clearFrame f { kind := 3 } s).count (Reg.HTC_RETIRED_COUNT (f % 2))

/-- Frame `f` is free again; a damaged one is retired (R135). -/
def freeFrame (f : Nat) (s : State) : State := if s.damagedLines f = 0 then clearFrame f {} s else retireFrame f s

/-! ### The stored form of a descriptor (R115, R519) -/

/-- The CHECK of a stored descriptor: CRC-32C over its bytes 4 to 63. -/
def descCheck (v : BitVec 512) : Nat := Crypto.crc32c ((bytesOf v 64).drop 4)

/-- The 64 bytes of a descriptor (Table 4.2), CHECK in bytes 0 to 3. -/
def FrameDesc.pack (d : FrameDesc) : BitVec 512 :=
  let v := d.dtime % 2 ^ 16 * 2 ^ 208 + d.wb.toNat * 2 ^ 232 + d.fill.toNat * 2 ^ 233 + d.pin.toNat * 2 ^ 234 + d.noimg.toNat * 2 ^ 235 +
    d.heat % 2 ^ 8 * 2 ^ 236 + d.kind % 2 ^ 3 * 2 ^ 244 + d.partner.getD 0x1FFFFFF % 2 ^ 25 * 2 ^ 247 + d.gpn % 2 ^ 48 * 2 ^ 272 +
    d.poison.toNat * 2 ^ 320 + d.dirty.toNat * 2 ^ 384 + d.valid.toNat * 2 ^ 448
  BitVec.ofNat 512 (v + descCheck (BitVec.ofNat 512 v))

/-- Whether a stored descriptor's CHECK holds. -/
def descOk (v : BitVec 512) : Bool := v.toNat % 2 ^ 32 == descCheck v

/-- Whether the descriptor of frame `f`, read with `bits` in error, passes its check. -/
def State.descReads (s : State) (f : Nat) (bits : BitVec 512) : Bool := bits == 0 || descOk ((s.desc f).pack ^^^ bits)

/-- Whether the other stack is fenced: single-stack mode (R136). -/
def State.single (s : State) : Bool := s.on (Reg.HTC_STS_FENCED 0) || s.on (Reg.HTC_STS_FENCED 1)

/-- The lowest free frame of stack `st` from local index `i` up to `hi` whose group serves and satisfies `g` (log entry 21). -/
def State.freeFrameFrom (s : State) (st hi : Nat) (g : Nat → Bool) (i : Nat) : Nat → Option Nat
  | 0 => none
  | n + 1 =>
    if hi ≤ i then none
    else if (s.desc (2 * i + st)).kind = 0 && s.groupUp st (i % 8) && g (i % 8) && !(s.cold.ops.any fun o => o.frame == some (2 * i + st)) then some (2 * i + st)
    else s.freeFrameFrom st hi g (i + 1) n

/-- A free keep frame of stack `st` in a group that satisfies `g`. -/
def State.freeKeep (s : State) (st : Nat) (g : Nat → Bool) : Option Nat :=
  s.freeFrameFrom st keepFrames g 0 (8 * (s.hot.desc.length + s.cold.ops.length + 1))

/-- A free shed frame of stack `st`. -/
def State.freeShed (s : State) (st : Nat) : Option Nat :=
  s.freeFrameFrom st stackFrames (fun _ => true) keepFrames (8 * (s.hot.desc.length + s.cold.ops.length + 1))

/-- A mirror frame for a page with primary frame `p` (R118, R138): in the other stack, or in the group four further on in single-stack mode. -/
def State.mirrorFor (s : State) (p : Nat) : Option Nat :=
  if s.single then s.freeKeep (p % 2) fun g => g == (frameGroup p + 4) % 8 else s.freeKeep (1 - p % 2) fun _ => true

/-- A primary and a mirror frame for page `p` (R118): primary in stack GPN[0], or with the roles swapped. In single-stack mode the primary is the lowest free
keep frame of a group whose mirror's group has one too (R138). -/
def State.framePair (s : State) (p : Nat) : Option (Nat × Nat) :=
  let pair := fun (st : Nat) (g : Nat → Bool) => (s.freeKeep st g).bind fun f => (s.mirrorFor f).map fun m => (f, m)
  let try_ := fun (st : Nat) =>
    if s.single then ((List.range 8).filterMap fun g => pair st (· == g)).foldl (fun (a : Option (Nat × Nat)) x => match a with
      | none => some x
      | some b => if x.1 < b.1 then some x else some b) none
    else pair st fun _ => true
  match try_ (p % 2) with
  | some r => some r
  | none => try_ (1 - p % 2)

/-- A shed frame for page `p`: in the preferred stack, else in the other (R128). -/
def State.shedFor (s : State) (p : Nat) : Option Nat :=
  match s.freeShed (p % 2) with
  | some f => some f
  | none => s.freeShed (1 - p % 2)

/-- Whether a primary frame belongs to a dirty page (R122): it has a mirror, or the mirror of its dirty lines is lost. -/
def FrameDesc.isDirty (d : FrameDesc) : Bool := d.kind == 1 && (d.partner.isSome || d.dirty != 0 || d.wb)

/-- Dirty pages, module-wide (HTM_DIRTY_PAGES). -/
def State.dirtyPages (s : State) : Nat := (s.hot.desc.filter fun e => e.2.isDirty).length

/-- HTM_DIRTY_CFG.LIMIT in pages, and its lower value in single-stack mode (R122, R138). -/
def State.dirtyLimit (s : State) : Nat :=
  let l := clamp 1 48 (s.fld Reg.HTM_DIRTY_CFG_LIMIT) * 65536
  if s.single then Nat.min l 1572864 else l

/-- Whether frame `f` lies in a group that serves. -/
def State.frameUp (s : State) (f : Nat) : Bool := s.groupUp (f % 2) (frameGroup f)

/-- The pseudo-channel groups of stack `st` that serve. -/
def State.groupsUp (s : State) (st : Nat) : Nat := ((List.range 8).filter (s.groupUp st)).length

/-- Free shed frames of stack `st` (HTC_FREE_SHED); frames of a fenced group cannot be used and are not counted (DESIGN CHOICE, log entry 103). -/
def State.freeShedCount (s : State) (st : Nat) : Nat :=
  (stackFrames - keepFrames) / 8 * s.groupsUp st - (s.hot.desc.filter fun e => e.1 % 2 == st && !isKeepFrame e.1 && e.2.kind != 0 && s.frameUp e.1).length -
    (s.cold.ops.filter fun o => o.frame.any fun f => f % 2 == st && !isKeepFrame f && s.frameUp f).length

/-- Free keep frames of stack `st` (HTC_FREE_KEEP), counted in the same way. -/
def State.freeKeepCount (s : State) (st : Nat) : Nat :=
  keepFrames / 8 * s.groupsUp st - (s.hot.desc.filter fun e => e.1 % 2 == st && isKeepFrame e.1 && e.2.kind != 0 && s.frameUp e.1).length

/-- Now in ms, as DTIME holds it. -/
def State.dtimeNow (s : State) : Nat := s.time / ms % 65536

/-! ### Heat (R127) -/

/-- HEAT decayed to epoch `e` and raised by `inc`. -/
def heatStep (e inc heat : Nat) : Nat :=
  let elapsed := (e + 16 - heat / 16 % 16) % 16
  e % 16 * 16 + Nat.min 15 (heat % 16 - elapsed + inc)

/-- The home slice updates the HEAT of page `p` in its entry and its descriptor. -/
def touchHeat (p inc : Nat) (s : State) : State :=
  let m := s.entry p
  let h := heatStep s.hot.heatEpoch inc m.heat
  let s1 := putEntry p { m with heat := h } s
  if 2 ≤ m.state then updDesc m.frame (fun d => { d with heat := h }) s1 else s1

/-! ### Fills (R119, R206) -/

/-- The open fill of page `p`. -/
def State.fillOf (s : State) (p : Nat) : Option Fill := s.hot.fills.find? fun f => f.gpn == p

/-- Open fills whose primary frame lies in stack `st`. -/
def State.openFills (s : State) (st : Nat) : Nat := (s.hot.fills.filter fun f => f.frame % 2 == st).length

/-- A fill of frame `f` of page `p` opened from the cold image. -/
def openColdFill (p f : Nat) (i : Image) (s : State) : State :=
  let (id, s1) := startJob p i .fill s
  (updDesc f (fun d => { d with fill := true }) s1).onHot fun h => { h with fills := h.fills ++ [{ gpn := p, frame := f, source := .cold id }] }

/-- A fill of frame `f` of page `p` opened from frame `old`. -/
def openFrameFill (p f old : Nat) (s : State) : State :=
  (updDesc f (fun d => { d with fill := true }) s).onHot fun h => { h with fills := h.fills ++ [{ gpn := p, frame := f, source := .frame old }] }

/-- The fill of page `p` is over. -/
def closeFill (p : Nat) (s : State) : State := s.onHot fun h => { h with fills := h.fills.filter fun f => f.gpn != p }

/-- The fill of page `p` is given up: a read of its image ends, an old frame is freed. -/
def dropFill (p : Nat) (s : State) : State :=
  match s.fillOf p with
  | none => s
  | some fl =>
    match fl.source with
    | .cold id => endJob id (closeFill p s)
    | .frame old => freeFrame old (closeFill p s)

/-! ### Poison marks (R104, R171) -/

/-- The poison marks of page `p` that its image header does not hold yet. -/
def State.marks (s : State) (p : Nat) : BitVec 64 := SMap.get 0 s.hot.marks p

/-- Those marks set to `k`. -/
def setMarks (p : Nat) (k : BitVec 64) (s : State) : State := s.onHot fun h => { h with marks := SMap.put 0 h.marks p k }

/-- Whether an operation of kind `k` is open, or asked for, for page `p`. -/
def State.opAsked (s : State) (k : OpKind) (p : Nat) : Bool :=
  (s.opOf p).any (fun o => o.kind == k) || s.flight.any fun r => r.gpn == p && r.kind == .pageOp k

/-- A page without a frame whose image header lacks some of its poison marks gets a new image that has them (R104). -/
def askMark (p : Nat) (s : State) : State :=
  if s.marks p = 0 ∨ 2 ≤ (s.entry p).state ∨ s.opAsked .mark p = true ∨ s.opAsked .poison p = true then s else askOp .mark p portPlaza s

/-- `g` applied to the descriptor of frame `f` and to that of its mirror. -/
def updBoth (f : Nat) (g : FrameDesc → FrameDesc) (s : State) : State :=
  match (s.desc f).partner with
  | some mf => updDesc mf g (updDesc f g s)
  | none => updDesc f g s

/-- Line `l` of page `p` marked poisoned (R103 to R105): in its frame while the page is hot, and in its image header while it is cold, until when the mark is kept
beside the map entry. The mark leaves DIRTY and the page's STATE as they are (DESIGN CHOICE, log entry 104). -/
def poisonLine (p l : Nat) (s : State) : State :=
  let m := s.entry p
  let s1 := setMarks p (setMask (s.marks p) l true) s
  if 2 ≤ m.state then updBoth m.frame (fun d => { d with poison := setMask d.poison l true }) s1 else askMark p s1

/-- Page `p` is marked poisoned (R171): a new image holds POISON and ZMASK for every line; until it is committed every line of the page reads as poison while the
page is cold, and the lines that its frame does not hold while it is hot (R206). -/
def poisonPage (p : Nat) (s : State) : State :=
  let m := s.entry p
  let s1 := if 2 ≤ m.state then (if (s.fillOf p).isSome then s
      else updBoth m.frame (fun d => { d with poison := d.poison ||| ~~~(s.desc m.frame).valid, valid := BitVec.allOnes 64 }) s)
    else setMarks p (BitVec.allOnes 64) s
  if s1.opAsked .poison p then s1 else askOp .poison p portPlaza s1

/-! ### Allocation for a write (R117, R118, R120) -/

/-- A primary frame `f` and mirror `mf` taken for page `p`, with its poison marks (R104). -/
def takeFrames (p f mf : Nat) (noimg : Bool) (poison : BitVec 64) (m : MapEntry) (s : State) : State :=
  let s1 := updDesc f (fun _ => { kind := 1, gpn := p, partner := some mf, noimg := noimg, heat := m.heat, pin := m.pin, dtime := s.dtimeNow, poison := poison }) s
  putEntry p { m with state := 3, frame := f } (updDesc mf (fun _ => { kind := 2, gpn := p, partner := some f, noimg := noimg, poison := poison }) s1)

/-- The lines of primary frame `f` that are newer than the page's image: DIRTY, and those that an open write-back has taken into its pending mask (R124). -/
def State.newer (s : State) (f : Nat) : BitVec 64 :=
  let d := s.desc f
  d.dirty ||| (if d.wb then ((s.hot.pending.find? fun e => e.1 == d.gpn).map Prod.snd).getD 0 else 0)

/-- Mirror frame `mf` made for primary frame `f` with `f`'s newer lines (R122, R138). -/
def makeMirror (f mf : Nat) (s : State) : State :=
  let d := s.desc f
  let n := s.newer f
  let s1 := updDesc f (fun d => { d with partner := some mf }) s
  let s2 := updDesc mf (fun _ => { kind := 2, gpn := d.gpn, partner := some f, noimg := d.noimg, valid := n &&& d.valid, dirty := d.dirty, poison := d.poison }) s1
  forAll (List.range 64) s2 fun t l => if n.getLsbD l then setLine mf l (t.frameLine f l) t else t

/-- What allocating for a write to page `p` does: the page now has frames that take the write; none where the write waits (R27, R117 to R120, R122). -/
def allocForWrite (p : Nat) (s : State) : Option State :=
  let m := s.entry p
  let d := s.desc m.frame
  let full := decide (s.dirtyLimit ≤ s.dirtyPages)
  let fillsFull := fun (f : Nat) => decide (4096 ≤ s.openFills (f % 2))
  if m.state < 2 then
    if full then none
    else match s.framePair p with
      | none => none
      | some (f, mf) =>
        if m.scnt = 0 then some (takeFrames p f mf true (s.marks p) m s)
        else if fillsFull f then none
        else some (openColdFill p f m.image (takeFrames p f mf false (s.marks p) m s))
  else if d.partner.isSome then some (if m.state = 3 then s else putEntry p { m with state := 3 } s)
  else if full && m.state == 2 then none
  else if isKeepFrame m.frame then
    (s.mirrorFor m.frame).map fun mf =>
      let s1 := updDesc m.frame (fun d => { d with dtime := if m.state = 2 then s.dtimeNow else d.dtime }) s
      putEntry p { m with state := 3 } (makeMirror m.frame mf s1)
  else match s.framePair p with
    | none => none
    | some (f, mf) =>
      if fillsFull f then none
      else
        let bad := s.damagedLines m.frame
        let s1 := match s.fillOf p with
          | some _ => dropFill p s
          | none => s
        some (openFrameFill p f m.frame (takeFrames p f mf d.noimg (d.poison ||| s.marks p) m (updDesc m.frame (fun d => { d with valid := d.valid &&& ~~~bad }) s1)))

/-! ### Lines of a hot page (R116, R122, R206) -/

/-- What a read of line `l` of a page with primary frame `f` finds. -/
inductive LineAt where
  | line (v : Line) (poison : Bool)
  | attach
  | cold
  deriving DecidableEq, Repr

/-- What a read of damaged line `l` of frame `f` takes (R135): the mirror while the line is newer than the image, zeros, or the cold image; poison where `both`
copies are damaged or there is no mirror. -/
def State.recovered (s : State) (f l : Nat) (both : Bool) : LineAt :=
  let d := s.desc f
  if d.poison.getLsbD l then .line 0 true
  else if (s.newer f).getLsbD l then
    (match d.partner, both with
     | some q, false => .line (s.frameLine q l) false
     | _, _ => .line 0 true)
  else if d.noimg then .line 0 false
  else .cold

/-- R116, with a read during a move answered from the old frame (R120), and one of a line known to be damaged recovered again (R135). -/
def State.lineAt (s : State) (p f l : Nat) : LineAt :=
  let d := s.desc f
  if d.poison.getLsbD l then .line 0 true
  else if (s.damagedLines f).getLsbD l then s.recovered f l false
  else if d.valid.getLsbD l then .line (s.frameLine f l) false
  else match s.fillOf p with
    | some fl =>
      (match fl.source with
       | .frame old =>
         let o := s.desc old
         if fl.masks.any fun m => m.1 == l then .attach
         else if o.poison.getLsbD l then .line 0 true
         else if o.valid.getLsbD l then .line (s.frameLine old l) false
         else if o.noimg then .line 0 false else .attach
       | .cold _ => .attach)
    | none => if d.noimg then .line 0 false else .cold

/-- A line written to a primary frame and its mirror, VALID and DIRTY in both. -/
def storeLine (f l : Nat) (v : Line) (poison : Bool) (s : State) : State :=
  let mark := fun (d : FrameDesc) => { d with valid := setMask d.valid l true, dirty := setMask d.dirty l true, poison := setMask d.poison l poison }
  let s1 := updDesc f mark (setLine f l v s)
  match (s.desc f).partner with
  | some mf => updDesc mf mark (setLine mf l v s1)
  | none => s1

/-- A write of the bytes of `v` that `mask` names to line `l` of page `p` in frame `f`: whole lines store as they are and clear poison (R104), partial
ones merge, or wait in the open fill's byte mask for the line's old bytes (R206). None where the old bytes must come from the cold image first. -/
def writeLine (p f l : Nat) (v : Line) (mask : BitVec 64) (poison : Bool) (s : State) : Option State :=
  let d := s.desc f
  if mask = BitVec.allOnes 64 then
    some (storeLine f l v poison (if poison then s else setMarks p (setMask (s.marks p) l false) (clearPoison p (· == l) s)))
  else if (s.damagedLines f).getLsbD l && (match s.recovered f l false with
      | .line _ _ => true
      | _ => false) then
    (match s.recovered f l false with
     | .line w bad => some (storeLine f l (mergeLine w v mask) (bad || poison) s)
     | _ => none)
  else if d.valid.getLsbD l && !(s.damagedLines f).getLsbD l then some (storeLine f l (mergeLine (s.frameLine f l) v mask) (d.poison.getLsbD l || poison) s)
  else match s.fillOf p with
    | some fl =>
      let old := (fl.masks.find? fun m => m.1 == l).map Prod.snd |>.getD 0
      let mark := fun (x : FrameDesc) => { x with dirty := setMask x.dirty l true, poison := if poison then setMask x.poison l true else x.poison }
      let put := fun (g : Nat) (t : State) => setLine g l (mergeLine (t.frameLine g l) v mask) (updDesc g mark t)
      let s1 := put f s
      let s2 := match d.partner with
        | some mf => put mf s1
        | none => s1
      let keep := fun (g : Fill) => if g.gpn = p then { g with masks := (l, old ||| mask) :: g.masks.filter (fun m => m.1 != l) } else g
      some (s2.onHot fun h => { h with fills := h.fills.map keep })
    | none => if d.noimg then some (storeLine f l (mergeLine 0 v mask) poison s) else none

/-- The data of a fill put into its frame (R119, R206): only lines of `lines` whose VALID bit is 0, bytes under a mask kept. `failed`: every such line
is poisoned, its written bytes merged with zeros. -/
def applyFill (fl : Fill) (lines : BitVec 64) (data : List Line) (poison : BitVec 64) (failed : Bool) (s : State) : State :=
  let mirror := (s.desc fl.frame).partner
  forAll (List.range 64) s fun t l =>
    let d := t.desc fl.frame
    if d.valid.getLsbD l || !lines.getLsbD l then t
    else
      let old := if failed then 0 else data.getD l 0
      let v := match fl.masks.find? fun m => m.1 == l with
        | some (_, mask) => mergeLine old (t.frameLine fl.frame l) mask
        | none => old
      let bad := failed || poison.getLsbD l || d.poison.getLsbD l
      let t1 := updDesc fl.frame (fun d => { d with valid := setMask d.valid l true, poison := setMask d.poison l bad }) (setLine fl.frame l v t)
      match mirror, d.dirty.getLsbD l with
      | some mf, true => updDesc mf (fun d => { d with valid := setMask d.valid l true, poison := setMask d.poison l bad }) (setLine mf l v t1)
      | _, _ => t1

/-! ### Releases, promotions and retirement (R93, R129, R135) -/

/-- The page goes back to STATE 1 and its frame is freed (frame release, Table 3.4); an image that lacks some of its poison marks is written again (R104). -/
def releasePage (p : Nat) (s : State) : State :=
  let m := s.entry p
  askMark p (freeFrame m.frame (putEntry p { m with state := 1, frame := 0 } s))

/-- PIN written in the entry of page `p` and in its descriptor. -/
def setPin (p : Nat) (b : Bool) (s : State) : State :=
  let m := s.entry p
  let s1 := putEntry p { m with pin := b } s
  if 2 ≤ m.state then updDesc m.frame (fun d => { d with pin := b }) s1 else s1

/-- PIN cleared on page `p`, which no longer waits for a promotion (R133, R280). -/
def clearPin (p : Nat) (s : State) : State :=
  (if (s.entry p).pin then setPin p false s else s).onHot fun h => { h with pinWait := h.pinWait.filter (· != p) }

/-- Page `p` waits for a promotion (R133). -/
def pinWaits (p : Nat) (s : State) : State :=
  if s.hot.pinWait.contains p then s else s.onHot fun h => { h with pinWait := h.pinWait ++ [p] }

/-- The promotion that PIN asks for (R133): never skipped; on PAGE_BUSY it retries under R75, and without a free shed frame it waits for one. -/
def pinPromote (p : Nat) (s : State) : State :=
  let m := s.entry p
  if m.state ≠ 1 ∨ m.scnt = 0 then s
  else match s.mayOpen p, s.shedFor p with
    | false, _ => queueOp .promotion p (59 + p % 2) s
    | true, some f => beginOp .promotion p (59 + f % 2) (some f) s
    | true, none => pinWaits p s

/-- PIN of page `p` set or cleared by its home slice (R19, R133). -/
def applyPin (p : Nat) (b : Bool) (s : State) : State := if b then pinPromote p (setPin p true s) else clearPin p s

/-- The plaza changes PIN of page `p` through its home slice; while the slice does not take it, the request is retried (R75, R133). -/
def changePin (p : Nat) (b : Bool) (s : State) : State :=
  if s.pageServed p then applyPin p b s
  else
    let (id, s1) := s.fresh
    { s1 with flight := s1.flight ++ [{ id := id, agent := .plaza, port := portPlaza, kind := .pin b, gpn := p, t0 := s.clk, nacks := 1, nackAt := Nat.max 1 s.clk }] }

/-- PIN cleared on page `p` (R280). -/
def unpin (p : Nat) (s : State) : State :=
  if (s.entry p).pin || s.hot.pinWait.contains p then changePin p false s else s

/-- The pages that wait for a shed frame take the free ones (R133, R139). -/
def servePins (s : State) : State :=
  if s.pwr.move == .keepReleasing || s.pwr.move == .keepRails || 2 ≤ s.fld Reg.PWR_STS_STATE then s
  else
  forAll s.hot.pinWait (s.onHot fun h => { h with pinWait := [] }) fun t p => pinPromote p t

/-- The release of page `p` carried out (Table 3.4): the page is clean and no line write accepted earlier waits; a pinned page is never released (R131, R133).
Each release counts in HTM_DEMO_CNT. It opens and commits in one step (log entry 105). -/
def grantRelease (p : Nat) (s : State) : State :=
  let m := s.entry p
  if m.state = 2 ∧ m.pin = false ∧ s.writeOpen p = false then (releasePage p s).count Reg.HTM_DEMO_CNT_COUNT else s

/-- The same where no operation of the page is open and no ticket is out for it. -/
def tryRelease (p : Nat) (s : State) : State := if s.mayOpen p then grantRelease p s else s

/-- The shed frames of stack `st` that hold primary frames of clean pages, in local-index order (R130). -/
def State.cleanShed (s : State) (st : Nat) : List (Nat × Nat) :=
  (s.hot.desc.filter fun e => e.1 % 2 == st && !isKeepFrame e.1 && e.2.kind == 1 && !e.2.isDirty).map fun e => (e.1, e.2.gpn)

/-- The lines of `mask`. -/
def linesOf (mask : BitVec 64) : List Nat := (List.range 64).filter fun l => mask.getLsbD l

/-- Lines of page `p` that no copy has any more: marked poisoned, with an event for each (R135). -/
def loseLines (p : Nat) (lost : BitVec 64) (s : State) : State := forAll (linesOf lost) s fun t l => mediaEvent 2 p l 1 false (poisonLine p l t)

/-- The move of the page of frame `f` waits (R118, R135): the lines of `bad` stay known as damaged. -/
def holdMove (f : Nat) (bad : BitVec 64) (s : State) : State :=
  let s1 := if s.damagedLines f = 0 then s.count Reg.HTM_ALLOC_STALL_COUNT else s
  s1.onHot fun h => { h with damaged := SMap.put 0 h.damaged f bad }

/-- The page of damaged primary frame `f` goes to frame `nf`, which holds its lines but those of `away`; the frame is retired, an open fill follows the page, and a
fill from the cold image brings the lines that neither frame holds. -/
def carryOver (f nf : Nat) (away : BitVec 64) (s : State) : State :=
  let d := s.desc f
  let p := d.gpn
  let m := s.entry p
  let s1 := forAll (List.range 64) s fun t l => if away.getLsbD l then t else setLine nf l (t.frameLine f l) t
  let s2 := retireFrame f (putEntry p { m with frame := nf } s1)
  let s3 := s2.onHot fun h => { h with fills := h.fills.map fun g => if g.gpn = p then { g with frame := nf } else g }
  if (s3.fillOf p).isNone && (s3.desc nf).valid != BitVec.allOnes 64 && !d.noimg && m.scnt != 0 then openColdFill p nf m.image s3 else s3

/-- Whether a fill that the move of frame `f` to a frame of stack `st` needs finds no open-fill entry (R119). -/
def State.moveStalls (s : State) (f st : Nat) (away : BitVec 64) : Bool :=
  let d := s.desc f
  (s.fillOf d.gpn).isNone && !d.noimg && (d.valid &&& ~~~away) != BitVec.allOnes 64 && decide (4096 ≤ s.openFills st)

/-- The page of damaged frame `f` moved to a new one (R135). `bad`: its damaged lines; `both`: their copies in the mirror are damaged too. A dirty page takes a keep
primary and a keep mirror, or waits for them; a clean one takes a shed frame, or is released where none is free. A frame that a fill reads as its source
(R120) loses the lines, which the fill then takes from the cold image. -/
def moveDamaged (f : Nat) (bad : BitVec 64) (both : Bool) (s : State) : State :=
  let d := s.desc f
  let p := d.gpn
  let m := s.entry p
  let bad := bad ||| s.damagedLines f
  if m.state < 2 ∨ m.frame ≠ f then
    (updDesc f (fun x => { x with valid := x.valid &&& ~~~bad }) s).onHot fun h => { h with damaged := SMap.put 0 h.damaged f bad }
  else if m.state = 3 then
    let n := s.newer f
    let s1 := if both || d.partner.isNone then loseLines p (bad &&& n &&& ~~~d.poison) s else s
    let away := bad &&& ~~~n
    match s1.framePair p with
    | none => holdMove f bad s1
    | some (nf, mf) =>
      if s1.moveStalls f (nf % 2) away then holdMove f bad s1
      else
        let s2 := match d.partner with
          | some q => forAll (linesOf (bad &&& n)) s1 fun t l => setLine f l (t.frameLine q l) t
          | none => s1
        let s3 := updDesc f (fun x => { x with partner := none }) (match d.partner with
          | some q => freeFrame q s2
          | none => s2)
        let x := s3.desc f
        let s4 := makeMirror nf mf (carryOver f nf away (updDesc nf (fun _ => { x with valid := x.valid &&& ~~~away }) s3))
        s4
  else match s.shedFor p with
    | none => retireFrame f (putEntry p { m with state := 1, frame := 0 } (dropFill p s))
    | some nf =>
      if s.moveStalls f (nf % 2) bad then holdMove f bad s
      else carryOver f nf bad (updDesc nf (fun _ => { d with valid := d.valid &&& ~~~bad }) s)

/-- The moves that wait (R135) take the frames that have become free. -/
def resumeMoves (s : State) : State := forAll (s.hot.damaged.map Prod.fst) s fun t f => if (t.desc f).kind = 1 then moveDamaged f 0 false t else t

/-- An uncorrectable error of lines `bad` of frame `f` (R135): counted, reported, and the page moves; in a mirror frame the lines are written again from the
primary. -/
def frameError (f : Nat) (bad : BitVec 64) (both inj : Bool) (s : State) : State :=
  let st := f % 2
  let s1 := s.count (Reg.HTC_ECC_UNCORR st)
  let s2 := s1.reportAs inj 0x0A st [(s1.reg (Reg.HTC_STS st)).toNat]
  let d := s.desc f
  if d.kind = 1 then moveDamaged f bad both s2
  else match d.kind, d.partner with
    | 2, some pf => forAll (linesOf (bad &&& s.newer pf)) s2 fun u l => setLine f l (u.frameLine pf l) u
    | _, _ => s2

/-- The descriptors of `errs` that a command reads, those for which `reads` holds, are checked; one that fails counts as an uncorrectable error of every line of its
frame (R115). -/
def checkDescs (errs : DescErrors) (reads : Nat → Bool) (s : State) : State :=
  forAll (errs.filter fun e => reads e.1) s fun t e => if t.descReads e.1 e.2 then t else frameError e.1 (BitVec.allOnes 64) false false t

/-! ### Cold write-back (R123, R124) -/

/-- The lines and the poison mask that a write-back of frame `f` reads (R116, R123, R135). -/
def State.frameImage (s : State) (f : Nat) : List Line × BitVec 64 :=
  let d := s.desc f
  ((List.range 64).map fun l => match s.lineAt d.gpn f l with
    | .line v _ => v
    | _ => 0, d.poison)

/-- Whether a write-back of page `p` may open (R123, R124, R167): it is dirty, no fill or write-back of it is open, every line can be had without its image, and a
pending mask is free in the primary's stack. -/
def State.mayClean (s : State) (p : Nat) : Bool :=
  let m := s.entry p
  let d := s.desc m.frame
  m.state == 3 && !d.fill && (s.fillOf p).isNone && !d.wb && (d.noimg || (d.valid == BitVec.allOnes 64 && (s.damagedLines m.frame &&& ~~~s.newer m.frame) == 0)) &&
  s.on Reg.CTM_STS_READY && decide ((s.hot.pending.filter fun e => (s.entry e.1).frame % 2 == m.frame % 2).length < 4096)

/-- A write-back of page `p` opened (R124): WB is set and DIRTY moves into the pending mask. -/
def openWriteback (p port : Nat) (s : State) : State :=
  let m := s.entry p
  let d := s.desc m.frame
  let s1 := updDesc m.frame (fun d => { d with wb := true, dirty := 0 }) s
  let s2 := match d.partner with
    | some mf => updDesc mf (fun d => { d with dirty := 0 }) s1
    | none => s1
  beginOp .writeback p port none (s2.onHot fun h => { h with pending := h.pending ++ [(p, d.dirty)] })

/-- Whether the next image of page `p` would take WCNT above 0xFF_FFFF under the epoch in force (R208). -/
def State.counterSpent (s : State) (p : Nat) : Bool := decide (0xFFFFFF < (s.nextCounter p (s.entry p)).1)

/-- The write-back of page `p` is held until the epoch advances (R208), and counted once. -/
def holdWriteback (p : Nat) (s : State) : State :=
  if s.vault.wbHeld.contains p then s
  else
    let k := (s.slotOf p).getD 0
    (s.onVault fun v => { v with epochs := SMap.upd {} v.epochs k fun e => { e with hold := true }, wbHeld := v.wbHeld ++ [p] }).count Reg.CRY_WB_HELD_COUNT

/-- The write-back of page `p` opens where it may (R123, R124), or is held (R208). -/
def startClean (p port : Nat) (s : State) : State :=
  if !s.mayClean p then s else if s.counterSpent p then holdWriteback p s else openWriteback p port s

/-- The same through the page's home slice: a page with an open operation, or out by ticket, is retried (R75). -/
def cleanPage (p port : Nat) (s : State) : State :=
  if !s.mayClean p || s.counterSpent p || s.mayOpen p then startClean p port s else queueOp .writeback p port s

/-- A write-back of page `p` is abandoned: the pending mask is merged back into DIRTY. -/
def mergePending (p : Nat) (s : State) : State :=
  match s.hot.pending.find? fun e => e.1 == p with
  | none => s
  | some (_, mask) =>
    let m := s.entry p
    let back := fun (d : FrameDesc) => { d with dirty := d.dirty ||| mask, wb := false }
    let s1 := updDesc m.frame back s
    let s2 := match (s.desc m.frame).partner with
      | some mf => updDesc mf (fun d => { d with dirty := d.dirty ||| mask }) s1
      | none => s1
    s2.onHot fun h => { h with pending := h.pending.filter fun e => e.1 != p }

/-- The hot tier's part of a committed write-back (R124): clean with its mirror freed, or dirty again from now where a line write was accepted
since the snapshot. -/
def finishWriteback (p : Nat) (written : Bool) (s : State) : State :=
  let m := s.entry p
  let d := s.desc m.frame
  let s1 := s.onHot fun h => { h with pending := h.pending.filter fun e => e.1 != p }
  if d.dirty = 0 && !written then
    let s2 := updDesc m.frame (fun d => { d with wb := false, partner := none, noimg := false }) s1
    match d.partner with
    | some mf => freeFrame mf s2
    | none => s2
  else
    let s2 := updDesc m.frame (fun d => { d with wb := false, noimg := false, dtime := s.dtimeNow }) s1
    match d.partner with
    | some mf => updDesc mf (fun d => { d with noimg := false }) s2
    | none => s2

/-- The operation of page `p` is abandoned: a write-back gives back its mask, a frame held for it is free again (R93, R124, R129); a page whose PIN asks for its
promotion waits for another (R133). -/
def abandonOp (p : Nat) (s : State) : State :=
  match s.opOf p with
  | none => s
  | some o =>
    let s1 := if o.kind = .writeback then mergePending p s else s
    let s2 := match o.phase with
      | .reading id => endJob id s1
      | _ => s1
    let s3 := closeOp p s2
    if o.kind = .promotion ∧ (s3.entry p).pin = true ∧ (s3.entry p).state = 1 then pinWaits p s3 else s3

/-- Every open page-level operation abandoned (R367). -/
def abandonPageOps (s : State) : State := forAll (s.cold.ops.map PageOp.gpn) s fun t p => abandonOp p t

/-! ### The loss of a stack or of a pseudo-channel group (R136 to R138, Table 4.4) -/

/-- A dirty page whose frame `f` is lost with no surviving mirror (Table 4.4): every line is poisoned, the page enters STATE 1, and an event names it. -/
def loseDirty (f : Nat) (s : State) : State :=
  let p := (s.desc f).gpn
  let m := s.entry p
  let s1 := putEntry p { m with state := 1, frame := 0 } (freeFrame f (dropFill p (abandonOp p s)))
  poisonPage p (mediaEvent 2 p 0 1 false s1)

/-- The mirror frame `mf` of the page of lost frame `f` becomes its primary (Table 4.4): FRAME names it, an open fill goes on into it, and a write-back whose image
has not been made yet is abandoned, since the mirror does not hold every line. -/
def promoteMirror (f mf : Nat) (s : State) : State :=
  let d := s.desc f
  let p := d.gpn
  let s1 := if (s.opOf p).any (fun o => o.kind == .writeback && o.phase == .opened) then abandonOp p s else s
  let m := s1.entry p
  let e := s1.desc f
  let s2 := updDesc mf (fun x => { x with kind := 1, partner := none, heat := e.heat, pin := e.pin, dtime := e.dtime, noimg := e.noimg, fill := e.fill, wb := e.wb }) s1
  let s3 := putEntry p { m with state := 3, frame := mf } (freeFrame f s2)
  s3.onHot fun h => { h with fills := h.fills.map fun g => if g.gpn = p then { g with frame := mf } else g }

/-- The frames for which `lost` holds are gone with their contents (Table 4.4): mirrors become primaries, clean pages go back to STATE 1, a dirty page with no
surviving copy is poisoned, mirrors that are lost leave their primaries alone, and a fill whose old frame is lost goes on from the cold image. -/
def loseFrames (lost : Nat → Bool) (s : State) : State :=
  let hit := s.hot.desc.filter fun e => lost e.1
  let s1 := forAll hit s fun t e =>
    let (f, _) := e
    let d := t.desc f
    let m := t.entry d.gpn
    if d.kind = 1 ∧ 2 ≤ m.state ∧ m.frame ≠ f then
      let (id, t1) := startJob d.gpn m.image .fill t
      freeFrame f (t1.onHot fun h => { h with fills := h.fills.map fun g => if g.source = .frame f then { g with source := .cold id } else g })
    else if d.kind = 1 then
      (if m.state = 3 then
        match d.partner with
        | some mf => if lost mf then loseDirty f t else promoteMirror f mf t
        | none => loseDirty f t
      else releasePage d.gpn (dropFill d.gpn t))
    else if d.kind = 2 then
      match d.partner with
      | some pf => freeFrame f (updDesc pf (fun x => { x with partner := none }) t)
      | none => freeFrame f t
    else if d.kind = 3 then t
    else freeFrame f t
  s1.onHot fun h => { h with lines := SMap.keep (fun k => !lost (k / 64)) h.lines }

/-- The shed frames of stack `st` lose their contents (R139): every clean page in one goes back to STATE 1, pinned pages included, which wait to be promoted again;
an operation of such a page that is under way is abandoned. -/
def releaseCleanShed (st : Nat) (s : State) : State :=
  let s1 := forAll (s.cleanShed st) s fun t e =>
    let m := t.entry e.2
    if m.state = 2 ∧ m.frame = e.1 then
      (let t1 := (releasePage e.2 (dropFill e.2 (abandonOp e.2 t))).count Reg.HTM_DEMO_CNT_COUNT
       if m.pin then pinWaits e.2 t1 else t1)
    else t
  loseFrames (fun f => f % 2 == st && !isKeepFrame f) s1

/-- Dirty pages of stack `st` with no mirror (HTC_STS.UNMIRRORED). -/
def State.unmirrored (s : State) (st : Nat) : Nat :=
  (s.hot.desc.filter fun e => e.1 % 2 == st && e.2.isDirty && e.2.partner.isNone).length

/-- The map-cache blocks that the ways for which `lost` holds (by tag key) held are rebuilt (R126, R137), once `then_` has dealt
with the frames. -/
def loseBlocks (lost : Nat → Bool) (then_ : State → State) (s : State) : State :=
  let hit := s.hot.tags.filter fun e => lost e.1 && e.2.valid
  let s0 := s.onHot fun h => { h with lostBlocks := h.lostBlocks ++ (hit.map fun e => e.2.block).filter fun b => !h.lostBlocks.contains b }
  let s1 := then_ (forAll hit s0 fun t e => dropBlock e.1 t)
  forAll hit s1 fun t e => loadBlock e.2.block t

/-- The accesses that wait in the queues of the pseudo-channel groups for which `hit` holds (8 × stack + group) leave them; their transactions go on elsewhere
(Table 4.4). -/
def dropAccesses (hit : Nat → Bool) (s : State) : State :=
  { s with
    slices := SMap.mapAll (fun _ => {}) (fun _ (x : Slice) => { x with txns := x.txns.map fun t => if t.slot.any hit then { t with slot := none } else t }) s.slices,
    dram := { s.dram with groups := SMap.mapAll (fun _ => {}) (fun k (g : Group) => if hit k then { g with rq := [], wq := [] } else g) s.dram.groups } }

/-- Pseudo-channel group `g` of stack `st` fenced (R136). -/
def fenceGroup (st g : Nat) (s : State) : State :=
  let s1 := dropAccesses (· == 8 * st + g) (s.setBitOf (Reg.HTC_STS_GRP_FENCED st) g true)
  loseBlocks (fun k => k / 16 / 131072 == st && k / 16 % 8 == g) (loseFrames fun f => f % 2 == st && frameGroup f == g) s1

/-- Stack `st` fenced: the other runs in single-stack mode (R136, R138). -/
def fenceStack (st : Nat) (s : State) : State :=
  let s1 := dropAccesses (fun k => k / 8 == st)
    (((s.setFld (Reg.HTC_STS_FENCED st) 1).setFld (Reg.HTC_STS_READY st) 0).setFld (Reg.HTC_STS_SINGLE (1 - st)) 1)
  loseBlocks (fun k => k / 16 / 131072 == st) (loseFrames fun f => f % 2 == st) s1

end Sys2Proof.Machine
end

