-- ==== Sys2Proof/Machine/KeyOps.lean ====
section
/-! DEFINITION. The shared operations of the key vault: injection windows, key generation, epoch advances (R188 to R192, R207). -/
namespace Sys2Proof.Machine

open Sys2Proof

/-- Whether LD `k`'s injection window is open. -/
def State.windowOpen (s : State) (k : Nat) : Bool := s.bitOf Reg.CRY_INJ_WIN_OPEN k

/-- CRY_KEY_SRC of LD `k` set to `v`. -/
def setKeySrc (k v : Nat) (s : State) : State :=
  let x := s.fld Reg.CRY_KEY_SRC_SRC
  s.setFld Reg.CRY_KEY_SRC_SRC (x - x / 4 ^ k % 4 * 4 ^ k + v * 4 ^ k)

/-- A TRNG key for LD `k`: a free value. -/
def trngKey (k : Nat) (s : State) : State :=
  let v := s.freeVal 256
  freshItem (.root k) <| setKeySrc k 1 (s.spent.onVault fun u => { u with roots := SMap.put none u.roots k (some v), withheld := u.withheld.filter (· != k) })

/-- The ledger root key, from the TRNG. -/
def ledgerKeyGen (s : State) : State :=
  let v := s.freeVal 256
  freshItem .ledger ((s.spent.onVault fun u => { u with ledgerKey := some v, ledgerWithheld := false }).setFld Reg.CRY_STS_LEDGER_KEY 1)

/-- Key provisioning is at its quiet point when no window is open and no generation is pending (R192). -/
def State.keysQuiet (s : State) : Bool := s.fld Reg.CRY_INJ_WIN_OPEN == 0 && s.vault.withheld.isEmpty && !s.vault.ledgerWithheld

/-- Host-assisted key provisioning, with no switch pending: while one is, open windows follow the rules of hardware mode (Table 16.4). -/
def State.kpHost (s : State) : Bool := s.on Reg.CRY_KP_CFG_MODE_ACT && !s.switching 5

/-- Whether LD `k` has its root key. -/
def State.hasRoot (s : State) (k : Nat) : Bool := (SMap.get none s.vault.roots k).isSome

/-- LD `k`'s window closes (R188, R190): where no key was injected, the vault generates one in hardware mode; while the TRNG's health test has not passed, the key is withheld
and the LD's memory is disabled. In host-assisted mode only an injection closes a window. -/
def closeWindow (k : Nat) (s : State) : State :=
  if !s.windowOpen k || (s.kpHost && !s.hasRoot k) then s
  else
    let s1 := s.setBitOf Reg.CRY_INJ_WIN_OPEN k false
    if s1.hasRoot k then s1
    else if s1.on Reg.CRY_STS_TRNG_OK then trngKey k s1
    else (s1.onVault fun u => { u with withheld := u.withheld ++ [k] }).updLd k fun d => { d with memActive := false }

/-- Whether LD `k`'s memory waits for its key: its window is open in host-assisted mode, or its key is withheld (R188, R190). -/
def State.keyWaits (s : State) (k : Nat) : Bool :=
  (s.windowOpen k && s.kpHost) || s.vault.withheld.contains k || s.vault.ledgerWithheld

/-- Whether a request for page `p` finds its LD without a key and no key can be had now (R188, R190). -/
def State.keyless (s : State) (p : Nat) : Bool :=
  let k := (s.keySource p).1
  s.keyWaits k || (s.windowOpen k && !s.hasRoot k && !s.on Reg.CRY_STS_TRNG_OK)

/-! ### The LDs that may be active (R459) -/

/-- Whether the ledger window of LD `k` lies within NS. -/
def State.windowFits (s : State) (k : Nat) : Bool :=
  s.fld (Reg.CTM_LWIN_SLOTS k) == 0 || decide (s.fld (Reg.CTM_LWIN_SLOT_BASE k) + s.fld (Reg.CTM_LWIN_SLOTS k) ≤ s.cold.nSlots)

/-- The sum of the static capacities of the LDs up to `k` whose windows fit. -/
def State.staticUpTo (s : State) (k : Nat) : Nat := (((List.range (k + 1)).filter s.windowFits).map fun j => (s.ldLayout j).staticGib).foldl (· + ·) 0

/-- Why LD `k` does not become Memory_Active: 1 its window, 2 static capacity beyond G; 0 where it may. -/
def State.inactiveWhy (s : State) (k : Nat) : Nat :=
  if !s.windowFits k then 1 else if s.fld Reg.CTM_CAP_GUAR < s.staticUpTo k then 2 else 0

/-- The LDs that start; in the Retired state none presents memory (Table 6.8). -/
def State.qualifies (s : State) (k : Nat) : Bool := (s.ldLayout k).head.isSome && s.inactiveWhy k == 0 && s.lifeCycle != 3

/-- Memory_Active set for every LD that qualifies and whose key does not hold it back (R188, R459). -/
def enableKeyed (s : State) : State :=
  if s.on Reg.RST_STS_MEM_ACTIVE then
    forAll (List.range 16) s fun t k => if t.qualifies k && !t.keyWaits k then t.updLd k fun d => { d with memActive := true } else t
  else s

/-! ### Epochs -/

/-- The vendor event of R207 for a slot that reaches its last epoch. -/
def lastEpochEvent (k e : Nat) (s : State) : State := if e = 2 ^ 32 - 1 then s.vendor 1 0x0142 [k] else s

/-- The epoch of slot `k` advances (R207), unless it stands at the last epoch; while a re-encryption of it runs, the
advance waits for its end; the slot waits its turn (R210). -/
def advanceEpoch (k : Nat) (s0 : State) : State :=
  let s := useItem (.epoch k) s0
  let e := s.epochAt k
  if e.epoch = 2 ^ 32 - 1 then s
  else if e.reenc then s.onVault fun v => { v with reenc := v.reenc.map fun r => if r.slot = k then { r with again := true } else r }
  else
    let s1 := s.onVault fun v => { v with
      epochs := SMap.upd {} v.epochs k fun e => { e with epoch := e.epoch + 1, reenc := true, hold := false }
      wbHeld := v.wbHeld.filter fun p => s.slotOf p != some k
      reenc := v.reenc ++ [{ slot := k }] }
    lastEpochEvent k (e.epoch + 1) s1

/-- After a commit that gives a page of slot `k` the counter `w` (R207). -/
def checkCounter (k w : Nat) (s : State) : State := if 0xF00000 ≤ w then advanceEpoch k s else s

/-- Whether page `p` of slot `k` is still under the old epoch (R209). -/
def State.stale (s : State) (k p : Nat) : Bool :=
  let m := s.entry p
  (m.state == 3 || (m.state != 0 && m.scnt != 0)) && m.epb != (s.epochAt k).epoch.testBit 0

/-- Slots re-encrypting, and slots that wait (CRY_REENC_STS). -/
def State.reencActive (s : State) : Nat := (s.vault.reenc.filter Reenc.active).length
def State.reencQueued (s : State) : Nat := (s.vault.reenc.filter fun r => !r.active).length

end Sys2Proof.Machine
end

