-- ==== Sys2Proof/Machine/Flags.lean ====
section
/-! DEFINITION. What the status registers report of the machine's state: the values that the module computes and no register stores. -/
namespace Sys2Proof.Machine

open Sys2Proof

/-! ### Choosing the power state (R365, R366) -/

/-- A limit in nanoseconds, or none. -/
def minLimit (l : List Nat) : Option Nat := l.foldl (fun a v => match a with | none => some v | some b => some (Nat.min v b)) none

/-- T_host: the smallest HPA_LAT_TOL.TOL_NS over the heads whose link is up. -/
def State.tHost (s : State) : Option Nat :=
  minLimit (((List.range 4).filter s.linkUp).map (fun h => s.fld (Reg.HPA_LAT_TOL_TOL_NS h)))

/-- The cinches that are not Free. -/
def State.heldCinches (s : State) : List Cinch := ((List.range 64).map s.cinch).filter (fun c => c.st != .free)

/-- A_min: the smallest ALLOW_NS over the cinches that are not Free. -/
def State.aMin (s : State) : Option Nat := minLimit (s.heldCinches.map Cinch.allow)

/-- PWR_KEEP_EXIT.EXIT_US (R279): 500 + 4,000 × GiB of the pinned ranges of cinches that are not Free. -/
def State.keepExitUs (s : State) : Nat :=
  500 + 4000 * ((s.heldCinches.filter Cinch.pin).map Cinch.lenGib).foldl (· + ·) 0

/-- The exit latency of state `x` (Table 12.5), with Keep as R279 counts it. -/
def State.exitNs (s : State) (x : Nat) : Nat :=
  if x = 0 then 0 else if x = 1 then 2000 else if x = 2 then 20000 else s.keepExitUs * 1000

/-- Whether state `x` meets the three conditions of R365. -/
def State.stateAllowed (s : State) (x : Nat) : Bool :=
  decide (x ≤ s.fld Reg.PWR_CFG_MAX_STATE) && (s.tHost.all fun t => decide (s.exitNs x ≤ t)) && (s.aMin.all fun t => decide (s.exitNs x ≤ t))

/-- The deepest allowed state (R365): 0 Full, 1 Trim, 2 Doze, 3 Keep. -/
def State.allowed (s : State) : Nat :=
  if s.stateAllowed 3 then 3 else if s.stateAllowed 2 then 2 else if s.stateAllowed 1 then 1 else 0

/-- PWR_STS.LIMIT (R365). -/
def State.limit (s : State) : Nat :=
  if s.allowed = 3 then 0
  else if s.fld Reg.PWR_CFG_MAX_STATE < s.allowed + 1 then 1
  else match s.tHost, s.aMin with
    | some t, some a => if a < t then 3 else 2
    | none, some _ => 3
    | _, none => 2

/-- The state in force (PWR_STS.STATE): Trim is in force whenever it is allowed (R366). -/
def State.powerState (s : State) : Nat :=
  let x := s.fld Reg.PWR_STS_STATE
  if x = 0 ∧ 1 ≤ s.allowed then 1 else x

/-- Whether no holding pen, line table, DCC queue or HTC queue holds a request (R366). -/
def State.memIdle (s : State) : Bool :=
  s.flight.isEmpty && s.replies.isEmpty && s.heads.all (fun e => e.2.pen.isEmpty) && s.slices.all (fun e => e.2.txns.isEmpty) &&
  s.dram.dcc.all (fun e => e.2.rq.isEmpty && e.2.wq.isEmpty) && s.dram.groups.all (fun e => e.2.rq.isEmpty && e.2.wq.isEmpty)

/-- PWR_STS.BLOCK (R366), as a list of its bits from bit 0. -/
def State.blockers (s : State) : List Bool :=
  [!s.nme.running.isEmpty || s.nme.rings.any (fun e => !e.2.stamps.isEmpty),
   !s.rebuilds.isEmpty,
   s.vault.reenc.any Reenc.active,
   s.on Reg.CTM_STS_GC_ACTIVE,
   !s.on Reg.CTM_STS_READY || s.fld Reg.CTM_DIST_STS_STAGE != 0,
   s.noc.flipping || !s.takeovers.isEmpty,
   s.on Reg.FLT_FIRST_VALID && !s.on Reg.FLT_FIRST_DONE,
   s.mgmt.mgrBusy]

/-- CLK_CAL.VALID (R423): the latest count completed within the last 1,100 ms. -/
def State.calValid (s : State) : Bool :=
  s.on Reg.CLK_CAL_VALID && (s.clocks.calAt.any fun t => decide (s.clk ≤ t + 1100 * ms))

/-- A list of bits, bit 0 first, as a number. -/
def bitsNat : List Bool → Nat
  | [] => 0
  | b :: bs => b.toNat + 2 * bitsNat bs

end Sys2Proof.Machine
end

