-- ==== Sys2Proof/Machine/QosOps.lean ====
section
/-! DEFINITION. The shared operations of the reins: the cinch that covers a request, its buckets and its charges, and the byte, delay and miss
counters of the classes (R259, R267, R268, R284). -/
namespace Sys2Proof.Machine

open Sys2Proof

/-- Whether cinch `c` covers DPA `a` of LD `k`. -/
def Cinch.covers (c : Cinch) (k a : Nat) : Bool :=
  c.st != .free && c.ld == k && (c.lenGib == 0 || (decide (c.baseGib ≤ a / gib) && decide (a / gib < c.baseGib + c.lenGib)))

/-- The cinch slot that covers DPA `a` of LD `k` (R268). -/
def State.cinchFor (s : State) (k a : Nat) : Option Nat := (List.range 64).find? fun i => (s.cinch i).covers k a

/-- The class of a request for DPA `a` of LD `k`: its cinch's, or else that of the LD's master port (R259). -/
def State.hostClass (s : State) (k : Nat) (a : Option Nat) : Nat :=
  match a.bind (s.cinchFor k) with
  | some i => (s.cinch i).cls
  | none => s.portClass k

/-- The DevLoad of a response to a requester of class `c` (Table 2.3): what the rein state of the class comes to. -/
def State.devLoad (s : State) (c : Nat) : BitVec 2 :=
  Config.devLoad (((List.range 64).filter fun i => (s.cinch i).st != .free && (s.cinch i).cls == c).map fun i => ((s.cinch i).rbucket, (s.cinch i).wbucket))

/-- A cinch with its buckets refilled up to now (R267): they hold at most rate × BURST_NS. -/
def Cinch.refilled (c : Cinch) (now burst : Nat) : Cinch :=
  let dt := now - c.filled
  { c with rbucket := min (c.rbucket + (c.readMbs * dt : Nat)) ((c.readMbs * burst : Nat) : Int)
           wbucket := min (c.wbucket + (c.writeMbs * dt : Nat)) ((c.writeMbs * burst : Nat) : Int)
           filled := now }

/-- A request of cinch `i` taken in-contract or best-effort (R268): each bucket that it draws on must hold 64 B; a demoted cinch's requests are
best-effort. -/
def injectCharge (i : Nat) (read write : Bool) (s : State) : Bool × State :=
  let c := (s.cinch i).refilled s.clk s.burstNs
  let ok := c.st != .demoted && (!read || decide (64000 ≤ c.rbucket)) && (!write || decide (64000 ≤ c.wbucket))
  let c' := if ok then { c with rbucket := if read then c.rbucket - 64000 else c.rbucket, wbucket := if write then c.wbucket - 64000 else c.wbucket } else c
  (ok, s.updCinch i fun _ => c')

/-- The remainder of a 4,096 B charge of an in-contract request (R267, R268); it may drive the bucket below 0. -/
def remainder (r : Req) (write : Bool) (s : State) : State :=
  match r.cinch, r.be with
  | some i, false =>
    s.updCinch i fun c =>
      let c := c.refilled s.clk s.burstNs
      if write then { c with wbucket := c.wbucket - 4032000 } else { c with rbucket := c.rbucket - 4032000 }
  | _, _ => s

/-- The bound of request `r`'s cinch where it is in-contract, with the allowance where the access started outside Full (R278). -/
def State.boundOf (s : State) (r : Req) : Option Nat :=
  if r.be then none else r.cinch.map fun i => let c := s.cinch i; if r.slow then c.bound + c.allow else c.bound

/-- A request answered now: its bytes, its delay where it is best-effort, its miss where it is in-contract and late (R284). -/
def accountReply (r : Req) (s : State) : State :=
  let took := s.clk - r.t0
  if r.be then
    let d := took - r.lat
    let s2 := ((s.bytes (9 + 2 * r.cls) 64).wrapPair (Reg.QOS_CLS_OVB_LO r.cls) (Reg.QOS_CLS_OVB_HI r.cls) 64).wrapPair (Reg.QOS_CLS_DLY_LO r.cls) (Reg.QOS_CLS_DLY_HI r.cls) d
    if d = 0 then s2
    else s2.onQos fun q => { q with excess := SMap.upd {} q.excess r.cls fun e =>
      { e with bytes := e.bytes + 64, heads := match r.agent with
          | .host h _ => if e.heads.contains h then e.heads else e.heads ++ [h]
          | _ => e.heads } }
  else
    let s2 := (s.bytes (8 + 2 * r.cls) 64).wrapPair (Reg.QOS_CLS_INB_LO r.cls) (Reg.QOS_CLS_INB_HI r.cls) 64
    match s2.boundOf r with
    | some b => if b < took then s2.count (Reg.QOS_CLS_MISS_COUNT r.cls) else s2
    | none => s2

/-! ### Cinch slots (R262 to R266) -/

/-- The pages of the range that cinch `c` covers (R263). -/
def State.cinchPages (s : State) (c : Cinch) : List Nat :=
  (List.range (c.lenGib * pagesPerGib)).map fun i => s.gpnOf c.ld (c.baseGib * gib + 4096 * i)

/-- Cinch `i` leaves its slot: the slot is Free again and is in no list. -/
def freeCinch (i : Nat) (s : State) : State :=
  s.onQos fun q => { q with cinches := SMap.put {} q.cinches i {}, demoted := q.demoted.filter (· != i), passSince := q.passSince.filter fun e => e.1 != i }

end Sys2Proof.Machine
end

