-- ==== Sys2Proof/Machine/SliceOps.lean ====
section
/-! DEFINITION. The shared operations of the home slices: snoop filters and their mirrors, acceptance, NACKs and tickets, and serving a
transaction (chapter 03). -/
namespace Sys2Proof.Machine

open Sys2Proof

/-! ### Filter arrays (R81, R83, R108) -/

/-- The array that holds the filter of remap entry `e`: a slice, and whether it is that slice's mirror array (Table 3.6, from the replay of step 2 on;
R109, R110). -/
def State.filterArray (s : State) (e : Nat) : Nat × Bool :=
  match s.takeover e with
  | some t =>
    if t.double then (t.spare.getD t.failed, false) else if 2 ≤ t.step then (s.buddyOf e, true) else (t.failed, false)
  | none => (s.remap e, false)

/-- The filter entry of line address `la`. -/
def State.filter (s : State) (la : Nat) : FilterEntry :=
  let a := s.filterArray (remapIndex (la / 64))
  SMap.get {} (if a.2 then (s.slice a.1).mirror else (s.slice a.1).filter) la

/-- The arrays that a change of remap entry `e`'s filter is written to beside the one that serves it (R83): the mirror in the buddy; in a takeover whose
arrays are loaded (Table 3.6, step 6 on) the spare's array too, and the spare's mirror where it is `e xor 1` that the spare takes. -/
def State.filterCopies (s : State) (e : Nat) : List (Nat × Bool) :=
  let loaded := fun (t : Takeover) => if 7 ≤ t.step then t.spare else none
  match s.takeover e, s.takeover (e ^^^ 1) with
  | some t, _ => if t.double then [] else ((loaded t).map fun sp => (sp, false)).toList
  | none, some t => ((loaded t).map fun sp => (sp, true)).toList
  | none, none => [(s.buddyOf e, true)]

/-- The entry of line address `la` in one array set to `x`. -/
def putFilter (la : Nat) (x : FilterEntry) (s : State) (a : Nat × Bool) : State :=
  s.updSlice a.1 fun sl =>
    let n := if x.state = 0 && !x.snp then sl.uses else Nat.max sl.uses (x.stamp + 1)
    if a.2 then { sl with mirror := SMap.put {} sl.mirror la x, uses := n } else { sl with filter := SMap.put {} sl.filter la x, uses := n }

/-- The filter entry of line address `la` set to `x` as its newest use, in the array that serves it and in its copies (R83). -/
def setFilter (la : Nat) (x : FilterEntry) (s : State) : State :=
  let e := remapIndex (la / 64)
  let a := s.filterArray e
  let x : FilterEntry := if x.state = 0 then (if x.snp then { snp := true, la := la, stamp := (s.slice a.1).uses } else {})
    else { x with stamp := (s.slice a.1).uses, la := la }
  forAll (s.filterCopies e) (putFilter la x s a) (putFilter la x)

/-- The LDs that a filter entry lists. -/
def FilterEntry.lds (x : FilterEntry) : List Nat := (List.range 16).filter fun k => x.holders.getLsbD k

/-- The mask of one LD. -/
def ldMask (k : Nat) : BitVec 16 := 1 <<< k

/-- The entries that take a way of the filter set that line address `la` falls in: valid ones, and ways whose snoop is still under way. -/
def State.setEntries (s : State) (la : Nat) : List (Nat × FilterEntry) :=
  let a := s.filterArray (remapIndex (la / 64))
  (if a.2 then (s.slice a.1).mirror else (s.slice a.1).filter).filter fun e =>
    filterSet e.1 == filterSet la && s.filterArray (remapIndex (e.1 / 64)) == a && (e.2.state != 0 || e.2.snp)

/-- The victim of a full set (R82): the least recently used shared entry without SNP, else the least recently used owned one. -/
def State.victimOf (s : State) (la : Nat) : Option Nat :=
  let es := s.setEntries la
  let lru := fun (l : List (Nat × FilterEntry)) => (l.foldl (fun (a : Option (Nat × FilterEntry)) e => match a with
    | none => some e
    | some b => if e.2.stamp < b.2.stamp then some e else some b) none).map Prod.fst
  match lru (es.filter fun e => e.2.state == 1 && !e.2.snp) with
  | some v => some v
  | none => lru (es.filter fun e => e.2.state == 2 && !e.2.snp)

/-! ### Transactions -/

/-- The slice's open transaction with number `id`. -/
def State.txn (s : State) (sl id : Nat) : Option Txn := (s.slice sl).txns.find? fun t => t.req.id == id

/-- The transaction `id` of slice `sl` changed by `f`. -/
def updTxn (sl id : Nat) (f : Txn → Txn) (s : State) : State :=
  s.updSlice sl fun x => { x with txns := x.txns.map fun t => if t.req.id = id then f t else t }

/-- The slice that holds transaction `id`. -/
def State.sliceOfTxn (s : State) (id : Nat) : Option Nat :=
  (s.slices.find? fun e => e.2.txns.any fun t => t.req.id == id).map Prod.fst

/-- A reply sent to the requester of `r`: to a head, or to the engine that waits for it; other internal requesters act within the step. -/
def sendReply (r : Req) (k : ReplyKind) (s : State) : State :=
  match r.agent with
  | .host _ _ => { s with replies := s.replies ++ [{ req := r, kind := k }] }
  | .engine _ =>
    if k != .accepted && s.nme.running.any (fun x => x.waits == some r.id) then { s with replies := s.replies ++ [{ req := r, kind := k }] } else s
  | _ => s

/-- The entry of remap entry `e`'s buddy transaction mirror (R84). -/
def mirrorTxn (r : Req) (s : State) : State :=
  s.updSlice (s.buddyOf (remapIndex r.gpn)) fun x => { x with txMirror := x.txMirror ++ [r] }

/-- Transaction `id` of slice `sl` is answered with `k` and closes; the completion bit of a write's tag is set (R301). -/
def finishTxn (sl id : Nat) (k : ReplyKind) (s : State) : State :=
  match s.txn sl id with
  | none => s
  | some t =>
    let r := { t.req with lat := t.lat }
    let done := match r.kind with
      | .write => true
      | _ => false
    let mark := fun (l : List (Nat × Nat)) =>
      if done then (r.port, r.tag) :: l.filter (· != (r.port, r.tag)) else l
    let s1 := touchIdle (s.updSlice sl fun x =>
      { x with txns := x.txns.filter (fun t => t.req.id != id), completed := mark x.completed })
    let s2 := s1.updSlice (s1.buddyOf (remapIndex r.gpn)) fun x => { x with txMirror := x.txMirror.filter fun q => q.id != id }
    let s3 := match r.kind with
      | .atomic _ _ => s2.count (Reg.HSL_ATOM_CNT_COUNT sl)
      | _ => s2
    sendReply r k s3

/-! ### Snoops (R85, R87) -/

/-- The snoops that a request needs and the filter entry after them, before the requester's own transition (Table 3.3). `full`: a write of
the whole line. -/
structure SnoopPlan where
  kind : SnoopKind := .cur
  targets : List Nat := []
  deriving DecidableEq, Repr

/-- The requester's LD, where a host sent the request. -/
def Req.hostLd (r : Req) : Option Nat :=
  match r.agent with
  | .host _ k => some k
  | _ => none

/-- Whether the request comes from a near-memory engine. -/
def Req.fromEngine (r : Req) : Bool :=
  match r.agent with
  | .engine _ => true
  | _ => false

/-- Whether the request writes. -/
def Req.writes (r : Req) : Bool :=
  match r.kind with
  | .read => false
  | .pageOp _ => false
  | .pin _ => false
  | _ => true

/-- Table 3.3: the snoops that request `r` on an HDM-DB line needs where the filter holds `x`. The table has no row for STATE 3: there none goes out, also
where the entry still lists other holders (DESIGN CHOICE, log entry 99). -/
def snoopPlan (r : Req) (x : FilterEntry) : SnoopPlan :=
  let a := r.hostLd
  let others := x.lds.filter fun k => a != some k
  if !r.db || x.state == 0 || x.state == 3 then {}
  else match r.kind with
    | .pageOp _ => {}
    | .pin _ => {}
    | .atomic _ _ => { kind := .inv, targets := x.lds }
    | .read =>
      if r.fromEngine then (if x.state = 2 then { kind := .cur, targets := x.lds } else {})
      else match a with
        | none => {}
        | some _ =>
          (match r.mval with
           | .invalid => if x.state = 2 then { kind := .cur, targets := others } else {}
           | .shared => if x.state = 2 then { kind := .data, targets := others } else {}
           | .any => { kind := .inv, targets := others })
    | .write =>
      if r.fromEngine then { kind := .inv, targets := x.lds }
      else match a with
        | none => {}
        | some k => if x.state = 2 ∧ x.lds = [k] then {} else { kind := .inv, targets := others }

/-- The requester's own transition once the snoops are answered (Table 3.3). -/
def filterAfter (r : Req) (x : FilterEntry) (owner : Bool) : FilterEntry :=
  match r.kind with
  | .pageOp _ => x
  | .pin _ => x
  | .atomic _ _ => if x.state = 3 then x else {}
  | .read =>
    (match r.hostLd with
     | none => x
     | some k =>
       if x.state = 3 then x
       else match r.mval with
         | .invalid => x
         | .shared => { x with state := 1, holders := (if x.state = 2 && x.lds == [k] then 0 else x.holders) ||| ldMask k }
         | .any => { x with state := 2, holders := ldMask k })
  | .write =>
    (match r.hostLd with
     | none => if r.fromEngine then (if x.state = 3 && r.mask != BitVec.allOnes 64 then x else {}) else x
     | some k =>
       if x.state = 3 then (if r.mask = BitVec.allOnes 64 then {} else x)
       else if owner then
         (match r.mval with
          | .invalid => {}
          | .shared => { x with state := 1, holders := ldMask k }
          | .any => { x with state := 2, holders := ldMask k })
       else {})

/-- Whether LD `k`'s teardown is pending (R87, R105). -/
def State.teardownOf (s : State) (k : Nat) : Bool := (s.headOf k).any fun h => s.teardown.contains h

/-- Snoops of `kind` sent to the LDs of `ks` for line address `la` by slice `sl`; SNP is set. -/
def sendSnoops (sl la : Nat) (kind : SnoopKind) (ks : List Nat) (s : State) : State :=
  if ks.isEmpty then s
  else
    let s1 := (forAll ks s fun t k => t.emit (.snoop k la kind)).count (Reg.HSL_BI_CNT_COUNT sl) ks.length
    setFilter la { s.filter la with snp := true } s1

/-! ### NACKs and tickets (R74 to R78) -/

/-- The key that a request's tickets are kept under: its line, or its page for a page-level operation. -/
def Req.ticketKey (r : Req) : Nat :=
  match r.kind with
  | .pageOp _ => pageKey r.gpn
  | _ => lineAddr r.gpn r.line

/-- The requester's part of a NACK: its delays count from its arrival (R75). An internal requester keeps the request until it retries. -/
def deliverNack (r : Req) (reason : Nat) (s : State) : State :=
  match r.agent with
  | .host _ _ => { s with replies := s.replies ++ [{ req := r, kind := .nack reason r.ticket }] }
  | _ => { s with flight := s.flight ++ [{ r with nackAt := Nat.max 1 s.clk }] }

/-- A retry of the ticket holder that is next begins a new 1 µs for it (R77). -/
def holderRetried (sl : Nat) (r : Req) (s : State) : State :=
  s.updSlice sl fun x => { x with tickets := x.tickets.map fun t => if t.key = r.ticketKey ∧ r.ticket = some t.serve then { t with since := s.clk } else t }

/-- Request `r` answered with a NACK by slice `sl` (R74): the fourth brings a reservation ticket, or RESOURCE where the table is full (R78). -/
def nack (sl reason : Nat) (r : Req) (s : State) : State :=
  let r := { r with nacks := r.nacks + 1 }
  let s1 := s.count (Reg.HSL_NACK_CNT_COUNT sl)
  if r.ticket.isSome then deliverNack r reason (holderRetried sl r s1)
  else if r.nacks < 4 then deliverNack r reason s1
  else match s.ticketAt sl r.ticketKey with
    | some t =>
      deliverNack { r with ticket := some t.issue } reason
        (s1.updSlice sl fun x => { x with tickets := x.tickets.map fun u => if u.key = t.key then { u with issue := u.issue + 1 } else u })
    | none =>
      if 256 ≤ (s.slice sl).tickets.length then deliverNack r 2 (s1.count (Reg.HSL_TKT_FULL_COUNT sl))
      else deliverNack { r with ticket := some 0 } reason
        (s1.updSlice sl fun x => { x with tickets := x.tickets ++ [{ key := r.ticketKey, issue := 1, serve := 0, since := s.clk }] })

/-- The ticket holder named by the serve counter has been granted, or forfeits: the counter advances, and the entry is freed at the end (R76, R77). -/
def advanceTicket (sl key : Nat) (s : State) : State :=
  s.updSlice sl fun x => { x with tickets :=
    (x.tickets.map fun t => if t.key = key then { t with serve := t.serve + 1, since := s.clk } else t).filter fun t => t.serve != t.issue }

/-! ### Serving (R20, R97, R116, R117) -/

/-- The scheduler key of a frame's pseudo-channel group. -/
def groupKey (f : Nat) : Nat := 8 * frameStack f + frameGroup f

/-- The frame access of transaction `id` enters its group's queue (R256), or waits where the queue is full. -/
def enqueueAccess (sl id f : Nat) (write : Bool) (cls : Nat) (s : State) : State :=
  let k := groupKey f
  let g := s.group k
  let a : LineAccess := { id := id, write := write, cls := cls, row := f / 256, bank := f / 16 % 16 + (if isKeepFrame f then 0 else 16), at_ := s.clk }
  let s1 := updTxn sl id (fun t => { t with phase := .frame, slot := some k }) s
  if write then
    (if g.wq.length < 512 then s1.updGroup k fun g => { g with wq := g.wq ++ [a] } else updTxn sl id (fun t => { t with slot := none }) s1)
  else if g.rq.length < 512 then s1.updGroup k fun g => { g with rq := g.rq ++ [a] } else updTxn sl id (fun t => { t with slot := none }) s1

/-- The word of a line that an atomic acts on. -/
def atomWord (o : AtomicOp) (v : Line) : Nat := v.toNat / 2 ^ (8 * o.off) % 2 ^ (8 * o.bytes)

/-- A word as a two's complement number of `w` bits. -/
def signedOf (w v : Nat) : Int := if v < 2 ^ (w - 1) then (v : Int) else (v : Int) - (2 ^ w : Nat)

/-- The word after the operation, or none where it writes nothing: a compare-and-swap whose comparison fails (R97). -/
def atomResult (o : AtomicOp) (old : Nat) : Option Nat :=
  let w := 8 * o.bytes
  let x := o.operand.toNat % 2 ^ w
  match o.op with
  | .fetchAdd | .add => some ((old + x) % 2 ^ w)
  | .swap => some x
  | .cas => if old = o.compare.toNat % 2 ^ w then some x else none
  | .and => some (old &&& x)
  | .or => some (old ||| x)
  | .xor => some (old ^^^ x)
  | .minU => some (Nat.min old x)
  | .maxU => some (Nat.max old x)
  | .minS => some (if signedOf w x < signedOf w old then x else old)
  | .maxS => some (if signedOf w old < signedOf w x then x else old)

/-- A line with the atomic's word replaced. -/
def setAtomWord (o : AtomicOp) (v : Line) (n : Nat) : Line :=
  BitVec.ofNat 512 (v.toNat - atomWord o v * 2 ^ (8 * o.off) + n * 2 ^ (8 * o.off))

/-- Whether page `p` is poisoned by the capacity distress sequence (R159): until its extent is released no write changes it (R182). -/
def State.distressed (s : State) (p : Nat) : Bool :=
  let m := s.entry p
  m.state == 1 && m.scnt == 0 && s.marks p == 0

/-- A write or an atomic that writes, with its frames allocated and its access queued, or held for frames (R117, R118); to a page poisoned in distress nothing is
stored (R182). -/
def startWrite (sl id : Nat) (s : State) : State :=
  match s.txn sl id with
  | none => s
  | some t =>
    if s.distressed t.req.gpn then finishTxn sl id (match t.req.kind with
      | .atomic _ _ => .atomic 0 true
      | _ => .done) s
    else match allocForWrite t.req.gpn s with
    | none => updTxn sl id (fun t => { t with phase := .frames }) (if t.phase = .frames then s else s.count Reg.HTM_ALLOC_STALL_COUNT)
    | some s1 =>
      let s2 := updOp t.req.gpn (fun o => { o with written := true }) s1
      enqueueAccess sl id (s2.entry t.req.gpn).frame true t.req.rank s2

/-- A read answered with line `v` (R21): HEAT has been updated and the filter follows the request. -/
def answerRead (sl id : Nat) (v : Line) (poison : Bool) (s : State) : State :=
  finishTxn sl id (.data (if poison then 0 else v) poison) s

/-- An atomic whose line has been read: poisoned lines and failed comparisons write nothing (R97). -/
def atomicRead (sl id : Nat) (v : Line) (poison : Bool) (s : State) : State :=
  match s.txn sl id with
  | none => s
  | some t =>
    match t.req.kind with
    | .atomic o _ =>
      let old := BitVec.ofNat 128 (atomWord o v)
      if poison then finishTxn sl id (.atomic 0 true) s
      else match atomResult o (atomWord o v) with
        | none => finishTxn sl id (.atomic old false) s
        | some _ => startWrite sl id (updTxn sl id (fun t => { t with val := some (v, false) }) s)
    | _ => answerRead sl id v poison s

/-- Where transaction `t` reads the cold image (R95): at the location in the map entry at its acceptance; a page that was hot then and has been released
since is read where its image is now. -/
def State.coldImage (s : State) (t : Txn) : Image :=
  let m := s.entry t.req.gpn
  let o := unpackEntry t.snap
  if o.scnt ≠ 0 ∧ (o.state = 1 ∨ 2 ≤ m.state) then o.image else m.image

/-- A line of a cold page read through a job: the transaction waits for it. -/
def coldRead (sl id : Nat) (s : State) : State :=
  match s.txn sl id with
  | none => s
  | some t =>
    let (job, s1) := startJob t.req.gpn (s.coldImage t) .txn s
    updTxn sl id (fun t => { t with phase := .cold, job := some job, lat := t.lat + 450 }) (remainder t.req false s1)

/-- Tiering in hardware mode (R128): a cold read whose level reaches the threshold opens a promotion into a free shed frame, or counts a skip. R128 leaves out a
page that is dirty-pending, a term that it does not define: no page in STATE 1 is taken as one (DESIGN CHOICE, log entry 108). -/
def considerPromotion (p : Nat) (s : State) : State :=
  let m := s.entry p
  if s.on Reg.HTM_TIER_CFG_MODE_ACT || s.switching 0 || s.pwr.move == .keepReleasing || m.state != 1 || m.scnt == 0 || decide (m.heat % 16 < zeroAsOne (s.fld Reg.HTM_TIER_CFG_PROMO_THR)) then s
  else match s.mayOpen p, s.shedFor p with
    | true, some f => beginOp .promotion p (59 + f % 2) (some f) s
    | _, _ => s.count Reg.HTM_SKIP_COUNT

/-- Whether open transaction `t` of slice `sl` waits for a write of its line that has not landed (R88, R90): a writeback for older writebacks and for a
write already under way, any other request for every writeback accepted while it is open. -/
def State.lineBlocked (s : State) (sl : Nat) (t : Txn) : Bool :=
  let l := (s.slice sl).txns.filter fun u => u.req.gpn == t.req.gpn && u.req.line == t.req.line
  let begun := fun (u : Txn) => u.phase == .frames || u.phase == .frame || u.phase == .fill || u.phase == .cold
  if t.wb then
    ((l.takeWhile fun u => u.req.id != t.req.id).any fun u => u.wb) || l.any fun u => !u.wb && begun u && (match u.req.kind with
      | .read => false
      | _ => true)
  else l.any fun u => u.wb && u.req.id != t.req.id

/-- A read, or the read of an atomic, of transaction `t` (Table 1.2): from the frame while the page is hot, and otherwise by the map entry at its
acceptance (R91). -/
def readPage (sl id : Nat) (t : Txn) (s : State) : State :=
  let m := s.entry t.req.gpn
  let o := unpackEntry t.snap
  let marked := (s.marks t.req.gpn).getLsbD t.req.line
  if 2 ≤ m.state then enqueueAccess sl id m.frame false t.req.rank s
  else if marked || (m.state == 1 && m.scnt == 0) then atomicRead sl id 0 true s
  else if o.state = 0 ∨ (m.state = 0 ∧ 2 ≤ o.state) then atomicRead sl id 0 false s
  else if (s.coldImage t).scnt = 0 then atomicRead sl id 0 true s
  else coldRead sl id s

/-- The transaction goes on with the page's map entry in slice SRAM (R20, R97, R117), once no older write of its line is under way. -/
def serve (sl id : Nat) (s : State) : State :=
  match s.txn sl id with
  | none => s
  | some t =>
    let r := t.req
    let p := r.gpn
    if s.lineBlocked sl t then updTxn sl id (fun t => { t with phase := .order }) s
    else match r.kind with
    | .pageOp _ => s
    | .pin _ => s
    | .write =>
      let first := match s.entry p with
        | m => if m.state = 3 then (s.desc m.frame).dirty == 0 else true
      startWrite sl id (touchHeat p 2 (if first then remainder r true s else s))
    | k =>
      let inc := match k with
        | .read => 1
        | _ => 2
      let s1 := readPage sl id t (touchHeat p inc s)
      match s1.txn sl id with
      | some u => if u.phase = .cold then considerPromotion p s1 else s1
      | none => s1

/-- The map entry of page `p` in slice `sl`'s SRAM. -/
def State.sramEntry (s : State) (sl p : Nat) : Option (BitVec 128) := ((s.slice sl).entries.find? fun e => e.1 == p).map Prod.snd

/-- The lookup of a transaction whose snoops are answered: served from slice SRAM, or waiting for the entry (R160). -/
def lookup (sl id : Nat) (s : State) : State :=
  match s.txn sl id with
  | none => s
  | some t =>
    match s.sramEntry sl t.req.gpn with
    | some e =>
      if entryOk e then serve sl id s
      else
        updTxn sl id (fun t => { t with phase := .map }) ((s.updSlice sl fun x =>
          { x with entries := x.entries.filter fun y => y.1 != t.req.gpn }).reportInj 0x0D sl [t.req.gpn])
    | none => updTxn sl id (fun t => { t with phase := .map }) s

/-- Whether LD `k` has not answered a snoop of line `la` that a release of its capacity sent (R102). -/
def State.recalled (s : State) (k la : Nat) : Bool := (s.ld k).recalls.any fun r => r.1 == la

/-- When that snoop went out. -/
def State.recallAt (s : State) (k la : Nat) : Nat := (((s.ld k).recalls.find? fun r => r.1 == la).map Prod.snd).getD s.clk

/-- That snoop is no longer awaited. -/
def endRecall (k la : Nat) (s : State) : State := s.updLd k fun d => { d with recalls := d.recalls.filter fun r => r.1 != la }

/-- Whether a snoop of line `la` is under way: one that a transaction awaits, for its own line or for its victim's, or one that a release sent. -/
def State.snoopOut (s : State) (la : Nat) : Bool :=
  (s.slices.any fun e => e.2.txns.any fun t => !t.snoops.isEmpty && t.victim.getD (lineAddr t.req.gpn t.req.line) == la) ||
  (List.range 16).any fun k => s.recalled k la

/-- SNP of line `la` follows the snoops under way (Table 3.2). -/
def clearSnp (la : Nat) (s : State) : State :=
  let x := s.filter la
  let b := s.snoopOut la
  if x.snp == b then s else setFilter la { x with snp := b } s

/-- The snoops of transaction `id` are answered: the filter takes the requester's transition (Table 3.3), and the transaction goes on. A line held
after a time-out returns poison to its waiting request (R103), HEAT updated first (R21). -/
def snoopsDone (sl id : Nat) (s : State) : State :=
  match s.txn sl id with
  | none => s
  | some t =>
    let r := t.req
    let la := lineAddr r.gpn r.line
    let s1 := if r.db then
        let x := { s.filter la with snp := s.snoopOut la }
        setFilter la { filterAfter r x (x.state = 2 ∧ r.hostLd.isSome ∧ x.lds = r.hostLd.toList) with snp := x.snp } s
      else s
    if t.poisonResult then
      match r.kind with
      | .read => answerRead sl id 0 true (touchHeat r.gpn 1 s1)
      | .atomic _ _ => finishTxn sl id (.atomic 0 true) (touchHeat r.gpn 2 s1)
      | _ => lookup sl id s1
    else lookup sl id s1

/-! ### Acceptance (R73 to R78, R87 to R90) -/

/-- Whether `r` is a writeback: a host write from the LD that the filter lists as owner (R89). -/
def State.isWriteback (s : State) (r : Req) : Bool :=
  r.db && (match r.kind, r.hostLd with
    | .write, some k => let x := s.filter (lineAddr r.gpn r.line); x.state == 2 && x.lds == [k]
    | _, _ => false)

/-- Whether request `r` needs a new filter entry where its line's is `f` (R82): its own way serves where one is still taken by a snoop. -/
def Req.needsWay (r : Req) (f : FilterEntry) : Bool :=
  r.db && f.state == 0 && !f.snp && (match r.kind, r.mval with
    | .read, .shared => r.hostLd.isSome
    | .read, .any => r.hostLd.isSome
    | _, _ => false)

/-- Why slice `sl` cannot accept `r` now (Table 3.1); none where it can. A full set without a victim answers RESOURCE also where some of its ways without SNP
are held, STATE 3, a case that R82 does not name (DESIGN CHOICE, log entry 99). -/
def State.refuses (s : State) (sl : Nat) (r : Req) : Option Nat :=
  let x := s.slice sl
  let la := lineAddr r.gpn r.line
  let turn := match s.ticketAt sl r.ticketKey with
    | none => true
    | some t => r.ticket == some t.serve
  let f := s.filter la
  let plan := snoopPlan r f
  if x.quiesce then some 3
  else match r.kind with
    | .pageOp _ => if (s.opOf r.gpn).isSome || !turn then some 1 else none
    | .pin _ => none
    | _ =>
      if s.isWriteback r then none
      else if (x.txns.any fun t => t.req.gpn == r.gpn && t.req.line == r.line) || !turn then some 0
      else if plan.targets.any s.teardownOf then some 0
      else if 448 ≤ x.txns.length then some 2
      else if r.needsWay f && decide (16 ≤ (s.setEntries la).length) then
        (match s.victimOf la with
         | none => some 2
         | some v => if (s.filter v).lds.any s.teardownOf then some 0 else none)
      else none

/-- Transaction of request `r` opened in slice `sl`: its snoops go out (R85), for a victim of a full set first (R82). -/
def openTxn (sl : Nat) (r : Req) (s : State) : State :=
  let la := lineAddr r.gpn r.line
  let plan := snoopPlan r (s.filter la)
  let need := r.needsWay (s.filter la) && decide (16 ≤ (s.setEntries la).length)
  let victim := if need then s.victimOf la else none
  let t : Txn := { req := { r with ticket := none }, phase := .snoop, snoops := plan.targets, sentAt := s.clk, victim := victim, wb := s.isWriteback r, snap := (s.entry r.gpn).pack }
  let s1 := s.updSlice sl fun x => { x with txns := x.txns ++ [t] }
  let s2 := sendSnoops sl la plan.kind plan.targets s1
  match victim with
  | some v =>
    let ks := (s2.filter v).lds
    updTxn sl r.id (fun t => { t with snoops := ks, phase := .victim })
      (sendSnoops sl v .inv ks (s2.count (Reg.HSL_SF_EVICT_COUNT sl)))
  | none =>
    if need then updTxn sl r.id (fun t => { t with phase := .victim }) s2
    else if plan.targets.isEmpty then snoopsDone sl r.id s2 else s2

/-- A line event accepted by slice `sl` (R73, R84, R88): it closes the LD's injection window (R188) and enters the line table and its mirror; a
writeback crossing a snoop of its line is counted, and an open page-level operation sees that a line write has been accepted (R93). -/
def accept (sl : Nat) (r : Req) (s : State) : State :=
  let la := lineAddr r.gpn r.line
  let s0 := closeWindow (s.keySource r.gpn).1 s
  let s1 := if s.isWriteback r && (s0.filter la).snp then s0.count (Reg.HSL_XCROSS_COUNT sl) else s0
  let s2 := match s1.ticketAt sl r.ticketKey with
    | some t => if r.ticket = some t.serve then advanceTicket sl t.key s1 else s1
    | none => s1
  let unmark := fun (l : List (Nat × Nat)) => if r.retry then l else l.filter (· != (r.port, r.tag))
  let s3 := (sendReply r .accepted s2).updSlice sl fun x => { x with completed := unmark x.completed }
  let s4 := match r.kind with
    | .write => updOp r.gpn (fun o => { o with written := true }) s3
    | _ => s3
  openTxn sl r (mirrorTxn r s4)

/-- A page-level request granted: its operation opens where the page still asks for it (R91). Whether the image that a relocation asked for is live is decided here
(R169), and whether a page is still under the old epoch (R209). A promotion that finds no shed frame waits where PIN asks for it and is skipped otherwise. -/
def grantOp (k : OpKind) (r : Req) (s : State) : State :=
  let p := r.gpn
  let m := s.entry p
  match k with
  | .writeback => startClean p r.port s
  | .promotion =>
    if m.state ≠ 1 ∨ m.scnt = 0 then s
    else
      (match s.shedFor p with
       | some f => beginOp .promotion p r.port (some f) s
       | none => if m.pin then pinWaits p s else s.count Reg.HTM_SKIP_COUNT)
  | .reenc =>
    if !s.stale ((s.slotOf p).getD 0) p then s
    else if m.state = 3 then startClean p r.port s else beginOp .reenc p r.port none s
  | .relocation => if m.scnt = 0 ∨ (m.seam, m.spos) ≠ r.loc then s else beginOp .relocation p r.port none s
  | .release => grantRelease p s
  | .mark => if s.marks p = 0 ∨ 2 ≤ m.state then s else beginOp .mark p r.port none s
  | .move => s
  | .discard => beginOp .discard p r.port none s
  | .distress => beginOp .distress p r.port none s
  | .poison => beginOp .poison p r.port none s

/-- What an engine that waits for page operation `k` is told: a promotion without a free shed frame is refused (R131). -/
def State.opAnswer (s : State) (k : OpKind) (p : Nat) : ReplyKind :=
  if k = .promotion ∧ (s.entry p).state = 1 ∧ (s.entry p).pin = false ∧ (s.shedFor p).isNone = true then .refused else .done

/-- Whether `r` is a writeback of a held line from the LD whose snoop timed out (R104). -/
def State.lateWriteback (s : State) (r : Req) : Bool :=
  let x := s.filter (lineAddr r.gpn r.line)
  r.db && r.kind == .write && x.state == 3 && r.hostLd.any fun k => x.silent.getLsbD k

/-- Whether `r` goes to an HDM-DB page of an entry whose filter is lost (R110). -/
def State.filterLost (s : State) (r : Req) : Bool := r.db && s.dbLost.any fun e => e.1 == remapIndex r.gpn

/-- The answer to a request that `filterLost` holds of: poison to a read, with HEAT updated (R21), and a write is dropped (R110). -/
def answerLost (r : Req) (s : State) : State :=
  let s1 := sendReply r .accepted (touchHeat r.gpn (if r.writes then 2 else 1) s)
  match r.kind with
  | .read => sendReply r (.data 0 true) s1
  | .atomic _ _ => sendReply r (.atomic 0 true) s1
  | _ => s1

/-- The answer to a request for memory whose key cannot be had (R45, R188, R190): its window closes, in hardware mode; a read or an AtomicOp gets poison, a write is dropped. -/
def answerKeyless (r : Req) (s : State) : State :=
  let s1 := sendReply r .accepted (closeWindow (s.keySource r.gpn).1 s)
  let s2 := match r.agent with
    | .host h _ => s1.report 0x1E h
    | _ => s1
  match r.kind with
  | .read => sendReply r (.data 0 true) s2
  | .atomic _ _ => sendReply r (.atomic 0 true) s2
  | _ => sendReply r .done s2

/-- Request `r`, taken from the grid, is accepted or answered by slice `sl`. A re-issued write whose tag has completed is answered without being
applied again, and one whose tag is open is answered when it completes (R301). -/
def deliver (sl : Nat) (r : Req) (s : State) : State :=
  if s.entryHeld (remapIndex r.gpn) then deliverNack { r with nacks := r.nacks + 1 } 3 s
  else if s.filterLost r then answerLost r s
  else if s.lateWriteback r then sendReply r .done (sendReply r .accepted (s.count (Reg.HSL_BI_TMO_LATE sl)))
  else if r.retry && r.writes && (s.slice sl).completed.contains (r.port, r.tag) then sendReply r .done (sendReply r .accepted s)
  else if r.retry && r.writes && ((s.slice sl).txns.any fun t => t.req.port == r.port && t.req.tag == r.tag) then s
  else match s.refuses sl r with
    | some reason => nack sl reason r s
    | none =>
      match r.kind with
      | .pageOp k =>
        let s1 := match s.ticketAt sl r.ticketKey with
          | some t => if r.ticket = some t.serve then advanceTicket sl t.key s else s
          | none => s
        sendReply r (s1.opAnswer k r.gpn) (grantOp k r s1)
      | .pin b => applyPin r.gpn b s
      | _ => if s.keyless r.gpn then answerKeyless r s else accept sl r s

/-! ### What a slice's work ends with -/

/-- Every transaction of a job answered with the lines that it produced, or with poison where it failed. -/
def answerJob (job : Nat) (res : Option (List Line × BitVec 64)) (s : State) : State :=
  let hits := s.slices.flatMap fun e => (e.2.txns.filter fun t => t.job == some job).map fun t => (e.1, t.req.id, t.req.line)
  forAll hits s fun t h =>
    let (v, bad) := match res with
      | some (ls, pm) => (ls.getD h.2.2 0, pm.getLsbD h.2.2)
      | none => (0, true)
    atomicRead h.1 h.2.1 v bad t

end Sys2Proof.Machine
end

