-- ==== Sys2Proof/Machine/HeadOps.lean ====
section
/-! DEFINITION. The shared operations of the heads: the holding pen, completions, the link and its training, the Level 1 reset, dynamic-capacity
releases and filter teardown (chapters 02 and 03). -/
namespace Sys2Proof.Machine

open Sys2Proof

/-- The exposure of failed streets and crossings ends where no detour is in force and every host path is up (Table 11.3a). -/
def pathsUp (s : State) : State :=
  if !s.on Reg.NOC_STS_DETOUR && (List.range 4).all fun h => !s.present h || s.linkUp h then s.unexpose fun e => e.src == 0x15 || e.src == 0x16 else s

/-! ### Registers of a block under a reset (R14) -/

/-- The register at offset `a` after a reset that keeps the bits of `keep`. -/
def keepBits (a : Nat) (keep : Nat) (v : Word) : Word :=
  let k := BitVec.ofNat 32 keep
  (v &&& k) ||| (Reg.resetOf a &&& ~~~k)

/-- The bits of offset `a` that a reset of level `lvl` keeps where it reaches the register. -/
def keepMask (lvl a : Nat) : Nat :=
  match Reg.findRow a Reg.rows with
  | none => 0
  | some (r, _, _) => if lvl = 5 then r.keep5 else if lvl = 4 then r.keep4 else r.keepLow

/-- The bits of offset `a` whose reset value the layout image gives (the Reset entries of chapters 02, 05, 07, 08 and 10). -/
def layoutBits (a : Nat) : Nat :=
  if (List.range 4).any fun h => a == Reg.HPA_CFG h then 0xFFFFFFFF
  else if (List.range 4).any fun h => a == Reg.HPA_PEN_CFG h then 0xFFFF
  else if a = Reg.CTM_GC_CFG ∨ a = Reg.CTM_TACK ∨ a = Reg.DCM_MODE ∨ a = Reg.QOS_ADM_CFG then 0xFFFFFFFF
  else if Reg.CTM_LWIN 0 ≤ a ∧ a ≤ Reg.CTM_LWIN 16 then 0xFFFFFFFF
  else if (List.range 256).any fun r => a == Reg.NMR_CFG r then fieldBits (Reg.NMR_CFG_LD 0) ||| fieldBits (Reg.NMR_CFG_OWNED 0)
  else 0

/-- Register value `v` of offset `a` with the bits that the layout gives taken from `w`. -/
def withLayoutBits (a : Nat) (w v : Word) : Word :=
  let k := BitVec.ofNat 32 (layoutBits a)
  (w &&& k) ||| (v &&& ~~~k)

/-- The registers from `lo` up to `hi` after a Level 1 to 3 reset of their block: fields that the layout image gives take the layout's values (R14). -/
def resetRange (lo hi : Nat) (s : State) : State :=
  let s1 := { s with regs := SMap.mapAll Reg.resetOf (fun a v => if lo ≤ a ∧ a < hi then keepBits a (keepMask 3 a) v else v) s.regs }
  s.layout.loaded.foldl (fun t e => if lo ≤ e.1 ∧ e.1 < hi then t.setReg e.1 (withLayoutBits e.1 e.2 (t.reg e.1)) else t) s1

/-! ### Heads -/

/-- Whether head `h` exists and is not fenced. -/
def State.headLive (s : State) (h : Nat) : Bool := s.present h && !s.isFenced (.head h)

/-- HPA_EPOCH of head `h`. -/
def State.headEpoch (s : State) (h : Nat) : Nat := s.fld (Reg.HPA_EPOCH_EPOCH h)

/-- Whether a request of epoch `e` is of an epoch that head `h` has left. -/
def State.oldEpoch (s : State) (h e : Nat) : Bool := (s.head h).epochDue || e != s.headEpoch h

/-- Whether head `h`'s pen holds a write from before its last reset (Table 2.6). -/
def State.oldWrites (s : State) (h : Nat) : Bool := (s.head h).pen.any fun e => s.oldEpoch h e.req.epoch

/-- Whether head `h`'s pen is full (R60). -/
def State.penFull (s : State) (h : Nat) : Bool := decide (s.fld (Reg.HPA_PEN_CFG_ENTRIES h) ≤ (s.head h).pen.length)

/-- The pen age limit in ns (R64). -/
def State.penLimit (s : State) (h : Nat) : Nat := clamp 1 64 (s.fld (Reg.HPA_PEN_CFG_LIMIT h)) * ms

/-- Whether head `h` takes a request now: its link is up, no IDE stream is insecure or still to be keyed anew (R55), its pen has room (R60), no write of the
old epoch is held and the epoch has advanced (R68, R432). -/
def State.takes (s : State) (h : Nat) : Bool :=
  s.headLive h && s.linkUp h && !(s.head h).insecure && (s.head h).rekey.isEmpty && !s.penFull h && !s.oldWrites h && !(s.head h).epochDue

/-- The pen entry of request `id`. -/
def State.penEntry (s : State) (h id : Nat) : Option PenEntry := (s.head h).pen.find? fun e => e.req.id == id

/-- The pen entry of request `id` changed by `f`. -/
def updPen (h id : Nat) (f : PenEntry → PenEntry) (s : State) : State :=
  s.updHead h fun x => { x with pen := x.pen.map fun e => if e.req.id = id then f e else e }

/-- The request of pen entry `id` goes into the street grid (R61). -/
def inject (h id : Nat) (s : State) : State :=
  match s.penEntry h id with
  | none => s
  | some e => updPen h id (fun e => { e with phase := .injected }) { s with flight := s.flight ++ [e.req] }

/-- Whether two requests go to one line. -/
def Req.sameLine (a b : Req) : Bool := a.gpn == b.gpn && a.line == b.line

/-- A request enters head `h`'s pen; it is injected unless an earlier one to its line is still held (R61). -/
def penAdd (h : Nat) (r : Req) (s : State) : State :=
  let wait := (s.head h).pen.any fun e => e.req.sameLine r
  let s1 := s.updHead h fun x => { x with pen := x.pen ++ [{ req := r }] }
  if wait then s1 else inject h r.id s1

/-- Pen entry `id` is freed: a credit goes back (R60), and the next request held for its line is injected (R61). -/
def penFree (h id : Nat) (s : State) : State :=
  match s.penEntry h id with
  | none => s
  | some e =>
    let s1 := (touchIdle (s.updHead h fun x => { x with pen := x.pen.filter fun e => e.req.id != id })).emit (.credit h)
    match (s1.head h).pen.find? fun f => f.req.sameLine e.req with
    | some f => if f.phase = .held then inject h f.req.id s1 else s1
    | none => s1

/-- How a request ends that reaches no home slice, or is not accepted in time: a read with poison, an atomic with a poisoned completion, a
write with none (R45, R64). `c`: the requester's class. -/
def endUnserved (h tag c : Nat) (k : ReqKind) (s : State) : State :=
  match k with
  | .read => s.emit (.memData h tag 0 true (s.devLoad c))
  | .atomic _ _ => s.emit (.atomicData h tag 0 true)
  | _ => s

/-- A request outside capacity, to memory that is not active or to memory that waits for its key (R45, R188, R446). -/
def outside (h tag c : Nat) (k : ReqKind) (s : State) : State := (endUnserved h tag c k s).report 0x1E h

/-- Whether memory at DPA `a` of LD `k` is reachable by a request (R45, R188, R446): active, in capacity, and with the key that its pages are under (R193). -/
def State.reachable (s : State) (k a : Nat) : Bool :=
  (s.ld k).memActive && s.inCapacity k a && !s.keyWaits k && !s.keyWaits (s.keySource (s.gpnOf k a)).1

/-- A distress poison of page `p` is asked for, unless it has been committed (R182). -/
def askDistress (p : Nat) (s : State) : State :=
  let m := s.entry p
  if m.state = 1 ∧ m.scnt = 0 then s else askOp .distress p portLedger s

/-- A host write or AtomicOp to a frozen extent (R182): nothing is stored. -/
def frozenWrite (h tag c : Nat) (k : ReqKind) (p : Nat) (s : State) : State :=
  let s1 := match k with
    | .write => s.emit (.memDone h tag (s.devLoad c))
    | _ => s.emit (.atomicData h tag 0 true)
  askDistress p (s1.count Reg.CTM_DROP_CNT_COUNT)

/-- Whether `r` is a host write or AtomicOp to a page of a frozen extent. -/
def State.frozenPage (s : State) (r : Req) : Bool :=
  r.writes && (s.pageOwners r.gpn).any fun q => r.hostLd == some q.1 && s.isFrozen q.1 q.2

/-- A write in head `h`'s pen that goes to a frozen extent is dropped (R182). -/
def dropFrozen (h : Nat) (r : Req) (s : State) : State := penFree h r.id (frozenWrite h r.tag r.cls r.kind r.gpn s)

/-- The writes to frozen extents that the pens hold and the street grid does not are dropped (R182). -/
def dropFrozenPens (s : State) : State :=
  forAll (List.range 4) s fun t h =>
    forAll (((t.head h).pen.filter fun e => (e.phase == .held || e.phase == .backoff) && t.frozenPage e.req).map PenEntry.req) t fun u r => dropFrozen h r u

/-- A host request for DPA `a` of LD `k` classified by its cinch's rein (R267, R268), in the pen and injected. -/
def takeIn (h k a : Nat) (kind : ReqKind) (data : Line) (mask : BitVec 64) (poison : Bool) (m : MetaValue) (tag : Nat) (s : State) : State :=
  let rd := match kind with
    | .write => false
    | _ => true
  let wr := match kind with
    | .read => false
    | _ => true
  let ci := s.cinchFor k a
  let (ok, s1) := match ci with
    | some i => injectCharge i rd wr s
    | none => (false, s)
  let (id, s2) := s1.fresh
  let p := s.gpnOf k a
  let r : Req :=
    { id := id, agent := .host h k, port := k, kind := kind, gpn := p, line := a % 4096 / 64, data := data, mask := mask,
      poison := poison, mval := m, db := s.isDb k a, tag := tag, epoch := s.headEpoch h,
      cls := s.hostClass k (some a)
      be := !ok, cinch := ci, t0 := s.clk, slow := decide (0 < s.powerState) || s.pwr.move != .none || s.pwr.wake.isSome }
  penAdd h r (if wr then s2.bytes (2 * h + 1) 64 else s2)

/-- A request of a head for DPA `a` of LD `k` (R44, R45, R182, R331). -/
def request (h k : Nat) (a : Option Nat) (kind : ReqKind) (data : Line) (mask : BitVec 64) (poison : Bool) (m : MetaValue) (tag : Nat) (s : State) : State :=
  let wr := match kind with
    | .read => false
    | _ => true
  let c := s.hostClass k a
  if s.flt.halt then endUnserved h tag c kind s
  else match a with
    | none => outside h tag c kind s
    | some a =>
      if !s.reachable k a then outside h tag c kind s
      else if wr && s.isFrozen k a then frozenWrite h tag c kind (s.gpnOf k a) s
      else takeIn h k a kind data mask poison m tag s

/-! ### The link (R56, R57, R59, R522) -/

/-- The nominal width of head `h`, and what its present cables leave of it (Table 2.1). -/
def State.maxWidth (s : State) (h : Nat) : Nat :=
  let cable := fun (c : Nat) => s.rst.cables.getD c true
  match s.fld (Reg.HPA_CFG_SPLIT h) with
  | 0 => (if cable 0 && cable 1 then 16 else if cable 0 || cable 1 then 8 else 0)
  | 1 => if cable h then 8 else 0
  | _ => if cable (h / 2) then 4 else 0

/-- The largest width of 1, 2, 4, 8, 16 that is not above `n`. -/
def powWidth (n : Nat) : Nat := (([16, 8, 4, 2, 1].find? fun w => decide (w ≤ n))).getD 0

/-- HPA_CTL.RATE_MAX as it acts. -/
def State.rateMax (s : State) (h : Nat) : Nat :=
  let v := s.fld (Reg.HPA_CTL_RATE_MAX h)
  if 1 ≤ v ∧ v ≤ 4 then v else 4

/-- The highest rate up to `cap` that the partner offers. -/
def bestRate (cap : Nat) (rates : BitVec 4) : Option Nat := [4, 3, 2, 1].find? fun r => decide (r ≤ cap) && rates.getLsbD (r - 1)

/-- The rate cap of Table 2.5 for a loss in 0.5 dB units. -/
def lossCap : Option Nat → Nat
  | some l => if l ≤ 64 then 4 else if l ≤ 96 then 3 else if l ≤ 112 then 2 else 1
  | none => 1

/-- Head `h`'s link trains. -/
def startTraining (h : Nat) (s : State) : State := s.updHead h fun x => { x with link := .training }

/-- A retrain of a link that was up (R66): it leaves L0 with nothing reset. -/
def retrain (h : Nat) (s : State) : State :=
  let s1 := (((s.setFld (Reg.HPA_LINK_STS_UP h) 0).setFld (Reg.HPA_LINK_STS_CXL_MEM h) 0).setFld (Reg.HPA_LINK_STS_RATE h) 0).setFld (Reg.HPA_LINK_STS_WIDTH h) 0
  startTraining h (s1.emit (.link h false))

/-- The head whose PERST# pin `p` is (R497, Table 19.3); a pin without one is ignored. -/
def State.pinHead (s : State) (p : Fin 4) : Option (Fin 4) :=
  match s.fld (Reg.HPA_CFG_SPLIT 0) with
  | 0 => if p = 0 ∨ p = 2 then some 0 else none
  | 1 => if p = 0 then some 0 else if p = 2 then some 1 else none
  | _ => some p

/-- The head that hears pin `p`: the pin of a connector whose cable is absent is ignored (R497). -/
def State.heardBy (s : State) (p : Fin 4) : Option (Fin 4) := if s.rst.cables.getD (p.val / 2) true then s.pinHead p else none

/-- Whether a PERST# pin holds head `h` in reset (R431, R497). -/
def State.perstHeld (s : State) (h : Nat) : Bool := s.rst.lowPins.any fun p => (s.heardBy p).any fun g => g.val == h

/-- The link of head `h` as it stands after a Level 1 reset: held in Disabled, held by PERST#, or measuring its cable (R56). -/
def State.linkStart (s : State) (h : Nat) : LinkPhase :=
  if !s.on (Reg.HPA_CTL_LINK_EN h) || s.isFenced (.head h) then .disabled else if s.perstHeld h then .reset else .measuring

/-! ### Level 1 (R68, Table 2.6, R432) -/

/-- Whether a request that head `h` issued under epoch `e` is still outstanding. -/
def State.outstanding (s : State) (h e : Nat) : Bool :=
  let mine := fun (r : Req) => (match r.agent with
    | .host g _ => g == h
    | _ => false) && r.epoch == e
  (s.head h).pen.any (fun p => p.req.epoch == e) || s.flight.any mine || s.replies.any (fun r => mine r.req) || s.slices.any fun x => x.2.txns.any fun t => mine t.req

/-- The epoch that follows the one in force. -/
def State.nextEpoch (s : State) (h : Nat) : Nat := (s.headEpoch h + 1) % 256

/-- The epoch of head `h` advances, or its advance waits (R432). -/
def advanceHeadEpoch (h : Nat) (s : State) : State :=
  if s.outstanding h (s.nextEpoch h) then s.updHead h fun x => { x with epochDue := true }
  else (s.setFld (Reg.HPA_EPOCH_EPOCH h) (s.nextEpoch h)).updHead h fun x => { x with epochDue := false }

/-- Held requests of head `h`'s pen with no earlier one to their line left in it go into the street grid (R61). -/
def injectHeld (h : Nat) (s : State) : State :=
  forAll ((s.head h).pen.map fun e => e.req.id) s fun t id =>
    match t.penEntry h id with
    | some e =>
      if e.phase = .held ∧ ((t.head h).pen.find? fun f => f.req.sameLine e.req).map (fun f => f.req.id) = some id then inject h id t else t
    | none => t

/-- Level 1 reset of head `h` (Tables 2.6 and 15.4): reads in the pen are discarded, whole writes stay and are carried out, also those that waited for a
discarded read of their line; an AtomicOp in the pen, which Table 2.6 does not name, goes as a read does (DESIGN CHOICE, log entry 90). IDE keys, Viral and the
link's state are cleared; the teardown of the filter entries of its LDs is pending from now on (R105). -/
def resetHead (h : Nat) (s : State) : State :=
  let keep := fun (e : PenEntry) => e.whole && e.req.kind == .write
  let gone := ((s.head h).pen.filter fun e => !keep e).map fun e => e.req.id
  let was := s.linkUp h
  let s1 := { s with flight := s.flight.filter fun r => !gone.contains r.id }
  let s2 := advanceHeadEpoch h (resetRange (0x160000 + 0x4000 * h) (0x164000 + 0x4000 * h) s1)
  let l := s2.linkStart h
  let s3 := s2.updHead h fun x =>
    { x with pen := x.pen.filter keep, link := l, hostViral := false, memKey := {}, ioKey := {}, recov := [], rateCap := 4, ready := false,
             insecure := false }
  let s4 := if s3.teardown.contains h then s3 else { s3 with teardown := s3.teardown ++ [h] }
  let lost := (s4.dbLost.map fun e => (e.1, e.2.filter (· != h))).filter fun e => !e.2.isEmpty
  let s5 := injectHeld h { s4 with dbLost := lost }
  if was then s5.emit (.link h false) else s5

/-- A failed MAC check on a stream of head `h` (R55): Insecure, AER, and no more CXL.mem until a Level 1 reset and a new key exchange of that stream. -/
def macFailure (h : Nat) (st : IdeStream) (s : State) : State :=
  let f := match st with
    | .mem => Reg.HPA_IDE_STS_MEM_STATE h
    | .io => Reg.HPA_IDE_STS_IO_STATE h
  ((((s.setFld f 3).updHead h fun x => { x with insecure := true, rekey := if x.rekey.contains st then x.rekey else x.rekey ++ [st] }).emit (.aer h))).report 0x1B h

/-! ### Snoop filters: teardown (R105) and what every array holds -/

/-- Every valid filter entry of the module. -/
def State.allFilter (s : State) : List (Nat × FilterEntry) :=
  (List.range 32).flatMap fun e =>
    let a := s.filterArray e
    (if a.2 then (s.slice a.1).mirror else (s.slice a.1).filter).filter fun x => remapIndex (x.1 / 64) == e && x.2.state != 0

/-- A line marked poisoned because a host's copy of it is lost: the slice counts it and a General Media event is recorded. -/
def lostLine (la : Nat) (s : State) : State :=
  let p := la / 64
  mediaEvent 2 p (la % 64) 1 false (poisonLine p (la % 64) (s.count (Reg.HSL_POISON_TEARDOWN (s.home p))))

/-- One filter entry torn down for the LDs of `ks` (R105). -/
def tearEntry (ks : List Nat) (s : State) (x : Nat × FilterEntry) : State :=
  let f := x.2
  if !(f.lds.any ks.contains) then s
  else
    let left := ks.foldl (fun m k => m &&& ~~~ldMask k) f.holders
    if f.state = 2 then lostLine x.1 (setFilter x.1 {} s)
    else setFilter x.1 (if left = 0 then (if f.state = 3 then { f with holders := 0 } else {}) else { f with holders := left }) s

/-- A transaction that waits for a way of its filter set goes on once one is invalid, or with another victim (R82). A victim that it would have to snoop at
an LD whose teardown is pending is left (R87). -/
def retryVictim (sl id : Nat) (s : State) : State :=
  match s.txn sl id with
  | none => s
  | some t =>
    let la := lineAddr t.req.gpn t.req.line
    if t.phase ≠ .victim ∨ t.victim.isSome = true then s
    else if (s.setEntries la).length < 16 then snoopsDone sl id s
    else match s.victimOf la with
      | none => s
      | some v =>
        let ks := (s.filter v).lds
        if ks.any s.teardownOf then s
        else updTxn sl id (fun t => { t with victim := some v, snoops := ks, sentAt := s.clk }) (sendSnoops sl v .inv ks (s.count (Reg.HSL_SF_EVICT_COUNT sl)))

/-- The snoop of transaction `id` of slice `sl` to LD `k` is answered, or no longer awaited: after the last one the victim's way is taken over and the
request's own snoops go out, or the transaction goes on. A victim that a time-out has left held (STATE 3) keeps its way, and the request waits for
another (log entry 97). -/
def snoopAnswered (sl id k : Nat) (s : State) : State :=
  match s.txn sl id with
  | none => s
  | some t =>
    let left := t.snoops.filter (· != k)
    let s1 := updTxn sl id (fun t => { t with snoops := left }) s
    if !left.isEmpty then s1
    else match t.victim with
      | none => snoopsDone sl id s1
      | some v =>
        let s0 := clearSnp v (updTxn sl id (fun t => { t with victim := none }) s1)
        if (s1.filter v).state = 3 then retryVictim sl id s0
        else
        let plan := snoopPlan t.req (s1.filter (lineAddr t.req.gpn t.req.line))
        let s2 := updTxn sl id (fun t => { t with phase := .snoop, snoops := plan.targets }) (setFilter v {} s0)
        if plan.targets.isEmpty then snoopsDone sl id s2 else sendSnoops sl (lineAddr t.req.gpn t.req.line) plan.kind plan.targets s2

/-- Snoops to LD `k` are no longer awaited by any transaction. -/
def dropSnoops (k : Nat) (s : State) : State :=
  let hit := s.slices.flatMap fun e => (e.2.txns.filter fun t => t.snoops.contains k).map fun t => (e.1, t.req.id)
  forAll hit s fun u h => snoopAnswered h.1 h.2 k u

/-- The snoops that releases of LD `k` sent are no longer awaited. -/
def dropRecalls (k : Nat) (s : State) : State :=
  let las := (s.ld k).recalls.map Prod.fst
  forAll las (s.updLd k fun d => { d with recalls := [] }) fun t la => clearSnp la t

/-- The teardown of head `h` in every slice at once (R105). -/
def tearDown (h : Nat) (s : State) : State :=
  let ks := (List.range 16).filter fun k => s.bitOf (Reg.HPA_CFG_LD_MASK h) k
  let s1 := forAll s.allFilter s (tearEntry ks)
  forAll ks { s1 with teardown := s1.teardown.filter (· != h) } fun t k => dropRecalls k (dropSnoops k t)

/-! ### Releases of dynamic capacity (R50, R102, R184) -/

/-- The frames of page `p` are freed, its fill and its operation end. -/
def dropFrames (p : Nat) (s : State) : State :=
  let m := s.entry p
  let s1 := dropFill p s
  if m.state < 2 then s1
  else match (s1.desc m.frame).partner with
    | some q => freeFrame q (freeFrame m.frame s1)
    | none => freeFrame m.frame s1

/-- Releases whose pages are all zero pages are discarded completely (R184). -/
def endDiscards (s : State) : State :=
  s.onCold fun c => { c with discarding := c.discarding.filter fun d => !((s.slotOf d.2.2).all fun k => (SMap.get (0, 0) c.used k).1 == 0) }

/-- A discard of page `p` committed (Table 3.4): STATE 0, image and frames freed. -/
def discardCommit (p : Nat) (s : State) : State :=
  let s1 := dropFrames p s
  endDiscards (commitFree 4 p (fun m => { m with state := 0 }) (clearPoison p (fun _ => true) (setMarks p 0 s1)))

/-- The discard walk's visit of page `p`: a page with an open operation retries under R75. -/
def discardPage (s : State) (p : Nat) : State :=
  if (s.entry p).state = 0 then s else if s.mayOpen p then discardCommit p s else queueOp .discard p portLedger s

/-- The discard of the GiB of pages that begins at page `p0` (R184), one ledger block at a time. -/
def discardWalk (p0 : Nat) (s : State) : State :=
  if (s.slotOf p0).all (fun k => (SMap.get (0, 0) s.cold.used k).1 == 0) then s
  else forAll (List.range 1024) s fun t b => forAll (List.range 256) t fun u i => discardPage u (p0 + 256 * b + i)

/-- The discard of GiB `g` of LD `k`, whose pages begin at `p0`, begins: the range is neither offered nor granted again until it is complete (R184). -/
def startDiscard (k g p0 : Nat) (s : State) : State :=
  endDiscards (discardWalk p0 (s.onCold fun c => { c with discarding := c.discarding ++ [(k, g, p0)] }))

/-- What the CTM takes up again once it is READY: group writes that a reset cut short (R202) and discards that are not complete (R184). -/
def resumeLedger (s : State) : State :=
  let s1 := repeatUpdates s
  forAll s1.cold.discarding s1 fun t d => discardWalk d.2.2 t

/-- BISnpInv to LD `k` for every filter entry of the shared block at page `p0` that lists it and has none under way (R102); an LD whose teardown is pending
gets none (R87). -/
def recallBlock (k p0 : Nat) (s : State) : State :=
  if s.teardownOf k then s
  else forAll s.allFilter s fun t x =>
    if p0 ≤ x.1 / 64 ∧ x.1 / 64 < p0 + pagesPerGib ∧ x.2.lds.contains k ∧ t.recalled k x.1 = false then
      (sendSnoops (t.home (x.1 / 64)) x.1 .inv [k] t).updLd k fun d => { d with recalls := d.recalls ++ [(x.1, s.clk)] }
    else t

/-- Whether LD `k`'s release of the GiB that begins at page `p0` can complete: the pens hold no request for it, and for a sharable extent no filter entry of the block
lists the LD and every snoop that the release sent is answered (R50, R102). -/
def State.releaseReady (s : State) (k p0 : Nat) (shared : Bool) : Bool :=
  let inside := fun (p : Nat) => decide (p0 ≤ p) && decide (p < p0 + pagesPerGib)
  !(s.heads.any fun h => h.2.pen.any fun e => e.req.hostLd == some k && inside e.req.gpn) &&
  (!shared || (!(s.allFilter.any fun x => inside (x.1 / 64) && x.2.lds.contains k) && !((s.ld k).recalls.any fun r => inside (r.1 / 64))))

/-- The first page of the extent `e` of LD `k`. -/
def State.extentBase (s : State) (k : Nat) (e : Extent) : Nat :=
  match e.share.bind s.domainOf with
  | some d => d.firstPage
  | none => (s.ldLayout k).pageBase + e.gib * pagesPerGib

/-- Whether some LD holds extent `key`, offered or accepted. -/
def State.shareHeld (s : State) (key : Nat) : Bool := (List.range 16).any fun k => (s.ld k).extents.any fun e => e.share == some key

/-- The release of extent `e` of LD `k` completes: the LD leaves the sharing domain, and the last member's release discards the pages. The extent keeps its block
while an offer of it stands (R100). -/
def releaseDone (k : Nat) (e : Extent) (s : State) : State :=
  let p0 := s.extentBase k e
  let s1 := s.updLd k fun d => { d with extents := d.extents.filter (fun x => x.gib != e.gib), releasing := d.releasing.filter (· != e.gib) }
  let s2 := if e.frozen then s1.setFld Reg.CTM_DIST_STS_FROZEN (s1.fld Reg.CTM_DIST_STS_FROZEN - 1) else s1
  match e.share with
  | none => startDiscard k e.gib p0 s2
  | some key =>
    let left := ((s2.domainOf key).map fun d => d.members.filter (· != (k, e.gib))).getD []
    let s3 := if left.isEmpty then startDiscard k e.gib p0 s2 else s2
    if left.isEmpty && !s2.shareHeld key then s3.onCold fun c => { c with domains := c.domains.filter fun d => d.key != key }
    else s3.onCold fun c => { c with domains := c.domains.map fun d => if d.key = key then { d with members := left } else d }

/-- The releases of LD `k` that can complete do. -/
def finishReleases (s : State) (k : Nat) : State :=
  forAll (s.ld k).releasing s fun t g =>
    match (t.ld k).extents.find? fun e => e.gib == g && e.accepted with
    | none => t
    | some e =>
      let t1 := if e.share.isSome && !(t.ld k).recalls.any (fun r => decide (t.extentBase k e ≤ r.1 / 64) && decide (r.1 / 64 < t.extentBase k e + pagesPerGib))
        then recallBlock k (t.extentBase k e) t else t
      if t1.releaseReady k (t1.extentBase k e) e.share.isSome then releaseDone k e t1 else t1

end Sys2Proof.Machine
end

