-- ==== Sys2Proof/Machine/NocOps.lean ====
section
/-! DEFINITION. The shared operations of the street grid: endpoints, route tables and their check, packets at a crossing, route changes, failed
streets and crossings, and the spare-slice takeover (chapters 09 and 03). -/
namespace Sys2Proof.Machine

open Sys2Proof

/-! ### Endpoints (R286, Table 9.1) -/

/-- The crossing and the local port of endpoint `e`. -/
def epCrossing (e : Nat) : Nat := if e = 96 then 25 else if e = 97 then 17 else e / 2
def epPort (e : Nat) : Nat := if 96 ≤ e then 2 else e % 2

/-- The endpoint at local port `o` of crossing `c`, where there is one. -/
def epAt (c o : Nat) : Option Nat :=
  if o < 2 then some (2 * c + o) else if c = 25 then some 96 else if c = 17 then some 97 else none

/-- The block behind an endpoint (Table 9.1). -/
def epBlock (e : Nat) : Block :=
  let c := epCrossing e
  let x := c % 8
  let y := c / 8
  if e = 96 then .plazaPair
  else if e = 97 then .ctm
  else if e % 2 = 0 then
    (match y with
     | 0 => .channel x
     | 1 => .slice x
     | 2 => .group 0 x
     | 3 => .group 1 x
     | 4 => .slice (16 + x)
     | _ => .channel (8 + x))
  else
    (match y with
     | 0 => .stitcher x
     | 1 => .slice (8 + x)
     | 2 => if x = 0 then .head 0 else if x ≤ 4 then .engine (x - 1) else if x = 5 then .slice 32 else if x = 6 then .plazaPair else .head 1
     | 3 => if x = 0 then .head 2 else if x ≤ 4 then .engine (x + 3) else if x = 5 then .slice 33 else if x = 6 then .ctm else .head 3
     | 4 => .slice (24 + x)
     | _ => .stitcher (8 + x))

/-- The endpoint of slice `n`. -/
def sliceEp (n : Nat) : Nat :=
  if n < 8 then 2 * (8 + n) else if n < 16 then 2 * n + 1 else if n < 24 then 2 * (16 + n) else if n < 32 then 2 * (8 + n) + 1 else if n = 32 then 43 else 59

/-- The head that uses head port `k`, the port of lanes 4k to 4k + 3 (R286). -/
def State.portHead (s : State) (k : Nat) : Nat :=
  match s.fld (Reg.HPA_CFG_SPLIT 0) with
  | 0 => 0
  | 1 => k / 2
  | _ => k

/-- The block that an endpoint stands for: a head port stands for the head whose lanes it carries. -/
def State.epOwner (s : State) (e : Nat) : Block :=
  match epBlock e with
  | .head k => .head (s.portHead k)
  | b => b

/-- The transaction epoch of endpoint `e` (R303): a head's HPA_EPOCH, or its own. -/
def State.epEpoch (s : State) (e : Nat) : Nat :=
  match s.epOwner e with
  | .head h => s.headEpoch h
  | _ => SMap.get 0 s.noc.tepochs e

/-! ### Streets (R285) -/

/-- The crossing that direction `d` (0 N, 1 E, 2 S, 3 W) of crossing `c` leads to. -/
def neighbour (c d : Nat) : Option Nat :=
  let x := c % 8
  let y := c / 8
  match d with
  | 0 => if y < 5 then some (c + 8) else none
  | 1 => if x < 7 then some (c + 1) else none
  | 2 => if 0 < y then some (c - 8) else none
  | 3 => if 0 < x then some (c - 1) else none
  | _ => none

/-- The opposite direction. -/
def opposite (d : Nat) : Nat := (d + 2) % 4

/-- Streets of crossing `c` that are down, in either direction (R302). -/
def State.streetsDown (s : State) (c : Nat) : Nat :=
  ((List.range 4).filter fun d =>
    match neighbour c d with
    | none => false
    | some n => s.noc.down.contains (4 * c + d) || s.noc.down.contains (4 * n + opposite d)).length

/-- The street from crossing `c` in direction `d` is down (R302): NOC_STS counts it. -/
def streetDown (c d : Nat) (s : State) : State :=
  if s.noc.down.contains (4 * c + d) then s
  else
    let s1 := s.onNoc fun n => { n with down := n.down ++ [4 * c + d] }
    s1.setFld Reg.NOC_STS_DOWN_ST s1.noc.down.length

/-- Crossing `c` has failed (R302): its bit of NOC_XFAIL and the count. What it holds is lost. -/
def crossingFail (c : Nat) (s : State) : State :=
  if s.noc.failed.contains c then s
  else
    let s1 := s.onNoc fun n =>
      { n with failed := n.failed ++ [c], bufs := SMap.keep (fun k => k / 24 / 7 != c) n.bufs, outs := SMap.keep (fun e => epCrossing e != c) n.outs }
    let s2 := if c < 32 then s1.setBitOf Reg.NOC_XFAIL_LO_MASK c true else s1.setBitOf Reg.NOC_XFAIL_HI_MASK (c - 32) true
    s2.setFld Reg.NOC_STS_FAILED_X s2.noc.failed.length

/-- The blocks at failed crossing `c` that are fenced with it (R302): those with no endpoint at a crossing that still serves. -/
def State.crossingBlocks (s : State) (c : Nat) : List Block :=
  ((List.range 3).filterMap fun o => (epAt c o).map s.epOwner).filter fun b =>
    (List.range 98).all fun e => s.epOwner e != b || s.noc.failed.contains (epCrossing e)

/-! ### Route tables (R295, R299) -/

/-- X-first-then-Y (R295): the output that crossing `c` has for endpoint `e`. -/
def defaultRoute (c e : Nat) : Nat :=
  let t := epCrossing e
  if c % 8 < t % 8 then 1
  else if t % 8 < c % 8 then 3
  else if c / 8 < t / 8 then 0
  else if t / 8 < c / 8 then 2
  else 4 + epPort e

/-- The key of a route-table entry. -/
def routeKey (copy inj : Bool) (node entry : Nat) : Nat := (copy.toNat * 2 + inj.toNat) * 16384 + node * 128 + entry

/-- The default of the entry with key `k`: the default crossing route, or the slice that the built-in safe layout maps the remap entry to (R71). -/
def routeDefault (k : Nat) : Nat :=
  if k / 16384 % 2 = 0 then defaultRoute (k / 128 % 128) (k % 128) else sliceEp (k % 128)

/-- A route-table entry of a copy. -/
def State.routeAt (s : State) (copy inj : Bool) (node entry : Nat) : Nat :=
  let k := routeKey copy inj node entry
  SMap.get (routeDefault k) s.noc.tables k

/-- A route-table entry of a copy set. -/
def setRoute (copy inj : Bool) (node entry v : Nat) (s : State) : State :=
  let k := routeKey copy inj node entry
  s.onNoc fun n => { n with tables := SMap.put (routeDefault k) n.tables k v }

/-- The injection tables of a copy sending remap entry `e` to slice `n`. -/
def routeEntry (copy : Bool) (e n : Nat) (s : State) : State :=
  forAll (List.range 98) s fun t ep => setRoute copy true ep e (sliceEp n) t

/-- The street dependencies of a copy's crossing tables: a packet that takes street `4 c + d` goes on to another street (R295). -/
def State.streetDeps (s : State) (copy : Bool) : List (Nat × Nat) :=
  (List.range 48).flatMap fun c => (List.range 98).filterMap fun e =>
    let d := s.routeAt copy false c e
    if d < 4 then
      (match neighbour c d with
       | none => some (4 * c + d, 4 * c + d)
       | some n => let d' := s.routeAt copy false n e
                   if d' < 4 then some (4 * c + d, 4 * n + d') else none)
    else none

/-- Edges are peeled off whose target has no edge of its own; the graph is acyclic when none is left. -/
def peel : Nat → List (Nat × Nat) → Bool
  | 0, es => es.isEmpty
  | n + 1, es =>
    let rest := es.filter fun a => es.any fun b => b.1 == a.2
    if rest.length = es.length then es.isEmpty else peel n rest

/-- The check of R295 on a copy. -/
def State.routesAcyclic (s : State) (copy : Bool) : Bool := peel 192 (s.streetDeps copy).eraseDups

/-- A route change begins (Table 9.5, step 2): every injection point takes the shadow epoch; detour tables are in force where a crossing entry differs
from its default (R304). -/
def flipRoutes (s : State) : State :=
  let e := !s.noc.epoch
  let det := s.noc.tables.any fun x => x.1 / 32768 == e.toNat && x.1 / 16384 % 2 == 0
  let t := (((s.onNoc fun n => { n with epoch := e, flipping := true, declared := [], guard := none }).setBit Reg.NOC_RT_CTL_EPOCH e).setFld Reg.NOC_RT_CTL_BUSY 1).setBit
    Reg.NOC_STS_DETOUR det
  if s.on Reg.NOC_STS_DETOUR then pathsUp t else t

/-- The shadow copy made equal to the copy in use. -/
def copyShadow (s : State) : State :=
  let cur := s.noc.tables.filter fun x => x.1 / 32768 == s.noc.epoch.toNat
  let both := fun (m : SMap Nat) (x : Nat × Nat) =>
    let k := x.1 % 32768
    SMap.put (routeDefault k) (SMap.put (routeDefault k) m k x.2) (32768 + k) x.2
  s.onNoc fun n => { n with tables := cur.foldl both [] }

/-- The plaza sends remap entry `r` to slice `n` by a route change: shadow tables written, then the flip. -/
def plazaReroute (l : List (Nat × Nat)) (s : State) : State :=
  flipRoutes (forAll l (copyShadow s) fun t x => routeEntry (!t.noc.epoch) x.1 x.2 t)

/-- NOC_CFG.TMO_US in ns. -/
def State.reissueNs (s : State) : Nat := clamp 20 400 (s.fld Reg.NOC_CFG_TMO_US) * 1000

/-! ### Packets (R289 to R294) -/

/-- Flits of a packet. -/
def flits (p : Packet) : Nat := 1 + p.len

/-- A class as R291 numbers it, and its rank under R293: RSP before SNP before REQ. -/
def clsCode : PktClass → Nat
  | .req => 0
  | .snp => 1
  | .rsp => 2

/-- HCHK of a packet header: CRC-16 over its bytes 2 to 15 (R519). -/
def headerCheck (h : BitVec 128) : Nat := Crypto.crc16 ((List.range 14).map fun i => byteAt h (i + 2))

/-- The 16 bytes of a packet header (Table 9.3), HCHK included; little-endian, as every structure is (R9). -/
def packHeader (p : Packet) : BitVec 128 :=
  let v := clsCode p.cls * 2 ^ 126 + p.lane % 4 * 2 ^ 124 + p.be.toNat * 2 ^ 123 + p.svc % 8 * 2 ^ 120 + p.repoch.toNat * 2 ^ 119 + p.hint % 4 * 2 ^ 117 +
    p.len % 8 * 2 ^ 114 + p.retry.toNat * 2 ^ 113 + p.opc % 64 * 2 ^ 107 + p.tepoch % 256 * 2 ^ 99 + p.dst % 128 * 2 ^ 92 + p.src % 128 * 2 ^ 85 +
    p.mport % 64 * 2 ^ 79 + p.tag % 4096 * 2 ^ 67 + p.dl % 2 ^ 24 * 2 ^ 43 + p.bnd % 65536 * 2 ^ 27 + p.far.toNat * 2 ^ 26
  BitVec.ofNat 128 (v + headerCheck (BitVec.ofNat 128 v))

/-- Whether a header's HCHK holds (R290). -/
def headerHolds (h : BitVec 128) : Bool := h.toNat % 65536 == headerCheck h

/-- The fields of a header; none for the reserved class. -/
def readHeader (h : BitVec 128) : Option Packet :=
  let n := h.toNat
  let mk := fun (c : PktClass) => some
    { cls := c, lane := n / 2 ^ 124 % 4, be := n.testBit 123, svc := n / 2 ^ 120 % 8, repoch := n.testBit 119, hint := n / 2 ^ 117 % 4, len := n / 2 ^ 114 % 8,
      retry := n.testBit 113, opc := n / 2 ^ 107 % 64, tepoch := n / 2 ^ 99 % 256, dst := n / 2 ^ 92 % 128, src := n / 2 ^ 85 % 128, mport := n / 2 ^ 79 % 64,
      tag := n / 2 ^ 67 % 4096, dl := n / 2 ^ 43 % 2 ^ 24, bnd := n / 2 ^ 27 % 65536, far := n.testBit 26 : Packet }
  match n / 2 ^ 126 with
  | 0 => mk .req
  | 1 => mk .snp
  | 2 => mk .rsp
  | _ => none

/-- The key of an input buffer. -/
def bufKey (c port : Nat) (p : Packet) : Nat := ((c * 7 + port) * 2 + p.repoch.toNat) * 12 + clsCode p.cls * 4 + p.lane % 4

/-- The packets in an input buffer. -/
def State.buf (s : State) (k : Nat) : List Queued := SMap.get [] s.noc.bufs k

/-- Whether an input buffer of 8 flits has room for packet `p` (R291). -/
def State.bufRoom (s : State) (k : Nat) (p : Packet) : Bool := decide (((s.buf k).map fun q => flits q.pkt).foldl (· + ·) 0 + flits p ≤ 8)

/-- A packet put into an input buffer. -/
def pushBuf (k : Nat) (p : Packet) (s : State) : State :=
  s.onNoc fun n => { n with bufs := SMap.upd [] n.bufs k fun l => l ++ [{ pkt := p, at_ := s.clk }] }

/-- The oldest packet of an input buffer taken out. -/
def popBuf (k : Nat) (s : State) : State := s.onNoc fun n => { n with bufs := SMap.upd [] n.bufs k List.tail }

/-- r of R292 as a signed 24-bit value. -/
def slack (dl now : Nat) : Int :=
  let r : Nat := (dl + 2 ^ 24 - now % 2 ^ 24) % 2 ^ 24
  (r : Int) - (if r < 2 ^ 23 then 0 else ((2 ^ 24 : Nat) : Int))

/-- ESC1 and ESC2 of QOS_LANE_CFG as they act. -/
def State.esc1 (s : State) : Nat := clamp 1 98 (s.fld Reg.QOS_LANE_CFG_ESC1)
def State.esc2 (s : State) : Nat := Nat.max (s.esc1 + 1) (s.fld Reg.QOS_LANE_CFG_ESC2)

/-- The lane of a packet as a crossing raises it (R292, Table 8.2). -/
def State.raisedLane (s : State) (p : Packet) : Nat :=
  let now := s.time / 16 % 2 ^ 24
  if p.be then
    (if p.lane = 0 ∧ 1000 * zeroAsOne (s.fld Reg.QOS_LANE_CFG_BE_AGE_US) ≤ 16 * ((now + 2 ^ 24 - p.dl % 2 ^ 24) % 2 ^ 24) then 1 else p.lane)
  else if p.far then p.lane
  else
    let r := slack p.dl now
    let at_ := fun (pct : Nat) => decide (r * 100 ≤ (((100 - pct) * p.bnd : Nat) : Int))
    if r ≤ 0 then 3
    else if p.svc ≤ 1 then (if at_ s.esc1 then 3 else p.lane)
    else if at_ s.esc2 then 3
    else if at_ s.esc1 then Nat.max p.lane 2
    else p.lane

/-- A request as its endpoint injects it (R261, R292, Table 8.2): on its starting lane, with FAR, DL and BND from its start and its bound. A packet of another class goes as it is. -/
def State.stamped (s : State) (p : Packet) (start bound : Nat) : Packet :=
  if p.cls != .req then p
  else if p.be then { p with lane := 0, far := false, dl := s.time / 16 % 2 ^ 24, bnd := 0 }
  else
    let far := decide (67108864 < start + bound - s.time)
    { p with lane := if p.svc ≤ 1 then 2 else 1
             far := far
             dl := (if far then s.time / 16 + 2 ^ 22 else (start + bound) / 16) % 2 ^ 24
             bnd := Nat.min 65535 (bound / 16) }

/-- The output that packet `p` takes at crossing `c`. -/
def State.outputOf (s : State) (c : Nat) (p : Packet) : Nat := s.routeAt p.repoch false c p.dst

/-- The first packets of the input buffers of crossing `c`, with their buffer's key and port. -/
def State.candidates (s : State) (c : Nat) : List (Nat × Nat × Packet) :=
  (s.noc.bufs.filter fun e => e.1 / 168 == c).filterMap fun e => (e.2.head?).map fun q => (e.1, e.1 / 24 % 7, q.pkt)

/-- The streets from crossing `c` to endpoint `e` under the tables in force; 1,000 where they lead nowhere. -/
def State.streetsTo (s : State) (e : Nat) : Nat → Nat → Nat
  | 0, _ => 1000
  | n + 1, c =>
    let d := s.routeAt s.noc.epoch false c e
    if 4 ≤ d then 0
    else match neighbour c d with
      | some c' => 1 + s.streetsTo e n c'
      | none => 1000

/-- The head endpoints, ports 0 to 3. -/
abbrev headEps : List Nat := [33, 47, 49, 63]

/-- Whether the crossing of endpoint `e` is up. -/
def State.epUp (s : State) (e : Nat) : Bool := !s.noc.failed.contains (epCrossing e)

/-- The endpoint at which the block at endpoint `ep` injects packet `p` (R287): a head's request goes in at the port of the head with the fewest streets to its destination, the
lower port of equals; the CTM and the plaza use their first port while its crossing is up, else the second. -/
def State.injectEp (s : State) (ep : Nat) (p : Packet) : Nat :=
  match s.epOwner ep with
  | .head h =>
    if p.cls != .req then ep
    else
      ((headEps.filter fun e => s.epOwner e == .head h && s.epUp e).foldl (fun (a : Option Nat) e => match a with
        | none => some e
        | some b => if s.streetsTo p.dst 48 (epCrossing e) < s.streetsTo p.dst 48 (epCrossing b) then some e else some b) none).getD ep
  | .ctm => if s.epUp 61 then 61 else 97
  | .plazaPair => if s.epUp 45 then 45 else 96
  | _ => ep

/-- The packets injected and their bytes are counted for their master port (R305); a request's injection is kept until its last response. -/
def countInject (p : Packet) (s : State) : State :=
  let s1 := s.onNoc fun n => { n with mp := SMap.upd (0, 0, 0, 0) n.mp p.mport fun m => (satAdd 32 m.1 1, m.2.1 + 64 * flits p, m.2.2.1, m.2.2.2) }
  match p.cls with
  | .req => s1.onNoc fun n => { n with sent := (p.mport, p.tag, s.clk, s.clk) :: n.sent.filter fun x => !(x.1 == p.mport && x.2.1 == p.tag) }
  | _ => s1

/-- A response of master port and tag is ejected: the request's latency counts up to it (R305). -/
def countEject (p : Packet) (s : State) : State :=
  match s.noc.sent.find? fun x => x.1 == p.mport && x.2.1 == p.tag with
  | none => s
  | some (m, t, t0, last) =>
    s.onNoc fun n => { n with
      mp := SMap.upd (0, 0, 0, 0) n.mp m fun x => (x.1, x.2.1, x.2.2.1 + (s.clk - last), Nat.min (2 ^ 32 - 1) (Nat.max x.2.2.2 (s.clk - t0)))
      sent := (m, t, t0, s.clk) :: n.sent.filter fun x => !(x.1 == m && x.2.1 == t) }

/-- The answer that a crossing gives in an endpoint's place (R298, R303): a response to the packet's source with an operation code of its own, whose
encoding the spec does not give. -/
def crossingAnswer (c : Nat) (p : Packet) (s : State) : State :=
  let r : Packet := { p with cls := .rsp, dst := p.src, src := p.dst, len := 0, hint := 0, opc := (s.freeVal 6).toNat }
  pushBuf (bufKey c 4 r) r s.spent

/-- Packet `p` reaches local output `o` of crossing `c`: it waits to be ejected; at a closed gate a REQ waits in the gate's buffer of 16 or is
answered RESOURCE (R298). The domain to wake, if any, is returned. -/
def toLocal (c o : Nat) (p : Packet) (s : State) : Option Nat × State :=
  match epAt c o with
  | none => (none, s.count Reg.NOC_DROP_DOWN)
  | some ep =>
    let b := s.epOwner ep
    let q : Queued := { pkt := p, at_ := s.clk }
    if s.isFenced b then
      (match p.cls with
       | .req => (none, match b with
         | .slice _ => crossingAnswer c p s
         | _ => (crossingAnswer c p s).report 0x1F b.dom [p.src, p.dst, p.mport, p.tag])
       | _ => (none, s.count Reg.NOC_DROP_FENCED))
    else if p.cls == .req && s.noc.closed.contains b.dom then
      (if (SMap.get [] s.noc.gates ep).length < 16 then
         (some b.dom, s.onNoc fun n => { n with gates := SMap.upd [] n.gates ep fun l => l ++ [q] })
       else (some b.dom, crossingAnswer c p s))
    else (none, s.onNoc fun n => { n with outs := SMap.upd [] n.outs ep fun l => l ++ [q] })

/-- The gates of domain `d` open: the packets that waited go on in arrival order (R298). -/
def openGates (d : Nat) (s : State) : State :=
  let mine := fun (ep : Nat) => (s.epOwner ep).dom == d
  s.onNoc fun n =>
    { n with
      closed := n.closed.filter (· != d)
      gates := SMap.keep (fun e => !mine e) n.gates
      outs := (n.gates.filter fun e => mine e.1).foldl (fun m e => SMap.upd [] m e.1 fun l => l ++ e.2) n.outs }

/-- Whether crossing `c` may declare its old epoch drained (R300): it holds no old-epoch packet, and every neighbour from which its old-epoch routes
receive packets has declared. -/
def State.drainedAt (s : State) (c : Nat) : Bool :=
  let old := !s.noc.epoch
  !(s.noc.bufs.any fun e => e.1 / 168 == c && decide (e.1 / 12 % 2 = old.toNat) && !e.2.isEmpty) &&
  (List.range 4).all fun d => match neighbour c d with
    | none => true
    | some n => s.noc.failed.contains n || s.noc.declared.contains n ||
        !((List.range 98).any fun e => s.routeAt old false n e == opposite d)

/-! ### The spare-slice takeover (R107 to R111, Table 3.6) -/

/-- The takeover of entry `e` changed by `f`. -/
def updTakeover (e : Nat) (f : Takeover → Takeover) (s : State) : State :=
  { s with takeovers := s.takeovers.map fun t => if t.entry = e then f t else t }

/-- A free spare slice taken for entry `e`: SPARE0 before SPARE1, and never the slice that `e` was taken from (R111). R108 and R110 do not say which of two free
spares is taken, nor which entry of a failed pair gets a sole one: here it is the entry of the slice that failed last (DESIGN CHOICE, log entry 98). -/
def takeSpare (e : Nat) (s : State) : Option Nat × State :=
  let may := fun (n : Nat) => !(s.takeover e).any (fun t => t.failed == n) && s.remap e != n
  if s.on Reg.HSC_SPARE_FREE0 && may (s.fld Reg.HSC_SPARE_SPARE0) then (some (s.fld Reg.HSC_SPARE_SPARE0), s.setFld Reg.HSC_SPARE_FREE0 0)
  else if s.on Reg.HSC_SPARE_FREE1 && may (s.fld Reg.HSC_SPARE_SPARE1) then (some (s.fld Reg.HSC_SPARE_SPARE1), s.setFld Reg.HSC_SPARE_FREE1 0)
  else (none, s)

/-- HSL_STS of slice `n`. -/
def setRole (n role entry entry2 : Nat) (s : State) : State :=
  ((s.setFld (Reg.HSL_STS_ROLE n) role).setFld (Reg.HSL_STS_ENTRY n) entry).setFld (Reg.HSL_STS_ENTRY2 n) entry2

/-- The buddy replays the transaction mirror of entry `e` (Table 3.6, step 2): the open transactions of the failed slice `k` run again from their
acceptance, and accesses and snoops of theirs are made anew. -/
def replay (e k b : Nat) (s : State) : State :=
  let rs := (s.slice b).txMirror.filter fun r => remapIndex r.gpn == e
  let ids := rs.map Req.id
  let s1 := s.updSlice k fun x => { x with txns := [], tickets := [], entries := [] }
  let s2 := { s1 with dram := { s1.dram with groups := SMap.mapAll (fun _ => {}) (fun _ g =>
    { g with rq := g.rq.filter (fun a => !ids.contains a.id), wq := g.wq.filter fun a => !ids.contains a.id }) s1.dram.groups } }
  let s3 := s2.updSlice b fun x => { x with completed := x.completed ++ (s.slice k).completed }
  forAll rs s3 fun t r => openTxn b r t

/-- Every head that presents an LD with an HDM-DB range (R41, R110). -/
def State.dbHeads (s : State) : List Nat := (List.range 4).filter fun h => (s.ldsOf h).any fun k => !(s.ldLayout k).db.isEmpty

/-- The filter of entry `e` is lost (R110). -/
def loseFilter (e : Nat) (s : State) : State :=
  let hs := s.dbHeads
  if hs.isEmpty then s else { s with dbLost := s.dbLost.filter (fun x => x.1 != e) ++ [(e, hs)] }

/-- The route change to the spare (Table 3.6, step 8): the remap table names it. -/
def moveToSpare (e sp : Nat) (s : State) : State :=
  let s1 := (plazaReroute [(e, sp)] s).setFld (Reg.HSC_REMAP_SLICE e) sp
  setRole sp 0 e 0 (updTakeover e (fun t => { t with step := 8 }) s1)

/-- A takeover that waits for a route change gets it as soon as none is under way (R300): to the buddy at step 2, and after a double failure to a spare that has
been powered (R110). -/
def rerouteTakeovers (s : State) : State :=
  if s.noc.flipping then s
  else
    let two := s.takeovers.filter fun t => t.step == 2
    if two.isEmpty then
      match s.takeovers.find? fun t => t.double && t.step == 5 with
      | some t => (match t.spare with
        | some sp => moveToSpare t.entry sp s
        | none => s)
      | none => s
    else { plazaReroute (two.map fun t => (t.entry, s.buddyOf t.entry)) s with
           takeovers := s.takeovers.map fun t => if t.step = 2 then { t with step := 3 } else t }

/-- Entry `e`'s filter is lost with both slices of its pair: a free spare takes it with an empty filter, or its requests stay with QUIESCE (R110). -/
def doubleFailure (e k : Nat) (s : State) : State :=
  let (sp, s1) := match s.takeover e with
    | some t => (match t.spare with
      | some x => (some x, s.updSlice x fun y => { y with filter := [], mirror := [], uses := 0 })
      | none => takeSpare e s)
    | none => takeSpare e s
  let powered := (s.takeover e).any fun t => decide (5 ≤ t.step) && t.spare == sp
  let t : Takeover := { entry := e, failed := k, spare := sp, step := if powered then 5 else 4, double := true }
  loseFilter e { s1 with takeovers := s1.takeovers.filter (fun x => x.entry != e) ++ [t] }

/-- Slice `k` serves no more: fenced, or idled at a Level 3 reset's timeout (R107, R108, R438). Its buddy takes its entry over; a spare that was to
take an entry is replaced by the next free one. -/
def sliceLost (k : Nat) (s : State) : State :=
  let s0 := s.updSlice k fun x => { x with fenced := true }
  let own := (List.range 32).filter fun e => s.remap e == k && (s.takeover e).isNone
  let s1 := forAll own s0 fun t e =>
    let b := t.buddyOf e
    if (t.slice b).fenced || (t.takeover (e ^^^ 1)).any (fun x => decide (x.step < 8)) then
      let t1 := doubleFailure e k t
      if (t1.takeover (e ^^^ 1)).any fun x => !x.double then doubleFailure (e ^^^ 1) b t1 else t1
    else
      let (sp, t1) := takeSpare e t
      let t2 := { t1 with takeovers := t1.takeovers ++ [{ entry := e, failed := k, spare := sp, step := 2 }] }
      setRole b 2 (e ^^^ 1) e (replay e k b t2)
  let s2 := if own.isEmpty then
      (if s.fld Reg.HSC_SPARE_SPARE0 = k then s1.setFld Reg.HSC_SPARE_FREE0 0
       else if s.fld Reg.HSC_SPARE_SPARE1 = k then s1.setFld Reg.HSC_SPARE_FREE1 0 else s1)
    else s1
  let held := s2.takeovers.filter fun t => t.spare == some k
  let s3 := forAll held s2 fun u t =>
    let (sp, u1) := takeSpare t.entry u
    updTakeover t.entry (fun t => { t with spare := sp, step := if t.double then 4 else if t.step = 8 then 2 else 4 }) u1
  rerouteTakeovers (setRole k 3 0 0 s3)

/-- Slice `n` becomes a free spare (R111): it takes its own place or a used spare's in HSC_SPARE; with both places free it has none. -/
def becomeSpare (n : Nat) (s : State) : State :=
  let s1 := setRole n 1 0 0 (s.updSlice n fun _ => {})
  if s.fld Reg.HSC_SPARE_SPARE0 = n then s1.setFld Reg.HSC_SPARE_FREE0 1
  else if s.fld Reg.HSC_SPARE_SPARE1 = n then s1.setFld Reg.HSC_SPARE_FREE1 1
  else if !s.on Reg.HSC_SPARE_FREE0 then (s1.setFld Reg.HSC_SPARE_SPARE0 n).setFld Reg.HSC_SPARE_FREE0 1
  else if !s.on Reg.HSC_SPARE_FREE1 then (s1.setFld Reg.HSC_SPARE_SPARE1 n).setFld Reg.HSC_SPARE_FREE1 1
  else s1

/-- The guard after a flip has passed: the buddy serves entry `e` (step 4), or the spare does and the takeover is over (step 9). -/
def takeoverGuard (s : State) (t : Takeover) : State :=
  if t.step = 3 then updTakeover t.entry (fun t => { t with step := 4 }) s
  else if t.step = 8 then
    let b := s.buddyOf t.entry
    let s1 := { s with takeovers := s.takeovers.filter fun x => x.entry != t.entry }
    if t.double then s1
    else setRole b 0 (t.entry ^^^ 1) 0 s1
  else s

end Sys2Proof.Machine
end

