-- ==== Sys2Proof/Machine/DramOps.lean ====
section
/-! DEFINITION. The shared operations of the DDR5 channels and the channel-maintenance unit: slots, fence records, failures of ranks, DIMMs and
channels, tack blocks, coverage, restore writes and the service commands (chapter 07). -/
namespace Sys2Proof.Machine

open Sys2Proof

/-! ### Slots and fence records (R250) -/

/-- What slot `z` of channel `ch` holds beside DCC_SLOT. -/
def State.dimm (s : State) (ch z : Nat) : DimmSlot := (s.dcc ch).slots.getD z {}

/-- That, changed by `f`. -/
def updDimm (ch z : Nat) (f : DimmSlot → DimmSlot) (s : State) : State :=
  s.updDcc ch fun d => { d with slots := d.slots.set z (f (d.slots.getD z {})) }

/-- The instance of a DIMM slot (R330). -/
def slotInst (ch z : Nat) : Nat := 2 * ch + z

/-- DCC_SLOT[z].STATE set. -/
def setSlotState (ch z v : Nat) (s : State) : State := s.setFld (Reg.DCC_SLOT_STATE ch z) v

/-- The serial number that the slot's SPD gave. -/
def State.serialOf (s : State) (ch z : Nat) : Nat := ((s.dimm ch z).info.map SpdInfo.serial).getD 0

/-- The fence record of a slot, or of a channel (no slot). -/
def State.fenceRecord (s : State) (ch : Nat) (slot : Option Nat) : Option FenceRecord := s.flash.fences.find? fun r => r.ch == ch && r.slot == slot

/-- A fence record erased. -/
def eraseRecord (ch : Nat) (slot : Option Nat) (s : State) : State :=
  s.onFlash fun f => { f with fences := f.fences.filter fun r => !(r.ch == ch && r.slot == slot) }

/-- A fence record written; an earlier one of the same slot or channel is replaced. -/
def writeRecord (r : FenceRecord) (s : State) : State :=
  (eraseRecord r.ch r.slot s).onFlash fun f => { f with fences := f.fences ++ [r] }

/-! ### The queues of a channel controller (R224, R228) -/

/-- The answer of channel `ch` to the read of seam `seam` for job `id`; none is an erasure. -/
def giveStitch (id ch seam : Nat) (v : Option Stitch) (s : State) : State :=
  updJob id (fun j => { j with got := j.got ++ [(seam, ch, v)] }) s

/-- The queued reads that `p` names are answered as erasures. -/
def failReads (ch : Nat) (p : Nat → Bool) (s : State) : State :=
  let hit := (s.dcc ch).rq.filter fun r => p r.seam
  forAll hit (s.updDcc ch fun d => { d with rq := d.rq.filter fun r => !p r.seam }) fun t r => giveStitch r.job ch r.seam none t

/-- WQ_HIGH and WQ_LOW as they act (R226). -/
def State.wqHigh (s : State) (ch : Nat) : Nat := zeroAsOne (s.fld (Reg.DCC_SCHED_WQ_HIGH ch))
def State.wqLow (s : State) (ch : Nat) : Nat := Nat.min (s.fld (Reg.DCC_SCHED_WQ_LOW ch)) (s.wqHigh ch - 1)

/-- A write drain begins, ends or stays as it is by what the write queue holds (R226). -/
def settleDrain (ch : Nat) (s : State) : State :=
  let n := (s.dcc ch).wq.length
  if s.wqHigh ch ≤ n then s.setFld (Reg.DCC_STS_DRAIN ch) 1
  else if n ≤ s.wqLow ch then (s.setFld (Reg.DCC_STS_DRAIN ch) 0).updDcc ch fun d => { d with run := 0 }
  else s

/-- The queued writes that `p` names are not carried out: their stitches are erasures. -/
def dropWrites (ch : Nat) (p : Nat → Bool) (s : State) : State :=
  let hit := (s.dcc ch).wq.filter fun w => p w.seam
  settleDrain ch (forAll hit (s.updDcc ch fun d => { d with wq := d.wq.filter fun w => !p w.seam }) fun t w => skipStitch ch w.seam t)

/-- The write queue of channel `ch` completed, oldest write first (R166, R230). -/
def flushWrites (ch : Nat) (s : State) : State :=
  let s1 := forAll (s.dcc ch).wq s fun t w => putStitch ch w.seam w.data t
  (s1.updDcc ch fun d => { d with wq := [], run := 0 }).setFld (Reg.DCC_STS_DRAIN ch) 0

/-- The queued reads of channel `ch` completed. -/
def flushReads (ch : Nat) (s : State) : State :=
  let s1 := forAll (s.dcc ch).rq s fun t r => giveStitch r.job ch r.seam (some r.val) t
  s1.updDcc ch fun d => { d with rq := [] }

/-- Channel `ch` enters self-refresh: what its queues hold is completed, every bank is precharged (R230). -/
def enterSelfRefresh (ch : Nat) (s : State) : State :=
  ((flushReads ch (flushWrites ch s)).setFld (Reg.DCC_STS_SR ch) 1).updDcc ch fun d =>
    { d with stopped := true, rows := [], due := [], ahead := [], srTemps := s.reg (Reg.DCC_TEMP ch) }

/-- Whether some sensor has moved by more than 10 °C between two values of DCC_TEMP. -/
def tempMoved (a b : Word) : Bool :=
  (List.range 4).any fun i =>
    let x := (byteAt a i).toNat
    let y := (byteAt b i).toNat
    x != 255 && y != 255 && (decide (x + 10 < y) || decide (y + 10 < x))

/-- Channel `ch` leaves self-refresh; ZQ calibration runs where a DIMM's temperature has moved by more than 10 °C (R230). -/
def leaveSelfRefresh (ch : Nat) (s : State) : State :=
  (s.setFld (Reg.DCC_STS_SR ch) 0).updDcc ch fun d => { d with stopped := false, zqCal := tempMoved d.srTemps (s.reg (Reg.DCC_TEMP ch)) }

/-! ### Rows (R223, R227) -/

/-- The bank of a seam's stitch on channel `ch`, with slot and rank in its number, and its row (R223; log entry 32). -/
def State.bankOf (s : State) (ch seam : Nat) : Nat × Nat :=
  let z := s.slotOfSeam seam
  let r := s.rankOf ch seam
  let run := (seam - z * s.slotSeams - r * (s.slotSeams / 2 ^ s.fld (Reg.DCC_SLOT_RANKS ch z))) / 32
  ((z * 4 + r) * 32 + run % 8 * 4 + run / 8 % 4, run / 32)

/-- The row of an access open afterwards, or closed by auto-precharge (R227). -/
def touchRow (ch bank row : Nat) (keep : Bool) (s : State) : State :=
  s.updDcc ch fun d => { d with rows := (d.rows.filter fun o => o.bank != bank) ++ (if keep then [{ bank := bank, row := row, at_ := s.clk }] else []) }

/-- A request for seam `seam` arrives: an open row of its bank that is not its row closes (R227). -/
def arriveAt (ch seam : Nat) (s : State) : State :=
  let b := s.bankOf ch seam
  s.updDcc ch fun d => { d with rows := d.rows.filter fun o => o.bank != b.1 || o.row == b.2 }

/-- The rows of the stitches of seam `seam` on the channels `chs`, which maintenance reads with the OPEN hint (R227). -/
def readRows (seam : Nat) (chs : List Nat) (s : State) : State :=
  forAll (chs.filter fun c => (s.rawStitch c seam).isSome) s fun t c => let b := t.bankOf c seam; touchRow c b.1 b.2 true t

/-- The write queue of every channel completed. -/
def drainWrites (s : State) : State := forAll (List.range 16) s fun t c => flushWrites c t

/-! ### Tack blocks (R242 to R245) -/

/-- The block assigned to slot `z` of channel `ch`. -/
def State.blockOf (s : State) (ch z : Nat) : Option Nat :=
  (List.range 4).find? fun b => s.on (Reg.DCM_BLK_VALID b) && s.fld (Reg.DCM_BLK_CH b) == ch && s.fld (Reg.DCM_BLK_SLOT b) == z

/-- The lowest-numbered free block in the slot other than `z` (R245). -/
def State.freeBlock (s : State) (z : Nat) : Option Nat :=
  if !s.twoDpc then none
  else (List.range (s.fld Reg.CTM_TACK_DIMMS)).find? fun b => s.blockSlot b != z && !s.on (Reg.DCM_BLK_VALID b) && !s.on (Reg.DCM_BLK_BORROWED b)

/-- 64 MiB units of one slot (R246). -/
def State.slotUnits (s : State) : Nat := s.slotSegs / 64

/-- The body of a rebuild-family checkpoint (Table 7.7), and the bits that name the block. -/
def rebuildBody (op ch z b done : Nat) : Nat :=
  2 ^ 236 + op * 2 ^ 233 + ch * 2 ^ 229 + z * 2 ^ 228 + b * 2 ^ 226 + done * 2 ^ 210
def rebuildMask : Nat := 15 * 2 ^ 236 + 3 * 2 ^ 226

/-- Block `b` assigned to slot `z` of channel `ch` for operation `op`, which starts (R245, R251). -/
def assignBlock (op ch z b : Nat) (s : State) : State :=
  let s1 := ((((s.setFld (Reg.DCM_BLK_VALID b) 1).setFld (Reg.DCM_BLK_OP b) op).setFld (Reg.DCM_BLK_CH b) ch).setFld (Reg.DCM_BLK_SLOT b) z).setFld
    (Reg.DCM_BLK_DONE b) 0
  ((s1.setFld Reg.CTM_TACK_IN_USE (s.fld Reg.CTM_TACK_IN_USE + 1)).vendor 0 0x0120 [ch, z, b, op]).onDcm fun d =>
    { d with pend := d.pend.filter (· != slotInst ch z), unitAt := d.unitAt.set b s.clk }

/-- Operation `op` of a block starts for slot `z` of channel `ch`, or its range runs as erasures until a block frees (R245). -/
def startCover (op ch z : Nat) (s : State) : State :=
  match s.freeBlock z with
  | some b => assignBlock op ch z b s
  | none =>
    if s.dram.dcm.pend.contains (slotInst ch z) then s
    else (s.onDcm fun d => { d with pend := d.pend ++ [slotInst ch z] }).vendor 1 0x0125 [ch, z]

/-- The ranges that wait for a block take those that are free. -/
def serveBlocks (s : State) : State :=
  forAll s.dram.dcm.pend s fun t k =>
    match t.freeBlock (k % 2) with
    | some b => assignBlock 1 (k / 2) (k % 2) b t
    | none => t

/-- Block `b` is freed: its coverage bits are cleared and a checkpoint with OP 0 is journaled (R253, R255). -/
def freeTack (b : Nat) (s : State) : State :=
  let ch := s.fld (Reg.DCM_BLK_CH b)
  let z := s.fld (Reg.DCM_BLK_SLOT b)
  let s1 := (s.setReg (Reg.DCM_BLK b) 0).onDcm fun d => { d with cover := SMap.keep (fun k => k / 1048576 != b) d.cover }
  let s2 := checkpoint (rebuildBody 0 ch z b 0) rebuildMask (s1.setFld Reg.CTM_TACK_IN_USE (s.fld Reg.CTM_TACK_IN_USE - 1))
  serveBlocks (s2.vendor 0 0x0121 [ch, z, b])

/-- A range whose DIMM or rank has failed is covered (R245): an evacuation goes on as a rebuild, a failed restore leaves the block to coverage refresh,
an evacuated range is covered already, and any other is rebuilt. During start-up this waits for the CTM. `was`: the slot's STATE before. -/
def coverRange (ch z was : Nat) (s : State) : State :=
  if s.fld Reg.RST_STS_PHASE ≠ 0 then s
  else match s.blockOf ch z with
    | none => startCover 1 ch z s
    | some b =>
      if was = 4 then s.setFld (Reg.DCM_BLK_OP b) 1
      else if was = 8 then s.setFld (Reg.DCM_BLK_OP b) 3
      else if was = 5 ∨ s.fld (Reg.DCM_BLK_OP b) = 1 ∧ s.fld (Reg.DCM_BLK_DONE b) = 0 then s
      else ((s.setFld (Reg.DCM_BLK_OP b) 1).setFld (Reg.DCM_BLK_DONE b) 0).vendor 0 0x0120 [ch, z, b, 1]

/-! ### Failures (R241, Table 7.5) -/

/-- Channel `ch` fenced: every stitch on it is an erasure, and no rebuild begins; an evacuation from it goes on by solving, a restore to it stops. -/
def failChannel (ch cause : Nat) (s : State) : State :=
  if s.on (Reg.DCC_STS_FENCED ch) then s
  else
    let s1 := ((s.setFld (Reg.DCC_STS_FENCED ch) 1).setFld (Reg.DCC_STS_READY ch) 0).setFld (Reg.DCC_STS_TRAINING ch) 0
    let s2 := dropWrites ch (fun _ => true) (failReads ch (fun _ => true) s1)
    let s3 := forAll (List.range 4) (writeRecord { ch := ch, cause := cause } s2) fun t b =>
      if t.on (Reg.DCM_BLK_VALID b) ∧ t.fld (Reg.DCM_BLK_CH b) = ch then
        (if t.fld (Reg.DCM_BLK_OP b) = 2 then t.setFld (Reg.DCM_BLK_OP b) 1
         else if t.fld (Reg.DCM_BLK_OP b) = 4 then t.setFld (Reg.DCM_BLK_OP b) 3 else t)
      else t
    (s3.fenceOff (.channel ch)).expose 0x08 ch

/-- What a start-up leaves to be covered (R245, R249): the ranges of failed slots and of retired ranks. A block that a Level 4 reset found assigned goes on with what it does; after
Level 5, when nothing has been written, coverage refresh does it all. -/
def coverAfterStart (lvl : Nat) (s : State) : State :=
  forAll (List.range 32) s fun t k =>
    if (t.slotState (k / 2) (k % 2) = 7 ∨ t.fld (Reg.DCC_SLOT_RET (k / 2) (k % 2)) ≠ 0) ∧ t.blockOf (k / 2) (k % 2) = none ∧ ¬ t.on (Reg.DCC_STS_FENCED (k / 2))
    then startCover (if lvl = 5 then 3 else 1) (k / 2) (k % 2) t else t

/-- Whether slot `z` of a channel has failed or holds no DIMM in service. -/
def State.slotFailed (s : State) (ch z : Nat) : Bool := [0, 7, 9, 10].contains (s.slotState ch z)

/-- The DIMM in slot `z` of channel `ch` fails with cause `cause` (Table 7.5): it is fenced, with its record, and rebuilt; where it was the second of
its channel, the channel fails. -/
def failSlot (ch z cause : Nat) (s : State) : State :=
  let was := s.slotState ch z
  if was = 7 then s
  else
    let mine := fun (q : Nat) => s.slotOfSeam q == z
    let s1 := (setSlotState ch z 7 s).setFld (Reg.DCC_SLOT_CAUSE ch z) cause
    let s2 := dropWrites ch mine (failReads ch mine s1)
    let s3 := writeRecord { ch := ch, slot := some z, serial := s.serialOf ch z, cause := cause } s2
    let s4 := ((s3.markFenced (.slot ch z)).expose 0x07 (slotInst ch z)).onDcm fun d =>
      { d with restores := d.restores.filter (fun r => !(r.1 == ch && r.2.1 == z)), retrainQ := d.retrainQ.filter fun r => !(r.1 == ch && r.2.1 == z) }
    let s5 := updDimm ch z (fun d => { d with prev := none }) s4
    if s.twoDpc && s.slotState ch (1 - z) == 7 && !s.on (Reg.DCC_STS_FENCED ch) then (failChannel ch cause s5).report 0x08 ch [(s5.reg (Reg.DCC_STS ch)).toNat]
    else coverRange ch z was s5

/-- Ranks of the DIMM in a slot. -/
def State.rankCount (s : State) (ch z : Nat) : Nat := 2 ^ s.fld (Reg.DCC_SLOT_RANKS ch z)

/-- Rank `r` retired until its DIMM is replaced (Table 7.5): RANK_RETIRED is reported and its range is rebuilt; with every rank retired the DIMM has
failed with cause `cause`. -/
def retireRank (ch z r cause : Nat) (s : State) : State :=
  if s.bitOf (Reg.DCC_SLOT_RET ch z) r then s
  else
    let mine := fun (q : Nat) => s.slotOfSeam q == z && s.rankOf ch q == r
    let s1 := s.setBitOf (Reg.DCC_SLOT_RET ch z) r true
    let s2 := updDimm ch z (fun d => { d with retired := (s.serialOf ch z, s1.fld (Reg.DCC_SLOT_RET ch z)) }) s1
    let s3 := dropWrites ch mine (failReads ch mine s2)
    let s4 := (s3.report 0x06 (slotInst ch z) [r]).expose 0x06 (slotInst ch z)
    if s4.fld (Reg.DCC_SLOT_RET ch z) % 2 ^ s.rankCount ch z = 2 ^ s.rankCount ch z - 1 then
      (failSlot ch z cause s4).report 0x07 (slotInst ch z) [(s4.reg (Reg.DCC_SLOT ch z)).toNat]
    else coverRange ch z 3 s4

/-! ### Solving for a stitch (R142, R246) -/

/-- What solving for one stitch of a seam gave: a value that the other syndrome confirms, one without a check because another stitch is erased too, one
that fails the check, or nothing. -/
inductive Solved where
  | checked (v : Stitch)
  | unchecked (v : Stitch)
  | wrong (v : Stitch)
  | lost
  deriving DecidableEq, Repr

/-- Whether sixteen stitches satisfy both conditions of R142 at every byte offset. -/
def isCode (l : List Stitch) : Bool := (List.range 256).all fun j => Crypto.syndromes (Crypto.symbolsAt l j) == (0, 0)

/-- The stitch of seam `seam` on channel `ch`, solved from the others; those of `ue` could not be read (R239). -/
def State.solve (s : State) (ue : List (Nat × Nat)) (seam ch : Nat) : Solved :=
  let i := codePos seam ch
  let c := ((List.range 16).map fun k => if ue.contains (seam, codeCh seam k) then none else s.readStitch (codeCh seam k) seam).set i none
  match Crypto.seamRecover c with
  | none => .lost
  | some l =>
    if (c.filter Option.isNone).length = 1 then (if isCode l then .checked (l.getD i 0) else .wrong (l.getD i 0)) else .unchecked (l.getD i 0)

/-- The value, where there is one. -/
def Solved.value : Solved → Option Stitch
  | .checked v | .unchecked v | .wrong v => some v
  | .lost => none

/-- A relocation opens for every live image of a seam (R171). -/
def relocateSeam (seam : Nat) (s : State) : State := forAll (s.liveIn seam) s fun t p => askOp .relocation p portDcm t

/-- The live images of a seam with three erasures are poisoned (R175). -/
def loseSeam (seam : Nat) (s : State) : State :=
  forAll (s.liveIn seam) s fun t p => poisonPage p (t.report 0x05 ((t.stitcherFor seam).getD 0) [0, seam, (t.entry p).spos, 0, p, 0, 1])

/-! ### Coverage and restore (R243, R244, R246, R253) -/

/-- Whether segment `g` is visited: sealed, victim or ledger, with no write on its way. -/
def State.visits (s : State) (g : Nat) : Bool :=
  (s.segState g == .sealed || s.segState g == .victim || s.segState g == .ledger) && !(s.cold.writes.any fun w => segOf w.seam == g)

/-- Whether the range of segment `g` on the slot of block `b` needs substitutes: the whole of a fenced or evacuating slot, else its retired ranks. -/
def State.inRange (s : State) (b g : Nat) : Bool :=
  let ch := s.fld (Reg.DCM_BLK_CH b)
  s.slotState ch (s.fld (Reg.DCM_BLK_SLOT b)) != 3 || s.rangeLost ch (g * 4096)

/-- Segment `g` covered by block `b`: its stitches on the range are copied, or solved from their seams, and the tack seams that hold them are written
whole; then its coverage bit is set. A stitch that is copied is solved where it cannot be read (R251). -/
def coverSeg (b g : Nat) (ue : List (Nat × Nat)) (s : State) : State :=
  let ch := s.fld (Reg.DCM_BLK_CH b)
  let z := s.fld (Reg.DCM_BLK_SLOT b)
  let copy := s.slotState ch z == 4 || s.slotState ch z == 5
  let seams := s.writtenSeams g
  let found := seams.filterMap fun q => (s.substitutePlace b q ch).map fun p =>
    (q, p, match (if copy && !ue.contains (q, ch) then s.rawStitch ch q else none) with
      | some v => Solved.checked v
      | none => s.solve ue q ch)
  let base := s.blockFirst b * 4096 + (g - z * s.slotSegs) * 256
  let old := (s.cold.stitches.filter fun e => decide (base ≤ e.1 / 16) && decide (e.1 / 16 < base + 256)).map fun e => e.1 / 16
  let tacks := ((found.map fun x => x.2.1.1) ++ old).eraseDups
  let s0 := forAll found s fun t x => readRows x.1 (if copy then [ch] else (List.range 16).filter (· != ch)) t
  let s1 := forAll tacks s0 fun t ts =>
    writeSeamDirect ts ((List.range 14).map fun p => ((found.find? fun x => x.2.1 == (ts, p)).bind fun x => x.2.2.value).getD 0) t
  let s2 := forAll found s1 fun t x =>
    match x.2.2 with
    | .wrong _ => relocateSeam x.1 t
    | .lost => loseSeam x.1 t
    | _ => t
  s2.onDcm fun d => { d with cover := SMap.put false d.cover (b * 1048576 + (g - z * s.slotSegs)) true }

/-- Segment `g` of a slot restored by restore writes (R237, R253): each stitch from its substitute, or solved from its seam. -/
def restoreSeg (ch g : Nat) (ue : List (Nat × Nat)) (s : State) : State :=
  forAll (s.writtenSeams g) s fun t q =>
    if t.rangeLost ch q then t
    else match ((t.substitute ch q).bind fun p => if ue.contains p then none else t.rawStitch p.2 p.1) with
      | some v => putStitch ch q v t
      | none => match (t.solve ue q ch).value with
        | some v => putStitch ch q v t
        | none => t

/-- The segments of unit `n` of slot `z`. -/
def State.unitSegs (s : State) (z n : Nat) : List Nat := (List.range 64).map fun i => z * s.slotSegs + 64 * n + i

/-- The slot enters STATE 3 after its restore: its record is erased and what its failure exposed ends (R253, Table 11.3a). -/
def slotServes (ch z : Nat) (s : State) : State :=
  let s1 := eraseRecord ch (some z) (setSlotState ch z 3 (s.setFld (Reg.DCC_SLOT_CAUSE ch z) 0))
  (s1.unfence (.slot ch z)).unexpose fun e => [0x06, 0x07, 0x2C].contains e.src && e.inst == slotInst ch z

/-- The operation of block `b` has done its last unit: a rebuild or an evacuation goes on as coverage refresh, a restore frees the block. -/
def endOperation (b : Nat) (s : State) : State :=
  let ch := s.fld (Reg.DCM_BLK_CH b)
  let z := s.fld (Reg.DCM_BLK_SLOT b)
  match s.fld (Reg.DCM_BLK_OP b) with
  | 4 => freeTack b (slotServes ch z s)
  | op =>
    let s1 := (s.setFld (Reg.DCM_BLK_OP b) 3).vendor 0 0x0121 [ch, z, b]
    if op = 2 then setSlotState ch z 5 s1 else s1

/-- The rate of the rebuild-family operations in MiB/s (R247): RATE_HOST between RATE_MIN and 16 × RATE_MIN in host-assisted mode; in hardware mode the most that is allowed. -/
def State.unitRate (s : State) : Nat :=
  let min := Nat.max 16 (s.fld Reg.DCM_REB_CFG_RATE_MIN)
  if s.on Reg.DCM_MODE_REB_ACT then clamp min (16 * min) (s.fld Reg.DCM_REB_CFG_RATE_HOST) else 16 * min

/-- The next unit of block `b`'s operation (R246, R253), its checkpoint, and the end of the operation after the last. A segment visited is 1 MiB of the range, and takes the time that
the rate gives it. -/
def unitDone (b : Nat) (ue : List (Nat × Nat)) (s0 : State) : State :=
  let s := s0.until (s0.dram.dcm.unitAt.getD b 0 + ((s0.unitSegs (s0.fld (Reg.DCM_BLK_SLOT b)) (s0.fld (Reg.DCM_BLK_DONE b))).filter fun g => s0.visits g).length * sec / s0.unitRate)
  let ch := s.fld (Reg.DCM_BLK_CH b)
  let z := s.fld (Reg.DCM_BLK_SLOT b)
  let op := s.fld (Reg.DCM_BLK_OP b)
  let n := s.fld (Reg.DCM_BLK_DONE b)
  let segs := s.unitSegs z n
  let s1 := if op = 4 then forAll (segs.filter fun g => s.segState g != .free) s fun t g => restoreSeg ch g ue t
    else forAll (segs.filter fun g => s.visits g && s.inRange b g) s fun t g => coverSeg b g ue t
  let s2 := checkpoint (rebuildBody op ch z b (n + 1)) rebuildMask ((s1.setFld (Reg.DCM_BLK_DONE b) (n + 1)).onDcm fun d => { d with unitAt := d.unitAt.set b s.clk })
  if s2.slotUnits ≤ n + 1 then endOperation b s2 else s2

/-- The next unit of the oldest restore that has no block (log entry 30). -/
def plainRestore (ue : List (Nat × Nat)) (s : State) : State :=
  match s.dram.dcm.restores with
  | [] => s
  | (ch, z, n) :: rest =>
    let s1 := forAll ((s.unitSegs z n).filter fun g => s.segState g != .free) s fun t g => restoreSeg ch g ue t
    if s.slotUnits ≤ n + 1 then slotServes ch z (s1.onDcm fun d => { d with restores := rest, pend := d.pend.filter (· != slotInst ch z) })
    else s1.onDcm fun d => { d with restores := (ch, z, n + 1) :: rest }

/-! ### Service commands (R251 to R255) -/

/-- The outcome of a service command. -/
def svcCode (ch z code : Nat) (s : State) : State :=
  ((s.setFld Reg.DCM_SVC_STS_CODE code).setFld Reg.DCM_SVC_STS_SLOT z).setFld Reg.DCM_SVC_STS_CH ch

/-- Whether a service operation runs on channel `ch`: an evacuation, a return or a restore. -/
def State.serviceRuns (s : State) (ch : Nat) : Bool :=
  (List.range 2).any fun z => s.slotState ch z == 4 || s.slotState ch z == 8 || (s.dimm ch z).prev.isSome

/-- Evacuate (R251). -/
def svcEvacuate (ch z : Nat) (s : State) : State :=
  if s.slotState ch z ≠ 3 then svcCode ch z 2 s
  else if s.serviceRuns ch then svcCode ch z 3 s
  else match (if (s.blockOf ch z).isSome then none else s.freeBlock z) with
    | none => svcCode ch z 1 s
    | some b => assignBlock 2 ch z b (setSlotState ch z 4 (svcCode ch z 0 s))

/-- Fence for service (R252): the slot's record is written, and what its queues hold is completed first. -/
def svcFence (ch z : Nat) (s : State) : State :=
  if s.slotState ch z ≠ 5 then svcCode ch z 2 s
  else match s.blockOf ch z with
    | none => svcCode ch z 6 s
    | some b =>
      if !(s.needsCover b).isEmpty then svcCode ch z 6 s
      else
        let s1 := setSlotState ch z 6 (flushReads ch (flushWrites ch (svcCode ch z 0 s)))
        (writeRecord { ch := ch, slot := some z, serial := s.serialOf ch z } s1).markFenced (.slot ch z)

/-- Return (R253): the DIMM is measured and checked first. -/
def svcReturn (ch z : Nat) (s : State) : State :=
  let st := s.slotState ch z
  let powered := s.fld (Reg.SUP_CH_STS_STATE (4 + 2 * ch + z)) == 3
  if st = 9 then svcCode ch z 4 s
  else if !([6, 7, 10].contains st) || !powered then svcCode ch z 2 s
  else if s.serviceRuns ch then svcCode ch z 3 s
  else updDimm ch z (fun d => { d with prev := some st, info := none, failing := [] })
    ((setSlotState ch z 1 (svcCode ch z 0 s)).setFld Reg.DCM_SVC_STS_BUSY 1)

/-- Cancel evacuation (R255). -/
def svcCancel (ch z : Nat) (s : State) : State :=
  if s.slotState ch z ≠ 4 ∧ s.slotState ch z ≠ 5 then svcCode ch z 2 s
  else match s.blockOf ch z with
    | none => setSlotState ch z 3 (svcCode ch z 0 s)
    | some b => freeTack b (setSlotState ch z 3 (svcCode ch z 0 s))

/-- A service command by its CMD code; other values are ignored (DCM_SVC). -/
def svcCommand (cmd ch z : Nat) (s : State) : State :=
  match cmd with
  | 1 => svcEvacuate ch z s
  | 2 => svcFence ch z s
  | 3 => svcReturn ch z s
  | 4 => svcCancel ch z s
  | _ => s

/-- The DCM's state that a Level 4 reset must find again (R249, R521): the blocks, and the slots as they were, unless a start-up is under way whose CTM is not READY. -/
def saveBlocks (s : State) : State :=
  if s.fld Reg.RST_STS_PHASE ≠ 0 ∧ !s.on Reg.CTM_STS_READY then s
  else s.onDcm fun d =>
    { d with saved := (List.range 4).map fun b => s.reg (Reg.DCM_BLK b), slots := (List.range 32).map fun k => s.reg (Reg.DCC_SLOT (k / 2) (k % 2)) }

end Sys2Proof.Machine
end

