-- ==== Sys2Proof/Machine/NmeOps.lean ====
section
/-! DEFINITION. The shared operations of the near-memory engines: rings and their bindings, how descriptors end, and what fences and resets do to them
(chapter 10). -/
namespace Sys2Proof.Machine

open Sys2Proof

/-- Descriptor `idx` of ring `r` that an engine holds. -/
def State.run (s : State) (r idx : Nat) : Option Running := s.nme.running.find? fun x => x.ring == r && x.idx == idx

/-- The record of a running descriptor replaced. -/
def putRun (x : Running) (s : State) : State :=
  s.onNme fun n => { n with running := n.running.map fun y => if y.ring = x.ring ∧ y.idx = x.idx then x else y }

/-- Ring `r` halts with code `c` at index `idx`; the first halting descriptor is named (R327). -/
def haltRing (r idx c : Nat) (s : State) : State :=
  if s.on (Reg.NMR_STS_HALTED r) then s
  else ((s.setFld (Reg.NMR_STS_HALTED r) 1).setFld (Reg.NMR_STS_LAST_ERR r) c).setFld (Reg.NMR_STS_ERR_IDX r) idx

/-- Whether a status halts the ring (Table 10.5). -/
def halting (c : Nat) : Bool := decide (0x20 ≤ c)

/-- A descriptor that ends with code `c`. -/
def Running.endWith (x : Running) (c : Nat) : Running :=
  { x with ended := some ⟨c, x.res, x.fin⟩, waits := none, vals := [], buf := [], mat := [] }

/-- Running descriptors that `p` names end with code `c`, with the work they have done; halting codes halt their rings. -/
def stopRuns (c : Nat) (p : Running → Bool) (s : State) : State :=
  let hit := fun (x : Running) => x.ended.isNone && p x
  let l := s.nme.running.filter hit
  let gone := l.filterMap Running.waits
  let s1 := s.onNme fun n => { n with running := n.running.map fun x => if hit x then x.endWith c else x }
  let s2 := { s1 with replies := s1.replies.filter fun q => !gone.contains q.req.id }
  if halting c then forAll l s2 fun t x => haltRing x.ring x.idx c t else s2

/-- The engine that serves a ring bound to engine `n`: `n`, or the next unfenced one (R328). -/
def State.engineFor (s : State) (n : Nat) : Nat :=
  ((List.range 8).map fun i => (n + i) % 8).find? (fun k => !s.isFenced (.engine k)) |>.getD n

/-- Every enabled ring bound as its ENG and the fences say (R323, R328). -/
def bindRings (s : State) : State :=
  forAll (List.range 256) s fun t r =>
    if t.on (Reg.NMR_CFG_EN r) then t.setFld (Reg.NMR_STS_ENG_ACT r) (t.engineFor (t.fld (Reg.NMR_CFG_ENG r))) else t

/-- Engine `n` has been fenced (R328). -/
def engineLost (n : Nat) (s : State) : State :=
  bindRings (stopRuns 0x32 (fun x => x.eng == n) ((s.setFld (Reg.NME_STS_FENCED n) 1).setFld (Reg.NME_STS_READY n) 0))

/-- Stack `st` has been fenced: the descriptors that staged in it end, and their engines stage in the other (R328). -/
def stagingLost (st : Nat) (s : State) : State :=
  forAll (List.range 8) (stopRuns 0x31 (fun x => s.fld (Reg.NME_STS_STAGE x.eng) == st) s) fun t n =>
    if t.fld (Reg.NME_STS_STAGE n) = st then t.setFld (Reg.NME_STS_STAGE n) (1 - st) else t

/-- Ring `r` takes EN = 0 (Table 10.6): nothing of it starts or runs on, no record is written, and NMR_HEAD keeps its value. -/
def dropRing (r : Nat) (s : State) : State :=
  let gone := (s.nme.running.filter fun x => x.ring == r).filterMap Running.waits
  let s1 := (s.setFld (Reg.NMR_CFG_EN r) 0).onNme fun n =>
    { n with running := n.running.filter (fun x => x.ring != r), rings := SMap.upd {} n.rings r fun q => { q with stamps := [] } }
  { s1 with replies := s1.replies.filter fun q => !gone.contains q.req.id }

/-- The rings of LD `k` at its Level 2 reset. -/
def dropRingsOf (k : Nat) (s : State) : State :=
  forAll (List.range 256) s fun t r => if t.on (Reg.NMR_CFG_OWNED r) ∧ t.fld (Reg.NMR_CFG_LD r) = k ∧ t.on (Reg.NMR_CFG_EN r) then dropRing r t else t

/-- Forced Keep stops the running descriptors at their next line boundary (R367). -/
def haltEngines (s : State) : State := stopRuns 0x13 (fun x => x.started) s

/-- Descriptors submitted and not recorded (R312). -/
def State.ringN (s : State) (r : Nat) : Nat :=
  let e := (s.ring r).entries
  (s.fld (Reg.NMR_TAIL_TAIL r) + e - s.fld (Reg.NMR_HEAD_HEAD r)) % e

/-- Whether a path may write ring `r`'s registers (R309). -/
def State.ringPath (s : State) (p : Path) (r : Nat) : Bool :=
  match p with
  | .plaza => true
  | .head _ k => s.on (Reg.NMR_CFG_OWNED r) && s.fld (Reg.NMR_CFG_LD r) == k.val

end Sys2Proof.Machine
end

