-- ==== Sys2Proof/Machine/Tiers.lean ====
section
/-! DEFINITION. What resets do to the blocks: the Level 2 reset of an LD, the work that an idle request lets finish or a timeout ends (R436 to R438,
R441), the state that a Level 3 reset takes away, and the return to service (R335). -/
namespace Sys2Proof.Machine

open Sys2Proof

/-! ### Level 2 (R266, R434, R436) -/

/-- Every cinch of LD `k` released, those that await their confirmation included; PIN is cleared on their ranges (R266, R280). -/
def releaseCinches (k : Nat) (s : State) : State :=
  forAll (List.range 64) s fun t i =>
    let c := t.cinch i
    if (c.st != .free || c.waiting) && c.ld == k then
      freeCinch i (if c.pin && c.st != .free then forAll (t.cinchPages c) t fun u p => unpin p u else t)
    else t

/-- Whether a command arrived through the mailbox of LD `k`. -/
def fromMailbox (k : Nat) : CmdPath → Bool
  | .mailbox m => m.val == k
  | _ => false

/-- Level 2 reset of LD `k`: MSI-X state, mailbox, rings and cinches; at CXL Reset its decoders are uncommitted. Memory, root key, extents and
Memory_Active stay. -/
def resetLdState (k : Nat) (cxl : Bool) (s : State) : State :=
  let s1 := releaseCinches k (dropRingsOf k s)
  let s2 := s1.onQos fun q => { q with heldReq := q.heldReq.filter fun r => !fromMailbox k r.1 }
  let cut := fun (v : Option CmdPath) => if v.any (fromMailbox k) then none else v
  let s3 := (s2.onMgmt fun m => { m with via := cut m.via, actVia := cut m.actVia }).onHot fun h => { h with held := h.held.filter fun r => !fromMailbox k r.1 }
  s3.updLd k fun d =>
    { d with msixPending := 0, decoders := if cxl then d.decoders.map fun x => { x with committed := false } else d.decoders }

/-! ### Stitchers that give up their work (R154, R158) -/

/-- An operation whose image is abandoned runs again from its start (R158). -/
def reopenOp (o : PageOp) (s : State) : State :=
  let s1 := (abandonOp o.gpn s).count Reg.CTM_ABANDON_STITCHER
  match o.kind with
  | .writeback => startClean o.gpn o.port s1
  | k => beginOp k o.gpn o.port o.frame s1

/-- The open seams of stitcher `n` abandoned with every image in them that has not been committed (R158); their segments are sealed (log entry 48). -/
def abandonSeams (n : Nat) (s : State) : State :=
  let keys := [streamKey n false, streamKey n true]
  let within := fun (q : Nat) => keys.any fun k =>
    let a := s.stream k
    a.seg.isSome && !a.bufs.isEmpty && (a.seam == q || (a.seam + 1 == q && decide (14 < a.bufs.length)))
  let lost := s.cold.ops.filter fun o => o.phase == .placed && ((imagePlaces o.loc).any fun p => within p.1)
  let s1 := forAll keys s fun t k => match (t.stream k).seg with
    | some g => updStream k (fun _ => {}) (setSeg g .sealed t)
    | none => t
  forAll lost s1 fun t o => reopenOp o t

/-- What stitcher `n` was reading is discarded and read again, by it or elsewhere, and the images it was about to write find another stitcher. -/
def stitcherFreed (n : Nat) (s : State) : State :=
  let s1 := abandonSeams n s
  let mine := (s1.cold.jobs.filter fun j => j.stitcher == some n && j.result.isNone).map ReadJob.id
  let s2 := s1.onCold fun c =>
    { c with
      jobs := c.jobs.map fun j => if mine.contains j.id then { j with stitcher := none, needs := [], got := [] } else j
      ops := c.ops.map fun o => if o.stitcher = some n ∧ o.phase ≠ .placed then { o with stitcher := none } else o }
  forAll (List.range 16) s2 fun t ch =>
    let dead := ((t.dcc ch).rq.filter fun r => mine.contains r.job).length
    (t.updDcc ch fun d => { d with rq := d.rq.filter fun r => !mine.contains r.job }).count Reg.NOC_DROP_FENCED dead

/-- Stitcher `n` serves no more (R154, R158). -/
def stitcherLost (n : Nat) (s : State) : State := stitcherFreed n (s.setFld (Reg.CTM_STCH_FENCED n) 1)

/-! ### Writes carried out within the idle request of a Level 4 reset (R441) -/

/-- The lines of a page image as it can be read at once: verified, or repaired under R204. -/
def State.imageAtOnce (s : State) (p : Nat) (i : Image) : Option (List Line × BitVec 64) :=
  (allSome ((imagePlaces i).map fun q => s.dataStitch q.1 q.2)).bind fun v =>
    let ok := fun (b : List Nat) => (s.readKey p i.epb).bind fun k => decodeImage k p i.wcnt i.epb b
    match ok (stitchBytes v) with
    | some r => some r
    | none => (s.locate (imagePlaces i) v ok).map Prod.snd

/-- An open fill finished with what its source holds. -/
def finishFill (fl : Fill) (s : State) : State :=
  let all : BitVec 64 := BitVec.allOnes 64
  let s1 := match fl.source with
    | .frame old =>
      let o := s.desc old
      freeFrame old (applyFill fl (if o.noimg then all else o.valid ||| o.poison)
        ((List.range 64).map fun l => if o.valid.getLsbD l then s.frameLine old l else 0) o.poison false s)
    | .cold id => endJob id s
  let s2 := if (s1.desc fl.frame).valid = all then s1
    else match s1.imageAtOnce fl.gpn (s1.entry fl.gpn).image with
      | some (ls, pm) => applyFill fl all ls pm false s1
      | none => applyFill fl all [] 0 true s1
  closeFill fl.gpn (updDesc fl.frame (fun d => { d with fill := false }) s2)

/-- A write stored in the hot tier within the idle request; none where it finds no frame or waits for its line's old bytes. To a page poisoned in distress nothing is
stored (R182). -/
def carryWrite (r : Req) (s : State) : Option State :=
  if s.distressed r.gpn then some s
  else (allocForWrite r.gpn s).bind fun t => writeLine r.gpn (t.entry r.gpn).frame r.line r.data r.mask r.poison t

/-- The line that an accepted atomic acts on, with its poison. -/
def State.lineAtOnce (s : State) (p l : Nat) : Line × Bool :=
  let m := s.entry p
  let cold := match (if m.scnt = 0 then none else s.imageAtOnce p m.image) with
    | some (ls, pm) => (ls.getD l 0, pm.getLsbD l)
    | none => (0, true)
  if m.state = 0 then (0, (s.marks p).getLsbD l)
  else if m.state = 1 then (if (s.marks p).getLsbD l || m.scnt == 0 then (0, true) else cold)
  else match s.lineAt p m.frame l with
    | .line v b => (v, b)
    | _ => cold

/-- The write that an accepted request makes: an atomic's result, where it writes. -/
def State.writeOf (s : State) (t : Txn) : Option Req :=
  match t.req.kind with
  | .write => some t.req
  | .atomic o _ =>
    let x := t.val.getD (s.lineAtOnce t.req.gpn t.req.line)
    if x.2 then none else (atomResult o (atomWord o x.1)).map fun n => { t.req with kind := .write, data := setAtomWord o x.1 n, mask := BitVec.allOnes 64 }
  | _ => none

/-- The writes that the home slices have accepted. -/
def finishTxns (s : State) : State :=
  forAll (s.slices.flatMap fun e => e.2.txns) s fun t x => match t.writeOf x with
    | some r => (carryWrite r t).getD t
    | none => t

/-- Each holding pen carries out every write that it holds whole; a head with one that cannot be carried out signals Viral and reports
PEN_WRITE_EXP. -/
def finishPens (s : State) : State :=
  forAll (List.range 4) s fun t h =>
    forAll ((t.head h).pen.filter fun e => e.whole && e.req.kind == .write && e.phase != .accepted) t fun u e =>
      match carryWrite e.req u with
      | some v => v
      | none =>
        let v := if u.on (Reg.HPA_LINK_STS_VIRAL h) then u else u.emit (.viral h)
        (v.setFld (Reg.HPA_LINK_STS_VIRAL h) 1).report 0x18 h

/-- The stitch writes issued and not yet accepted reach their DIMMs, after those that the queues hold. -/
def storeWrites (s : State) : State :=
  let s1 := forAll s.cold.writes (drainWrites s) fun t w => if t.writable w.ch w.seam then putStitch w.ch w.seam w.data t else skipStitch w.ch w.seam t
  s1.onCold fun c => { c with writes := [] }

/-- What every block finishes within the idle request of a Level 4 reset (R441): accepted and whole writes, fills, open seams and write queues. Page
operations under way are abandoned (R163). -/
def finishAll (s : State) : State :=
  let s1 := finishPens (finishTxns s)
  let s2 := forAll s1.hot.fills s1 fun t f => finishFill f t
  storeWrites (sealAll (abandonPageOps s2))

/-! ### The management firmware -/

/-- MGT_HB as it reads: the firmware advances it every 10 ms while it runs. -/
def State.heartbeat (s : State) : Nat :=
  s.fld Reg.MGT_HB_COUNT + (if s.on Reg.MGT_STS_FW_RUN then (s.clk - s.mgmt.fwAt) / (10 * ms) else 0)

/-- The management firmware stops; a command that it was executing is lost. -/
def stopFirmware (s : State) : State :=
  ((s.setFld Reg.MGT_HB_COUNT s.heartbeat).setFld Reg.MGT_STS_FW_RUN 0).onMgmt fun m => { m with mgrBusy := false, via := none, fwTransfer := none }

/-! ### Level 3: the idle request and its end (Table 15.5, R438) -/

/-- The channel of a controller's or a PHY's domain. -/
def domChannel (d : Nat) : Option Nat := if 58 ≤ d ∧ d < 90 then some ((d - 58) % 16) else none

/-- The pseudo-channel groups (8 × stack + group) that a domain serves: a stack controller's, its PHY's, or a group's own. -/
def domGroups (d : Nat) : List Nat :=
  if 90 ≤ d ∧ d < 94 then (List.range 8).map fun g => 8 * ((d - 90) % 2) + g else if 94 ≤ d ∧ d < 110 then [d - 94] else []

/-- The stitchers that a domain serves: its own, or those of a seam-buffer bank. -/
def domStitchers (d : Nat) : List Nat :=
  if 42 ≤ d ∧ d < 58 then [d - 42] else if 137 ≤ d ∧ d < 141 then (List.range 4).map fun i => 4 * (d - 137) + i else []

/-- The crossings of a street-grid segment's domain. -/
def domCrossings (d : Nat) : List Nat := (List.range 48).filter fun c => (Block.crossing c).dom == d

/-- Both streams of stitcher `n` sealed, the following seam of a spanning image included (R157). -/
def sealStitcher (n : Nat) (s : State) : State :=
  forAll [streamKey n false, streamKey n true] s fun t k => sealStream k (sealStream k t)

/-- An idle request to domain `d`: new requests for a slice are answered QUIESCE, a stitcher's open seams are sealed (R157); requests for any other block wait while its reset is
under way. -/
def quiesceBlock (d : Nat) (s : State) : State :=
  if 8 ≤ d ∧ d < 42 then s.updSlice (d - 8) fun x => { x with quiesce := true } else forAll (domStitchers d) s fun t n => sealStitcher n t

/-- Whether the block of domain `d` has finished the work that it has accepted. -/
def State.idleBlock (s : State) (d : Nat) : Bool :=
  (if 8 ≤ d ∧ d < 42 then (s.slice (d - 8)).txns.isEmpty else true) &&
  (d != 117 || s.cold.groups.isEmpty) &&
  (domStitchers d).all (fun n => !(s.cold.jobs.any fun j => j.stitcher == some n && j.result.isNone)) &&
  (domChannel d).all (fun ch => (s.dcc ch).rq.isEmpty && (s.dcc ch).wq.isEmpty) &&
  (domGroups d).all (fun g => (s.group g).rq.isEmpty && (s.group g).wq.isEmpty) &&
  (if 122 ≤ d ∧ d < 130 then !(s.nme.running.any fun x => x.eng == d - 122 && x.started && x.ended.isNone) else true)

/-- The stack reads that wait in a group's queue answered with poison (R438); its writes are issued again after the reset. -/
def poisonReads (g : Nat) (s : State) : State :=
  let l := (s.group g).rq
  forAll l (s.updGroup g fun x => { x with rq := [] }) fun t a => match t.sliceOfTxn a.id with
    | some sl => atomicRead sl a.id 0 true t
    | none => t

/-- What a block has not finished when its idle request times out (R438). -/
def endWork (d : Nat) (s : State) : State :=
  let s1 := if 122 ≤ d ∧ d < 130 then stopRuns 0x32 (fun x => x.eng == d - 122 && x.started) s else s
  let s2 := match domChannel d with
    | some ch => dropWrites ch (fun _ => true) (failReads ch (fun _ => true) s1)
    | none => s1
  let s3 := forAll (domStitchers d) s2 fun t n => stitcherFreed n t
  let s4 := forAll (domGroups d) s3 fun t g => poisonReads g t
  if d = 117 then (abandonPageOps s4).onCold fun c => { c with groups := [] } else s4

/-- The transaction epochs of the endpoints of domain `d` advance (R303, R439). -/
def advanceEndpoints (d : Nat) (s : State) : State :=
  s.onNoc fun n => { n with tepochs := ((List.range 98).filter fun e => (epBlock e).dom == d).foldl (fun m e => SMap.upd 0 m e fun x => (x + 1) % 256) n.tepochs }

/-- A channel controller about to be reset: DCC_SLOT of the slots that serve is noted, and they wait for their fast training (Table 7.4). -/
def resetChannel (ch : Nat) (s : State) : State :=
  let s1 := flushReads ch (flushWrites ch s)
  let words := (List.range 32).map fun k => if k / 2 = ch then s.reg (Reg.DCC_SLOT ch (k % 2)) else s.dram.dcm.slots.getD k 0
  let s2 := (s1.onDcm fun d => { d with slots := words }).updDcc ch fun d =>
    { inject := d.inject, corrupt := d.corrupt, slots := d.slots, lost := d.lost, ueLog := d.ueLog }
  forAll ((List.range 2).filter fun z => [3, 4, 5, 8].contains (s.slotState ch z)) s2 fun t z => setSlotState ch z 2 t

/-- The state of the block of domain `d` beside its registers, at its Level 3 reset. A slice's entry goes to its buddy as in a takeover (R438, log entry
50); a stitcher's open seams are sealed (R157). -/
def resetBlockState (d : Nat) (s : State) : State :=
  let s1 := advanceEndpoints d s
  let s2 := if 8 ≤ d ∧ d < 42 then
      (let t := if (s1.slice (d - 8)).fenced then s1 else sliceLost (d - 8) s1
       t.updSlice (d - 8) fun _ => { fenced := true })
    else s1
  let s3 := forAll (domStitchers d) s2 fun t n => abandonSeams n (sealStitcher n t)
  let s4 := match domChannel d with
    | some ch => resetChannel ch s3
    | none => s3
  let s5 := s4.onNoc fun n => { n with bufs := SMap.keep (fun k => !(domCrossings d).contains (k / 168)) n.bufs }
  if d = 117 then s5.onVault fun v => { v with reenc := v.reenc.map fun r => { r with next := 16384 * r.done } }
  else if d = 130 ∧ !s.on Reg.MGT_STS_CORE ∨ d = 131 ∧ s.on Reg.MGT_STS_CORE ∨ d = 132 then
    stopFirmware s5
  else if d = 136 then { s5 with pmu := {} }
  else s5

/-- Registers of domain `d`'s blocks that report what its Level 3 reset does not change: fences, roles, populations, the layout in force and the blocks
assigned (log entry 51). -/
def heldRegs (d : Nat) : List Nat :=
  if 8 ≤ d ∧ d < 42 then [Reg.HSL_STS (d - 8)]
  else if 58 ≤ d ∧ d < 74 then [Reg.DCC_SLOT (d - 58) 0, Reg.DCC_SLOT (d - 58) 1, Reg.DCC_POP (d - 58), Reg.DCC_TEMP (d - 58)]
  else if 90 ≤ d ∧ d < 92 then [Reg.HTC_STS (d - 90), Reg.HTC_PHY_STS (d - 90), Reg.HTM_PIN_PAGES]
  else if d = 117 then
    [Reg.CTM_STS, Reg.CTM_TACK, Reg.CTM_CAP, Reg.CTM_DIST_STS, Reg.DCM_MODE] ++ ((List.range 17).map Reg.CTM_LWIN) ++ ((List.range 4).map Reg.DCM_BLK)
  else if 122 ≤ d ∧ d < 130 then [Reg.NME_STS (d - 122)]
  else if d = 132 then [Reg.MGT_STS, Reg.MGT_FW]
  else []

/-- The READY bit of the block of domain `d` cleared while it is in reset. -/
def notReady (d : Nat) (s : State) : State :=
  if 58 ≤ d ∧ d < 90 then s.setFld (Reg.DCC_STS_READY ((d - 58) % 16)) 0
  else if 90 ≤ d ∧ d < 92 then s.setFld (Reg.HTC_STS_READY (d - 90)) 0
  else if d = 117 then s.setFld Reg.CTM_STS_READY 0
  else if 122 ≤ d ∧ d < 130 then s.setFld (Reg.NME_STS_READY (d - 122)) 0
  else s

/-! ### Return to service (Table 15.5, step 6; R111, R335) -/

/-- A channel released from its Level 3 reset trains its slots: with the stored results, or fully where they are lost (Tables 7.4, 11.5). -/
def retrainChannel (ch : Nat) (s : State) : State :=
  if (List.range 2).any fun z => s.slotState ch z == 2 && (s.dimm ch z).prev.isNone then
    (s.setFld (Reg.DCC_STS_TRAINING ch) 1).updDcc ch fun d => { d with fast := !d.lost }
  else s

/-- The self-test after a Level 3 reset of domain `d` has passed: its block serves; a fenced slice, stitcher or engine is fenced no longer. -/
def returnBlock (d : Nat) (s : State) : State :=
  let b := blockOfDomain d
  let s1 := match b with
    | .slice n => becomeSpare n (s.unfence b)
    | .stitcher n => (s.unfence b).setFld (Reg.CTM_STCH_FENCED n) 0
    | .engine n =>
      let st := if s.isFenced (.stack (n / 4)) then 1 - n / 4 else n / 4
      bindRings ((((s.unfence b).setFld (Reg.NME_STS_FENCED n) 0).setFld (Reg.NME_STS_READY n) 1).setFld (Reg.NME_STS_STAGE n) st)
    | .channel n => if s.on (Reg.DCC_STS_FENCED n) then s else retrainChannel n s
    | .stack n => if d < 92 ∧ !s.isFenced b then s.setFld (Reg.HTC_STS_READY n) 1 else s
    | _ => s
  if d = 117 ∧ s.fld Reg.RST_STS_PHASE = 0 ∧ !s.on Reg.CTM_STS_RECOVERING ∧ !s.on Reg.CRY_STS_LEDGER_FATAL ∧ !s.isFenced .ctm then
    resumeLedger (s1.setFld Reg.CTM_STS_READY 1)
  else s1

end Sys2Proof.Machine
end

