-- ==== Sys2Proof/Machine/PowerOps.lean ====
section
/-! DEFINITION. The shared operations of the power controller: the conditions of the domains in each state, voltage requests, entry to and exit
from Doze and Keep, and forced Keep (chapter 12). -/
namespace Sys2Proof.Machine

open Sys2Proof

/-! ### Domain conditions (Table 12.4) -/

/-- The head that owns PHY quad `q` (Table 2.1): lanes 4q to 4q + 3. -/
def State.quadHead (s : State) (q : Nat) : Nat :=
  match s.fld (Reg.HPA_CFG_SPLIT 0) with
  | 0 => 0
  | 1 => q / 2
  | _ => q

/-- Whether slice `n` serves an entry of the remap table, or is the spare of a takeover under way (Table 3.6). -/
def State.sliceInUse (s : State) (n : Nat) : Bool :=
  (List.range 32).any (fun e => s.fld (Reg.HSC_REMAP_SLICE e) == n) || s.takeovers.any fun t => t.spare == some n

/-- The condition of domain `d` in power state `x` (Table 12.4), with domains of absent heads, free spare slices and fenced domains Off
(R364). State 1 gates its domains one by one, so its column is that of Full here. -/
def State.tableCond (s : State) (x d : Nat) : DomCond :=
  if s.domFenced d then .off
  else if d < 4 then (if s.present d then .on else .off)
  else if d < 8 then (if s.present (s.quadHead (d - 4)) then .on else .off)
  else if d < 42 then (if !s.sliceInUse (d - 8) then .off else if x = 3 then .retained else if x = 2 then .stopped else .on)
  else if d < 58 then (if 2 ≤ x then .off else .on)
  else if d < 90 then (if 2 ≤ x then .retained else .on)
  else if d < 92 then (if x = 3 then .retained else if x = 2 then .stopped else .on)
  else if d < 110 then (if 2 ≤ x then .retained else .on)
  else if d < 122 then (if x = 3 then (if d = 117 then .retained else .off) else if x = 2 then .stopped else .on)
  else if d < 130 then (if 2 ≤ x then .retained else .on)
  else if d = 130 then (if x = 3 then .retained else .on)
  else if d = 131 then (if x = 3 then .off else if s.on Reg.MGT_STS_CORE || s.on Reg.MGT_STS_RESIDENT then .on else .off)
  else if d = 132 then (if x = 3 then .retained else .on)
  else if d = 135 || d = 141 then .off
  else if 137 ≤ d ∧ d ≤ 140 then (if 2 ≤ x then .off else .on)
  else .on

/-- Whether a domain in condition `c` counts as powered in PWR_DOM_ON: On or Stopped. -/
def DomCond.powered : DomCond → Bool
  | .on => true
  | .stopped => true
  | _ => false

/-- Domain `d` goes from a condition without running logic to On: one power-up of R363. -/
def State.powerUps (s : State) (x : Nat) : Nat :=
  ((List.range 144).filter fun d => (s.cond d == .off || s.cond d == .retained) && s.tableCond x d == .on).length

/-- Every domain takes its condition of state `x`; each one powered up is counted (PWR_GATE_CNT). -/
def State.enterConds (s : State) (x : Nat) : State :=
  let n := s.powerUps x
  let s1 := forAll (List.range 144) s (fun t d => t.setCond d (s.tableCond x d))
  s1.count Reg.PWR_GATE_CNT_COUNT n

/-! ### Voltage requests (R379 to R381) -/

/-- The bus-target fields and the outstanding request of a rail: a newer request for a rail replaces an older one (R373). -/
def requestVoltage (rail mv : Nat) (s : State) : State :=
  let s1 := s.onPwr fun p => { p with reqs := p.reqs.filter (fun r => r.rail != rail) ++ [{ rail := rail, mv := mv, at_ := s.clk }] }
  (((s1.setFld Reg.PWR_REG_STS_TARGET_MV mv).setFld Reg.PWR_REG_STS_RAIL rail).setFld Reg.PWR_REG_STS_RETRY 0).setFld Reg.PWR_REG_STS_PEND 1

/-- The setpoint of a rail takes the requested value and the request ends. -/
def ackVoltage (rail : Nat) (s : State) : State :=
  match s.pwr.reqs.find? (fun r => r.rail == rail) with
  | none => s
  | some r =>
    let rest := s.pwr.reqs.filter (fun q => q.rail != rail)
    { s with pwr := { s.pwr with rails := s.pwr.rails.set rail r.mv, reqs := rest } }.setBit Reg.PWR_REG_STS_PEND (!rest.isEmpty)

/-! ### Keep-clock counting around a sleep (R422, R424) -/

/-- TIME_NS counts the keep clock, or the RC where the keep clock has failed, from now on, where it does not already. -/
def beginKeepTime (s : State) : State :=
  if s.clocks.sleepStart.isSome then s
  else
  let src := if s.on Reg.CLK_STS_KEEP_FAIL then 2 else 1
  let s1 := (s.onClocks fun c => { c with sleepStart := some s.clk, keepTick := 0, frac := 0 }).onPmu fun p => { p with slept := true }
  (s1.setFld Reg.TIME_STATUS_SOURCE src).setFld Reg.TIME_STATUS_EXTRAPOLATED 1

/-- The bound of R424 for a period of `n` nanoseconds, in microseconds rounded up: 2 ppm plus 30.5 µs, or 500 ppm plus 1 µs on the RC. -/
def errBoundUs (rc : Bool) (n : Nat) : Nat :=
  if rc then ceilDiv (n * 500 + 1000000000) 1000000000 else ceilDiv (n * 2 + 30500000000) 1000000000

/-- TIME_NS counts the core reference again, from the value it has, and the period's bound is added to ERR_US. -/
def endKeepTime (s : State) : State :=
  match s.clocks.sleepStart with
  | none => s.setFld Reg.TIME_STATUS_SOURCE 0
  | some t =>
    let b := errBoundUs (s.fld Reg.TIME_STATUS_SOURCE == 2) (s.clk - t)
    let s1 := s.onClocks fun c => { c with sleepStart := none }
    (s1.count Reg.TIME_STATUS_ERR_US b).setFld Reg.TIME_STATUS_SOURCE 0

/-! ### Self-refresh of every channel and stack (R230, R371) -/

/-- Every channel that serves completes its write queue and puts its DIMMs into self-refresh. -/
def channelsToSleep (s : State) : State :=
  forAll (List.range 16) (drainWrites s) fun t c => if t.on (Reg.DCC_STS_READY c) then enterSelfRefresh c t else t

/-- Every channel in self-refresh leaves it and serves again. -/
def channelsWake (s : State) : State :=
  forAll (List.range 16) s fun t c => if t.on (Reg.DCC_STS_SR c) then leaveSelfRefresh c t else t

/-! ### Doze and Keep -/

/-- Idle for `n` ns at the earliest: R366 counts from the last request, and in the first second after a reference qualifies the entry waits
for a valid calibration (R423). -/
def State.mayEnter (s : State) (x : Nat) : Bool :=
  decide (x ≤ s.allowed) && s.memIdle && s.blockers.all (!·) && s.calValid && !s.on Reg.PWR_STS_FORCED &&
  s.pwr.move == .none && decide (s.fld Reg.RST_STS_LEVEL = 0) && s.fld Reg.RST_STS_PHASE == 0

/-- DOZE_IDLE and KEEP_IDLE in nanoseconds. -/
def State.dozeIdle (s : State) : Nat := zeroAsOne (s.fld Reg.PWR_CFG_DOZE_IDLE) * 10000
def State.keepIdle (s : State) : Nat := zeroAsOne (s.fld Reg.PWR_CFG_KEEP_IDLE) * (100 * ms)

/-- Steps 1 to 6 of Table 12.6: seams sealed and written, DIMMs in self-refresh, the domains of state `x`, PLLs off. -/
def goDown (x : Nat) (s : State) : State :=
  (beginKeepTime ((channelsToSleep (sealAll s)).enterConds x)).onPwr fun p => { p with burstAt := s.clk, inBurst := false }

/-- Table 12.6. -/
def dozeDown (s : State) : State := (goDown 2 s).setFld Reg.PWR_STS_STATE 2

/-- Table 12.7, counted as an exit from Doze. -/
def dozeUp (s : State) : State :=
  ((channelsWake ((endKeepTime s).enterConds 0)).setFld Reg.PWR_STS_STATE 0).count Reg.PWR_EXIT_CNT_DOZE

/-- Table 12.8, step 1: promotions stop and the clean pages of shed frames are released. -/
def keepBegin (s : State) : State :=
  { (s.setFld Reg.PWR_STS_TRANS 1) with pwr := { s.pwr with move := .keepReleasing, moveAt := s.clk } }

/-- Table 12.8, steps 2 to 6: the releases are complete, the domains go down and VCORE and VSRAM are asked for retention voltage. -/
def keepDown (s : State) : State :=
  let s1 := releaseCleanShed 1 (releaseCleanShed 0 s)
  let s2 := goDown 3 s1
  requestVoltage 1 650 (requestVoltage 0 600 { s2 with pwr := { s2.pwr with move := .keepRails } })

/-- Table 12.8, step 6, once both rails are acknowledged. -/
def keepReached (s : State) : State :=
  ((({ s with pwr := { s.pwr with move := .none } }).setFld Reg.PWR_STS_TRANS 0).setFld Reg.PWR_STS_STATE 3)

/-- Table 12.9, step 1. -/
def keepUpBegin (s : State) : State :=
  requestVoltage 1 800 (requestVoltage 0 750 (({ s with pwr := { s.pwr with move := .keepExit, moveAt := s.clk } }).setFld Reg.PWR_STS_TRANS 1))

/-- Table 12.9, steps 3 to 11, once both rails are acknowledged: counted as an exit from Keep where PWR_STS.STATE has reported Keep (R373); a rebuild's unit starts anew (R367), and
pinned pages outside keep frames are reloaded (R139). -/
def keepUpEnd (s : State) : State :=
  let s1 := channelsWake ((endKeepTime s).enterConds 0)
  let s2 := { s1 with pwr := { s1.pwr with move := .none, wake := none }, dram := { s1.dram with dcm := { s1.dram.dcm with unitAt := s1.dram.dcm.unitAt.map fun _ => s1.clk } } }
  let s3 := if s.fld Reg.PWR_STS_STATE = 3 then s2.count Reg.PWR_EXIT_CNT_KEEP else s2
  servePins ((s3.setFld Reg.PWR_STS_TRANS 0).setFld Reg.PWR_STS_STATE 0)

/-- The step that waited for the rails proceeds when VCORE and VSRAM are both acknowledged (R380). -/
def railsDone (s : State) : State :=
  if s.pwr.reqs.any (fun r => r.rail < 2) then s
  else match s.pwr.move with
    | .keepRails => keepReached s
    | .keepExit => keepUpEnd s
    | _ => s

/-- An entry in progress is abandoned (R373): counted in the field of the state being entered, with the steps taken reversed. -/
def abandonEntry (s : State) : State :=
  match s.pwr.move with
  | .keepReleasing =>
    ({ (s.setFld Reg.PWR_STS_TRANS 0) with pwr := { s.pwr with move := .none } }).count
      Reg.PWR_ABANDON_KEEP
  | .keepRails => (keepUpBegin s).count Reg.PWR_ABANDON_KEEP
  | _ => s

/-- Wakes that arrive together cause one exit, recorded under the lowest code (R374). -/
def noteWake (src inst : Nat) (s : State) : State :=
  match s.pwr.wake with
  | some w => if src < w then ((s.setFld Reg.PWR_LAST_WAKE_SRC src).setFld Reg.PWR_LAST_WAKE_INST inst) else s
  | none =>
    let s1 := ((s.setFld Reg.PWR_LAST_WAKE_FROM s.powerState).setFld Reg.PWR_LAST_WAKE_SRC src).setFld Reg.PWR_LAST_WAKE_INST inst
    { s1 with pwr := { s1.pwr with wake := some src } }

/-- A single domain brought to On (R363). -/
def upDomain (d : Nat) (s : State) : State :=
  if s.domFenced d || s.tableCond 0 d != .on || s.cond d == .on then s
  else if s.cond d == .stopped then s.setCond d .on
  else (s.setCond d .on).count Reg.PWR_GATE_CNT_COUNT

/-! ### Gating one domain (R361 to R363) -/

/-- What domain `d` becomes when it is gated in Trim (Table 12.4): a stitcher with no request queued and an engine with no context running are
Retained; absent heads, free spare slices, the standby core and the fuse and debug domains are Off; no other domain is gated. -/
def State.gateTarget (s : State) (d : Nat) : Option DomCond :=
  if s.cond d != .on then none
  else if s.tableCond 0 d == .off then some .off
  else if s.allowed = 0 ∨ s.fld Reg.PWR_STS_STATE ≠ 0 then none
  else if 42 ≤ d ∧ d < 58 then
    (if s.cold.jobs.any (fun j => j.stitcher == some (d - 42)) || s.cold.ops.any (fun o => o.stitcher == some (d - 42)) then none else some .retained)
  else if 122 ≤ d ∧ d < 130 then (if s.nme.running.any (fun r => r.eng == d - 122) then none else some .retained)
  else none

/-- The domains that are gated together with `d`: its Trim group (Table 16.2), or `d` alone. -/
def State.trimGroup (s : State) (d : Nat) : List Nat := (s.layout.groups.find? (fun g => g.contains d)).getD [d]

/-- Table 12.3: the gates of the domain close and it takes condition `c`; `t0` is kept for R362. -/
def gateDomain (d : Nat) (c : DomCond) (s : State) : State :=
  ((s.setCond d c).onPwr fun p => { p with downs := (d, s.clk) :: p.downs.filter (fun e => e.1 != d) }).onNoc fun n =>
    { n with closed := if n.closed.contains d then n.closed else n.closed ++ [d] }

/-- A wake of domain `d` (R362, R363): before the clamp, 60 ns into a power-down, the power-down is abandoned; between the clamp and the
switch, at 80 ns, it finishes and a full power-up follows; PWR_ABORT counts both. -/
def wakeDomain (d : Nat) (s : State) : State :=
  let clear := fun (t : State) => t.onPwr fun p => { p with downs := p.downs.filter (fun e => e.1 != d) }
  match s.pwr.downs.find? (fun e => e.1 == d) with
  | none => openGates d (upDomain d s)
  | some e =>
    if s.clk < e.2 + 60 then openGates d (clear ((s.setCond d .on).count Reg.PWR_ABORT_BEFORE_CLAMP))
    else if s.clk < e.2 + 80 then openGates d (clear ((upDomain d s).count Reg.PWR_ABORT_AFTER_CLAMP))
    else openGates d (clear (upDomain d s))

/-! ### Wakes (R373, R374) -/

/-- A wake reaches the power controller (R373, R374): it is recorded and waits for its exit; an entry under way is abandoned; from Trim only the
domain named is restored. Forced Keep honours no wake but the input's return (R367). -/
def takeWake (src inst : Nat) (dom : Option Nat) (s : State) : State :=
  if s.on Reg.PWR_STS_FORCED then
    (if src = 8 ∧ s.fld Reg.SUP_STS_BAND < 2 then noteWake src inst (s.setFld Reg.PWR_STS_FORCED 0) else s)
  else if s.pwr.move == .keepReleasing || s.pwr.move == .keepRails then
    let s1 := abandonEntry (noteWake src inst s)
    if s1.pwr.move == .none then { s1 with pwr := { s1.pwr with wake := none } } else s1
  else if 2 ≤ s.fld Reg.PWR_STS_STATE then noteWake src inst s
  else match dom with
    | none => s
    | some d =>
      if s.cond d == .on then s
      else
        let s1 := wakeDomain d (noteWake src inst s)
        { s1 with pwr := { s1.pwr with wake := none } }

/-- The exit that a recorded wake asks for: Doze is left at once, Keep when its rails are acknowledged. -/
def serveWake (s : State) : State :=
  let t := { s with pwr := { s.pwr with wake := none } }
  if s.fld Reg.PWR_STS_STATE = 2 then dozeUp t
  else if s.fld Reg.PWR_STS_STATE = 3 ∧ s.pwr.move == .none then keepUpBegin t
  else t

/-- The allowed state has changed: a state deeper than it is left with wake code 0x06 (R374). -/
def recheckAllowed (s : State) : State :=
  if 2 ≤ s.fld Reg.PWR_STS_STATE ∧ s.allowed < s.fld Reg.PWR_STS_STATE then serveWake (takeWake 6 0 none s) else s

/-! ### Forced Keep (R367) -/

/-- The work that the blockers of R366 protect ends (R367): descriptors stop, page-level operations short of their commit are abandoned, and a re-encryption goes back to its last
checkpoint, from which it goes on after the exit. Rebuilds stand at a checkpoint after each unit, and garbage collection keeps its victims. -/
def endWorkForKeep (s : State) : State :=
  (abandonPageOps (haltEngines s)).onVault fun v => { v with reenc := v.reenc.map fun r => { r with next := 16384 * r.done } }

/-- The input is in the 4.5 to 7.0 V band: the power controller enters Keep at once, ending the work that the blockers protect. An exit from Keep
under way stops and counts in PWR_ABANDON.KEEP. -/
def forceKeep (s : State) : State :=
  if s.on Reg.PWR_STS_FORCED then s
  else
    let s0 := s.setFld Reg.PWR_STS_FORCED 1
    let s1 := if s.pwr.move == .keepExit then s0.count Reg.PWR_ABANDON_KEEP else s0
    if s.fld Reg.PWR_STS_STATE = 3 ∧ s.pwr.move == .none then s1
    else if s.fld Reg.PWR_STS_STATE = 2 then keepDown (dozeUp (endWorkForKeep s1))
    else keepDown (endWorkForKeep s1)

end Sys2Proof.Machine
end

