-- ==== Sys2Proof/Machine/SupplyOps.lean ====
section
/-! DEFINITION. The shared operations of the TP7: supply channels, trips and retries, the operating band and the power cap (chapter 13). -/
namespace Sys2Proof.Machine

open Sys2Proof

/-- Supply channel `j` is a feed, a slot channel, or switched at all (Table 13.1). -/
def isFeed (j : Nat) : Bool := decide (j < 2)
def isSlot (j : Nat) : Bool := decide (4 ≤ j ∧ j < 36)
def isSwitched (j : Nat) : Bool := isFeed j || isSlot j

/-- The slot channel of slot `z` of channel `c` (R383). -/
def slotChan (c z : Nat) : Nat := 4 + 2 * c + z

/-- SUP_CH_STS[j].STATE. -/
def State.supSt (s : State) (j : Nat) : Nat := s.fld (Reg.SUP_CH_STS_STATE j)

/-- Whether the switch of channel `j` conducts: ramp, qualifying or on. -/
def State.conducts (s : State) (j : Nat) : Bool := s.supSt j == 1 || s.supSt j == 2 || s.supSt j == 3

/-- The DCC slot state of slot channel `j`. -/
def State.slotSt (s : State) (j : Nat) : Nat := s.fld (Reg.DCC_SLOT_STATE ((j - 4) / 2) ((j - 4) % 2))
def State.setSlotSt (s : State) (j v : Nat) : State := s.setFld (Reg.DCC_SLOT_STATE ((j - 4) / 2) ((j - 4) % 2)) v

/-- PG of channel `j`, mirrored in SUP_STS for a feed (R396). -/
def setPg (j : Nat) (b : Bool) (s : State) : State :=
  let s1 := s.setBit (Reg.SUP_CH_STS_PG j) b
  if j = 0 then s1.setBit Reg.SUP_STS_FEED_A_PG b else if j = 1 then s1.setBit Reg.SUP_STS_FEED_B_PG b else s1

/-- The fault timer of channel `j` in ns: FEED_FT_MS, 0 acting as 1 and above 20 as 20, or SLOT_FT_MS, above 10 as 10 (SUP_CFG). -/
def State.faultTimer (s : State) (j : Nat) : Nat :=
  (if isFeed j then clamp 1 20 (s.fld Reg.SUP_CFG_FEED_FT_MS) else clamp 1 10 (s.fld Reg.SUP_CFG_SLOT_FT_MS)) * ms

/-- The retries left in MODE 1 (R398): RETRIES less those used since the channel was armed. -/
def State.retryLeft (s : State) (j : Nat) : Nat := s.fld (Reg.SUP_CH_CFG_RETRIES j) - (s.chan j).used

/-- The switch opens: the channel stops conducting, PG falls and the fault timer stops. -/
def openSwitch (j st : Nat) (s : State) : State :=
  let s1 := ((setPg j false s).setFld (Reg.SUP_CH_STS_FT_RUN j) 0).setFld (Reg.SUP_CH_STS_STATE j) st
  s1.updChan j fun c => { c with ftAt := none, ftInWin := false, winAt := none, retrying := false, ramped := false, offAt := s.clk }

/-- The switch starts its ramp (R385); the rail of a slot is no longer safe. -/
def startRamp (j : Nat) (retry : Bool) (s : State) : State :=
  let s1 := (s.setFld (Reg.SUP_CH_STS_STATE j) 1).setFld (Reg.SUP_CH_STS_SAFE j) 0
  s1.updChan j fun c => { c with rampAt := s.clk, ramped := false, winAt := none, ftInWin := false, retrying := retry, nextAt := none }

/-- After a trip or a failed attempt (R398): MODE 0 waits 1 s for the next attempt; MODE 1 does so while retries are left, else the channel
enters latch-off. -/
def scheduleRetry (j t0 : Nat) (s : State) : State :=
  if s.fld (Reg.SUP_CH_CFG_MODE j) = 0 ∨ 0 < s.retryLeft j then
    (((s.setFld (Reg.SUP_CH_STS_STATE j) 4).setFld (Reg.SUP_CH_STS_NEXT_10MS j) 100).setFld (Reg.SUP_CH_STS_RETRY_LEFT j) (s.retryLeft j)).updChan j
      fun c => { c with nextAt := some (t0 + sec) }
  else (s.setFld (Reg.SUP_CH_STS_STATE j) 5).setFld (Reg.SUP_CH_STS_RETRY_LEFT j) 0

/-- A trip of channel `j` (R397): the switch opens, PG clears, TRIPS advances, LAST_TRIP takes `code`; FEED_LOSS or SLOT_TRIP is reported with the
channel's status. A slot in STATE 3 to 5 fails with cause 6, or 7 where its latches were opened; one in STATE 8 follows the failed restore (R407, R410). -/
def trip (j code : Nat) (s : State) : State :=
  let s1 := ((openSwitch j 5 s).count (Reg.SUP_CH_STS_TRIPS j)).setFld (Reg.SUP_CH_STS_LAST_TRIP j) code
  let s2 := scheduleRetry j s.clk s1
  if isFeed j then s2.report 0x2A j [(s2.reg (Reg.SUP_CH_STS j)).toNat]
  else
    let st := s2.slotSt j
    let s3 := if st = 3 ∨ st = 4 ∨ st = 5 ∨ st = 8 then failSlot ((j - 4) / 2) ((j - 4) % 2) (if code = 4 then 7 else 6) s2 else s2
    s3.report 0x2C (j - 4) [(s2.reg (Reg.SUP_CH_STS j)).toNat]

/-- A feed that carried the module is lost (R384, R386, R501): its absence begins, and when no feed has PG the input's does too. -/
def feedLost (f : Nat) (had : Bool) (s : State) : State :=
  let s1 := s.onSup fun p => { p with feedLostAt := p.feedLostAt.set f (some s.clk) }
  let s2 := if s1.on Reg.SUP_STS_FEED_A_PG || s1.on Reg.SUP_STS_FEED_B_PG || s1.sup.lostAt.isSome then s1
    else s1.onSup fun p => { p with lostAt := some s.clk }
  if had then s2.report 0x2A f [(s2.reg (Reg.SUP_CH_STS f)).toNat] else s2

/-! ### Bands and the cap (R390 to R393) -/

/-- The healthy phases of the module bus. -/
def State.healthy (s : State) : Nat := ((List.range 6).filter (fun p => s.bitOf Reg.SUP_STS_PHASE_OK p)).length

/-- P_cap (R392, Table 13.5, R515, R516): 165 W for each healthy phase, in a lower band at most 75 A × Vin, and at most the inlet limit and the
640 W of a junction warning. -/
def State.pCap (s : State) : Nat :=
  let a := 165 * s.healthy
  let b := if s.fld Reg.SUP_STS_BAND = 0 then a else Nat.min a (75 * s.sup.vin / 1000)
  let c := Nat.min b s.sup.inletCap
  if s.sup.thermCap then Nat.min c 640 else c

/-- SUP_CAP.PCAP_W recomputed. -/
def updateCap (s : State) : State := s.setFld Reg.SUP_CAP_PCAP_W s.pCap

/-- Whether the contracts and the engines take the input as below 10.8 V (R393). -/
def State.supplyLow (s : State) : Bool := s.fld Reg.SUP_STS_BAND != 0 || decide (s.fld Reg.SUP_CAP_PCAP_W < 800)

/-- Whether `mv` lies below a threshold that lies somewhere from `lo` to `hi` mV (R390): certain at or below `lo`, excluded above `hi`, and free
between them. -/
def belowRange (mv lo hi : Nat) (free : Bool) : Bool := decide (mv ≤ lo) || (decide (mv ≤ hi) && free)

/-- Whether `mv` lies above a threshold that lies somewhere from `lo` to `hi` mV. -/
def aboveRange (mv lo hi : Nat) (free : Bool) : Bool := decide (hi ≤ mv) || (decide (lo < mv) && free)

/-- SUP_STS.THROTTLE set to `v`; CAP reads 1 while throttling holds P_in, or the limit of the converter's input current does, which lies between 76 A and 80 A (R392). -/
def setThrottle (v : Nat) (s : State) : State :=
  let pin := 1000 * s.fld Reg.SUP_CAP_PIN_W
  ((s.setFld Reg.SUP_STS_THROTTLE v).setBit Reg.SUP_STS_CAP (v != 0 || aboveRange pin (76 * s.sup.vin) (80 * s.sup.vin) ((s.freeVal 1) == 1#1))).spent

/-- The band becomes `b` (Table 13.5): from entry into band 2, THROTTLE is 7 and Keep is forced (R367). -/
def enterBand (b : Nat) (s : State) : State :=
  let s1 := updateCap (s.setFld Reg.SUP_STS_BAND b)
  if b = 2 then forceKeep (setThrottle 7 s1) else s1

/-! ### The commands of SUP_CMD (R399, R409) -/

/-- SUP_CMD_STS after command on channel `j`. -/
def supCode (j code : Nat) (s : State) : State :=
  ((s.setFld Reg.SUP_CMD_STS_CODE code).setFld Reg.SUP_CMD_STS_CH j).setFld Reg.SUP_CMD_STS_BUSY 0

/-- Power off (R409): slots only, and only in STATE 0, 6, 7 or 9; the slot enters STATE 10. -/
def supPowerOff (j : Nat) (s : State) : State :=
  if !isSlot j then supCode j 5 s
  else if !s.conducts j then supCode j 6 s
  else if !([0, 6, 7, 9].contains (s.slotSt j)) then supCode j 1 s
  else supCode j 0 (updDimm ((j - 4) / 2) ((j - 4) % 2) (fun d => { d with check := false }) ((openSwitch j 6 s).setSlotSt j 10))

/-- Power on (R409): slots only, in STATE 0, 7, 9 or 10, with both latches closed, no latch-off and the band not 2. -/
def supPowerOn (j : Nat) (s : State) : State :=
  if !isSlot j then supCode j 5 s
  else if s.conducts j then supCode j 6 s
  else if !([0, 7, 9, 10].contains (s.slotSt j)) then supCode j 1 s
  else if !s.on (Reg.SUP_CH_STS_LATCH j) then supCode j 2 s
  else if s.supSt j = 5 then supCode j 3 s
  else if s.fld Reg.SUP_STS_BAND = 2 then supCode j 4 s
  else supCode j 0 (startRamp j false (updDimm ((j - 4) / 2) ((j - 4) % 2) (fun d => { d with check := true }) s))

/-- Clear latch-off (R399): the channel is armed with its full RETRIES; a feed ramps at once, a slot waits for a power-on. -/
def supClear (j : Nat) (s : State) : State :=
  if !isSwitched j then supCode j 5 s
  else if s.supSt j ≠ 5 then supCode j 6 s
  else
    let s1 := ((s.setFld (Reg.SUP_CH_STS_STATE j) 0).setFld (Reg.SUP_CH_STS_RETRY_LEFT j) (s.fld (Reg.SUP_CH_CFG_RETRIES j))).updChan j fun c => { c with used := 0 }
    supCode j 0 (if isFeed j then startRamp j false s1 else s1)

/-- A SUP_CMD command by its code; other codes are ignored. -/
def supCommand (cmd j : Nat) (s : State) : State :=
  if cmd = 1 then supPowerOff j s else if cmd = 2 then supPowerOn j s else if cmd = 3 then supClear j s else s

/-! ### Removal of a DIMM -/

/-- A channel set as a fresh insertion sets it (R401): no trips, full RETRIES, no latch-off, energy 0. -/
def freshChannel (j : Nat) (s : State) : State :=
  let s1 := ((s.setFld (Reg.SUP_CH_STS_TRIPS j) 0).setFld (Reg.SUP_CH_STS_LAST_TRIP j) 0).setFld (Reg.SUP_CH_STS_NEXT_10MS j) 0
  let s2 := (s1.setFld (Reg.SUP_CH_STS_RETRY_LEFT j) (s.fld (Reg.SUP_CH_CFG_RETRIES j))).updChan j fun c =>
    { c with used := 0, nextAt := none, energy := 0, rem := 0 }
  if s2.supSt j = 5 ∨ s2.supSt j = 4 then s2.setFld (Reg.SUP_CH_STS_STATE j) (if isFeed j then 7 else 0) else s2

/-- The newest sample and the energy of channel `j` latched into SUP_M_* (R403); channels above 35 latch zeros. -/
def latchMeasurement (j : Nat) (s : State) : State :=
  let c := if j < 36 then s.chan j else {}
  let s1 := (s.setFld Reg.SUP_M_VI_V_MV c.sampleMv).setFld Reg.SUP_M_VI_I_10MA c.sampleCur
  (s1.setFld Reg.SUP_M_P_P_MW (c.sampleMv * c.sampleCur / 100)).setPair Reg.SUP_M_E_LO Reg.SUP_M_E_HI c.energy

/-- The inlet limit in W at an inlet temperature of `t` tenths of a °C (Table 19.10, R514). -/
def inletLimit (t : Nat) : Nat := if t ≤ 350 then 800 else (8000 - 16 * (t - 350)) / 10

end Sys2Proof.Machine
end

