-- ==== Sys2Proof/Machine/ResetOps.lean ====
section
/-! DEFINITION. The shared operations of the reset controller: reset levels, their reach and what they keep, merging and deferral, block resets
and the start-up phases (chapter 15). -/
namespace Sys2Proof.Machine

open Sys2Proof

/-! ### Registers under a reset (R14, R434, R435) -/

/-- Every register after a reset of the whole module. -/
def resetRegs (lvl : Nat) (s : State) : State :=
  { s with regs := SMap.mapAll Reg.resetOf (fun a v => keepBits a (keepMask lvl a) v) s.regs }

/-- The register ranges of the blocks of power domain `d` (R359, Table 18.2). -/
def blockRanges (d : Nat) : List (Nat × Nat) :=
  if d < 4 then [(0x160000 + 0x4000 * d, 0x164000 + 0x4000 * d)]
  else if 8 ≤ d ∧ d < 42 then [(0xC0000 + 0x1000 * (d - 8), 0xC1000 + 0x1000 * (d - 8))]
  else if 58 ≤ d ∧ d < 74 then [(0x100000 + 0x4000 * (d - 58), 0x102000 + 0x4000 * (d - 58))]
  else if 90 ≤ d ∧ d < 92 then [(0xA0000 + 0x10000 * (d - 90), 0xA8000 + 0x10000 * (d - 90))]
  else if d = 117 then [(0x90000, 0xA0000), (0x102000, 0x104000)]
  else if 122 ≤ d ∧ d < 130 then [(0x140000 + 0x1000 * (d - 122), 0x141000 + 0x1000 * (d - 122))]
  else if d = 132 then [(0x150000, 0x160000)]
  else if d = 136 then [(0x50000, 0x60000)]
  else []

/-! ### Causes (RST_CAUSE, RST_LOCAL, RST_HIST) -/

/-- The level in force of source `src` (R429). -/
def State.effLevel (s : State) (src : Nat) : Nat :=
  Nat.max (s.fld (Reg.RST_MAP_FUSE src)) (s.fld (Reg.RST_MAP_LAYOUT src))

/-- Source `src` has caused a reset. -/
def seenSource (src : Nat) (s : State) : State := s.setBitOf Reg.RST_HIST_SEEN src true

/-- RST_LOCAL after a reset of Level 1 to 3. -/
def localCause (src inst lvl : Nat) (s : State) : State :=
  seenSource src (((s.setFld Reg.RST_LOCAL_INST inst).setFld Reg.RST_LOCAL_LEVEL lvl).setFld Reg.RST_LOCAL_SRC src)

/-- RST_CAUSE after a module reset. -/
def moduleCause (src inst lvl : Nat) (merged deferred : Bool) (s : State) : State :=
  seenSource src (((((s.setFld Reg.RST_CAUSE_INST inst).setBit Reg.RST_CAUSE_DEFERRED deferred).setBit Reg.RST_CAUSE_MERGED merged).setFld
    Reg.RST_CAUSE_LEVEL lvl).setFld Reg.RST_CAUSE_SRC src)

/-! ### Level 4 and Level 5 -/

/-- What a reset interrupts of a start-up in progress: a fuse load counts as incomplete (R448) and a layout attempt as failed (R450). -/
def interruptStartup (s : State) : State :=
  let s1 := if s.fld Reg.RST_STS_PHASE = 1 then
      let fs := s.clk :: s.rst.fuseFails.filter (fun t => decide (s.clk < t + sec))
      ((s.onRst fun r => { r with fuseFails := fs }).setFld Reg.RST_BOOT_FUSE_TRIES (Nat.min 3 fs.length)).setFld Reg.RST_BOOT_FUSE_BANK 0xFE
    else s
  if s.fld Reg.RST_STS_PHASE = 4 then s1.setFld Reg.RST_BOOT_LAYOUT_TRIES (Nat.min 3 (s1.fld Reg.RST_BOOT_LAYOUT_TRIES + 1)) else s1

/-- The logic outside the keep island and the key vault is reset, with QOS_CSEL of every path kept in the island (R435): requests, tables, queues, packets, rings and commands in progress are gone, every
link is down, no LD is Memory_Active, every cinch is released (R266), offers that no host accepted are withdrawn (R521), and the frames' fill and write-back
marks are gone with the work they stood for. -/
def clearLogic (s : State) : State :=
  let s1 := forAll (List.range 4) s fun t h => (if t.present h then resetHead h t else t).updHead h fun x => { x with rekey := [] }
  let s2 := forAll (List.range 16) s1 fun t k => t.updLd k fun d =>
    { d with memActive := false, decoders := [{}, {}, {}, {}], msixPending := 0, extents := d.extents.filter Extent.accepted, releasing := [], recalls := [] }
  { s2 with
    layout := { s2.layout with loaded := [] },
    paths := SMap.mapAll (fun _ => {}) (fun _ (p : PathState) => { qosCsel := p.qosCsel }) s2.paths, flight := [], replies := [], slices := [], takeovers := [], teardown := [],
    noc := {}, nme := {}, mgmt := {}, pmu := {},
    qos := { lastPinned := s2.qos.lastPinned ++ (s2.qos.cinches.map Prod.snd).filter fun c => c.pin && c.st != .free },
    dram := { s2.dram with
      groups := [], stackHeld := [], checked := false
      dcc := SMap.mapAll (fun _ => ({} : Dcc)) (fun _ (d : Dcc) =>
        { inject := d.inject, corrupt := d.corrupt, lost := d.lost, slots := d.slots.map fun z => { fitted := z.fitted, info := none, retired := z.retired } }) s2.dram.dcc }
    hot := { s2.hot with fills := [], pending := [], pinWait := [], hints := [], held := [], shedRun := [false, false], desc := SMap.mapAll (fun _ => ({} : FrameDesc)) (fun _ (d : FrameDesc) => { d with fill := false, wb := false }) s2.hot.desc },
    cold := { s2.cold with domains := s2.cold.domains.filter (fun d => !d.members.isEmpty), jobs := [], ops := [], streams := [], writes := [], victims := [], hostVictims := [], groups := [] },
    vault := { s2.vault with reenc := s2.vault.reenc.map fun r => { r with active := false, next := 16384 * r.done } },
    pwr := { s2.pwr with cond := [], move := .none, wake := none, downs := [], reqs := [] } }

/-- Fences that a Level 4 or Level 5 reset lifts (R335): all but those of channels, which are retested. The SRAMs outside the keep island, the key vault and the TP7 start anew. -/
def liftFences (s : State) : State :=
  s.onFlt fun f =>
    { f with fenced := f.fenced.filter (fun b => match b with | .channel _ => true | _ => false), returned := [], returnAt := [], firstBlocks := [],
             sram := SMap.keep (fun k => [133, 134, 0xFF].contains (k / 2 ^ 32)) f.sram,
             exposures := f.exposures.filter fun e => !(e.src == 0x22 && !([133, 134, 0xFF].contains (e.inst / 2 ^ 32))) }

/-- The status of a start-up of level `lvl` that begins now; keep island and key vault are On. -/
def beginStartup (lvl : Nat) (s : State) : State :=
  let s1 := { s with rst := { s.rst with t0 := s.clk, blocks := [], released := [], pulse := none, deferred := none }, fuses := { s.fuses with loaded := false }, flash := { s.flash with transfer := none, job := none } }
  let s2 := ((s1.setReg Reg.RST_STS 0).setFld Reg.RST_STS_LEVEL lvl).setFld Reg.RST_STS_PHASE 1
  let s3 := ((s2.setFld Reg.PWR_STS_STATE 0).setFld Reg.PWR_STS_TRANS 0).setFld Reg.RST_CMD_STS_BUSY 0
  ((s3.setBit Reg.CRY_STS_WIPING s.rst.overwrite).setCond 133 .on).setCond 134 .on

/-- An injection armed for a fuse bank waits for the load that this reset brings (Table 11.4, TGT 14); every other one is cleared. -/
def keepFuseInjection (was s : State) : State :=
  if was.on Reg.FLT_INJ_ARM && was.fld Reg.FLT_INJ_TGT == 14 then s.setReg Reg.FLT_INJ (was.reg Reg.FLT_INJ) else s

/-- Level 4 (R441, Table 15.7, steps 1 to 4). Contents, keys, the ledger's counters and the keep island stay. -/
def level4 (src inst : Nat) (merged deferred : Bool) (s : State) : State :=
  let s1 := channelsToSleep (finishAll (saveBlocks (interruptStartup s)))
  let s2 := keepFuseInjection s (liftFences (resetRegs 4 (clearLogic s1)))
  let s3 := s2.unexpose fun e => [0x0C, 0x11, 0x20].contains e.src
  moduleCause src inst 4 merged deferred (beginStartup 4 s3)

/-- Level 5 (R214, R441): the key vault and the ledger's root counters are zeroised first, no idle request is sent, the hot tier is wiped, and the
keep island resets too but for R435. Every slot fenced by a record stays fenced, and the TP7's state with the exposures that lie in it stays. -/
def level5 (src inst : Nat) (merged deferred : Bool) (s : State) : State :=
  let s1 := clearLogic (interruptStartup s)
  let s2 := keepFuseInjection s (liftFences (resetRegs 5 s1))
  let s3 := { s2 with
    vault := {}, hot := {}, layout := {}, paths := [],
    cold := { s2.cold with segs := [], journal := [], drained := 0, jseam := 0, jpos := [], jtags := [], applied := [], badRoots := [], discarding := [], nextSeq := 1, domains := [], acceptSeq := 0, images := 0, used := [] },
    flt := { log := s2.flt.log, queued := s2.flt.queued, inbox := s2.flt.inbox, fenced := s2.flt.fenced, sram := SMap.keep (fun k => k / 2 ^ 32 == 0xFF) s2.flt.sram,
             exposures := s2.flt.exposures.filter fun e => e.src == 0x2A || e.src == 0x2D || e.src == 0x22 && e.inst / 2 ^ 32 == 0xFF },
    dram := { s2.dram with dcm := {} },
    clocks := { s2.clocks with keepTick := 0, frac := 0, slewFrac := 0, slewRem := 0, sleepStart := none, calAt := none },
    lds := [] }
  moduleCause src inst 5 merged deferred (beginStartup 5 s3)

/-- A module reset of level 4 or 5 from source `src` (R451, R453): during a non-volatile pulse it is deferred to the pulse's end; during a start-up
it is merged, at Level 5 when either of the two is of Level 5. In the fuse-load hold only a power-on and MRST_N act (R449). -/
def moduleReset (src inst lvl : Nat) (deferred : Bool) (s : State) : State :=
  if s.on Reg.RST_STS_HOLD && decide (2 ≤ src) then seenSource src s
  else match s.rst.pulse with
  | some p =>
    let s1 := ((s.setFld Reg.RST_NVW_VALID 1).setFld Reg.RST_NVW_KIND p.kind).setFld Reg.RST_NVW_UNIT p.unit
    let keep := match s.rst.deferred with
      | some (_, _, l, _) => decide (lvl < l)
      | none => false
    if keep then s1 else (s1.onRst fun r => { r with deferred := some (src, inst, lvl, s.clk) }).onFlash fun f => { f with report := true }
  | none =>
    let running := s.fld Reg.RST_STS_LEVEL
    let l := Nat.max lvl (if running = 5 then 5 else 4)
    if l = 5 then level5 src inst (running != 0) deferred s else level4 src inst (running != 0) deferred s

/-- Loss of the TV7's supply: memory contents are lost with everything the TV7 holds (R4, R32); module flash and the fuses stay. -/
def supplyLost (s : State) : State :=
  let s1 := level5 0 0 false false s
  { s1 with cold := { s1.cold with stitches := [], unwritten := [] } }

/-! ### Block resets (R437 to R440) -/

/-- The domains that RST_CMD accepts at Level 3 (R440). -/
def resettable (d : Nat) : Bool := decide (d < 144) && !([133, 134, 135, 142].contains d)

/-- An idle request to domain `d` for source `src` (Table 15.5, step 1): new requests for the block are answered QUIESCE. -/
def startBlockReset (src d : Nat) (s : State) : State :=
  let s1 := (quiesceBlock d s).onRst fun r => { r with blocks := r.blocks ++ [{ dom := d, src := src, at_ := s.clk }] }
  ((localCause src d 3 s1).setFld Reg.RST_STS_BLOCK_RST 1).setFld Reg.RST_IDLE_LAST_DOM d

/-- The Level 3 reset of domain `d` is over. -/
def endBlockReset (d : Nat) (s : State) : State :=
  let s1 := s.onRst fun r => { r with blocks := r.blocks.filter (fun b => b.dom != d) }
  let s2 := s1.setBit Reg.RST_STS_BLOCK_RST (!s1.rst.blocks.isEmpty)
  if s.rst.blocks.any (fun b => b.dom == d && b.src == 8) then s2.setFld Reg.RST_CMD_STS_BUSY 0 else s2

/-! ### Sources (R428 to R430) -/

/-- A head source (0x02 to 0x04) of head `h` at its level in force. -/
def headSource (src h : Nat) (s : State) : State :=
  let l := s.effLevel src
  if 4 ≤ l then moduleReset src h l false s
  else if l = 3 then (if s.rst.blocks.any (fun b => b.dom == h) then s else startBlockReset src h s)
  else
    let s1 := localCause src h l (resetHead h s)
    if l = 2 then forAll (s.ldsOf h) s1 (fun t k => resetLdState k false t) else s1

/-- A surprise link-down of head `h` (R68, R428): counted, reported, and a source at its level in force. -/
def linkLost (h : Nat) (s : State) : State :=
  headSource 3 h ((s.count (Reg.HPA_RECOV_LINK_DOWNS h)).report 0x19 h)

/-- Steps 4 and 5 of Table 15.5: the block is reset and released, and its self-test begins. A head controller's Level 3 reset includes Levels 1 and 2
for that head and its LDs (R430); the reset of a PHY quad takes its head's link down. -/
def assertBlockReset (d : Nat) (s : State) : State :=
  let s1 := if d < 4 then forAll (s.ldsOf d) (resetHead d s) (fun t k => resetLdState k false t)
    else if d < 8 ∧ s.linkUp (s.quadHead (d - 4)) then linkLost (s.quadHead (d - 4)) s else s
  let s2 := resetBlockState d (s1.clearSram d)
  let kept := (heldRegs d).map fun a => (a, s2.reg a)
  let s3 := forAll (blockRanges d) s2 fun t r => resetRange r.1 r.2 t
  let s4 := forAll kept s3 fun t e => t.setReg e.1 e.2
  let s5 := if d = 117 then forAll (List.range 16) s4 fun t n => t.setBit (Reg.CTM_STCH_FENCED n) (t.isFenced (.stitcher n)) else s4
  (notReady d s5).onRst fun r => { r with blocks := r.blocks.map fun b => if b.dom = d then { b with released := true } else b }

/-- An LD source (0x05, 0x06) of LD `k` at its level in force. -/
def ldSource (src k : Nat) (cxl : Bool) (s : State) : State :=
  let l := s.effLevel src
  if 4 ≤ l then moduleReset src k l false s
  else if l = 3 then
    (match s.headOf k with
     | some h => if s.rst.blocks.any (fun b => b.dom == h) then s else startBlockReset src h s
     | none => s)
  else localCause src k 2 (resetLdState k cxl s)

/-- A block source (0x07 to 0x0A) of power domain `d` at its level in force. -/
def blockSource (src d : Nat) (s : State) : State :=
  let l := s.effLevel src
  if 4 ≤ l then moduleReset src d l false s else startBlockReset src d s

/-- A module source at its level in force; `lvl` is the level that a command asks for. -/
def moduleSource (src inst : Nat) (s : State) : State := moduleReset src inst (s.effLevel src) false s

/-- RST_CMD_STS.CODE. -/
def rstCode (c : Nat) (s : State) : State := s.setFld Reg.RST_CMD_STS_CODE c

/-- RST_CMD with LEVEL 3, and the block-reset command (R440). -/
def commandLevel3 (d : Nat) (s : State) : State :=
  if !resettable d then rstCode 1 s
  else if s.rst.blocks.any (fun b => b.dom == d) then rstCode 3 s
  else if s.domFenced d || s.cond d == .off then rstCode 4 s
  else (blockSource 8 d (rstCode 0 s)).setBit Reg.RST_CMD_STS_BUSY (decide (s.effLevel 8 < 4))

/-! ### Non-volatile writes (R451, R452) -/

/-- A pulse of `kind` begins, to write `job` when it ends; after the power-fail warning no pulse starts (R452). Which fuse bank or flash sector it is on is
free. -/
def nvWrite (kind : Nat) (job : FlashJob) (s : State) : State :=
  if s.on Reg.SUP_STS_PFW then s
  else
    let u := (s.freeVal 12).toNat
    (s.spent.onRst fun r => { r with pulse := some { kind := kind, unit := u, at_ := s.clk } }).onFlash fun f => { f with job := some job }

/-! ### Start-up (Tables 15.6 and 15.7) -/

/-- The domains whose self-test must pass, or whose fence must be in force, before the boot ROM starts (Table 15.6, steps 5 and 6). -/
def bootDomains : List Nat := [110, 111, 112, 113, 114, 115, 116, 117, 118, 119, 120, 121, 130, 132, 142]

/-- Whether start-up cannot continue (R443): the layout-store SRAM is fenced, or both plaza cores are. -/
def State.cannotStart (s : State) : Bool := s.isFenced (.domain 142) || (s.isFenced .plazaPair && s.isFenced (.domain 131))

/-- Every present head whose PERST# is high is ready (RST_STS.IO_READY); 0, its reset value, while no layout has made a head present. -/
def State.ioReady (s : State) : Bool :=
  (List.range 4).any s.present && (List.range 4).all fun h => !s.present h || s.perstHeld h || (s.head h).ready

end Sys2Proof.Machine
end

