-- ==== Sys2Proof/Machine/ClockOps.lean ====
section
/-! DEFINITION. The shared operations of the references, the clock domains and module time (chapter 14). -/
namespace Sys2Proof.Machine

open Sys2Proof

/-- The preference order of the core reference (Table 14.1): 0 REFCLK0, 1 REFCLK1, 2 LOCAL. -/
def State.refOrder (s : State) : List Nat := if s.fld Reg.CLK_STS_MODE = 0 then [0, 1, 2] else [2, 0, 1]

/-- Whether the heads run in common clock (Table 14.1). -/
def State.commonClock (s : State) : Bool := s.fld Reg.CLK_STS_MODE == 0 || s.fld Reg.CLK_STS_MODE == 2

/-- Whether reference `r` is good (R414). -/
def State.refGood (s : State) (r : Nat) : Bool := s.bitOf Reg.CLK_STS_REF_OK r

/-- The connector that carries head `h`'s lowest lane (R496, Table 2.1). -/
def State.connector (s : State) (h : Nat) : Nat := if s.fld (Reg.HPA_CFG_SPLIT 0) = 2 then h / 2 else h

/-- The core reference becomes `r`: the PLLs hold over until they have re-acquired (R415, R416). -/
def selectRef (r : Nat) (s : State) : State :=
  ((s.setFld Reg.CLK_STS_CORE_SRC r).setFld Reg.CLK_STS_HOLDOVER 1).setFld Reg.CLK_STS_FREE_RUN 0

/-- The core reference has been lost (R415, R417): the next good one in the order of preference takes over; with none good the PLLs run free
and TIME_NS counts as in sleep. -/
def failOver (s : State) : State :=
  match s.refOrder.find? s.refGood with
  | some r => (selectRef r s).count Reg.CLK_FOVER_CORE
  | none =>
    let s1 := ((s.setFld Reg.CLK_STS_CORE_SRC 3).setFld Reg.CLK_STS_FREE_RUN 1).setFld Reg.CLK_STS_HOLDOVER 0
    if s1.clocks.sleepStart.isSome then s1 else beginKeepTime s1

/-- The quads of connector `c` lose their REFCLK (R418): a 1×16 head switches to the other connector's reference where that is good; any other
head takes a link-down, and after its cable measurement (R56) retrains in SRIS on LOCAL where HEAD_SRIS is 1. A link that runs in SRIS goes on. -/
def quadsLose (c : Nat) (s : State) : State :=
  if !s.commonClock then s
  else forAll (List.range 4) s fun t h =>
    if !t.present h || (t.head h).sris then t
    else if t.fld (Reg.HPA_CFG_SPLIT 0) = 0 then
      (if t.refGood (1 - c) then t.count Reg.CLK_FOVER_HEAD else if t.linkUp h then (linkLost h t).count Reg.CLK_FOVER_HEAD else t)
    else if t.connector h = c ∧ t.linkUp h then
      (linkLost h t).count Reg.CLK_FOVER_HEAD
    else t

/-- Set Timestamp (R425): `t` at or above TIME_NS is a step; below it, a slew takes the place of any correction still under way. EXTRAPOLATED and
ERR_US are cleared, and the PMU's window counts as adjusted (R485). -/
def stampTime (t : Nat) (s : State) : State :=
  let n := s.time
  let s1 := ((s.setFld Reg.TIME_STATUS_EXTRAPOLATED 0).setFld Reg.TIME_STATUS_ERR_US 0).onPmu fun p => { p with adjusted := true }
  if n ≤ t then
    (((s1.onClocks fun c => { c with slewRem := 0, slewFrac := 0 }).setFld Reg.TIME_SLEW_REM_NS 0).setFld Reg.TIME_STATUS_SLEWING 0).setTime t
  else
    ((s1.onClocks fun c => { c with slewRem := n - t, slewFrac := 0 }).setFld Reg.TIME_SLEW_REM_NS (Nat.min (n - t) (2 ^ 32 - 1))).setFld
      Reg.TIME_STATUS_SLEWING 1

/-- The time that absorbs what is left of the slew (R425). -/
def State.slewLeft (s : State) : Nat := ceilDiv (s.clocks.slewRem * 1000000 - s.clocks.slewFrac) s.slewPpm

/-- The clock domain that gates power domain `d`'s release (R442, Table 14.2), where one does: a pseudo-channel group runs on its HTC's clock, an engine
on the clock of its street-grid row (R419, Table 9.1). -/
def clockOf (d : Nat) : Option Nat :=
  if d < 8 then some d
  else if d < 94 then some (d + 6)
  else if 94 ≤ d ∧ d < 110 then some (96 + (d - 94) / 8)
  else if 110 ≤ d ∧ d < 122 then some (8 + (d - 110) / 2)
  else if 122 ≤ d ∧ d < 130 then some (10 + (d - 122) / 4)
  else if 130 ≤ d ∧ d < 133 then some 100
  else none

end Sys2Proof.Machine
end

