-- ==== Sys2Proof/Machine/React.lean ====
section
/-! DEFINITION. The fault collector: what a report does (R330 to R346), the fences and their degraded operation, the recoveries of Table 11.5, the
first-error latch, records and exposures. Every meaning that reports ends with `done`, which has the reports judged. -/
namespace Sys2Proof.Machine

open Sys2Proof

/-! ### Sources (Table 11.1) -/

/-- Whether `src` is a source: IDs 0x00 and 0x36 upwards are reserved. -/
def knownSource (src : Nat) : Bool := decide (1 ≤ src) && decide (src ≤ 0x35)

/-- EFF of source `src` (R332). -/
def State.eff (s : State) (src : Nat) : Nat := Nat.max (s.fld (Reg.FLT_REACT_ACT src)) (s.fld (Reg.FLT_REACT_FLOOR src))

/-- Whether the host decides on source `src` (R334): host-assisted mode, no switch pending (Table 16.4), HA = 1. -/
def State.asks (s : State) (src : Nat) : Bool := s.on Reg.FLT_CFG_MODE_ACT && !s.switching 6 && s.on (Reg.FLT_REACT_HA src)

/-- The blocks that a power domain holds, as a fault names them (R352): a PHY stands for its controller, domain 117 for the CTM, and a segment of the
street grid for its crossings. -/
def State.domainBlocks (s : State) (d : Nat) : List Block :=
  if 4 ≤ d ∧ d < 8 then [.head (s.quadHead (d - 4))]
  else if d = 117 then [.ctm]
  else if 110 ≤ d ∧ d < 122 then (List.range 48).filterMap fun c => if (Block.crossing c).dom = d then some (.crossing c) else none
  else [blockOfDomain d]

/-- The blocks of clock domain `d` (Table 14.2): a row's clock also runs the engines of the row, and row 3's the CTM with the DCM (R419, Table 9.1). -/
def State.clockBlocks (s : State) (d : Nat) : List Block :=
  if d < 4 then [.head d]
  else if d < 8 then [.head (s.quadHead (d - 4))]
  else if d < 14 then
    ((List.range 8).map fun x => Block.crossing (8 * (d - 8) + x)) ++
      (if d = 10 then [.engine 0, .engine 1, .engine 2, .engine 3]
      else if d = 11 then [.engine 4, .engine 5, .engine 6, .engine 7, .ctm] else [])
  else if d < 48 then [.slice (d - 14)]
  else if d < 64 then [.stitcher (d - 48)]
  else if d < 96 then [.channel (d % 16)]
  else if d < 100 then [.stack (d % 2)]
  else if d = 100 then [.plazaPair]
  else []

/-- The blocks that a report names (R330). Words 0 and 1 of STREET_DOWN's detail are the crossing and the direction; SILENT_LOC without a page is the DCM's. -/
def State.blocksOf (s : State) (r : Report) : List Block :=
  let i := r.inst
  match r.src with
  | 0x01 | 0x02 | 0x06 | 0x07 | 0x2C => [.slot (i / 2) (i % 2)]
  | 0x03 => if r.info.length = 4 then [.dcm] else [.stitcher i]
  | 0x04 | 0x05 | 0x12 => [.stitcher i]
  | 0x08 => [.channel i]
  | 0x09 | 0x0A | 0x0C => [.stack i]
  | 0x0B => [.group (i / 8) (i % 8)]
  | 0x0E | 0x0F => [.ctm]
  | 0x10 | 0x11 => [.slice i]
  | 0x13 => [.engine i]
  | 0x14 | 0x16 => [.crossing i]
  | 0x15 => [.street i (r.info.getD 1 0 % 4)]
  | 0x17 | 0x18 | 0x19 | 0x1A | 0x1B | 0x1C | 0x1E | 0x35 => [.head i]
  | 0x1F | 0x22 | 0x23 | 0x34 => s.domainBlocks i
  | 0x20 | 0x21 => [.plazaPair]
  | 0x27 => s.clockBlocks i
  | _ => []

/-- Whether an open segment has stitches on a failed channel or a fenced DIMM, which are not written (R156). -/
def State.degradedOpen (s : State) : Bool :=
  s.cold.segs.any fun e => e.2.st == .opened && (List.range 16).any fun ch => !s.writable ch (e.1 * 4096)

/-- Whether stitcher `n` holds an open seam (R155). -/
def State.holdsSeam (s : State) (n : Nat) : Bool := [false, true].any fun g => !(s.stream (streamKey n g)).bufs.isEmpty

/-- The status register of the reporting instance as it reads, which DETAIL holds where no rule gives other detail (R355). -/
def State.statusOf (s : State) (src i : Nat) : Word :=
  match src with
  | 0x01 | 0x02 | 0x06 | 0x07 | 0x2C => s.reg (Reg.DCC_SLOT (i / 2) (i % 2))
  | 0x03 | 0x04 | 0x05 | 0x12 => showBit (Reg.CTM_STCH_OPEN i) (s.holdsSeam i) (s.reg (Reg.CTM_STCH i))
  | 0x08 => s.reg (Reg.DCC_STS i)
  | 0x09 | 0x0A | 0x0C => showFld (Reg.HTC_STS_UNMIRRORED i) (s.unmirrored i) (s.reg (Reg.HTC_STS i))
  | 0x0B => showFld (Reg.HTC_STS_UNMIRRORED (i / 8)) (s.unmirrored (i / 8)) (s.reg (Reg.HTC_STS (i / 8)))
  | 0x0D | 0x10 | 0x11 => s.reg (Reg.HSL_STS i)
  | 0x0E | 0x0F => showBit Reg.CTM_STS_DEGRADED_OPEN s.degradedOpen (s.reg Reg.CTM_STS)
  | 0x13 => s.reg (Reg.NME_STS i)
  | 0x14 | 0x15 | 0x16 => s.reg Reg.NOC_STS
  | 0x17 | 0x18 | 0x19 | 0x1A | 0x1B | 0x1C | 0x1E | 0x35 => s.reg (Reg.HPA_LINK_STS i)
  | 0x20 | 0x21 => s.reg Reg.MGT_STS
  | 0x24 | 0x25 => s.reg Reg.CRY_STS
  | 0x26 => s.reg Reg.CLK_STS
  | 0x27 => s.reg (Reg.CLK_DOM_FAIL (i / 32))
  | 0x2A | 0x2B | 0x2D => s.reg Reg.SUP_STS
  | 0x2E | 0x2F => s.reg Reg.PWR_REG_STS
  | 0x30 | 0x31 | 0x34 => showBit Reg.RST_STS_IO_READY s.ioReady (s.reg Reg.RST_STS)
  | 0x32 => s.reg Reg.RST_NVW
  | 0x33 => s.reg (Reg.DCC_POP 0)
  | _ => 0

/-! ### Fences and their degraded operation (R336) -/

/-- The automatic return of block `b` is due 1 s after this fence (R335). -/
def armReturn (b : Block) (s : State) : State :=
  s.onFlt fun f => { f with returnAt := f.returnAt.filter (fun e => e.1 != b) ++ [(b, s.clk)] }

/-- Head `h` fenced: its host path is lost, its requests with it. -/
def headLost (h : Nat) (s : State) : State :=
  let s1 := resetHead h s
  s1.updHead h fun x => { x with pen := [], link := .disabled }

/-- The plaza core pair fenced (Table 11.3): the standby core runs the firmware from its next start on, where it is available. -/
def pairLost (s : State) : State :=
  let s1 := stopFirmware s
  if s.on Reg.MGT_STS_STANDBY_OK then (s1.setFld Reg.MGT_STS_CORE 1).setFld Reg.MGT_STS_STANDBY_OK 0 else s1

/-- Whether a block is never fenced (R352). -/
def neverFenced (b : Block) : Bool := b == .domain 133 || b == .domain 134

/-- A block other than a crossing fenced at once (R336), with the exposure that its loss leaves (Table 11.3a); a DIMM slot or channel records cause `cause`, and a slot that serves
nothing stays as it is. -/
def fenceOne (cause : Nat) (b : Block) (s : State) : State :=
  if s.isFenced b || neverFenced b then s
  else match b with
  | .slice n => sliceLost n (armReturn b (s.fenceOff b))
  | .stitcher n => stitcherLost n (armReturn b (s.fenceOff b))
  | .engine n => engineLost n (armReturn b (s.fenceOff b))
  | .channel ch => failChannel ch cause s
  | .slot ch z => if [1, 2, 3, 4, 5, 8].contains (s.slotState ch z) then failSlot ch z cause s else s
  | .stack st => stagingLost st (fenceStack st ((s.fenceOff b).expose 0x0C st))
  | .group st g =>
    let t := fenceGroup st g ((s.fenceOff b).expose 0x0B (8 * st + g))
    if t.groupsUp st < 6 && !t.isFenced (.stack st) then stagingLost st (fenceStack st ((t.fenceOff (.stack st)).expose 0x0C st)) else t
  | .street x d => streetDown x d ((s.fenceOff b).expose 0x15 x)
  | .head h => headLost h ((s.fenceOff b).expose 0x1C h)
  | .plazaPair => pairLost ((s.fenceOff b).expose 0x20 0)
  | .ctm => (s.fenceOff b).setFld Reg.CTM_STS_READY 0
  | .domain d => if d = 131 then (s.fenceOff b).setFld Reg.MGT_STS_STANDBY_OK 0 else s.fenceOff b
  | .crossing c => (s.fenceOff b).expose 0x16 c
  | .dcm => s.fenceOff b

/-- A block fenced, and with a crossing the endpoints that it cuts off (R302). -/
def fenceBlock (cause : Nat) (b : Block) (s : State) : State :=
  match b with
  | .crossing c =>
    let s1 := fenceOne cause b (crossingFail c s)
    forAll (s1.crossingBlocks c) s1 fun t e => fenceOne 0 e t
  | _ => fenceOne cause b s

/-- Viral signalled on head `h`, unless it is already. -/
def signalViral (h : Nat) (s : State) : State :=
  if s.on (Reg.HPA_LINK_STS_VIRAL h) then s else (s.emit (.viral h)).setFld (Reg.HPA_LINK_STS_VIRAL h) 1

/-- HALT (Table 11.2). -/
def enterHalt (s : State) : State :=
  forAll ((List.range 4).filter s.present) (s.onFlt fun f => { f with halt := true }) fun t h => signalViral h t

/-- The power domain that a Level 3 reset of block `b` resets: its own, or the one it lies in; a DIMM slot's is its channel controller's. -/
def resetDomain (b : Block) : Nat :=
  match b with
  | .slot ch _ => 58 + ch
  | b => b.dom

/-! ### Recoveries (Table 11.5) -/

/-- The DIRTY masks of an HTC's parity block taken as all ones: the pages are cleaned again. -/
def dirtyAll (st blk : Nat) (s : State) : State :=
  let mine := (s.hot.pending.map Prod.fst).filter fun p => (s.entry p).frame % 2 == st
  forAll ((mine.drop (64 * blk)).take 64) s fun t p =>
    let f := (t.entry p).frame
    let d := t.desc f
    let t1 := updDesc f (fun d => { d with dirty := BitVec.allOnes 64 }) t
    match d.partner with
    | none => t1
    | some mf =>
      let t2 := forAll (List.range 64) t1 fun u l => setLine mf l (u.frameLine f l) u
      updDesc mf (fun x => { x with dirty := BitVec.allOnes 64, valid := d.valid, poison := d.poison }) t2

/-- The open fills of an HTC's parity block reopened from their sources. -/
def reopenFills (st blk : Nat) (s : State) : State :=
  let mine := s.hot.fills.filter fun f => f.frame % 2 == st
  forAll ((mine.drop (64 * blk)).take 64) s fun t f =>
    match f.source with
    | .frame _ => t
    | .cold id =>
      let (j, t1) := startJob f.gpn (t.entry f.gpn).image .fill (endJob id t)
      t1.onHot fun h => { h with fills := h.fills.map fun g => if g.gpn = f.gpn then { g with source := .cold j } else g }

/-- The packets in a crossing's buffer discarded; their requesters recover them (R301). -/
def dropBuffer (dom array blk : Nat) (s : State) : State :=
  match ((List.range 48).filter fun c => (Block.crossing c).dom == dom)[array]? with
  | some c => s.onNoc fun n => { n with bufs := SMap.put [] n.bufs (c * 168 + blk) [] }
  | none => s

/-- Whether what slice `n`'s primary (or mirror) filter array holds stands in the buddies' copies too (R83): no entry of it is served without its own copy. -/
def State.filterCopied (s : State) (n : Nat) (mirror : Bool) : Bool :=
  (List.range 32).all fun e => (if mirror then s.buddyOf e else s.remap e) != n ||
    ((s.takeover e).isNone && !(s.slice (if mirror then s.remap e else s.buddyOf e)).fenced)

/-- What recovers an error of parity block `blk` of array `array` of domain `dom` that SRAM parity cannot correct; none where the block's reaction runs.
The spec numbers no array: the numbers here are the model's (log entry 49). -/
def recoverSram (dom array blk : Nat) (s : State) : Option State :=
  if 8 ≤ dom ∧ dom < 42 then (if array = 2 ∨ array < 2 ∧ s.filterCopied (dom - 8) (array == 1) then some s else none)
  else if dom = 117 then (if array = 0 then some s else none)
  else if 90 ≤ dom ∧ dom < 92 then
    (match array with
     | 0 => some (dirtyAll (dom - 90) blk s)
     | 1 => some (reopenFills (dom - 90) blk s)
     | _ => none)
  else if 137 ≤ dom ∧ dom < 141 then some (forAll (List.range 4) s fun t i => abandonSeams (4 * (dom - 137) + i) t)
  else if 110 ≤ dom ∧ dom < 122 then some (dropBuffer dom array blk s)
  else if dom = 133 then
    (match array with
     | 0 => some (s.onDcm fun d => { d with cover := SMap.keep (fun k => k / 2048 != blk) d.cover })
     | 1 => some (s.updDcc (blk % 16) fun d => { d with lost := true })
     | _ => some s)
  else if dom = 134 then
    -- the vault's copies (R353): arrays 0 and 1 hold the first and the second copies, an item in each parity block
    (let item : VaultItem := if blk < 16 then .root blk else if blk = 16 then .ledger else if blk % 2 = 1 then .epoch ((blk - 17) / 2) else .counter ((blk - 17) / 2)
     if array < 2 then some (s.onVault fun v => { v with badCopies := v.badCopies ++ [(item, array == 1)] }) else some s)
  else if dom = 132 then some (blockSource 9 130 s)
  else if dom = 0xFF then some (freshChannel (blk % 36) s)
  else none

/-! ### Reactions (R331, Table 11.2) -/

/-- The action of code `c` for report `r`; each code performs only its own row's action. -/
def react (c : Nat) (r : Report) (s : State) : State :=
  -- a slot trip leaves a slot that does not serve as it is (R410)
  let bs := (s.blocksOf r).filter fun b => r.src != 0x2C || (match b with
    | .slot ch z => [3, 4, 5, 8].contains (s.slotState ch z)
    | _ => true)
  let cause := if r.forced && [0x07, 0x08, 0x2C].contains r.src then 9 else 0
  let go := fun (t : State) =>
    match c with
    | 3 => if r.src = 0x21 then blockSource 9 130 t
           else forAll (((bs.filter fun b => !neverFenced b).map resetDomain).eraseDups) t fun u d =>
             if resettable d && !(u.rst.blocks.any fun b => b.dom == d) then blockSource 7 d u else u
    | 4 => forAll bs t fun u b => fenceBlock cause b u
    | 5 =>
      let heads := bs.filterMap fun b => match b with
        | .head h => some h
        | _ => none
      let t1 := forAll bs t fun u b => match b with
        | .head _ => u
        | _ => fenceBlock cause b u
      forAll (if heads.isEmpty then (List.range 4).filter fun h => !(t1.ldsOf h).isEmpty else heads) t1 fun u h => signalViral h u
    | 6 => moduleSource 0x0C r.src t
    | 7 => enterHalt t
    | _ => t
  if r.src = 0x23 then
    (let a := r.info.getD 0 0
     match recoverSram r.inst (a % 65536) (a / 65536) s with
     | some t => t.onFlt fun f => { f with sram := SMap.put [] f.sram (r.inst * 2 ^ 32 + a) [] }
     | none => go s)
  else go s

/-! ### Exposures (Table 11.3a) -/

/-- The exposure that a fault of source `src` sets, beside those that its fence sets. Instances: for SILENT_LOC the page, or the
map-area group numbered from 2^40; for SRAM_CE array and parity block after the domain. -/
def noteExposure (r : Report) (s : State) : State :=
  match r.src with
  | 0x03 => match r.info[4]? with
    | some p => s.expose 0x03 p
    | none => s
  | 0x0B | 0x0C | 0x0F | 0x15 | 0x16 | 0x19 | 0x20 | 0x21 | 0x25 | 0x26 | 0x2A | 0x2D => s.expose r.src r.inst
  | 0x22 => s.expose 0x22 (r.inst * 2 ^ 32 + r.info.getD 0 0)
  | _ => s

/-- FLT_STS.EXPOSED (R339, R520). -/
def State.exposed (s : State) : Bool :=
  !s.flt.exposures.isEmpty || !s.takeovers.isEmpty ||
  (List.range 16).any fun ch => s.on (Reg.DCC_STS_FENCED ch) || (List.range 2).any fun z =>
    s.slotState ch z == 7 || s.slotState ch z == 8 || s.fld (Reg.DCC_SLOT_RET ch z) != 0

/-- FLT_STS.FENCED: streets count nowhere, a fenced stack's groups not again. -/
def State.fencedCount (s : State) : Nat :=
  let own := s.flt.fenced.filter fun b => match b with
    | .street _ _ | .ctm | .dcm | .slot _ _ => false
    | .group st _ => !s.isFenced (.stack st)
    | _ => true
  let slots := (List.range 32).filter fun k => s.slotState (k / 2) (k % 2) == 6 || s.slotState (k / 2) (k % 2) == 7
  Nat.min 255 (own.length + slots.length)

/-- FAULT_N as the module drives it (R344): low while a source with FN = 1 has PEND set, in HALT and in the fuse-load hold. -/
def State.faultN (s : State) : Bool :=
  s.flt.halt || s.on Reg.RST_STS_HOLD || (List.range 64).any fun k => s.on (Reg.FLT_SSTS_PEND k) && s.on (Reg.FLT_REACT_FN k)

/-! ### Records (R354 to R356) -/

/-- The event log that a reaction code's records enter: Informational, Warning, Failure, Fatal. -/
def logOf (c : Nat) : Nat := if c ≤ 1 then 0 else if c = 2 then 1 else if c ≤ 4 then 2 else 3

/-- The records of report `r` handled with code `c`: in the management fault log, over the sideband, and in the LDs' event logs (Tables 11.6, 11.7). -/
def record (c : Nat) (asks : Bool) (r : Report) (s : State) : State :=
  let e : Event := .fault r.src r.inst (r.inj.toNat + 2 * s.eff r.src + 16 * asks.toNat) (r.info.take 4)
  let s1 := keepRecord e s
  let s2 := if s.on Reg.MGT_STS_FW_RUN then sendRecord s1 (s.time, e) else s1
  let ks := match r.src with
    | 0x17 | 0x18 | 0x19 | 0x1A | 0x1B | 0x1C | 0x1E | 0x35 => s.ldsOf r.inst
    | _ => s.allLds
  let own := fun (t : State) => t.deliver ks (logOf c) e
  let page := fun (good : Bool) (t : State) => match r.info.drop 4 with
    | [p, l, n] => mediaRecord (if good then logOf c else 2) p l n good r.inj t
    | _ => own t
  let s3 := match r.src with
    | 0x03 => page true s2
    | 0x04 | 0x05 => page false s2
    | 0x0E => (match r.info.drop 4 with
      | [] => own s2
      | _ => page false (own s2))
    | 0x02 => s2.deliver ks (logOf c) (.dram r.src r.inst (r.info.getD 0 0) (r.info.getD 1 0) (r.info.getD 2 0) r.inj)
    | 0x06 => s2.deliver ks (logOf c) (.dram r.src r.inst (r.info.getD 0 0) 0 0 r.inj)
    | 0x07 | 0x2C => s2.deliver ks (logOf c) (.module r.src r.inst (s.reg (Reg.DCC_SLOT (r.inst / 2) (r.inst % 2))).toNat r.inj)
    | _ => own s2
  let pageOnly := (r.src = 0x03 ∨ r.src = 0x04 ∨ r.src = 0x05) ∧ (r.info.drop 4).length = 3
  let memory := r.src = 0x02 ∨ r.src = 0x06 ∨ r.src = 0x07 ∨ r.src = 0x2C
  if asks ∧ (pageOnly ∨ memory) then own s3 else s3

/-! ### The first-error latch (R340 to R343) -/

/-- Whether a report merges into the first fault (R341): it repeats it, or names a block that the first reaction fenced, reset or isolated. -/
def State.merges (s : State) (r : Report) : Bool :=
  s.on Reg.FLT_FIRST_VALID && !s.on Reg.FLT_FIRST_DONE &&
  ((s.fld Reg.FLT_FIRST_SRC == r.src && s.fld Reg.FLT_FIRST_INST == r.inst % 256) ||
   (s.blocksOf r).any fun b => s.flt.firstBlocks.contains b || (match b with
     | .slot ch _ => s.flt.firstBlocks.contains (.channel ch)
     | .group st _ => s.flt.firstBlocks.contains (.stack st)
     | _ => false))

/-- The report latched as the first error with the reaction `c` applied. -/
def latchFirst (c : Nat) (r : Report) (s : State) : State :=
  let v := 2 ^ 31 + r.inj.toNat * 2 ^ 28 + c % 8 * 2 ^ 24 + r.inst % 256 * 2 ^ 8 + r.src % 64
  let s1 := (s.setReg Reg.FLT_FIRST (BitVec.ofNat 32 v)).setPair Reg.FLT_FIRST_TIME_LO Reg.FLT_FIRST_TIME_HI s.time
  (forAll (List.range 4) s1 fun t i => t.setReg (Reg.FLT_FIRST_INFO i) (BitVec.ofNat 32 (r.info.getD i 0))).onFlt fun f =>
    { f with firstBlocks := [], firstAt := s.clk }

/-- The latch cleared. -/
def clearFirst (s : State) : State :=
  let s1 := (s.setReg Reg.FLT_FIRST 0).setPair Reg.FLT_FIRST_TIME_LO Reg.FLT_FIRST_TIME_HI 0
  (forAll (List.range 4) s1 fun t i => t.setReg (Reg.FLT_FIRST_INFO i) 0).onFlt fun f => { f with firstBlocks := [] }

/-- How long after its fence a row's reaction takes full effect, in ns (R341): TMO_US + 10 µs for the rows whose interruption that is. -/
def State.effectNs (s : State) (src : Nat) : Nat := if [0x12, 0x14, 0x15, 0x16].contains src then s.reissueNs + 10000 else 0

/-- Whether a source's row of Table 11.3 gives an interruption above 0; SRAM_UE and CLK_DOMAIN take their block's row (log entry 47). -/
def State.interrupts (s : State) (r : Report) : Bool :=
  [0x02, 0x03, 0x04, 0x06, 0x07, 0x08, 0x09, 0x0A, 0x0B, 0x0C, 0x0D, 0x0E, 0x11, 0x12, 0x14, 0x15, 0x16, 0x22, 0x26, 0x2C, 0x2F].contains r.src ||
  ((r.src == 0x23 || r.src == 0x27) && (s.blocksOf r).any fun b => match b with
    | .slice _ | .stitcher _ | .channel _ | .stack _ | .group _ _ | .crossing _ | .ctm => true
    | _ => false)

/-- Whether the degraded operation that the first reaction began is in force: a failed slice's entry is served by its buddy, a block reset or a module
reset has ended. -/
def State.effective (s : State) : Bool :=
  !(s.takeovers.any fun t => decide (t.step < 4) && s.flt.firstBlocks.contains (.slice t.failed)) &&
  !(s.rst.blocks.any fun b => s.flt.firstBlocks.any fun x => resetDomain x == b.dom) &&
  (s.fld Reg.FLT_FIRST_ACT != 6 || s.fld Reg.RST_STS_LEVEL == 0)

/-- FLT_INTR.MAX_US raised to `us`. -/
def raiseMax (us : Nat) (s : State) : State := s.setFld Reg.FLT_INTR_MAX_US (Nat.min 65535 (Nat.max us (s.fld Reg.FLT_INTR_MAX_US)))

/-- The first reaction has taken full effect (R341): DONE, and the time from detection. -/
def firstDone (s : State) : State :=
  let s1 := s.setFld Reg.FLT_FIRST_DONE 1
  let r : Report := { src := s.fld Reg.FLT_FIRST_SRC, inst := s.fld Reg.FLT_FIRST_INST }
  if s.on Reg.FLT_FIRST_INJ || !s.interrupts r then s1 else raiseMax (ceilDiv (s.clk - s.flt.firstAt) 1000) s1

/-! ### Judging reports -/

/-- The report as it is handled: DETAIL filled from the instance's status register where the detector gives none, and the direction of a street that no
detail names free. -/
def fillReport (r : Report) (s : State) : Report × State :=
  if r.src = 0x15 ∧ r.info.length < 2 then ({ r with info := [r.inst, (s.freeVal 2).toNat] }, s.spent)
  else if r.info.isEmpty then ({ r with info := [(s.statusOf r.src r.inst).toNat] }, s)
  else (r, s)

/-- A report of EFF 1 or higher that is not merged, handled in full (R331 to R334, R340, R342). -/
def handleReport (r0 : Report) (s0 : State) : State :=
  let (r, s) := fillReport r0 s0
  let asks := s.asks r.src
  let c := if asks then s.fld (Reg.FLT_REACT_FLOOR r.src) else s.eff r.src
  let first := !s.on Reg.FLT_FIRST_VALID
  let busy := s.on Reg.FLT_FIRST_VALID && !s.on Reg.FLT_FIRST_DONE
  let s1 := if first then latchFirst c r s else s.setFld Reg.FLT_FIRST_OVF 1
  let s2 := if s1.on (Reg.FLT_SSTS_PEND r.src) then s1.setFld (Reg.FLT_SSTS_OVF r.src) 1 else s1.setFld (Reg.FLT_SSTS_PEND r.src) 1
  let s3 := takeWake 5 r.inst none (noteExposure r (record c asks r s2))
  let s4 := if asks then s3.onFlt fun f => { f with awaiting := (f.awaiting.filter fun d => !(d.report.src == r.src && d.report.inst == r.inst)) ++
      [{ report := r, due := s.clk + zeroAsOne (s.fld Reg.FLT_CFG_HOST_WAIT_MS) * ms }] } else s3
  let s5 := react c r s4
  let s6 := if !r.inj && !busy && s.interrupts r then (let t := s5.count Reg.FLT_INTR_COUNT; if first then t else raiseMax (s.effectNs r.src / 1000) t) else s5
  if first then
    let new := s6.flt.fenced.filter fun b => !s.flt.fenced.contains b
    let named := if 3 ≤ c then s.blocksOf r else []
    let s7 := s6.onFlt fun f => { f with firstBlocks := (new ++ named).eraseDups }
    if s.effectNs r.src = 0 && s7.effective then firstDone s7 else s7
  else s6

/-- One report reaches the fault collector. -/
def judge (s : State) (r : Report) : State :=
  if !knownSource r.src then s
  else
    let s1 := (s.count (Reg.FLT_SSTS_COUNT r.src)).setFld (Reg.FLT_SSTS_LAST_INST r.src) r.inst
    if s1.eff r.src = 0 then s1
    else if s1.merges r then s1.count Reg.FLT_FIRST_MERGED
    else handleReport r s1

/-- Whether report `a` goes before `b` among those of one cycle (R340): higher EFF, then lower source, then lower instance. -/
def State.before (s : State) (a b : Report) : Bool :=
  decide (s.eff b.src < s.eff a.src) || (s.eff a.src == s.eff b.src && (decide (a.src < b.src) || (a.src == b.src && decide (a.inst ≤ b.inst))))

/-- The reports of one cycle judged: while nothing is latched, the one that R340 chooses first. -/
def judgeAll (rs : List Report) (s : State) : State :=
  let known := rs.filter fun r => knownSource r.src && s.eff r.src != 0
  let best := if s.on Reg.FLT_FIRST_VALID then none else known.find? fun r => known.all fun q => s.before r q
  match best with
  | none => forAll rs s judge
  | some b => forAll (b :: rs.erase b) s judge

/-- Reports judged until none waits, those that reactions make included; `n` bounds the rounds. -/
def settleN : Nat → State → State
  | 0, s => s
  | n + 1, s =>
    match s.flt.inbox with
    | [] => s
    | rs => settleN n (judgeAll rs (s.onFlt fun f => { f with inbox := [] }))

/-- Start-up cannot continue (R443): the layout-store SRAM, or both plaza cores, are fenced. -/
def haltIfStuck (s : State) : State := if s.cannotStart && !s.flt.halt && s.fld Reg.RST_STS_LEVEL != 0 then enterHalt s else s

/-- The reports of a step judged. -/
def settle (s : State) : State :=
  match s.flt.inbox with
  | [] => s
  | _ => haltIfStuck (settleN 64 s)

/-- The slices and requests of the transactions that wait for nothing but their turn: for an older write of their line (R88, R90), for a way of their filter set
(R82), or attached to a fill that has been given up (Table 4.4). -/
def State.waitingLines (s : State) : List (Nat × Nat) :=
  s.slices.flatMap fun e =>
    (e.2.txns.filter fun t => t.phase == .order || (t.phase == .victim && t.victim.isNone) || (t.phase == .fill && (s.fillOf t.req.gpn).isNone)).map fun t =>
      (e.1, t.req.id)

/-- Those that may go on now do, oldest first. -/
def resumeLines (s : State) : State :=
  forAll s.waitingLines s fun t w => match t.txn w.1 w.2 with
    | some x =>
      if x.phase = .victim then retryVictim w.1 w.2 t else if x.phase = .fill then readPage w.1 w.2 x t
      else if t.lineBlocked w.1 x then t else serve w.1 w.2 t
    | none => t

/-- The exposure of lost pseudo-channel groups ends once both stacks read UNMIRRORED 0 (Table 11.3a). -/
def mirrored (s : State) : State :=
  if (s.flt.exposures.any fun e => e.src == 0x0B) && s.unmirrored 0 + s.unmirrored 1 == 0 then s.unexpose fun e => e.src == 0x0B else s

/-- What follows a command's own effect: the moves and the transactions that it released go on, the reports that it made are judged, and an exposure that it
ended ends. -/
def settled (s : State) : State := mirrored (settle (resumeLines (resumeMoves s)))

/-- A meaning that ends with what follows its own effect. -/
def done (s : State) : Res := .next (settled s)

end Sys2Proof.Machine
end

