-- ==== Sys2Proof/Machine/Clocks.lean ====
section
/-! DEFINITION. The meanings of the clock and time events (chapter 14). -/
namespace Sys2Proof.Machine

open Sys2Proof

/-- REFERENCE_LOST (R414, R415, R417, R418): the reference is no longer good and CLK_REF is reported; where it is the core reference, failover
follows; heads in common clock that use it follow R418. -/
def execReferenceLost (r : Fin 3) (s : State) : Res :=
  if s.refGood r then
    let s1 := (s.setBitOf Reg.CLK_STS_REF_OK r false).onClocks fun c => { c with refGoodAt := c.refGoodAt.set r none }
    let s2 := if s1.fld Reg.CLK_STS_CORE_SRC = r.val then failOver s1 else s1
    let s3 := if r.val < 2 then quadsLose r s2 else s2
    done (s3.report 0x26 r [(s3.reg Reg.CLK_STS).toNat])
  else .next s

/-- PLL_REACQUIRED (R415): holdover ends, and TIME_NS counts the core reference again. -/
def execPllReacquired (s : State) : Res :=
  if s.on Reg.CLK_STS_HOLDOVER then
    let s1 := (s.setFld Reg.CLK_STS_HOLDOVER 0).onClocks fun c => { c with lockedAt := s.clk }
    .next (if s.fld Reg.PWR_STS_STATE < 2 ∧ s1.clocks.sleepStart.isSome then endKeepTime s1 else s1)
  else .next s

/-- REFERENCE_GOOD (R414, R417, R418): after 1 ms inside the tolerance the reference is good; with none selected it is taken; heads of its connector
whose link is down train again in common clock. -/
def execReferenceGood (r : Fin 3) (s : State) : Res :=
  if s.refGood r then .next s
  else
    let s1 := (s.setBitOf Reg.CLK_STS_REF_OK r true).onClocks fun c => { c with refGoodAt := c.refGoodAt.set r (some s.clk) }
    let s2 := s1.unexpose fun e => e.src == 0x26 && e.inst == r.val
    let s3 := if s2.fld Reg.CLK_STS_CORE_SRC = 3 then selectRef r s2 else s2
    .next (if r.val < 2 ∧ s3.commonClock then
      forAll (List.range 4) s3 fun t h =>
        if t.present h && t.connector h == r.val && (t.head h).link == .training then startTraining h t else t
    else s3)

/-- CLOCK_FAILBACK (R416): with FAILBACK = 1, the most preferred reference that has been good for 1 s becomes the core reference again. -/
def execClockFailback (s : State) : Res :=
  if s.on Reg.CLK_CFG_FAILBACK then
    match (s.refOrder.takeWhile (fun r => r != s.fld Reg.CLK_STS_CORE_SRC)).find? s.refGood with
    | none => .next s
    | some r => .next ((selectRef r (s.until (((s.clocks.refGoodAt.getD r none).getD s.clk) + sec))).count Reg.CLK_FOVER_CORE)
  else .next s

/-- KEEP_CLOCK_FAIL (R420): KEEP_FAIL is set, CLK_REF is reported with instance 3, and sleep time under way is counted from the RC from now on. -/
def execKeepClockFail (s : State) : Res :=
  if s.on Reg.CLK_STS_KEEP_FAIL then .next s
  else
    let s1 := s.setFld Reg.CLK_STS_KEEP_FAIL 1
    let s2 := if s.fld Reg.TIME_STATUS_SOURCE = 1 then beginKeepTime (endKeepTime s1) else s1
    done (s2.report 0x26 3 [(s2.reg Reg.CLK_STS).toNat])

/-- CLOCK_MONITOR_FAIL (R421): the domain's bit of CLK_DOM_FAIL is set and CLK_DOMAIN is reported; domains in holdover are not reported (R415). -/
def execClockMonitorFail (d : Fin 101) (s : State) : Res :=
  if s.on Reg.CLK_STS_HOLDOVER ∧ ¬ (4 ≤ d.val ∧ d.val < 8) then .next s
  else
    let s1 := s.setBitOf (Reg.CLK_DOM_FAIL_FAIL (d / 32)) (d % 32) true
    done (s1.report 0x27 d [(s1.reg (Reg.CLK_DOM_FAIL (d / 32))).toNat])

/-- KEEP_CAL_COUNT (R423): while a core reference is good, each count of 32,768 keep-clock cycles, 1 s long, is stored. -/
def execKeepCalCount (cycles : BitVec 27) (s : State) : Res :=
  let src := s.fld Reg.CLK_STS_CORE_SRC
  if src < 3 ∧ s.refGood src ∧ ¬ s.on Reg.CLK_STS_KEEP_FAIL then
    let s1 := match s.clocks.calAt with
      | some t => s.until (t + sec)
      | none => s
    .next (((s1.setFld Reg.CLK_CAL_CYCLES cycles.toNat).setFld Reg.CLK_CAL_VALID 1).onClocks fun c => { c with calAt := some s1.clk })
  else .next s

/-- PTM_REQUEST (R426): the responder of a head whose link is up answers with TIME_NS. -/
def execPtmRequest (h : Fin 4) (s : State) : Res :=
  .next (if s.present h ∧ s.linkUp h then s.emit (.ptm h s.time) else s)

/-- TIME_SLEW_DONE (R425): the correction has been absorbed in full, and SLEWING clears. -/
def execTimeSlewDone (s : State) : Res :=
  if s.on Reg.TIME_STATUS_SLEWING then .next ((s.advance s.slewLeft).setFld Reg.TIME_STATUS_SLEWING 0) else .next s

end Sys2Proof.Machine
end

