-- ==== Sys2Proof/Machine/HotTier.lean ====
section
/-! DEFINITION. The commands of the hot tier (chapter 04). -/
namespace Sys2Proof.Machine

open Sys2Proof

/-! ### Map entries (R160, R203) -/

/-- The transactions of page `p` that wait for its map entry. -/
def State.awaitEntry (s : State) (sl p : Nat) : List Nat :=
  ((s.slice sl).txns.filter fun t => t.req.gpn == p && t.phase == .map).map fun t => t.req.id

/-- The slice whose transactions wait for the entry of page `p`: its home, or during the replay of a takeover the buddy (Table 3.6, step 2). -/
def State.entrySlice (s : State) (p : Nat) : Nat :=
  match (s.slices.find? fun e => !(s.awaitEntry e.1 p).isEmpty) with
  | some e => e.1
  | none => s.home p

/-- Every transaction that waits for the entry `e` of page `p` goes on; the slice keeps the entry in its SRAM. -/
def entryArrives (sl p : Nat) (e : BitVec 128) (extra : Nat) (s : State) : State :=
  let ids := s.awaitEntry sl p
  let r := injectEntry sl e s
  let s1 := r.2.updSlice sl fun x => { x with entries := x.entries.filter (fun y => y.1 != p) ++ [(p, r.1)] }
  forAll ids s1 fun t id => serve sl id (updTxn sl id (fun u => { u with lat := u.lat + extra }) t)

/-- Page `p` marked poisoned, with an event (R160). -/
def poisonWhole (p : Nat) (s : State) : State := poisonPage p (mediaEvent 2 p 0 1 false s)

/-- MAP_ENTRY_RETURN (R160). From the map cache: a probe counts as a hit or a miss in the stack that serves it; an entry that fails its CHECK is
fetched again from the ledger. From the ledger: the block enters the map cache; a block that cannot be verified poisons its pages (R203), an entry that
fails its CHECK after authentication poisons its page. -/
def execMapEntryReturn (p : Nat) (src : EntrySource) (err : BitVec 128) (authOk : Bool) (s : State) : Res :=
  let sl := s.entrySlice p
  if (s.awaitEntry sl p).isEmpty then .next s
  else
    let b := p / 256
    let st := s.cacheStack b
    match src with
    | .cache =>
      (match s.wayOf b with
       | none => .next (s.count (Reg.HTC_MAPC_MISS_COUNT st))
       | some w =>
         let e := SMap.get zeroEntry s.hot.entries p ^^^ err
         let s1 := (s.onHot fun h => { h with tags := SMap.upd {} h.tags (s.tagKey b w) fun t => { t with stamp := s.clk } }).count (Reg.HTC_MAPC_HIT_COUNT st)
         if entryOk e then done (entryArrives sl p e 60 s1)
         else done (s1.report 0x0D sl [p]))
    | .ledger =>
      let cached := (s.wayOf b).isSome
      if !authOk && !cached then
        let s1 := failBlock b ((s.mapBlock p).getD 0) s
        done (entryArrives sl p (s1.entry p).pack 280 s1)
      else
        let s1 := loadBlock b s
        let e := (s1.entry p).pack
        if entryOk (e ^^^ err) then done (entryArrives sl p e 280 s1)
        else
          let s2 := poisonWhole p (s1.report 0x0D sl [p])
          done (entryArrives sl p (s2.entry p).pack 280 s2)

/-! ### Line accesses (R116, R117, R135) -/

/-- The transaction is served again because its page no longer holds a frame. -/
def serveAgain (sl id : Nat) (s : State) : State :=
  match s.txn sl id with
  | none => s
  | some t =>
    if t.req.kind = .write || t.val.isSome then startWrite sl id s else readPage sl id t s

/-- Line `l` of frame `f` has been written: an armed injection corrupts one or two symbols of it (Table 11.4, targets 4 and 5); an earlier one is gone. -/
def stackWritten (f l : Nat) (s : State) : State :=
  let g := 8 * (f % 2) + frameGroup f
  let key := 64 * f + l
  let s1 := s.onHot fun h => { h with inject := h.inject.filter fun e => e.1 != key }
  if s.armed 4 g then (fire s1).onHot fun h => { h with inject := h.inject ++ [(key, false)] }
  else if s.armed 5 g then (fire s1).onHot fun h => { h with inject := h.inject ++ [(key, true)] }
  else s1

/-- What the error check finds at line `l` of frame `f`, an injected error included, and whether it was injected. -/
def State.stackFinds (s : State) (f l : Nat) (err : StackErr) : StackErr × Bool :=
  match err, s.hot.inject.find? fun e => e.1 == 64 * f + l with
  | .none, some (_, true) => (.uncorrectable, true)
  | .none, some (_, false) => (.corrected, true)
  | e, _ => (e, false)

/-- A line write of transaction `id`, or the write of its atomic, with the old bytes where a partial write needs them (R206). -/
def lineWrite (sl id : Nat) (t : Txn) (f : Nat) (s : State) : State :=
  let r := t.req
  match r.kind, t.val with
  | .atomic o _, some (v, _) =>
    let old := atomWord o v
    let new := setAtomWord o v ((atomResult o old).getD old)
    finishTxn sl id (.atomic (BitVec.ofNat 128 old) false) (stackWritten f r.line (storeLine f r.line new false s))
  | _, _ =>
    match writeLine r.gpn f r.line r.data r.mask r.poison s with
    | some s1 => finishTxn sl id .done (stackWritten f r.line s1)
    | none =>
      if 4096 ≤ s.openFills (f % 2) then updTxn sl id (fun t => { t with phase := .frames }) (s.count Reg.HTM_ALLOC_STALL_COUNT)
      else
        let s1 := openColdFill r.gpn f (s.entry r.gpn).image s
        match writeLine r.gpn f r.line r.data r.mask r.poison s1 with
        | some s2 => finishTxn sl id .done (stackWritten f r.line s2)
        | none => s1

/-- The line at `x` given to transaction `id`. -/
def giveLine (sl id : Nat) (x : LineAt) (s : State) : State :=
  match x with
  | .line v bad => atomicRead sl id v bad s
  | .attach => updTxn sl id (fun t => { t with phase := .fill }) (match s.txn sl id with
      | some t => remainder t.req false s
      | none => s)
  | .cold => coldRead sl id s

/-- A corrected symbol of stack `st` counted and reported (R135). -/
def correctedSymbol (st : Nat) (inj : Bool) (s : State) : State :=
  let s1 := s.count (Reg.HTC_ECC_CORR st)
  s1.reportAs inj 0x09 st [(s1.reg (Reg.HTC_STS st)).toNat]

/-- What the error check of the access of line `l` of frame `f` found, counted, reported and handled (R115, R135). -/
def accessError (f l : Nat) (err : StackErr) (inj : Bool) (s : State) : State :=
  let clean := fun (t : State) => t.onHot fun h => { h with inject := h.inject.filter fun e => e.1 != 64 * f + l }
  match err with
  | .none => s
  | .corrected => correctedSymbol (f % 2) inj s
  | .uncorrectable => frameError f (1 <<< l) false inj (clean s)
  | .both => frameError f (1 <<< l) true inj (clean s)
  | .descriptor bits => checkDescs [(f, bits)] (fun _ => true) s

/-- Whether the error check of an access to frame `f` lost the line. -/
def State.errLost (s : State) (f : Nat) : StackErr → Bool
  | .uncorrectable => true
  | .both => true
  | .descriptor bits => !s.descReads f bits
  | _ => false

/-- HTC_LINE_ACCESS (R116): the frame access of open transaction `id` once it has left its group's queue. An uncorrectable error is recovered from the
mirror, from zeros or from the cold image, and the page moves or waits to (R135). -/
def execHtcLineAccess (id : Nat) (err : StackErr) (s : State) : Res :=
  match s.sliceOfTxn id with
  | none => .next s
  | some sl =>
    match s.txn sl id with
    | none => .next s
    | some t =>
      let p := t.req.gpn
      let l := t.req.line
      let m := s.entry p
      let writes := t.req.kind = .write || t.val.isSome
      if t.phase ≠ .frame then .next s
      else match t.slot with
        | none => done (if m.state < 2 then serveAgain sl id s else enqueueAccess sl id m.frame writes t.req.rank s)
        | some k =>
          if ((s.group k).rq ++ (s.group k).wq).any fun a => a.id == id then .next s
          else if m.state < 2 then done (serveAgain sl id s)
          else if writes then
            match allocForWrite p s with
            | none => done (updTxn sl id (fun t => { t with phase := .frames }) (s.count Reg.HTM_ALLOC_STALL_COUNT))
            | some s1 =>
              let f := (s1.entry p).frame
              let (err, inj) := s1.stackFinds f l err
              let s2 := accessError f l err inj s1
              done (lineWrite sl id t (s2.entry p).frame s2)
          else
            let f := m.frame
            let (err, inj) := s.stackFinds f l err
            let x := if s.errLost f err then s.recovered f l (err == .both) else s.lineAt p f l
            done (giveLine sl id x (accessError f l err inj s))

/-! ### Fills (R119, R206) -/

/-- The fill of page `p` is over: FILL is cleared, an old shed frame is freed, and the reads attached to it are answered. -/
def fillEnds (fl : Fill) (s : State) : State :=
  let s1 := closeFill fl.gpn (updDesc fl.frame (fun d => { d with fill := false }) s)
  let s2 := match fl.source with
    | .frame old => freeFrame old s1
    | .cold id => endJob id s1
  let hits := s2.slices.flatMap fun e => (e.2.txns.filter fun t => t.req.gpn == fl.gpn && t.phase == .fill).map fun t => (e.1, t.req.id, t.req.line)
  forAll hits s2 fun t h =>
    let d := t.desc fl.frame
    atomicRead h.1 h.2.1 (t.frameLine fl.frame h.2.2) (d.poison.getLsbD h.2.2) t

/-- The frames that a fill touches: its page's, and its source. -/
def Fill.frames (fl : Fill) : List Nat :=
  match fl.source with
  | .frame old => [fl.frame, old]
  | .cold _ => [fl.frame]

/-- FILL_DATA (R119): the data of the open fill of page `p` reaches the HTC, which checks the descriptors that it reads (R115). -/
def execFillData (p : Nat) (s : State) (errs : DescErrors := []) : Res :=
  let s := match s.fillOf p with
    | none => s
    | some fl => checkDescs errs fl.frames.contains s
  match s.fillOf p with
  | none => done s
  | some fl =>
    let all : BitVec 64 := BitVec.allOnes 64
    match fl.source with
    | .cold id =>
      (match (s.job id).bind ReadJob.result with
       | some (.lines ls pm) => done (fillEnds fl (applyFill fl all ls pm false s))
       | some .failed => done (fillEnds fl (applyFill fl all [] 0 true s))
       | _ => done s)
    | .frame old =>
      let o := s.desc old
      let have_ := if o.noimg then all else o.valid ||| o.poison
      let data := (List.range 64).map fun l => if o.valid.getLsbD l then s.frameLine old l else 0
      let s1 := applyFill fl have_ data o.poison false s
      if (s1.desc fl.frame).valid = all then done (fillEnds fl s1)
      else
        let (id, s2) := startJob p (s.entry p).image .fill s1
        done (freeFrame old (s2.onHot fun h => { h with fills := h.fills.map fun g => if g.gpn = p then { g with source := .cold id } else g }))

/-- HELD_WRITE_RESUME (R118): the held write `id` allocates its frames, where it can. -/
def execHeldWriteResume (id : Nat) (s : State) : Res :=
  match s.sliceOfTxn id with
  | none => .next s
  | some sl =>
    match s.txn sl id with
    | some t => if t.phase = .frames then done (startWrite sl id s) else .next s
    | none => .next s

/-! ### Cleaning (R122 to R124, R138, R208) -/

/-- How long page frame `d` has been dirty, in ms. -/
def State.dirtyAge (s : State) (d : FrameDesc) : Nat := (s.dtimeNow + 65536 - d.dtime) % 65536

/-- HTM_DIRTY_CFG as it acts: the age in ms, and the high mark in pages. -/
def State.dirtyAgeMs (s : State) : Nat := zeroAsOne (s.fld Reg.HTM_DIRTY_CFG_AGE_MS)
def State.dirtyHigh (s : State) : Nat := Nat.min (s.fld Reg.HTM_DIRTY_CFG_HIGH_WM) (clamp 1 48 (s.fld Reg.HTM_DIRTY_CFG_LIMIT)) * 65536

/-- Whether page `p` may be cleaned and its write-back is not one that is held (R123, R208). -/
def State.cleanNow (s : State) (p : Nat) : Bool := s.mayClean p && !(s.counterSpent p && s.vault.wbHeld.contains p)

/-- COLD_WRITEBACK_OPEN (R123): the page dirty for longest, or in single-stack mode first one without a mirror (R138), once it is older than AGE_MS, or at
once above the high mark. A page that holds only part of its lines with no fill open, as after the loss of a stack, first gets a fill (log entry 106). -/
def execColdWritebackOpen (p : Nat) (s : State) (errs : DescErrors := []) : Res :=
  let s := checkDescs errs (· == (s.entry p).frame) s
  let m := s.entry p
  let d := s.desc m.frame
  if m.state ≠ 3 then done s
  else if d.noimg = false ∧ d.valid ≠ BitVec.allOnes 64 ∧ (s.fillOf p).isNone = true ∧ m.scnt ≠ 0 ∧ s.openFills (m.frame % 2) < 4096 then
    done (openColdFill p m.frame m.image s)
  else if !s.cleanNow p then done s
  else
    let rank := fun (e : Nat × FrameDesc) => (if s.single && e.2.partner.isNone then 65536 else 0) + s.dirtyAge e.2
    let mine := rank (m.frame, d)
    if s.hot.desc.any fun e => e.2.kind == 1 && (s.entry e.2.gpn).frame == e.1 && s.cleanNow e.2.gpn && decide (mine < rank e) then done s
    else
      let s1 := if s.single || decide (s.dirtyHigh < s.dirtyPages) then s
        else s.until (s.clk + (s.dirtyAgeMs + 1 - s.dirtyAge d) * ms - (if s.dirtyAge d ≤ s.dirtyAgeMs then s.time % ms else 0))
      done (cleanPage p (59 + m.frame % 2) s1)

/-! ### Heat and releases (R127, R130, R131) -/

/-- HEAT_EPOCH (R127): every primary frame is visited, and its descriptor checked (R115). -/
def execHeatEpoch (s : State) (errs : DescErrors := []) : Res :=
  let s := checkDescs errs (fun f => (s.desc f).kind == 1) s
  let s1 := s.until (s.hot.heatAt + Nat.max 10 (s.fld Reg.HTM_HEAT_CFG_EPOCH_MS) * ms)
  let e := (s1.hot.heatEpoch + 1) % 16
  let s2 := (s1.onHot fun h => { h with heatEpoch := e, heatAt := s1.clk }).setFld Reg.HTM_HEAT_CFG_EPOCH e
  let prims := s2.hot.desc.filter fun d => d.2.kind == 1
  done (forAll prims s2 fun t d => if (t.entry d.2.gpn).frame = d.1 then touchHeat d.2.gpn 0 t else updDesc d.1 (fun x => { x with heat := heatStep e 0 x.heat }) t)

/-- One group of 64 of R130: the coldest unpinned page of it is released; the cursor moves past the group. -/
def releaseGroup (st : Nat) (s : State) : State :=
  let l := s.cleanShed st
  let c := s.hot.cursor.getD st 0
  let order := l.filter (fun e => decide (c ≤ e.1 / 2)) ++ l.filter fun e => decide (e.1 / 2 < c)
  let grp := order.take 64
  let level := fun (e : Nat × Nat) => heatStep s.hot.heatEpoch 0 (s.entry e.2).heat % 16
  let pick := (grp.filter fun e => !(s.entry e.2).pin).foldl (fun (a : Option (Nat × Nat)) e => match a with
    | none => some e
    | some b => if level e < level b then some e else some b) none
  let s1 := match grp.getLast? with
    | some e => s.onHot fun h => { h with cursor := h.cursor.set st (e.1 / 2 + 1) }
    | none => s
  match pick with
  | some e => tryRelease e.2 s1
  | none => s1

/-- Frames released until `enough` holds, for at most `n` groups. -/
def releaseUntil (st : Nat) (enough : State → Bool) : Nat → State → State
  | 0, s => s
  | n + 1, s => if enough s then s else releaseUntil st enough n (releaseGroup st s)

/-- HTM_TIER_CFG.SHED_LOW and SHED_HIGH as they act, in frames. -/
def State.shedHigh (s : State) : Nat := s.fld Reg.HTM_TIER_CFG_SHED_HIGH * 65536
def State.shedLow (s : State) : Nat :=
  Nat.min (s.fld Reg.HTM_TIER_CFG_SHED_LOW) (s.fld Reg.HTM_TIER_CFG_SHED_HIGH - 1) * 65536

/-- Whether a page whose preferred stack is `st` waits for a shed frame (R133). -/
def State.pinsWait (s : State) (st : Nat) : Bool := s.hot.pinWait.any fun p => p % 2 == st

/-- Whether the releases of stack `st` go on until their stop point. -/
def State.shedReleasing (s : State) (st : Nat) : Bool := s.hot.shedRun.getD st false

/-- Frames of stack `st` released until its free shed frames exceed `stop` (R130, R131), as far as there are frames to release; what remains is remembered. Pages that
wait for a frame then take the free ones (R133). -/
def releaseTo (st stop : Nat) (s : State) : State :=
  let s1 := releaseUntil st (fun t => decide (stop < t.freeShedCount st)) (2 * (s.cleanShed st).length + 1) s
  servePins (s1.onHot fun h => { h with shedRun := h.shedRun.set st (decide (s1.freeShedCount st ≤ stop)) })

/-- The shed frames of stack `st` that hold primary frames: those that a release examines. -/
def State.examined (s : State) (st f : Nat) : Bool := f % 2 == st && !isKeepFrame f && (s.desc f).kind == 1

/-- SHED_FRAME_RELEASE (R130): below SHED_LOW in hardware mode and on until SHED_HIGH is exceeded, or while a pinned page waits for a frame (R133). -/
def execShedFrameRelease (st : Fin 2) (s : State) (errs : DescErrors := []) : Res :=
  let low := !s.on Reg.HTM_TIER_CFG_MODE_ACT && (decide (s.freeShedCount st < s.shedLow) || s.shedReleasing st)
  if !low && !s.pinsWait st || s.switching 0 then .next s
  else done (releaseTo st s.shedHigh (checkDescs errs (s.examined st) s))

/-- SHED_FLOOR_RELEASE (R131): below 65,536 free shed frames in host-assisted mode and on until 131,072 are exceeded; an event when it begins. -/
def execShedFloorRelease (st : Fin 2) (s : State) (errs : DescErrors := []) : Res :=
  if !s.on Reg.HTM_TIER_CFG_MODE_ACT || s.switching 0 || (decide (65536 ≤ s.freeShedCount st) && !s.shedReleasing st) then .next s
  else
    let s1 := if s.shedReleasing st then s else s.vendor 1 0x0130 [st]
    done (releaseTo st 131072 (checkDescs errs (s1.examined st) s1))

/-! ### Pinning and moves (R133, R139) -/

/-- PIN_SET (R133). -/
def execPinSet (p : Nat) (s : State) : Res :=
  if (s.slotOf p).isNone then .next s else done (changePin p true s)

/-- PIN_CLEAR (R133). -/
def execPinClear (p : Nat) (s : State) : Res :=
  if (s.slotOf p).isNone then .next s
  else done (changePin p false s)

/-- KEEP_FRAME_MOVE (R139): the move of clean page `p` from its keep frame of stack `st` to a shed frame opens, where one is free; it commits by PAGE_OP_COMMIT.
When keep frames run short is left to whoever sends the command: R139 gives no threshold (DESIGN CHOICE, log entry 107). -/
def execKeepFrameMove (st : Fin 2) (p : Nat) (s : State) (errs : DescErrors := []) : Res :=
  let s := checkDescs errs (· == (s.entry p).frame) s
  let m := s.entry p
  if m.state ≠ 2 ∨ m.frame % 2 ≠ st ∨ !isKeepFrame m.frame ∨ !s.mayOpen p ∨ (s.fillOf p).isSome then done s
  else match s.shedFor p with
    | none => done s
    | some nf => done (beginOp .move p (59 + st) (some nf) s)

/-- The move's commit (R139): only while the page is in STATE 2, with no write accepted since the copy began. -/
def commitMove (p : Nat) (o : PageOp) (s : State) : State :=
  let m := s.entry p
  match o.frame with
  | none => abandonOp p s
  | some nf =>
    if m.state ≠ 2 ∨ o.written = true ∨ s.damagedLines m.frame ≠ 0 ∨ (s.fillOf p).isSome = true then abandonOp p s
    else
      let d := s.desc m.frame
      let s1 := forAll (linesOf d.valid) (updDesc nf (fun _ => d) (abandonOp p s)) fun t l => setLine nf l (t.frameLine m.frame l) t
      freeFrame m.frame (putEntry p { m with frame := nf } s1)

/-! ### Patrol of the stacks (R258) -/

/-- Lines of one stack. -/
abbrev stackLines : Nat := 805306368

/-- What an uncorrectable error at line location `x` of stack `st` touches (Table 4.1, R135): a map-cache block is rebuilt, a descriptor counts as an
error of every line of its frame, a line of a frame is recovered, a mirror's is rewritten from its primary; the journal buffer's other copy is used. -/
def locationLost (st x : Nat) (err : StackErr) (s : State) : State :=
  let off := 64 * x
  let lost := fun (t : State) =>
    let t1 := t.count (Reg.HTC_ECC_UNCORR st)
    t1.report 0x0A st [(t1.reg (Reg.HTC_STS st)).toNat]
  if off < 0x200000000 then
    let key := st * 131072 * 16 + off / 4096
    let b := (s.mapTag key).block
    if (s.mapTag key).valid then loadBlock b ((dropBlock key (lost s)).onHot fun h => { h with lostBlocks := h.lostBlocks ++ [b] }) else lost s
  else if off < 0x226000000 then
    let f := 2 * ((off - 0x200000000) / 64) + st
    match err with
    | .descriptor bits => checkDescs [(f, bits)] (fun _ => true) s
    | _ => frameError f (BitVec.allOnes 64) false false s
  else if 0x280000000 ≤ off then
    let f := 2 * ((off - 0x280000000) / 4096) + st
    match err with
    | .descriptor bits => checkDescs [(f, bits)] (fun _ => true) s
    | e => frameError f (1 <<< (off / 64 % 64)) (e == .both) false s
  else lost s

/-- STACK_PATROL_VISIT (R258): the location at the cursor of stack `st`; a corrected symbol is rewritten. -/
def execStackPatrolVisit (st : Fin 2) (err : StackErr) (s : State) : Res :=
  if !s.on (Reg.HTC_STS_READY st) then .next s
  else
    let x := s.hot.patrol.getD st 0
    let s1 := s.onHot fun h => { h with patrol := h.patrol.set st ((x + 1) % stackLines) }
    match err with
    | .none => .next s1
    | .corrected => done (correctedSymbol st false s1)
    | e => done (locationLost st x e s1)

end Sys2Proof.Machine
end

