-- ==== Sys2Proof/Machine/Dram.lean ====
section
/-! DEFINITION. The commands of the DDR5 channels, the channel-maintenance unit and the DRAM side of the stacks (chapter 07). -/
namespace Sys2Proof.Machine

open Sys2Proof

/-! ### Measuring the DIMMs (R219 to R222) -/

/-- The states in which a DIMM's failure is one of Table 7.5: measured or trained at start-up, or in service. -/
def State.failable (s : State) (ch z : Nat) : Bool := [1, 2, 3, 4, 5, 8].contains (s.slotState ch z)

/-- The DIMM of a slot fails with cause `cause`, and DIMM_FAIL is reported. -/
def dimmFails (ch z cause : Nat) (s : State) : State :=
  if s.failable ch z then (failSlot ch z cause s).report 0x07 (slotInst ch z) [((setSlotState ch z 7 s).reg (Reg.DCC_SLOT ch z)).toNat] else s

/-- Whether a DIMM may be taken into service beside the population that runs (R220). -/
def State.fitsPopulation (s : State) (i : SpdInfo) : Bool :=
  i.capGib == s.cold.dimmGib && i.mr == s.on (Reg.DCC_POP_MR 0) && i.rates.contains (s.fld (Reg.DCC_POP_RATE 0))

/-- The DIMM of a slot rejected (R220): STATE 9, and an event names the slot. A return command in progress is refused with code 4 (R254). -/
def rejectDimm (ch z : Nat) (s : State) : State :=
  let s1 := if (s.dimm ch z).prev.isSome then (svcCode ch z 4 s).setFld Reg.DCM_SVC_STS_BUSY 0 else s
  (updDimm ch z (fun d => { d with prev := none, check := false }) (setSlotState ch z 9 s1)).vendor 1 0x0122 [ch, z]

/-- DCC_SLOT.CAP of a capacity. -/
def capCode (gib : Nat) : Nat := if gib = 256 then 1 else if gib = 512 then 2 else 15

/-- What an SPD says recorded for its slot; ranks stay retired while the DIMM is the same one, and its repairs are in force. -/
def recordSpd (ch z : Nat) (i : SpdInfo) (s : State) : State :=
  let s1 := updDimm ch z (fun d => { d with info := some i, failing := d.failing.filter fun f => f.1 != .spd }) s
  let same := (s.dimm ch z).retired.1 == i.serial
  let s2 := ((s1.setFld (Reg.DCC_SLOT_CAP ch z) (capCode i.capGib)).setFld (Reg.DCC_SLOT_RANKS ch z) (if i.ranks = 4 then 2 else if i.ranks = 2 then 1 else 0)).setFld
    (Reg.DCC_SLOT_RET ch z) (if same then (s.dimm ch z).retired.2 else 0)
  s2.setFld (Reg.DCC_SLOT_PPR ch z) (Nat.min 255 (s.flash.rows.filter fun r => r.1 == i.serial).length)

/-- The slots whose DIMMs have been measured in this start-up. -/
def State.spdRead (s : State) : List (Nat × Nat × SpdInfo) :=
  (List.range 32).filterMap fun k => if s.slotState (k / 2) (k % 2) = 1 then ((s.dimm (k / 2) (k % 2)).info.map fun i => (k / 2, k % 2, i)) else none

/-- DIMMs per channel of the population found: 2 where half the channels or more hold something in slot 1 (log entry 31). -/
def State.foundDpc (s : State) : Nat := if 8 ≤ ((List.range 16).filter fun c => s.slotState c 1 != 0).length then 2 else 1

/-- The slots that a population of `dpc` DIMMs per channel fills. -/
def expectedSlots (dpc : Nat) : List (Nat × Nat) := (List.range 16).flatMap fun c => (List.range dpc).map fun z => (c, z)

/-- The highest rate code that every DIMM lists (R219). -/
def commonRate (l : List (Nat × Nat × SpdInfo)) (mr : Bool) : Nat :=
  ((if mr then [5, 4] else [3, 2, 1]).find? fun r => l.all fun x => x.2.2.rates.contains r).getD 0

/-- Whether the slots of `bad` exceed what R219 allows: two slots on two channels. -/
def tooManyBad (bad : List (Nat × Nat)) : Bool := decide (2 < bad.length) || decide (2 < (bad.map Prod.fst).eraseDups.length)

/-- DCC_POP.ERR of the population found (R218, R219). -/
def State.popError (s : State) : Nat :=
  let l := s.spdRead
  let dpc := s.foundDpc
  let bad := (expectedSlots dpc).filter fun k => !(l.any fun x => x.1 == k.1 && x.2.1 == k.2)
  let empty := bad.filter fun k => s.slotState k.1 k.2 == 0
  match l with
  | [] => 6
  | x :: _ =>
    if l.any fun y => y.2.2.mr != x.2.2.mr || y.2.2.capGib != x.2.2.capGib then 1
    else if x.2.2.capGib ≠ 256 ∧ x.2.2.capGib ≠ 512 then 2
    else if (dpc = 1 ∧ (List.range 16).any fun c => s.slotState c 1 != 0) ∨ tooManyBad empty then 3
    else if x.2.2.mr ∧ dpc = 2 then 4
    else if commonRate l x.2.2.mr = 0 then 5
    else if tooManyBad bad then 6 else 0

/-- The population refused: every DCC says why, and POPULATION is reported (R219). -/
def refusePopulation (e : Nat) (s : State) : State := (forAll (List.range 16) s fun t c => t.setFld (Reg.DCC_POP_ERR c) e).report 0x33 0 [e]

/-- A slot's DIMM begins to train; its channel's training is under way. -/
def beginTraining (ch z : Nat) (fast : Bool) (s : State) : State :=
  ((setSlotState ch z 2 s).setFld (Reg.DCC_STS_TRAINING ch) 1).updDcc ch fun d => { d with fast := fast }

/-- The population of a start-up accepted: type, rate and DIMMs per channel are reported, and every measured DIMM trains; slots that are empty or have
failed are handled as failed DIMMs. -/
def acceptPopulation (s : State) : State :=
  let l := s.spdRead
  let dpc := s.foundDpc
  let x := ((l.head?).map fun y => y.2.2).getD {}
  let s1 := forAll (List.range 16) s fun t c =>
    (((t.setFld (Reg.DCC_POP_ERR c) 0).setFld (Reg.DCC_POP_DPC c) dpc).setBit (Reg.DCC_POP_MR c) x.mr).setFld (Reg.DCC_POP_RATE c) (commonRate l x.mr)
  let s2 := s1.onCold fun c => { c with dimmGib := x.capGib, nSeg := dpc * x.capGib * 1024 }
  let fast := s.fld Reg.RST_STS_LEVEL == 4
  let s3 := forAll l s2 fun t y => if t.on (Reg.DCC_STS_FENCED y.1) then t else beginTraining y.1 y.2.1 (fast && !(t.dcc y.1).lost) t
  let bad := (expectedSlots dpc).filter fun k => !(l.any fun y => y.1 == k.1 && y.2.1 == k.2)
  (forAll bad s3 fun t k => failSlot k.1 k.2 7 t).onDram fun d => { d with checked := true }

/-- The fence records as the DCCs read them before they train (R250): but for a restore that a Level 4 reset interrupted and whose DIMM is still there,
every slot with a record enters STATE 7. -/
def readRecords (s : State) : State :=
  forAll s.flash.fences s fun t r =>
    match r.slot with
    | none => t
    | some z =>
      if r.restoring && s.fld Reg.RST_STS_LEVEL == 4 && t.slotState r.ch z == 1 && t.serialOf r.ch z == r.serial then t
      else ((setSlotState r.ch z 7 t).setFld (Reg.DCC_SLOT_CAUSE r.ch z) r.cause).markFenced (.slot r.ch z)

/-- A fenced channel whose DCC has passed its self-test in this start-up is released (R250, R335): a slot record is written for each populated slot of it, and
the channel record is erased. -/
def releaseChannel (ch : Nat) (s : State) : State :=
  let zs := (List.range 2).filter fun z => s.slotState ch z != 0 && s.slotState ch z != 10 && (s.fenceRecord ch (some z)).isNone
  let s1 := forAll zs s fun t z => writeRecord { ch := ch, slot := some z, serial := t.serialOf ch z, cause := 10 } t
  let s2 := ((eraseRecord ch none s1).setFld (Reg.DCC_STS_FENCED ch) 0).unfence (.channel ch)
  ((s2.setCond (58 + ch) .on).setCond (74 + ch) .on).unexpose fun e => e.src == 0x08 && e.inst == ch

/-- The channels that R335 releases now: their slots have been measured. -/
def releaseTested (s : State) : State :=
  forAll ((List.range 16).filter fun ch => s.on (Reg.DCC_STS_FENCED ch) && s.rst.released.contains (58 + ch) && (s.fenceRecord ch none).isSome) s
    fun t ch => releaseChannel ch t

/-- Once no slot is left to be powered and measured, the population is checked (R219), before any channel trains. -/
def tryPopulation (s : State) : State :=
  let waits := (List.range 32).any fun k =>
    (s.slotState (k / 2) (k % 2) == 1 && (s.dimm (k / 2) (k % 2)).info.isNone) ||
    (s.slotState (k / 2) (k % 2) == 0 && (s.dimm (k / 2) (k % 2)).fitted && [1, 2].contains (s.fld (Reg.SUP_CH_STS_STATE (4 + k))))
  if s.fld Reg.RST_STS_PHASE ≠ 5 ∨ s.dram.checked ∨ waits then s
  else
    let s1 := readRecords (releaseTested s)
    match s1.popError with
    | 0 => acceptPopulation s1
    | e => (refusePopulation e s1).onDram fun d => { d with checked := true }

/-- Whether slot `z` of channel `ch` is powered. -/
def State.slotPowered (s : State) (ch z : Nat) : Bool := s.fld (Reg.SUP_CH_STS_STATE (4 + 2 * ch + z)) == 3

/-- SPD_READ_RETRY (R221): a reading failed, and is retried 10 ms after. -/
def execSpdReadRetry (ch : Fin 16) (z : Fin 2) (k : DimmReading) (s : State) : Res :=
  if !s.slotPowered ch z then .next s
  else if (s.dimm ch z).failing.any fun f => f.1 == k then .next (s.advance (10 * ms))
  else .next (updDimm ch z (fun d => { d with failing := d.failing ++ [(k, s.clk)] }) s)

/-- SPD_SILENT (R221): 1 s of silence. A DIMM in service, or at start-up, has failed with cause 3; after a power-on, or at a return command, it is
rejected. -/
def execSpdSilent (ch : Fin 16) (z : Fin 2) (s : State) : Res :=
  match (s.dimm ch z).failing with
  | [] => .next s
  | (_, t0) :: _ =>
    let s1 := updDimm ch z (fun d => { d with failing := [] }) (s.until (t0 + sec))
    if (s.dimm ch z).prev.isSome || (s.dimm ch z).check then done (rejectDimm ch z s1)
    else done (tryPopulation (dimmFails ch z 3 s1))

/-- SPD_READ_DONE (R221): at start-up the DIMM counts for the population; at a return command it is checked and, where it passes, trained fully (R253);
after a power-on it is checked (R409). -/
def execSpdReadDone (ch : Fin 16) (z : Fin 2) (info : SpdInfo) (s : State) : Res :=
  let st := s.slotState ch z
  if !s.slotPowered ch z || !(s.dimm ch z).fitted then .next s
  else
    let s1 := recordSpd ch z info s
    if st = 1 ∧ (s.dimm ch z).prev.isNone then done (tryPopulation s1)
    else if st = 1 then
      if s.fitsPopulation info then
        let cause := ((s.fenceRecord ch (some z)).map FenceRecord.cause).getD 0
        let s2 := writeRecord { ch := ch, slot := some z.val, serial := info.serial, cause := cause, restoring := true } (s1.setFld Reg.DCM_SVC_STS_BUSY 0)
        done (beginTraining ch z false s2)
      else done (rejectDimm ch z s1)
    else if (s.dimm ch z).check then
      done (if s.fitsPopulation info then updDimm ch z (fun d => { d with check := false }) (setSlotState ch z 10 s1) else rejectDimm ch z s1)
    else .next s1

/-- DIMM_TEMP_READING (R222): from FG_C the DIMM's refresh interval is halved, from THR_THROTTLE the channel's command rate is limited to 50 %, each with
3 °C of hysteresis on the falling edge; from 100 °C the DIMM has failed with cause 5. -/
def execDimmTempReading (ch : Fin 16) (z : Fin 2) (ts0 ts1 : Fin 255) (s : State) : Res :=
  let t := Nat.max ts0 ts1
  let fgC := Nat.min 85 (s.fld (Reg.DCC_REF_FG_C ch))
  let thC := Nat.min 99 (s.fld (Reg.DCC_REF_THR_THROTTLE ch))
  let above := fun (lim : Nat) (was : Bool) => decide (lim ≤ t) || (was && decide (lim - 3 ≤ t))
  let s1 := if z.val = 0 then (s.setFld (Reg.DCC_TEMP_S0_TS0 ch) ts0).setFld (Reg.DCC_TEMP_S0_TS1 ch) ts1
    else (s.setFld (Reg.DCC_TEMP_S1_TS0 ch) ts0).setFld (Reg.DCC_TEMP_S1_TS1 ch) ts1
  let s2 := updDimm ch z (fun d => { d with fg := above fgC d.fg, thr := above thC d.thr, failing := d.failing.filter fun f => f.1 != .temps }) s1
  let s3 := (s2.setBit (Reg.DCC_STS_FG ch) ((s2.dimm ch 0).fg || (s2.dimm ch 1).fg)).setBit (Reg.DCC_STS_THROTTLE ch) ((s2.dimm ch 0).thr || (s2.dimm ch 1).thr)
  done (if 100 ≤ t then tryPopulation (dimmFails ch z 5 s3) else s3)

/-- PMIC_READING (Table 7.2): rails and currents; a fault fails the DIMM with cause 2. -/
def execPmicReading (ch : Fin 16) (z : Fin 2) (mv ma : List Nat) (fault : Bool) (s : State) : Res :=
  let s1 := updDimm ch z (fun d => { d with rails := mv, currents := ma, failing := d.failing.filter fun f => f.1 != .pmic }) s
  done (if fault then tryPopulation (dimmFails ch z 2 s1) else s1)

/-! ### Requests (R224, R225, R228) -/

/-- The page hint of a stitch read (R227): OPEN for reads of the collector, and for the first-seam stitch of an image that spans two seams on a channel that
holds a stitch of it in both. -/
def State.openHint (s : State) (j : ReadJob) (seam ch : Nat) : Bool :=
  (match j.use with
   | .op => (s.opOf j.gpn).any fun o => o.kind == .relocation
   | _ => false) ||
  (seam == j.img.seam && (imagePlaces j.img).any fun p => p.1 == seam + 1 && dataCh p.1 p.2 == ch)

/-- DCC_READ_REQUEST (R224, R228). -/
def execDccReadRequest (ch : Fin 16) (id seam : Nat) (s : State) : Res :=
  match s.job id with
  | none => .next s
  | some j =>
    let d := s.dcc ch
    if !j.needs.contains (seam, ch.val) || j.got.any (fun g => g.1 == seam && g.2.1 == ch.val) || d.rq.any (fun r => r.job == id && r.seam == seam) then .next s
    else if (s.rawStitch ch seam).isNone then .next (giveStitch id ch seam none s)
    else if d.stopped then .next s
    else match d.wq.reverse.find? fun w => w.seam == seam with
      | some w => .next (giveStitch id ch seam (some w.data) (s.count (Reg.DCC_FWD_CNT_COUNT ch)))
      | none =>
        if 128 ≤ d.rq.length then .next s
        else
          let e : ReadEntry := { job := id, seam := seam, cls := s.jobRank j, val := (s.rawStitch ch seam).getD 0, openHint := s.openHint j seam ch, at_ := s.clk }
          .next (arriveAt ch seam (s.updDcc ch fun d => { d with rq := d.rq ++ [e] }))

/-- DCC_WRITE_REQUEST (R224, R226, R228): a write to a DIMM that has failed since it was issued is dropped (R156). -/
def execDccWriteRequest (ch : Fin 16) (seam : Nat) (s : State) : Res :=
  match s.cold.writes.find? fun w => w.seam == seam && w.ch == ch.val with
  | none => .next s
  | some w =>
    let taken := s.onCold fun c => { c with writes := c.writes.erase w }
    let d := s.dcc ch
    if !s.writable ch seam then .next (skipStitch ch seam taken)
    else if d.stopped || s.slotState ch (s.slotOfSeam seam) == 2 then .next s
    else if d.wq.any fun x => x.seam == seam then
      .next (taken.updDcc ch fun d => { d with wq := d.wq.map fun x => if x.seam = seam then { x with data := w.data } else x })
    else if 256 ≤ d.wq.length then .next s
    else
      .next (settleDrain ch (arriveAt ch seam (taken.updDcc ch fun d => { d with wq := d.wq ++ [{ seam := seam, data := w.data, at_ := s.clk }] })))

/-! ### Scheduling (R223, R225 to R229, R256) -/

/-- An uncorrectable stitch (R239): counted, logged with its place, and reported. -/
def noteUe (ch seam : Nat) (inj : Bool) (s : State) : State :=
  let z := s.slotOfSeam seam
  let b := s.bankOf ch seam
  let s1 := (s.count (Reg.DCC_ECC_UE ch)).updDcc ch fun d =>
    { d with ueLog := (d.ueLog.filter fun u => decide (s.clk < u.at_ + 86400 * sec)) ++ [{ at_ := s.clk, z := z, rank := s.rankOf ch seam, bank := b.1 % 32, row := b.2 }] }
  s1.reportAs inj 0x02 (slotInst ch z) [s.rankOf ch seam, b.1 % 32, b.2, seam]

/-- A corrected stitch (R239): counted and reported; its restore write stores the value that it has. -/
def noteCe (ch seam : Nat) (inj : Bool) (s : State) : State :=
  let b := s.bankOf ch seam
  let s1 := (s.count (Reg.DCC_ECC_CE ch)).updDcc ch fun d => { d with inject := d.inject.filter (· != seam) }
  s1.reportAs inj 0x01 (slotInst ch (s.slotOfSeam seam)) [s.rankOf ch seam, b.1 % 32, b.2, seam]

/-- A stitch `v` read from a DIMM with what its ECC found, or an injection makes it find (R239, Table 11.4). -/
def readDram (ch seam : Nat) (v : Stitch) (ecc : Ecc) (s : State) : Option Stitch × State :=
  if s.armed 3 ch then (none, noteUe ch seam true (fire s))
  else match ecc with
    | .uncorrectable => (none, noteUe ch seam false s)
    | .corrected => (some v, noteCe ch seam false s)
    | .ok => (some v, if (s.dcc ch).inject.contains seam then noteCe ch seam true s else s)

/-- What a scheduler issues next; of a read, whether its row is open and whether a miss of its rank waits. -/
inductive Column where
  | refresh (bank : Nat)
  | read (e : ReadEntry) (hit miss : Bool)
  | write (e : WriteEntry)
  deriving DecidableEq, Repr

/-- The refreshes that JEDEC lets a bank postpone (log entry 33). -/
def postponeLimit : Nat := 4

/-- The next column command of channel `ch` when the banks `busy` cannot accept one (Table 7.3). A burst of a drain, once begun, runs to its end. -/
def State.nextColumn (s : State) (ch : Nat) (busy : List Nat) : Option Column :=
  let d := s.dcc ch
  let free := fun (q : Nat) => !busy.contains (s.bankOf ch q).1
  let rds := d.rq.filter fun r => free r.seam
  let wrs := d.wq.filter fun w => free w.seam && !d.retrain.contains (s.slotOfSeam w.seam, s.rankOf ch w.seam)
  let late := d.due.find? fun e => decide (postponeLimit ≤ e.2) && !busy.contains e.1
  let age := zeroAsOne (s.fld (Reg.DCC_SCHED_AGE ch)) * 100
  let promoted := rds.filter fun r => s.past r.at_ age
  let drain := s.on (Reg.DCC_STS_DRAIN ch)
  let isHit := fun (r : ReadEntry) => let b := s.bankOf ch r.seam; d.rows.any fun o => o.bank == b.1 && o.row == b.2
  let read := fun (r : ReadEntry) => Column.read r (isHit r) (d.rq.any fun x => x.cls == r.cls && !isHit x)
  let cls := rds.foldl (fun a r => Nat.min a r.cls) 15
  let mine := rds.filter fun r => r.cls == cls
  match late, promoted, wrs with
  | some e, _, _ => some (.refresh e.1)
  | none, p :: _, w :: _ => if drain && 0 < d.run && d.run < 16 then some (.write w) else some (read p)
  | none, p :: _, [] => some (read p)
  | none, [], ws =>
    match (if drain then ws else []), mine.filter isHit, mine.filter (fun r => !isHit r) with
    | w :: _, _, _ => some (.write w)
    | [], h :: _, m :: _ => if SMap.get 0 d.hits cls < zeroAsOne (s.fld (Reg.DCC_SCHED_HIT_CAP ch)) then some (read h) else some (read m)
    | [], h :: _, [] => some (read h)
    | [], [], m :: _ => some (read m)
    | [], [], [] => match ws with
      | w :: _ => some (.write w)
      | [] => (d.due.find? fun e => !busy.contains e.1).map fun e => .refresh e.1

/-- A refresh of a bank issued: its row closes, and one postponed refresh fewer waits. -/
def issueRefresh (ch bank : Nat) (s : State) : State :=
  s.updDcc ch fun d =>
    { d with rows := d.rows.filter fun o => o.bank != bank, due := (d.due.map fun e => if e.1 = bank then (e.1, e.2 - 1) else e).filter fun e => e.2 != 0 }

/-- A column command of channel `ch` carried out. -/
def issueColumn (ch : Nat) (c : Column) (ecc : Ecc) (s : State) : State :=
  match c with
  | .refresh b => issueRefresh ch b s
  | .read e hit miss =>
    let b := s.bankOf ch e.seam
    let r := readDram ch e.seam e.val ecc s
    let s1 := giveStitch e.job ch e.seam r.1 r.2
    let s2 := s1.updDcc ch fun d => { d with rq := d.rq.erase e, run := 0, hits := SMap.put 0 d.hits e.cls (if hit && miss then SMap.get 0 d.hits e.cls + 1 else 0) }
    touchIdle (touchRow ch b.1 b.2 e.openHint s2)
  | .write e =>
    let b := s.bankOf ch e.seam
    let s1 := putStitch ch e.seam e.data (s.updDcc ch fun d => { d with wq := d.wq.filter fun w => w.seam != e.seam, run := if d.run < 16 then d.run + 1 else 1 })
    touchIdle (settleDrain ch (touchRow ch b.1 b.2 true s1))

/-- The banks of the DIMMs that channel `ch` serves, in the numbering of `State.bankOf`. -/
def State.banks (s : State) (ch : Nat) : List Nat :=
  ((List.range 2).filter fun z => [3, 4, 5, 8].contains (s.slotState ch z)).flatMap fun z =>
    (List.range (s.rankCount ch z)).flatMap fun r => (List.range 32).map fun b => (z * 4 + r) * 32 + b

/-- On an idle channel a refresh is pulled in (R229): of the bank that has fewest ahead, within the limit of log entry 33. -/
def pullIn (ch : Nat) (busy : List Nat) (s : State) : State :=
  let d := s.dcc ch
  let next := (List.range postponeLimit).findSome? fun n => (s.banks ch).find? fun b => !busy.contains b && SMap.get 0 d.ahead b == n
  match (if d.rq.isEmpty && d.wq.isEmpty && s.on (Reg.DCC_STS_READY ch) then next else none) with
  | none => s
  | some b => s.updDcc ch fun d => { d with rows := d.rows.filter fun o => o.bank != b, ahead := SMap.put 0 d.ahead b (SMap.get 0 d.ahead b + 1) }

/-- The next line access of a pseudo-channel group (R256), with the scheduling values of DCC_SCHED's reset value (log entry 34), and whether it is a write. -/
def Group.next (g : Group) (now : Nat) (busy : List Nat) : Option LineAccess :=
  let rds := g.rq.filter fun a => !busy.contains a.bank
  let wrs := g.wq.filter fun a => !busy.contains a.bank
  let promoted := rds.filter fun a => decide (a.at_ + 1000 ≤ now)
  let cls := rds.foldl (fun a r => Nat.min a r.cls) 15
  match promoted, wrs with
  | p :: _, w :: _ => if g.drain && 0 < g.run && g.run < 16 then some w else some p
  | p :: _, [] => some p
  | [], ws =>
    match (if g.drain then ws else []), rds.filter fun r => r.cls == cls with
    | w :: _, _ => some w
    | [], r :: _ => some r
    | [], [] => ws.head?

/-- DCC_COLUMN_COMMAND (R225, R256): the first eligible request in the order of Table 7.3. -/
def execDccColumnCommand (u : Scheduler) (busy : List Nat) (ecc : Ecc) (s : State) : Res :=
  if s.on Reg.CLK_STS_HOLDOVER then .next s
  else match u with
  | .dcc ch =>
    if (s.dcc ch).stopped then .next s
    else match s.nextColumn ch busy with
      | none => .next (pullIn ch busy s)
      | some c => done (issueColumn ch c ecc s)
  | .group st g =>
    let k := 8 * st.val + g.val
    let x := s.group k
    let drain := decide (192 ≤ x.wq.length) || (x.drain && decide (64 < x.wq.length))
    if s.dram.stackRetrain = some k then .next s
    else match ({ x with drain := drain }).next s.clk busy with
    | none => .next s
    | some a =>
      .next (touchIdle (s.updGroup k fun x =>
        if a.write then { x with wq := x.wq.erase a, drain := drain && decide (65 < x.wq.length), run := if drain then (if x.run < 16 then x.run + 1 else 1) else 0 }
        else { x with rq := x.rq.erase a, drain := drain, run := 0 }))

/-- OPEN_ROW_IDLE_CLOSE (R227): a group's rows are closed by auto-precharge, since its accesses carry no hint. -/
def execOpenRowIdleClose (u : Scheduler) (bank : Nat) (s : State) : Res :=
  match u with
  | .dcc ch =>
    (match (s.dcc ch).rows.find? fun o => o.bank == bank with
     | none => .next s
     | some o => .next ((s.until (o.at_ + s.fld (Reg.DCC_SCHED_OPEN ch) * 10)).updDcc ch fun d => { d with rows := d.rows.filter fun r => r.bank != bank }))
  | .group st g => .next (s.updGroup (8 * st.val + g.val) fun x => { x with rows := x.rows.filter fun r => r.bank != bank })

/-- STITCH_READ_TIMEOUT (R338): 20 µs without data; the stitch is uncorrectable, an erasure. -/
def execStitchReadTimeout (ch : Fin 16) (id seam : Nat) (s : State) : Res :=
  match (s.dcc ch).rq.find? fun r => r.job == id && r.seam == seam with
  | none => .next s
  | some r =>
    let s1 := touchIdle ((s.until (r.at_ + 20000)).updDcc ch fun d => { d with rq := d.rq.erase r })
    done (giveStitch id ch seam none (noteUe ch seam false s1))

/-- REFRESH_DUE (R229, R415): met by a refresh that was pulled in; postponed while promoted reads or C0 reads wait, and in holdover, up to the limit; issued otherwise, and on an
idle channel with those postponed. The bank's row closes (R227). -/
def execRefreshDue (ch : Fin 16) (bank : Nat) (s : State) : Res :=
  let d := s.dcc ch
  let n := ((d.due.find? fun e => e.1 == bank).map Prod.snd).getD 0
  let age := zeroAsOne (s.fld (Reg.DCC_SCHED_AGE ch)) * 100
  let wait := s.on Reg.CLK_STS_HOLDOVER || d.rq.any fun r => r.cls % 8 == 0 || s.past r.at_ age
  let ahead := SMap.get 0 d.ahead bank
  let closed := s.updDcc ch fun d => { d with rows := d.rows.filter fun o => o.bank != bank }
  let set := fun (m : Nat) (t : State) => t.updDcc ch fun d => { d with due := (d.due.filter fun e => e.1 != bank) ++ (if m = 0 then [] else [(bank, m)]) }
  if s.on (Reg.DCC_STS_SR ch) then .next s
  else if 0 < ahead then .next (s.updDcc ch fun d => { d with ahead := SMap.put 0 d.ahead bank (ahead - 1) })
  else if wait && n < postponeLimit then .next (set (n + 1) closed)
  else .next (set (if d.rq.isEmpty && d.wq.isEmpty then 0 else n) closed)

/-! ### Self-refresh (R230) -/

/-- SELF_REFRESH_ENTRY (R230): what the queues hold is completed, every bank is precharged. -/
def execSelfRefreshEntry (ch : Fin 16) (s : State) : Res :=
  if !s.on (Reg.DCC_STS_READY ch) || s.on (Reg.DCC_STS_SR ch) then .next s
  else .next (enterSelfRefresh ch s)

/-- SELF_REFRESH_EXIT (R230): ZQ calibration runs where a DIMM's temperature has moved by more than 10 °C. -/
def execSelfRefreshExit (ch : Fin 16) (s : State) : Res :=
  if !s.on (Reg.DCC_STS_SR ch) then .next s
  else .next (leaveSelfRefresh ch s)

/-! ### Training and margining (R231 to R235, R258) -/

/-- Full or fast training of slot `z` applied: the ranks of `bad` failed. -/
def slotTrained (ch z : Nat) (bad : List Nat) (s : State) : State :=
  let d := s.dimm ch z
  let n := s.rankCount ch z
  match d.prev with
  | some st =>
    if bad.isEmpty then
      let s1 := updDimm ch z (fun d => { d with prev := none }) (setSlotState ch z 8 s)
      match s1.blockOf ch z with
      | some b => ((s1.setFld (Reg.DCM_BLK_OP b) 4).setFld (Reg.DCM_BLK_DONE b) 0).vendor 0 0x0120 [ch, z, b, 4]
      | none => s1.onDcm fun d => { d with restores := d.restores ++ [(ch, z, 0)] }
    else
      let r := (s.fenceRecord ch (some z)).map fun r => { r with restoring := false }
      let s1 := match r with
        | some r => writeRecord r s
        | none => s
      svcCode ch z 5 (updDimm ch z (fun d => { d with prev := none }) (setSlotState ch z st s1))
  | none =>
    if (List.range n).all fun r => bad.contains r then dimmFails ch z 4 s
    else
      let was := ((s.dram.dcm.slots.getD (slotInst ch z) 0).toNat / 2 ^ 28)
      let tgt := if (s.fenceRecord ch (some z)).any FenceRecord.restoring then 8 else if s.fld Reg.RST_STS_LEVEL ≠ 5 ∧ (was = 4 ∨ was = 5) then was else 3
      setSlotState ch z tgt (forAll (bad.filter fun r => decide (r < n)) s fun t r => retireRank ch z r 4 t)

/-- The training of channel `ch` is complete with the results in force: its slots serve, and a start-up checks the population again (R219). -/
def finishTraining (ch : Nat) (failed : List (Nat × Nat)) (s : State) : State :=
  let zs := (List.range 2).filter fun z => s.slotState ch z == 2
  let s1 := forAll zs s fun t z => slotTrained ch z ((failed.filter fun f => f.1 == z).map Prod.snd) t
  let s2 := (s1.setFld (Reg.DCC_STS_TRAINING ch) 0).updDcc ch fun d => { d with held := none, fast := false, stopped := false, lost := d.lost && d.fast }
  let up := (List.range 2).any fun z => [3, 4, 5, 8].contains (s2.slotState ch z)
  let s3 := s2.setBit (Reg.DCC_STS_READY ch) (up && !s2.on (Reg.DCC_STS_FENCED ch))
  let bad := (expectedSlots (s.fld (Reg.DCC_POP_DPC ch))).filter fun k => s3.slotFailed k.1 k.2
  if s.fld Reg.RST_STS_PHASE = 5 ∧ tooManyBad bad then refusePopulation 6 s3 else s3

/-- CHANNEL_TRAINING_DONE (R231, R232): a fast training that fails is followed by a full one; in host-assisted mode a full training's results are held. -/
def execChannelTrainingDone (ch : Fin 16) (failed : List (Fin 2 × Fin 4)) (s : State) : Res :=
  let fs := failed.map fun f => (f.1.val, f.2.val)
  if !s.on (Reg.DCC_STS_TRAINING ch) || (s.dcc ch).held.isSome then .next s
  else if (s.dcc ch).fast && !fs.isEmpty then .next (s.updDcc ch fun d => { d with fast := false })
  else if s.on Reg.DCM_MODE_TRAIN_ACT && !(s.dcc ch).fast then
    .next ((s.updDcc ch fun d => { d with held := some fs, heldAt := s.clk }).vendor 0 0x0123 [ch])
  else done (finishTraining ch fs s)

/-- The results of a stack's training in force: its groups' lanes are repaired; a group that needs more than four spare lanes is fenced (R258). -/
def stackTrained (st : Nat) (lanes : List Nat) (s : State) : State :=
  let ok := fun (g : Nat) => decide (lanes.getD g 0 ≤ 4)
  let good := (List.range 8).filter ok
  let mask := good.foldl (fun a g => a + 2 ^ g) 0
  let s1 := ((s.setFld (Reg.HTC_PHY_STS_PCG_TRAINED st) mask).setFld (Reg.HTC_PHY_STS_LANES_REPAIRED st) ((good.map fun g => lanes.getD g 0).foldl (· + ·) 0)).setFld
    (Reg.HTC_PHY_STS_TRAINED st) 1
  let s2 := (s1.setFld (Reg.HTC_STS_READY st) 1).onDram fun d => { d with stackHeld := d.stackHeld.filter fun h => h.1 != st }
  forAll ((List.range 8).filter fun g => !ok g) s2 fun t g => t.report 0x0B (8 * st + g) [(t.reg (Reg.HTC_STS st)).toNat]

/-- STACK_TRAINING_DONE (R258): full at Level 5, where host-assisted mode holds the results (R232), fast at Level 4. -/
def execStackTrainingDone (st : Fin 2) (lanes : List Nat) (s : State) : Res :=
  if s.on (Reg.HTC_PHY_STS_TRAINED st) || s.isFenced (.stack st) || s.fld Reg.RST_STS_PHASE ≠ 5 || s.dram.stackHeld.any (fun h => h.1 == st.val) then .next s
  else if s.on Reg.DCM_MODE_TRAIN_ACT && s.fld Reg.RST_STS_LEVEL == 5 then
    .next ((s.onDram fun d => { d with stackHeld := d.stackHeld ++ [(st.val, s.clk, lanes)] }).vendor 0 0x0123 [16 + st.val])
  else done (stackTrained st lanes s)

/-- TRAINING_HOLD_TIMEOUT (R232, R258): RET_WAIT_S after a unit's results were held they are applied, and an event says so. -/
def execTrainingHoldTimeout (u : TrainUnit) (s : State) : Res :=
  let wait := zeroAsOne (s.fld Reg.DCM_TRAIN_CFG_RET_WAIT_S) * sec
  match u with
  | .channel ch =>
    (match (s.dcc ch).held with
     | none => .next s
     | some fs =>
       let s1 := (s.until ((s.dcc ch).heldAt + wait)).updDcc ch fun d => { d with applied := none }
       done ((finishTraining ch fs s1).vendor 0 0x0123 [ch]))
  | .stack st =>
    (match s.dram.stackHeld.find? fun h => h.1 == st.val with
     | none => .next s
     | some (_, at_, lanes) => done ((stackTrained st lanes (s.until (at_ + wait))).vendor 0 0x0123 [16 + st.val]))

/-- The retrain of the next rank that waits begins, one at a time in the module (R233, R234): its queued reads become erasures. The accesses of a stack's
group wait for its retrain (R258). -/
def startRetrain (s : State) : State :=
  if s.dram.stackRetrain.isSome || (List.range 16).any fun c => !(s.dcc c).retrain.isEmpty then s
  else match s.dram.dcm.retrainQ with
    | [] => s
    | (ch, z, r) :: rest =>
      if 16 ≤ ch then (s.onDcm fun d => { d with retrainQ := rest }).onDram fun d => { d with stackRetrain := some (8 * (ch - 16) + 4 * z + r) }
      else
      let s1 := failReads ch (fun q => s.slotOfSeam q == z && s.rankOf ch q == r) (s.onDcm fun d => { d with retrainQ := rest })
      (s1.updDcc ch fun d => { d with retrain := [(z, r)] }).setFld (Reg.DCC_STS_RETRAIN ch) 1

/-- Whether a rank of this margin is retrained (R233): below MARGIN_MIN, in host-assisted mode only below half of it. -/
def State.marginLow (s : State) (m : RankMargin) : Bool :=
  let lim := s.fld Reg.DCM_TRAIN_CFG_MARGIN_MIN
  if s.on Reg.DCM_MODE_TRAIN_ACT then decide (2 * Nat.min m.rd m.wr < lim) else decide (Nat.min m.rd m.wr < lim)

/-- When a pass may run (R233): in hardware mode every MARGIN_H hours after the last, at `last`, and never with MARGIN_H 0; in host-assisted mode the command
is the host's. None: no pass starts. -/
def marginDue (last : Nat) (s : State) : Option State :=
  if s.switching 4 then none
  else if s.on Reg.DCM_MODE_TRAIN_ACT then some s
  else if s.fld Reg.DCM_TRAIN_CFG_MARGIN_H = 0 then none
  else some (s.until (last + s.fld Reg.DCM_TRAIN_CFG_MARGIN_H * 3600 * sec))

/-- The ranks of `m` whose margin is low wait for their retrain, as channel number `ch`. -/
def askRetrain (ch : Nat) (m : List RankMargin) (s : State) : State :=
  let new := (m.filter s.marginLow).map fun y => (ch, y.slot.val, y.rank.val)
  startRetrain (s.onDcm fun d => { d with retrainQ := d.retrainQ ++ new.filter fun y => !d.retrainQ.contains y })

/-- MARGINING_PASS (R233, R258): the worst margins of a channel are reported; a rank below MARGIN_MIN is retrained, in host-assisted mode only below half of
it. In a stack the ranks are its pseudo-channel groups, 4 × slot + rank (log entry 109). -/
def execMarginingPass (u : TrainUnit) (m : List RankMargin) (s : State) : Res :=
  match u, m with
  | _, [] => .next s
  | .channel ch, x :: l =>
    (match (if s.on (Reg.DCC_STS_READY ch) then marginDue (s.dcc ch).marginAt s else none) with
     | none => .next s
     | some t =>
       let s1 := (t.setFld (Reg.DCC_MARGIN_RD_MIN ch) (l.foldl (fun a y => Nat.min a y.rd) x.rd)).setFld (Reg.DCC_MARGIN_WR_MIN ch) (l.foldl (fun a y => Nat.min a y.wr) x.wr)
       .next (askRetrain ch m (s1.updDcc ch fun d => { d with marginAt := t.clk })))
  | .stack st, _ :: _ =>
    (match (if s.on (Reg.HTC_PHY_STS_TRAINED st) && !s.isFenced (.stack st) then marginDue (s.dram.stackMarginAt.getD st 0) s else none) with
     | none => .next s
     | some t => .next (askRetrain (16 + st.val) (m.filter fun y => !s.isFenced (.group st (4 * y.slot.val + y.rank.val)))
         (t.onDram fun d => { d with stackMarginAt := d.stackMarginAt.set st t.clk })))

/-- RANK_RETRAIN_DONE (R233): a margin still below half of MARGIN_MIN retires the rank (cause 8), and fences a stack's group. -/
def execRankRetrainDone (u : TrainUnit) (m : RankMargin) (s : State) : Res :=
  let bad := decide (2 * Nat.min m.rd m.wr < s.fld Reg.DCM_TRAIN_CFG_MARGIN_MIN)
  match u with
  | .channel ch =>
    if !(s.dcc ch).retrain.contains (m.slot.val, m.rank.val) then .next s
    else
      let s1 := ((s.updDcc ch fun d => { d with retrain := [] }).setFld (Reg.DCC_STS_RETRAIN ch) 0).count (Reg.DCC_MARGIN_RETRAINS ch)
      done (startRetrain (if bad && s.failable ch m.slot then retireRank ch m.slot m.rank 8 s1 else s1))
  | .stack st =>
    let k := 8 * st.val + 4 * m.slot.val + m.rank.val
    if s.dram.stackRetrain ≠ some k then .next s
    else
      let s1 := s.onDram fun d => { d with stackRetrain := none }
      done (startRetrain (if bad then s1.report 0x0B k [(s1.reg (Reg.HTC_STS st)).toNat] else s1))

/-! ### Patrol (R236 to R238) -/

/-- The position that every byte offset with non-zero syndromes names (R236); none where they differ or name none. -/
def locatePosition (l : List Stitch) : Option Nat :=
  let bad := (List.range 256).filterMap fun j =>
    let y := Crypto.syndromes (Crypto.symbolsAt l j)
    if y == (0, 0) then none else some ((List.range 16).find? fun i => y.1 != 0 && Crypto.gfMul Crypto.seamPoly (Crypto.seamWeight i) y.1 == y.2)
  match bad with
  | some i :: rest => if rest.all fun x => x == some i then some i else none
  | _ => none

/-- One seam read, checked and mended (R236): `ce` and `ue` are the channels whose ECC corrected the stitch or could not. Seams of free segments are read for
DIMM health only. -/
def checkSeam (seam : Nat) (ce ue : List Nat) (s : State) : State :=
  let serves := fun (c : Nat) => (s.rawStitch c seam).isSome
  let s1 := forAll (ce.filter serves) s fun t c => noteCe c seam false t
  let s2 := forAll (ue.filter serves) s1 fun t c => noteUe c seam false t
  let c := (List.range 16).map fun i => if ue.contains (codeCh seam i) && serves (codeCh seam i) then none else s.readStitch (codeCh seam i) seam
  if s.segState (segOf seam) == .free then s2
  else match (c.filter Option.isNone).length with
    | 0 =>
      let l := c.map fun x => x.getD 0
      if isCode l then s2
      else match locatePosition l with
        | none => relocateSeam seam s2
        | some i =>
          let ch := codeCh seam i
          let inj := (s.dcc ch).corrupt.contains seam
          let v := ((Crypto.seamRecover (c.set i none)).bind fun l => l[i]?).getD 0
          let s3 := if serves ch then putStitch ch seam v s2 else s2
          (s3.reportAs inj 0x03 0 [slotInst ch (s.slotOfSeam seam), seam, i, 0]).count Reg.DCM_PATROL_CNT_LOCATED
    | 1 => (match Crypto.seamRecover c with
      | some l => if isCode l then s2 else relocateSeam seam s2
      | none => s2)
    | _ => s2

/-- A seam checked, and the visit noted; its reads carry the OPEN hint. -/
def visitSeam (seam : Nat) (ce ue : List (Fin 16)) (s : State) : State :=
  (checkSeam seam (ce.map Fin.val) (ue.map Fin.val) (readRows seam (List.range 16) s)).onDcm fun d => { d with visited := SMap.put 0 d.visited seam s.clk }

/-- Whether patrol runs: the DIMMs serve, the CTM is ready and no switch of patrol's mode is pending (Table 16.4). -/
def State.patrols (s : State) : Bool := s.on Reg.CTM_STS_READY && !s.switching 3 && decide (0 < s.cold.nSeg) && s.fld Reg.PWR_STS_STATE < 2

/-- PATROL_SEAM_CHECK (R236, R238): the seam at the cursor, or in host-assisted mode the next of the commanded ranges. -/
def execPatrolSeamCheck (ce ue : List (Fin 16)) (s : State) : Res :=
  if !s.patrols then .next s
  else if s.on Reg.DCM_MODE_PATROL_ACT then
    match s.dram.dcm.ranges with
    | [] => .next s
    | (lo, hi) :: rest => done (visitSeam lo ce ue (s.onDcm fun d => { d with ranges := if hi ≤ lo + 1 then rest else (lo + 1, hi) :: rest }))
  else
    let q := s.fld Reg.DCM_PATROL_STS_CURSOR
    let s1 := if s.cold.nSeg * 4096 ≤ q + 1 then (s.setFld Reg.DCM_PATROL_STS_CURSOR 0).count Reg.DCM_PATROL_CNT_PASSES else s.setFld Reg.DCM_PATROL_STS_CURSOR (q + 1)
    done (visitSeam q ce ue s1)

/-- PATROL_FLOOR_VISIT (R238): in host-assisted mode, a seam not visited within FLOOR_D days. -/
def execPatrolFloorVisit (seam : Nat) (ce ue : List (Fin 16)) (s : State) : Res :=
  let days := zeroAsOne (s.fld Reg.DCM_PATROL_CFG_FLOOR_D)
  if !s.patrols || !s.on Reg.DCM_MODE_PATROL_ACT || decide (s.cold.nSeg * 4096 ≤ seam) then .next s
  else
    let s1 := s.until (SMap.get 0 s.dram.dcm.visited seam + days * 86400 * sec)
    done (visitSeam seam ce ue (s1.vendor 1 0x0124 [seam]))

/-! ### Row repair and rank retirement (R240, R241) -/

/-- The uncorrectable errors of the last 24 h. -/
def State.recentUe (s : State) (ch : Nat) : List UeLog := (s.dcc ch).ueLog.filter fun u => decide (s.clk < u.at_ + 86400 * sec)

/-- ROW_REPAIR (R240): the row is replaced by a spare of its bank group, its 32 stitches are rebuilt from their seams and restore-written, and the repair
enters the DIMM's list. -/
def execRowRepair (ch : Fin 16) (z : Fin 2) (rank : Fin 4) (bank row : Nat) (spare : Bool) (s : State) : Res :=
  let here := fun (u : UeLog) => u.z == z.val && u.rank == rank.val && u.bank == bank && u.row == row
  let n := ((s.recentUe ch).filter here).length
  if !spare || n < zeroAsOne (s.fld (Reg.DCC_ERR_CFG_PPR_THR ch)) then .next s
  else
    let first := z.val * s.slotSeams + rank.val * (s.slotSeams / s.rankCount ch z) + 32 * (32 * row + bank % 4 * 8 + bank / 4)
    let s1 := (s.setFld (Reg.DCC_SLOT_PPR ch z) (satAdd 8 (s.fld (Reg.DCC_SLOT_PPR ch z)) 1)).onFlash fun f => { f with rows := f.rows ++ [(s.serialOf ch z, rank.val * 32 + bank, row)] }
    let s2 := s1.updDcc ch fun d => { d with ueLog := d.ueLog.filter fun u => !here u }
    let seams := ((List.range 32).map fun i => first + i).filter fun q => s.writable ch q && s.segState (segOf q) != .free
    let s3 := forAll seams s2 fun t q => match (t.solve [] q ch).value with
      | some v => putStitch ch q v t
      | none => t
    done (s3.logTo s3.allLds 0 (.dram 0 (slotInst ch z) rank bank row false))

/-- RANK_RETIRE (Table 7.5): UE_THR uncorrectable errors within 24 h. -/
def execRankRetire (ch : Fin 16) (z : Fin 2) (rank : Fin 4) (s : State) : Res :=
  let n := ((s.recentUe ch).filter fun u => u.z == z.val && u.rank == rank.val).length
  if n < zeroAsOne (s.fld (Reg.DCC_ERR_CFG_UE_THR ch)) ∨ !s.failable ch z then .next s
  else done (retireRank ch z rank 1 s)

/-! ### Rebuild, evacuation and return (R244 to R255) -/

/-- Stitches that a maintenance read found uncorrectable (R239). -/
def noteUes (ue : List (Nat × Nat)) (s : State) : State := forAll (ue.filter fun e => (s.rawStitch e.2 e.1).isSome) s fun t e => noteUe e.2 e.1 false t

/-- REBUILD_UNIT_DONE (R246): the next unit of block `b`'s rebuild, evacuation or restore; for a block that is not assigned, the next unit of a restore that
has none. -/
def execRebuildUnitDone (b : Fin 4) (s : State) (ue : List (Nat × Fin 16) := []) : Res :=
  let bad := ue.map fun e => (e.1, e.2.val)
  if !s.patrols then .next s
  else if s.on (Reg.DCM_BLK_VALID b) then
    (if [1, 2, 4].contains (s.fld (Reg.DCM_BLK_OP b)) then done (unitDone b bad (noteUes bad s)) else .next s)
  else done (plainRestore bad (noteUes bad s))

/-- COVERAGE_REFRESH (R244): a segment sealed since the range was covered. -/
def execCoverageRefresh (b : Fin 4) (seg : Nat) (s : State) (ue : List (Nat × Fin 16) := []) : Res :=
  let bad := ue.map fun e => (e.1, e.2.val)
  if s.on (Reg.DCM_BLK_VALID b) && s.fld (Reg.DCM_BLK_OP b) != 4 && (s.needsCover b).contains seg && s.visits seg && s.inRange b seg then done (coverSeg b seg bad (noteUes bad s))
  else .next s

/-- EVACUATE (R251). -/
def execEvacuate (p : Path) (ch : Fin 16) (z : Fin 2) (s : State) : Res := done (plazaOnly p s (svcEvacuate ch z))

/-- FENCE_FOR_SERVICE (R252). -/
def execFenceForService (p : Path) (ch : Fin 16) (z : Fin 2) (s : State) : Res := done (plazaOnly p s (svcFence ch z))

/-- SLOT_RETURN (R253). -/
def execSlotReturn (p : Path) (ch : Fin 16) (z : Fin 2) (s : State) : Res := done (plazaOnly p s (svcReturn ch z))

/-- CANCEL_EVACUATION (R255). -/
def execCancelEvacuation (p : Path) (ch : Fin 16) (z : Fin 2) (s : State) : Res := done (plazaOnly p s (svcCancel ch z))

/-- STACK_TEMP_READING (R257): refresh at half the interval from 85 °C, half the access rate from 95 °C, the stack fails at 105 °C. -/
def execStackTempReading (st : Fin 2) (t : Fin 256) (s : State) : Res :=
  let s1 := ((s.setFld (Reg.HTC_PHY_STS_TEMP st) t).setBit (Reg.HTC_PHY_STS_FG st) (decide (85 ≤ t.val))).setBit (Reg.HTC_PHY_STS_THROTTLE st) (decide (95 ≤ t.val))
  done (if 105 ≤ t.val ∧ ¬ s.isFenced (.stack st) then s1.report 0x0C st [(s1.reg (Reg.HTC_STS st)).toNat] else s1)

end Sys2Proof.Machine
end

