-- ==== Sys2Proof/Machine/StartOps.lean ====
section
/-! DEFINITION. The end of a start-up: the CTM's initialisation from the measured population and the activation of memory (R145, R176, R459,
Tables 15.6 and 15.7). -/
namespace Sys2Proof.Machine

open Sys2Proof

/-! ### The ledger and the capacities of a population (R145, R176) -/

/-- NS for `raw` GiB. -/
def ledgerSlots (raw : Nat) : Nat := raw * 11 / 4

/-- NL for `ns` map slots: map area, root area and a journal of at least 4 GiB of data positions, in whole segments of 4,096 seams. -/
def ledgerSegments (ns : Nat) : Nat := ceilDiv (8 * ceilDiv (ns * 1024) 7 + 8 * ceilDiv (ns * 8) 7 + ceilDiv (2 ^ 32) 3584) 4096

/-- G for `segs` log segments outside the tack reserve, DIMMs of `d` GiB and `raw` GiB in all. -/
def guaranteed (segs d raw : Nat) : Nat := Nat.min (segs * 14 * 88 / 102400 / d * d) (raw * 11 / 16)

/-- The CTM's view of the population: DIMM capacity, raw capacity, NS, NL, and the capacities of CTM_CAP. Under the safe layout LD0 and window 0 take
G (Table 16.3). -/
def measure (s : State) : State :=
  let d := s.cold.dimmGib
  let raw := 16 * s.cold.nSeg / 1024
  let ns := ledgerSlots raw
  let s1 := s.onCold fun c => { c with rawGib := raw, nSlots := ns, nLedger := ledgerSegments ns }
  let g := guaranteed (s1.cold.nSeg - s1.cold.nLedger - s1.fld Reg.CTM_TACK_DIMMS * s1.blockSegs) d raw
  let s2 := (s1.setFld Reg.CTM_CAP_GUAR g).setFld Reg.CTM_CAP_VMAX (Nat.min (4 * g) (raw * 11 / 4))
  if s2.layout.safe then
    let s3 := s2.setFld (Reg.CTM_LWIN_SLOTS 0) g
    s3.onLayout fun y =>
      { y with lds := y.lds.modify 0 (fun l => { l with staticGib := g })
               loaded := SMap.put (Reg.resetOf (Reg.CTM_LWIN 0)) y.loaded (Reg.CTM_LWIN 0) (s3.reg (Reg.CTM_LWIN 0)) }
  else s2

/-! ### Readiness -/

/-- Whether channel `c` holds the start-up up no longer: nothing is left to be measured or trained; at Level 4 a full training after a failed fast one
goes on beside it (R447). -/
def State.channelSettled (s : State) (c : Nat) : Bool :=
  s.on (Reg.DCC_STS_FENCED c) ||
  (List.range 2).all fun z => s.slotState c z != 1 && (s.slotState c z != 2 || (s.fld Reg.RST_STS_LEVEL == 4 && !(s.dcc c).fast))

/-- Whether stack `st` is trained, or fenced. -/
def State.stackSettled (s : State) (st : Nat) : Bool := s.on (Reg.HTC_PHY_STS_TRAINED st) || s.isFenced (.stack st)

/-- Whether the CTM can initialise (Tables 15.6 and 15.7, R216, R219): the population is accepted, the channels and the stacks are ready, and no overwrite
is to be done. -/
def State.mayInit (s : State) : Bool :=
  s.fld Reg.RST_STS_PHASE == 5 && s.dram.checked && s.fld (Reg.DCC_POP_ERR 0) == 0 && (List.range 16).all s.channelSettled && (List.range 2).all s.stackSettled &&
  !s.rst.overwrite && !s.isFenced .ctm && !s.on Reg.CTM_STS_RECOVERING && !s.on Reg.CTM_STS_READY && !s.on Reg.CRY_STS_LEDGER_FATAL

/-! ### Activation (Table 15.6, step 16; Table 15.7, step 13) -/

/-- The vendor event of R459 for LD `k`. -/
def inactiveEvent (k why : Nat) (s : State) : State :=
  s.vendor 1 0x0141 [k, why, if why = 1 then s.cold.nSlots else s.fld Reg.CTM_CAP_GUAR]

/-- Memory becomes active, which waits while the input is in the lowest band (R389): every LD that qualifies is Memory_Active unless its key holds it back, the others are named in events; the windows of R188
count their time from now; engines serve; failed slots are covered (R245). The start-up is complete. -/
def activateMemory (s : State) : State :=
  let s1 := (((s.setFld Reg.RST_STS_MEM_ACTIVE 1).setFld Reg.RST_TIME_MEM_MS (Nat.min 65535 ((s.clk - s.rst.t0) / ms))).setFld Reg.RST_STS_PHASE 0).setFld Reg.RST_STS_LEVEL 0
  let s2 := forAll (List.range 16) s1 fun t k => if (t.ldLayout k).head.isSome && t.inactiveWhy k != 0 then inactiveEvent k (t.inactiveWhy k) t else t
  let s3 := (enableKeyed s2).onVault fun v => { v with winStart := s.clk }
  let s4 := forAll (List.range 8) s3 fun t n => if t.isFenced (.engine n) then t else t.setFld (Reg.NME_STS_READY n) 1
  coverAfterStart (s.fld Reg.RST_STS_LEVEL) s4

/-- After a Level 4 reset the plaza clears PIN on every page in the background (R266): it has done so when memory becomes active. -/
def clearPins (s : State) : State :=
  let ps := s.qos.lastPinned.flatMap s.cinchPages ++ (s.hot.desc.filter fun e => e.2.pin).map fun e => e.2.gpn
  forAll ps (s.onQos fun q => { q with lastPinned := [] }) fun t p => unpin p t

/-- The CTM after Level 5 (R215): every log segment is free, no block is borrowed, and the ledger reads as zero pages under a new key, which waits for the
TRNG where its health test has not passed (R190). -/
def initFresh (s : State) : State :=
  let s1 := if s.on Reg.CRY_STS_TRNG_OK then ledgerKeyGen s else s.onVault fun v => { v with ledgerWithheld := true }
  (((s1.setFld Reg.CTM_STS_READY 1).setFld Reg.CRY_STS_LEDGER_FATAL 0).onVault fun v => { v with rootCnt := [] }).onQos fun q => { q with lastPinned := [] }

/-- Level 4 resumes the rebuild-family operations with their blocks (R249); its recovery begins (R167). The borrowed blocks are reported once the CTM is
READY (R521). -/
def initRecovery (s : State) : State :=
  let words := s.dram.dcm.saved
  let s1 := forAll (List.range 4) s fun t b => (t.setReg (Reg.DCM_BLK b) (words.getD b 0)).setFld (Reg.DCM_BLK_BORROWED b) 0
  let used := ((List.range 4).filter fun b => s1.on (Reg.DCM_BLK_VALID b)).length
  let frozen := (s1.extentSlots.filter fun e => e.2.2.frozen).length
  ((s1.setFld Reg.CTM_TACK_IN_USE used).setFld Reg.CTM_DIST_STS_FROZEN frozen).setFld Reg.CTM_STS_RECOVERING 1

/-- The blocks that the distress sequence had borrowed before a Level 4 reset (R521). -/
def restoreBorrowed (s : State) : State :=
  let bs := (List.range 4).filter fun b => fieldOf (s.dram.dcm.saved.getD b 0) (Reg.DCM_BLK_BORROWED b) == 1
  (forAll bs s fun t b => t.setFld (Reg.DCM_BLK_BORROWED b) 1).setFld Reg.CTM_TACK_BORROWED bs.length

end Sys2Proof.Machine
end

