-- ==== Sys2Proof/Machine/ColdTier.lean ====
section
/-! DEFINITION. The commands of the cold tier (chapter 05): page-image reads, appends and commits, the journal and the ledger, garbage collection,
capacity distress. -/
namespace Sys2Proof.Machine

open Sys2Proof

/-! ### Reading page images (R154, R174, R175, R204 to R206) -/

/-- A data-path request reaches the power domain `d` of a block: a domain that is not On is restored, and the request counts as one that waited (R363, R375). A request that a host's
CXL.mem request has caused is a wake of its head, with code 1; an internal one has no code in Table 12.10, so PWR_LAST_WAKE stays. -/
def useDomain (who : Option Nat) (d : Nat) (s : State) : State :=
  if s.cond d == .on then s
  else
    let s1 := s.count Reg.PWR_WAIT_CNT_COUNT
    match who with
    | some h => takeWake 1 h (some d) s1
    | none => if 2 ≤ s.fld Reg.PWR_STS_STATE then s1 else wakeDomain d s1

/-- The head whose request read job `j` serves, if a host's request waits for it. -/
def State.jobHead (s : State) (j : ReadJob) : Option Nat :=
  (s.slices.flatMap fun e => e.2.txns).findSome? fun t => if t.job = some j.id then (match t.req.agent with
    | .host h _ => some h
    | _ => none) else none

/-- STITCHER_READ (R154). -/
def execStitcherRead (id : Nat) (s : State) : Res :=
  match s.job id with
  | none => .next s
  | some j =>
    if j.stitcher.isSome then .next s
    else match s.stitcherFor j.img.seam with
      | none => .next s
      | some n =>
        if s.cold.jobs.any fun k => k.stitcher.isNone && s.stitcherFor k.img.seam == some n && decide (s.jobRank k < s.jobRank j) then .next s
        else
        let needs := s.imageNeeds j.img
        let s1 := updJob id (fun j => { j with stitcher := some n, needs := needs }) (useDomain (s.jobHead j) (42 + n) s)
        .next (if j.use = .op then updOp j.gpn (fun o => { o with stitcher := some n }) s1 else s1)

/-- STITCHER_ALL_FENCED_TIMEOUT (R154): 2 ms after the read began to be held, it completes with poison. The page is not marked: a fill goes on being
held for its frame, and a promotion is given up. -/
def execStitcherAllFencedTimeout (id : Nat) (s : State) : Res :=
  match s.job id with
  | none => .next s
  | some j =>
    if j.stitcher.isSome || (s.stitcherFor j.img.seam).isSome then .next s
    else
      let s1 := s.until (j.t0 + 2 * ms)
      match j.use with
      | .txn => done (endJob id (answerJob id none s1))
      | .fill =>
        let sl := s1.home j.gpn
        let hits := ((s1.slice sl).txns.filter fun t => t.req.gpn == j.gpn && t.phase == .fill).map fun t => t.req.id
        done (forAll hits (updJob id (fun j => { j with t0 := s1.clk }) s1) fun t x => atomicRead sl x 0 true t)
      | .op =>
        match s1.opOf j.gpn with
        | some o => if o.kind = .promotion then done (abandonOp j.gpn s1) else .next s
        | none => done (endJob id s1)

/-- An image with its payload encrypted again, unchanged in length, under a new key, counter and parity (R209). -/
def reencryptImage (oldKey newKey : List Nat) (gpn wcnt : Nat) (epb : Bool) (img : List Nat) : List Nat :=
  let h := unpackHeader (imageHeader img)
  let pt := Crypto.gcmCrypt oldKey (imageIv gpn h.wcnt) ((img.drop 32).take h.len)
  let hb := (bytesOf ({ h with wcnt := wcnt, epb := epb }).pack 32).map BitVec.toNat
  let ct := Crypto.gcmCrypt newKey (imageIv gpn wcnt) pt
  hb ++ ct ++ Crypto.gcmTag newKey (imageIv gpn wcnt) hb ct

/-- The bytes of an image without the unused tail of its last stitch. -/
def imageBytes (b : List Nat) : List Nat := b.take (48 + (unpackHeader (imageHeader b)).len)

/-- What reading an image came to: its bytes with the page they spell and the stitch located, where one was, or which of the two failures it is. -/
inductive ImageRead where
  | page (bytes : List Nat) (lines : List Line) (poison : BitVec 64) (located : Option (Nat × Nat))
  | tag
  | lost
  deriving DecidableEq, Repr

/-- The image of a job whose stitches have arrived, verified (R22, R152, R195) or repaired (R204). -/
def State.readImage (s : State) (j : ReadJob) : ImageRead :=
  match s.jobStitches j with
  | none => .lost
  | some v =>
    let ok := fun (b : List Nat) => ((s.readKey j.gpn j.img.epb).bind fun k => decodeImage k j.gpn j.img.wcnt j.img.epb b).map fun r => (b, r)
    match ok (stitchBytes v) with
    | some (b, r) => .page b r.1 r.2 none
    | none =>
      match s.locate (imagePlaces j.img) v ok with
      | some (p, b, r) => .page b r.1 r.2 (some p)
      | none => .tag

/-- The first line of a fill's frame that its failure poisons. -/
def State.fillFirst (s : State) (p : Nat) : Nat :=
  match s.fillOf p with
  | some fl => ((List.range 64).find? fun l => !(s.desc fl.frame).valid.getLsbD l).getD 0
  | none => 0

/-- The result of a job given to what it was read for. -/
def giveImage (j : ReadJob) (res : Option (List Nat × List Line × BitVec 64)) (s : State) : State :=
  match j.use with
  | .txn => endJob j.id (answerJob j.id (res.map Prod.snd) s)
  | .fill =>
    updJob j.id (fun j => { j with result := some (match res with
      | some (_, ls, pm) => .lines ls pm
      | none => .failed) }) s
  | .op =>
    match s.opOf j.gpn, res with
    | none, _ => endJob j.id s
    | some _, none => abandonOp j.gpn (endJob j.id s)
    | some o, some (b, ls, pm) =>
      match o.kind with
      | .promotion | .mark => updJob j.id (fun j => { j with result := some (.lines ls pm) }) s
      | .reenc =>
        let e := s.epochAt ((s.slotOf j.gpn).getD 0)
        let old := (s.readKey j.gpn j.img.epb).getD []
        let new := (s.keyAt j.gpn e.epoch).getD []
        let c := s.nextCounter j.gpn (s.entry j.gpn)
        if 0xFFFFFF < c.1 then abandonOp j.gpn (endJob j.id s)
        else endJob j.id (updOp j.gpn (fun o =>
          { o with phase := .ready, image := reencryptImage old new j.gpn c.1 c.2 (imageBytes b), loc := { wcnt := c.1, epb := c.2 } }) s)
      | _ => endJob j.id (updOp j.gpn (fun o =>
          { o with phase := .ready, image := imageBytes b, loc := { wcnt := j.img.wcnt, epb := j.img.epb } }) s)

/-- STITCH_READ_DONE (R174, R353): every stitch asked for has arrived. Erasures that turned up make the job read the rest of their seams; then the image is
rebuilt, verified and, where its tag fails, repaired (R204, R205). A failure poisons the page (R22, R175). -/
def execStitchReadDone (id : Nat) (s0 : State) : Res :=
  match s0.job id with
  | none => .next s0
  | some j =>
    match j.stitcher with
    | none => .next s0
    | some n =>
      let s := if j.result.isNone then usePage j.gpn s0 else s0
      if j.result.isSome || j.needs.any (fun p => !(j.got.any fun g => g.1 == p.1 && g.2.1 == p.2)) then .next s
      else
        let more := s.jobShort j
        if !more.isEmpty then .next (updJob id (fun j => { j with needs := j.needs ++ more.filter fun p => !j.needs.contains p }) s)
        else
          let own := imagePlaces j.img
          let degr := ((own.filter fun p => (s.gotAt j p.1 (dataCh p.1 p.2)).isNone).map Prod.fst).eraseDups
          let s1 := s.count (Reg.CTM_STCH_DEGR_RD n) degr.length
          let first := match j.use with
            | .fill => s.fillFirst j.gpn
            | _ => 0
          match s.readImage j with
          | .page b ls pm none => done (giveImage j (some (b, ls, pm)) s1)
          | .page b ls pm (some q) =>
            let ch := dataCh q.1 q.2
            let s2 := (s1.count Reg.CRY_TAG_REPAIRED).reportAs ((s.dcc ch).corrupt.contains q.1) 0x03 n [2 * ch + s.slotOfSeam q.1, q.1, q.2, 0, j.gpn, 0, 1]
            let s3 := giveImage j (some (b, ls, pm)) s2
            done (if (s3.opOf j.gpn).any (fun o => o.kind = .relocation ∨ o.kind = .reenc) then s3 else askOp .relocation j.gpn (40 + n) s3)
          | .tag =>
            let ch := dataCh j.img.seam j.img.spos
            let inj := own.any fun p => (s.dcc (dataCh p.1 p.2)).corrupt.contains p.1
            let s2 := (s1.count Reg.CRY_TAG_POISONED).reportAs inj 0x04 n [2 * ch + s.slotOfSeam j.img.seam, j.img.seam, j.img.spos, 0, j.gpn, first, 1]
            done (poisonPage j.gpn (giveImage j none s2))
          | .lost =>
            let s2 := s1.report 0x05 n [0, j.img.seam, j.img.spos, 0, j.gpn, first, 1]
            done (poisonPage j.gpn (giveImage j none s2))

/-! ### Appending (R151, R155 to R157) -/

/-- The bytes of the image that an operation writes, with its WCNT and EPB, once they can be had (R104, R149, R171, R196, R209). -/
def State.opImage (s : State) (o : PageOp) : Option (List Nat × Image) :=
  let p := o.gpn
  let m := s.entry p
  let fresh := fun (lines : List Line) (pm : BitVec 64) =>
    let c := s.nextCounter p m
    if 0xFFFFFF < c.1 then none
    else (s.keyAt p (s.epochAt ((s.slotOf p).getD 0)).epoch).map fun k => (encodeImage k p c.1 c.2 lines pm, ({ wcnt := c.1, epb := c.2 } : Image))
  match o.kind, o.phase with
  | .writeback, .opened => let f := s.frameImage m.frame; fresh f.1 f.2
  | .poison, .ready => fresh (List.replicate 64 0) (BitVec.allOnes 64)
  | .mark, .ready => fresh (List.replicate 64 0) (s.marks p)
  | .mark, .reading id =>
    (match (s.job id).bind ReadJob.result with
     | some (.lines ls pm) => fresh ls (pm ||| s.marks p)
     | _ => none)
  | .relocation, .ready => some (o.image, o.loc)
  | .reenc, .ready => some (o.image, o.loc)
  | _, _ => none

/-- Whether another operation of the same stitcher and stream, of a more urgent class, has its image to place (R29). -/
def State.outranked (s : State) (o : PageOp) : Bool :=
  s.cold.ops.any fun q => q.stitcher == o.stitcher && (q.kind == .relocation) == (o.kind == .relocation) && decide (s.opRank q < s.opRank o) && (s.opImage q).isSome

/-- IMAGE_APPEND (R29, R151): the image of page `p`'s open operation placed by stitcher `st`, in stream W or, for a relocation, in stream G. It waits while
the CTM is not READY (R167), while every stitcher is fenced, while a more urgent one is to be placed, and while no segment can be had. -/
def execImageAppend (st : Fin 16) (p : Nat) (s : State) : Res :=
  match s.opOf p with
  | none => .next s
  | some o =>
    let who := match o.stitcher with
      | some n => if s.on (Reg.CTM_STCH_FENCED n) then s.leastQueued else some n
      | none => s.leastQueued
    if who ≠ some st.val ∨ !s.on Reg.CTM_STS_READY ∨ s.outranked o = true then .next s
    else match s.opImage o with
      | none => .next s
      | some (img, c) =>
        match placeImage (streamKey st (o.kind == .relocation)) p img (useDomain none (42 + st) (usePage p (useSlot p s))) with
        | none => .next s
        | some (loc, s1) =>
          let s2 := match o.phase with
            | .reading id => endJob id s1
            | _ => s1
          .next (updOp p (fun o => { o with phase := .placed, stitcher := some st.val, image := [], loc := { loc with wcnt := c.wcnt, epb := c.epb },
                                            poison := (unpackHeader (imageHeader img)).poison }) s2)

/-- SEAM_SEAL_TIMEOUT (R157): SEAL_US after the first stitch of the open seam was placed. -/
def execSeamSealTimeout (st : Fin 16) (stream : Stream) (s : State) : Res :=
  let key := streamKey st (stream == .G)
  let a := s.stream key
  if a.bufs.isEmpty then .next s
  else .next (sealStream key (s.until (a.firstAt + clamp 1 1000 (s.fld Reg.CTM_SEAL_CFG_SEAL_US) * 1000)))

/-! ### Commits (R163, R182) -/

/-- The run of poisoned pages of extent `g` of LD `k` that a record tells of, where it arose within 1 ms before `now`: its first page and its length. -/
def runOf (k g now : Nat) (e : Nat × Event) : Option (Nat × Nat) :=
  match e.2 with
  | .vendor 0x0114 [k', g', first, n] => if k' = k ∧ g' = g ∧ now ≤ e.1 + ms then some (first, n) else none
  | _ => none

/-- Page `p` added to the records of a log that it adjoins, which become one (R182); none where it adjoins none. -/
def mergeRun (k g p now : Nat) (l : List (Nat × Event)) : Option (List (Nat × Event)) :=
  let left := l.find? fun e => (runOf k g now e).any fun r => r.1 + r.2 == p
  let right := l.find? fun e => (runOf k g now e).any fun r => r.1 == p + 1
  let span := fun (e : Option (Nat × Event)) => e.bind (runOf k g now)
  match left, right with
  | none, none => none
  | some a, _ =>
    let n := ((span left).map Prod.snd).getD 0 + 1 + ((span right).map Prod.snd).getD 0
    let new := (a.1, Event.vendor 0x0114 [k, g, ((span left).map Prod.fst).getD 0, n])
    some ((l.filter fun e => some e != right).map fun e => if e = a then new else e)
  | none, some b =>
    let new := (b.1, Event.vendor 0x0114 [k, g, p, ((span right).map Prod.snd).getD 0 + 1])
    some (l.map fun e => if e = b then new else e)

/-- Page `p` of extent `g` of LD `k`, poisoned, recorded as a run of poisoned pages in the Failure logs and in the management fault log (R182, R356); runs that arise within 1 ms
merge. -/
def poisonRun (k g p : Nat) (s : State) : State :=
  let now := s.time
  let rec_ := Event.vendor 0x0114 [k, g, p, 1]
  let s1 := match mergeRun k g p now s.flt.log, mergeRun k g p now s.flt.queued with
    | some l, _ => s.onFlt fun f => { f with log := l }
    | none, some l => s.onFlt fun f => { f with queued := l }
    | none, none => keepRecord rec_ s
  forAll s1.allLds s1 fun t d => match mergeRun k g p now ((t.ld d).logs.getD 2 []) with
    | some l => t.updLd d fun x => { x with logs := x.logs.set 2 l }
    | none => t.log1 2 rec_ d

/-- The journal has no room for the record: commits wait (R165). -/
def stall (s : State) : State := s.setFld Reg.CTM_STS_JRNL_STALL 1

/-- The images of an abandoned operation are freed (R93, R163). -/
def abandonImage (p : Nat) (s : State) : State := (abandonOp p s).count Reg.CTM_ABANDON_CONDITION

/-- A promotion's commit (R129): only while the page is still in STATE 1. -/
def commitPromotion (p : Nat) (o : PageOp) (lines : List Line) (pm : BitVec 64) (s : State) : State :=
  let m := s.entry p
  match o.frame with
  | none => abandonOp p s
  | some f =>
    if m.state ≠ 1 then abandonOp p s
    else
      let d : FrameDesc := { kind := 1, gpn := p, valid := BitVec.allOnes 64, poison := pm ||| s.marks p, heat := m.heat, pin := m.pin }
      let s1 := updDesc f (fun _ => d) (abandonOp p s)
      let s2 := forAll (List.range 64) s1 fun t l => setLine f l (lines.getD l 0) t
      let s3 := s2.onHot fun h => { h with pinWait := h.pinWait.filter (· != p) }
      (putEntry p { m with state := 2, frame := f } s3).count Reg.HTM_PROMO_CNT_COUNT

/-- A page whose demotion waited for its write-back is released once it is clean (R131). -/
def servedDemotion (p : Nat) (s : State) : State :=
  if s.hot.hints.contains p then
    (let s1 := s.onHot fun h => { h with hints := h.hints.filter (· != p) }
     if s1.mayOpen p then grantRelease p s1 else queueOp .release p (59 + (s1.entry p).frame % 2) s1)
  else s

/-- The marks that the committed image of operation `o` holds are kept no longer; one that it does not hold asks for another image (R104). -/
def marksStored (p : Nat) (o : PageOp) (s : State) : State := askMark p (setMarks p (s.marks p &&& ~~~o.poison) s)

/-- The new image of a page marked poisoned, or of its marks: a zero page becomes cold with it, and a hot one has an image from now on. -/
def commitPoison (p : Nat) (o : PageOp) (s : State) : State :=
  let s1 := commitImage 1 p o.loc (fun m => if m.state = 0 then { m with state := 1 } else m) s
  if 2 ≤ (s1.entry p).state then updBoth (s1.entry p).frame (fun d => { d with noimg := false }) s1 else s1

/-- The commit of an image that has been stored (R163, steps 3 to 6; Table 3.4). -/
def commitOp (p : Nat) (o : PageOp) (s : State) : State :=
  let m := s.entry p
  let snap := unpackEntry o.snap
  let same := m.seam = snap.seam ∧ m.spos = snap.spos
  let k := (s.slotOf p).getD 0
  match o.kind with
  | .writeback =>
    let clean := !o.written && (s.desc m.frame).dirty == 0
    let s1 := commitImage 1 p o.loc (fun m => if clean then { m with state := 2 } else m) s
    servedDemotion p (marksStored p o (checkCounter k o.loc.wcnt (closeOp p (finishWriteback p o.written s1))))
  | .relocation =>
    if same then (closeOp p (commitImage 2 p { o.loc with wcnt := m.wcnt, epb := m.epb } id s)).count Reg.CTM_RELOC_CNT_COUNT else abandonImage p s
  | .reenc => if same then checkCounter k o.loc.wcnt (closeOp p (commitImage 3 p o.loc id s)) else abandonImage p s
  | .poison => marksStored p o (checkCounter k o.loc.wcnt (closeOp p (commitPoison p o s)))
  | .mark => if m.state < 2 then marksStored p o (checkCounter k o.loc.wcnt (closeOp p (commitPoison p o s))) else abandonImage p s
  | _ => s

/-- A discard or a distress poison committed (R163, R182). -/
def commitDrop (p : Nat) (o : PageOp) (s : State) : State :=
  match o.kind with
  | .discard => closeOp p (discardCommit p s)
  | .distress =>
    let s1 := commitFree 5 p (fun m => { m with state := 1 }) (setMarks p 0 (dropFrames p s))
    forAll (s.pageOwners p) (closeOp p s1) fun t q => poisonRun q.1 (q.2 / gib) p t
  | _ => s

/-- PAGE_OP_COMMIT (R163): once every seam write of the image has been accepted. A commit waits while the journal is full (R165). -/
def execPageOpCommit (p : Nat) (s : State) : Res :=
  match s.opOf p with
  | none => .next s
  | some o =>
    match o.kind, o.phase with
    | .promotion, .reading id =>
      (match (s.job id).bind ReadJob.result with
       | some (.lines ls pm) => done (commitPromotion p o ls pm s)
       | _ => .next s)
    | .release, _ => done (grantRelease p (closeOp p s))
    | .move, _ => done (commitMove p o s)
    | k, ph =>
      if k = .discard ∨ k = .distress then
        (if s.journalFull then .next (stall s) else done ((commitDrop p o s).setFld Reg.CTM_STS_JRNL_STALL 0))
      else if ph ≠ .placed ∨ !s.imageStored o.loc then .next s
      else if s.journalFull then .next (stall s)
      else done (((commitOp p o s).setFld Reg.CTM_STS_JRNL_STALL 0).unexpose fun e => e.src == 0x03 && e.inst == p)

/-! ### The journal and the ledger (R164, R165, R167, R199 to R203) -/

/-- JOURNAL_SEAM_DRAIN (R164): 112 records, or those that wait 1 ms after the oldest, padded with records of TYPE 0, written encrypted to the next
journal seam (R199). A seam that holds a live record is not written over: the drain waits for the tail to pass it (R165). -/
def execJournalSeamDrain (s : State) : Res :=
  let wait := s.journalWaiting
  match wait, s.vault.ledgerKey with
  | e :: _, some _ =>
    if s.journalSeams ≤ s.journalHead - s.journalTail then .next s
    else
    let s1 := if 112 ≤ wait.length then s else s.until (e.1 + ms)
    let recs := (wait.take 112).map Prod.snd
    let all := recs ++ List.replicate (112 - recs.length) (journalRecord 0 0 0 {} {})
    let pt := all.flatMap fun r => (bytesOf r 32).map BitVec.toNat
    let j := s.cold.jseam
    let iv := ledgerIv 0x4A j s.vault.jpass
    let ct := Crypto.gcmCrypt s.ledgerKeyBytes iv pt
    let tag := natOfBytes (Crypto.gcmTag s.ledgerKeyBytes iv [] ct)
    let d := toStitches ct 14
    let s2 := refreshSubstitutes (s.journalBase + j) d (writeSeamDirect (s.journalBase + j) d (useItem .ledger s1))
    let wrap := decide (s.journalSeams ≤ j + 1)
    let s3 := s2.onCold fun c =>
      { c with drained := recs.foldl (fun a r => Nat.max a (recSeq r)) c.drained, jtags := SMap.put 0 c.jtags j tag, jseam := if wrap then 0 else j + 1
               jpos := recs.foldl (fun m r => SMap.put 0 m (recSeq r) (s.journalHead + 1)) c.jpos }
    .next (trimJournal (if wrap then s3.onVault fun v => { v with jpass := v.jpass + 1 } else s3))
  | _, _ => .next s

/-- The map-area group that a ledger group write goes to, with its page where the write is to make room in the journal: above 75 % the group of the oldest live record (R165). -/
def State.groupTarget (s : State) (g : Nat) : Nat × Option Nat :=
  if s.journalPressed && s.cold.groups.isEmpty then
    match s.oldestPage with
    | some p => (s.groupOf p, some p)
    | none => (g, none)
  else (g, none)

/-- LEDGER_GROUP_WRITE (R165, R201): the write of map-area group `g` begun, where it is not under way, and carried on by `n` steps; while the live records fill more than 75 % of
the journal, groups are written oldest record first. -/
def execLedgerGroupWrite (g : Nat) (s : State) (n : Nat := 5) : Res :=
  let x := s.groupTarget g
  done (groupSteps x.1 n (match x.2 with
    | some p => touchBlock (p / 256) s
    | none => s))

/-! ### Capacity distress (R178 to R182, R521) -/

/-- The GiBs of borrowed tack that one step moves: D × 14/16, in stitches. -/
def State.stepStitches (s : State) : Int := (s.blockSegs * 57344 : Nat)

/-- The distress stage becomes `n`, with its event. -/
def setStage (n : Nat) (s : State) : State :=
  let s1 := (s.setFld Reg.CTM_DIST_STS_STAGE n).vendor 1 0x0110 [n]
  if n = 0 then s1.setFld Reg.CTM_DIST_STS_ELAPSED_S 0 else s1

/-- Accepted extents, newest first. -/
def State.newestExtents (s : State) : List (Nat × Nat × Extent) :=
  let es := s.extentSlots.filter fun e => e.2.2.accepted
  es.foldl (fun l e => (l.filter fun x => decide (e.2.2.seq < x.2.2.seq)) ++ [e] ++ l.filter fun x => decide (x.2.2.seq ≤ e.2.2.seq)) []

/-- The stitches that map slot `k` is charged (R178): its images, and 17 for each dirty page with none. -/
def State.slotCharge (s : State) (k : Nat) : Nat :=
  (SMap.get (0, 0) s.cold.used k).2 + 17 * (s.hot.desc.filter fun e => e.2.unstored && s.slotOf e.2.gpn == some k).length

/-- The first extents of `l` whose charges cover `need`; a slot that several LDs share counts once. `seen`: the slots counted. -/
def State.coverNeed (s : State) (seen : List Nat) : List (Nat × Nat × Extent) → Int → List (Nat × Nat × Extent)
  | [], _ => []
  | e :: l, need =>
    let k := s.slotOfGib e.1 e.2.1
    if need ≤ 0 then [] else e :: s.coverNeed (k :: seen) l (need - (if seen.contains k then 0 else s.slotCharge k : Nat))

/-- Stage 1 of Table 5.9 where F is below WM_DISTRESS and elastic pages exist: Release Capacity events for the newest extents, and the deadline timer. -/
def enterDistress (s : State) : State :=
  let wm : Int := (s.wmDistress * gibStitches : Nat)
  let f := s.freeStitches
  if s.fld Reg.CTM_DIST_STS_STAGE ≠ 0 ∨ wm ≤ f ∨ s.newestExtents.isEmpty then s
  else
    let named := s.coverNeed [] s.newestExtents (2 * (wm - f))
    let s1 := forAll named (setStage 1 s) fun t e => t.log1 0 (.capacity capRelease e.1 e.2.1) e.1
    s1.onCold fun c => { c with distressT0 := s.clk, lastFreeze := 0 }

/-- DISTRESS_STAGE_ENTRY (R180): the stage that F asks for now. -/
def execDistressStageEntry (s : State) : Res :=
  let f := s.freeStitches
  let st := s.fld Reg.CTM_DIST_STS_STAGE
  if !s.on Reg.CTM_STS_READY then .next s
  else if st = 0 then .next (enterDistress s)
  else if (2 * s.wmDistress * gibStitches : Nat) ≤ f then .next (setStage 0 s)
  else if st ≠ 3 ∧ f < 0 ∧ s.tackLeft = 0 then .next (setStage 3 s)
  else if st = 1 ∧ f < 0 then .next (setStage 2 s)
  else .next s

/-- The highest-numbered block that is neither assigned nor borrowed (R242). -/
def State.borrowable (s : State) : Option Nat :=
  (List.range (s.fld Reg.CTM_TACK_DIMMS)).reverse.find? fun b => !s.on (Reg.DCM_BLK_VALID b) && !s.on (Reg.DCM_BLK_BORROWED b)

/-- TACK_BORROW (R181). -/
def execTackBorrow (s : State) : Res :=
  match s.borrowable with
  | none => .next s
  | some b =>
    if s.fld Reg.CTM_DIST_STS_STAGE ≠ 2 ∨ 0 ≤ s.freeStitches then .next s
    else
      let s1 := (s.setFld (Reg.DCM_BLK_BORROWED b) 1).setFld Reg.CTM_TACK_BORROWED (s.fld Reg.CTM_TACK_BORROWED + 1)
      .next (s1.vendor 1 0x0111 [s1.tackLeft])

/-- DISTRESS_DEADLINE (R180): DEADLINE_S after stage 1 began. -/
def execDistressDeadline (s : State) : Res :=
  let st := s.fld Reg.CTM_DIST_STS_STAGE
  if st ≠ 1 ∧ st ≠ 2 then .next s
  else
    let s1 := s.until (s.cold.distressT0 + zeroAsOne (s.fld Reg.CTM_DIST_CFG_DEADLINE_S) * sec)
    .next (if s1.freeStitches < (s1.wmDistress * gibStitches : Nat) then setStage 3 s1 else s1)

/-- EXTENT_FREEZE (R182): the newest accepted extent, and another 1 s after each, while F stays below WM_DISTRESS; a sharable extent is frozen for every
LD that holds it, and the writes to its pages that the pens still hold are dropped. -/
def execExtentFreeze (s : State) : Res :=
  if s.fld Reg.CTM_DIST_STS_STAGE ≠ 3 ∨ (s.wmDistress * gibStitches : Nat) ≤ s.freeStitches then .next s
  else match s.newestExtents.find? fun e => !e.2.2.frozen with
    | none => .next s
    | some (k, g, e) =>
      let s1 := if s.cold.lastFreeze = 0 then s else s.until (s.cold.lastFreeze + sec)
      let hit := s1.extentSlots.filter fun x => x.2.2.accepted && ((x.1 == k && x.2.1 == g) || (e.share.isSome && x.2.2.share == e.share))
      let s2 := forAll hit s1 fun t x =>
        (t.updLd x.1 fun d => { d with extents := d.extents.map fun y => if y.gib = x.2.1 then { y with frozen := true } else y }).vendor 2 0x0113 [x.1, x.2.1]
      let s3 := (s2.onCold fun c => { c with lastFreeze := s1.clk }).setFld Reg.CTM_DIST_STS_FROZEN (s.fld Reg.CTM_DIST_STS_FROZEN + hit.length)
      done (forAll (List.range 16) (dropFrozenPens s3) finishReleases)

/-- RATIO_RECOMPUTE (R178): at each full second. -/
def execRatioRecompute (s : State) : Res :=
  let s1 := s.until ((s.clk / sec + 1) * sec)
  .next (s1.setFld Reg.CTM_RATIO_RHO (Nat.min 65535 s1.measured))

/-! ### Garbage collection (R168 to R173) -/

/-- Segment `g` collected (R171): a relocation opens for each of its live images, with the stitcher's G master port. -/
def collect (g : Nat) (s : State) : State :=
  let pages := ((s.writtenSeams g).flatMap s.liveIn).eraseDups
  let s1 := (setSeg g .victim s).onCold fun c => { c with victims := if c.victims.contains g then c.victims else c.victims ++ [g] }
  forAll pages s1 fun t p => askOp .relocation p (40 + ((t.stitcherFor (t.entry p).seam).getD 0)) t

/-- Whether some image that is not committed lies in segment `g`. -/
def State.uncommitted (s : State) (g : Nat) : Bool := s.cold.ops.any fun o => o.phase == .placed && segOf o.loc.seam == g

/-- The victim of R170: the sealed segment with the lowest live count, the oldest last write among equals. -/
def State.pickVictim (s : State) : Option Nat :=
  let es := s.cold.segs.filter fun e => e.2.st == .sealed && !s.uncommitted e.1
  (es.foldl (fun (a : Option (Nat × Segment)) e => match a with
    | none => some e
    | some b => if e.2.live < b.2.live ∨ (e.2.live = b.2.live ∧ e.2.lastWrite < b.2.lastWrite) then some e else some b) none).map Prod.fst

/-- CTM_GC_CFG.LOW, HIGH and CRIT as they act, in segments. -/
def State.gcHigh (s : State) : Nat := s.fld Reg.CTM_GC_CFG_HIGH * 256
def State.gcLow (s : State) : Nat := Nat.min (s.fld Reg.CTM_GC_CFG_LOW) (s.fld Reg.CTM_GC_CFG_HIGH - 1) * 256
def State.gcCrit (s : State) : Nat := zeroAsOne (s.fld Reg.CTM_GC_CFG_CRIT) * 256

/-- GC_START (R170): below LOW in hardware mode, and on until the count exceeds HIGH, the next victim is collected. -/
def execGcStart (s : State) : Res :=
  let run := s.on Reg.CTM_STS_GC_ACTIVE
  if s.on Reg.CTM_GC_CFG_MODE_ACT || s.switching 1 || !s.on Reg.CTM_STS_READY || !(decide (s.freeSegs < s.gcLow) || (run && decide (s.freeSegs ≤ s.gcHigh))) then .next s
  else match s.pickVictim with
    | none => .next s
    | some g => done (collect g (s.setFld Reg.CTM_STS_GC_ACTIVE 1))

/-- GC_HOST_FALLBACK (R173): below CRIT in host-assisted mode, until the count exceeds twice CRIT; an event when it begins. -/
def execGcHostFallback (s : State) : Res :=
  let run := s.on Reg.CTM_STS_GC_ACTIVE
  if !s.on Reg.CTM_GC_CFG_MODE_ACT || s.switching 1 || !s.on Reg.CTM_STS_READY || !(decide (s.freeSegs < s.gcCrit) || (run && decide (s.freeSegs ≤ 2 * s.gcCrit))) then .next s
  else match s.pickVictim with
    | none => .next s
    | some g =>
      let s1 := if run then s else s.vendor 1 0x0131 []
      done (collect g (s1.setFld Reg.CTM_STS_GC_ACTIVE 1))

/-- Garbage collection stops once its stop point is passed (R170, R173). -/
def gcStop (s : State) : State :=
  let stop := if s.on Reg.CTM_GC_CFG_MODE_ACT then 2 * s.gcCrit else s.gcHigh
  if stop < s.freeSegs then s.setFld Reg.CTM_STS_GC_ACTIVE 0 else s

/-- The next victim that a host named is collected when none is in progress (R173). -/
def nextHostVictim (s : State) : State :=
  if !s.on Reg.CTM_GC_CFG_MODE_ACT || s.switching 1 || !s.on Reg.CTM_STS_READY || !s.cold.victims.isEmpty then s
  else match s.cold.hostVictims.find? fun g => s.segState g == .sealed && !s.uncommitted g with
    | none => s
    | some g => collect g (s.onCold fun c => { c with hostVictims := c.hostVictims.filter (· != g) })

/-- SEGMENT_FREE (R94, R172): no live stitch is left in the segment, no read of it is outstanding, no request accepted while an image lay in it is open, and no write
to it waits. -/
def execSegmentFree (g : Nat) (s : State) : Res :=
  let x := s.segment g
  let looked := s.slices.any fun e => e.2.txns.any fun t => let i := (unpackEntry t.snap).image; i.scnt != 0 && segOf i.seam == g
  let read := looked || s.cold.jobs.any fun j => segOf j.img.seam == g || j.needs.any fun p => segOf p.1 == g
  let write := s.cold.writes.any (fun w => segOf w.seam == g) || s.uncommitted g
  if (x.st ≠ .sealed ∧ x.st ≠ .victim) ∨ x.live ≠ 0 ∨ read ∨ write then .next s
  else .next (nextHostVictim (gcStop (freeSegment g s)))

/-- TACK_RETURN (R181, R242): the block borrowed last, the lowest-numbered, goes back once it holds no image; until then its sealed segments are
collected (log entry 22). -/
def execTackReturn (s : State) : Res :=
  match (List.range 4).find? fun b => s.on (Reg.DCM_BLK_BORROWED b) with
  | none => .next s
  | some b =>
    if s.freeStitches ≤ (s.wmDistress * gibStitches : Nat) + s.stepStitches then .next s
    else
      let mine := s.cold.segs.filter fun e => decide (s.blockFirst b ≤ e.1) && decide (e.1 < s.blockFirst b + s.blockSegs) && e.2.st != .free
      if mine.isEmpty then
        let s1 := (s.setFld (Reg.DCM_BLK_BORROWED b) 0).setFld Reg.CTM_TACK_BORROWED (s.fld Reg.CTM_TACK_BORROWED - 1)
        .next (s1.vendor 1 0x0112 [s1.tackLeft])
      else done (forAll (mine.filter fun e => e.2.st == .sealed && !s.uncommitted e.1) s fun t e => collect e.1 t)

/-! ### Recovery (R167, R202, R203, R521) -/

/-- The wrong bits that the DIMMs are found to hold in the journal area, stored. -/
def wrongJournal (errs : List (Nat × Fin 16 × BitVec 2048)) (s : State) : State :=
  forAll errs s fun t e => t.onCold fun c => { c with stitches := SMap.upd 0 c.stitches (16 * (t.journalBase + e.1) + e.2.1) fun v => v ^^^ e.2.2 }

/-- Journal seam number `a`, counted since the last Level 5 reset, as stored (R199, R204). -/
def State.readJournal (s : State) (a : Nat) : LedgerRead :=
  let j := a % s.journalSeams
  let places := (List.range 14).map fun d => (s.journalBase + j, d)
  let iv := ledgerIv 0x4A j (a / s.journalSeams)
  let ok := fun (ct : List Nat) => if natOfBytes (Crypto.gcmTag s.ledgerKeyBytes iv [] ct) = SMap.get 0 s.cold.jtags j then some ct else none
  match allSome (places.map fun p => s.dataStitch p.1 p.2) with
  | none => .bad
  | some vals =>
    match ok (stitchBytes vals), s.locate places vals ok with
    | some b, _ => .good b
    | none, some (p, b) => .repaired b p
    | none, none => .bad

/-- A journal seam of the recovery (R203 to R205): one repaired is counted and reported; one that fails is counted, and no record can be trusted. With whether all verified. -/
def checkJournal (l : List Nat) (s : State) : Bool × State :=
  l.foldl (fun r a => match r.2.readJournal a with
    | .good _ => r
    | .repaired _ p => (r.1, (r.2.count Reg.CRY_LAUTH_REPAIRED).report 0x03 0 [2 * dataCh p.1 p.2 + r.2.slotOfSeam p.1, p.1, p.2, 0])
    | .bad => (false, (r.2.count Reg.CRY_LAUTH_UNREPAIRED).report 0x0F 0 [a % r.2.journalSeams])) (true, s)

/-- The pages that the ledger and the map cache know of: those of the blocks with a CNT, of the blocks cached, and of the live records. -/
def State.knownBlocks (s : State) : List Nat :=
  let cached := (s.hot.tags.filter fun e => e.2.valid).map fun e => e.2.block
  let stored := (s.vault.rootCnt.flatMap fun r => ((List.range 128).map fun i => 128 * r.1 + i).filter fun k =>
    (rootEntry (s.rootBytes r.1) k).1 != 0).filterMap s.blockOfMap
  let live := (s.liveRecords.filter fun r => decide (recType r ≤ 5)).map fun r => recPage r / 256
  (cached ++ stored ++ live).eraseDups

/-- The live stitches of every segment, from the map area and the journal (R167). -/
def State.liveCounts (s : State) : SMap Nat :=
  s.knownBlocks.foldl (fun m b => (List.range 256).foldl (fun m i =>
    let e := s.entry (256 * b + i)
    if e.scnt = 0 then m else SMap.upd 0 m (segOf e.seam) fun n => n + e.scnt) m) []

/-- The segment table rebuilt (R167, R168): a segment with a live image is sealed, every other one free; the times of the last writes are found nowhere, and are free values (log entry
111). -/
def rebuildSegments (s : State) : State :=
  let live := s.liveCounts
  let s1 := forAll (s.cold.segs.map Prod.fst) s fun t g => if SMap.get 0 live g = 0 then freeSegment g t else t
  forAll (s1.cold.segs.map Prod.fst ++ live.map Prod.fst).eraseDups s1 fun t g =>
    let at_ := (t.freeVal 32).toNat
    t.spent.onCold fun c => { c with segs := SMap.upd {} c.segs g fun _ =>
      { live := SMap.get 0 live g, st := if SMap.get 0 live g = 0 then .free else .sealed, lastWrite := at_ } }

/-- The CTM is READY again: group writes cut short are repeated, the segment table is rebuilt, and the distress stage is taken up from stage 0 (R202, R521). -/
def recoveryEnds (s : State) : State :=
  let s1 := ((s.setFld Reg.CTM_STS_RECOVERING 0).setFld Reg.CTM_STS_READY 1)
  let s2 := rebuildSegments (repeatUpdates s1)
  let s3 := enterDistress (((restoreBorrowed s2).setFld Reg.CTM_DIST_STS_STAGE 0).setFld Reg.CTM_DIST_STS_ELAPSED_S 0)
  let s4 := forAll s3.cold.discarding s3 fun t d => discardWalk d.2.2 t
  forAll (s4.hot.marks.map Prod.fst) s4 fun t p => askMark p t

/-- LEDGER_RECOVERY_DONE (R167, R202, R203, R521): the journal's seams are read and verified, the live records are in force again and CTM_STS.READY is set, with the distress stage
taken up from stage 0 and, at the end of a start-up, Memory_Active set (Table 15.7); a journal seam that does not verify sets LEDGER_FATAL. -/
def execLedgerRecoveryDone (errs : List (Nat × Fin 16 × BitVec 2048)) (s : State) : Res :=
  if !s.on Reg.CTM_STS_RECOVERING then .next s
  else
    let s0 := useItem .ledger (wrongJournal errs s)
    let tail := s0.journalTail
    let r := checkJournal ((List.range (s0.journalHead - tail)).map (tail + ·)) s0
    if !r.1 then done ((r.2.setFld Reg.CRY_STS_LEDGER_FATAL 1).setFld Reg.CTM_STS_RECOVERING 0)
    else
      let s1 := recoveryEnds r.2
      done (if s1.fld Reg.RST_STS_LEVEL = 4 then clearPins (if s1.fld Reg.SUP_STS_BAND ≠ 2 then activateMemory s1 else s1) else s1)

end Sys2Proof.Machine
end

