-- ==== Sys2Proof/Machine/AdmOps.lean ====
section
/-! DEFINITION. The admission model of the contracts: capacities, reservations, charges, the load check, the delay terms and the limits of a refusal
(R270 to R276), demotion and restoration (R281, R282). Rates of the model are in thousandths of a byte per second, delays are exact fractions of a
nanosecond. -/
namespace Sys2Proof.Machine

open Sys2Proof

/-! ### Capacity inputs (Table 8.10) -/

/-- Whether slot `z` of channel `ch` belongs to the population and has a fenced DIMM or a retired rank whose range no tack block covers yet (R270). -/
def State.slotUncovered (s : State) (ch z : Nat) : Bool :=
  (z == 0 || s.twoDpc) && (s.slotFailed ch z || s.fld (Reg.DCC_SLOT_RET ch z) != 0) &&
    !((s.blockOf ch z).any fun b => s.fld (Reg.DCM_BLK_OP b) == 3)

/-- The channels affected under R270 (QOS_CAP.FAILED_CH). -/
def State.affectedCh (s : State) : List Nat :=
  (List.range 16).filter fun c => s.on (Reg.DCC_STS_FENCED c) || s.slotUncovered c 0 || s.slotUncovered c 1

/-- The channels throttled (R222). -/
def State.throttledCh (s : State) : List Nat := (List.range 16).filter fun c => s.on (Reg.DCC_STS_THROTTLE c)

/-- The slices that serve two entries of the remap table (R109). -/
def State.pairedSlices (s : State) : List Nat :=
  (List.range 34).filter fun n => decide (2 ≤ ((List.range 32).filter fun e => s.serving e == n).length)

/-- The stitchers fenced. -/
def State.stitchersOut (s : State) : List Nat := (List.range 16).filter fun n => s.isFenced (.stitcher n)

/-- The factor by which head `h`'s rate and width scale its bandwidth (R69), as a fraction. A link that is down has neither and counts in full. -/
def State.headScale (s : State) (h : Nat) : Nat × Nat :=
  if s.linkUp h then
    let nominal := match s.fld (Reg.HPA_CFG_SPLIT h) with
      | 0 => 16
      | 1 => 8
      | _ => 4
    (2 ^ s.fld (Reg.HPA_LINK_STS_RATE h) * s.fld (Reg.HPA_LINK_STS_WIDTH h), 16 * nominal)
  else (1, 1)

/-- The heads below full rate or width. -/
def State.headsReduced (s : State) : List Nat :=
  (List.range 4).filter fun h => s.present h && decide ((s.headScale h).1 < (s.headScale h).2)

/-! ### Capacities and reservations (Tables 8.5, 8.7) -/

/-- A figure of head `h` in the 1×16 split, divided by the heads of the split (Table 2.7) and scaled (R69). -/
def State.headFigure (s : State) (h full : Nat) : Nat :=
  let heads := match s.fld (Reg.HPA_CFG_SPLIT h) with
    | 0 => 1
    | 1 => 2
    | _ => 4
  full * gbs / heads * (s.headScale h).1 / (s.headScale h).2

/-- What the CDAT of an LD reports (Table 2.4): latencies in ns, bandwidths in MB/s. -/
structure Cdat where
  readNs : Nat
  writeNs : Nat
  read : Nat
  write : Nat
  deriving DecidableEq, Repr

/-- The CDAT of LD `k` on head `h` (R46, R69): the head's figures of Table 2.8 at its rate and width, divided by the LDs that it presents. -/
def State.cdat (s : State) (h : Nat) : Cdat :=
  let n := Nat.max 1 (s.ldsOf h).length
  { readNs := 900, writeNs := 230, read := s.headFigure h 238 / n / mbs, write := s.headFigure h 460 / 3 / n / mbs }

/-- The data rate of a channel in MT/s (DCC_POP.RATE). -/
def State.channelMts (s : State) : Nat :=
  match s.fld (Reg.DCC_POP_RATE 0) with
  | 1 => 4800
  | 2 => 5600
  | 3 => 6400
  | 4 => 8000
  | 5 => 8800
  | _ => 0

/-- Cr of resource `r` by its code (Table 8.5), for head `h` where `r` is a head's. -/
def State.capacity (s : State) (r h : Nat) : Nat :=
  match r with
  | 1 => s.headFigure h 238
  | 2 => s.headFigure h 222
  | 3 => (if s.pairedSlices.isEmpty then 128 else 64) * gbs
  | 4 => ((List.range 2).map fun st =>
      if s.on (Reg.HTC_STS_FENCED st) then 0 else if s.on (Reg.HTC_PHY_STS_THROTTLE st) then 512 * gbs else 1024 * gbs).foldl (· + ·) 0
  | 5 => 32 * (16 - s.stitchersOut.length) * gbs
  | 6 => 20 * (16 - s.stitchersOut.length) * gbs
  | 7 =>
    let out := s.affectedCh
    let f := Nat.max 1 out.length
    let thr := (s.throttledCh.filter fun c => !out.contains c).length
    (2 * (16 - f) - thr) * (s.channelMts * 3 * mbs)
  | _ => 0

/-- The blocking term br in ns (Table 8.5). -/
def blocking : Nat → Nat
  | 1 => 8
  | 2 => 8
  | 3 => 1
  | 4 => 20
  | 5 => 128
  | 7 => 250
  | _ => 0

/-- Br of resource `r` (Table 8.7). -/
def State.reserved (s : State) (r : Nat) : Nat :=
  match r with
  | 4 => s.reencRate
  | 5 => s.reencRate
  | 6 => s.reencRate
  | 7 => s.rebuildRate + s.reencRate * 20899 / 1000 + s.patrolRate + 2 * gbs
  | _ => 0

/-! ### Charges and the load check (Table 8.6a, R273) -/

/-- The head of cinch `c`. -/
def State.cinchHead (s : State) (c : Cinch) : Nat := (s.headOf c.ld).getD 0

/-- ρ of cinch `c` on resource `r` (Table 8.6a): kR is 1.875 and kW 19.024 (R271, log entry 40). -/
def Cinch.charge (c : Cinch) (r : Nat) : Nat :=
  let rd := c.readMbs * mbs
  let wr := c.writeMbs * mbs
  match r with
  | 1 => rd
  | 2 => wr
  | 3 => rd + wr
  | 4 => (if c.pin then rd else 2 * rd) + 3 * wr
  | 5 => if c.pin then 0 else rd
  | 6 => wr
  | 7 => (if c.pin then 0 else rd * 1875 / 1000) + wr * 19024 / 1000
  | _ => 0

/-- The charges on resource `r`, of head `h` where it is a head's, of the cinches that `p` names. -/
def State.sumCharge (s : State) (l : List Cinch) (r h : Nat) (p : Cinch → Bool) : Nat :=
  ((l.filter fun c => p c && (decide (3 ≤ r) || s.cinchHead c == h)).map fun c => c.charge r).foldl (· + ·) 0

/-- The resources with their heads. -/
def State.resources (s : State) : List (Nat × Nat) :=
  ((List.range 4).filter s.present).flatMap (fun h => [(1, h), (2, h)]) ++ [(3, 0), (4, 0), (5, 0), (6, 0), (7, 0)]

/-- QOS_ADM_CFG.UTIL as it acts. -/
def State.util (s : State) : Nat := clamp 50 90 (s.fld Reg.QOS_ADM_CFG_UTIL)

/-- R273 for the cinches `l` on one resource. -/
def State.fitsOn (s : State) (l : List Cinch) (x : Nat × Nat) : Bool :=
  decide (100 * (s.reserved x.1 + s.sumCharge l x.1 x.2 fun _ => true) ≤ s.util * s.capacity x.1 x.2)

/-- R273. -/
def State.fits (s : State) (l : List Cinch) : Bool := s.resources.all (s.fitsOn l)

/-! ### The delay terms (R274) -/

/-- The sum of two fractions. -/
def addFrac (a b : Nat × Nat) : Nat × Nat := (a.1 * b.2 + b.1 * a.2, a.2 * b.2)

/-- A fraction rounded up. -/
def ceilFrac (a : Nat × Nat) : Nat := ceilDiv a.1 a.2

/-- The denominator of dr for class `k`: Cr − Br − Σ over lower ranks; 0 where nothing is left. -/
def State.share (s : State) (l : List Cinch) (k r h : Nat) : Nat :=
  s.capacity r h - s.reserved r - s.sumCharge l r h fun c => decide (c.cls < k)

/-- dr of class `k` on resource `r` among the cinches `l`; none where no bound holds. -/
def State.delay (s : State) (l : List Cinch) (k r h : Nat) : Option (Nat × Nat) :=
  let d := s.share l k r h
  if d = 0 then none else some (blocking r * d + s.burstNs * s.sumCharge l r h (fun c => decide (c.cls ≤ k)), d)

/-- The half nanoseconds of the streets from crossing `c` to endpoint `e` under the tables in force (Table 9.4). -/
def State.walk (s : State) (e : Nat) : Nat → Nat → Nat
  | 0, _ => 0
  | n + 1, c =>
    let d := s.routeAt s.noc.epoch false c e
    if 4 ≤ d then 0
    else match neighbour c d with
      | some c' => (if d % 2 = 1 then 1 else 3) + s.walk e n c'
      | none => 0

/-- The same under the default tables. -/
def defaultWalk (c e : Nat) : Nat :=
  let t := epCrossing e
  ((c % 8 : Nat) - (t % 8 : Nat) : Int).natAbs + 3 * ((c / 8 : Nat) - (t / 8 : Nat) : Int).natAbs

/-- What the detour tables add to the fixed terms of head `h`, in ns rounded up (R304): the largest difference of a request to a slice in use and the
largest of an answer from one. -/
def State.detourNs (s : State) (h : Nat) : Nat :=
  if !s.on Reg.NOC_STS_DETOUR then 0
  else
    let ports := headEps.filter fun e => s.epOwner e == .head h
    let slices := (List.range 32).map fun e => sliceEp (s.serving e)
    let extra := fun (c e : Nat) => s.walk e 48 c - defaultWalk c e
    let there := (slices.map fun e => (ports.map fun p => extra (epCrossing p) e).foldl Nat.min 1000).foldl Nat.max 0
    let back := (slices.map fun e => (ports.map fun p => extra (epCrossing e) p).foldl Nat.max 0).foldl Nat.max 0
    ceilDiv (there + back) 2

/-- The read and the write path of R274: fixed term and resources. -/
def readPath (pin : Bool) : Nat × List Nat := if pin then (230, [1, 3, 4]) else (960, [1, 3, 4, 5, 7])
def writePath : Nat × List Nat := (230, [2, 3, 4])

/-- The floor of R274. -/
def floorNs (pin : Bool) : Nat := if pin then 400 else 2000

/-- The latency of a path for cinch `c` among `l`; none where no bound holds. -/
def State.pathNs (s : State) (l : List Cinch) (c : Cinch) (p : Nat × List Nat) : Option (Nat × Nat) :=
  let h := s.cinchHead c
  p.2.foldl (fun a r => match a, s.delay l c.cls r h with
    | some x, some y => some (addFrac x y)
    | _, _ => none) (some (p.1 + s.detourNs h, 1))

/-- The resource of path `p` with the largest dr; one without a share comes before all. -/
def State.worst (s : State) (l : List Cinch) (c : Cinch) (p : Nat × List Nat) : Nat :=
  let h := s.cinchHead c
  let later := fun (a b : Option (Nat × Nat)) => match a, b with
    | none, _ => false
    | some _, none => true
    | some x, some y => decide (x.1 * y.2 < y.1 * x.2)
  p.2.foldl (fun a r => if later (s.delay l c.cls a h) (s.delay l c.cls r h) then r else a) (p.2.headD 0)

/-- The smallest bound that passes R274 for `c` among `l`. -/
def State.needed (s : State) (l : List Cinch) (c : Cinch) : Option Nat :=
  match s.pathNs l c (readPath c.pin), s.pathNs l c writePath with
  | some r, some w => some (Nat.max (floorNs c.pin) (Nat.max (ceilFrac r) (ceilFrac w)))
  | _, _ => none

/-- R274 for `c` among `l`. -/
def State.holds (s : State) (l : List Cinch) (c : Cinch) : Bool := (s.needed l c).any fun n => decide (n ≤ c.bound)

/-- The resource that limits `c` under R274: the largest dr of the slower path. -/
def State.limiting (s : State) (l : List Cinch) (c : Cinch) : Nat :=
  match s.pathNs l c (readPath c.pin), s.pathNs l c writePath with
  | none, _ => s.worst l c (readPath c.pin)
  | some _, none => s.worst l c writePath
  | some r, some w => if r.1 * w.2 < w.1 * r.2 then s.worst l c writePath else s.worst l c (readPath c.pin)

/-! ### The largest rates (R275) -/

/-- The smaller of two fractions. -/
def minFrac (a b : Nat × Nat) : Nat × Nat := if b.1 * a.2 < a.1 * b.2 then b else a

/-- The factor on `c`'s rates that R273 allows beside `l` on one resource; none where it has no charge there. -/
def State.loadFactor (s : State) (l : List Cinch) (c : Cinch) (x : Nat × Nat) : Option (Nat × Nat) :=
  let ch := if 3 ≤ x.1 ∨ s.cinchHead c = x.2 then c.charge x.1 else 0
  if ch = 0 then none
  else some (s.util * s.capacity x.1 x.2 - 100 * (s.reserved x.1 + s.sumCharge l x.1 x.2 fun _ => true), 100 * ch)

/-- The factor that R273 allows, with the resource that sets it. -/
def State.loadLimit (s : State) (l : List Cinch) (c : Cinch) : (Nat × Nat) × Nat :=
  s.resources.foldl (fun a x => match s.loadFactor l c x with
    | none => a
    | some f => if a.2 = 0 ∨ f.1 * a.1.2 < a.1.1 * f.2 then (f, x.1) else a) ((0, 1), 0)

/-- The factor that one check of R274 allows at `c`'s bound: the delay terms are linear in it. -/
def State.pathFactor (s : State) (l : List Cinch) (c : Cinch) (p : Nat × List Nat) : Option (Nat × Nat) :=
  let h := s.cinchHead c
  match s.pathNs l c p with
  | none => some (0, 1)
  | some base =>
    let slope := p.2.foldl (fun a r => addFrac a (s.burstNs * c.charge r, Nat.max 1 (s.share l c.cls r h))) (0, 1)
    if slope.1 = 0 then (if c.bound * base.2 < base.1 then some (0, 1) else none)
    else some ((c.bound * base.2 - base.1) * slope.2, base.2 * slope.1)

/-- The factor that R273 and R274 allow together. -/
def State.rateLimit (s : State) (l : List Cinch) (c : Cinch) : Nat × Nat :=
  let f := (s.loadLimit l c).1
  if c.bound < floorNs c.pin then (0, 1)
  else [s.pathFactor l c (readPath c.pin), s.pathFactor l c writePath].foldl (fun a x => match x with
    | some y => minFrac a y
    | none => a) f

/-- `c` with its rates scaled and rounded down to whole MB/s. -/
def Cinch.scaled (c : Cinch) (f : Nat × Nat) : Cinch := { c with readMbs := c.readMbs * f.1 / f.2, writeMbs := c.writeMbs * f.1 / f.2 }

/-- MAX_READ_MBS, MAX_WRITE_MBS and MIN_BOUND_NS of a refusal (R275). -/
def State.limits (s : State) (l : List Cinch) (c : Cinch) : Nat × Nat × Nat :=
  let f := s.rateLimit l c
  let m := c.scaled f
  let at_ := if s.fits (l ++ [c]) then c else if 0 < f.1 then m else c.scaled (s.loadLimit l c).1
  let b := if (s.loadLimit l c).1.1 = 0 then 0 else (s.needed (l ++ [at_]) at_).getD 0
  if f.1 = 0 then (0, 0, b) else (m.readMbs, m.writeMbs, b)

/-! ### Judging a request (R263, R275, R276) -/

/-- The cinches that hold a slot, with their slots: those that are not Free and those awaiting Confirm Cinch (R277). -/
def State.slotsHeld (s : State) : List (Nat × Cinch) :=
  ((List.range 64).map fun i => (i, s.cinch i)).filter fun e => e.2.st != .free || e.2.waiting

/-- The cinches that enter the checks of a request: admitted and not demoted, or awaiting Confirm Cinch. -/
def State.inChecks (s : State) : List Cinch := (s.slotsHeld.map Prod.snd).filter fun c => c.st != .demoted

/-- The GiB that a cinch covers of its LD. -/
def State.cinchSpan (s : State) (c : Cinch) : Nat × Nat :=
  if c.lenGib = 0 then (0, (s.ldLayout c.ld).staticGib + (s.ldLayout c.ld).dcGib) else (c.baseGib, c.baseGib + c.lenGib)

/-- The cinch that request `r` asks for. -/
def askedCinch (r : CinchRequest) : Cinch :=
  { ld := r.ld, cls := r.cls, pin := r.pin, baseGib := r.baseGib, lenGib := r.lenGib, readMbs := r.readMbs, writeMbs := r.writeMbs,
    bound := r.bound, allow := r.allow }

/-- The code of a request that breaks a rule ahead of the model, in R276's order: PARAM, SUPPLY, TABLE_FULL, RANGE, PIN_LIMIT; 0 where none. `own`: the LD
whose mailbox carried it. -/
def State.ruleCode (s : State) (own : Option Nat) (r : CinchRequest) : Nat :=
  let c := askedCinch r
  let held := s.slotsHeld.map Prod.snd
  let x := s.cinchSpan c
  if r.rsvd || (r.readMbs == 0 && r.writeMbs == 0) || (s.headOf r.ld).isNone || (own.any (· != r.ld)) || (r.pin && r.lenGib == 0) ||
      (r.lenGib == 0 && r.baseGib != 0) then 8
  else if s.supplyLow then 10
  else if 64 ≤ held.length ∨ 8 ≤ (held.filter fun d => d.ld == r.ld).length ∨ s.layout.safe then 7
  else if (s.ldLayout r.ld).staticGib + (s.ldLayout r.ld).dcGib < x.2 ∨
      held.any (fun d => d.ld == r.ld && decide ((s.cinchSpan d).1 < x.2) && decide (x.1 < (s.cinchSpan d).2)) then 6
  else if r.pin ∧ ((s.ldLayout r.ld).staticGib < x.2 ∨ 32 < r.lenGib + ((held.filter Cinch.pin).map Cinch.lenGib).foldl (· + ·) 0) then 5
  else 0

/-- The model's answer to candidate `c` (R273 to R276): STATUS and RES. -/
def State.modelCode (s : State) (c : Cinch) : Nat × Nat :=
  let l := s.inChecks
  let full := l ++ [c]
  if c.bound < floorNs c.pin then (1, 0)
  else if !s.fits full then (2, (s.loadLimit l c).2)
  else if !s.holds full c then (3, s.limiting full c)
  else match l.find? fun d => !s.holds full d with
    | some d => (4, s.limiting full d)
    | none => (0, 0)

/-! ### Demotion and restoration (R281, R282) -/

/-- The admitted cinches that are not demoted, with their slots. -/
def State.liveCinches (s : State) : List (Nat × Cinch) := s.slotsHeld.filter fun e => e.2.st == .pinning || e.2.st == .active

/-- R273 and R274 over the cinches `l`: 0 where they pass, else the check that fails as a code of Table 8.9. -/
def State.checkCode (s : State) (l : List Cinch) : Nat := if !s.fits l then 2 else if !l.all (s.holds l) then 3 else 0

/-- The cinch demoted next: the highest class number, and within it the one admitted last. -/
def demoteNext (l : List (Nat × Cinch)) : Option Nat :=
  (l.foldl (fun (a : Option (Nat × Cinch)) e => match a with
    | none => some e
    | some b => if b.2.cls < e.2.cls ∨ (b.2.cls = e.2.cls ∧ b.2.order < e.2.order) then some e else a) none).map Prod.fst

/-- The cinch ID of slot `i` (Table 8.4). -/
def State.cinchId (s : State) (i : Nat) : Nat := i + 64 * ((s.cinch i).seq % 65536)

/-- Cinch `i` demoted, with its event and the code of what failed. -/
def demote (i why : Nat) (s : State) : State :=
  let s1 := (s.updCinch i fun c => { c with st := .demoted }).onQos fun q => { q with demoted := i :: q.demoted }
  (s1.count Reg.QOS_DEMO_CNT_DEMOTIONS).vendor 1 0x0101 [s.cinchId i, why]

/-- Demotions until the checks pass; while the input is low, every cinch. -/
def demoteAll : Nat → State → State
  | 0, s => s
  | n + 1, s =>
    let why := if s.supplyLow then 10 else s.checkCode (s.liveCinches.map Prod.snd)
    if why = 0 then s
    else match demoteNext s.liveCinches with
      | none => s
      | some i => demoteAll n (demote i why s)

/-- The demoted cinches that would pass, in the reverse of the demotion order, each with those found before it. -/
def State.restorable (s : State) : List Nat :=
  if s.supplyLow then []
  else (s.qos.demoted.foldl (fun (a : List Nat × List Cinch) i =>
    if s.checkCode (a.2 ++ [s.cinch i]) = 0 then (a.1 ++ [i], a.2 ++ [s.cinch i]) else a) ([], s.liveCinches.map Prod.snd)).1

/-- Since when each demoted cinch's checks have passed without a break. -/
def notePassing (s : State) : State :=
  let l := s.restorable
  s.onQos fun q => { q with passSince := l.map fun i => (i, ((q.passSince.find? fun e => e.1 == i).map Prod.snd).getD s.clk) }

/-- Whether every page of cinch `c`'s range is hot: STATE 0, 2 or 3 (R264). -/
def State.rangeHot (s : State) (c : Cinch) : Bool := (s.cinchPages c).all fun p => (s.entry p).state != 1

/-- Cinch `i` enters Active: an event for a hot-pinned one (R265). -/
def activate (i : Nat) (s : State) : State :=
  let s1 := s.updCinch i fun c => { c with st := .active }
  if (s.cinch i).pin then s1.vendor 0 0x0103 [s.cinchId i, 0] else s1

/-- Cinch `i` restored (R282): a hot-pinned one whose range is not hot is Pinning again (Table 8.6). -/
def restore (i : Nat) (s : State) : State :=
  let s1 := (s.onQos fun q => { q with demoted := q.demoted.filter (· != i), passSince := q.passSince.filter fun e => e.1 != i }).count Reg.QOS_DEMO_CNT_RESTORES
  let s2 := s1.vendor 0 0x0102 [s.cinchId i, 0]
  if (s.cinch i).pin && !s.rangeHot (s.cinch i) then s2.updCinch i fun c => { c with st := .pinning } else activate i s2

end Sys2Proof.Machine
end

