-- ==== Sys2Proof/Machine/MailOps.lean ====
section
/-! DEFINITION. The command paths of the management complex: which path carries a command, the plaza's readiness, return codes and replies (R468). -/
namespace Sys2Proof.Machine

open Sys2Proof

/-! ### Path classes (R468) -/

/-- The path class LD: the mailbox of LD `k`, or the FM API. -/
def ldPath (k : Nat) : CmdPath → Bool
  | .mailbox m => m.val == k
  | .fmApi => true
  | _ => false

/-- The path class LD for a command that names no LD. -/
def anyLdPath : CmdPath → Bool
  | .mailbox _ => true
  | .fmApi => true
  | _ => false

/-- The path class MGR: the FM API, the sideband, or the mailbox of an LD that CFG_MGR names. -/
def State.mgrPath (s : State) : CmdPath → Bool
  | .mailbox m => s.bitOf Reg.CFG_MGR_MGR_LD m
  | .fmApi => true
  | .sideband => true
  | .spdm _ => false

/-- The path class SPDM. -/
def spdmPath : CmdPath → Bool
  | .spdm _ => true
  | _ => false

/-- The paths of a standard CXL command. -/
def cxlPath : CmdPath → Bool
  | .spdm _ => false
  | _ => true

/-- Whether a session may inject the root key of LD `k` (R189): over DOE on a head that presents the LD, or over MCTP on the sideband. -/
def State.injectPath (s : State) (k : Nat) : CmdPath → Bool
  | .spdm none => true
  | .spdm (some h) => s.bitOf (Reg.HPA_LD_ACT_LD_ACTIVE h) k
  | _ => false

/-- The LD whose mailbox a command arrives at. -/
def ownLd : CmdPath → Option Nat
  | .mailbox m => some m.val
  | _ => none

/-! ### Return codes (PRESUMED: the CXL command return codes, log entry 41) -/

abbrev rcSuccess : Nat := 0x00
abbrev rcInvalidInput : Nat := 0x02
abbrev rcUnsupported : Nat := 0x03
abbrev rcBusy : Nat := 0x06
abbrev rcFwInProgress : Nat := 0x08
abbrev rcFwOutOfOrder : Nat := 0x09
abbrev rcFwAuthFailed : Nat := 0x0A
abbrev rcFwInvalidSlot : Nat := 0x0B
abbrev rcFwRolledBack : Nat := 0x0C

/-- A command completes. -/
def answer (via : CmdPath) (rc : Nat) (payload : List Nat) (s : State) : State := s.emit (.reply (ownLd via) rc payload)

/-- A command completes with Busy or Unsupported: MGT_CMD_CNT.REFUSED counts it. -/
def refuse (via : CmdPath) (rc : Nat) (s : State) : State := (answer via rc [] s).count Reg.MGT_CMD_CNT_REFUSED

/-- A command with a code of a register's own: Success where it is 0, else Invalid Input; the reply carries the code. -/
def answerCode (via : CmdPath) (code : Nat) (s : State) : State := answer via (if code = 0 then rcSuccess else rcInvalidInput) [code] s

/-- Whether the plaza takes no command now: its firmware does not run, or an online activation is under way (R473). -/
def State.fwBusy (s : State) : Bool := !s.on Reg.MGT_STS_FW_RUN || s.on Reg.MGT_STS_ACTIVATING || s.on Reg.MGT_STS_RESIDENT

/-- A command for the plaza ends Keep, in which the plaza is retained (R374, Table 12.10): over the sideband or a session, or from a mailbox. -/
def wakePlaza (via : CmdPath) (s : State) : State :=
  if s.cond 130 == .retained then
    serveWake (takeWake (match via with
      | .sideband => 4
      | .spdm none => 4
      | _ => 2) 130 none s)
  else s

/-- The plaza executes command `f` that arrived by a path of its class (`ok`): another path is Unsupported, and a plaza that takes no command is Busy. -/
def vendorCmd (ok : Bool) (via : CmdPath) (f : State → State) (s : State) : State :=
  if !ok then refuse via rcUnsupported s
  else if s.fwBusy then refuse via rcBusy s
  else f ((wakePlaza via s).count Reg.MGT_CMD_CNT_EXECUTED)

/-- The same for a command of class MGR, of which the plaza executes one at a time. -/
def mgrCmd (via : CmdPath) (f : State → State) (s : State) : State :=
  if s.mgrPath via && s.mgmt.mgrBusy then refuse via rcBusy s else vendorCmd (s.mgrPath via) via f s

/-- An MGR command goes on until a later step ends it. -/
def holdMgr (via : CmdPath) (s : State) : State := s.onMgmt fun m => { m with mgrBusy := true, via := some via }

/-- The MGR command under way completes. -/
def endMgr (rc : Nat) (payload : List Nat) (s : State) : State :=
  let s1 := s.onMgmt fun m => { m with mgrBusy := false, via := none }
  match s.mgmt.mgrBusy, s.mgmt.via with
  | true, some via => answer via rc payload s1
  | _, _ => s1

end Sys2Proof.Machine
end

