-- ==== Sys2Proof/Machine/Contracts.lean ====
section
/-! DEFINITION. The meanings of the contract commands (chapter 08). -/
namespace Sys2Proof.Machine

open Sys2Proof

/-- The reply of Table 8.4. -/
def cinchReply (status res id : Nat) (lim : Nat × Nat × Nat) : List Nat :=
  leBytes 2 status ++ [res, 0] ++ leBytes 4 id ++ leBytes 4 lim.1 ++ leBytes 4 lim.2.1 ++ leBytes 4 lim.2.2 ++ [0, 0, 0, 0]

/-- A Request Cinch answered; one with STATUS ≠ 0 counts (QOS_REFUSE_CNT). -/
def answerCinch (via : CmdPath) (status res id : Nat) (lim : Nat × Nat × Nat) (s : State) : State :=
  let s1 := answer via rcSuccess (cinchReply status res id lim) s
  if status = 0 then s1 else s1.count Reg.QOS_REFUSE_CNT_COUNT

/-- Cinch `c` takes slot `i`, with the next sequence number. -/
def takeSlot (i : Nat) (c : Cinch) (s : State) : State :=
  (s.updCinch i fun _ => { c with seq := s.qos.nextSeq % 65536, order := s.nextId }).onQos fun q => { q with nextSeq := q.nextSeq + 1 }

/-- The cinch in slot `i` is admitted (Table 8.6): its buckets are full, and the power state may have become too deep (R279). -/
def admitCinch (i : Nat) (s : State) : State :=
  let s1 := s.updCinch i fun c =>
    { c with st := if c.pin then .pinning else .active
             waiting := false
             order := s.nextId
             rbucket := ((c.readMbs * s.burstNs : Nat) : Int)
             wbucket := ((c.writeMbs * s.burstNs : Nat) : Int)
             filled := s.clk }
  recheckAllowed s1.fresh.2

/-- A request for a cinch judged (R275 to R277): refused with the first code that applies; admitted at once in hardware mode; in host-assisted mode
held in its slot until Confirm Cinch. -/
def judgeCinch (via : CmdPath) (r : CinchRequest) (s : State) : State :=
  let c := { askedCinch r with via := via }
  let rule := s.ruleCode (ownLd via) r
  let m := s.modelCode c
  if rule = 8 then answerCinch via 8 0 0 (0, 0, 0) s
  else if rule ≠ 0 then answerCinch via rule 0 0 (s.limits s.inChecks c) s
  else if m.1 ≠ 0 then answerCinch via m.1 m.2 0 (s.limits s.inChecks c) s
  else match (List.range 64).find? fun i => !(s.slotsHeld.any fun e => e.1 == i) with
    | none => answerCinch via 7 0 0 (s.limits s.inChecks c) s
    | some i =>
      if s.on Reg.QOS_ADM_CFG_MODE_ACT then
        let s1 := takeSlot i { c with waiting := true, due := s.clk + zeroAsOne (s.fld Reg.QOS_ADM_CFG_HOST_WAIT_MS) * ms } s
        s1.vendor 0 0x0106 [s1.cinchId i, 0, r.ld, r.cls, r.pin.toNat, r.baseGib, r.lenGib, r.readMbs, r.writeMbs, r.bound, r.allow,
          (s.needed (s.inChecks ++ [c]) c).getD 0]
      else
        let s1 := admitCinch i (takeSlot i c s)
        answerCinch via 0 0 (s1.cinchId i) (0, 0, 0) s1

/-- REQUEST_CINCH (R262, R275 to R277): while a switch of the admission mode is pending, the request is held (Table 16.4). -/
def execRequestCinch (via : CmdPath) (r : CinchRequest) (s : State) : Res :=
  done (vendorCmd (anyLdPath via) via (fun t =>
    if t.switching 7 then t.onQos fun q => { q with heldReq := q.heldReq ++ [(via, r)] }
    else judgeCinch via r t) s)

/-- The slot that cinch ID `id` names, where its sequence number is right and `p` holds of it. -/
def State.cinchNamed (s : State) (id : Nat) (p : Cinch → Bool) : Option Nat :=
  let i := id % 64
  if s.cinchId i = id ∧ p (s.cinch i) then some i else none

/-- RELEASE_CINCH (R262, R280): the slot becomes Free and PIN is cleared on its range. -/
def execReleaseCinch (via : CmdPath) (id : Nat) (s : State) : Res :=
  match s.cinchNamed id fun c => c.st != .free with
  | none => done (vendorCmd (anyLdPath via) via (answer via rcInvalidInput []) s)
  | some i =>
    let c := s.cinch i
    done (vendorCmd (ldPath c.ld via) via (fun t =>
      let t1 := if c.pin then forAll (t.cinchPages c) t fun u p => unpin p u else t
      answer via rcSuccess [] (freeCinch i t1)) s)

/-- CONFIRM_CINCH (R277, Table 16.6). -/
def execConfirmCinch (via : CmdPath) (id : Nat) (ok : Bool) (s : State) : Res :=
  done (mgrCmd via (fun t =>
    match t.cinchNamed id Cinch.waiting with
    | none => answer via rcInvalidInput [] t
    | some i =>
      let c := t.cinch i
      let t1 := if ok then answerCinch c.via 0 0 id (0, 0, 0) (admitCinch i t) else answerCinch c.via 9 0 0 (t.limits (t.inChecks.filter (· != c)) c) (freeCinch i t)
      answer via rcSuccess [] t1) s)

/-- CINCH_CONFIRM_TIMEOUT (R277): HOST_WAIT_MS after the request. -/
def execCinchConfirmTimeout (slot : Fin 64) (s : State) : Res :=
  let c := s.cinch slot
  if c.waiting then
    let s1 := s.until c.due
    .next (answerCinch c.via 9 0 0 (s1.limits (s1.inChecks.filter (· != c)) c) (freeCinch slot s1))
  else .next s

/-- CINCH_PINNED_ACTIVE (R264, R265). -/
def execCinchPinnedActive (slot : Fin 64) (s : State) : Res :=
  if (s.cinch slot).st = .pinning ∧ s.rangeHot (s.cinch slot) then .next (activate slot s) else .next s

/-- ADMISSION_RERUN (R281). -/
def execAdmissionRerun (s : State) : Res := .next (notePassing (demoteAll 65 s))

/-- CINCH_RESTORE (R282): the demoted cinches whose checks have passed for 100 ms, in the reverse of the demotion order, each that passes with those
already restored. -/
def execCinchRestore (s : State) : Res :=
  match minLimit (s.qos.passSince.map Prod.snd) with
  | none => .next s
  | some t0 =>
    let s1 := s.until (t0 + 100 * ms)
    if s1.supplyLow then .next s1
    else .next (forAll s1.qos.demoted s1 fun t i =>
      if t.qos.passSince.any (fun e => e.1 == i && decide (e.2 + 100 * ms ≤ t.clk)) && t.checkCode (t.liveCinches.map Prod.snd ++ [t.cinch i]) == 0
      then restore i t else t)

/-- The heads of a list as a mask. -/
def headMask (l : List Nat) : Nat := l.foldl (fun a h => a ||| 2 ^ h) 0

/-- One class at the end of a window of 100 µs (R284): an episode begins once the windows with delayed best-effort bytes have lasted longer than
HOLD_MS, and ends after 10 windows without. -/
def excessStep (c : Nat) (s : State) : State :=
  let e := SMap.get ({} : Excess) s.qos.excess c
  let put := fun (x : Excess) (t : State) => t.onQos fun q => { q with excess := SMap.put {} q.excess c x }
  if e.on then
    let run := if e.bytes = 0 then e.run + 1 else 0
    if 10 ≤ run then
      ((put {} s).setFld (Reg.QOS_CLS_EPI_ACTIVE c) 0).vendor 0 0x0105 [0, 0, c, headMask e.heads]
    else put { e with bytes := 0, run := run } s
  else if e.bytes = 0 then put {} s
  else
    let run := e.run + 1
    if zeroAsOne (s.fld Reg.QOS_HOLD_CFG_HOLD_MS) * 10 < run then
      ((((put { e with bytes := 0, run := 0, on := true } s).setFld (Reg.QOS_CLS_EPI_ACTIVE c) 1).count (Reg.QOS_CLS_EPI_EPISODES c)).vendor 1 0x0104
        [0, 0, c, headMask e.heads])
    else put { e with bytes := 0, run := run } s

/-- EXCESS_WINDOW (R284): the window of 100 µs ends. -/
def execExcessWindow (s : State) : Res :=
  .next (forAll (List.range 8) (s.until ((s.clk / 100000 + 1) * 100000)) fun t c => excessStep c t)

end Sys2Proof.Machine
end

