-- ==== Sys2Proof/Machine/MemOps.lean ====
section
/-! DEFINITION. Line accesses of the near-memory engines (R313, R324): done at once where the home slice would serve the line without waiting for
anything, and put as a request to the slice where it would not (a snoop, a frame, a fill, a repair). -/
namespace Sys2Proof.Machine

open Sys2Proof

/-- The request that engine `n` makes of the line at DPA `a` of LD `k`. -/
def State.engineReq (s : State) (n k a id : Nat) (kind : ReqKind) (data : Line) (mask : BitVec 64) (poison : Bool) : Req :=
  { id := id, agent := .engine n, port := 16 + n, kind := kind, gpn := s.gpnOf k a, line := a % 4096 / 64, data := data, mask := mask, poison := poison,
    db := s.isDb k a, tag := id % 1024, cls := s.portClass (16 + n), be := true, t0 := s.clk }

/-- Whether the home slice of request `r` serves it without any other agent: it serves its entry, nothing of the line is open or queued, no ticket is
out for it, and no host holds the line (R85). -/
def State.lineFree (s : State) (r : Req) : Bool :=
  let sl := s.home r.gpn
  let la := lineAddr r.gpn r.line
  decide (s.fld Reg.PWR_STS_STATE < 2) && !s.entryHeld (remapIndex r.gpn) && !s.filterLost r && !(s.slice sl).quiesce &&
  !s.keyless r.gpn && (s.ticketAt sl r.ticketKey).isNone && !((s.slice sl).txns.any fun t => t.req.gpn == r.gpn && t.req.line == r.line) &&
  (snoopPlan r (s.filter la)).targets.isEmpty

/-- The line that a read of page `p` finds in the hot tier or in a zero or poisoned page, with its poison; none where it must wait for a fill, or for a
stitcher that reads the page's image (R20, R116). -/
def State.lineNow (s : State) (p l : Nat) : Option (Line × Bool) :=
  let m := s.entry p
  let marked := (s.marks p).getLsbD l
  if m.state = 0 then some (0, marked)
  else if m.state = 1 then (if marked || m.scnt == 0 then some (0, true) else none)
  else match s.lineAt p m.frame l with
    | .line v bad => some (if bad then 0 else v, bad)
    | _ => none

/-- The filter's transition and the class's bytes for a request served at once (Table 3.3, R284). -/
def servedAtOnce (r : Req) (s : State) : State :=
  let la := lineAddr r.gpn r.line
  let s1 := closeWindow (s.keySource r.gpn).1 s
  let s2 := if r.db then setFilter la (filterAfter r (s1.filter la) false) s1 else s1
  accountReply { r with lat := 0 } s2

/-- A read served at once. -/
def fastRead (r : Req) (s : State) : Option ((Line × Bool) × State) :=
  if !s.lineFree r then none
  else match s.lineNow r.gpn r.line with
    | none => none
    | some (v, bad) => some ((v, bad), touchHeat r.gpn 1 (servedAtOnce r s))

/-- A write served at once: frames, merge, frame and mirror (R117, R122). -/
def fastWrite (r : Req) (s : State) : Option State :=
  if !s.lineFree r || s.distressed r.gpn then none
  else match allocForWrite r.gpn s with
    | none => none
    | some s1 =>
      let s2 := updOp r.gpn (fun o => { o with written := true }) s1
      (writeLine r.gpn (s2.entry r.gpn).frame r.line r.data r.mask r.poison s2).map fun t => touchHeat r.gpn 2 (servedAtOnce r t)

/-- An atomic served at once (R97), counted whether or not it writes: the line's poison answers it without a write. -/
def fastAtomic (r : Req) (o : AtomicOp) (s : State) : Option (Bool × State) :=
  if !s.lineFree r then none
  else match s.lineNow r.gpn r.line with
    | none => none
    | some (v, bad) =>
      let counted := fun (t : State) => (touchHeat r.gpn 2 (servedAtOnce r t)).count (Reg.HSL_ATOM_CNT_COUNT (s.home r.gpn))
      if bad then some (true, counted s)
      else match atomResult o (atomWord o v) with
        | none => some (false, counted s)
        | some x =>
          (allocForWrite r.gpn s).map fun s1 =>
            let s2 := updOp r.gpn (fun o => { o with written := true }) s1
            (false, counted (storeLine (s2.entry r.gpn).frame r.line (setAtomWord o v x) false s2))

/-- What one access of a descriptor came to: it goes on with the line and its poison, it waits, or it ends the descriptor with a code. -/
inductive Access where
  | got (v : Line) (poison : Bool) (x : Running) (s : State)
  | wait (x : Running) (s : State)
  | stop (code : Nat)

/-- The reply for a request that a descriptor waits for, taken off the grid. -/
def takeAnswer (x : Running) (id : Nat) (s : State) : Access :=
  match s.replies.find? fun q => q.req.id == id with
  | none => .wait x s
  | some q =>
    let s1 := accountReply { q.req with lat := q.req.lat - 65 } { s with replies := s.replies.filter fun q => q.req.id != id }
    let y := { x with waits := none }
    match q.kind with
    | .data v bad => .got v bad y s1
    | .atomic _ bad => .got 0 bad y s1
    | _ => .got 0 false y s1

/-- A request put to the home slice for descriptor `x`, which waits for it. -/
def putRequest (x : Running) (mk : Nat → Req) (s : State) : Access :=
  let (id, s1) := s.fresh
  .wait { x with waits := some id } { s1 with flight := s1.flight ++ [mk id] }

/-- Descriptor `x` reads the line that holds DPA `a` (R45, R188, R313). -/
def engRead (x : Running) (k a : Nat) (s : State) : Access :=
  match x.waits with
  | some id => takeAnswer x id s
  | none =>
    if !s.inCapacity k a || s.keyWaits (s.keySource (s.gpnOf k a)).1 then .stop 0x22
    else if !s.reachable k a then .wait x s
    else
      let mk := fun (id : Nat) => s.engineReq x.eng k a id .read 0 0 false
      match fastRead (mk 0) s with
      | some (v, t) => .got v.1 v.2 x t
      | none => putRequest x mk s

/-- Descriptor `x` writes the bytes of `v` that `mask` names to the line that holds DPA `a`; a frozen extent refuses (R326). -/
def engWrite (x : Running) (k a : Nat) (v : Line) (mask : BitVec 64) (poison : Bool) (s : State) : Access :=
  match x.waits with
  | some id => takeAnswer x id s
  | none =>
    if !s.inCapacity k a || s.keyWaits (s.keySource (s.gpnOf k a)).1 then .stop 0x22
    else if s.isFrozen k a then .stop 0x11
    else if !s.reachable k a then .wait x s
    else
      let mk := fun (id : Nat) => s.engineReq x.eng k a id .write v mask poison
      match fastWrite (mk 0) s with
      | some t => .got 0 false x t
      | none => putRequest x mk s

/-- Descriptor `x` executes atomic `o` on the line that holds DPA `a`; the answer's poison says whether the line was poisoned. -/
def engAtomic (x : Running) (k a : Nat) (o : AtomicOp) (s : State) : Access :=
  match x.waits with
  | some id => takeAnswer x id s
  | none =>
    if !s.inCapacity k a || s.keyWaits (s.keySource (s.gpnOf k a)).1 then .stop 0x22
    else if s.isFrozen k a then .stop 0x11
    else if !s.reachable k a then .wait x s
    else
      let mk := fun (id : Nat) => s.engineReq x.eng k a id (.atomic o false) 0 0 false
      match fastAtomic (mk 0) o s with
      | some (bad, t) => .got 0 bad x t
      | none => putRequest x mk s

end Sys2Proof.Machine
end

