-- ==== Sys2Proof/Machine/Engines.lean ====
section
/-! DEFINITION. The meanings of the near-memory engines' commands (chapter 10). -/
namespace Sys2Proof.Machine

open Sys2Proof

/-! ### Rings and doorbells (R309 to R312) -/

/-- NMR_CFG of ring `r` written with `v` (R310): SIZE is kept while EN = 1; EN going to 1 loads the bases and the size and restarts the ring; EN going to 0
acts on the ring as a Level 2 reset of its LD does (log entry 44). -/
def writeRingCfg (r v : Nat) (s : State) : State :=
  let on := v / 2 ^ 31 % 2 = 1
  let was := s.on (Reg.NMR_CFG_EN r)
  let s1 := ((s.setFld (Reg.NMR_CFG_ENG r) (v / 2 ^ 28)).setFld (Reg.NMR_CFG_WEIGHT r) (v / 2 ^ 24)).setFld (Reg.NMR_CFG_VEC r) (v / 2 ^ 11)
  if was then
    if on then s1.setFld (Reg.NMR_STS_ENG_ACT r) (s1.engineFor (s1.fld (Reg.NMR_CFG_ENG r))) else dropRing r s1
  else
    let s2 := s1.setFld (Reg.NMR_CFG_SIZE r) v
    if !on then s2
    else
      let q : Ring := { dbase := s2.fld (Reg.NMR_DBASE_DPA_64K r) * 65536, cbase := s2.fld (Reg.NMR_CBASE_DPA_64K r) * 65536,
                        entries := 2 ^ (6 + Nat.min 10 (s2.fld (Reg.NMR_CFG_SIZE r))) }
      let s3 := (((s2.setFld (Reg.NMR_CFG_EN r) 1).setFld (Reg.NMR_HEAD_HEAD r) 0).setFld (Reg.NMR_TAIL_TAIL r) 0).updRing r fun _ => q
      (s3.setFld (Reg.NMR_STS_PHASE r) 1).setFld (Reg.NMR_STS_ENG_ACT r) (s3.engineFor (s3.fld (Reg.NMR_CFG_ENG r)))

/-- RING_ENABLE (R309, R310). -/
def execRingEnable (p : Path) (r : Fin 256) (v : BitVec 32) (s : State) : Res :=
  if s.ringPath p r then .next (writeRingCfg r v.toNat s) else done s.accessFault

/-- NMR_TAIL of ring `r` written with `v` (R311, R312). -/
def ringTail (r v : Nat) (s : State) : State :=
  if !s.on (Reg.NMR_CFG_EN r) then s
  else
    let e := (s.ring r).entries
    let old := s.fld (Reg.NMR_TAIL_TAIL r)
    let new := v % 65536 % e
    let a := (new + e - old) % e
    if e - 1 < s.ringN r + a then (haltRing r old 0x24 s).accessFault
    else
      let t := s.time
      (s.setFld (Reg.NMR_TAIL_TAIL r) new).updRing r fun q => { q with stamps := q.stamps ++ (List.range a).map fun i => ((old + i) % e, t) }

/-- NMR_TAIL of ring `r` written, with a data-path wake of the ring's engine where that is not On (R359). -/
def ringBell (r v : Nat) (s : State) : State :=
  let t := ringTail r v s
  let d := 122 + t.fld (Reg.NMR_STS_ENG_ACT r)
  if t.on (Reg.NMR_CFG_EN r) && t.cond d != .on && !t.domFenced d && t.fld Reg.RST_STS_LEVEL == 0 then
    let u := takeWake 2 d (some d) t
    if 2 ≤ u.fld Reg.PWR_STS_STATE then serveWake u else u
  else t

/-- RING_DOORBELL (R309, R311, R312, R359). -/
def execRingDoorbell (p : Path) (r : Fin 256) (v : BitVec 32) (s : State) : Res :=
  if s.ringPath p r then done (ringBell r v.toNat s) else done s.accessFault

/-- NMR_STS.HALTED of ring `r` written with 1: the halt is cleared (R312, R327). -/
def resumeRing (r : Nat) (s : State) : State := s.setFld (Reg.NMR_STS_HALTED r) 0

/-- RING_RESUME (R309, R327). -/
def execRingResume (p : Path) (r : Fin 256) (s : State) : Res :=
  if s.ringPath p r then .next (resumeRing r s) else done s.accessFault

/-! ### Descriptors (R314, Table 10.2) -/

/-- The descriptor that a line spells. -/
def parseDescriptor (v : Line) : Descriptor :=
  let f := fun (at_ n : Nat) => v.toNat / 256 ^ at_ % 256 ^ n
  { opc := f 0 1, fence := (f 1 1).testBit 0, intr := (f 1 1).testBit 1, mat := (f 1 1).testBit 2, tag := f 4 4, src := f 8 8, dst := f 16 8, len := f 24 4,
    aux := f 28 4, imm := BitVec.ofNat 128 (f 32 16), res := f 48 8, rsvd := f 1 1 / 8 != 0 || f 2 2 != 0 || f 56 8 != 0 }

/-- K, M and the erasure mask of a Reed–Solomon descriptor (R316, R317). -/
def Running.k (x : Running) : Nat := x.d.imm.toNat % 256
def Running.m (x : Running) : Nat := x.d.imm.toNat / 256 % 256
def Running.erased (x : Running) : List Nat := (List.range 64).filter fun i => (x.d.imm.toNat / 2 ^ 64).testBit i

/-- The bytes from the first to past the last of `n` blocks of LEN bytes at stride AUX. -/
def blocksSpan (d : Descriptor) (n : Nat) : Nat := (n - 1) * d.aux + d.len

/-- Whether two ranges overlap. -/
def overlap (a n b m : Nat) : Bool := decide (a < b + m) && decide (b < a + n)

/-- LEN as COPY has it: a multiple of 64 from 64 B to 1 GiB. -/
def lineLen (d : Descriptor) : Bool := d.len % 64 == 0 && decide (64 ≤ d.len) && decide (d.len ≤ gib)

/-- The code of a descriptor whose fields are outside Table 10.3 (R314, R315), 0 where none is: 0x20 for a reserved field, an unassigned opcode or a
selector out of range, 0x21 for alignment, length, stride or overlap (log entry 45). -/
def paramCode (x : Running) : Nat :=
  let d := x.d
  let al := fun (v n : Nat) => v % n == 0
  let code := fun (sel ok : Bool) => if !sel then 0x20 else if ok then 0 else 0x21
  if d.rsvd then 0x20
  else match d.opc with
    | 0x00 => 0
    | 0x01 => code true (al d.src 64 && al d.dst 64 && lineLen d && !overlap d.src d.len d.dst d.len)
    | 0x02 => code true (al d.dst 64 && lineLen d)
    | 0x03 => code true (al d.dst 64 && lineLen d)
    | 0x04 => code true (d.len != 0)
    | 0x05 => code true (d.len != 0 && al d.res 32)
    | 0x06 =>
      code (decide (1 ≤ x.k) && decide (x.k ≤ 32) && decide (1 ≤ x.m) && decide (x.m ≤ 8))
        (al d.src 64 && al d.dst 64 && al d.len 64 && decide (64 ≤ d.len) && decide (d.len ≤ 67108864) && al d.aux 64 && decide (d.len ≤ d.aux) &&
          !overlap d.src (blocksSpan d x.k) d.dst (blocksSpan d x.m))
    | 0x07 =>
      code (decide (1 ≤ x.k) && decide (x.k ≤ 32) && decide (1 ≤ x.m) && decide (x.m ≤ 8) && d.dst == 0 && x.erased.all fun i => decide (i < x.k + x.m))
        (al d.src 64 && al d.len 64 && decide (64 ≤ d.len) && decide (d.len ≤ 67108864) && al d.aux 64 && decide (d.len ≤ d.aux))
    | 0x08 => code true (d.len != 0 && !overlap d.src d.len d.dst d.len)
    | 0x09 => code (decide (d.aux ≤ 6)) (al d.src 16 && al d.len 16 && decide (16 ≤ d.len) && decide (d.len ≤ 1048576))
    | 0x0A => code (decide (d.aux ≤ 1)) (al d.src 4096 && al d.len 4096 && decide (4096 ≤ d.len) && decide (d.len ≤ gib))
    | _ => 0x20

/-- The ranges that a descriptor writes as its fields say (R326). -/
def destRanges (x : Running) : List (Nat × Nat) :=
  let d := x.d
  match d.opc with
  | 0x01 => [(d.dst, d.len)]
  | 0x02 => [(d.dst, d.len)]
  | 0x03 => [(d.dst, d.len)]
  | 0x05 => [(d.res, 32)]
  | 0x06 => (List.range x.m).map fun j => (d.dst + j * d.aux, d.len)
  | 0x07 => x.erased.map fun i => (d.src + i * d.aux, d.len)
  | _ => []

/-- Whether a range of LD `k` touches a frozen extent. -/
def State.touchesFrozen (s : State) (k : Nat) (g : Nat × Nat) : Bool :=
  (s.ld k).extents.any fun e => e.frozen && overlap (e.gib * gib) gib g.1 g.2

/-- A descriptor whose line has been fetched begins (R314, R317, R323, R326). -/
def begin (x : Running) (s : State) : State :=
  let k := s.fld (Reg.NMR_CFG_LD x.ring)
  let y := { x with fetched := true, started := true }
  let c := if paramCode y ≠ 0 then paramCode y
    else if (destRanges y).any (s.touchesFrozen k) then 0x11
    else if y.d.opc = 7 ∧ y.m < y.erased.length then 0x23
    else 0
  if c = 0 then putRun y s
  else
    let s1 := putRun (y.endWith c) s
    if halting c then haltRing y.ring y.idx c s1 else s1

/-! ### Scheduling (R323, R325) -/

/-- The TAG and INTR of a descriptor that was never read: no rule gives them, so they are free (log entry 46). -/
def unreadDescriptor (s : State) : Descriptor × State :=
  let v := (s.freeVal 33).toNat
  ({ tag := v % 2 ^ 32, intr := v / 2 ^ 32 == 1 }, s.spent)

/-- Every descriptor of ring `r` that has not started is refused with code `c` (R325). -/
def refuseTail (r c : Nat) (s : State) : State :=
  let s1 := stopRuns c (fun x => x.ring == r && !x.started) s
  let q := s1.ring r
  let n := (s1.fld (Reg.NMR_TAIL_TAIL r) + q.entries - q.start) % q.entries
  let s2 := forAll (List.range n) s1 fun t i =>
    let (d, u) := unreadDescriptor t
    u.onNme fun m => { m with running := m.running ++ [({ ring := r, idx := (q.start + i) % q.entries, eng := s.fld (Reg.NMR_STS_ENG_ACT r), d := d } : Running).endWith c] }
  s2.updRing r fun q => { q with start := s2.fld (Reg.NMR_TAIL_TAIL r), stamps := [] }

/-- Whether ring `r` has a descriptor that its engine may fetch: the ring runs and no descriptor of it waits unstarted ahead (R323, R327). -/
def State.ringReady (s : State) (r : Nat) : Bool :=
  s.on (Reg.NMR_CFG_EN r) && !s.on (Reg.NMR_STS_HALTED r) && (s.ring r).start != s.fld (Reg.NMR_TAIL_TAIL r) &&
  !(s.nme.running.any fun x => x.ring == r && x.ended.isNone && !x.started)

/-- The ring that engine `n` serves next: the last one while picks of its weight are left, else the next in number (R323). -/
def State.pickRing (s : State) (n : Nat) : Option Nat :=
  let can := fun (r : Nat) => s.ringReady r && s.fld (Reg.NMR_STS_ENG_ACT r) == n
  let (last, used) := SMap.get (255, 0) s.nme.picks n
  if can last && decide (0 < used) && decide (used < zeroAsOne (s.fld (Reg.NMR_CFG_WEIGHT last))) then some last
  else ((List.range 256).map fun i => (last + 1 + i) % 256).find? can

/-- The address of descriptor `idx` of ring `r`. -/
def State.descAddr (s : State) (r idx : Nat) : Nat := (s.ring r).dbase + 64 * idx

/-- The fetch of a descriptor's line goes on (R313): a line outside capacity ends it with 0x22, a poisoned one with 0x30. A descriptor with FENCE waits
for the records of all before it. -/
def fetchLine (x : Running) (s : State) : State :=
  let k := s.fld (Reg.NMR_CFG_LD x.ring)
  let fail := fun (c : Nat) =>
    let (d, u) := unreadDescriptor s
    haltRing x.ring x.idx c (putRun (({ x with d := d } : Running).endWith c) u)
  match engRead x k (s.descAddr x.ring x.idx) s with
  | .stop c => fail c
  | .wait y t => putRun y t
  | .got v bad y t =>
    if bad then (let (d, u) := unreadDescriptor t
                 haltRing x.ring x.idx 0x30 (putRun (({ y with d := d } : Running).endWith 0x30) u))
    else
      let z := { y with d := parseDescriptor v, fetched := true }
      if z.d.fence ∧ t.fld (Reg.NMR_HEAD_HEAD x.ring) ≠ x.idx then putRun z t else begin z t

/-- DESCRIPTOR_FETCH (R323, R325): engine `n` starts a descriptor that its fence no longer holds, goes on with a fetch under way, or, with a context
free, fetches the next descriptor of the ring that it picks; while the input is below 10.8 V that ring's tail is refused instead. -/
def execDescriptorFetch (n : Fin 8) (s : State) : Res :=
  if s.isFenced (.engine n) || !s.on (Reg.NME_STS_READY n) then .next s
  else match s.nme.running.find? fun x => x.eng == n.val && x.ended.isNone && !x.started &&
      (!x.fetched || s.fld (Reg.NMR_HEAD_HEAD x.ring) == x.idx) && !s.on (Reg.NMR_STS_HALTED x.ring) with
    | some x => done (if s.supplyLow then refuseTail x.ring 0x13 s else if x.fetched then begin x s else fetchLine x s)
    | none =>
      if 4 ≤ (s.nme.running.filter fun x => x.eng == n.val && x.ended.isNone).length then .next s
      else match s.pickRing n with
        | none => .next s
        | some r =>
          if s.supplyLow then .next (refuseTail r 0x13 s)
          else
            let i := (s.ring r).start
            let x : Running := { ring := r, idx := i, eng := n, stamp := (((s.ring r).stamps.find? fun e => e.1 == i).map Prod.snd).getD s.time }
            let used := SMap.get (255, 0) s.nme.picks n
            let s1 := s.onNme fun m => { m with running := m.running ++ [x], picks := SMap.put (255, 0) m.picks n (r, if used.1 = r then used.2 + 1 else 1) }
            done (fetchLine x (s1.updRing r fun q => { q with start := (i + 1) % q.entries, stamps := q.stamps.filter fun e => e.1 != i }))

/-- NME_CFG.WAIT_MS of engine `n` in ns. -/
def State.waitNs (s : State) (n : Nat) : Nat := zeroAsOne (s.fld (Reg.NME_CFG_WAIT_MS n)) * ms

/-- DESCRIPTOR_WAIT_TIMEOUT (R325): WAIT_MS after the stamp of ring `r`'s first descriptor that has not started. -/
def execDescriptorWaitTimeout (r : Fin 256) (s : State) : Res :=
  match (((s.nme.running.filter fun x => x.ring == r.val && x.ended.isNone && !x.started).map Running.stamp) ++ (s.ring r).stamps.map Prod.snd).head? with
  | none => .next s
  | some t => .next (refuseTail r 0x10 (s.advance (t + s.waitNs (s.fld (Reg.NMR_STS_ENG_ACT r)) - s.time)))

/-! ### Execution (R315 to R320) -/

/-- The parts of a descriptor are worked through while each can go on. -/
def engLoop (f : Running → State → Running × State × Bool) : Nat → Running → State → Running × State
  | 0, x, s => (x, s)
  | n + 1, x, s =>
    let (y, t, go) := f x s
    if go && y.ended.isNone then engLoop f n y t else (y, t)

/-- A descriptor ends with code `c`. -/
def endPart (x : Running) (c : Nat) (s : State) : Running × State × Bool :=
  (x.endWith c, if halting c then haltRing x.ring x.idx c s else s, false)

/-- RESULT of a digest or comparison that met poison: no result is returned, so it is free (R327, log entry 46). -/
def noResult (x : Running) (s : State) : Running × State := ({ x with res := (s.freeVal 32).toNat }, s.spent)

/-- One part of a descriptor: the lines it reads, what it writes of them (address, line, mask), the destination lines that poison marks, and what it is when
all is done. `unit`: the bytes that DONE counts for a line written. -/
def part (reads : List Nat) (out : List Line → List (Nat × Line × BitVec 64)) (onPoison : List Nat) (unit : Nat)
    (fin : List Line → Running → State → Running × State × Bool) (x : Running) (s : State) : Running × State × Bool :=
  let k := s.fld (Reg.NMR_CFG_LD x.ring)
  let writes := if x.bad then onPoison.map fun a => (a, (0 : Line), (0 : BitVec 64)) else out x.vals
  if !x.bad && decide (x.vals.length < reads.length) then
    match engRead x k (reads.getD x.vals.length 0) s with
    | .stop c => endPart x c s
    | .wait y t => (y, t, false)
    | .got v bad y t => ({ y with vals := y.vals ++ [v], bad := bad }, t, true)
  else if x.wrote < writes.length then
    let w := writes.getD x.wrote (0, 0, 0)
    match engWrite x k w.1 w.2.1 w.2.2 x.bad s with
    | .stop c => endPart x c s
    | .wait y t => (y, t, false)
    | .got _ _ y t => ({ y with wrote := y.wrote + 1, fin := if x.bad then y.fin else y.fin + unit }, t, true)
  else if x.bad then
    (if [4, 5, 8].contains x.d.opc then (let (y, t) := noResult x s
                                         endPart y 0x30 t)
     else endPart x 0x30 s)
  else fin x.vals { x with vals := [], wrote := 0 } s

/-- The whole-line mask. -/
abbrev allBytes : BitVec 64 := BitVec.allOnes 64

/-- A line from 64 bytes. -/
def lineOf (bs : List Nat) : Line := BitVec.ofNat 512 (natOfBytes bs)

/-- The next part, or the end once LEN bytes are dealt with. -/
def nextPart (n code : Nat) (x : Running) (s : State) : Running × State × Bool :=
  let y := { x with pos := x.pos + n }
  if y.pos < y.d.len then (y, s, true) else endPart y code s

/-- COPY. -/
def partCopy (x : Running) : State → Running × State × Bool :=
  part [x.d.src + x.pos] (fun v => [(x.d.dst + x.pos, v.getD 0 0, allBytes)]) [x.d.dst + x.pos] 64 (fun _ y t => nextPart 64 0 y t) x

/-- FILL, and ZERO of a partial page. -/
def partFill (v : Line) (x : Running) : State → Running × State × Bool :=
  part [] (fun _ => [(x.d.dst + x.pos, v, allBytes)]) [] 64 (fun _ y t => nextPart 64 0 y t) x

/-- The 64-bit pattern repeated through a line. -/
def patternLine (imm : BitVec 128) : Line := lineOf ((List.range 64).map fun i => imm.toNat / 256 ^ (i % 8) % 256)

/-- The bytes of one line that fall into LEN bytes from `base`, at position `pos` of them; a part goes to the end of the line. -/
def span (base len pos : Nat) : Nat × Nat × Nat :=
  let a := base + pos
  let n := Nat.min (64 - a % 64) (len - pos)
  (a / 64 * 64, a % 64, n)

/-- Bytes `o` to `o + n` of a line. -/
def sliceBytes (v : Line) (o n : Nat) : List Nat := ((lineBytes v).drop o).take n

/-- CRC32C, continued from AUX; the running value is kept as CRC32C continues it. -/
def partCrc (x : Running) : State → Running × State × Bool :=
  let g := span x.d.src x.d.len x.pos
  part [g.1] (fun _ => []) [] 0 (fun v y t =>
    let seed := if y.pos = 0 then y.d.aux else y.res
    let c := Crypto.crc32cFrom seed ((sliceBytes (v.getD 0 0) g.2.1 g.2.2).map (BitVec.ofNat 8))
    nextPart g.2.2 0 { y with res := c, fin := y.fin + g.2.2 } t) x

/-- SHA256: the data gathered, then the digest written at RES. -/
def partSha (x : Running) : State → Running × State × Bool :=
  if x.pos < x.d.len then
    let g := span x.d.src x.d.len x.pos
    part [g.1] (fun _ => []) [] 0 (fun v y t =>
      ({ y with buf := y.buf ++ sliceBytes (v.getD 0 0) g.2.1 g.2.2, pos := y.pos + g.2.2, fin := y.fin + g.2.2 }, t, true)) x
  else
    let o := x.d.res % 64
    let v := lineOf (List.replicate o 0 ++ Crypto.sha256 x.buf)
    part [] (fun _ => [(x.d.res, v, BitVec.ofNat 64 ((2 ^ 32 - 1) * 2 ^ o))]) [] 0 (fun _ y t => endPart y 0 t) x

/-- COMPARE: up to the nearer end of the two lines. DONE of a difference counts the byte that differs (log entry 45). -/
def partCompare (x : Running) : State → Running × State × Bool :=
  let g := span x.d.src x.d.len x.pos
  let h := span x.d.dst x.d.len x.pos
  let n := Nat.min g.2.2 h.2.2
  part [g.1, h.1] (fun _ => []) [] 0 (fun v y t =>
    let a := sliceBytes (v.getD 0 0) g.2.1 n
    let b := sliceBytes (v.getD 1 0) h.2.1 n
    match (List.range n).find? fun i => a.getD i 0 != b.getD i 0 with
    | some i => endPart { y with res := y.pos + i, fin := y.pos + i + 1 } 1 t
    | none => nextPart n 0 { y with res := 0xFFFFFFFF, fin := y.fin + n } t) x

/-- The polynomial of the Reed–Solomon descriptors (R316). -/
abbrev rsPoly : Nat := 0x11D

/-- a(j, i) of R316: the Cauchy matrix, or the host's. -/
def Running.coef (x : Running) (j i : Nat) : Nat :=
  if x.d.mat then x.buf.getD (j * x.k + i) 0 else Crypto.gfInv rsPoly (j ^^^ (x.m + i))

/-- A linear combination of blocks' lines, byte by byte. -/
def combine (cs : List Nat) (ls : List Line) : Line :=
  let bs := ls.map lineBytes
  lineOf ((List.range 64).map fun b => (cs.zip bs).foldl (fun a e => a ^^^ Crypto.gfMul rsPoly e.1 (e.2.getD b 0)) 0)

/-- The bytes of a host matrix are read first. -/
def partMatrix (x : Running) : State → Running × State × Bool :=
  let g := span x.d.res (x.k * x.m) x.buf.length
  part [g.1] (fun _ => []) [] 0 (fun v y t => ({ y with buf := y.buf ++ sliceBytes (v.getD 0 0) g.2.1 g.2.2 }, t, true)) x

/-- Whether the host matrix is still to be read. -/
def Running.matrixLeft (x : Running) : Bool := x.d.mat && decide (x.buf.length < x.k * x.m)

/-- RS_ENC (R316). -/
def partRsEnc (x : Running) : State → Running × State × Bool :=
  if x.matrixLeft then partMatrix x
  else
    part ((List.range x.k).map fun i => x.d.src + i * x.d.aux + x.pos)
      (fun v => (List.range x.m).map fun j => (x.d.dst + j * x.d.aux + x.pos, combine ((List.range x.k).map (x.coef j)) v, allBytes)) [] 64
      (fun _ y t => nextPart 64 0 y t) x

/-- One row of a matrix scaled. -/
def scaleRow (c : Nat) (r : List Nat) : List Nat := r.map (Crypto.gfMul rsPoly c)

/-- Gauss–Jordan elimination of the first `n` columns of an augmented matrix; none where it is singular. -/
def eliminate : Nat → Nat → List (List Nat) → Option (List (List Nat))
  | 0, _, m => some m
  | n + 1, c, m =>
    match (List.range m.length).find? fun r => decide (c ≤ r) && (m.getD r []).getD c 0 != 0 with
    | none => none
    | some p =>
      let row := scaleRow (Crypto.gfInv rsPoly ((m.getD p []).getD c 0)) (m.getD p [])
      let sw := (m.set p (m.getD c [])).set c row
      let out := (List.range sw.length).map fun r =>
        let v := sw.getD r []
        if r = c then v else (v.zip (scaleRow (v.getD c 0) row)).map fun e => e.1 ^^^ e.2
      eliminate n (c + 1) out

/-- The K lowest-numbered blocks that are not erased (R317). -/
def Running.chosen (x : Running) : List Nat := ((List.range (x.k + x.m)).filter fun i => !x.erased.contains i).take x.k

/-- The coefficients that rebuild each erased block from the chosen ones; none where their matrix is singular. -/
def Running.rebuild (x : Running) : Option (List (List Nat)) :=
  let k := x.k
  let row := fun (b : Nat) => if b < k then (List.range k).map fun i => if i = b then 1 else 0 else (List.range k).map (x.coef (b - k))
  let aug := x.chosen.zipIdx.map fun e => row e.1 ++ (List.range k).map fun c => if c = e.2 then 1 else 0
  (eliminate k 0 aug).map fun m =>
    let inv := m.map (List.drop k)
    x.erased.map fun b =>
      if b < k then inv.getD b []
      else (List.range k).map fun c => (List.range k).foldl (fun a i => a ^^^ Crypto.gfMul rsPoly (x.coef (b - k) i) ((inv.getD i []).getD c 0)) 0

/-- RS_REC (R317). -/
def partRsRec (x : Running) (s : State) : Running × State × Bool :=
  if x.matrixLeft then partMatrix x s
  else if x.mat.isEmpty && !x.erased.isEmpty then
    match x.rebuild with
    | none => endPart x 0x23 s
    | some m => ({ x with mat := m }, s, true)
  else
    let dst := x.erased.map fun b => x.d.src + b * x.d.aux + x.pos
    part (if x.erased.isEmpty then [] else x.chosen.map fun b => x.d.src + b * x.d.aux + x.pos)
      (fun v => dst.zip (x.mat.map fun c => (combine c v, allBytes))) dst 64
      (fun _ y t => nextPart 64 0 { y with res := y.erased.length } t) x s

/-- The operation that AUX selects (R319): word operation and width. -/
def batchOp : Nat → WordOp × Nat
  | 0 => (.add, 8)
  | 1 => (.add, 4)
  | 2 => (.or, 8)
  | 3 => (.and, 8)
  | 4 => (.xor, 8)
  | 5 => (.maxU, 8)
  | _ => (.minU, 8)

/-- ATOMIC_BATCH (R319): the entry at the position is read from the list, then executed; a target that is not aligned ends the batch with 0x21 (log
entry 45). A batch that met poisoned targets ends with 0x30. -/
def partAtomic (x : Running) (s : State) : Running × State × Bool :=
  let k := s.fld (Reg.NMR_CFG_LD x.ring)
  match x.vals with
  | [] =>
    (match engRead x k (x.d.src + x.pos) s with
     | .stop c => endPart x c s
     | .wait y t => (y, t, false)
     | .got v bad y t => if bad then endPart y 0x30 t else ({ y with vals := [v] }, t, true))
  | v :: _ =>
    let e := sliceBytes v ((x.d.src + x.pos) % 64) 16
    let target := natOfBytes (e.take 8)
    let (op, w) := batchOp x.d.aux
    if target % w ≠ 0 then endPart x 0x21 s
    else
      let o : AtomicOp := { op := op, off := target % 64, bytes := w, operand := BitVec.ofNat 128 (natOfBytes (e.drop 8)), compare := 0 }
      match engAtomic x k target o s with
      | .stop c => endPart x c s
      | .wait y t => (y, t, false)
      | .got _ bad y t =>
        let z := if bad then { y with res := y.res + 1 } else { y with fin := y.fin + 1 }
        let keep := (x.d.src + x.pos) % 64 != 48
        nextPart 16 (if z.res = 0 then 0 else 0x30) { z with vals := if keep then z.vals else [] } t

/-- The first line of page `p` that a host still holds, as an engine write finds it. -/
def State.heldLine (s : State) (n k a : Nat) : Option Nat :=
  ((List.range 64).map fun l => a + 64 * l).find? fun b =>
    let r := s.engineReq n k b 0 .write 0 allBytes false
    !(snoopPlan r (s.filter (lineAddr r.gpn r.line))).targets.isEmpty

/-- ZERO (R318): a whole page has its host copies invalidated, line by line, and is discarded; it waits for a line event of the page that is
open, and where an operation is open it retries under R75. Other lines are written with zeros. -/
def partZero (x : Running) (s : State) : Running × State × Bool :=
  let k := s.fld (Reg.NMR_CFG_LD x.ring)
  let a := x.d.dst + x.pos
  let p := s.gpnOf k a
  if a % 4096 = 0 ∧ x.pos + 4096 ≤ x.d.len then
    if !s.inCapacity k a then endPart x 0x22 s
    else if x.asked then
      (match x.waits with
       | some id =>
         if s.replies.any fun q => q.req.id == id then ({ x with waits := none }, { s with replies := s.replies.filter fun q => q.req.id != id }, true) else (x, s, false)
       | none =>
         if (s.opOf p).any fun o => o.kind == .discard then (x, s, false)
         else nextPart 4096 0 { x with asked := false, res := x.res + 1, fin := x.fin + 4096 } s)
    else if s.isFrozen k a then endPart x 0x11 s
    else match x.waits, s.heldLine x.eng k a with
      | some id, _ =>
        (match takeAnswer x id s with
         | .got _ _ y t => (y, t, true)
         | _ => (x, s, false))
      | none, some b =>
        (match engWrite x k b 0 allBytes false s with
         | .got _ _ y t => (y, t, true)
         | .wait y t => (y, t, false)
         | .stop c => endPart x c s)
      | none, none =>
        if !s.reachable k a || (s.slice (s.home p)).txns.any (fun t => t.req.gpn == p) || decide (2 ≤ s.fld Reg.PWR_STS_STATE) then (x, s, false)
        else if !s.mayOpen p then
          let (id, t) := queueOpOf (.engine x.eng) .discard p (16 + x.eng) s
          ({ x with asked := true, waits := some id }, t, false)
        else nextPart 4096 0 { x with res := x.res + 1, fin := x.fin + 4096 } (if (s.entry p).state = 0 then s else discardCommit p s)
  else partFill 0 x s

/-- What a hint for one page came to (R131, R320): not acted on, refused for want of a free shed frame, acted on, or waiting for an operation of kind `k` of a page
that cannot open one now. -/
inductive HintResult where
  | none
  | short
  | acted (s : State)
  | busy (k : OpKind)

/-- The hint for one page (R131, R133, R320). -/
def hintPage (promote : Bool) (p port : Nat) (s : State) : HintResult :=
  let m := s.entry p
  if promote then
    if m.state ≠ 1 ∨ m.scnt = 0 then .none
    else match s.shedFor p with
      | none => .short
      | some f => if s.mayOpen p then .acted (beginOp .promotion p port (some f) s) else .busy .promotion
  else if m.pin || decide (m.state < 2) then .none
  else if m.state = 2 then (if s.mayOpen p then .acted (grantRelease p s) else .busy .release)
  else
    let s1 := s.onHot fun h => { h with hints := if h.hints.contains p then h.hints else h.hints ++ [p] }
    .acted (if (s.opOf p).any fun o => o.kind == .writeback then s1 else cleanPage p port s1)

/-- TIER_HINT (R320): hints wait while a switch of the tiering mode is pending (Table 16.4); an operation that a page cannot open now is asked for, and the descriptor
waits for the slice's answer (R75). -/
def partHint (x : Running) (s : State) : Running × State × Bool :=
  let k := s.fld (Reg.NMR_CFG_LD x.ring)
  let a := x.d.src + x.pos
  let p := s.gpnOf k a
  let port := 16 + x.eng
  let ends := fun (acted short : Bool) (t : State) =>
    let y := { x with waits := none, res := x.res + acted.toNat, fin := x.fin + 1, bad := x.bad || short }
    nextPart 4096 (if y.bad then 0x12 else 0) y t
  match x.waits with
  | some id =>
    (match s.replies.find? fun q => q.req.id == id with
     | none => (x, s, false)
     | some q => ends (q.kind != .refused) (q.kind == .refused) { s with replies := s.replies.filter fun q => q.req.id != id })
  | none =>
    if !s.inCapacity k a then endPart x 0x22 s
    else if s.switching 0 then (x, s, false)
    else match hintPage (x.d.aux == 0) p port s with
      | .none => ends false false s
      | .short => ends false true s
      | .acted t => ends true false t
      | .busy op =>
        let (id, t) := queueOpOf (.engine x.eng) op p port s
        ({ x with waits := some id }, t, false)

/-- At least as many parts as a descriptor has. -/
def fuelOf (d : Descriptor) : Nat := (d.len / 16 + 80) * 48

/-- A running descriptor with opcode `opc` is worked on. -/
def runWith (opc : Nat) (f : Running → State → Running × State × Bool) (r idx : Nat) (s : State) : State :=
  match s.run r idx with
  | none => s
  | some x =>
    if x.started && x.ended.isNone && x.d.opc == opc then
      let (y, t) := engLoop f (fuelOf x.d) x s
      putRun y t
    else s

/-- NOP. -/
def execNop (r : Fin 256) (idx : Nat) (s : State) : Res := done (runWith 0 (fun x t => endPart x 0 t) r idx s)

/-- COPY (R315, R327). -/
def execCopy (r : Fin 256) (idx : Nat) (s : State) : Res := done (runWith 1 partCopy r idx s)

/-- FILL (R315). -/
def execFill (r : Fin 256) (idx : Nat) (s : State) : Res := done (runWith 2 (fun x => partFill (patternLine x.d.imm) x) r idx s)

/-- ZERO (R318). -/
def execZero (r : Fin 256) (idx : Nat) (s : State) : Res := done (runWith 3 partZero r idx s)

/-- CRC32C (R315). -/
def execCrc32c (r : Fin 256) (idx : Nat) (s : State) : Res := done (runWith 4 partCrc r idx s)

/-- SHA256 (R315). -/
def execSha256 (r : Fin 256) (idx : Nat) (s : State) : Res := done (runWith 5 partSha r idx s)

/-- RS_ENC (R316). -/
def execRsEnc (r : Fin 256) (idx : Nat) (s : State) : Res := done (runWith 6 partRsEnc r idx s)

/-- RS_REC (R317). -/
def execRsRec (r : Fin 256) (idx : Nat) (s : State) : Res := done (runWith 7 partRsRec r idx s)

/-- COMPARE (R315). -/
def execCompare (r : Fin 256) (idx : Nat) (s : State) : Res := done (runWith 8 partCompare r idx s)

/-- ATOMIC_BATCH (R319). -/
def execAtomicBatch (r : Fin 256) (idx : Nat) (s : State) : Res := done (runWith 9 partAtomic r idx s)

/-- TIER_HINT (R320). -/
def execTierHint (r : Fin 256) (idx : Nat) (s : State) : Res := done (runWith 10 partHint r idx s)

/-! ### Completion records (R321, R322) -/

/-- The 16 bytes of a record (Table 10.4). -/
def recordBytes (x : Running) (e : Ending) (phase : Bool) : List Nat :=
  let le := fun (n v : Nat) => (List.range n).map fun i => v / 256 ^ i % 256
  le 4 x.d.tag ++ le 2 (e.status + (if phase then 32768 else 0)) ++ le 2 x.idx ++ le 4 e.result ++ le 4 e.done

/-- The record of descriptor `x` has been written: NMR_HEAD passes it, PHASE toggles when it wraps, the counters advance and the interrupt goes out. -/
def recorded (x : Running) (e : Ending) (s : State) : State :=
  let r := x.ring
  let h := (x.idx + 1) % (s.ring r).entries
  let s1 := touchDomain (122 + x.eng) ((s.onNme fun n => { n with running := n.running.filter fun y => !(y.ring == r && y.idx == x.idx) }).setFld (Reg.NMR_HEAD_HEAD r) h)
  let s2 := if h = 0 then s1.setBit (Reg.NMR_STS_PHASE r) (!s1.on (Reg.NMR_STS_PHASE r)) else s1
  let s3 := s2.count (Reg.NME_DONE_COUNT x.eng)
  let s4 := if halting e.status then s3.count (Reg.NME_CNT_ERRORS x.eng)
    else if 0x10 ≤ e.status then s3.count (Reg.NME_CNT_REFUSED x.eng) else s3
  if x.d.intr || halting e.status then s4.msix (s4.fld (Reg.NMR_CFG_LD r)) (s4.fld (Reg.NMR_CFG_VEC r)) else s4

/-- DESCRIPTOR_COMPLETE (R321): the record of ring `r`'s head index. A record that cannot be written (R310; in a frozen extent, log entry 45) halts the ring with 0x22,
and NMR_HEAD stays. -/
def execDescriptorComplete (r : Fin 256) (s : State) : Res :=
  match s.run r (s.fld (Reg.NMR_HEAD_HEAD r)) with
  | none => .next s
  | some x =>
    match x.ended with
    | none => .next s
    | some e =>
      let a := (s.ring r).cbase + 16 * x.idx
      let v := lineOf (List.replicate (a % 64) 0 ++ recordBytes x e (s.on (Reg.NMR_STS_PHASE r)))
      match engWrite x (s.fld (Reg.NMR_CFG_LD r)) a v (BitVec.ofNat 64 (65535 * 2 ^ (a % 64))) false s with
      | .stop _ => .next (haltRing r x.idx 0x22 s)
      | .wait y t => done (putRun y t)
      | .got _ _ y t => done (recorded y e t)

end Sys2Proof.Machine
end

