-- ==== Sys2Proof/Machine/Faults.lean ====
section
/-! DEFINITION. The commands of the fault collector: reports, the end of the first reaction, host decisions, the automatic return, clears, injection and
the SRAM scrubber (chapter 11). -/
namespace Sys2Proof.Machine

open Sys2Proof

/-- FAULT_REPORT (R331). -/
def execFaultReport (src inst : BitVec 8) (info : List Nat) (s : State) : Res := done (s.report src.toNat inst.toNat (info.take 4))

/-- FIRST_REACTION_DONE (R341): once the degraded operation of the first fault's row is in force, and for the rows of TMO_US + 10 µs that long after the
fence. -/
def execFirstReactionDone (s : State) : Res :=
  if !s.on Reg.FLT_FIRST_VALID || s.on Reg.FLT_FIRST_DONE || !s.effective then .next s
  else .next (firstDone (s.until (s.flt.firstAt + s.effectNs (s.fld Reg.FLT_FIRST_SRC))))

/-- The decision on a waiting report is code `c` (R334): where it is wider than the floor, which is in force already, its action is taken, and recorded. -/
def decideReport (c : Nat) (d : Decision) (s : State) : State :=
  let r := d.report
  let s1 := s.onFlt fun f => { f with awaiting := f.awaiting.filter fun x => !(x.report.src == r.src && x.report.inst == r.inst) }
  if c ≤ s.fld (Reg.FLT_REACT_FLOOR r.src) then s1
  else
    let mine := s1.on Reg.FLT_FIRST_VALID && s1.fld Reg.FLT_FIRST_SRC == r.src && s1.fld Reg.FLT_FIRST_INST == r.inst % 256
    let s2 := if mine then s1.setFld Reg.FLT_FIRST_ACT c else s1
    let s3 := react c r (record c false r s2)
    if mine then s3.onFlt fun f => { f with firstBlocks := (f.firstBlocks ++ (f.fenced.filter fun b => !s.flt.fenced.contains b) ++ if 3 ≤ c then s.blocksOf r else []).eraseDups }
    else s3

/-- The report of a source and instance that waits for a decision. -/
def State.waiting (s : State) (src inst : Nat) : Option Decision := s.flt.awaiting.find? fun d => d.report.src == src && d.report.inst == inst

/-- HOST_DECISION_TIMEOUT (R334): the module applies EFF itself. -/
def execHostDecisionTimeout (src inst : BitVec 8) (s : State) : Res :=
  match s.waiting src.toNat inst.toNat with
  | none => .next s
  | some d => done (decideReport (s.eff src.toNat) d (s.until d.due))

/-- The Level 3 reset that may return block `b` to service (R335): the block is powered for it. -/
def returnReset (b : Block) (s : State) : State :=
  let s1 := (s.onFlt fun f => { f with returnAt := f.returnAt.filter fun e => e.1 != b }).setCond b.dom .on
  blockSource 7 b.dom s1

/-- Whether block `b` was cut off by a failed crossing, which comes back at Level 4 or 5 only (R302, R335). -/
def State.cutOff (s : State) (b : Block) : Bool := s.noc.failed.any fun c => (s.crossingBlocks c).contains b

/-- AUTO_RETURN_TIMER (R335): in hardware mode with RETURN_EN, 1 s after the fence, once per block between Level 4 resets. -/
def execAutoReturnTimer (dom : Fin 144) (s : State) : Res :=
  let b := blockOfDomain dom
  match s.flt.returnAt.find? fun e => e.1 == b with
  | none => .next s
  | some e =>
    if !s.isFenced b || s.cutOff b || s.on Reg.FLT_CFG_MODE_ACT || !s.on Reg.FLT_CFG_RETURN_EN || s.flt.returned.contains b ||
        s.rst.blocks.any (fun x => x.dom == dom.val) then .next s
    else done (returnReset b ((s.until (e.2 + sec)).onFlt fun f => { f with returned := f.returned ++ [b] }))

/-- The first-error latch cleared where its reaction has taken full effect (R343). -/
def clearWhenDone (s : State) : State := if s.on Reg.FLT_FIRST_VALID && s.on Reg.FLT_FIRST_DONE then clearFirst s else s

/-- FIRST_ERROR_CLEAR (R343): ignored while DONE is 0. -/
def execFirstErrorClear (p : Path) (s : State) : Res :=
  done (plazaOnly p s clearWhenDone)

/-- SOURCE_PEND_CLEAR (R344): FAULT_N follows what remains. -/
def execSourcePendClear (p : Path) (k : Fin 64) (ovf : Bool) (s : State) : Res :=
  done (plazaOnly p s fun t =>
    let t1 := t.setFld (Reg.FLT_SSTS_PEND k) 0
    if ovf then t1.setFld (Reg.FLT_SSTS_OVF k) 0 else t1)

/-! ### Injection (R345, R346, Table 11.4) -/

/-- Whether the module has the block. -/
def State.hasBlock (s : State) (b : Block) : Bool :=
  match b with
  | .slice n => decide (n < 34)
  | .stitcher n | .channel n => decide (n < 16)
  | .engine n => decide (n < 8)
  | .slot ch z => decide (ch < 16) && z < 2 && s.slotState ch z != 0
  | .stack n => decide (n < 2)
  | .group st g => decide (st < 2) && decide (g < 8)
  | .crossing n => decide (n < 48)
  | .street n _ => decide (n < 48)
  | .head n => decide (n < 4) && s.present n
  | .domain d => decide (d < 144)
  | .plazaPair | .ctm | .dcm => true

/-- Whether the block is fenced; a DIMM slot while in STATE 6 or 7. -/
def State.blockFenced (s : State) (b : Block) : Bool :=
  match b with
  | .slot ch z => s.slotState ch z == 6 || s.slotState ch z == 7
  | b => s.isFenced b

/-- Whether instance `inst` of source `src` is absent or fenced (FLT_FORCE_STS, code 4). -/
def State.noInstance (s : State) (src inst : Nat) : Bool :=
  let bs := s.blocksOf { src := src, inst := inst }
  let single := [0x0E, 0x0F, 0x1D, 0x20, 0x21, 0x24, 0x25, 0x2B, 0x2D, 0x2E, 0x2F, 0x30, 0x31, 0x32, 0x33]
  (bs.any fun b => !s.hasBlock b || s.blockFenced b) || (single.contains src && inst != 0) || (src == 0x26 && decide (3 < inst)) ||
  (src == 0x2A && decide (1 < inst)) || (src == 0x27 && decide (100 < inst)) || (src == 0x0D && decide (33 < inst)) ||
  ([0x1F, 0x22, 0x23, 0x34].contains src && decide (143 < inst) && !(inst == 255 && src != 0x34))

/-- The outcome of an attempt. -/
def forceCode (c : Nat) (s : State) : State := s.setFld Reg.FLT_FORCE_STS_CODE c

/-- A forced report (R345, class A). -/
def forceReport (src inst : Nat) (s : State) : State :=
  if s.lifeCycle = 3 then forceCode 1 s
  else if !knownSource src then forceCode 3 s
  else if s.lifeCycle = 2 ∧ 6 ≤ s.eff src then forceCode 2 s
  else if s.noInstance src inst then forceCode 4 s
  else
    let s1 := (forceCode 0 s).count Reg.FLT_FORCE_STS_COUNT
    s1.onFlt fun f => { f with inbox := f.inbox ++ [{ src := src, inst := inst, inj := true, forced := true }] }

/-- FORCE_REPORT (R345): FLT_FORCE with GO. SRC has six bits. -/
def execForceReport (p : Path) (src inst : BitVec 8) (s : State) : Res :=
  done (plazaOnly p s (forceReport (src.toNat % 64) inst.toNat))

/-- Whether the instance of injection target `tgt` is absent or fenced (Table 11.4). -/
def State.noTarget (s : State) (tgt inst : Nat) : Bool :=
  let bad := fun (b : Block) => !s.hasBlock b || s.blockFenced b
  match tgt with
  | 1 | 2 | 3 => bad (.channel inst)
  | 4 | 5 => bad (.group (inst / 8) (inst % 8)) || bad (.stack (inst / 8))
  | 6 => bad (.crossing inst)
  | 7 => decide (97 < inst) || bad (s.epOwner inst)
  | 8 => bad (.slice inst)
  | 12 => inst != 0 || s.isFenced .plazaPair
  | 13 => decide (103 < inst) || (s.clockBlocks inst).any bad
  | 15 => bad (.slot (inst / 2) (inst % 2))
  | _ => false

/-- What a Class F target that acts at once does: a core-pair mismatch, a clock monitor's failure, a slot eFuse trip. -/
def injectNow (tgt inst : Nat) (s : State) : State :=
  match tgt with
  | 12 => (fire s).reportInj 0x20 0
  | 13 => ((fire s).setBitOf (Reg.CLK_DOM_FAIL_FAIL (inst / 32)) (inst % 32) true).reportInj 0x27 inst
  | 15 => (trip (4 + inst) 1 (fire s)).onFlt fun f => { f with inbox := f.inbox.map fun r => { r with inj := true } }
  | _ => s

/-- FLT_INJ armed (R345, classes B and F). -/
def armInjection (tgt inst bit : Nat) (s : State) : State :=
  if tgt = 0 ∨ 9 ≤ tgt ∧ tgt ≤ 11 then forceCode 3 s
  else if (tgt ≤ 8 ∧ 2 ≤ s.lifeCycle) ∨ (12 ≤ tgt ∧ s.lifeCycle ≠ 0) then forceCode 1 s
  else if s.noTarget tgt inst then forceCode 4 s
  else
    let s1 := ((forceCode 0 s).count Reg.FLT_FORCE_STS_COUNT).setFld Reg.FLT_FORCE_STS_FIRED 0
    let s2 := (((s1.setFld Reg.FLT_INJ_ARM 1).setFld Reg.FLT_INJ_TGT tgt).setFld Reg.FLT_INJ_INST inst).setFld Reg.FLT_INJ_BIT bit
    injectNow tgt inst s2

/-- ARM_INJECTION (R345): FLT_INJ with ARM. -/
def execArmInjection (p : Path) (tgt : BitVec 4) (inst bit : BitVec 8) (s : State) : Res :=
  done (plazaOnly p s (armInjection tgt.toNat inst.toNat bit.toNat))

/-! ### The SRAM scrubber (R347 to R351) -/

/-- What the scrubber makes of the wrong bits of a parity block (R348, R351). -/
inductive Scrubbed where
  | clean
  | mended (corrected : Bool)
  | lost
  deriving DecidableEq, Repr

/-- The wrong bits (word, bit) judged: words that fail their row parity hold an odd number of them, and the column syndrome is the parity of each data bit
over the 64 words and the column-parity word. -/
def scrubBlock (bad : List (Nat × Nat)) : Scrubbed :=
  let wrong := bad.eraseDups
  let rows := (List.range 64).filter fun w => (wrong.filter fun e => e.1 == w).length % 2 == 1
  let cols := ((wrong.filter fun e => e.2 != 0).map Prod.snd).eraseDups.filter fun b => (wrong.filter fun e => e.2 == b).length % 2 == 1
  match rows, cols with
  | [], [] => .clean
  | [], [_] => .mended false
  | [_], [] | [_], [_] => .mended true
  | _, _ => .lost

/-- Whether an SRAM of power domain `d` holds parity blocks that keep their contents now (R347, R351): the domain is powered; the TP7 and the vault always are. The layout-store
SRAM is checked by CRC. -/
def State.sramPowered (s : State) (d : Nat) : Bool := decide (d ≠ 142) && ((s.cond d).powered || [133, 134, 0xFF].contains d)

/-- The wrong bits standing in the parity block under key `k`. -/
def State.sramBad (s : State) (k : Nat) : List (Nat × Nat) := SMap.get [] s.flt.sram k
def setSramBad (k : Nat) (l : List (Nat × Nat)) (s : State) : State := s.onFlt fun f => { f with sram := SMap.put [] f.sram k l }

/-- The bits of `l` in which exactly one of two lists of wrong bits differs from the other: a wrong bit that goes wrong again is right. -/
def flipBits (l new : List (Nat × Nat)) : List (Nat × Nat) := (l.filter fun e => !new.contains e) ++ new.filter fun e => !l.contains e

/-- Whether word `w` fails its row parity. -/
def rowFails (l : List (Nat × Nat)) (w : Nat) : Bool := (l.filter fun e => e.1 == w).length % 2 == 1

/-- A use of word `w` of parity block `place` of domain `d` (R348, R350): where its row parity fails the whole block is read; one bit is mended in the output and reported each
time, the stored word keeping it; anything else is reported as not correctable. -/
def useWord (d place w : Nat) (s : State) : State :=
  let l := s.sramBad (d * 2 ^ 32 + place)
  if rowFails l w then
    (match scrubBlock l with
     | .lost => s.report 0x23 d [place]
     | _ => s.report 0x22 d [place])
  else s

/-- A write of word `w` (R347): the column-parity word takes the old word as it is read; where that one was not correctable its wrong bits spread into it. -/
def sramWrite (w : Nat) (l : List (Nat × Nat)) : List (Nat × Nat) :=
  let rest := l.filter fun e => e.1 != w
  let spread := rowFails l w && scrubBlock l == .lost || !rowFails l w
  if spread then flipBits rest ((l.filter fun e => e.1 == w && e.2 != 0).map fun e => (64, e.2)) else rest

/-- The scrubber's visit to a parity block (R351): a word that one bit mends is rewritten, and so is a wrong column-parity word; anything else is reported as not
correctable. -/
def scrubVisit (d place : Nat) (s : State) : State :=
  let k := d * 2 ^ 32 + place
  match scrubBlock (s.sramBad k) with
  | .clean => s.unexpose fun e => e.src == 0x22 && e.inst == k
  | .lost => s.report 0x23 d [place]
  | .mended corrected =>
    let s1 := if corrected then settle (s.report 0x22 d [place]) else s
    ((setSramBad k [] s1).count Reg.FLT_SCRUB_MENDED).unexpose fun e => e.src == 0x22 && e.inst == k

/-- SRAM_SCRUB_VISIT (R347, R348, R350, R351): bits of a parity block go wrong in its SRAM, and the block is visited by the scrubber, or one of its words is read or written. -/
def execSramScrubVisit (dom : Option (Fin 144)) (array blk : Nat) (bad : List (Fin 65 × Nat)) (act : SramAct) (s : State) : Res :=
  let d := dom.elim 0xFF Fin.val
  let place := array % 65536 + blk % 65536 * 65536
  let k := d * 2 ^ 32 + place
  if !s.sramPowered d then .next s
  else
    let s1 := setSramBad k (flipBits (s.sramBad k) ((bad.map fun e => (e.1.val, e.2)).eraseDups)) s
    match act with
    | .scrub last => done (if last then (scrubVisit d place s1).count Reg.FLT_SCRUB_PASSES else scrubVisit d place s1)
    | .read w => done (useWord d place w.val s1)
    | .write w => done (setSramBad k (sramWrite w.val (s1.sramBad k)) (useWord d place w.val s1))

end Sys2Proof.Machine
end

