-- ==== Sys2Proof/Machine/Grid.lean ====
section
/-! DEFINITION. The meanings of the street grid's commands (chapter 09). -/
namespace Sys2Proof.Machine

open Sys2Proof

/-- A packet that the block at local port `port` of crossing `c` has to send enters the street grid at the port that R287 chooses, under the route epoch in force, where that
port's input buffer has room; the port is its source. -/
def injectPacket (c : Nat) (i : PacketIn) (s : State) : State :=
  match epAt c i.port with
  | none => s
  | some ep =>
    let p := s.stamped i.pkt i.start i.bound
    let e := s.injectEp ep p
    let q := { p with repoch := s.noc.epoch, src := e }
    let k := bufKey (epCrossing e) (4 + epPort e) q
    if s.bufRoom k q then countInject q (pushBuf k q s) else s

/-- The rank of R293 of a candidate of output `o`, smaller first; `lane` is its lane after escalation. -/
def State.pktRank (s : State) (c o : Nat) (x : Nat × Nat × Packet) : Nat :=
  let p := x.2.2
  let rr := SMap.get 0 s.noc.rr ((c * 7 + o) * 3 + clsCode p.cls)
  (((3 - s.raisedLane p) * 2 + p.be.toNat) * 3 + (2 - clsCode p.cls)) * 7 + (x.2.1 + 7 - rr) % 7

/-- Where a candidate goes from output `o` of crossing `c`: the next input buffer, with the packet on its raised lane; none for a local output. -/
def State.hop (s : State) (c o : Nat) (p : Packet) : Option (Nat × Packet) :=
  let q := { p with lane := s.raisedLane p }
  (neighbour c o).map fun n => (bufKey n (opposite o) q, q)

/-- Whether output `o` of crossing `c` can send packet `p` now (R291): the next buffer has room, or the street is down and the packet is discarded. -/
def State.canSend (s : State) (c o : Nat) (p : Packet) : Bool :=
  if 4 ≤ o then true
  else if s.noc.down.contains (4 * c + o) then true
  else match s.hop c o p with
    | some (k, q) => s.bufRoom k q
    | none => true

/-- Whether packet `p` leaves crossing `c` by output `o`; an entry of FENCED is answered at the endpoint's own port number. -/
def State.leavesBy (s : State) (c o : Nat) (p : Packet) : Bool :=
  let v := s.outputOf c p
  v == o || (v == 7 && o == 4 + epPort p.dst)

/-- A packet crosses the street from crossing `c` in direction `d` into buffer `k` (R290, R302): a flit that fails its CRC is replayed, and counted; with the fourth replay that fails
in a row the street is down, and the packet is discarded. -/
def crossStreet (c d fails k : Nat) (q : Packet) (s : State) : State :=
  let s1 := forAll (List.range fails) s fun t _ => t.count Reg.NOC_REPLAY_COUNT
  if fails = 4 then ((streetDown c d s1).report 0x15 c [c, d]).count Reg.NOC_DROP_DOWN
  else
    let s2 := pushBuf k q s1
    if s2.armed 6 c && s2.fld Reg.FLT_INJ_BIT == d then (fire s2).count Reg.NOC_REPLAY_COUNT else s2

/-- PACKET_FORWARD (R287, R290 to R293, R298, R302, R303): the first packet in the order of R293 moves on, on its raised lane. At a street that is down it is
discarded; at a closed gate a REQ waits and wakes its domain; for a fenced endpoint the crossing answers. -/
def execPacketForward (c : Fin 48) (o : Fin 7) (inject : Option PacketIn) (s : State) (fails : Fin 5 := 0) : Res :=
  if s.noc.failed.contains c.val then .next s
  else
    let s1 := match inject with
      | some i => injectPacket c i s
      | none => s
    let cs := (s1.candidates c).filter fun x => s1.leavesBy c o x.2.2 && s1.canSend c o x.2.2
    match cs.foldl (fun (a : Option (Nat × Nat × Packet)) x => match a with
        | none => some x
        | some y => if s1.pktRank c o x < s1.pktRank c o y then some x else some y) none with
    | none => .next s1
    | some (k, port, p) =>
      let s2 := (popBuf k s1).onNoc fun n => { n with rr := SMap.put 0 n.rr ((c * 7 + o) * 3 + clsCode p.cls) ((port + 1) % 7) }
      if 4 ≤ o.val then
        if s1.outputOf c p = 7 then
          (match p.cls with
           | .req => .next (crossingAnswer c p s2)
           | _ => .next (s2.count Reg.NOC_DROP_FENCED))
        else
          match toLocal c (o - 4) { p with lane := s1.raisedLane p } s2 with
          | (some d, s3) => .next (wakeDomain d (s3.count Reg.PWR_WAIT_CNT_COUNT))
          | (none, s3) => done s3
      else if s1.noc.down.contains (4 * c.val + o.val) then .next (s2.count Reg.NOC_DROP_DOWN)
      else match s1.hop c o p with
        | some (k', q) => if fails = 0 then .next (crossStreet c o 0 k' q s2) else done (crossStreet c o fails k' q s2)
        | none => .next (s2.count Reg.NOC_DROP_DOWN)

/-- The packet that is ejected when the bits `err` of its header have gone wrong; none where HCHK finds it, or its class is the reserved one (R290). -/
def ejected (p : Packet) (err : BitVec 128) : Option Packet :=
  if err = 0 then some p else if headerHolds (packHeader p ^^^ err) then readHeader (packHeader p ^^^ err) else none

/-- PACKET_EJECT (R290, R303, R305, R439, R519): a packet that fails HCHK is discarded and reported; a response of another transaction epoch is
discarded and counted, by the head where it is one. -/
def execPacketEject (c : Fin 48) (o : Fin 3) (err : BitVec 128) (s : State) : Res :=
  match epAt c o with
  | none => .next s
  | some ep =>
    match SMap.get [] s.noc.outs ep with
    | [] => .next s
    | q :: rest =>
      let s1 := s.onNoc fun n => { n with outs := SMap.put [] n.outs ep rest }
      if s1.armed 7 ep then done ((fire s1).reportInj 0x14 c [q.pkt.src, q.pkt.dst, q.pkt.mport, q.pkt.tag])
      else match ejected q.pkt err with
        | none => done (s1.report 0x14 c [q.pkt.src, q.pkt.dst, q.pkt.mport, q.pkt.tag])
        | some p =>
          match p.cls with
          | .rsp =>
            if p.tepoch ≠ s.epEpoch ep then
              (match s.epOwner ep with
               | .head h => .next (s1.count (Reg.HPA_STALE_CNT_COUNT h))
               | _ => .next (s1.count Reg.NOC_DROP_STALE))
            else .next (countEject p s1)
          | _ => .next s1

/-- Whether some home slice holds request `id`, or a reply to it is under way. -/
def State.answered (s : State) (id : Nat) : Bool :=
  (s.sliceOfTxn id).isSome || s.replies.any fun r => r.req.id == id

/-- REQUEST_REISSUE_TIMEOUT (R301): a request with no answer after TMO_US goes out again with RETRY = 1; for a write already accepted it is a status
query, answered when the write completes. -/
def execRequestReissueTimeout (id : Nat) (s : State) : Res :=
  let entries := (List.range 4).filterMap fun h => (s.penEntry h id).map fun e => (h, e)
  let again := fun (r : Req) (t : State) => { t with flight := t.flight.filter (fun q => q.id != id) ++ [{ r with retry := true }] }
  match entries with
  | (_, e) :: _ =>
    if e.phase = .injected ∧ s.answered id = false then
      .next (again e.req ((s.until (Nat.max e.req.t0 e.req.nackAt + s.reissueNs)).count Reg.NOC_REISSUE_COUNT))
    else .next s
  | [] =>
    match s.flight.find? fun r => r.id == id && r.nackAt == 0 with
    | some r => .next (again r ((s.until (r.t0 + s.reissueNs)).count Reg.NOC_REISSUE_COUNT))
    | none =>
      if (s.sliceOfTxn id).isSome then .next (s.count Reg.NOC_REISSUE_COUNT) else .next s

/-- STREET_SILENCE (R302): the street that arrives at crossing `c` from direction `d` is down; a crossing with two streets down, or whose self-check
fails, has failed. -/
def execStreetSilence (c : Fin 48) (d : Fin 4) (selfCheck : Bool) (s : State) : Res :=
  match neighbour c d with
  | none => if selfCheck && !s.noc.failed.contains c.val then done ((crossingFail c s).report 0x16 c) else .next s
  | some n =>
    let fresh := !s.noc.down.contains (4 * n + opposite d)
    let s1 := if fresh then (streetDown n (opposite d) s).report 0x15 n [n, opposite d] else s
    let bad := ([c.val, n].filter fun x => !s1.noc.failed.contains x && (decide (2 ≤ s1.streetsDown x) || (x == c.val && selfCheck)))
    done (forAll bad s1 fun t x => (crossingFail x t).report 0x16 x)

/-- NOC_RT_DATA written with `v` (R299): it goes to the shadow copy of the entry that NOC_RT_ADDR selects. -/
def writeRoute (v : Nat) (s : State) : State :=
  let node := s.fld Reg.NOC_RT_ADDR_NODE
  let entry := s.fld Reg.NOC_RT_ADDR_ENTRY
  let inj := s.on Reg.NOC_RT_ADDR_INJ
  if (if inj then node < 98 ∧ entry < 32 else node < 48 ∧ entry < 98) ∧ s.on Reg.NOC_RT_CTL_BUSY = false then
    (setRoute (!s.noc.epoch) inj node entry (v % 128) s).setFld Reg.NOC_RT_CTL_CHECK_FAIL 0
  else s

/-- NOC_RT_CTL.FLIP written with 1 (R295, R300): the shadow set is checked, and a set that passes is flipped to; nothing while BUSY = 1. -/
def commandFlip (s : State) : State :=
  if s.on Reg.NOC_RT_CTL_BUSY then s
  else if s.routesAcyclic (!s.noc.epoch) then flipRoutes s
  else s.setFld Reg.NOC_RT_CTL_CHECK_FAIL 1

/-- ROUTE_TABLE_WRITE (R299): from the plaza only. -/
def execRouteTableWrite (p : Path) (v : BitVec 32) (s : State) : Res := done (plazaOnly p s (writeRoute v.toNat))

/-- ROUTE_FLIP (R295, R300): from the plaza only. -/
def execRouteFlip (p : Path) (s : State) : Res := done (plazaOnly p s commandFlip)

/-- ROUTE_DRAINED (R300): after the last declaration the guard of 10 µs starts. -/
def execRouteDrained (c : Fin 48) (s : State) : Res :=
  if s.noc.flipping && !s.noc.declared.contains c.val && s.drainedAt c then
    let s1 := s.onNoc fun n => { n with declared := n.declared ++ [c.val] }
    let all := (List.range 48).all fun x => s1.noc.declared.contains x || s1.noc.failed.contains x
    .next (if all then s1.onNoc fun n => { n with guard := some (s.clk + 10000) } else s1)
  else .next s

/-- ROUTE_GUARD_EXPIRY (R300, Table 3.6): the old copies are released and BUSY clears; takeovers that this flip served go on, and those that waited for
a route change get theirs. -/
def execRouteGuardExpiry (s : State) : Res :=
  match s.noc.guard with
  | none => .next s
  | some t =>
    let s1 := ((s.until t).onNoc fun n => { n with flipping := false, declared := [], guard := none }).setFld Reg.NOC_RT_CTL_BUSY 0
    .next (rerouteTakeovers (forAll s1.takeovers s1 takeoverGuard))

end Sys2Proof.Machine
end

