-- ==== Sys2Proof/Machine/Heads.lean ====
section
/-! DEFINITION. The meanings of the heads' commands: host accesses, the holding pen, links, IDE and dynamic capacity (chapters 02, 03 and 05). -/
namespace Sys2Proof.Machine

open Sys2Proof

/-- A data-path request reaches head `h` (R366, R374, R375): the idle time restarts, and Doze or Keep is left; the request waits for that. -/
def dataWake (h : Nat) (s : State) : State :=
  let s1 := s.onPwr fun p => { p with idleSince := s.clk, inBurst := false }
  if s.fld Reg.PWR_STS_STATE < 2 ∧ s.pwr.move == .none then s1
  else serveWake (takeWake 1 h none (s1.count Reg.PWR_WAIT_CNT_COUNT))

/-- The flits of a request reach head `h` over its link (R38): those that FEC corrected and those that were replayed after a CRC failure are counted. -/
def flitsArrive (h : Nat) (arr : Arrival) (s : State) : State :=
  if s.headLive h && s.linkUp h then (s.count (Reg.HPA_FEC_CNT_COUNT h) arr.fec).count (Reg.HPA_REPLAY_CNT_COUNT h) arr.replays else s

/-- A CXL.mem request as head `h` takes it (R39, R44, R54, R60): it must come over a link with CXL.mem active for a presented LD; on a secure stream a
sequence whose MAC fails is discarded. -/
def takeMem (h k hpa : Nat) (kind : ReqKind) (data : Line) (mask : BitVec 64) (poison : Bool) (m : MetaValue) (tag : Nat) (macOk : Bool) (s : State) : State :=
  if !s.takes h || !s.on (Reg.HPA_LINK_STS_CXL_MEM h) || !s.bitOf (Reg.HPA_LD_ACT_LD_ACTIVE h) k then s
  else if s.fld (Reg.HPA_IDE_STS_MEM_STATE h) = 2 ∧ macOk = false then macFailure h .mem s
  else if kind = .write ∧ (s.head h).hostViral = true then s
  else request h k (s.dpaOf k hpa) kind data mask poison m tag (dataWake h s)

/-- A CXL.mem request, all of whose flits have arrived whole (R38). -/
def hostMem (h k hpa : Nat) (kind : ReqKind) (data : Line) (mask : BitVec 64) (poison : Bool) (m : MetaValue) (tag : Nat) (arr : Arrival) (s : State) : State :=
  takeMem h k hpa kind data mask poison m tag arr.macOk (flitsArrive h arr s)

/-- HOST_MEM_READ (R44, R45). -/
def execHostMemRead (h : Fin 4) (ld : Fin 16) (hpa : Nat) (m : MetaValue) (tag : Nat) (arr : Arrival) (s : State) : Res :=
  done (hostMem h ld hpa .read 0 0 false m tag arr s)

/-- HOST_MEM_WRITE (R54, R67, R182). -/
def execHostMemWrite (h : Fin 4) (ld : Fin 16) (hpa : Nat) (m : MetaValue) (tag : Nat) (data : BitVec 512) (mask : BitVec 64) (poison : Bool)
    (arr : Arrival) (s : State) : Res :=
  done (hostMem h ld hpa .write data mask poison m tag arr s)

/-- The AtomicOp of R99 at offset `x` of the window, where it is one of those that BAR4 accepts: its width and natural alignment. -/
def bar4Op (x : Nat) : AtomicKind × Nat × BitVec 128 × BitVec 128 → Option AtomicOp
  | (k, b, v, c) =>
    let widths := match k with
      | .cas => [4, 8, 16]
      | _ => [4, 8]
    let op := match k with
      | .fetchAdd => WordOp.fetchAdd
      | .swap => WordOp.swap
      | .cas => WordOp.cas
    if widths.contains b ∧ x % b = 0 ∧ x < gib then some { op := op, off := x % 64, bytes := b, operand := v, compare := c } else none

/-- BAR4_ATOMICOP (R98, R99). Under the host's Viral it is carried out: R67 drops later writes, and does not say whether an AtomicOp is one (DESIGN CHOICE,
log entry 91). -/
def execBar4AtomicOp (h : Fin 4) (x tag : Nat) (op : Option (AtomicKind × Nat × BitVec 128 × BitVec 128)) (s : State) : Res :=
  let k := s.fld (Reg.HSC_AWIN_LD h)
  if !s.takes h then .next s
  else match op.bind (bar4Op x) with
    | none => .next (s.emit (.unsupported h tag))
    | some o =>
      if !s.on (Reg.HSC_AWIN_EN h) || !s.bitOf (Reg.HPA_CFG_LD_MASK h) k then .next (s.emit (.unsupported h tag))
      else done (request h k (some (s.fld (Reg.HSC_AWIN_DPA_GIB h) * gib + x)) (.atomic o true) 0 0 false .invalid tag (dataWake h s))

/-! ### The holding pen -/

/-- The oldest reply under way for request `id` that satisfies `p`, and the state without it. -/
def takeReply (id : Nat) (p : Reply → Bool) (s : State) : Option (Reply × State) :=
  let q := fun (r : Reply) => r.req.id == id && p r
  match s.replies.find? q with
  | none => none
  | some r => some (r, { s with replies := s.replies.eraseP q })

/-- Whether request `r` belongs to head `h`. -/
def Req.ofHead (r : Req) (h : Nat) : Bool :=
  match r.agent with
  | .host g _ => g == h
  | _ => false

/-- PEN_ENTRY_FREE (R60, R61): releases that waited for the entry complete (R50). -/
def execPenEntryFree (h : Fin 4) (id : Nat) (s : State) : Res :=
  match takeReply id (fun r => r.req.ofHead h && r.kind == .accepted) s with
  | none => .next s
  | some (_, s1) => done (forAll (List.range 16) (penFree h id s1) finishReleases)

/-- The back-off of R62 and R75 after `n` NACKs, with or without a ticket. -/
def backoff (n : Nat) (ticket : Bool) : Nat := if ticket then 64 else if n ≤ 1 then 16 else if n = 2 then 32 else 64

/-- PEN_REINJECT (R62): at the end of the back-off; a write to an extent frozen meanwhile is dropped instead (R182). -/
def execPenReinject (h : Fin 4) (id : Nat) (s : State) : Res :=
  match s.penEntry h id with
  | none => .next s
  | some e =>
    if e.phase = .backoff then
      let s1 := s.until (e.req.nackAt + backoff e.req.nacks e.req.ticket.isSome)
      if s1.frozenPage e.req then done (forAll (List.range 16) (dropFrozen h e.req s1) finishReleases) else .next (inject h id s1)
    else .next s

/-- Whether the acceptance of request `id` is on its way to its head. -/
def State.acceptedReply (s : State) (id : Nat) : Bool := s.replies.any fun r => r.req.id == id && r.kind == .accepted

/-- PEN_READ_EXPIRY (R64): a read, or an atomic, that has not been accepted at the pen age limit. -/
def execPenReadExpiry (h : Fin 4) (id : Nat) (s : State) : Res :=
  match s.penEntry h id with
  | none => .next s
  | some e =>
    if e.req.kind = .write ∨ s.acceptedReply id = true then .next s
    else
      let s1 := s.until (e.req.t0 + s.penLimit h)
      let s2 := { s1 with flight := s1.flight.filter (fun r => r.id != id), replies := s1.replies.filter (fun r => r.req.id != id) }
      let s3 := ((endUnserved h e.req.tag e.req.cls e.req.kind s2).count (Reg.HPA_PEN_EXP_READ_EXP h)).report 0x17 h
      done (forAll (List.range 16) (penFree h id s3) finishReleases)

/-- PEN_WRITE_EXPIRY (R65): once for each write; it stays in the pen. -/
def execPenWriteExpiry (h : Fin 4) (id : Nat) (s : State) : Res :=
  match s.penEntry h id with
  | none => .next s
  | some e =>
    if e.req.kind ≠ .write ∨ e.expired = true ∨ s.acceptedReply id = true then .next s
    else
      let s1 := updPen h id (fun e => { e with expired := true }) (s.until (e.req.t0 + s.penLimit h))
      done ((((s1.emit (.viral h)).setFld (Reg.HPA_LINK_STS_VIRAL h) 1).count (Reg.HPA_PEN_EXP_WRITE_EXP h)).report 0x18 h)

/-- A response handed to the host of head `h`. -/
def toHost (h : Nat) (r : Reply) (s : State) : State :=
  let s1 := match r.kind with
    | .data v poison => (s.emit (.memData h r.req.tag v poison (s.devLoad r.req.cls))).bytes (2 * h) 64
    | .atomic v poison => (s.emit (.atomicData h r.req.tag v poison)).bytes (2 * h) 64
    | .done => s.emit (.memDone h r.req.tag (s.devLoad r.req.cls))
    | _ => s
  accountReply r.req s1

/-- HEAD_RESPONSE (R55, R62, R68): a response of an epoch that the head has left, or on an insecure head, is discarded and counted; so is such a
NACK, unless its write is still held in the pen. -/
def execHeadResponse (h : Fin 4) (id : Nat) (s : State) : Res :=
  match takeReply id (fun r => r.req.ofHead h && r.kind != .accepted) s with
  | none => .next s
  | some (r, s1) =>
    match r.kind with
    | .nack _ t =>
      (match s1.penEntry h id with
       | some _ => .next (updPen h id (fun e => { e with phase := .backoff, req := { e.req with nacks := r.req.nacks, nackAt := s1.clk, ticket := t } }) s1)
       | none => .next (s1.count (Reg.HPA_STALE_CNT_COUNT h)))
    | _ =>
      if s1.oldEpoch h r.req.epoch || (s1.head h).insecure then .next (s1.count (Reg.HPA_STALE_CNT_COUNT h))
      else .next (toHost h r s1)

/-! ### Links -/

/-- SURPRISE_LINK_DOWN (R68). -/
def execSurpriseLinkDown (h : Fin 4) (s : State) : Res :=
  if s.headLive h && s.linkUp h then done (linkLost h s) else .next s

/-- CABLE_MEASUREMENT_DONE (R56, R57): the head goes on to training, once its epoch has advanced (R432). -/
def execCableMeasurementDone (h : Fin 4) (loss len : Option (Fin 255)) (idValid : Bool) (s : State) : Res :=
  let s0 := if (s.head h).epochDue then advanceHeadEpoch h s else s
  if s0.headLive h = false ∨ (s0.head h).link ≠ .measuring ∨ (s0.head h).epochDue = true then .next s0
  else
    let s1 := ((s0.setFld (Reg.HPA_CABLE_LOSS h) (match loss with
      | some l => l.val
      | none => 255)).setFld (Reg.HPA_CABLE_LENGTH h) (match len with
      | some l => l.val
      | none => 255)).setBit (Reg.HPA_CABLE_ID_VALID h) idValid
    .next (startTraining h (s1.setFld (Reg.HPA_CABLE_RATE_LIMIT h) (lossCap (loss.map Fin.val))))

/-- What training records of the partner (R59). -/
def notePartner (h : Nat) (q : Partner) (s : State) : State :=
  let s1 := ((s.setFld (Reg.HPA_PARTNER_RATES h) q.rates.toNat).setBit (Reg.HPA_PARTNER_FLIT h) q.flit).setBit (Reg.HPA_PARTNER_LOPT h) q.lopt
  let s2 := ((s1.setBit (Reg.HPA_PARTNER_SWITCH h) q.switch).setBit (Reg.HPA_PARTNER_IDE h) q.ide).setBit (Reg.HPA_PARTNER_PTM h) q.ptm
  s2.setFld (Reg.HPA_PARTNER_CXL_VER h) q.cxlVer.toNat

/-- The LDs that a head presents to a partner (R41): all of its own to a switch, the lowest-numbered one to a root port. -/
def State.presentTo (s : State) (h : Nat) (switch : Bool) : Nat :=
  let m := s.fld (Reg.HPA_CFG_LD_MASK h)
  if switch then m else (match (List.range 16).find? fun k => m.testBit k with
    | some k => 2 ^ k
    | none => 0)

/-- Whether a REFCLK that head `h` may use is good: its connector's, or for a 1×16 head either. -/
def State.refclkGood (s : State) (h : Nat) : Bool := if s.fld (Reg.HPA_CFG_SPLIT 0) = 0 then s.refGood 0 || s.refGood 1 else s.refGood (s.connector h)

/-- Whether head `h` has a reference to train with (R418, Table 14.1): in common clock a good REFCLK of its connector (for a 1×16 head of either), or LOCAL in
SRIS where HEAD_SRIS is 1. -/
def State.headClock (s : State) (h : Nat) : Bool :=
  !s.commonClock || s.on Reg.CLK_CFG_HEAD_SRIS || s.refclkGood h

/-- LINK_TRAINING_DONE (R37, R41, R57, R59, R522): the link reaches L0 at the highest common rate under its caps, unless the partner lacks flit mode or
every rate above 8 GT/s; held MSI-X messages go out (R322). A link that is up has trained anew because its partner asked for it. -/
def execLinkTrainingDone (h : Fin 4) (partner : Partner) (width : Nat) (retimers : Fin 3) (s : State) : Res :=
  if s.headLive h = false ∨ ((s.head h).link ≠ .training ∧ (s.head h).link ≠ .up) ∨ s.headClock h = false then .next s
  else
    let s1 := notePartner h partner (if s.linkUp h then retrain h s else s)
    let loss := if s.fld (Reg.HPA_CABLE_RATE_LIMIT h) = 0 then 1 else s.fld (Reg.HPA_CABLE_RATE_LIMIT h)
    let top := Nat.min (s.rateMax h) (s.head h).rateCap
    let w := powWidth (Nat.min width (s.maxWidth h))
    match (if partner.flit then bestRate (Nat.min loss top) partner.rates else none) with
    | none => .next s1
    | some r =>
      if w = 0 then .next s1
      else
        let s2 := (((s1.setFld (Reg.HPA_LINK_STS_RATE h) r).setFld (Reg.HPA_LINK_STS_WIDTH h) w).setFld (Reg.HPA_LINK_STS_RETIMERS h) retimers).setBit
          (Reg.HPA_LINK_STS_CAP_LOSS h) (decide (loss < top))
        let s3 := (s2.setBit (Reg.HPA_LINK_STS_FLIT_LOPT h) (partner.lopt && s.on (Reg.HPA_CTL_LOPT_EN h) && decide (3 ≤ r))).setBit
          (Reg.HPA_LINK_STS_CXL_MEM h) partner.cxlMem
        let s4 := ((s3.setFld (Reg.HPA_LINK_STS_UP h) 1).setFld (Reg.HPA_LD_ACT_LD_ACTIVE h) (s3.presentTo h partner.switch)).updHead h fun x =>
          { x with link := .up, recov := [], sris := s.commonClock && !s.refclkGood h }
        let s4' := s4.unexpose fun e => (e.src == 0x19 || e.src == 0x1C) && e.inst == h.val
        let s5 := if s4'.noc.down.isEmpty && s4'.noc.failed.isEmpty then pathsUp s4' else s4'
        .next (recheckAllowed (serveWake (takeWake 3 h none ((s5.emit (.link h true)).flushMsix h))))

/-- LINK_RECOVERY (R66). -/
def execLinkRecovery (h : Fin 4) (s : State) : Res :=
  if s.headLive h && s.linkUp h then
    .next ((s.count (Reg.HPA_RECOV_RECOVERIES h)).updHead h fun x => { x with recov := s.clk :: x.recov.filter fun t => decide (s.clk < t + sec) })
  else .next s

/-- RATE_FALLBACK (R66): more than FALLBACK_THR recoveries within 1 s at the present rate; at the lowest rate there is none. -/
def execRateFallback (h : Fin 4) (s : State) : Res :=
  let thr := s.fld (Reg.HPA_CTL_FALLBACK_THR h)
  let r := s.fld (Reg.HPA_LINK_STS_RATE h)
  let n := ((s.head h).recov.filter fun t => decide (s.clk < t + sec)).length
  if s.headLive h && s.linkUp h && decide (thr ≠ 0) && decide (thr < n) && decide (1 < r) then
    let s1 := ((s.count (Reg.HPA_RECOV_FALLBACKS h)).setFld (Reg.HPA_LINK_STS_CAP_ERR h) 1).report 0x1A h
    done (retrain h (s1.updHead h fun x => { x with rateCap := r - 1, recov := [] }))
  else .next s

/-- HPA_CTL.RETRY_RATE of head `h` written with 1 (R66): every rate may be tried again. -/
def retryRate (h : Nat) (s : State) : State :=
  if s.headLive h then
    let s1 := (s.setFld (Reg.HPA_LINK_STS_CAP_ERR h) 0).updHead h fun x => { x with rateCap := 4, recov := [] }
    if s.linkUp h then retrain h s1 else s1
  else s

/-- RETRY_RATE (R66). -/
def execRetryRate (h : Fin 4) (s : State) : Res := .next (retryRate h s)

/-- HPA_CTL.LINK_EN of head `h` written with 0 (R68, Table 15.2): a source LINK_DOWN at its level in force; the link stays in Disabled. -/
def disableLink (h : Nat) (s : State) : State :=
  if s.headLive h && s.on (Reg.HPA_CTL_LINK_EN h) then
    let s1 := headSource 3 h (s.setFld (Reg.HPA_CTL_LINK_EN h) 0)
    if s1.on (Reg.HPA_CTL_LINK_EN h) then s1 else s1.updHead h fun x => { x with link := .disabled }
  else s

/-- HPA_CTL.LINK_EN of head `h` written with 1 (R68): the link measures its cable and trains. -/
def enableLink (h : Nat) (s : State) : State :=
  if s.headLive h && !s.on (Reg.HPA_CTL_LINK_EN h) then
    let s1 := s.setFld (Reg.HPA_CTL_LINK_EN h) 1
    s1.updHead h fun x => { x with link := s1.linkStart h }
  else s

/-- LINK_DISABLE (R68). -/
def execLinkDisable (h : Fin 4) (s : State) : Res := done (disableLink h s)

/-- LINK_ENABLE (R68). -/
def execLinkEnable (h : Fin 4) (s : State) : Res := .next (enableLink h s)

/-- VIRAL_RECEIVED (R67, R106). -/
def execViralReceived (h : Fin 4) (s : State) : Res :=
  if s.headLive h && s.linkUp h then
    done (((s.setFld (Reg.HPA_LINK_STS_VIRAL h) 1).updHead h fun x => { x with hostViral := true }).report 0x35 h)
  else .next s

/-! ### IDE (R51 to R55) -/

/-- The key sets of a stream of head `h`. -/
def Head.keys (x : Head) : IdeStream → StreamKeys
  | .mem => x.memKey
  | .io => x.ioKey

/-- The key set of one direction set. -/
def StreamKeys.set (k : StreamKeys) (dir : IdeDir) (key : BitVec 256) : StreamKeys :=
  match dir with
  | .rx => { k with rx := some key }
  | .tx => { k with tx := some key }

/-- The key set of one direction. -/
def StreamKeys.get (k : StreamKeys) : IdeDir → Option (BitVec 256)
  | .rx => k.rx
  | .tx => k.tx

/-- IDE_KEY_PROG (R52): one key set for each direction of a stream between two head resets; a second one is refused with KP_ACK status 1, R52 giving the
non-zero status no number (DESIGN CHOICE, log entry 92). With both directions accepted the stream's keys are set and locked. -/
def execIdeKeyProg (h : Fin 4) (sub : IdeSub) (key : BitVec 256) (s : State) : Res :=
  let st := sub.stream
  let dir := sub.dir
  let lock := match st with
    | .mem => Reg.HPA_IDE_STS_MEM_KEY_LOCK h
    | .io => Reg.HPA_IDE_STS_IO_KEY_LOCK h
  let fst := match st with
    | .mem => Reg.HPA_IDE_STS_MEM_STATE h
    | .io => Reg.HPA_IDE_STS_IO_STATE h
  if !s.headLive h then .next s
  else if (((s.head h).keys st).get dir).isSome then .next ((s.count (Reg.HPA_IDE_STS_REFUSED h)).emit (.kpAck h st 1))
  else
    let ks := ((s.head h).keys st).set dir key
    let s1 := s.updHead h fun x => match st with
      | .mem => { x with memKey := ks }
      | .io => { x with ioKey := ks }
    let s2 := if ks.rx.isSome && ks.tx.isSome then (s1.setFld lock 1).setFld fst 1 else s1
    .next (s2.emit (.kpAck h st 0))

/-- IDE_KM_K_SET_GO (R52): a stream whose keys are set becomes secure, which ends the new key exchange that R55 asks for. -/
def execIdeKmKSetGo (h : Fin 4) (st : IdeStream) (s : State) : Res :=
  let fst := match st with
    | .mem => Reg.HPA_IDE_STS_MEM_STATE h
    | .io => Reg.HPA_IDE_STS_IO_STATE h
  if s.headLive h && s.fld fst == 1 then .next ((s.setFld fst 2).updHead h fun x => { x with rekey := x.rekey.filter (· != st) }) else .next s

/-- IDE_MAC_FAILURE (R55). -/
def execIdeMacFailure (h : Fin 4) (st : IdeStream) (s : State) : Res :=
  let fst := match st with
    | .mem => Reg.HPA_IDE_STS_MEM_STATE h
    | .io => Reg.HPA_IDE_STS_IO_STATE h
  if s.headLive h && s.fld fst == 2 then done (macFailure h st s) else .next s

/-! ### Dynamic capacity (R47 to R50, R100, R101, R179) -/

/-- The lowest free block of the sharing area (R100). -/
def State.freeShareBlock (s : State) : Option Nat :=
  s.layout.share.bind fun a =>
    ((List.range a.2).map fun i => a.1 + i * pagesPerGib).find? fun p =>
      !(s.cold.domains.any fun d => d.firstPage == p) && (s.slotOf p).all fun k => (SMap.get (0, 0) s.cold.used k).1 == 0

/-- The sharing domain `key`, made with a block of its own when its extent is first offered (R100); none where the sharing area is full. -/
def shareBlock (key : Nat) (s : State) : Option State :=
  match s.domainOf key with
  | some _ => some s
  | none => s.freeShareBlock.map fun p => s.onCold fun c => { c with domains := c.domains ++ [{ key := key, firstPage := p }] }

/-- Whether GiB `g` of LD `k` may be offered: it lies in its DC region, is not held, and no page of an earlier release of it is still to be discarded
(R48, R184); a sharable one must lie in an HDM-DB range (R100). -/
def State.mayOffer (s : State) (k g : Nat) (share : Bool) : Bool :=
  let l := s.ldLayout k
  s.qualifies k && decide (l.staticGib ≤ g) && decide (g < l.staticGib + l.dcGib) && !((s.ld k).extents.any fun e => e.gib == g) &&
  decide ((s.ld k).extents.length < 4096) && !(s.cold.discarding.any fun d => d.1 == k && d.2.1 == g) &&
  (if share then s.isDb k (g * gib) else (s.slotOf (l.pageBase + g * pagesPerGib)).all fun j => (SMap.get (0, 0) s.cold.used j).1 == 0)

/-- One extent offered to LD `k` through an Add Capacity event. -/
def offer (k g : Nat) (share : Option Nat) (s : State) : State :=
  (s.updLd k fun d => { d with extents := d.extents ++ [{ gib := g, share := share }] }).log1 0 (.capacity capAdd k g) k

/-- ADD_CAPACITY_OFFER (R48, R100, R179): while the test of R179 allows one more. -/
def execAddCapacityOffer (ld : Fin 16) (gib : Nat) (share : Option Nat) (s : State) : Res :=
  if s.offersAllowed = 0 || !s.mayOffer ld gib share.isSome then .next s
  else match share with
    | none => .next (offer ld gib none s)
    | some key =>
      match shareBlock key s with
      | none => .next s
      | some s1 => .next (offer ld gib share s1)

/-- ADD_CAPACITY_RESPONSE (R50, R101): the offered extent is accessible from now on; the LD joins the sharing domain. -/
def execAddCapacityResponse (ld : Fin 16) (gib : Nat) (s : State) : Res :=
  match (s.ld ld).extents.find? fun e => e.gib == gib && !e.accepted with
  | none => .next s
  | some e =>
    let q := s.cold.acceptSeq
    let s1 := (s.updLd ld fun d => { d with extents := d.extents.map fun x => if x.gib = gib then { x with accepted := true, seq := q } else x }).onCold fun c =>
      { c with acceptSeq := q + 1 }
    let join := fun (d : ShareDomain) =>
      if some d.key = e.share then { d with members := d.members ++ [(ld.val, gib)], first := if d.members.isEmpty then (ld.val, gib) else d.first } else d
    let s2 := s1.onCold fun c => { c with domains := c.domains.map join }
    .next (useSlot (s2.extentBase ld e) s2)

/-- RELEASE_DYNAMIC_CAPACITY (R50, R102, R184): requests that come later find the extent gone; a sharable one is snooped out of the LD; the command
completes when the requests before it have been accepted. -/
def execReleaseDynamicCapacity (ld : Fin 16) (gib : Nat) (s : State) : Res :=
  match (s.ld ld).extents.find? fun e => e.gib == gib with
  | none => .next s
  | some e =>
    if !e.accepted || (s.ld ld).releasing.contains gib then .next s
    else
      done (finishReleases (s.updLd ld fun d => { d with releasing := d.releasing ++ [gib] }) ld)

end Sys2Proof.Machine
end

