-- ==== Sys2Proof/Machine/Keys.lean ====
section
/-! DEFINITION. The commands of the key vault: injection windows, the TRNG, re-encryption and the overwrite (chapter 06). -/
namespace Sys2Proof.Machine

open Sys2Proof

/-- KEY_WINDOW_TIMEOUT (R188): in hardware mode, WIN_S after memory became active. -/
def execKeyWindowTimeout (k : Fin 16) (s : State) : Res :=
  if s.kpHost || !s.windowOpen k || !s.on Reg.RST_STS_MEM_ACTIVE then .next s
  else .next (closeWindow k (s.until (s.vault.winStart + zeroAsOne (s.fld Reg.CRY_KP_CFG_WIN_S) * sec)))

/-- TRNG_HEALTH_FAILURE (R190). -/
def execTrngHealthFailure (s : State) : Res :=
  let s1 := s.setFld Reg.CRY_STS_TRNG_OK 0
  done (s1.report 0x25 0 [(s1.reg Reg.CRY_STS).toNat])

/-- TRNG_HEALTH_TEST_PASS (R190): the keys withheld meanwhile are generated. -/
def execTrngHealthTestPass (s : State) : Res :=
  let s1 := (s.setFld Reg.CRY_STS_TRNG_OK 1).unexpose fun e => e.src == 0x25
  let s2 := if s1.vault.ledgerWithheld then ledgerKeyGen s1 else s1
  .next (enableKeyed (forAll s2.vault.withheld s2 fun t k => trngKey k t))

/-! ### Re-encryption (R207 to R211) -/

/-- The re-encryption of slot `k`. -/
def State.reencOf (s : State) (k : Nat) : Option Reenc := s.vault.reenc.find? fun r => r.slot == k

/-- The re-encryption of slot `k` changed by `f`. -/
def updReenc (k : Nat) (f : Reenc → Reenc) (s : State) : State :=
  s.onVault fun v => { v with reenc := v.reenc.map fun r => if r.slot = k then f r else r }

/-- The CRY_REENC_SLOT register that describes slot `k`. -/
def State.reencReg (s : State) (k : Nat) : Option Nat :=
  (List.range 4).find? fun j => s.on (Reg.CRY_REENC_SLOT_VALID j) && s.fld (Reg.CRY_REENC_SLOT_SLOT j) == k

/-- The TYPE 7 checkpoint of Table 6.6 for slot `k` with `done` units. -/
def reencRecord (k done : Nat) (s : State) : State :=
  let e := s.epochAt k
  checkpoint (2 * 2 ^ 236 + e.epoch * 2 ^ 204 + k * 2 ^ 188 + done * 2 ^ 183) (15 * 2 ^ 236 + 65535 * 2 ^ 188) s

/-- The first page of map slot `k`. -/
def State.slotFirst (s : State) (k : Nat) : Nat := ((s.blockOfMap (k * 1024)).getD 0) * 256

/-- REENC_SLOT_START (R210): the first queued slot, while fewer than MAX are active; it goes on after its last checkpoint (R211). -/
def execReencSlotStart (k : Nat) (s : State) : Res :=
  match s.vault.reenc.find? fun r => !r.active, (List.range 4).find? fun j => !s.on (Reg.CRY_REENC_SLOT_VALID j) with
  | some r, some j =>
    if r.slot ≠ k ∨ s.reencMax ≤ s.reencActive ∨ !s.on Reg.CTM_STS_READY ∨ s.journalFull then .next s
    else
      let s1 := updReenc k (fun r => { r with active := true }) s
      let s2 := ((s1.setFld (Reg.CRY_REENC_SLOT_VALID j) 1).setFld (Reg.CRY_REENC_SLOT_DONE j) r.done).setFld (Reg.CRY_REENC_SLOT_SLOT j) k
      .next (if r.done = 0 then reencRecord k 0 s2 else s2)
  | _, _ => .next s

/-- The operation that re-encrypts page `p` (Table 3.4): a write-back for a page in STATE 3, which the final pass takes up again where it cannot be cleaned yet; a page
that cannot open an operation now retries (R75). -/
def reencPage (p : Nat) (s : State) : State :=
  let m := s.entry p
  let port := 24 + (s.stitcherFor m.seam).getD 0
  if !s.mayOpen p then queueOp .reenc p port s
  else if m.state = 3 then startClean p port s
  else beginOp .reenc p port none s

/-- REENC_PAGE_OPEN (R209): the next page of the unit of 64 MiB under way that is still under the old epoch. -/
def execReencPageOpen (k : Nat) (s : State) : Res :=
  match s.reencOf k with
  | none => .next s
  | some r =>
    let top := Nat.min pagesPerGib ((r.done + 1) * 16384)
    if !r.active || !s.on Reg.CTM_STS_READY then .next s
    else match (List.range (top - r.next)).find? fun i => s.stale k (s.slotFirst k + r.next + i) with
      | none => .next (updReenc k (fun r => { r with next := top }) s)
      | some i => done (reencPage (s.slotFirst k + r.next + i) (updReenc k (fun r => { r with next := r.next + i + 1 }) s))

/-- REENC_CHECKPOINT (R211): the walk has passed 64 MiB more. -/
def execReencCheckpoint (k : Nat) (s : State) : Res :=
  match s.reencOf k with
  | none => .next s
  | some r =>
    let rest := (List.range ((r.done + 1) * 16384 - r.next)).any fun i => s.stale k (s.slotFirst k + r.next + i)
    if !r.active || 16 ≤ r.done || rest || s.journalFull then .next s
    else
      let s1 := updReenc k (fun r => { r with done := r.done + 1, next := Nat.max r.next ((r.done + 1) * 16384) }) s
      let s2 := match s.reencReg k with
        | some j => s1.setFld (Reg.CRY_REENC_SLOT_DONE j) (r.done + 1)
        | none => s1
      .next (reencRecord k (r.done + 1) s2)

/-- The re-encryption of slot `k` is complete: REENC is cleared, with which the old key is erased, its checkpoint is superseded, and an
epoch advance that waited for it follows (R207). -/
def reencDone (k : Nat) (again : Bool) (s : State) : State :=
  let s1 := s.onVault fun v => { v with
    reenc := v.reenc.filter fun r => r.slot != k
    epochs := SMap.upd {} v.epochs k fun e => { e with reenc := false } }
  let s2 := match s.reencReg k with
    | some j => s1.setReg (Reg.CRY_REENC_SLOT j) 0
    | none => s1
  let s3 := s2.onCold fun c => { c with journal := c.journal.filter fun e =>
    !(recType e.2 == 7 && e.2.toNat / 2 ^ 236 % 16 == 2 && e.2.toNat / 2 ^ 188 % 65536 == k) }
  let s4 := s3.count Reg.CRY_REENC_DONE_COUNT
  if again then advanceEpoch k s4 else s4

/-- REENC_FINAL_PASS (R209): the slot's entries are walked once more; when a pass finds no page under the old epoch, the re-encryption ends. -/
def execReencFinalPass (k : Nat) (s : State) : Res :=
  match s.reencOf k with
  | none => .next s
  | some r =>
    if !r.active || r.done < 16 then .next s
    else
      let found := ((List.range pagesPerGib).map (s.slotFirst k + ·)).filter fun p => s.stale k p
      if found.isEmpty then .next (reencDone k r.again s)
      else done (forAll (found.filter fun p => (s.opOf p).isNone && !s.opAsked .reenc p) s fun t p => reencPage p t)

/-! ### The overwrite (R216) -/

/-- OVERWRITE_DONE (R216): every location of every DIMM in service reads back as zeros, but for the DIMMs `failed`; the operation names each slot that was not overwritten. -/
def execOverwriteDone (s : State) (failed : List (Fin 32) := []) : Res :=
  if !s.rst.overwrite || !((List.range 16).all fun c => s.on (Reg.DCC_STS_READY c) || s.on (Reg.DCC_STS_FENCED c)) then .next s
  else
    let missed := fun (c z : Nat) => s.slotState c z != 3 || failed.any fun k => k.val == 2 * c + z
    let kept := fun (c q : Nat) => missed c (s.slotOfSeam q)
    let s1 := s.onCold fun c => { c with stitches := SMap.keep (fun k => kept (k % 16) (k / 16)) c.stitches, unwritten := SMap.keep (fun k => kept (k % 16) (k / 16)) c.unwritten }
    let named := (List.range 32).filter fun k => missed (k / 2) (k % 2) && s.slotState (k / 2) (k % 2) != 0
    .next (((s1.onRst fun r => { r with overwrite := false }).setFld Reg.CRY_STS_WIPING 0).emit (.reply none (if named.isEmpty then 0 else 1) named))

end Sys2Proof.Machine
end

