-- ==== Sys2Proof/Machine/LayoutOps.lean ====
section
/-! DEFINITION. The layout image: its authentication, its checks, what its sections set, the built-in safe layout and the commit (chapter 16). -/
namespace Sys2Proof.Machine

open Sys2Proof

/-! ### Sections (R455, Table 16.2) -/

/-- The ID of a section. -/
def sectionId : SectionBody → Nat
  | .heads _ _ _ => 0x01
  | .lds _ => 0x02
  | .share _ _ => 0x03
  | .slices _ _ _ => 0x04
  | .cold _ _ => 0x05
  | .classes _ => 0x06
  | .qos _ => 0x07
  | .routes _ => 0x08
  | .power _ => 0x09
  | .groups _ => 0x0A
  | .reset _ => 0x0B
  | .modes _ _ => 0x0C
  | .faults _ => 0x0D
  | .tiering _ => 0x0E
  | .rings _ => 0x0F
  | .keys _ => 0x10
  | .unknown id => 0x100 + id

/-- The sections that a full image must carry. -/
def requiredSections : List Nat := [0x01, 0x02, 0x04, 0x05, 0x06, 0x0C]

/-- The sections that an amendment may carry. -/
def liveSections : List Nat := [0x06, 0x07, 0x09, 0x0C, 0x0D, 0x0E, 0x0F, 0x10]

/-- The bits that the records of section `id` may set in the register at offset `a`: no MODE field, no read-only field (log entry 54). -/
def recordBits (id a : Nat) : Nat :=
  match id with
  | 0x07 => if a = Reg.QOS_ADM_CFG then 0xFFFFFFFC else if a = Reg.QOS_LANE_CFG ∨ a = Reg.QOS_HOLD_CFG then 0xFFFFFFFF else 0
  | 0x09 => if a = Reg.PWR_CFG then 0xFFFFFFFF else 0
  | 0x0D => if a = Reg.FLT_CFG then 0xFFFFFFFC else if (List.range 64).any (fun k => Reg.FLT_REACT k == a) then 0x77 else 0
  | 0x0E => if a = Reg.HTM_TIER_CFG ∨ a = Reg.CTM_GC_CFG then 0xFFFFFFFC else 0
  | 0x10 => if a = Reg.CRY_KP_CFG then 0xFFFFFFFC else 0
  | _ => 0

/-- The load records of a section that is a list of register writes. -/
def sectionRecords : SectionBody → List LoadRecord
  | .qos l => l
  | .power l => l
  | .faults l => l
  | .tiering l => l
  | .keys l => l
  | _ => []

/-- The body with ID `id` among `l`. -/
def sectionNamed (l : List SectionBody) (id : Nat) : Option SectionBody := l.find? fun b => sectionId b == id

/-- The sections of an amendment each replace the whole of the same section (R461). -/
def amendSections (base : List SectionBody) (a : LayoutImage) : List SectionBody :=
  (a.sections.map Section.body).foldl (fun l b => l.filter (fun x => sectionId x != sectionId b) ++ [b]) base

/-- The sections in force with image `img` and its amendments in order. -/
def sectionsOf (img : LayoutImage) (amends : List LayoutImage) : List SectionBody :=
  amends.foldl amendSections (img.sections.map Section.body)

/-! ### Structural checks (R44, R71, R147, R295, R458) -/

/-- Whether two ranges, each a first number and a count, share a number. -/
def windowsOverlap (a b : Nat × Nat) : Bool := decide (a.1 < b.1 + b.2) && decide (b.1 < a.1 + a.2)

/-- Whether no two ranges of `l` share a number. -/
def disjoint : List (Nat × Nat) → Bool
  | [] => true
  | a :: l => !(l.any (windowsOverlap a)) && disjoint l

/-- Whether a list holds no number twice. -/
def distinct (l : List Nat) : Bool := l.eraseDups.length == l.length

/-- The heads of a split (Table 2.1), and the pen entries of each. -/
def headsOfSplit (sp : Nat) : Nat := if sp = 0 then 1 else if sp = 1 then 2 else 4
def penOfSplit (sp : Nat) : Nat := if sp = 0 then 1024 else if sp = 1 then 512 else 256

/-- The page ranges of LDs and sharing area in GiB: page bases are multiples of 2^18 pages. -/
def pageRanges (l : List SectionBody) : List (Nat × Nat) :=
  (match sectionNamed l 0x02 with
   | some (.lds ps) => ps.map fun p => (p.pageBase / pagesPerGib, p.staticGib + p.dcGib)
   | _ => []) ++
  (match sectionNamed l 0x03 with
   | some (.share first n) => [(first / pagesPerGib, n)]
   | _ => [])

/-- The structural check of one section. -/
def sectionOk (s : State) (b : SectionBody) : Bool :=
  (sectionRecords b).all (fun r => r.mask &&& recordBits (sectionId b) r.target == r.mask && decide (0 < recordBits (sectionId b) r.target)) &&
  match b with
  | .heads sp lh mgr => decide (sp < 3) && lh.all (fun e => decide (e.1 < 16) && decide (e.2 < headsOfSplit sp)) && distinct (lh.map Prod.fst) && decide (mgr < 65536)
  | .lds ps => ps.all (fun p => decide (p.ld < 16) && p.pageBase % pagesPerGib == 0 && decide (p.pageBase + (p.staticGib + p.dcGib) * pagesPerGib ≤ 2 ^ 48)) &&
      distinct (ps.map LdParams.ld)
  | .share first n => first % pagesPerGib == 0 && decide (first + n * pagesPerGib ≤ 2 ^ 48)
  | .slices remap a b => remap.length == 32 && distinct (a :: b :: remap) && (a :: b :: remap).all fun n => decide (n < 34)
  | .cold tack ws => decide (1 ≤ tack) && decide (tack ≤ 4) && ws.all (fun w => decide (w.1 < 17) && decide (w.2.1 < 65536) && decide (w.2.2 < 65536)) &&
      distinct (ws.map Prod.fst) && disjoint ((ws.map Prod.snd).filter fun w => w.2 != 0)
  | .classes l => l.all fun c => decide (c < 8)
  | .routes l => ((l.foldl (fun t e => setRoute false (decide (16384 ≤ e.1)) (e.1 % 16384 / 128) (e.1 % 128) e.2 t)
      (s.onNoc fun n => { n with tables := [] })).routesAcyclic false)
  | .groups l => l.all fun g => g.all fun d => decide (d < 144)
  | .reset l => l.all fun e => decide (e.1 < 16) && decide (e.2 ≤ 5)
  | .modes m f => decide (m < 256) && decide (f < 256)
  | .rings l => l.all (fun e => decide (e.1 < 256) && decide (e.2 < 16)) && distinct (l.map Prod.fst)
  | .unknown _ => false
  | _ => true

/-- Whether the sections of a layout pass every structural check (R458, step 4). -/
def structureOk (s : State) (l : List SectionBody) : Bool :=
  distinct (l.map sectionId) && requiredSections.all (fun id => (sectionNamed l id).isSome) && l.all (sectionOk s) &&
  disjoint ((pageRanges l).filter fun r => r.2 != 0)

/-- Whether an image or amendment authenticates (R456, R457). -/
def State.authentic (s : State) (img : LayoutImage) : Bool :=
  Config.layoutSigned img && s.fuses.keySlots.contains img.key && !s.fuses.revoked.contains img.key && decide (s.fuses.minSvn ≤ img.svn)

/-- Whether the sections of an image are well formed, each with its CRC (R455, R458, step 3). -/
def imageSound (img : LayoutImage) : Bool :=
  img.formOk && decide (img.sections.length ≤ 32) && decide (1 ≤ img.sections.length) && img.sections.all Section.crcOk &&
  distinct ((img.sections.map Section.body).map sectionId)

/-- Whether a full image passes steps 2 to 4 of R458. -/
def State.imageOk (s : State) (img : LayoutImage) : Bool :=
  s.authentic img && !img.amendment && imageSound img && structureOk s (img.sections.map Section.body)

/-- The code of R463 for amendment `a` of the layout of `img` with `amends` in force; the code of a ring that is enabled stands apart. -/
def State.amendCode (s : State) (img : LayoutImage) (amends : List LayoutImage) (a : LayoutImage) : Nat :=
  if !s.authentic a then 1
  else if !a.amendment ∨ a.base ≠ (Config.layoutDigest img).toNat ∨ a.seq ≠ amends.length + 1 then 2
  else if !((a.sections.map Section.body).all fun b => liveSections.contains (sectionId b) || decide (0x100 ≤ sectionId b)) then 3
  else if !imageSound a ∨ !structureOk s (amendSections (sectionsOf img amends) a) then 5
  else if 16 ≤ amends.length then 6 else 0

/-- The amendments of a slot applied in order, each checked; none where one fails (R458, step 5). -/
def State.amendAll (s : State) (img : LayoutImage) : List LayoutImage → List LayoutImage → Option (List LayoutImage)
  | [], done => some done
  | a :: l, done => if s.amendCode img done a = 0 then s.amendAll img l (done ++ [a]) else none

/-! ### What a section sets (Table 16.2, R462) -/

/-- A load record is a masked write. -/
def applyRecord (s : State) (r : LoadRecord) : State :=
  let v := (s.reg r.target).toNat
  s.setReg r.target (BitVec.ofNat 32 (v - (v &&& r.mask) + (r.value &&& r.mask)))

/-- The MODE of function `f` written (R465): ignored where its FIXED bit is 1. -/
def writeMode (f v : Nat) (s : State) : State :=
  if s.bitOf Reg.CFG_FMODE_FIXED f then s
  else
    let s1 := s.setFld (modeFld f) v
    if f = 5 ∧ v = 0 ∧ s.on (actFld 5) then s1.onVault fun u => { u with winStart := s.clk } else s1

/-- Ring `r` assigned to LD `k`, or to none (R309). -/
def assignRing (r : Nat) (k : Option Nat) (s : State) : State :=
  match k with
  | some k => (s.setFld (Reg.NMR_CFG_LD r) k).setFld (Reg.NMR_CFG_OWNED r) 1
  | none => (s.setFld (Reg.NMR_CFG_LD r) 0).setFld (Reg.NMR_CFG_OWNED r) 0

/-- The assignment of ring `r` in a RINGS section. -/
def ringIn (l : List (Nat × Nat)) (r : Nat) : Option Nat := (l.find? fun e => e.1 == r).map Prod.snd

/-- A section applied; `live`: by an amendment, while the layout is in force. -/
def applySection (live : Bool) (s : State) (b : SectionBody) : State :=
  match b with
  | .heads sp lh mgr =>
    let s1 := forAll (List.range 4) s fun t h =>
      let mask := (lh.filter fun e => e.2 == h).foldl (fun a e => a + 2 ^ e.1) 0
      let t1 := ((t.setFld (Reg.HPA_CFG_SPLIT h) sp).setBit (Reg.HPA_CFG_PRESENT h) (decide (h < headsOfSplit sp))).setFld (Reg.HPA_CFG_LD_MASK h) mask
      t1.setFld (Reg.HPA_PEN_CFG_ENTRIES h) (penOfSplit sp)
    (s1.setFld Reg.CFG_MGR_MGR_LD mgr).onLayout fun y => { y with lds := (List.range 16).map fun k => { (y.lds.getD k {}) with head := (lh.find? fun e => e.1 == k).map Prod.snd } }
  | .lds ps => s.onLayout fun y => { y with lds := (List.range 16).map fun k => match ps.find? fun p => p.ld == k with
      | some p => { (y.lds.getD k {}) with staticGib := p.staticGib, dcGib := p.dcGib, pageBase := p.pageBase, db := p.db }
      | none => { head := (y.lds.getD k {}).head } }
  | .share first n => s.onLayout fun y => { y with share := some (first, n) }
  | .slices remap a b =>
    let s1 := forAll (List.range 32) s fun t e => setRole (remap.getD e e) 0 e 0 (t.setFld (Reg.HSC_REMAP_SLICE e) (remap.getD e e))
    let s2 := ((s1.setFld Reg.HSC_SPARE_SPARE0 a).setFld Reg.HSC_SPARE_SPARE1 b).setFld Reg.HSC_SPARE_FREE0 1
    setRole a 1 0 0 (setRole b 1 0 0 (s2.setFld Reg.HSC_SPARE_FREE1 1))
  | .cold tack ws => forAll ws (s.setFld Reg.CTM_TACK_DIMMS tack) fun t w => (t.setFld (Reg.CTM_LWIN_SLOT_BASE w.1) w.2.1).setFld (Reg.CTM_LWIN_SLOTS w.1) w.2.2
  | .classes l => s.onLayout fun y => { y with classes := l }
  | .routes l => forAll l s fun t e =>
      let w := fun (copy : Bool) (u : State) => setRoute copy (decide (16384 ≤ e.1)) (e.1 % 16384 / 128) (e.1 % 128) e.2 u
      w true (w false t)
  | .groups l => s.onLayout fun y => { y with groups := l }
  | .reset l => forAll l s fun t e => t.setFld (Reg.RST_MAP_LAYOUT e.1) e.2
  | .modes m f =>
    let s1 := if live then s else s.setFld Reg.CFG_FMODE_FIXED 0
    let s2 := forAll (List.range 8) s1 fun t i =>
      let v := (m.testBit i).toNat
      if live then writeMode i v t else (t.setFld (modeFld i) v).setFld (actFld i) v
    s2.setFld Reg.CFG_FMODE_FIXED f
  | .rings l => forAll (List.range 256) s fun t r => if live && t.on (Reg.NMR_CFG_EN r) then t else assignRing r (ringIn l r) t
  | .qos l | .power l | .faults l | .tiering l | .keys l => l.foldl applyRecord s
  | .unknown _ => s

/-- Whether an amendment's RINGS section moves a ring that is enabled (R462). -/
def State.movesEnabled (s : State) (a : LayoutImage) : Bool :=
  match sectionNamed (a.sections.map Section.body) 0x0F with
  | some (.rings l) => (List.range 256).any fun r => s.on (Reg.NMR_CFG_EN r) &&
      ringIn l r != (if s.on (Reg.NMR_CFG_OWNED r) then some (s.fld (Reg.NMR_CFG_LD r)) else none)
  | _ => false

/-! ### The built-in safe layout (R464, Table 16.3) -/

/-- Its sections; the static capacity of LD0 and window 0 take the population's G when the CTM initialises. -/
def safeSections : List SectionBody :=
  [ .heads 0 [(0, 0)] 1, .lds [{ ld := 0, staticGib := 0, dcGib := 0, pageBase := 0, db := [] }], .slices (List.range 32) 32 33, .cold 2 [(0, 0, 0)],
    .classes ((List.range 61).map safeClass), .modes 0 0, .rings ((List.range 256).map fun r => (r, 0)) ]

/-! ### The commit (R458, Table 15.6, step 8) -/

/-- CFG_SLOTS as the module flash stands. -/
def showSlots (s : State) : State :=
  let v := fun (i : Nat) => ((s.flash.slots.getD i {}).image.map fun m => s.authentic m).getD false
  let n := fun (i : Nat) => (s.flash.slots.getD i {}).amends.length
  ((((s.setBit Reg.CFG_SLOTS_A_VALID (v 0)).setBit Reg.CFG_SLOTS_B_VALID (v 1)).setFld Reg.CFG_SLOTS_ACTIVE s.flash.active).setFld Reg.CFG_SLOTS_A_AMENDS (n 0)).setFld
    Reg.CFG_SLOTS_B_AMENDS (n 1)

/-- The DIMM slots when the layout has been committed: a powered slot that holds a DIMM is measured, one that the TP7 may power is powered (Table 15.6,
step 10; after Level 4 the TP7's switches stand as they were), and another that holds a DIMM is off. -/
def powerSlots (s : State) : State :=
  forAll (List.range 32) s fun t k =>
    let j := 4 + k
    if !(t.dimm (k / 2) (k % 2)).fitted then t
    else if t.supSt j = 3 then setSlotState (k / 2) (k % 2) 1 t
    else if t.fld Reg.RST_STS_LEVEL = 5 ∧ (t.supSt j = 0 ∨ t.supSt j = 6) ∧ t.on (Reg.SUP_CH_STS_LATCH j) then startRamp j false t
    else if t.conducts j then t else setSlotState (k / 2) (k % 2) 10 t

/-- The registers as the sections in force load them, kept for the resets that give a field its layout value (R14). -/
def layoutLoads (sections : List SectionBody) : SMap Word :=
  ((sections.foldl (applySection false) ({} : State)).regs).filter fun e => layoutBits e.1 != 0

/-- The layout in force committed: its sections set what they name, the RWL fields lock, the domains are released, heads measure their cables, and the
channels with a fence record stay fenced until they are retested (R250, R335). A field that no section sets has kept the value of its Reset entry (R455). -/
def commitLayout (sections : List SectionBody) (img : Option LayoutImage) (amends : List LayoutImage) (slot : Nat) (s : State) : State :=
  let s1 := sections.foldl (applySection false) (s.onLayout fun _ => {})
  let s2 := s1.onLayout fun y => { y with image := img, amends := amends, safe := img.isNone, committed := true, loaded := layoutLoads sections }
  let m := img.getD { formOk := true, layoutId := 0, ver := 0, svn := 0, key := 0, amendment := false, base := 0, seq := 0, sections := [] }
  let s3 := (((s2.setFld Reg.CFG_ID_LAYOUT_ID m.layoutId).setFld Reg.CFG_VER_LAYOUT_VER m.ver).setFld Reg.CFG_VER_SVN m.svn).setFld Reg.CFG_VER_MIN_SVN s.fuses.minSvn
  let s4 := (((s3.setFld Reg.CFG_STS_COMMITTED 1).setFld Reg.CFG_STS_SLOT slot).setBit Reg.CFG_STS_SAFE img.isNone).setFld Reg.CFG_STS_AMENDS amends.length
  let s5 := (((s4.setFld Reg.RST_BOOT_LAYOUT_TRIES 0).setFld Reg.RST_BOOT_SLOT slot).setBit Reg.RST_BOOT_SAFE img.isNone).setBit Reg.RST_STS_SAFE_LAYOUT img.isNone
  let s6 := forAll (List.range 144) (showSlots (s5.setFld Reg.RST_STS_PHASE 5)) fun t d => t.setCond d (t.tableCond 0 d)
  let s7 := forAll ((List.range 4).filter s6.present) s6 fun t h => t.updHead h fun x => { x with link := t.linkStart h }
  let s8 := forAll (s7.flash.fences.filter fun r => r.slot.isNone) s7 fun t r => ((t.setFld (Reg.DCC_STS_FENCED r.ch) 1).fenceOff (.channel r.ch)).expose 0x08 r.ch
  powerSlots s8

/-- An attempt to load slot `n` (R458, steps 1 to 5): the image with its amendments, where every check passes. -/
def State.loadSlot (s : State) (n : Nat) : Option (LayoutImage × List LayoutImage) :=
  let sl := s.flash.slots.getD n {}
  if sl.partialWrite then none
  else sl.image.bind fun img => if s.imageOk img then (s.amendAll img sl.amends []).map fun a => (img, a) else none

/-- One attempt (R450): the next slot in the order A, B, A from the active one; after the third failure the safe layout. -/
def loadAttempt (s : State) : State :=
  let tries := s.fld Reg.RST_BOOT_LAYOUT_TRIES
  let safe := fun (t : State) => (commitLayout safeSections none [] (t.fld Reg.RST_BOOT_SLOT) t).report 0x31 0
  if 3 ≤ tries then safe s
  else
    let n := (s.flash.active + tries) % 2
    match s.loadSlot n with
    | some (img, amends) => commitLayout (sectionsOf img amends) (some img) amends n s
    | none =>
      let s1 := s.setFld Reg.RST_BOOT_LAYOUT_TRIES (tries + 1)
      if 3 ≤ tries + 1 then safe s1 else s1

end Sys2Proof.Machine
end

