-- ==== Sys2Proof/Machine/FlashOps.lean ====
section
/-! DEFINITION. What the pulses to module flash and fuses write when they have ended (R451, R457, R460, R461, R471), the effect of a live amendment, and the
start of the management firmware. -/
namespace Sys2Proof.Machine

open Sys2Proof

/-- Layout slot `n` of module flash replaced, with CFG_SLOTS. -/
def putSlot (n : Nat) (v : LayoutSlot) (s : State) : State := showSlots (s.onFlash fun f => { f with slots := f.slots.set n v })

/-- Firmware slot `n` (1 or 2) replaced. -/
def putFw (n : Nat) (img : Option FwImage) (s : State) : State := s.onFlash fun f => { f with fw := f.fw.set (n - 1) { image := img } }

/-- The image in firmware slot `n`. -/
def State.fwImage (s : State) (n : Nat) : Option FwImage := (s.flash.fw.getD (n - 1) {}).image

/-- Whether a firmware image verifies (R471). -/
def State.fwAuthentic (s : State) (img : FwImage) : Bool :=
  Config.fwSigned img && s.fuses.fwKeySlots.contains img.key && !s.fuses.fwRevoked.contains img.key && decide (s.fuses.fwMinSvn ≤ img.svn)

/-- CFG_STS.LAST_CODE, and the reply that carries it (R463). -/
def endLayout (code : Nat) (s : State) : State :=
  endMgr (if code = 0 then rcSuccess else rcInvalidInput) [code] (s.setFld Reg.CFG_STS_LAST_CODE code)

/-- An amendment in force (R461, R462): after POWER the state may be too deep, after QOS the admission checks run again. -/
def amendLive (a : LayoutImage) (s : State) : State :=
  let bs := a.sections.map Section.body
  let s1 := bs.foldl (applySection true) s
  let s2 := s1.onLayout fun y => { y with
    amends := y.amends ++ [a]
    loaded := match y.image with
      | some img => layoutLoads (sectionsOf img (y.amends ++ [a]))
      | none => y.loaded }
  let s3 := s2.setFld Reg.CFG_STS_AMENDS s2.layout.amends.length
  let s4 := if (sectionNamed bs 0x09).isSome then recheckAllowed s3 else s3
  if (sectionNamed bs 0x07).isSome then notePassing (demoteAll 65 s4) else s4

/-- The number of a life-cycle state (CRY_STS.LC). -/
def lcCode : LifeCycle → Nat
  | .manufacture => 0
  | .development => 1
  | .production => 2
  | .retired => 3

/-- A fuse or flash write complete. -/
def applyJob (j : FlashJob) (s : State) : State :=
  match j with
  | .erase true n => endMgr rcSuccess [] ((putFw n none s).onMgmt fun m => { m with fwTransfer := some 0 })
  | .erase false n => endMgr rcSuccess [] ((putSlot n { partialWrite := true } s).onFlash fun f => { f with transfer := some 0 })
  | .chunk true n => endMgr rcSuccess [] (s.onMgmt fun m => { m with fwTransfer := m.fwTransfer.map (· + n) })
  | .chunk false n => endMgr rcSuccess [] (s.onFlash fun f => { f with transfer := f.transfer.map (· + n) })
  | .layout n img =>
    let s1 := s.onFlash fun f => { f with transfer := none }
    if s.authentic img then endLayout 0 (putSlot n { image := some img } s1) else endLayout 1 (putSlot n {} s1)
  | .amend img =>
    let n := s.fld Reg.CFG_STS_SLOT
    let sl := s.flash.slots.getD n {}
    endLayout 0 (amendLive img (putSlot n { sl with amends := sl.amends ++ [img] } s))
  | .firmware n img =>
    let s1 := s.onMgmt fun m => { m with fwTransfer := none }
    if s.fwAuthentic img then endMgr rcSuccess [] (putFw n (some img) s1) else endMgr rcFwAuthFailed [] (putFw n none s1)
  | .minSvn v =>
    let v := Nat.max v s.fuses.minSvn
    endMgr rcSuccess [] ((s.onFuses fun f => { f with minSvn := v }).setFld Reg.CFG_VER_MIN_SVN v)
  | .lifeCycle t =>
    moduleSource 0x0F 0 ((s.onFuses fun f => { f with lc := lcCode t }).onRst fun r => { r with overwrite := true })

/-! ### The management firmware starts (Table 15.6, step 7; R356, R433, R452, R471) -/

/-- MGT_FW and MGT_FW_VER of the running slot. -/
def showFw (img : FwImage) (s : State) : State :=
  (((s.setFld Reg.MGT_FW_RUN_SLOT s.flash.runSlot).setFld Reg.MGT_FW_STAGED s.flash.staged).setFld Reg.MGT_FW_SVN img.svn).setFld Reg.MGT_FW_VER_VERSION img.version

/-- The firmware runs: queued records enter the fault log, an interrupted write is reported, and in a start-up the layout load begins. -/
def firmwareStarts (img : FwImage) (s : State) : State :=
  let boot := s.fld Reg.RST_STS_PHASE == 3
  let alone := s.isFenced .plazaPair
  let s1 := if boot then (s.setBit Reg.MGT_STS_CORE alone).setBit Reg.MGT_STS_STANDBY_OK (!alone && s.rst.released.contains 131 && !s.isFenced (.domain 131)) else s
  let s2 := (s1.setFld Reg.MGT_STS_FW_RUN 1).onMgmt fun m => { m with fwAt := s.clk }
  let s3 := showFw img (writeQueued (s2.unexpose fun e => e.src == 0x21))
  let s4 := match s3.flash.cut with
    | some u => ((s3.setFld Reg.RST_NVW_VALID 1).setFld Reg.RST_NVW_KIND 4).setFld Reg.RST_NVW_UNIT u
    | none => s3
  let s5 := if s4.flash.report || s4.flash.cut.isSome then s4.report 0x32 0 [(s4.reg Reg.RST_NVW).toNat] else s4
  let s6 := showSlots (s5.onFlash fun f => { f with report := false, cut := none })
  if boot then (s6.setFld Reg.RST_STS_PHASE 4).setCond 131 (s6.tableCond 0 131) else s6

end Sys2Proof.Machine
end

