-- ==== Sys2Proof/Machine/Mailbox.lean ====
section
/-! DEFINITION. The meanings of the mailbox, sideband and session commands (chapter 16, Table 16.5) but for the contracts', and of online firmware
activation. -/
namespace Sys2Proof.Machine

open Sys2Proof

/-! ### Standard commands -/

/-- A standard CXL command: `ok` its path; a firmware command that is refused counts in MGT_CMD_CNT.REFUSED (`fw`). -/
def cxlCmd (fw ok : Bool) (via : CmdPath) (f : State → State) (s : State) : State :=
  let no := fun (rc : Nat) => if fw then refuse via rc s else answer via rc [] s
  if !ok then no rcUnsupported else if s.fwBusy then no rcBusy else f (wakePlaza via s)

/-- Whether a program or erase sequence can begin: none runs, no command waits for one, and the input is good (R452). -/
def State.flashFree (s : State) : Bool := s.rst.pulse.isNone && s.flash.job.isNone && !s.mgmt.mgrBusy && !s.on Reg.SUP_STS_PFW

/-- A command that ends when its pulses have: it begins, or completes with Busy. -/
def beginJob (via : CmdPath) (kind : Nat) (j : FlashJob) (s : State) : State :=
  if s.flashFree then holdMgr via (nvWrite kind j s) else refuse via rcBusy s

/-- SET_TIMESTAMP (R382, R425): in Doze too the command waits for the exit. -/
def execSetTimestamp (via : CmdPath) (t : BitVec 64) (s : State) : Res :=
  done (cxlCmd false (cxlPath via) via (fun u =>
    let u1 := if u.fld Reg.PWR_STS_STATE = 2 then serveWake (takeWake 2 130 none u) else u
    answer via rcSuccess [] (stampTime t.toNat u1)) s)

/-! ### The layout (R457, R460 to R463) -/

/-- GET_LAYOUT_INFO: identifier, version, SVN, key and amendments; section IDs; digest; CFG_SLOTS; the classes and the Trim groups in force (log entry 60). -/
def execGetLayoutInfo (via : CmdPath) (s : State) : Res :=
  done (vendorCmd (anyLdPath via) via (fun t =>
    let y := t.layout
    let head := match y.image with
      | some m => leBytes 4 m.layoutId ++ leBytes 2 m.ver ++ [m.svn, m.key]
      | none => leBytes 8 0
    let ids := match y.image with
      | some m => (sectionsOf m y.amends).map sectionId
      | none => safeSections.map sectionId
    let digest := match y.image with
      | some m => Crypto.beBytes 48 (Config.layoutDigest m).toNat
      | none => List.replicate 48 0
    answer via rcSuccess (head ++ [y.amends.length, ids.length] ++ ids ++ digest ++ leBytes 4 (t.reg Reg.CFG_SLOTS).toNat ++ y.classes ++
      [y.groups.length] ++ y.groups.flatMap fun g => g.length :: g) t) s)

/-- TRANSFER_LAYOUT (R460): into the slot that the active marker does not name, which is erased at the start; chunks of at most 4 KiB. -/
def execTransferLayout (via : CmdPath) (a : Transfer LayoutImage) (s : State) : Res :=
  done (mgrCmd via (fun t =>
    let slot := 1 - t.flash.active
    match a, t.flash.transfer with
    | .initiate, none => beginJob via 3 (.erase false slot) t
    | .initiate, some _ => answer via rcFwInProgress [] t
    | .more n, some b =>
      if n = 0 ∨ 4096 < n ∨ 524288 < b + n then answer via rcInvalidInput [] t else beginJob via 2 (.chunk false n) t
    | .finish img, some _ => beginJob via 2 (.layout slot img) t
    | .abort, some _ => answer via rcSuccess [] (t.onFlash fun f => { f with transfer := none })
    | _, none => answer via rcFwOutOfOrder [] t) s)

/-- SELECT_LAYOUT_SLOT (R460): the active marker moves to a slot that holds an authenticated image. -/
def execSelectLayoutSlot (via : CmdPath) (slot : Fin 2) (s : State) : Res :=
  done (mgrCmd via (fun t =>
    if ((t.flash.slots.getD slot {}).image.map t.authentic).getD false then
      answer via rcSuccess [0] (showSlots ((t.onFlash fun f => { f with active := slot }).setFld Reg.CFG_STS_LAST_CODE 0))
    else answer via rcInvalidInput [1] (t.setFld Reg.CFG_STS_LAST_CODE 1)) s)

/-- The code of R463 for amendment `a` as it arrives: the first of the table that applies. -/
def State.arrivalCode (s : State) (a : LayoutImage) : Nat :=
  let c := match s.layout.image with
    | some img => s.amendCode img s.layout.amends a
    | none => if s.authentic a then 2 else 1
  if 1 ≤ c ∧ c ≤ 3 then c else if s.movesEnabled a then 4 else if c ≠ 0 then c else if s.flash.transfer.isSome then 7 else 0

/-- AMEND_LAYOUT (R461, R463): stored first, and applied once the write has completed. -/
def execAmendLayout (via : CmdPath) (img : LayoutImage) (s : State) : Res :=
  done (mgrCmd via (fun t =>
    match t.arrivalCode img with
    | 0 => beginJob via 2 (.amend img) t
    | c => answer via rcInvalidInput [c] (t.setFld Reg.CFG_STS_LAST_CODE c)) s)

/-- RAISE_LAYOUT_MINIMUM_VERSION (R457): to the SVN of the committed image; the safe layout has none. -/
def execRaiseLayoutMinimumVersion (via : CmdPath) (s : State) : Res :=
  done (mgrCmd via (fun t =>
    match t.layout.image with
    | some img => beginJob via 1 (.minSvn img.svn) t
    | none => answer via rcInvalidInput [] t) s)

/-! ### Function modes (R465, R466, Table 16.4) -/

/-- SET_FUNCTION_MODE (R465). -/
def execSetFunctionMode (via : CmdPath) (f : Fin 8) (host : Bool) (s : State) : Res :=
  done (mgrCmd via (fun t => answer via rcSuccess [] (writeMode f host.toNat t)) s)

/-- Toward hardware mode a unit that waits under R232 applies its own results at once. -/
def applyHeld (s : State) : State :=
  let s1 := forAll (List.range 16) s fun t ch => match (t.dcc ch).held with
    | some fs => (finishTraining ch fs t).vendor 0 0x0123 [ch]
    | none => t
  forAll s1.dram.stackHeld s1 fun t h => (stackTrained h.1 h.2.2 t).vendor 0 0x0123 [16 + h.1]

/-- Whether function `f` is at its quiet point (Table 16.4). A rebuild unit ends with its checkpoint, and a seam check and a margining pass are one step here. -/
def State.quiet (s : State) (f : Nat) : Bool :=
  match f with
  | 0 => !(s.cold.ops.any fun o => o.kind == .promotion || o.kind == .release) && s.hot.hints.isEmpty &&
      !(s.flight.any fun r => r.kind == .pageOp .promotion || r.kind == .pageOp .release)
  | 1 => s.cold.victims.isEmpty && !(s.cold.ops.any fun o => o.kind == .relocation)
  | 4 => (List.range 16).all (fun ch => !s.on (Reg.DCC_STS_TRAINING ch) && (s.dcc ch).retrain.isEmpty) && s.dram.stackHeld.isEmpty &&
      (List.range 2).all s.stackSettled
  | 5 => s.keysQuiet
  | 6 => s.flt.awaiting.isEmpty
  | 7 => !((List.range 64).any fun i => (s.cinch i).waiting)
  | _ => true

/-- The hints of a Tier Pages command act, as TIER_HINT's do (R320); its reply gives status 0x12 where a promotion found no free shed frame, and the pages
acted on. -/
def tierPages (via : CmdPath) (ld dpa len : Nat) (promote : Bool) (s : State) : State :=
  let r := (List.range (len / 4096)).foldl (fun (x : Nat × Bool × State) i =>
    let p := x.2.2.gpnOf ld (dpa + 4096 * i)
    match hintPage promote p portPlaza x.2.2 with
    | .none => x
    | .short => (x.1, true, x.2.2)
    | .acted t => (x.1 + 1, x.2.1, t)
    | .busy k => (x.1 + 1, x.2.1, queueOp k p portPlaza x.2.2)) (0, false, s)
  answer via rcSuccess ((if r.2.1 then 0x12 else 0) :: leBytes 4 r.1) r.2.2

/-- The work that a pending switch held goes on under the new mode. -/
def resumeHeld (f : Nat) (s : State) : State :=
  match f with
  | 0 => forAll s.hot.held (s.onHot fun h => { h with held := [] }) fun t r => tierPages r.1 r.2.1 r.2.2.1 r.2.2.2.1 r.2.2.2.2 t
  | 5 => enableKeyed s
  | 7 => forAll s.qos.heldReq (s.onQos fun q => { q with heldReq := [] }) fun t r => judgeCinch r.1 r.2 t
  | _ => s

/-- FUNCTION_MODE_SWITCH (R465, R466): at the quiet point MODE_ACT takes MODE, and the event names function, mode and the victims dropped. -/
def execFunctionModeSwitch (f : Fin 8) (s : State) : Res :=
  if !s.switching f then .next s
  else
    let s1 := if f.val = 4 ∧ s.fld (modeFld 4) = 0 then applyHeld s else s
    if !s1.quiet f then done s1
    else
      let n := if f.val = 1 then s1.cold.hostVictims.length else 0
      let s2 := if f.val = 1 then s1.onCold fun c => { c with hostVictims := [] } else s1
      let s3 := (s2.setFld (actFld f) (s2.fld (modeFld f))).vendor 0 0x0140 [f, s2.fld (modeFld f), n]
      done (resumeHeld f s3)

/-! ### Faults (R334, R335, R344, R345, R356) -/

/-- The EXT bytes of a vendor record (Table 11.7). Where the table gives the content without its layout, the numbers stand in 8 bytes each (log entry 60). -/
def extBytes (kind : Nat) (d : List Nat) : List Nat :=
  let l := match kind with
    | 0x0141 => [d.getD 0 0, d.getD 1 0, 0, 0] ++ leBytes 4 (d.getD 2 0)
    | 0x0142 => leBytes 2 (d.getD 0 0)
    | 0x0140 => []
    | _ => if (0x0101 ≤ kind ∧ kind ≤ 0x0106) ∨ (0x0110 ≤ kind ∧ kind ≤ 0x0114) then d.flatMap (leBytes 8) else []
  (l ++ List.replicate 48 0).take 48

/-- The 80 bytes of a record of the fault log (Table 11.7). -/
def logBytes (r : Nat × Event) : List Nat :=
  let row := fun (kind inst flags : Nat) (detail ext : List Nat) =>
    leBytes 2 kind ++ [inst % 256, flags % 256] ++ leBytes 8 r.1 ++ leBytes 4 0 ++ ((detail.flatMap (leBytes 4)) ++ List.replicate 16 0).take 16 ++ ext
  match r.2 with
  | .fault src inst flags info => row src inst flags info (extBytes src [])
  | .vendor kind d => row kind 0 0 (if 0x0100 < kind ∧ (kind = 0x0140 ∨ (0x0120 ≤ kind ∧ kind ≤ 0x0131)) then d else []) (extBytes kind d)
  | .media gpn line pages _ inj => row 0 0 inj.toNat [gpn, line, pages] (extBytes 0 [])
  | .dram src slot rank bank row_ inj => row src slot inj.toNat [rank, bank, row_] (extBytes 0 [])
  | .module src slot st inj => row src slot inj.toNat [st] (extBytes 0 [])
  | .capacity kind ld gib => row kind ld 0 [gib] (extBytes 0 [])

/-- GET_FAULT_LOG (R356): `n` records from the `first` newest on. -/
def execGetFaultLog (via : CmdPath) (first n : Nat) (s : State) : Res :=
  done (mgrCmd via (fun t => answer via rcSuccess (((t.flt.log.drop first).take n).flatMap logBytes) t) s)

/-- CLEAR_FAULT (R343, R344): the latch where its reaction is complete, the named PEND bits and, on request, RST_HIST and RST_NVW.VALID. -/
def execClearFault (via : CmdPath) (srcs : List (Fin 64)) (hist : Bool) (s : State) : Res :=
  done (mgrCmd via (fun t =>
    let t1 := if t.on Reg.FLT_FIRST_VALID && t.on Reg.FLT_FIRST_DONE then clearFirst t else t
    let t2 := forAll srcs t1 fun u k => u.setFld (Reg.FLT_SSTS_PEND k) 0
    let t3 := if hist then (t2.setFld Reg.RST_HIST_SEEN 0).setFld Reg.RST_NVW_VALID 0 else t2
    answer via rcSuccess [] t3) s)

/-- The blocks that Apply Reaction with code 0xFF may return (R335): slices, stitchers and engines that are fenced, in host-assisted mode. -/
def State.returnable (s : State) (src inst : Nat) : List Block :=
  if !s.on Reg.FLT_CFG_MODE_ACT then []
  else (s.blocksOf { src := src, inst := inst }).filter fun b => s.isFenced b && !s.cutOff b && !(s.rst.blocks.any fun x => x.dom == b.dom) && (match b with
    | .slice _ | .stitcher _ | .engine _ => true
    | _ => false)

/-- APPLY_REACTION (R334, R335, Table 16.6). -/
def execApplyReaction (via : CmdPath) (src inst code : BitVec 8) (s : State) : Res :=
  let k := src.toNat
  done (mgrCmd via (fun t =>
    if code.toNat = 0xFF then
      (match t.returnable k inst.toNat with
       | [] => answer via rcInvalidInput [] t
       | bs => answer via rcSuccess [] (forAll bs t fun u b => returnReset b u))
    else match t.waiting k inst.toNat with
      | none => answer via rcInvalidInput [] t
      | some d =>
        if code.toNat < t.fld (Reg.FLT_REACT_FLOOR k) ∨ 7 < code.toNat then answer via rcInvalidInput [] t
        else decideReport code.toNat d (answer via rcSuccess [] t)) s)

/-- INJECT_FAULT (R345): the reply gives FLT_FORCE_STS.CODE. -/
def execInjectFault (via : CmdPath) (j : Injection) (s : State) : Res :=
  done (mgrCmd via (fun t =>
    let t1 := match j with
      | .force src inst => forceReport (src.toNat % 64) inst.toNat t
      | .arm tgt inst bit => armInjection tgt.toNat inst.toNat bit.toNat t
    answerCode via (t1.fld Reg.FLT_FORCE_STS_CODE) t1) s)

/-! ### Service of DIMMs and slots, tiering, collection, patrol, training, rebuild -/

/-- DIMM_SERVICE (R251 to R255): the reply gives DCM_SVC_STS.CODE. -/
def execDimmService (via : CmdPath) (cmd : BitVec 3) (ch : Fin 16) (z : Fin 2) (s : State) : Res :=
  let c := cmd.toNat
  done (mgrCmd via (fun t =>
    if 1 ≤ c ∧ c ≤ 4 then
      let t1 := svcCommand c ch z t
      answerCode via (t1.fld Reg.DCM_SVC_STS_CODE) t1
    else answer via rcInvalidInput [] t) s)

/-- SLOT_POWER (R409): the reply gives SUP_CMD_STS.CODE. -/
def execSlotPower (via : CmdPath) (cmd : BitVec 3) (j : Fin 64) (s : State) : Res :=
  let c := cmd.toNat
  done (mgrCmd via (fun t =>
    if 1 ≤ c ∧ c ≤ 3 then
      let t1 := supCommand c j t
      answerCode via (t1.fld Reg.SUP_CMD_STS_CODE) t1
    else answer via rcInvalidInput [] t) s)

/-- TIER_PAGES (R320, Table 16.5): a range of whole pages inside the LD's capacity; while a switch of the tiering mode is pending it waits. -/
def execTierPages (via : CmdPath) (ld : Fin 16) (dpa len : Nat) (promote : Bool) (s : State) : Res :=
  done (vendorCmd (ldPath ld via) via (fun t =>
    if dpa % 4096 ≠ 0 ∨ len % 4096 ≠ 0 ∨ len = 0 ∨ ((List.range (len / 4096)).any fun i => !t.inCapacity ld (dpa + 4096 * i)) then answer via rcInvalidInput [] t
    else if t.switching 0 then t.onHot fun h => { h with held := h.held ++ [(via, ld.val, dpa, len, promote)] }
    else tierPages via ld dpa len promote t) s)

/-- NAME_GC_VICTIMS (R173): up to 64 segments of the population join the queue, in host-assisted mode. -/
def execNameGcVictims (via : CmdPath) (segs : List Nat) (s : State) : Res :=
  done (mgrCmd via (fun t =>
    if 64 < segs.length ∨ (segs.any fun g => decide (t.cold.nSeg ≤ g)) ∨ !t.on Reg.CTM_GC_CFG_MODE_ACT then answer via rcInvalidInput [] t
    else answer via rcSuccess [] (nextHostVictim (t.onCold fun c => { c with hostVictims := c.hostVictims ++ segs.filter fun g => !c.hostVictims.contains g }))) s)

/-- PATROL_RANGE (R238): first and last seam, in host-assisted mode. -/
def execPatrolRange (via : CmdPath) (first last : Nat) (s : State) : Res :=
  done (mgrCmd via (fun t =>
    if last < first ∨ t.cold.nSeg * 4096 ≤ last ∨ !t.on Reg.DCM_MODE_PATROL_ACT then answer via rcInvalidInput [] t
    else answer via rcSuccess [] (t.onDcm fun d => { d with ranges := d.ranges ++ [(first, last + 1)] })) s)

/-- GET_TRAINING_RESULTS (R232): the ranks that failed, or the lanes of a stack's groups, that a unit holds. -/
def execGetTrainingResults (via : CmdPath) (u : TrainUnit) (s : State) : Res :=
  done (mgrCmd via (fun t =>
    let r : Option (List Nat) := match u with
      | .channel ch => (t.dcc ch).held.map fun (l : List (Nat × Nat)) => l.flatMap fun e => [e.1, e.2]
      | .stack st => (t.dram.stackHeld.find? fun h => h.1 == st.val).map fun (h : Nat × Nat × List Nat) => h.2.2
    match r with
    | some l => answer via rcSuccess (l.length :: l) t
    | none => answer via rcInvalidInput [] t) s)

/-- COMMIT_TRAINING_SETTINGS (R232): settings that pass the read-back check are applied; otherwise the unit's own results are, and an event says so. -/
def execCommitTrainingSettings (via : CmdPath) (u : TrainUnit) (settings : Nat) (pass : Bool) (s : State) : Res :=
  done (mgrCmd via (fun t =>
    match u with
    | .channel ch =>
      (match (t.dcc ch).held with
       | none => answer via rcInvalidInput [] t
       | some fs =>
         let t1 := answer via rcSuccess [if pass then 0 else 1] t
         if pass then finishTraining ch [] (t1.updDcc ch fun d => { d with applied := some settings })
         else (finishTraining ch fs (t1.updDcc ch fun d => { d with applied := none })).vendor 0 0x0123 [ch])
    | .stack st =>
      (match t.dram.stackHeld.find? fun h => h.1 == st.val with
       | none => answer via rcInvalidInput [] t
       | some h =>
         let t1 := answer via rcSuccess [if pass then 0 else 1] t
         if pass then stackTrained st [] t1 else (stackTrained st h.2.2 t1).vendor 0 0x0123 [16 + st.val])) s)

/-- SET_REBUILD_RATE (R247). -/
def execSetRebuildRate (via : CmdPath) (mibs : BitVec 16) (s : State) : Res :=
  done (mgrCmd via (fun t => answer via rcSuccess [] (t.setFld Reg.DCM_REB_CFG_RATE_HOST mibs.toNat)) s)

/-! ### Resets, keys and the life cycle (R189, R213, R217, R440, R441) -/

/-- BLOCK_RESET (R440): the reply gives RST_CMD_STS.CODE. -/
def execBlockReset (via : CmdPath) (dom : BitVec 8) (s : State) : Res :=
  done (mgrCmd via (fun t =>
    let t1 := commandLevel3 dom.toNat t
    answerCode via (t1.fld Reg.RST_CMD_STS_CODE) t1) s)

/-- WARM_RESET (R441). -/
def execWarmReset (via : CmdPath) (s : State) : Res := done (mgrCmd via (fun t => moduleSource 0x0B 0 (answer via rcSuccess [] t)) s)

/-- COLD_RESET (R444). -/
def execColdReset (via : CmdPath) (s : State) : Res := done (mgrCmd via (fun t => moduleSource 0x0D 0 (answer via rcSuccess [] t)) s)

/-- The check of Inject Root Key (Table 16.6): bytes 0 to 3 of AES-256 under the key of a zero block, as the payload holds them. -/
def keyCheck (key : BitVec 256) : Nat :=
  ((Crypto.aesBlock (Crypto.keySchedule (Crypto.keyBytes key)) (List.replicate 16 0)).take 4).foldr (fun b a => b + 256 * a) 0

/-- INJECT_ROOT_KEY (R189, Tables 6.8 and 16.6): in a session that the LD may be reached by, for an LD whose window is open, unless the module is Retired; the window closes on it. A refusal counts. -/
def execInjectRootKey (via : CmdPath) (ld : BitVec 8) (rsvd : BitVec 24) (key : BitVec 256) (check : BitVec 32) (s : State) : Res :=
  let k := ld.toNat
  done (vendorCmd (spdmPath via && (decide (16 ≤ k) || s.injectPath k via)) via (fun t =>
    if 16 ≤ k ∨ rsvd ≠ 0 then answer via rcInvalidInput [] t
    else if !t.windowOpen k ∨ t.lifeCycle = 3 ∨ keyCheck key ≠ check.toNat then answer via rcInvalidInput [] (t.count Reg.CRY_INJ_REFUSED)
    else
      let t1 := freshItem (.root k) (setKeySrc k 2 (t.onVault fun v => { v with roots := SMap.put none v.roots k (some key) }))
      answer via rcSuccess [] (enableKeyed (t1.setBitOf Reg.CRY_INJ_WIN_OPEN k false))) s)

/-- Whether a change of life-cycle state is in progress (R217). -/
def State.lcChanging (s : State) : Bool := match s.flash.job with
  | some (.lifeCycle _) => true
  | _ => false

/-- The changes that Table 6.8 allows. -/
def lcAllowed (src dst : Nat) : Bool := [(0, 1), (0, 2), (1, 2), (1, 3), (2, 3)].contains (src, dst)

/-- SET_LIFE_CYCLE_STATE (R213): the fuses are programmed, then Level 5 and the overwrite follow. -/
def execSetLifeCycleState (via : CmdPath) (target : LifeCycle) (auth : Bool) (s : State) : Res :=
  done (vendorCmd (spdmPath via) via (fun t =>
    if !auth || !lcAllowed t.lifeCycle (lcCode target) then answer via rcInvalidInput [] t
    else if !t.flashFree then refuse via rcBusy t
    else nvWrite 1 (.lifeCycle target) (answer via rcSuccess [] t)) s)

/-- The paths of Secure Erase and Sanitize (R217): the FM API, or an LD's mailbox while the module presents one LD. -/
def State.erasePath (s : State) : CmdPath → Bool
  | .fmApi => true
  | .mailbox _ => s.allLds.length == 1
  | _ => false

/-- Secure Erase, or Sanitize with its overwrite (R216, R217). -/
def eraseModule (overwrite : Bool) (via : CmdPath) (s : State) : State :=
  cxlCmd false (s.erasePath via) via (fun t =>
    if t.lcChanging then answer via rcBusy [] t
    else
      let t1 := answer via rcSuccess [] t
      moduleSource 0x0E 0 (if overwrite then (t1.onRst fun r => { r with overwrite := true }).setFld Reg.CRY_STS_WIPING 1 else t1)) s

/-- SECURE_ERASE (R217). -/
def execSecureErase (via : CmdPath) (s : State) : Res := done (eraseModule false via s)

/-- SANITIZE (R217). -/
def execSanitize (via : CmdPath) (s : State) : Res := done (eraseModule true via s)

/-! ### Firmware (R471 to R474) -/

/-- GET_FW_INFO (R471): two slots, the running and the staged one, and their versions. -/
def execGetFwInfo (via : CmdPath) (s : State) : Res :=
  done (cxlCmd true (cxlPath via) via (fun t =>
    let ver := fun (n : Nat) => leBytes 16 ((t.fwImage n).map FwImage.version |>.getD 0)
    answer via rcSuccess ([2, t.flash.runSlot + 8 * t.flash.staged, 1] ++ List.replicate 13 0 ++ ver 1 ++ ver 2 ++ List.replicate 32 0) t) s)

/-- TRANSFER_FW (R471): into the slot that is not running, verified at its end. -/
def execTransferFw (via : CmdPath) (a : Transfer FwImage) (s : State) : Res :=
  done (cxlCmd true (cxlPath via) via (fun t =>
    let slot := 3 - t.flash.runSlot
    match a, t.mgmt.fwTransfer with
    | .initiate, none => beginJob via 3 (.erase true slot) t
    | .initiate, some _ => answer via rcFwInProgress [] t
    | .more n, some _ => if n = 0 then answer via rcInvalidInput [] t else beginJob via 2 (.chunk true n) t
    | .finish img, some _ => beginJob via 2 (.firmware slot img) t
    | .abort, some _ => answer via rcSuccess [] (t.onMgmt fun m => { m with fwTransfer := none })
    | _, none => answer via rcFwOutOfOrder [] t) s)

/-- Whether some function waits for a host decision (R472). -/
def State.hostAwaited (s : State) : Bool :=
  !s.flt.awaiting.isEmpty || ((List.range 64).any fun i => (s.cinch i).waiting) || ((List.range 16).any fun ch => (s.dcc ch).held.isSome) || !s.dram.stackHeld.isEmpty

/-- An online activation accepted (Table 16.7, steps 1 to 3): the standby core runs the resident service and the core pair is reset. -/
def beginActivation (via : CmdPath) (slot : Nat) (s : State) : State :=
  let s1 := (s.onMgmt fun m => { m with act := some (slot, s.clk), actVia := some via }).setFld Reg.MGT_STS_ACTIVATING 1
  blockSource 0x0A 130 ((s1.setFld Reg.MGT_STS_RESIDENT 1).setCond 131 .on)

/-- ACTIVATE_FW (R471, R472). -/
def execActivateFw (via : CmdPath) (slot : Fin 4) (online : Bool) (s : State) : Res :=
  done (cxlCmd true (cxlPath via) via (fun t =>
    if !(slot.val == 1 || slot.val == 2) || (t.fwImage slot).isNone then answer via rcFwInvalidSlot [] t
    else if !online then answer via rcSuccess [] ((t.onFlash fun f => { f with staged := slot }).setFld Reg.MGT_FW_STAGED slot)
    else if !t.on Reg.MGT_STS_STANDBY_OK || t.isFenced (.domain 131) || t.on Reg.MGT_STS_CORE then refuse via rcUnsupported t
    else if t.hostAwaited || ((List.range 8).any t.switching) || t.mgmt.mgrBusy || (t.rst.blocks.any fun b => b.dom == 130) then refuse via rcBusy t
    else beginActivation via slot t) s)

/-- An online activation over: the reply goes out, the resident service ends and the standby core is off. -/
def endActivation (rc t0 : Nat) (back : Bool) (s : State) : State :=
  let s1 := ((s.setFld Reg.MGT_STS_ACTIVATING 0).setFld Reg.MGT_STS_RESIDENT 0).setFld Reg.MGT_ACT_TIME_MS (Nat.min 65535 ((s.clk - t0) / ms))
  let s2 := (s1.setBit Reg.MGT_ACT_TIME_ROLLED_BACK back).setCond 131 (s1.tableCond 0 131)
  match s.mgmt.actVia with
  | some via => answer via rc [] (s2.onMgmt fun m => { m with act := none, actVia := none })
  | none => s2.onMgmt fun m => { m with act := none }

/-- FW_ACTIVATION_HANDOVER (Table 16.7, steps 5 and 6): once the core pair is out of reset, the new firmware runs and MGT_FW names it. -/
def execFwActivationHandover (s : State) : Res :=
  match s.mgmt.act with
  | none => .next s
  | some (slot, t0) =>
    match s.fwImage slot with
    | none => .next s
    | some img =>
      if (s.rst.blocks.any fun b => b.dom == 130) || s.isFenced .plazaPair || s.on Reg.MGT_STS_FW_RUN then .next s
      else done (endActivation rcSuccess t0 false (firmwareStarts img (s.onFlash fun f => { f with runSlot := slot })))

/-- FW_ACTIVATION_TIMEOUT (R474): the boot ROM restarts the previous slot. -/
def execFwActivationTimeout (failed : Bool) (s : State) : Res :=
  match s.mgmt.act with
  | none => .next s
  | some (_, t0) =>
    let s1 := if failed then s else s.until (t0 + 500 * ms)
    match s1.fwImage s1.flash.runSlot with
    | some img => done (endActivation rcFwRolledBack t0 true (firmwareStarts img s1))
    | none => done (endActivation rcFwRolledBack t0 true s1)

/-! ### PLDM (R470) and new capacity (R48) -/

/-- A sensor's reading: 0 to 35 the voltage in mV and 64 to 99 the current in 10 mA of a supply channel; 128 to 191 the two sensors of a DIMM; 192 and 193 the
stacks; 200 the die, whose reading no state holds (free). The numbers are the model's (log entry 60). -/
def State.sensor (s : State) (id : Nat) : Option Nat :=
  if id < 36 then some (s.chan id).sampleMv
  else if 64 ≤ id ∧ id < 100 then some (s.chan (id - 64)).sampleCur
  else if 128 ≤ id ∧ id < 192 then
    let k := id - 128
    some ((s.reg (Reg.DCC_TEMP (k / 4))).toNat / 256 ^ (k % 4) % 256)
  else if id = 192 ∨ id = 193 then some (s.fld (Reg.HTC_PHY_STS_TEMP (id - 192)))
  else if id = 200 then some (s.freeVal 8).toNat
  else none

/-- The FRU record of the module, or of a DIMM from its SPD. -/
def State.fru (s : State) (d : Option (Fin 32)) : List Nat :=
  match d with
  | none => leBytes 4 (s.reg Reg.IDG_PART).toNat ++ leBytes 8 (s.pair Reg.IDG_SERIAL_LO Reg.IDG_SERIAL_HI)
  | some k => match (s.dimm (k / 2) (k % 2)).info with
    | some i => [1, i.mr.toNat, i.ranks] ++ leBytes 2 i.capGib ++ leBytes 8 i.serial
    | none => [0]

/-- What the capability structures of a head advertise (Tables 2.2 and 2.3). -/
def advertises : LinkOption → Bool
  | .flitMode | .l0p | .aspmL1 | .ptmResponder | .aer | .doe | .laneReversal | .cxlIo | .cxlMem | .backInvalidate | .dynamicCapacity | .sharableExtents
  | .ideContainment | .poison | .viral | .devLoad => true
  | .nonFlitMode | .aspmL0s | .l1Substates | .ptmRequester | .dpc | .cxlCache | .ideSkid | .persistentMemory | .globalPersistentFlush
  | .globalFabricAttached => false

/-- The CDAT reply of LD `k` (R46): latencies in ns, bandwidths in MB/s, 8 bytes each (the layout is the model's, log entry 60); an LD of no head has none. -/
def State.cdatBytes (s : State) (k : Nat) : Option (List Nat) :=
  (s.headOf k).map fun h =>
    let c := s.cdat h
    leBytes 8 c.readNs ++ leBytes 8 c.writeNs ++ leBytes 8 c.read ++ leBytes 8 c.write

/-- The FM API's LD information: the memory of all LDs in GiB and the number of LDs with a head (Table 2.3). -/
def State.fmLdInfo (s : State) : List Nat :=
  leBytes 8 ((s.layout.lds.map fun l => l.staticGib + l.dcGib).foldl (· + ·) 0) ++ leBytes 2 (s.layout.lds.filter fun l => l.head.isSome).length

/-- The FM API's LD allocations: the static and the dynamic GiB of each LD. -/
def State.fmLdAllocations (s : State) : List Nat := s.layout.lds.flatMap fun l => leBytes 8 l.staticGib ++ leBytes 8 l.dcGib

/-- The path of a request: the FM API's own, or the sideband. -/
def requestVia : PldmRequest → CmdPath
  | .fmLdInfo | .fmLdAllocations | .fmQosControl => .fmApi
  | .measurements => .spdm none
  | .vendorOpcode via _ => via
  | _ => .sideband

/-- Whether a debug access may read `x` (Table 6.8): in the Manufacture and Development states, the key vault never. -/
def State.debugOpen (s : State) (x : DebugTarget) : Bool := decide (s.lifeCycle ≤ 1) && x != .keyVault

/-- The opcodes that Table 16.5 lists; each has a command of its own here. -/
def vendorOpcodes : List Nat :=
  [0xC000, 0xC001, 0xC002, 0xC003, 0xC004, 0xC005, 0xC010, 0xC011, 0xC012, 0xC020, 0xC021, 0xC022, 0xC023, 0xC030, 0xC031, 0xC040, 0xC041, 0xC042, 0xC043,
   0xC044, 0xC045, 0xC050, 0xC051, 0xC052, 0xC060, 0xC061]

/-- A vendor command by its opcode alone (R468): one that Table 16.5 does not list completes with Unsupported; a listed one is the command of its own name,
and this request adds nothing to it. -/
def vendorByOpcode (via : CmdPath) (op : Nat) (s : State) : State := if vendorOpcodes.contains op then s else refuse via rcUnsupported s

/-- The answer to a request. -/
def pldmReply (r : PldmRequest) (t : State) : State :=
  match r with
  | .vendorOpcode via op => vendorByOpcode via op.toNat t
  | .cdat k => (match t.cdatBytes k with
    | some b => answer .sideband rcSuccess b t
    | none => answer .sideband rcInvalidInput [] t)
  | .advertised o => answer .sideband rcSuccess [(advertises o).toNat] t
  | .fmLdInfo => answer .fmApi rcSuccess t.fmLdInfo t
  | .fmLdAllocations => answer .fmApi rcSuccess t.fmLdAllocations t
  | .fmQosControl => answer .fmApi rcUnsupported [] t
  | .measurements => answer (.spdm none) rcSuccess [t.lifeCycle] t
  | .debugAccess x => answer .sideband rcSuccess [(t.debugOpen x).toNat] t
  | .sensor id => (match t.sensor id with
    | some v => answer .sideband rcSuccess (leBytes 4 v) t.spent
    | none => answer .sideband rcInvalidInput [] t)
  | .fru d => answer .sideband rcSuccess (t.fru d) t

/-- PLDM_REQUEST (R470), with the CDAT (R46), the advertised options (R37, R39) the life-cycle state of the SPDM measurements and the debug accesses it
allows (R212), and the FM API's requests; its QoS-control commands are answered as unsupported, because contracts are set as cinches (Table 2.3). -/
def execPldmRequest (r : PldmRequest) (s : State) : Res :=
  done (match r with
  | .vendorOpcode _ _ => pldmReply r s
  | _ => cxlCmd false true (requestVia r) (pldmReply r) s)

/-- The status of a request that the accounting cannot back (R48; PRESUMED: CXL's Resources Exhausted, log entry 41). -/
abbrev rcExhausted : Nat := 0x1D

/-- The GiB of LD `k` that may be offered now, lowest first. -/
def State.offerable (s : State) (k : Nat) : List Nat :=
  let l := s.ldLayout k
  ((List.range l.dcGib).map (l.staticGib + ·)).filter fun g => s.mayOffer k g false

/-- NEW_CAPACITY_REQUEST (R48, R179): backed by offers, or refused with an explicit status. -/
def execNewCapacityRequest (ld : Fin 16) (n : Nat) (s : State) : Res :=
  let via := CmdPath.mailbox ld
  done (cxlCmd false true via (fun t =>
    let gs := (t.offerable ld).take n
    if n = 0 then answer via rcInvalidInput [] t
    else if t.offersAllowed < n ∨ gs.length < n then answer via rcExhausted [] t
    else answer via rcSuccess [] (forAll gs t fun u g => offer ld g none u)) s)

end Sys2Proof.Machine
end

