-- ==== Sys2Proof/Machine/Pmu.lean ====
section
/-! DEFINITION. The meanings of the PMU's commands (chapter 17). -/
namespace Sys2Proof.Machine

open Sys2Proof

/-- Whether a path may write PMU registers (R488): the plaza, or a head that presents an LD named in CFG_MGR. -/
def State.pmuPath (s : State) : Path → Bool
  | .plaza => true
  | .head h _ => (s.ldsOf h).any (fun k => s.bitOf Reg.CFG_MGR_MGR_LD k)

/-- The power domain of an event's source block (Tables 12.1 and 17.1). -/
def occDomain (o : Occurrence) : Nat :=
  match o.block with
  | 1 => o.inst
  | 2 => 8 + o.inst
  | 3 => 90 + o.inst
  | 4 => 42 + o.inst
  | 5 => 58 + o.inst
  | 6 => 122 + o.inst
  | 7 => 110 + 2 * (o.inst / 8) + o.inst % 8 / 4
  | 8 => 117
  | 9 => 130
  | _ => 133

/-- The window length in ns (R484): 0 acts as 1 µs, values above 1,000,000 µs as 1,000,000. -/
def State.window (s : State) : Nat := clamp 1 1000000 (s.fld Reg.PMU_WIN_CFG_WIN_US) * 1000

/-- PMU_EVENT (R478, R486): an occurrence of a block that is On; a block that is Stopped, Retained, Off or fenced reports none. -/
def execPmuEvent (o : Occurrence) (s : State) : Res :=
  .next (if s.cond (occDomain o) == .on then s.occur o else s)

/-- The 26 fixed counters latched, their accumulators restarted, SEQ advanced with ADJ and SLEPT of the window that ended (R483 to R486). -/
def latchWindow (s : State) : State :=
  let s1 := forAll (List.range 26) s fun t k => t.setPair (Reg.PMU_FIX_LO k) (Reg.PMU_FIX_HI k) (SMap.get 0 s.pmu.acc k)
  let s2 := ((s1.wrap Reg.PMU_WIN_SEQ_SEQ).setBit Reg.PMU_WIN_SEQ_ADJ s.pmu.adjusted).setBit Reg.PMU_WIN_SEQ_SLEPT s.pmu.slept
  s2.onPmu fun p => { p with acc := [], winStart := s.time, adjusted := false, slept := decide (2 ≤ s.fld Reg.PWR_STS_STATE) }

/-- PMU_WINDOW_BOUNDARY (R484): when TIME_NS reaches the next multiple of the window length. -/
def execPmuWindowBoundary (s : State) : Res :=
  let nb := (s.pmu.winStart / s.window + 1) * s.window
  .next (latchWindow (s.advance (nb - s.time)))

/-- PMU_FIX_SEL (`fix`) or PMU_WIN_CFG written with `v` (R484): the window under way ends without a latch. -/
def restartWindow (fix : Bool) (v : Nat) (s : State) : State :=
  let s1 := if fix then s.setFld Reg.PMU_FIX_SEL_MPORT v else s.setFld Reg.PMU_WIN_CFG_WIN_US v
  s1.onPmu fun q => { q with acc := [], winStart := s.time }

/-- PMU_WINDOW_RESTART (R484, R488). -/
def execPmuWindowRestart (p : Path) (fix : Bool) (v : BitVec 32) (s : State) : Res :=
  if s.pmuPath p then .next (restartWindow fix v.toNat s) else done s.accessFault

/-- A write to PMU_CTL (R475, R478): FREEZE and FREEZE_ON_OVF, and with CLEAR_ALL every programmable counter and PMU_OVF to 0. -/
def writePmuCtl (v : BitVec 32) (s : State) : State :=
  let s1 := ((s.setBit Reg.PMU_CTL_FREEZE (v.getLsbD 0)).setBit Reg.PMU_CTL_FREEZE_ON_OVF (v.getLsbD 2)).onPmu fun p => { p with freezeAt := none, late := [] }
  if v.getLsbD 1 then
    let s2 := forAll (List.range 96) s1 fun t i => t.setPair (Reg.PMU_CTR_LO i) (Reg.PMU_CTR_HI i) 0
    forAll (List.range 3) s2 fun t j => t.setReg (Reg.PMU_OVF j) 0
  else s1

/-- PMU_CLEAR_ALL (R475, R488). -/
def execPmuClearAll (p : Path) (v : BitVec 32) (s : State) : Res :=
  if s.pmuPath p then .next (writePmuCtl v s) else done s.accessFault

end Sys2Proof.Machine
end

