-- ==== Sys2Proof/Machine/Power.lean ====
section
/-! DEFINITION. The meanings of the power controller's commands (chapter 12). -/
namespace Sys2Proof.Machine

open Sys2Proof

/-- LATENCY_TOLERANCE_WRITE (R365): HPA_LAT_TOL of a present head takes the value; a state that has become too deep is left with wake code 0x06.
The registers of an absent head ignore writes (R34). -/
def execLatencyToleranceWrite (_p : Path) (h : Fin 4) (v : BitVec 32) (s : State) : Res :=
  if s.present h then .next (recheckAllowed (s.setFld (Reg.HPA_LAT_TOL_TOL_NS h) v.toNat)) else .next s

/-- DOMAIN_POWER_DOWN (R361, Table 12.4): domain `d` and its Trim group are gated when every one of them may be, TRIM_IDLE after the last use of those that Trim gates. -/
def execDomainPowerDown (d : Fin 144) (s0 : State) : Res :=
  let g := s0.trimGroup d
  let used := (g.filter fun k => s0.gateTarget k == some .retained).map fun k => SMap.get 0 s0.pwr.usedAt k
  let s := s0.until (used.foldl Nat.max 0 + if used.isEmpty then 0 else zeroAsOne (s0.fld Reg.PWR_CFG_TRIM_IDLE) * 100)
  if g.all (fun k => (s.gateTarget k).isSome) then
    .next (forAll g s fun t k => match s.gateTarget k with
      | some c => gateDomain k c t
      | none => t)
  else .next s0

/-- DOMAIN_POWER_UP (R363). -/
def execDomainPowerUp (d : Fin 144) (s : State) : Res := .next (wakeDomain d s)

/-- DOZE_ENTRY (R366, R369): once the module has been idle for DOZE_IDLE. -/
def execDozeEntry (s : State) : Res :=
  let s1 := s.until (s.pwr.idleSince + s.dozeIdle)
  if s1.mayEnter 2 ∧ s.fld Reg.PWR_STS_STATE = 0 then .next (dozeDown s1) else .next s

/-- DOZE_EXIT (R370): the exit that a wake asked for. -/
def execDozeExit (s : State) : Res :=
  if s.fld Reg.PWR_STS_STATE = 2 ∧ s.pwr.wake.isSome then .next (serveWake s) else .next s

/-- KEEP_ENTRY (R366, R371): once the module has been idle for KEEP_IDLE; from Doze it first makes the exit of Table 12.7, which records no wake. -/
def execKeepEntry (s : State) : Res :=
  let s1 := s.until (s.pwr.idleSince + s.keepIdle)
  if s1.mayEnter 3 ∧ s.fld Reg.PWR_STS_STATE ≠ 3 then
    .next (keepBegin (if s1.fld Reg.PWR_STS_STATE = 2 then dozeUp s1 else s1))
  else .next s

/-- KEEP_RELEASES_DONE (Table 12.8, steps 2 to 6). -/
def execKeepReleasesDone (s : State) : Res :=
  if s.pwr.move == .keepReleasing then .next (keepDown s) else .next s

/-- KEEP_EXIT (R372): the exit that a wake asked for begins with the voltage requests. -/
def execKeepExit (s : State) : Res :=
  if s.fld Reg.PWR_STS_STATE = 3 ∧ s.pwr.wake.isSome ∧ s.pwr.move == .none then .next (serveWake s) else .next s

/-- WAKE (R373, R374): codes 0x01 to 0x08 of Table 12.10; for code 0x02 the instance is the domain. Code 0x06 counts only when the allowed state is
shallower than the present one. -/
def execWake (src : Fin 9) (inst : BitVec 8) (s : State) : Res :=
  if src.val = 0 ∨ (src.val = 6 ∧ s.fld Reg.PWR_STS_STATE ≤ s.allowed) then .next s
  else .next (takeWake src inst.toNat (if src.val = 2 ∧ inst.toNat < 144 then some inst.toNat else none) s)

/-- MAINTENANCE_BURST (R368): 600 s after the sleep began, with wake code PATROL. -/
def execMaintenanceBurst (s : State) : Res :=
  if 2 ≤ s.fld Reg.PWR_STS_STATE ∧ ¬ s.on Reg.PWR_STS_FORCED then
    let s1 := s.until (s.pwr.burstAt + 600 * sec)
    .next ((serveWake (takeWake 7 0 none s1)).onPwr fun p => { p with inBurst := true })
  else .next s

/-- REGULATOR_ACK (R380). -/
def execRegulatorAck (rail : Fin 4) (s : State) : Res := .next (railsDone (ackVoltage rail s))

/-- VOLTAGE_ACK_TIMEOUT (R380): 100 µs after the request it is reported and repeated over PMBus; a repeat that is not acknowledged is settled
by the window comparator, and a rail outside its window is RAIL_FAIL. -/
def execVoltageAckTimeout (rail : Fin 4) (repeatAck inWindow : Bool) (s : State) : Res :=
  match s.pwr.reqs.find? (fun r => r.rail == rail.val) with
  | none => .next s
  | some r =>
    let s1 := ((s.until (r.at_ + 100000)).count Reg.PWR_REG_STS_TIMEOUTS).setFld Reg.PWR_REG_STS_RETRY 1
    let s2 := s1.report 0x2F 0 [(s1.reg Reg.PWR_REG_STS).toNat]
    if repeatAck || inWindow then done (railsDone (ackVoltage rail s2))
    else done ((s2.until (r.at_ + 125000)).report 0x2E 0 [(s2.reg Reg.PWR_REG_STS).toNat])

/-- VCORE_TRIM (R381): in Full and Trim, a request on VCORE inside 0.70 to 0.80 V. -/
def execVcoreTrim (mv : Nat) (s : State) : Res :=
  if s.fld Reg.PWR_STS_STATE = 0 ∧ s.pwr.move == .none then .next (requestVoltage 0 (clamp 700 800 mv) s) else .next s

end Sys2Proof.Machine
end

