-- ==== Sys2Proof/Machine/RegView.lean ====
section
/-! DEFINITION. What a read of a BAR2 register returns (R13, R15, R17, R18): the stored value, with the fields that report the module's state computed
from it. -/
namespace Sys2Proof.Machine

open Sys2Proof

/-! ### Heads, slices and the hot tier -/

/-- The HPA registers of head `h`; an absent head has HPA_CFG alone (R34). -/
def State.viewHead (s : State) (base h : Nat) (w : Word) : Word :=
  if base = Reg.HPA_CFG 0 then w
  else if !s.present h then 0
  else if base = Reg.HPA_PEN_STS 0 then
    showFld (Reg.HPA_PEN_STS_OCC h) (s.head h).pen.length
      (showFld (Reg.HPA_PEN_STS_TICKETS h) ((s.head h).pen.filter fun e => e.req.ticket.isSome).length w)
  else w

/-- Whether slice `n` is a free spare (R378). -/
def State.freeSpare (s : State) (n : Nat) : Bool := s.fld (Reg.HSL_STS_ROLE n) == 1

/-- The HSL registers of slice `n`; a free spare has HSL_STS alone (R378). -/
def State.viewSlice (s : State) (base n : Nat) (w : Word) : Word :=
  let x := s.slice n
  if base = Reg.HSL_STS 0 then w
  else if s.freeSpare n then 0
  else if base = Reg.HSL_SF_OCC 0 then showFld (Reg.HSL_SF_OCC_OCC n) (x.filter.filter fun e => e.2.state != 0).length w
  else if base = Reg.HSL_TKT_STS 0 then showFld (Reg.HSL_TKT_STS_ACTIVE n) x.tickets.length w
  else if base = Reg.HSL_TXM_STS 0 then showFld (Reg.HSL_TXM_STS_MIRROR n) x.txMirror.length (showFld (Reg.HSL_TXM_STS_OPEN n) x.txns.length w)
  else w

/-- The HTC registers of stack `st`, and those of the HTM. -/
def State.viewHot (s : State) (base st : Nat) (w : Word) : Word :=
  if base = Reg.HTC_STS 0 then showFld (Reg.HTC_STS_UNMIRRORED st) (s.unmirrored st) w
  else if base = Reg.HTC_FREE_KEEP 0 then showFld (Reg.HTC_FREE_KEEP_COUNT st) (s.freeKeepCount st) w
  else if base = Reg.HTC_FREE_SHED 0 then showFld (Reg.HTC_FREE_SHED_COUNT st) (s.freeShedCount st) w
  else if base = Reg.HTC_PRIM_DIRTY 0 then
    showFld (Reg.HTC_PRIM_DIRTY_COUNT st) (s.hot.desc.filter fun e => e.1 % 2 == st && e.2.isDirty).length w
  else if base = Reg.HTC_MIRROR 0 then showFld (Reg.HTC_MIRROR_COUNT st) (s.hot.desc.filter fun e => e.1 % 2 == st && e.2.kind == 2).length w
  else if base = Reg.HTM_DIRTY_PAGES then showFld Reg.HTM_DIRTY_PAGES_COUNT s.dirtyPages w
  else w

/-! ### The cold tier and the key vault -/

/-- The CTM registers; `j` is the index of an array register. -/
def State.viewCold (s : State) (base j : Nat) (w : Word) : Word :=
  if base = Reg.CTM_STS then showBit Reg.CTM_STS_DEGRADED_OPEN s.degradedOpen w
  else if base = Reg.CTM_SEGS then showFld Reg.CTM_SEGS_LOG (s.cold.nSeg - s.cold.nLedger) w
  else if base = Reg.CTM_FREE_SEGS then showFld Reg.CTM_FREE_SEGS_COUNT s.freeSegs w
  else if base = Reg.CTM_ELASTIC then showFld Reg.CTM_ELASTIC_AVAIL s.offersAllowed (showFld Reg.CTM_ELASTIC_HELD s.heldExtents w)
  else if base = Reg.CTM_FREE_MIB then BitVec.ofInt 32 s.freeMib
  else if base = Reg.CTM_JRNL_STS then
    showFld Reg.CTM_JRNL_STS_LIVE (s.liveRecords.length / 65536)
      (showFld Reg.CTM_JRNL_STS_BUF ((s.cold.journal.filter fun e => decide (s.cold.drained < recSeq e.2)).length / 65536) w)
  else if base = Reg.CTM_DIST_STS then
    showFld Reg.CTM_DIST_STS_ELAPSED_S (if s.fld Reg.CTM_DIST_STS_STAGE = 0 then 0 else (s.clk - s.cold.distressT0) / sec) w
  else if base = Reg.CTM_STCH 0 then showBit (Reg.CTM_STCH_OPEN j) (s.holdsSeam j) w
  else w

/-- The CRY registers as path `p` reads them (R18). -/
def State.viewVault (s : State) (p : Path) (base : Nat) (w : Word) : Word :=
  let k := (s.path (Path.key p)).cryEpochSel
  let e := if k < s.cold.nSlots then SMap.get {} s.vault.epochs k else {}
  if base = Reg.CRY_REENC_STS then showFld Reg.CRY_REENC_STS_ACTIVE s.reencActive (showFld Reg.CRY_REENC_STS_QUEUED s.reencQueued w)
  else if base = Reg.CRY_EPOCH_SEL then BitVec.ofNat 32 k
  else if base = Reg.CRY_EPOCH_DATA then BitVec.ofNat 32 e.epoch
  else if base = Reg.CRY_EPOCH_INFO then
    showBit Reg.CRY_EPOCH_INFO_HOLD e.hold (showBit Reg.CRY_EPOCH_INFO_REENC e.reenc
      (showFld Reg.CRY_EPOCH_INFO_KLD e.kld (showFld Reg.CRY_EPOCH_INFO_RIDX e.ridx w)))
  else w

/-! ### Contracts -/

/-- A state of Table 8.6 as QOS_CINFO encodes it. -/
def CinchSt.code : CinchSt → Nat
  | .free => 0
  | .pinning => 1
  | .active => 2
  | .demoted => 3

/-- A list of numbers below 32 as the bits that they name. -/
def bitsOf (l : List Nat) : Nat := l.foldl (fun a i => a ||| 2 ^ i) 0

/-- QOS_STS: the cinches that count are those not Free and the slots held by requests that await Confirm Cinch (R277). -/
def State.viewQosSts (s : State) (w : Word) : Word :=
  let held := s.slotsHeld.map Prod.snd
  showFld Reg.QOS_STS_PIN_GIB ((held.filter Cinch.pin).foldl (fun a c => a + c.lenGib) 0)
    (showFld Reg.QOS_STS_DEMOTED (held.filter fun c => c.st == .demoted).length
      (showFld Reg.QOS_STS_HELD held.length
        (showBit Reg.QOS_STS_SUPPLY_DEMOTE s.supplyLow (showBit Reg.QOS_STS_PENDING (held.any Cinch.waiting) w))))

/-- QOS_CAP. -/
def State.viewQosCap (s : State) (w : Word) : Word :=
  let both := [0, 1]
  showFld Reg.QOS_CAP_STITCH_OUT s.stitchersOut.length
    (showFld Reg.QOS_CAP_FAILED_CH s.affectedCh.length
      (showFld Reg.QOS_CAP_THR_CH s.throttledCh.length
        (showFld Reg.QOS_CAP_HSL_PAIRS s.pairedSlices.length
          (showFld Reg.QOS_CAP_REBUILDS s.rebuilds.length
            (showBit Reg.QOS_CAP_STK_FENCED (both.any fun st => s.isFenced (.stack st))
              (showFld Reg.QOS_CAP_STK_THR (bitsOf (both.filter fun st => s.on (Reg.HTC_PHY_STS_THROTTLE st)))
                (showFld Reg.QOS_CAP_HEAD_RED (bitsOf s.headsReduced) w)))))))

/-- The QOS registers as path `p` reads them: QOS_CINFO and the registers after it report the cinch that the path's QOS_CSEL names. -/
def State.viewQos (s : State) (p : Path) (base : Nat) (w : Word) : Word :=
  let k := (s.path (Path.key p)).qosCsel
  let c := s.cinch k
  if base = Reg.QOS_STS then s.viewQosSts w
  else if base = Reg.QOS_CAP then s.viewQosCap w
  else if base = Reg.QOS_CSEL then BitVec.ofNat 32 k
  else if base = Reg.QOS_CINFO then
    showFld Reg.QOS_CINFO_SEQ c.seq (showFld Reg.QOS_CINFO_LD c.ld (showBit Reg.QOS_CINFO_PIN c.pin (showFld Reg.QOS_CINFO_CLASS c.cls
      (showBit Reg.QOS_CINFO_PENDING c.waiting (showFld Reg.QOS_CINFO_STATE (if c.waiting then 0 else c.st.code) w)))))
  else if base = Reg.QOS_CRD then BitVec.ofNat 32 c.readMbs
  else if base = Reg.QOS_CWR then BitVec.ofNat 32 c.writeMbs
  else if base = Reg.QOS_CBOUND then BitVec.ofNat 32 c.bound
  else if base = Reg.QOS_CALLOW then BitVec.ofNat 32 c.allow
  else if base = Reg.QOS_CRANGE then showFld Reg.QOS_CRANGE_LEN_GIB c.lenGib (showFld Reg.QOS_CRANGE_BASE_GIB c.baseGib w)
  else w

/-! ### Channels, street grid and engines -/

/-- DCC_QUEUE of channel `c`. -/
def State.viewDcc (s : State) (base c : Nat) (w : Word) : Word :=
  if base = Reg.DCC_QUEUE 0 then showFld (Reg.DCC_QUEUE_RQ c) (s.dcc c).rq.length (showFld (Reg.DCC_QUEUE_WQ c) (s.dcc c).wq.length w) else w

/-- The NOC registers as path `p` reads them: NOC_RT_DATA is the entry that NOC_RT_ADDR selects (R299), NOC_MP_* the port that the path's NOC_MP_SEL
names (R305). -/
def State.viewNoc (s : State) (p : Path) (base : Nat) (w : Word) : Word :=
  let k := (s.path (Path.key p)).nocMpSel
  let (pkts, bytes, sum, top) := if k ≤ 60 then SMap.get (0, 0, 0, 0) s.noc.mp k else (0, 0, 0, 0)
  if base = Reg.NOC_RT_DATA then
    BitVec.ofNat 32 (s.routeAt (s.noc.epoch != s.on Reg.NOC_RT_ADDR_SHADOW) (s.on Reg.NOC_RT_ADDR_INJ) (s.fld Reg.NOC_RT_ADDR_NODE)
      (s.fld Reg.NOC_RT_ADDR_ENTRY) % 128)
  else if base = Reg.NOC_MP_SEL then BitVec.ofNat 32 k
  else if base = Reg.NOC_MP_PKTS then BitVec.ofNat 32 (Nat.min pkts (2 ^ 32 - 1))
  else if base = Reg.NOC_MP_BYTES_LO then BitVec.ofNat 32 bytes
  else if base = Reg.NOC_MP_BYTES_HI then BitVec.ofNat 32 (bytes / 2 ^ 32)
  else if base = Reg.NOC_MP_LAT_LO then BitVec.ofNat 32 sum
  else if base = Reg.NOC_MP_LAT_HI then BitVec.ofNat 32 (sum / 2 ^ 32)
  else if base = Reg.NOC_MP_LATMAX then BitVec.ofNat 32 (Nat.min top (2 ^ 32 - 1))
  else w

/-- NME_STS of engine `n`: the contexts that execute and the rings bound to it. -/
def State.viewNme (s : State) (base n : Nat) (w : Word) : Word :=
  if base = Reg.NME_STS 0 then
    showFld (Reg.NME_STS_CTX n) (s.nme.running.filter fun x => x.eng == n && x.started && x.ended.isNone).length
      (showFld (Reg.NME_STS_RINGS n)
        ((List.range 256).filter fun r => s.on (Reg.NMR_CFG_EN r) && s.fld (Reg.NMR_STS_ENG_ACT r) == n).length w)
  else w

/-- The registers of ring `r` as path `p` reads them: 0 but for its owner and the plaza (R309). -/
def State.viewRing (s : State) (p : Path) (base r : Nat) (w : Word) : Word :=
  if !s.ringPath p r then 0
  else if base = Reg.NMR_STS 0 then showBit (Reg.NMR_STS_ACTIVE r) (s.nme.running.any fun x => x.ring == r && x.started && x.ended.isNone) w
  else w

/-! ### Faults, power, reset, clocks, layout, firmware, counters, identity -/

/-- The FLT registers; entries of FLT_REACT for reserved sources read 0. -/
def State.viewFlt (s : State) (base j : Nat) (w : Word) : Word :=
  if base = Reg.FLT_STS then
    showFld Reg.FLT_STS_FENCED s.fencedCount (showBit Reg.FLT_STS_EXPOSED s.exposed (showBit Reg.FLT_STS_HALT s.flt.halt
      (showBit Reg.FLT_STS_FAULT_N s.faultN w)))
  else if base = Reg.FLT_REACT 0 then (if knownSource j then showFld (Reg.FLT_REACT_EFF j) (s.eff j) w else 0)
  else w

/-- The PWR registers. -/
def State.viewPwr (s : State) (base j : Nat) (w : Word) : Word :=
  if base = Reg.PWR_STS then
    showFld Reg.PWR_STS_BLOCK (bitsNat s.blockers) (showFld Reg.PWR_STS_LIMIT s.limit (showFld Reg.PWR_STS_ALLOWED s.allowed
      (showFld Reg.PWR_STS_STATE s.powerState w)))
  else if base = Reg.PWR_TOL then BitVec.ofNat 32 (s.tHost.getD 0xFFFFFFFF)
  else if base = Reg.PWR_ALLOW then BitVec.ofNat 32 (s.aMin.getD 0xFFFFFFFF)
  else if base = Reg.PWR_KEEP_EXIT then showFld Reg.PWR_KEEP_EXIT_EXIT_US s.keepExitUs w
  else if base = Reg.PWR_DOM_ON 0 then
    BitVec.ofNat 32 (bitsOf ((List.range 32).filter fun k => decide (32 * j + k < 144) && (s.cond (32 * j + k)).powered))
  else w

/-- The time to the next retry of supply channel `j` in units of 10 ms (R398), frozen while the input, or the feed, is away (R401). -/
def State.nextRetry (s : State) (j : Nat) : Nat :=
  match (s.chan j).nextAt with
  | none => 0
  | some t => Nat.min 100 (ceilDiv (t - (s.sup.lostAt.getD (((s.sup.feedLostAt[j]?).join).getD s.clk))) (10 * ms))

/-- PMU_STS: the stop is complete at once where software froze the counters, and 200 ns after an overflow that did (R482). -/
def State.frozenNow (s : State) : Bool := s.on Reg.PMU_CTL_FREEZE && s.pmu.freezeAt.all fun t => s.past t 200

/-- The registers of the keep island's other blocks, the layout store, the firmware and the PMU. -/
def State.viewRest (s : State) (p : Path) (base j : Nat) (w : Word) : Word :=
  if base = Reg.SUP_CH_STS 0 ∧ isSwitched j = true then showFld (Reg.SUP_CH_STS_NEXT_10MS j) (s.nextRetry j) w
  else if base = Reg.RST_STS then showBit Reg.RST_STS_IO_READY s.ioReady w
  else if base = Reg.RST_MAP 0 then showFld (Reg.RST_MAP_EFF j) (s.effLevel j) w
  else if base = Reg.CLK_CAL then showBit Reg.CLK_CAL_VALID s.calValid w
  else if base = Reg.CFG_FMODE then
    showFld Reg.CFG_FMODE_ACT (bitsOf ((List.range 8).filter fun f => s.on (actFld f)))
      (showFld Reg.CFG_FMODE_PENDING (bitsOf ((List.range 8).filter fun f => s.switching f)) w)
  else if base = Reg.MGT_HB then BitVec.ofNat 32 s.heartbeat
  else if base = Reg.PMU_STS then showBit Reg.PMU_STS_FROZEN s.frozenNow w
  else if base = Reg.IDG_PATH then
    (match p with
     | .head h k => BitVec.ofNat 32 (16 * h.val + k.val)
     | .plaza => 0x70)
  else w

/-- What a read through path `p` of the register at `a` returns; 0 where the offset is unimplemented (R15). -/
def State.view (s : State) (p : Path) (a : Nat) : Word :=
  match Reg.findRow a Reg.rows with
  | none => 0
  | some (r, i, j) =>
    let w := s.reg a
    let b := r.base
    if 0x160000 ≤ b then s.viewHead b i w
    else if 0x148000 ≤ b ∧ b < 0x150000 then s.viewRing p b i w
    else if 0x140000 ≤ b ∧ b < 0x148000 then s.viewNme b i w
    else if 0x100000 ≤ b ∧ b < 0x140000 then s.viewDcc b i w
    else if 0xC0000 ≤ b ∧ b < 0xF0000 then s.viewSlice b i w
    else if 0xA0000 ≤ b ∧ b < 0xC0000 then s.viewHot b i w
    else if 0x90000 ≤ b ∧ b < 0xA0000 then s.viewCold b j w
    else if 0x80000 ≤ b ∧ b < 0x90000 then s.viewVault p b w
    else if 0x70000 ≤ b ∧ b < 0x80000 then s.viewNoc p b w
    else if 0x60000 ≤ b ∧ b < 0x70000 then s.viewQos p b w
    else if 0x40000 ≤ b ∧ b < 0x50000 then s.viewFlt b j w
    else if 0x30000 ≤ b ∧ b < 0x38000 then s.viewPwr b j w
    else s.viewRest p b j w

end Sys2Proof.Machine
end

