-- ==== Sys2Proof/Machine/Registers.lean ====
section
/-! DEFINITION. The meanings of the BAR2 accesses (R13 to R18, R34, R375 to R378, R489 to R494): a register read or written through an access path. -/
namespace Sys2Proof.Machine

open Sys2Proof

/-! ### Which block answers (R359, R492) -/

/-- The power domain whose condition an access to BAR2 offset `a` takes, and whether the block answers without delay in every power state; none for the
keep island, the PMU and offsets outside every block (R359, R492, R493). -/
def State.regDomain (s : State) (a : Nat) : Option (Nat × Bool) :=
  if a < 0x10000 then none
  else if a < 0x20000 then some (142, true)
  else if a < 0x70000 then none
  else if a < 0x80000 then some (142, true)
  else if a < 0x90000 then some (134, true)
  else if a < 0xA0000 then some (117, false)
  else if 0xA8000 ≤ a ∧ a < 0xB0000 then some (90, false)
  else if a < 0xC0000 then some (90 + (a - 0xA0000) / 0x10000, false)
  else if a < 0xE2000 then some (8 + (a - 0xC0000) / 0x1000, false)
  else if a < 0xF0000 then none
  else if a < 0x100000 then some (142, true)
  else if 0x102000 ≤ a ∧ a < 0x104000 then some (117, false)
  else if a < 0x140000 then some (58 + (a - 0x100000) / 0x4000, false)
  else if a < 0x148000 then some (122 + (a - 0x140000) / 0x1000, false)
  else if a < 0x150000 then some (142, true)
  else if a < 0x160000 then some (132, false)
  else if a < 0x170000 then (let h := (a - 0x160000) / 0x4000; if s.present h then some (h, true) else none)
  else if 0x800000 ≤ a ∧ a < 0xA00000 then (s.headOf ((a - 0x800000) / 0x20000)).map fun h => (h, true)
  else none

/-- Whether the block at `a`, whose domain is `d`, is fenced: in domain 117 the CTM and the DCM are fenced by themselves (R359, R377). -/
def State.regFenced (s : State) (a d : Nat) : Bool :=
  s.domFenced d || (decide (0x90000 ≤ a) && decide (a < 0xA0000) && s.isFenced .ctm) ||
  (decide (0x102000 ≤ a) && decide (a < 0x104000) && s.isFenced .dcm)

/-- Whether an access to `a` meets a free spare slice (R378). -/
def State.spareAt (s : State) (a : Nat) : Bool :=
  decide (0xC0000 ≤ a) && decide (a < 0xE2000) && s.freeSpare ((a - 0xC0000) / 0x1000)

/-- The domain to report where the access completes at once without reaching its block (R377): a fenced or failed block, one that start-up has not
released yet, and in forced Keep a domain that is not On. -/
def State.regBlocked (s : State) (a : Nat) : Option Nat :=
  if s.spareAt a then none
  else match s.regDomain a with
    | none => none
    | some (d, now) =>
      if s.regFenced a d then some d
      else if !now && s.cond d != .on && (s.on Reg.PWR_STS_FORCED || s.fld Reg.RST_STS_LEVEL != 0) then some d
      else none

/-! ### Waking the block (R375, Table 12.11) -/

/-- The module goes from Doze to Trim with domain `d` restored: the stitchers and engines that Trim gates stay gated. -/
def dozeToTrim (d : Nat) (s : State) : State :=
  let gated := fun (k : Nat) => k != d && ((decide (42 ≤ k) && decide (k < 58)) || (decide (122 ≤ k) && decide (k < 130))) && s.tableCond 0 k == .on
  let want := fun (k : Nat) => if gated k then DomCond.retained else s.tableCond 0 k
  let ups := (List.range 144).filter fun k => (s.cond k == .off || s.cond k == .retained) && want k == .on
  let s1 := forAll (List.range 144) (endKeepTime s) fun t k => t.setCond k (want k)
  let s2 := (channelsWake (s1.count Reg.PWR_GATE_CNT_COUNT ups.length)).onNoc fun n =>
    { n with closed := n.closed ++ ((List.range 144).filter fun k => gated k && !n.closed.contains k) }
  ({ s2 with pwr := { s2.pwr with wake := none } }.setFld Reg.PWR_STS_STATE 0).count Reg.PWR_EXIT_CNT_DOZE

/-- The wake that a register access to a block in domain `d` raises: in Trim the domain is restored, Doze is left for Trim, and Keep for Full, whose
voltages are acknowledged before the access completes. -/
def wakeForAccess (d : Nat) (s : State) : State :=
  let s1 := takeWake 2 d (some d) s
  let s2 := if s1.fld Reg.PWR_STS_STATE = 2 ∧ s1.pwr.move == .none then dozeToTrim d s1
    else if s1.fld Reg.PWR_STS_STATE = 3 then serveWake s1 else s1
  if s2.pwr.move == .keepExit then railsDone (ackVoltage 1 (ackVoltage 0 s2)) else s2

/-- The block at `a` brought to where it can answer; nothing where it can already. -/
def wakeBlockAt (a : Nat) (s : State) : State :=
  if s.spareAt a then s
  else match s.regDomain a with
    | some (d, false) => if s.cond d == .on then s else wakeForAccess d s
    | _ => s

/-! ### The CXL register blocks (R493) -/

/-- Interleave ways as CXL encodes them in an HDM decoder's control register. -/
def waysCode (n : Nat) : Nat :=
  if n = 2 then 1 else if n = 4 then 2 else if n = 8 then 3 else if n = 16 then 4 else if n = 3 then 8 else if n = 6 then 9 else if n = 12 then 10 else 0

/-- The ways that a code stands for (R43); a code that CXL does not define acts as 1 way. -/
def waysOf (c : Nat) : Nat :=
  if c = 1 then 2 else if c = 2 then 4 else if c = 3 then 8 else if c = 4 then 16 else if c = 8 then 3 else if c = 9 then 6 else if c = 10 then 12 else 1

/-- The granularity code: 256 × 2^code bytes (R43). -/
def granCode (g : Nat) : Nat := Nat.min 6 (Nat.log2 (g / 256))

/-- LD `k`'s decoder `n`. -/
def State.decoder (s : State) (k n : Nat) : HdmDecoder := ((s.ld k).decoders[n]?).getD {}

/-- One register of a decoder, at offset `o` within the decoder's 32 bytes: base low and high, size low and high, control, DPA skip low and high. -/
def decoderWord (d : HdmDecoder) (o : Nat) : Word :=
  BitVec.ofNat 32 (
    if o = 0x00 then d.base
    else if o = 0x04 then d.base / 2 ^ 32
    else if o = 0x08 then d.size
    else if o = 0x0C then d.size / 2 ^ 32
    else if o = 0x10 then granCode d.gran + 16 * waysCode d.ways + (if d.committed then 0x600 else 0)
    else if o = 0x14 then d.skip
    else if o = 0x18 then d.skip / 2 ^ 32
    else 0)

/-- The low or the high half of a 64-bit value replaced. -/
def lowHalf (x v : Nat) : Nat := x - x % 2 ^ 32 + v
def highHalf (x v : Nat) : Nat := x % 2 ^ 32 + 2 ^ 32 * v

/-- Decoder `n` of LD `k` committed (R43): in increasing order, with its DPA base following the decoder before it and its own skip. -/
def commitDecoder (k n : Nat) (s : State) : State :=
  let before := s.decoder k (n - 1)
  if 0 < n ∧ before.committed = false then s
  else
    let start := if n = 0 then 0 else before.dpaBase + before.size / before.ways
    s.updLd k fun x => { x with decoders := x.decoders.modify n fun d => { d with dpaBase := start + d.skip, committed := true } }

/-- A register of decoder `n` of LD `k` written; a committed decoder takes nothing but the end of its commit. -/
def writeDecoder (k n o v : Nat) (s : State) : State :=
  let set := fun (f : HdmDecoder → HdmDecoder) => s.updLd k fun x => { x with decoders := x.decoders.modify n f }
  if (s.decoder k n).committed then
    (if o = 0x10 ∧ v / 512 % 2 = 0 then set fun d => { d with committed := false } else s)
  else if o = 0x00 then set fun d => { d with base := lowHalf d.base (v / 2 ^ 28 * 2 ^ 28) }
  else if o = 0x04 then set fun d => { d with base := highHalf d.base v }
  else if o = 0x08 then set fun d => { d with size := lowHalf d.size (v / 2 ^ 28 * 2 ^ 28) }
  else if o = 0x0C then set fun d => { d with size := highHalf d.size v }
  else if o = 0x14 then set fun d => { d with skip := lowHalf d.skip (v / 2 ^ 28 * 2 ^ 28) }
  else if o = 0x18 then set fun d => { d with skip := highHalf d.skip v }
  else if o = 0x10 then
    let t := set fun d => { d with gran := 256 * 2 ^ Nat.min 6 (v % 16), ways := waysOf (v / 16 % 16) }
    if v / 512 % 2 = 1 then commitDecoder k n t else t
  else s

/-- Where the HDM decoder capability lies in the 128 KiB block of an LD. -/
def hdmBase : Nat := 0x1200

/-- Whether path `p` reaches the CXL block of LD `k`: the function of LD `k`, and the plaza. -/
def reachesCxl (p : Path) (k : Nat) : Bool :=
  match p with
  | .plaza => true
  | .head _ j => j.val == k

/-- A read of the CXL blocks: 0 for a block that the path does not reach or whose LD is unassigned; the HDM decoder capability; any other register of the
CXL specification reads a free value. -/
def readCxl (p : Path) (a : Nat) (s : State) : Word × State :=
  let k := (a - 0x800000) / 0x20000
  let o := a % 0x20000
  if !reachesCxl p k || (s.headOf k).isNone then (0, s)
  else if o = hdmBase then (0x1B02, s)
  else if o = hdmBase + 4 then (2, s)
  else if hdmBase + 0x10 ≤ o ∧ o < hdmBase + 0x90 then
    (decoderWord (s.decoder k ((o - hdmBase - 0x10) / 0x20)) ((o - hdmBase - 0x10) % 0x20), s)
  else (s.freeVal 32, s.spent)

/-- A write to the CXL blocks (R493). -/
def writeCxl (p : Path) (a : Nat) (v : Word) (s : State) : State :=
  let k := (a - 0x800000) / 0x20000
  let o := a % 0x20000
  if !reachesCxl p k then s.accessFault
  else if (s.headOf k).isNone then s
  else if hdmBase + 0x10 ≤ o ∧ o < hdmBase + 0x90 then writeDecoder k ((o - hdmBase - 0x10) / 0x20) ((o - hdmBase - 0x10) % 0x20) v.toNat s
  else s

/-- Whether `a` lies in the CXL register blocks. -/
def isCxl (a : Nat) : Bool := decide (0x800000 ≤ a) && decide (a < 0xA00000)

/-! ### Reads (R15 to R17) -/

/-- The _LO registers: each has its _HI at the next offset (R17). -/
def loBases : List Nat :=
  [Reg.QOS_CLS_INB_LO 0, Reg.QOS_CLS_OVB_LO 0, Reg.QOS_CLS_DLY_LO 0, Reg.NOC_XFAIL_LO, Reg.NOC_MP_BYTES_LO, Reg.NOC_MP_LAT_LO, Reg.FLT_FIRST_TIME_LO,
   Reg.SUP_M_E_LO, Reg.TIME_NS_LO, Reg.PMU_SMP_ADDR_LO, Reg.PMU_CTR_LO 0, Reg.PMU_FIX_LO 0, Reg.IDG_SERIAL_LO]

/-- Whether the register at `a` is an _LO register. -/
def isLo (a : Nat) : Bool :=
  match Reg.findRow a Reg.rows with
  | some (r, _, _) => loBases.contains r.base
  | none => false

/-- Whether the register at `a` is an _HI register. -/
def isHi (a : Nat) : Bool := decide (4 ≤ a) && isLo (a - 4)

/-- A 32-bit read of the register at `a` (R17): reading _LO latches the high half on this path; _HI returns what the last read of _LO latched, once. -/
def readWord (p : Path) (a : Nat) (s : State) : Word × State :=
  if isCxl a then readCxl p a s
  else if isLo a then (s.view p a, s.updPath (Path.key p) fun x => { x with latch := SMap.put none x.latch a (some (s.view p (a + 4))) })
  else if isHi a then
    match SMap.get none (s.path (Path.key p)).latch (a - 4) with
    | some v => (v, s.updPath (Path.key p) fun x => { x with latch := SMap.put none x.latch (a - 4) none })
    | none => (s.view p a, s)
  else (s.view p a, s)

/-- The bytes of a read at `off`, from its 32-bit words (R16): a narrow read returns the addressed bytes, a 64-bit one the lower word first. -/
def readSized (p : Path) (off : Nat) (size : AccSize) (s : State) : Nat × State :=
  let a := off / 4 * 4
  match size with
  | .w8 => let (w, t) := readWord p a s; (w.toNat / 256 ^ (off % 4) % 256, t)
  | .w16 => let (w, t) := readWord p a s; (w.toNat / 256 ^ (off % 4) % 65536, t)
  | .w32 => let (w, t) := readWord p a s; (w.toNat, t)
  | .w64 =>
    let (w, t) := readWord p a s
    let (x, u) := readWord p (a + 4) t
    (w.toNat + 2 ^ 32 * x.toNat, u)

/-- All bits of a read of `size` set. -/
def allOnes (size : AccSize) : Nat :=
  match size with
  | .w8 => 0xFF
  | .w16 => 0xFFFF
  | .w32 => 0xFFFFFFFF
  | .w64 => 0xFFFFFFFFFFFFFFFF

/-- A read access: it completes at once with all bits set where its block is fenced (R377), and otherwise with the register, whose block it wakes. A 64-bit
access to a fenced block makes one report (DESIGN CHOICE, log entry 96). -/
def readAccess (p : Path) (off : Nat) (size : AccSize) (s : State) : State :=
  match s.regBlocked (off / 4 * 4) with
  | some d => (s.report 0x1F d).emit (.regRead p off (allOnes size))
  | none =>
    let (v, t) := readSized p off size (wakeBlockAt (off / 4 * 4) s)
    t.emit (.regRead p off v)

/-! ### Writes (R13, R17, R18, Table 18.3) -/

/-- A register written by its access types alone (Table 0.4): RW and RWS bits take the value, W1C bits written with 1 clear, all others stay. `skip`: bits
that the register's own effect deals with. -/
def storeMasked (r : Reg.Row) (a v skip : Nat) (s : State) : State :=
  let old := (s.reg a).toNat
  let m := (r.rw ||| r.rws) &&& (0xFFFFFFFF ^^^ skip)
  let kept := old - (old &&& m)
  let w := kept + (v &&& m)
  s.setReg a (BitVec.ofNat 32 (w - (w &&& v &&& r.w1c &&& (0xFFFFFFFF ^^^ skip))))

/-- The registers whose writes only the plaza may make (Table 18.3). -/
def plazaReg (a : Nat) : Bool :=
  (decide (0x20000 ≤ a) && decide (a < 0x30000)) || (decide (0x38000 ≤ a) && decide (a < 0x50000)) ||
  [Reg.NOC_RT_ADDR, Reg.NOC_RT_DATA, Reg.NOC_RT_CTL, Reg.DCM_SVC].contains a

/-- Whether path `p` may write the register at `a`, which is index `j` of a row at `b` with instance `i` (Table 18.3). -/
def State.mayWrite (s : State) (p : Path) (a b i j : Nat) : Bool :=
  if plazaReg a then p == .plaza
  else if 0x50000 ≤ b ∧ b < 0x60000 then s.pmuPath p
  else if 0x148000 ≤ b ∧ b < 0x150000 then s.ringPath p i
  else if b = Reg.HSC_AWIN 0 then
    (match p with
     | .plaza => true
     | .head h _ => h.val == j)
  else true

/-- The MODE fields in the register at `a` written from `v` (R465). -/
def writeModes (a v : Nat) (s : State) : State :=
  ((List.range 8).filter fun f => (modeFld f).addr == a).foldl (fun t f => writeMode f (v / 2 ^ (modeFld f).lo % 2) t) s

/-- The bits of the MODE fields in the register at `a`. -/
def modeBits (a : Nat) : Nat := ((List.range 8).filter fun f => (modeFld f).addr == a).foldl (fun m f => m ||| 2 ^ (modeFld f).lo) 0

/-- HPA_CTL of head `h` written: the link's controls, RETRY_RATE and LINK_EN (R66, R68). -/
def writeHpaCtl (r : Reg.Row) (h v : Nat) (s : State) : State :=
  let s1 := storeMasked r (Reg.HPA_CTL h) v 1 s
  let s2 := if v / 16 % 2 = 1 then retryRate h s1 else s1
  if v % 2 = 1 then enableLink h s2 else disableLink h s2

/-- RST_CMD written (R440): nothing without GO; a level other than 3 to 5 is refused with code 2. -/
def writeRstCmd (v : Nat) (s : State) : State :=
  if v / 2 ^ 31 = 0 then s
  else
    let l := v / 256 % 8
    if l = 3 then commandLevel3 (v % 256) s
    else if l = 4 then moduleSource 0x0B 0 (rstCode 0 s)
    else if l = 5 then moduleSource 0x0D 0 (rstCode 0 s)
    else rstCode 2 s

/-- FLT_INJ written: with ARM it arms, and without it disarms. -/
def writeInj (r : Reg.Row) (v : Nat) (s : State) : State :=
  if v / 2 ^ 31 = 1 then armInjection (v / 2 ^ 24 % 16) (v / 256 % 256) (v % 256) s else storeMasked r Reg.FLT_INJ v 0 s

/-- The registers whose write does more than Table 0.4 says; none where it does not. -/
def writeEffect (p : Path) (r : Reg.Row) (a i v : Nat) (s : State) : Option State :=
  let b := r.base
  if b = Reg.HPA_CTL 0 then some (writeHpaCtl r i v s)
  else if b = Reg.HPA_LAT_TOL 0 then some (recheckAllowed (s.setFld (Reg.HPA_LAT_TOL_TOL_NS i) v))
  else if b = Reg.PWR_CFG then some (recheckAllowed (storeMasked r a v 0 s))
  else if b = Reg.CRY_EPOCH_SEL then some (s.updPath (Path.key p) fun x => { x with cryEpochSel := v % 2 ^ 16 })
  else if b = Reg.QOS_CSEL then some (s.updPath (Path.key p) fun x => { x with qosCsel := v % 2 ^ Reg.QOS_CSEL_SLOT.w })
  else if b = Reg.NOC_MP_SEL then some (s.updPath (Path.key p) fun x => { x with nocMpSel := v % 2 ^ 6 })
  else if b = Reg.DCC_SCHED 0 then some (settleDrain i (storeMasked r a v 0 s))
  else if b = Reg.DCM_SVC then some (svcCommand (v / 256 % 8) (v % 16) (v / 16 % 2) s)
  else if b = Reg.NOC_RT_CTL then some (if v % 2 = 1 then commandFlip s else s)
  else if b = Reg.NOC_RT_DATA then some (writeRoute v s)
  else if b = Reg.NMR_CFG 0 then some (writeRingCfg i v s)
  else if b = Reg.NMR_DBASE 0 ∨ b = Reg.NMR_CBASE 0 then some (if s.on (Reg.NMR_CFG_EN i) then s else storeMasked r a v 0 s)
  else if b = Reg.NMR_TAIL 0 then some (ringBell i v s)
  else if b = Reg.NMR_STS 0 then some (if v / 2 % 2 = 1 then resumeRing i s else s)
  else if b = Reg.FLT_FIRST then some (if v / 2 ^ 31 = 1 then clearWhenDone s else s)
  else if b = Reg.FLT_FORCE then some (if v / 2 ^ 31 = 1 then forceReport (v % 64) (v / 256 % 256) s else s)
  else if b = Reg.FLT_INJ then some (writeInj r v s)
  else if b = Reg.SUP_MSEL then some (latchMeasurement (v % 64) (s.setFld Reg.SUP_MSEL_CH v))
  else if b = Reg.SUP_CMD then some (supCommand (fieldOf (BitVec.ofNat 32 v) Reg.SUP_CMD_CMD) (fieldOf (BitVec.ofNat 32 v) Reg.SUP_CMD_CH) s)
  else if b = Reg.RST_CMD then some (writeRstCmd v s)
  else if b = Reg.PMU_CTL then some (writePmuCtl (BitVec.ofNat 32 v) s)
  else if b = Reg.PMU_WIN_CFG then some (restartWindow false v s)
  else if b = Reg.PMU_FIX_SEL then some (restartWindow true v s)
  else none

/-- A value written to the _HI register at `a` of a writable pair (R17): both halves take effect, the _LO value held on this path or, where none is, the
present one. -/
def writePair (p : Path) (r : Reg.Row) (a v : Nat) (s : State) : State :=
  let lo := match SMap.get none (s.path (Path.key p)).held (a - 4) with
    | some x => x
    | none => s.reg (a - 4)
  let s1 := s.updPath (Path.key p) fun x => { x with held := SMap.put none x.held (a - 4) none }
  storeMasked r a v 0 (s1.setReg (a - 4) lo)

/-- A 32-bit write of `v` through path `p` to the register at `a`. -/
def writeWord (p : Path) (a : Nat) (v : Word) (s : State) : State :=
  if isCxl a then writeCxl p a v s
  else match Reg.findRow a Reg.rows with
  | none => s
  | some (r, i, j) =>
    if 0x160000 ≤ r.base ∧ s.present i = false then s
    else if s.spareAt a then s
    else if !s.mayWrite p a r.base i j then s.accessFault
    else if r.base = Reg.PMU_CTR_LO 0 then s.updPath (Path.key p) fun x => { x with held := SMap.put none x.held a (some v) }
    else if r.base = Reg.PMU_CTR_HI 0 then writePair p r a v.toNat s
    else match writeEffect p r a i v.toNat s with
      | some t => t
      | none => writeModes a v.toNat (storeMasked r a v.toNat (modeBits a) s)

/-- A write access: dropped where its block is fenced (R377), and otherwise carried out once its block is awake; a 64-bit write as two, the lower first,
and a narrow one dropped as an access fault (R16). -/
def writeAccess (p : Path) (off : Nat) (size : AccSize) (v : BitVec 64) (s : State) : State :=
  let a := off / 4 * 4
  let put := match size with
    | .w8 | .w16 => s.accessFault
    | .w32 => match s.regBlocked a with
      | some d => s.report 0x1F d
      | none => writeWord p a (v.setWidth 32) (wakeBlockAt a s)
    | .w64 => match s.regBlocked a with
      | some d => s.report 0x1F d
      | none => writeWord p (a + 4) ((v >>> 32).setWidth 32) (writeWord p a (v.setWidth 32) (wakeBlockAt a s))
  put.emit (.regDone p off)

/-! ### The commands -/

/-- REGISTER_WRITE (R13, R15, R16, R34, R378, R490, R493). -/
def execRegisterWrite (p : Path) (off : Nat) (size : AccSize) (v : BitVec 64) (s : State) : Res := done (writeAccess p off size v s)

/-- LO_HALF_READ (R16, R17): a read at `off`; of a register that is no half of a pair it returns the register. -/
def execLoHalfRead (p : Path) (off : Nat) (size : AccSize) (s : State) : Res := done (readAccess p off size s)

/-- HI_HALF_READ (R17). -/
def execHiHalfRead (p : Path) (off : Nat) (s : State) : Res := done (readAccess p off .w32 s)

/-- PAIR_HI_WRITE (R17). -/
def execPairHiWrite (p : Path) (off : Nat) (v : BitVec 32) (s : State) : Res := done (writeAccess p off .w32 (v.setWidth 64) s)

/-- SELECTOR_WRITE (R18): the selector of this path alone. -/
def execSelectorWrite (p : Path) (sel : Selector) (v : BitVec 32) (s : State) : Res :=
  let a := match sel with
    | .qosCsel => Reg.QOS_CSEL
    | .cryEpochSel => Reg.CRY_EPOCH_SEL
    | .nocMpSel => Reg.NOC_MP_SEL
  done (writeAccess p a .w32 (v.setWidth 64) s)

/-- SLEEPING_REGISTER_ACCESS (R375, R492): a read, or a write of `w`, that wakes its block. -/
def execSleepingRegisterAccess (p : Path) (off : Nat) (w : Option (BitVec 32)) (s : State) : Res :=
  match w with
  | none => done (readAccess p off .w32 s)
  | some v => done (writeAccess p off .w32 (v.setWidth 64) s)

/-- FENCED_REGISTER_ACCESS (R377): a read, or a write of `w`, that completes at once. -/
def execFencedRegisterAccess (p : Path) (off : Nat) (w : Option (BitVec 32)) (s : State) : Res :=
  match w with
  | none => done (readAccess p off .w32 s)
  | some v => done (writeAccess p off .w32 (v.setWidth 64) s)

end Sys2Proof.Machine
end

