-- ==== Sys2Proof/Machine/Resets.lean ====
section
/-! DEFINITION. The meanings of the reset sources, the block resets, the start-up steps and the non-volatile pulses (chapter 15). -/
namespace Sys2Proof.Machine

open Sys2Proof

/-! ### Power-on and pins (R431, R433, R444) -/

/-- The straps as they stand at the pins; they act at the release of Level 5 (R433). -/
def setStraps (bootSrc clkMode : Nat) (s : State) : State := s.onRst fun r => { r with bootSrc := bootSrc, clkMode := clkMode }

/-- A non-volatile pulse under way when the input is lost may be cut short (R452): whether it is, is free. -/
def cutPulse (s : State) : State :=
  match s.rst.pulse with
  | none => s
  | some p => if (s.freeVal 1) = 1#1 then s.spent.onFlash fun f => { f with cut := some p.unit } else s.spent

/-- The reset-controller cells that only a power-on reset reaches (R435). -/
def powerOnCells (s : State) : State :=
  forAll [Reg.RST_CAUSE, Reg.RST_HIST, Reg.RST_NVW, Reg.RST_FILT, Reg.RST_BOOT] (s.onRst fun r => { r with fuseFails := [] }) fun t a => t.setReg a (Reg.resetOf a)

/-- POWER_ON (R400, R444): while a feed has PG the module bus comes up, PWRGD is asserted, and the Level 5 start-up begins with everything lost that the TV7 and
the DIMMs held. -/
def execPowerOn (bootSrc clkMode : Fin 4) (addr : Fin 8) (s : State) : Res :=
  if s.on Reg.SUP_STS_FEED_A_PG || s.on Reg.SUP_STS_FEED_B_PG then
    let s1 := ((s.setFld Reg.SUP_STS_BUS_OK 1).setFld Reg.SUP_STS_PWRGD 1).onSup fun p => { p with bus := 12000 }
    let s2 := powerOnCells (supplyLost (cutPulse s1))
    .next (((setStraps bootSrc clkMode s2).onRst fun r => { r with addr := addr, mrstLow := s.rst.mrstLow }).onPwr fun p => { p with rails := [0, 0, 0, 0] })
  else .next s

/-- PWRGD_DEASSERTED (R395, R400): no feed has PG, or the module bus has left 12.0 V ±5 %. The TV7 loses its supply and contents are lost; the slots' switches
open with the bus. -/
def execPwrgdDeasserted (bus : Nat) (s : State) : Res :=
  let fed := s.on Reg.SUP_STS_FEED_A_PG || s.on Reg.SUP_STS_FEED_B_PG
  if !s.on Reg.SUP_STS_PWRGD || (fed && decide (11400 ≤ bus) && decide (bus ≤ 12600)) then .next s
  else
    let s1 := ((s.setFld Reg.SUP_STS_PWRGD 0).setBit Reg.SUP_STS_BUS_OK (decide (11760 ≤ bus ∧ bus ≤ 12240))).onSup fun p => { p with bus := bus }
    let s2 := forAll ((List.range 32).filter fun k => s.conducts (4 + k)) (supplyLost (cutPulse s1)) fun t k => openSwitch (4 + k) 0 t
    .next (s2.onPwr fun p => { p with rails := [0, 0, 0, 0] })

/-- Whether the filter passes a low pulse of `ns` (R431): never below 1.0 µs, always from 1.2 µs, and free between. -/
def State.passes (s : State) (ns : Nat) : Bool := decide (1200 ≤ ns) || (decide (1000 ≤ ns) && (s.freeVal 1) == 1#1)

/-- MRST_N past its filter: a reset at its level in force; it ends a fuse-load hold and begins a new count (R449). -/
def mrstActs (s : State) : State :=
  let s1 := moduleReset 1 0 (s.effLevel 1) false s
  if s.on Reg.RST_STS_HOLD then (s1.onRst fun r => { r with fuseFails := [] }).setFld Reg.RST_BOOT_FUSE_TRIES 0 else s1

/-- MRST_N (R431, R444): a pulse that the filter passes, the pin's fall, or its rise, which is the t0 of the start-up and the last sample of the straps. -/
def execMrstN (e : PinEvent) (bootSrc clkMode : Fin 4) (s : State) : Res :=
  match e with
  | .pulse ns => if s.passes ns then done (setStraps bootSrc clkMode (mrstActs s.spent)) else .next s.spent
  | .low => if s.rst.mrstLow then .next s else done ((mrstActs s).onRst fun r => { r with mrstLow := true })
  | .high => if s.rst.mrstLow then .next ((setStraps bootSrc clkMode s).onRst fun r => { r with mrstLow := false, t0 := s.clk }) else .next s

/-- The link of head `h` once its PERST# is high: it waits for the commit that releases the head (Table 15.6, steps 8 and 9). -/
def releaseHead (h : Nat) (s : State) : State :=
  let s1 := s.updHead h fun x => { x with perstRise := s.clk }
  if s1.layout.committed && s1.present h then s1.updHead h fun x => { x with link := s1.linkStart h } else s1

/-- PERST# of head `h` acts: a reset at its level in force. -/
def perstActs (h : Nat) (s : State) : State := if s.present h then headSource 2 h s else s

/-- PERST# pin `p` stands low or high. -/
def setPerstPin (p : Fin 4) (low : Bool) (s : State) : State :=
  s.onRst fun r => { r with lowPins := if low then p :: r.lowPins.filter (· != p) else r.lowPins.filter (· != p) }

/-- PERST (R431, R497): a pulse that the filter ignores is counted in RST_FILT for the head that hears the pin; one that it passes resets the head at its level in
force, as the pin's fall does, and the head is held until none of its pins is low. A pin that no head hears does nothing but stand as it is. -/
def execPerst (p : Fin 4) (e : PinEvent) (s : State) : Res :=
  match s.heardBy p with
  | none =>
    (match e with
    | .pulse _ => .next s
    | .low => .next (setPerstPin p true s)
    | .high => .next (setPerstPin p false s))
  | some h =>
    (match e with
    | .pulse ns =>
      if s.passes ns then
        (if s.perstHeld h then .next s.spent else done ((perstActs h s.spent).updHead h fun x => { x with perstRise := s.clk }))
      else
        let f : Reg.FRef := ⟨Reg.RST_FILT, 8 * h.val, 8⟩
        .next (s.spent.count f)
    | .low => if s.perstHeld h then .next (setPerstPin p true s) else done (perstActs h (setPerstPin p true s))
    | .high =>
      let s1 := setPerstPin p false s
      if s.perstHeld h && !s1.perstHeld h then .next (releaseHead h s1) else .next s1)

/-! ### Resets from hosts and software (R428 to R430, R436, R440, R441) -/

/-- HOT_RESET (R428). -/
def execHotReset (h : Fin 4) (s : State) : Res := if s.present h then done (headSource 4 h s) else .next s

/-- FLR (R436). -/
def execFlr (ld : Fin 16) (s : State) : Res := if (s.headOf ld).isSome then done (ldSource 5 ld false s) else .next s

/-- CXL_RESET (R436). -/
def execCxlReset (ld : Fin 16) (s : State) : Res := if (s.headOf ld).isSome then done (ldSource 6 ld true s) else .next s

/-- RST_CMD_LEVEL3 (R440). -/
def execRstCmdLevel3 (p : Path) (dom : BitVec 8) (s : State) : Res := done (plazaOnly p s (commandLevel3 dom.toNat))

/-- RST_CMD_LEVEL4 (R441). -/
def execRstCmdLevel4 (p : Path) (s : State) : Res := done (plazaOnly p s fun t => moduleSource 0x0B 0 (rstCode 0 t))

/-- RST_CMD_LEVEL5 (R444). -/
def execRstCmdLevel5 (p : Path) (s : State) : Res := done (plazaOnly p s fun t => moduleSource 0x0D 0 (rstCode 0 t))

/-! ### Level 3 (Table 15.5) -/

/-- The Level 3 reset of domain `d` that waits for idle. -/
def State.idling (s : State) (d : Nat) : Option BlockReset := s.rst.blocks.find? fun b => b.dom == d && !b.released

/-- BLOCK_IDLE_REACHED (R437): `us` after the idle request. -/
def execBlockIdleReached (dom : Fin 144) (us : Fin 200) (s : State) : Res :=
  match s.idling dom with
  | none => .next s
  | some b =>
    if !s.idleBlock dom then .next s
    else done (assertBlockReset dom ((s.until (b.at_ + us * 1000)).setFld Reg.RST_IDLE_LAST_US us))

/-- IDLE_TIMEOUT (R438): counted, and the block's unfinished work ends. -/
def execIdleTimeout (dom : Fin 144) (s : State) : Res :=
  match s.idling dom with
  | none => .next s
  | some b =>
    let s1 := ((s.until (b.at_ + 200000)).count Reg.RST_IDLE_TIMEOUTS).setFld Reg.RST_IDLE_LAST_US 255
    done (assertBlockReset dom (endWork dom s1))

/-- Whether domain `d` is in reset and about to be released: by its Level 3 reset, or in a start-up. -/
def State.releasing (s : State) (d : Nat) : Bool :=
  (s.rst.blocks.any fun b => b.dom == d && b.released) ||
  (!s.rst.mrstLow && !s.rst.released.contains d &&
    ((s.fld Reg.RST_STS_PHASE == 2 && (bootDomains.contains d || d == 131)) || (s.fld Reg.RST_STS_PHASE == 5 && !bootDomains.contains d)))

/-- The firmware's start can begin once every domain of Table 15.6, step 5, has been tested: PHASE 3, unless start-up cannot continue (R443). -/
def bootCheck (s : State) : State :=
  if s.fld Reg.RST_STS_PHASE = 2 ∧ (bootDomains.all s.rst.released.contains) ∧ (s.isFenced .plazaPair → 131 ∈ s.rst.released) ∧ !s.cannotStart then
    s.setFld Reg.RST_STS_PHASE 3
  else s

/-- Domain `d` has had its turn in a start-up. -/
def noteTested (d : Nat) (s : State) : State := s.onRst fun r => { r with released := r.released ++ [d] }

/-- CLOCK_RELEASE_TIMEOUT (R442): the block stays in reset and is fenced, CLK_DOMAIN is reported, and start-up goes on without it. -/
def execClockReleaseTimeout (dom : Fin 144) (s : State) : Res :=
  match clockOf dom with
  | none => .next s
  | some c =>
    if !s.releasing dom then .next s
    else
      let s0 := s.setBitOf (Reg.CLK_DOM_FAIL_FAIL (c / 32)) (c % 32) true
      let s1 := settle (s0.report 0x27 c [(s0.reg (Reg.CLK_DOM_FAIL (c / 32))).toNat])
      let s2 := forAll (s1.domainBlocks dom) s1 fun t b => fenceBlock 0 b t
      if s.rst.blocks.any fun b => b.dom == dom.val then done (endBlockReset dom s2) else done (bootCheck (noteTested dom s2))

/-- The clock of domain `d` has passed its release check (R421): its bit of CLK_DOM_FAIL clears. -/
def clockPassed (d : Nat) (s : State) : State :=
  match clockOf d with
  | some c => s.setBitOf (Reg.CLK_DOM_FAIL_FAIL (c / 32)) (c % 32) false
  | none => s

/-- SELF_TEST_DONE (R421, R443): the clock has passed its release check; after a Level 3 reset the block serves again, or is reported and fenced; in a start-up the domains of Table 15.6, step 5, let the boot
ROM start once all are tested, and a channel with a fence record whose DCC passes is released (R335). -/
def execSelfTestDone (dom : Fin 144) (pass : Bool) (s : State) : Res :=
  let d := dom.val
  if !s.releasing d then .next s
  else
    let s0 := clockPassed d s
    let s1 := if pass then s0 else settle (s0.report 0x34 d)
    if s.rst.blocks.any fun b => b.dom == d then
      let s2 := endBlockReset d (if pass then returnBlock d s1 else s1)
      let s3 := if pass ∧ d ≠ 131 then s2.setCond d (s2.tableCond 0 d) else s2
      done (if d = 131 ∧ pass then s3.setBit Reg.MGT_STS_STANDBY_OK (!s3.on Reg.MGT_STS_CORE) else s3)
    else if s.fld Reg.RST_STS_PHASE = 2 then
      if s.pwr.reqs.isEmpty then done (bootCheck (noteTested d s1)) else .next s
    else if !pass then done s1
    else
      let s2 := noteTested d s1
      let ch := d - 58
      if 58 ≤ d ∧ d < 74 ∧ s.dram.checked ∧ s.on (Reg.DCC_STS_FENCED ch) ∧ (s.fenceRecord ch none).isSome then
        done (forAll (List.range 2) (releaseChannel ch s2) fun t z =>
          match t.fenceRecord ch (some z) with
          | some r => ((setSlotState ch z 7 t).setFld (Reg.DCC_SLOT_CAUSE ch z) r.cause).markFenced (.slot ch z)
          | none => t)
      else done s2

/-! ### Start-up (Tables 15.6 and 15.7) -/

/-- Whether a start-up is in phase `ph` and MRST_N does not hold the module. -/
def State.inPhase (s : State) (ph : Nat) : Bool := s.on Reg.SUP_STS_PWRGD && !s.rst.mrstLow && !s.on Reg.RST_STS_HOLD && s.fld Reg.RST_STS_PHASE == ph

/-- The setpoints of VCORE, VSRAM, VHEAD and VPHY at nominal, in mV (Table 12.12). -/
def nominalRails : List Nat := [750, 800, 750, 900]

/-- The fuses loaded with every check passing (R448): shadows hold the fuses, a Level 5 samples the straps (R433), the rails are asked for their nominal voltage and
the domains of Table 15.6, step 5, come up. -/
def fusesLoaded (s : State) : State :=
  let s1 := s.onFuses fun f => { f with loaded := true }
  let s2 := (((s1.setFld Reg.CRY_STS_LC s1.fuses.lc).setFld Reg.CRY_STS_VAULT_READY 1).setFld Reg.CFG_VER_MIN_SVN s1.fuses.minSvn).setPair Reg.IDG_SERIAL_LO Reg.IDG_SERIAL_HI s1.fuses.serial
  let s3 := s2.setReg Reg.IDG_PART (BitVec.ofNat 32 (s2.fuses.code % 4 + 256 * (s2.fuses.steps % 256)))
  let s4 := if s.fld Reg.RST_STS_LEVEL = 5 then
      (((s3.setFld Reg.RST_BOOT_BOOT_SRC s.rst.bootSrc).setFld Reg.RST_BOOT_CLK_MODE s.rst.clkMode).setFld Reg.CLK_STS_MODE s.rst.clkMode).setFld Reg.CRY_INJ_WIN_OPEN 0xFFFF
    else s3
  let s5 := forAll ((List.range 4).filter fun r => s.pwr.rails.getD r 0 != nominalRails.getD r 0) s4 fun t r => requestVoltage r (nominalRails.getD r 0) t
  (forAll (bootDomains ++ [131]) s5 fun t d => t.setCond d .on).setFld Reg.RST_STS_PHASE 2

/-- FUSE_LOAD_DONE (R448): a load with a bad bank is incomplete and restarts; after the third within 1 s the hold comes next. -/
def execFuseLoadDone (bad : Option (BitVec 8)) (s : State) : Res :=
  if !s.inPhase 1 || decide (3 ≤ s.rst.fuseFails.length) then .next s
  else
    let inj := s.on Reg.FLT_INJ_ARM && s.fld Reg.FLT_INJ_TGT == 14
    let bank := if inj then some (s.fld Reg.FLT_INJ_INST) else bad.map BitVec.toNat
    match bank with
    | none => .next (fusesLoaded s)
    | some b =>
      let s1 := if inj then fire s else s
      let fs := s.clk :: s.rst.fuseFails.filter fun t => decide (s.clk < t + sec)
      .next (((s1.onRst fun r => { r with fuseFails := fs }).setFld Reg.RST_BOOT_FUSE_TRIES fs.length).setFld Reg.RST_BOOT_FUSE_BANK b)

/-- FUSE_LOAD_HOLD (R449): after the third incomplete load within 1 s the module holds in Level 5 and reports FUSE_LOAD. -/
def execFuseLoadHold (s : State) : Res :=
  if s.inPhase 1 && decide (3 ≤ s.rst.fuseFails.length) then done (((s.setFld Reg.RST_STS_HOLD 1).setFld Reg.RST_STS_LEVEL 5).report 0x30 0) else .next s

/-- Whether a core that can run the firmware is neither fenced nor in reset. -/
def State.coreReady (s : State) : Bool :=
  (!s.isFenced .plazaPair || !s.isFenced (.domain 131)) && !(s.rst.blocks.any fun b => b.dom == 130 || b.dom == 132)

/-- The slot that an offline activation staged becomes the running one at the start-up (R471). -/
def takeStaged (s : State) : State :=
  if s.fld Reg.RST_STS_PHASE = 3 ∧ s.flash.staged ≠ 0 then s.onFlash fun f => { f with runSlot := f.staged, staged := 0 } else s

/-- FIRMWARE_BOOT_DONE (R433, R444): the firmware of the running slot starts, in a start-up with the layout load to follow, or after a Level 3 reset of its core. With
BOOT_SRC 2 a start-up waits for a recovery image; with BOOT_SRC 1 the plaza halts for the debugger in the Manufacture and Development states. -/
def execFirmwareBootDone (ok : Bool) (s : State) : Res :=
  let boot := s.inPhase 3
  let src := s.fld Reg.RST_BOOT_BOOT_SRC
  let again := s.on Reg.SUP_STS_PWRGD && !s.rst.mrstLow && (decide (4 ≤ s.fld Reg.RST_STS_PHASE) || (s.fld Reg.RST_STS_PHASE == 0 && s.layout.committed))
  if !ok || !s.coreReady || s.mgmt.act.isSome || s.on Reg.MGT_STS_FW_RUN || !(boot || again) then .next s
  else if boot && (src == 2 || (src == 1 && decide (s.lifeCycle ≤ 1))) then .next s
  else
    let s1 := takeStaged s
    match s1.fwImage s1.flash.runSlot with
    | none => .next s
    | some img => done (firmwareStarts img s1)

/-- RECOVERY_FIRMWARE_IMAGE (R433): with BOOT_SRC 2 the boot ROM starts an image that verifies. -/
def execRecoveryFirmwareImage (img : FwImage) (s : State) : Res :=
  if s.inPhase 3 && s.coreReady && s.fld Reg.RST_BOOT_BOOT_SRC == 2 && s.fwAuthentic img then done (firmwareStarts img s) else .next s

/-- LAYOUT_LOAD_ATTEMPT (R450, R458): by the running firmware. -/
def execLayoutLoadAttempt (s : State) : Res := if s.inPhase 4 && s.on Reg.MGT_STS_FW_RUN then done (loadAttempt s) else .next s

/-- HEAD_READY (R445): configuration requests are answered from now on; RST_TIME.IO_MS reports the latest head's time. -/
def execHeadReady (h : Fin 4) (s : State) : Res :=
  let x := s.head h
  if !s.headLive h || s.perstHeld h || x.ready || !s.layout.committed then .next s
  else
    let from_ := if s.fld Reg.RST_STS_LEVEL = 0 then x.perstRise else Nat.max x.perstRise s.rst.t0
    let s1 := (s.updHead h fun x => { x with ready := true }).setFld Reg.RST_TIME_IO_MS (Nat.min 65535 ((s.clk - from_) / ms))
    .next (s1.emit (.crs h false))

/-- CTM_INIT (R459): the population is checked, the CTM initialises once everything it waits for is there, and memory becomes active unless the input is in the lowest band
(R389); after Level 4 the ledger's recovery comes first. -/
def execCtmInit (s : State) : Res :=
  if !s.inPhase 5 then .next s
  else if !s.dram.checked then done (tryPopulation s)
  else
    let low := s.fld Reg.SUP_STS_BAND == 2
    if s.on Reg.CTM_STS_READY then (if low then .next s else done (activateMemory s))
    else if !s.mayInit then .next s
    else
      let s1 := measure s
      if s.fld Reg.RST_STS_LEVEL = 4 then done (initRecovery s1)
      else
        let s2 := initFresh s1
        done (if low then s2 else activateMemory s2)

/-! ### Non-volatile pulses (R451) -/

/-- NV_PULSE_END (R451): the write is complete, or a reset that it deferred is asserted now and the rest of the sequence is not made. -/
def execNvPulseEnd (s : State) : Res :=
  match s.rst.pulse with
  | none => .next s
  | some _ =>
    let s1 := (s.onRst fun r => { r with pulse := none, deferred := none }).onFlash fun f => { f with job := none }
    match s.rst.deferred with
    | some (src, inst, lvl, t) => done (moduleReset src inst lvl true (s1.setFld Reg.RST_NVW_DELAY_US (Nat.min 1000 ((s.clk - t) / 1000))))
    | none =>
      match s.flash.job with
      | some j => done (applyJob j s1)
      | none => .next s1

/-! ### The status responder and the cables (R497, R498, R505, R506) -/

/-- RST_STS as it reads: IO_READY follows the heads. -/
def State.rstSts (s : State) : Word := withField (s.reg Reg.RST_STS) Reg.RST_STS_IO_READY s.ioReady.toNat

/-- STATUS_RESPONDER_READ (R506): a byte count of 4 and the register, little-endian; every other code is not acknowledged. -/
def execStatusResponderRead (cmd : BitVec 8) (s : State) : Res :=
  let answer := fun (v : Word) => Host.Outcome.next (s.emit (.bytes (4 :: (List.range 4).map fun i => v.toNat / 256 ^ i % 256)))
  if !s.on Reg.SUP_STS_PWRGD then .next s
  else match cmd.toNat with
    | 0x00 => answer s.rstSts
    | 0x01 => answer (s.reg Reg.RST_CAUSE)
    | 0x08 => answer (s.reg Reg.RST_BOOT)
    | _ => .next s

/-- The cable of connector `c` counts as present or absent. -/
def setCable (c : Fin 2) (present : Bool) (s : State) : State := s.onRst fun r => { r with cables := r.cables.set c present }

/-- What a change of the cables does to head `h`, given whether a pin held it before (R497): a low pin that is heard now resets the head, and a head that only an
ignored pin still held leaves its reset. -/
def cableActs (before : State) (s : State) (h : Nat) : State :=
  if before.perstHeld h == s.perstHeld h then s else if s.perstHeld h then perstActs h s else releaseHead h s

/-- CABLE_PRESENCE_CHANGE (R497, R498): CPRSNT_N of connector `c` has been stable for 10 ms. -/
def execCablePresenceChange (c : Fin 2) (present : Bool) (s : State) : Res :=
  let s1 := setCable c present s
  if (List.range 4).all fun h => s.perstHeld h == s1.perstHeld h then .next s1
  else done (forAll (List.range 4) s1 fun t h => cableActs s t h)

/-- The SMBus addresses of the MCTP endpoint, which is also the static I3C address, and of the status responder (R505). -/
def State.mctpAddr (s : State) : Nat := 0x60 + s.rst.addr
def State.statusAddr (s : State) : Nat := 0x48 + s.rst.addr

end Sys2Proof.Machine
end

