-- ==== Sys2Proof/Machine/Slices.lean ====
section
/-! DEFINITION. The meanings of the home slices' commands (chapter 03). -/
namespace Sys2Proof.Machine

open Sys2Proof

/-- The place of request `r` in the order of R89 at slice `sl`, smaller first: writebacks, the ticket holder, the others by the round-robin pointer. -/
def State.order89 (s : State) (sl : Nat) (r : Req) : Nat :=
  if s.isWriteback r then 0
  else match s.ticketAt sl r.ticketKey with
    | some t => if r.ticket = some t.serve then 1 else 2 + (r.port + 64 - (s.slice sl).rr) % 64
    | none => 2 + (r.port + 64 - (s.slice sl).rr) % 64

/-- Requests in the order of R89. -/
def State.insert89 (s : State) (sl : Nat) (r : Req) : List Req → List Req
  | [] => [r]
  | q :: l => if s.order89 sl r < s.order89 sl q then r :: q :: l else q :: s.insert89 sl r l

/-- The pointer moves to the port after the winner each time it has decided a conflict (R89): request `r` of those of `rs` that it chooses among was
accepted, and another of them goes to the same line. `s0`: at the start of the cycle; `t`: before `r` was taken; `u`: after. -/
def pointer89 (sl : Nat) (rs : List Req) (s0 t : State) (r : Req) (u : State) : State :=
  let others := rs.filter fun r => decide (2 ≤ s0.order89 sl r)
  if others.contains r && others.any (fun q => q.id != r.id && q.ticketKey == r.ticketKey) && !t.entryHeld (remapIndex r.gpn) && (t.refuses sl r).isNone then
    u.updSlice sl fun x => { x with rr := (r.port + 1) % 64 }
  else u

/-- SLICE_REQUEST (R20, R73 to R78, R82, R85, R88 to R91, R96, R117, R127, R128, R188, R301): the requests of `ids` whose home is slice `sl` are
taken in the order of R89; each is accepted or answered. In Doze and Keep they wait at the slice's gate. -/
def execSliceRequest (sl : Fin 34) (ids : List Nat) (s : State) : Res :=
  if 2 ≤ s.fld Reg.PWR_STS_STATE then .next s
  else
    let rs := s.flight.filter fun r => ids.contains r.id && s.home r.gpn == sl.val && (match r.agent with
      | .host _ _ => true
      | _ => r.nackAt == 0)
    let sorted := rs.foldr (fun r l => s.insert89 sl r l) []
    let s1 := { s with flight := s.flight.filter fun r => !rs.any fun q => q.id == r.id }
    done (forAll sorted s1 fun t r => pointer89 sl sorted s t r (deliver sl r t))

/-- The filter entry of `la` once LD `k` has answered a snoop of kind `kd` (Table 3.3); an answer E to BISnpData counts as S. -/
def answeredEntry (kd : SnoopKind) (rsp : BiRsp) (k : Nat) (x : FilterEntry) : FilterEntry :=
  let gone := x.holders &&& ~~~ldMask k
  let drop : FilterEntry := if gone = 0 then (if x.state = 3 then { x with holders := 0 } else {}) else { x with holders := gone }
  match kd, rsp with
  | .inv, _ => drop
  | _, .invalid => drop
  | .cur, .exclusive => x
  | _, _ => if x.state = 2 then { x with state := 1 } else x

/-- The kind of the snoops that a request sends (Table 3.3). -/
def Req.snoopKind (r : Req) : SnoopKind :=
  match r.kind with
  | .read =>
    if r.fromEngine then .cur
    else (match r.mval with
      | .invalid => .cur
      | .shared => .data
      | .any => .inv)
  | _ => .inv

/-- The open transaction of slice `sl` that awaits LD `k`'s answer for line `la`, with whether `la` is its victim. -/
def State.awaiting (s : State) (sl la k : Nat) : Option (Txn × Bool) :=
  ((s.slice sl).txns.find? fun t => t.snoops.contains k && (t.victim == some la || (t.victim.isNone && lineAddr t.req.gpn t.req.line == la))).map fun t =>
    (t, t.victim == some la)

/-- BIRSP_RECEIVED (R85, R102, R104, R107): a response to a fenced slice is discarded and counted by the street grid, one after the time-out by the slice; any
other changes the filter, and after the last one the transaction goes on, or a release completes. -/
def execBirspReceived (sl : Fin 34) (la : Nat) (ld : Fin 16) (rsp : BiRsp) (s : State) : Res :=
  let x := s.filter la
  if (s.slice sl).fenced then .next (s.count Reg.NOC_DROP_FENCED)
  else if x.state = 3 ∧ x.silent.getLsbD ld = true then
    .next (setFilter la { x with silent := x.silent &&& ~~~ldMask ld } (s.count (Reg.HSL_BI_TMO_LATE sl)))
  else match s.awaiting sl la ld with
    | some (t, victim) =>
      done (finishReleases (snoopAnswered sl t.req.id ld (setFilter la { answeredEntry (if victim then .inv else t.req.snoopKind) rsp ld x with snp := true } s)) ld)
    | none =>
      if s.recalled ld la then
        done (finishReleases (clearSnp la (setFilter la (answeredEntry .inv rsp ld x) (endRecall ld la s))) ld)
      else .next s

/-- HSC_BI_CFG.TMO_US in ns (R103). -/
def State.snoopTmo (s : State) : Nat := clamp 1 1000 (s.fld Reg.HSC_BI_CFG_TMO_US) * 1000

/-- The effects of a snoop time-out on the line (R103): the silent LD leaves the entry, which is held, and the line is poisoned. -/
def timeoutLine (sl la k : Nat) (s : State) : State :=
  let x := s.filter la
  let y : FilterEntry := { x with state := 3, la := la, holders := x.holders &&& ~~~ldMask k, silent := x.silent ||| ldMask k }
  let s1 := ((setFilter la y s).count (Reg.HSL_BI_TMO_TIMEOUTS sl)).count (Reg.HSL_POISON_TIMEOUT sl)
  let p := la / 64
  (mediaEvent 2 p (la % 64) 1 false (poisonLine p (la % 64) s1)).report 0x10 sl [p, la % 64, k, 0]

/-- SNOOP_TIMEOUT (R103). A victim whose snoop times out stays held; the request takes another way of the set once one can be had (log entry 97). -/
def execSnoopTimeout (sl : Fin 34) (la : Nat) (ld : Fin 16) (s : State) : Res :=
  match s.awaiting sl la ld with
  | some (t, victim) =>
    let s1 := timeoutLine sl la ld (s.until (t.sentAt + s.snoopTmo))
    done (finishReleases (snoopAnswered sl t.req.id ld (if victim then s1 else updTxn sl t.req.id (fun t => { t with poisonResult := true }) s1)) ld)
  | none =>
    if s.recalled ld la && s.home (la / 64) == sl.val then
      done (finishReleases (clearSnp la (timeoutLine sl la ld (endRecall ld la (s.until (s.recallAt ld la + s.snoopTmo))))) ld)
    else .next s

/-- TICKET_FORFEIT (R77): 1 µs after the holder became next. -/
def execTicketForfeit (sl : Fin 34) (key : Nat) (s : State) : Res :=
  match s.ticketAt sl key with
  | none => .next s
  | some t =>
    let s1 := (s.until (t.since + 1000)).count (Reg.HSL_TKT_STS_FORFEIT sl)
    let lose := fun (r : Req) => if r.ticketKey = key ∧ r.ticket = some t.serve then { r with ticket := none, nacks := 0 } else r
    let heads := SMap.mapAll (fun _ => {}) (fun _ h => { h with pen := h.pen.map fun e => { e with req := lose e.req } }) s1.heads
    .next (advanceTicket sl key { s1 with flight := s1.flight.map lose, heads := heads })

/-- NACK_RETRY (R75): the internal request `id` at the end of its delay. -/
def execNackRetry (id : Nat) (s : State) : Res :=
  match s.flight.find? fun r => r.id == id && r.nackAt != 0 with
  | none => .next s
  | some r =>
    let d := if r.ticket.isSome then 64 else if r.nacks ≤ 1 then 16 else if r.nacks = 2 then 32 else 64
    let s1 := s.until (r.nackAt + d)
    done (deliver (s.home r.gpn) { r with nackAt := 0 } { s1 with flight := s1.flight.filter fun q => q.id != id })

/-- LD_TEARDOWN (R105): once the head's pen holds no write of the old epoch. -/
def execLdTeardown (h : Fin 4) (s : State) : Res :=
  if s.teardown.contains h.val && !s.oldWrites h then done (forAll (List.range 16) (tearDown h s) finishReleases) else .next s

/-- SPARE_POWER_UP_DONE (Table 3.6, step 5; R110): the spare of entry `e` is powered and released. After a double failure it takes the entry by a route
change at once, or as soon as the one under way is over. A spare that becomes free later (R111) does not take an entry that a double failure left without one
(DESIGN CHOICE, log entry 98). -/
def execSparePowerUpDone (e : Fin 32) (s : State) : Res :=
  match s.takeover e with
  | some t =>
    (match t.spare with
     | some sp =>
       if t.step ≠ 4 then .next s
       else
         let s1 := updTakeover e (fun t => { t with step := 5 }) (wakeDomain (8 + sp) s)
         .next (if t.double && !s.noc.flipping then moveToSpare e sp s1 else s1)
     | none => .next s)
  | none => .next s

/-- SPARE_ARRAY_LOAD_DONE (Table 3.6, steps 6 and 7): the spare's primary array is the buddy's mirror, its mirror array the buddy's primary; requests
to the entry are answered QUIESCE from now on. -/
def execSpareArrayLoadDone (e : Fin 32) (s : State) : Res :=
  match s.takeover e with
  | some t =>
    (match t.spare with
     | some sp =>
       if t.step ≠ 5 ∨ t.double = true then .next s
       else
         let b := s.slice (s.buddyOf e)
         let mine := b.mirror.filter fun x => remapIndex (x.1 / 64) == e.val
         .next (updTakeover e (fun t => { t with step := 7 }) (s.updSlice sp fun x => { x with filter := mine, mirror := b.filter, uses := b.uses }))
     | none => .next s)
  | none => .next s

/-- BUDDY_ENTRY_DRAINED (Table 3.6, step 8): no transaction of the entry is open at the buddy; routes and remap table name the spare. -/
def execBuddyEntryDrained (e : Fin 32) (s : State) : Res :=
  match s.takeover e with
  | some t =>
    (match t.spare with
     | some sp =>
       if t.step = 7 ∧ s.noc.flipping = false ∧ ((s.slice (s.buddyOf e)).txns.any fun x => remapIndex x.req.gpn == e.val) = false then
         .next (moveToSpare e sp s)
       else .next s
     | none => .next s)
  | none => .next s

end Sys2Proof.Machine
end

