-- ==== Sys2Proof/Machine/Supply.lean ====
section
/-! DEFINITION. The meanings of the supply events and commands (chapters 13 and 19). -/
namespace Sys2Proof.Machine

open Sys2Proof

/-- FEED_PRESENT (R501): FPRSNT_N and the voltage of an absent or open feed have been stable for 1 ms, so its switch ramps. A feed below 3.0 V is
absent (R384). The first feed of an unpowered module must be above the 4.5 V rising threshold, which lies between 4.45 V and 4.50 V (R389, R390).
Nothing ramps while the TP7's junction is too hot (R516). -/
def execFeedPresent (f : Fin 2) (mv : Nat) (s : State) : Res :=
  let first := s.sup.lostAt.isSome || s.fld Reg.SUP_STS_BAND == 3
  let ok := if first then aboveRange mv 4450 4500 ((s.freeVal 1) == 1#1) else decide (3000 ≤ mv)
  if s.sup.overtemp ∨ (s.supSt f ≠ 0 ∧ s.supSt f ≠ 7) ∨ ok = false then .next s.spent
  else .next ((startRamp f false s.spent).updChan f fun c => { c with mv := mv })

/-- FEED_ABSENT (R501): the switch opens without a trip and the feed counts as absent. -/
def execFeedAbsent (f : Fin 2) (s : State) : Res :=
  if s.supSt f = 7 then .next s
  else done (feedLost f (s.on (Reg.SUP_CH_STS_PG f)) ((openSwitch f 7 s).updChan f fun c => { c with mv := 0, nextAt := none }))

/-- FEED_REVERSE_TURN_OFF (R384): a conducting feed at `mv`, below the combined input node, turns off and counts as lost; below 3.0 V it is absent. -/
def execFeedReverseTurnOff (f : Fin 2) (mv : Nat) (s : State) : Res :=
  if s.conducts f ∧ mv < s.sup.vin then
    done (feedLost f (s.on (Reg.SUP_CH_STS_PG f)) ((openSwitch f (if mv < 3000 then 7 else 0) s).updChan f fun c => { c with mv := mv }))
  else .next s

/-- SWITCH_RAMP_DONE (R396): a ramping channel's output has reached its PG threshold with the switch fully on, and its window opens; a fault timer that still runs withholds PG as
one that starts in the window does. -/
def execSwitchRampDone (j : Fin 36) (s : State) : Res :=
  if s.supSt j = 1 ∧ (s.chan j).ramped = false then
    .next ((s.setFld (Reg.SUP_CH_STS_STATE j) 2).updChan j fun c => { c with ramped := true, winAt := some s.clk, ftInWin := s.on (Reg.SUP_CH_STS_FT_RUN j) })
  else .next s

/-- PG_WINDOW_END (R396): 10 µs after it opened the window ends. PG is asserted unless the fault timer started in it. The first feed to get PG
starts the converter, which brings the module bus up and PWRGD with it (Table 13.3, steps 5 to 7). A feed with PG ends its exposure (Table 11.3a). A slot whose DIMM is there is measured:
during start-up in STATE 1, else in STATE 10 (R221). -/
def execPgWindowEnd (j : Fin 36) (s : State) : Res :=
  match (s.chan j).winAt with
  | none => .next s
  | some t =>
    if s.supSt j ≠ 2 then .next s
    else
      let s1 := s.until (t + 10000)
      if (s.chan j).ftInWin then .next ((s1.setFld (Reg.SUP_CH_STS_STATE j) 1).updChan j fun c => { c with winAt := none })
      else
        let s2 := ((setPg j true s1).setFld (Reg.SUP_CH_STS_STATE j) 3).updChan j fun c => { c with winAt := none, retrying := false }
        if isFeed j then
          let s3 := (s2.unexpose fun e => e.src == 0x2A && e.inst == j.val).onSup fun p =>
            { p with feedLostAt := p.feedLostAt.set j none, vin := if p.vin < (s2.chan j).mv then (s2.chan j).mv else p.vin }
          .next (if s3.on Reg.SUP_STS_PWRGD then s3
            else (((s3.setFld Reg.SUP_STS_BUS_OK 1).setFld Reg.SUP_STS_PWRGD 1).setFld Reg.SUP_STS_PFW 0).onSup fun p => { p with bus := 12000, lostAt := none })
        else
          let c := (j.val - 4) / 2
          let z := (j.val - 4) % 2
          let s3 := updDimm c z (fun d => { d with info := none, failing := [] }) s2
          if !(s3.dimm c z).fitted || s3.slotState c z != 0 then .next s3
          else .next (setSlotState c z (if s3.fld Reg.RST_STS_PHASE = 5 then 1 else 10) s3)

/-- CURRENT_LIMIT (R385): the current of a conducting channel reaches its limit, and its fault timer starts. -/
def execCurrentLimit (j : Fin 36) (s : State) : Res :=
  if s.conducts j ∧ isSwitched j ∧ ¬ s.on (Reg.SUP_CH_STS_FT_RUN j) then
    .next ((s.setFld (Reg.SUP_CH_STS_FT_RUN j) 1).updChan j fun c => { c with ftAt := some s.clk, ftInWin := c.ftInWin || c.winAt.isSome })
  else .next s

/-- FAULT_TIMER_CLEAR (R396): after 100 µs below the limit the timer clears and leaves PG as it was; where it had kept PG from a channel at its PG
threshold, a new window opens. -/
def execFaultTimerClear (j : Fin 36) (s : State) : Res :=
  if s.on (Reg.SUP_CH_STS_FT_RUN j) then
    let s1 := (s.setFld (Reg.SUP_CH_STS_FT_RUN j) 0).updChan j fun c => { c with ftAt := none }
    if s1.supSt j = 1 ∧ (s.chan j).ramped then
      .next ((s1.setFld (Reg.SUP_CH_STS_STATE j) 2).updChan j fun c => { c with winAt := some s.clk, ftInWin := false })
    else .next s1
  else .next s

/-- FAULT_TIMER_EXPIRY (R397): the running fault timer ends and the channel trips. -/
def execFaultTimerExpiry (j : Fin 36) (s : State) : Res :=
  match (s.chan j).ftAt with
  | none => .next s
  | some t => if s.on (Reg.SUP_CH_STS_FT_RUN j) then done (trip j 2 (s.until (t + s.faultTimer j))) else .next s

/-- FAST_TRIP (R397). -/
def execFastTrip (j : Fin 36) (s : State) : Res :=
  if s.conducts j ∧ isSwitched j then done (trip j 1 s) else .next s

/-- OVER_VOLTAGE_OPEN (R386, Table 13.2): at the opening threshold, between 18.6 V and 19.0 V, the switch opens; it is no trip, and the feed counts
as lost. -/
def execOverVoltageOpen (f : Fin 2) (mv : Nat) (s : State) : Res :=
  let opens := decide (19000 ≤ mv) || (decide (18600 ≤ mv) && (s.freeVal 1) == 1#1)
  if s.conducts f ∧ opens then
    let s1 := (openSwitch f 0 s.spent).setFld (Reg.SUP_CH_STS_LAST_TRIP f) 3
    done (feedLost f (s.on (Reg.SUP_CH_STS_PG f)) (s1.updChan f fun c => { c with mv := mv, ovAt := some s.clk }))
  else .next s.spent

/-- OVER_VOLTAGE_RECLOSE (R386): after 100 ms below 18.3 V a normal ramp follows; no retry count changes. -/
def execOverVoltageReclose (f : Fin 2) (mv : Nat) (s : State) : Res :=
  match (s.chan f).ovAt with
  | none => .next s
  | some t =>
    if s.supSt f = 0 ∧ mv < 18300 then .next ((startRamp f false (s.until (t + 100 * ms))).updChan f fun c => { c with mv := mv, ovAt := none }) else .next s

/-- RETRY_TIMER (R398): the waiting channel's period has ended and its switch ramps again; in MODE 1 that uses one retry. -/
def execRetryTimer (j : Fin 36) (s : State) : Res :=
  match (s.chan j).nextAt with
  | none => .next s
  | some t =>
    if s.supSt j ≠ 4 then .next s
    else
      let s1 := (startRamp j true (s.until t)).setFld (Reg.SUP_CH_STS_NEXT_10MS j) 0
      if s.fld (Reg.SUP_CH_CFG_MODE j) = 1 then
        let s2 := s1.updChan j fun c => { c with used := c.used + 1 }
        .next (s2.setFld (Reg.SUP_CH_STS_RETRY_LEFT j) (s2.retryLeft j))
      else .next s1

/-- RETRY_ATTEMPT_TIMEOUT (R398): an attempt without PG after its 10 ms opens the switch; the next period or latch-off follows. -/
def execRetryAttemptTimeout (j : Fin 36) (s : State) : Res :=
  if (s.chan j).retrying ∧ (s.supSt j = 1 ∨ s.supSt j = 2) then
    let t := (s.chan j).rampAt
    .next (scheduleRetry j t (openSwitch j 5 (s.until (t + 10 * ms))))
  else .next s

/-- BAND_FALL (R390): Vin has stayed at `mv` for 20 µs. Each falling threshold lies within its range of Table 13.4, where it is free. SUPPLY_BAND is
reported when the band falls. -/
def execBandFall (mv : Nat) (s : State) : Res :=
  let fv := s.freeVal 3
  let b := if belowRange mv 4350 4450 (fv.getLsbD 2) then 3 else if belowRange mv 6800 6900 (fv.getLsbD 1) then 2
    else if belowRange mv 10550 10650 (fv.getLsbD 0) then 1 else 0
  let s1 := s.spent.onSup fun p => { p with vin := mv }
  if s.fld Reg.SUP_STS_BAND < b then done ((enterBand b s1).report 0x2B 0 [((s1.setFld Reg.SUP_STS_BAND b).reg Reg.SUP_STS).toNat]) else .next s1

/-- BAND_RISE (R390): Vin has stayed at `mv` for 10 ms, and above 4.5 V no power-fail warning stands. The return from the 4.5 to 7.0 V band ends a forced Keep (R367). -/
def execBandRise (mv : Nat) (s : State) : Res :=
  let fv := s.freeVal 3
  let b := if aboveRange mv 10700 10800 (fv.getLsbD 0) then 0 else if aboveRange mv 6950 7000 (fv.getLsbD 1) then 1
    else if aboveRange mv 4450 4500 (fv.getLsbD 2) then 2 else 3
  let s1 := s.spent.onSup fun p => { p with vin := mv }
  if b < s.fld Reg.SUP_STS_BAND then
    let s2 := enterBand b (if b < 3 then s1.setFld Reg.SUP_STS_PFW 0 else s1)
    .next (if s2.on Reg.PWR_STS_FORCED ∧ b < 2 then takeWake 8 0 none s2 else s2)
  else .next s1

/-- POWER_CAP_UPDATE (R392): every 100 µs, from Vin and the healthy phases. -/
def execPowerCapUpdate (vin : Nat) (s : State) : Res := .next (updateCap (s.onSup fun p => { p with vin := vin }))

/-- THROTTLE_RAISE (R392): P_in above 0.95 × P_cap raises THROTTLE by 1, to at most 7, once a millisecond. -/
def execThrottleRaise (pin : Nat) (s : State) : Res :=
  let s1 := s.setFld Reg.SUP_CAP_PIN_W pin
  if 95 * s.fld Reg.SUP_CAP_PCAP_W < 100 * pin then
    let s2 := s1.until (s.sup.raiseAt + ms)
    .next ((setThrottle (Nat.min 7 (s.fld Reg.SUP_STS_THROTTLE + 1)) s2).onSup fun p => { p with raiseAt := s2.clk })
  else .next (setThrottle (s.fld Reg.SUP_STS_THROTTLE) s1)

/-- THROTTLE_LOWER (R392): P_in below 0.85 × P_cap for 10 ms lowers THROTTLE by 1; in band 2 it stays at 7 (Table 13.5). -/
def execThrottleLower (pin : Nat) (s : State) : Res :=
  let s1 := s.setFld Reg.SUP_CAP_PIN_W pin
  if 100 * pin < 85 * s.fld Reg.SUP_CAP_PCAP_W ∧ s.fld Reg.SUP_STS_BAND < 2 then
    let s2 := s1.until (s.sup.raiseAt + 10 * ms)
    .next ((setThrottle (s.fld Reg.SUP_STS_THROTTLE - 1) s2).onSup fun p => { p with raiseAt := s2.clk })
  else .next (setThrottle (s.fld Reg.SUP_STS_THROTTLE) s1)

/-- BUS_LOW_THROTTLE (R392): the module bus below 11.4 V for 10 µs sets THROTTLE to 7. -/
def execBusLowThrottle (mv : Nat) (s : State) : Res :=
  let s1 := (s.onSup fun p => { p with bus := mv }).setBit Reg.SUP_STS_BUS_OK (decide (11760 ≤ mv ∧ mv ≤ 12240))
  .next (if mv < 11400 then setThrottle 7 s1 else s1)

/-- PHASE_FAULT (R394): the phase is shed until the next fresh insertion, BUS_PHASE is reported and the cap follows. -/
def execPhaseFault (ph : Fin 6) (s : State) : Res :=
  if s.bitOf Reg.SUP_STS_PHASE_OK ph then
    let s1 := updateCap (s.setBitOf Reg.SUP_STS_PHASE_OK ph false)
    done (s1.report 0x2D 0 [(s1.reg Reg.SUP_STS).toNat])
  else .next s

/-- POWER_FAIL_WARNING (R400): Vin below the 4.5 V falling threshold sets PFW and the band to 3. The TV7 takes no step to preserve contents. -/
def execPowerFailWarning (vin : Nat) (s : State) : Res :=
  if belowRange vin 4350 4450 ((s.freeVal 1) == 1#1) then
    let s1 := ((s.spent.setFld Reg.SUP_STS_PFW 1).setFld Reg.SUP_STS_BAND 3).onSup fun p =>
      { p with vin := vin, lostAt := match p.lostAt with | some t => some t | none => some s.clk }
    .next (updateCap s1)
  else .next s.spent

/-- TRIP_RECORD_WRITE (R402): 150 ms without input, the trip state of every channel goes into the record store. -/
def execTripRecordWrite (s : State) : Res :=
  match s.sup.lostAt with
  | none => .next s
  | some t =>
    let s1 := s.until (t + 150 * ms)
    let sl := ((List.range 32).map fun k => s.fld (Reg.SUP_CH_STS_TRIPS (4 + k))).foldl (· + ·) 0
    .next (s1.onSup fun p => { p with record := some (s.fld (Reg.SUP_CH_STS_TRIPS 0), s.fld (Reg.SUP_CH_STS_TRIPS 1), sl,
      (List.range 36).any fun j => s.supSt j == 5) })

/-- The whole input is back within 200 ms: a dropout (R401). Retry counts, latch-off and the time left to each retry are kept. -/
def dropout (t : Nat) (s : State) : State :=
  let s1 := forAll (List.range 36) s fun u j => u.updChan j fun c => { c with nextAt := c.nextAt.map (· + (s.clk - t)) }
  (s1.count Reg.SUP_DROP_DROPOUTS).onSup fun p => { p with lostAt := none }

/-- A fresh insertion (R401, R402, R403): channels as new, SUP_HIST from the record store, which is cleared, SUP_DROP 0, all phases back; the record
enters the fault log as source FEED_LOSS, instance 2. -/
def freshInsertion (s : State) : State :=
  let s1 := forAll (List.range 36) s (fun u j => freshChannel j u)
  let s2 := ((s1.setReg Reg.SUP_DROP 0).setFld Reg.SUP_STS_PHASE_OK 63).onSup fun p => { p with lostAt := none, feedLostAt := [none, none] }
  let s3 := s2.unexpose fun e => e.src == 0x2D
  match s.sup.record with
  | none => s3.setReg Reg.SUP_HIST 0
  | some (a, b, sl, l) =>
    let s4 := ((((s3.setReg Reg.SUP_HIST 0).setFld Reg.SUP_HIST_TRIPS_A (Nat.min a 255)).setFld Reg.SUP_HIST_TRIPS_B (Nat.min b 255)).setFld
      Reg.SUP_HIST_SLOT_TRIPS (Nat.min sl 255)).setBit Reg.SUP_HIST_LATCHED l
    let s5 := (s4.setFld Reg.SUP_HIST_VALID 1).onSup fun p => { p with record := none }
    s5.onFlt fun c => { c with queued := c.queued ++ [(s5.time, .fault 0x2A 2 0 [(s5.reg Reg.SUP_HIST).toNat])] }

/-- INPUT_RETURN (R401): the whole input (none) or feed `f` comes back, as a dropout within 200 ms or else as a fresh insertion. -/
def execInputReturn (f : Option (Fin 2)) (s : State) : Res :=
  match f with
  | none => match s.sup.lostAt with
    | none => .next s
    | some t => .next (if s.clk ≤ t + 200 * ms then dropout t s else freshInsertion s)
  | some k => match s.sup.feedLostAt.getD k none with
    | none => .next s
    | some t =>
      let s1 := s.onSup fun p => { p with feedLostAt := p.feedLostAt.set k none }
      if s.clk ≤ t + 200 * ms then
        .next ((s1.count (if k.val = 0 then Reg.SUP_DROP_FEED_A else Reg.SUP_DROP_FEED_B)).updChan k fun c => { c with nextAt := c.nextAt.map (· + (s.clk - t)) })
      else .next (freshChannel k s1)

/-- MEASUREMENT_SAMPLE (R403): the newest sample of a measured channel; its energy over 100 µs is added in units of 1 mJ with the remainder carried. -/
def execMeasurementSample (j : Fin 36) (mv cur : BitVec 16) (s : State) : Res :=
  .next (s.updChan j fun c =>
    let e := c.rem + mv.toNat * cur.toNat * 10
    { c with sampleMv := mv.toNat, sampleCur := cur.toNat, energy := (c.energy + e / 10000000) % 2 ^ 64, rem := e % 10000000 })

/-- MEASUREMENT_SELECT (R403, R411): from the plaza only. -/
def execMeasurementSelect (p : Path) (v : BitVec 32) (s : State) : Res :=
  done (plazaOnly p s fun t => latchMeasurement (v.toNat % 64) (t.setFld Reg.SUP_MSEL_CH v.toNat))

/-- SUPPLY_POWER_OFF (R409). -/
def execSupplyPowerOff (p : Path) (j : Fin 64) (s : State) : Res := done (plazaOnly p s (supPowerOff j))

/-- SUPPLY_POWER_ON (R409). -/
def execSupplyPowerOn (p : Path) (j : Fin 64) (s : State) : Res := done (plazaOnly p s (supPowerOn j))

/-- CLEAR_LATCH_OFF (R399). -/
def execClearLatchOff (p : Path) (j : Fin 64) (s : State) : Res := done (plazaOnly p s (supClear j))

/-- EJECTOR_LATCH_OPEN (R407): a powered slot is switched off with LAST_TRIP 4. From STATE 6 it enters STATE 10 and no fault is reported; in STATE 3 to
5 it is a removal without fencing. -/
def execEjectorLatchOpen (k : Fin 32) (s : State) : Res :=
  let j := 4 + k.val
  let s1 := s.setFld (Reg.SUP_CH_STS_LATCH j) 0
  if s.conducts j then
    if s.slotSt j = 6 then .next ((((openSwitch j 6 s1).count (Reg.SUP_CH_STS_TRIPS j)).setFld (Reg.SUP_CH_STS_LAST_TRIP j) 4).setSlotSt j 10)
    else done (((trip j 4 s1).setFld (Reg.SUP_CH_STS_STATE j) 6).setFld (Reg.SUP_CH_STS_NEXT_10MS j) 0 |>.updChan j fun c => { c with nextAt := none })
  else .next (if s.supSt j = 4 then ((s1.setFld (Reg.SUP_CH_STS_STATE j) 0).setFld (Reg.SUP_CH_STS_NEXT_10MS j) 0).updChan j (fun c => { c with nextAt := none }) else s1)

/-- EJECTOR_LATCH_CLOSE (R399): both latches closed after an opening, which clears a latch-off and re-arms the channel. -/
def execEjectorLatchClose (k : Fin 32) (fitted : Bool) (s : State) : Res :=
  let j := 4 + k.val
  let s1 := (s.setFld (Reg.SUP_CH_STS_LATCH j) 1).updDcc (k.val / 2) fun d =>
    { d with slots := d.slots.set (k.val % 2) { (d.slots.getD (k.val % 2) {}) with fitted := fitted } }
  if s.supSt j = 5 ∧ ¬ s.on (Reg.SUP_CH_STS_LATCH j) then
    .next (((s1.setFld (Reg.SUP_CH_STS_STATE j) 0).setFld (Reg.SUP_CH_STS_RETRY_LEFT j) (s.fld (Reg.SUP_CH_CFG_RETRIES j))).updChan j fun c => { c with used := 0 })
  else .next s1

/-- DISCHARGE_COMPLETE (R406): the rail of a switched-off slot is at 2.0 V. -/
def execDischargeComplete (k : Fin 32) (s : State) : Res :=
  let j := 4 + k.val
  if s.conducts j then .next s
  else .next ((s.setFld (Reg.SUP_CH_STS_SAFE j) 1).setFld (Reg.SUP_CH_STS_STATE j) (if s.supSt j = 6 then 0 else s.supSt j))

/-- DISCHARGE_TIMEOUT (R406): a rail still above 2.0 V 100 ms after switch-off is reported with LAST_TRIP 5. -/
def execDischargeTimeout (k : Fin 32) (s : State) : Res :=
  let j := 4 + k.val
  if s.conducts j ∨ s.on (Reg.SUP_CH_STS_SAFE j) then .next s
  else
    let s1 := (s.until ((s.chan j).offAt + 100 * ms)).setFld (Reg.SUP_CH_STS_LAST_TRIP j) 5
    done (s1.report 0x2C k [(s1.reg (Reg.SUP_CH_STS j)).toNat])

/-- INLET_LIMIT_UPDATE (R515): the bound falls at once; it rises only when the inlet has stayed 1 °C below the temperature that set it for 10 s. -/
def execInletLimitUpdate (t : Nat) (s : State) : Res :=
  let l := inletLimit t
  if l < s.sup.inletCap ∨ (l = s.sup.inletCap ∧ s.sup.inletMax ≤ t) then
    .next (updateCap (s.onSup fun p => { p with inletCap := l, inletMax := t, inletOkAt := none }))
  else if s.sup.inletCap = 800 ∨ s.sup.inletMax < t + 10 then .next (s.onSup fun p => { p with inletOkAt := none })
  else match s.sup.inletOkAt with
    | none => .next (s.onSup fun p => { p with inletOkAt := some s.clk })
    | some u =>
      if s.past u (10 * sec) then .next (updateCap (s.onSup fun p => { p with inletCap := l, inletMax := t, inletOkAt := none })) else .next s

/-- TP7_OVERTEMP (R516): both feed switches open and the input counts as lost. -/
def execTp7Overtemp (s : State) : Res :=
  let s1 := forAll [0, 1] (s.onSup fun p => { p with overtemp := true }) fun u f =>
    if u.conducts f then feedLost f (u.on (Reg.SUP_CH_STS_PG f)) (openSwitch f 0 u) else u
  done (s1.onSup fun p => { p with lostAt := match p.lostAt with | some t => some t | none => some s.clk })

end Sys2Proof.Machine
end

