-- ==== Sys2Proof/Machine/Dispatch.lean ====
section
/-! DEFINITION. One arm per command: the call of its meaning. -/
namespace Sys2Proof.Machine

open Sys2Proof

/-- The effect of a command on everything but the queue. -/
def exec (i : Instr) (s : State) : Host.Outcome State Fault Refusal :=
  match i with
  | .registerWrite p off size v => Sys2Proof.Machine.execRegisterWrite p off size v s
  | .loHalfRead p off size => Sys2Proof.Machine.execLoHalfRead p off size s
  | .hiHalfRead p off => Sys2Proof.Machine.execHiHalfRead p off s
  | .pairHiWrite p off v => Sys2Proof.Machine.execPairHiWrite p off v s
  | .selectorWrite p sel v => Sys2Proof.Machine.execSelectorWrite p sel v s
  | .sleepingRegisterAccess p off w => Sys2Proof.Machine.execSleepingRegisterAccess p off w s
  | .fencedRegisterAccess p off w => Sys2Proof.Machine.execFencedRegisterAccess p off w s
  | .hostMemRead h ld hpa m tag arr => Sys2Proof.Machine.execHostMemRead h ld hpa m tag arr s
  | .hostMemWrite h ld hpa m tag data mask poison arr => Sys2Proof.Machine.execHostMemWrite h ld hpa m tag data mask poison arr s
  | .bar4AtomicOp h x tag op => Sys2Proof.Machine.execBar4AtomicOp h x tag op s
  | .penEntryFree h id => Sys2Proof.Machine.execPenEntryFree h id s
  | .penReinject h id => Sys2Proof.Machine.execPenReinject h id s
  | .penReadExpiry h id => Sys2Proof.Machine.execPenReadExpiry h id s
  | .penWriteExpiry h id => Sys2Proof.Machine.execPenWriteExpiry h id s
  | .headResponse h id => Sys2Proof.Machine.execHeadResponse h id s
  | .surpriseLinkDown h => Sys2Proof.Machine.execSurpriseLinkDown h s
  | .cableMeasurementDone h loss len idValid => Sys2Proof.Machine.execCableMeasurementDone h loss len idValid s
  | .linkTrainingDone h partner width retimers => Sys2Proof.Machine.execLinkTrainingDone h partner width retimers s
  | .linkRecovery h => Sys2Proof.Machine.execLinkRecovery h s
  | .rateFallback h => Sys2Proof.Machine.execRateFallback h s
  | .retryRate h => Sys2Proof.Machine.execRetryRate h s
  | .linkDisable h => Sys2Proof.Machine.execLinkDisable h s
  | .linkEnable h => Sys2Proof.Machine.execLinkEnable h s
  | .viralReceived h => Sys2Proof.Machine.execViralReceived h s
  | .ideKeyProg h sub key => Sys2Proof.Machine.execIdeKeyProg h sub key s
  | .ideMacFailure h st => Sys2Proof.Machine.execIdeMacFailure h st s
  | .addCapacityOffer ld gib share => Sys2Proof.Machine.execAddCapacityOffer ld gib share s
  | .addCapacityResponse ld gib => Sys2Proof.Machine.execAddCapacityResponse ld gib s
  | .releaseDynamicCapacity ld gib => Sys2Proof.Machine.execReleaseDynamicCapacity ld gib s
  | .sliceRequest sl ids => Sys2Proof.Machine.execSliceRequest sl ids s
  | .birspReceived sl la ld rsp => Sys2Proof.Machine.execBirspReceived sl la ld rsp s
  | .snoopTimeout sl la ld => Sys2Proof.Machine.execSnoopTimeout sl la ld s
  | .ticketForfeit sl key => Sys2Proof.Machine.execTicketForfeit sl key s
  | .nackRetry id => Sys2Proof.Machine.execNackRetry id s
  | .ldTeardown h => Sys2Proof.Machine.execLdTeardown h s
  | .sparePowerUpDone e => Sys2Proof.Machine.execSparePowerUpDone e s
  | .spareArrayLoadDone e => Sys2Proof.Machine.execSpareArrayLoadDone e s
  | .buddyEntryDrained e => Sys2Proof.Machine.execBuddyEntryDrained e s
  | .mapEntryReturn gpn src err authOk => Sys2Proof.Machine.execMapEntryReturn gpn src err authOk s
  | .htcLineAccess id err => Sys2Proof.Machine.execHtcLineAccess id err s
  | .fillData gpn errs => Sys2Proof.Machine.execFillData gpn s errs
  | .heldWriteResume id => Sys2Proof.Machine.execHeldWriteResume id s
  | .coldWritebackOpen gpn errs => Sys2Proof.Machine.execColdWritebackOpen gpn s errs
  | .shedFrameRelease st errs => Sys2Proof.Machine.execShedFrameRelease st s errs
  | .shedFloorRelease st errs => Sys2Proof.Machine.execShedFloorRelease st s errs
  | .pinSet gpn => Sys2Proof.Machine.execPinSet gpn s
  | .pinClear gpn => Sys2Proof.Machine.execPinClear gpn s
  | .keepFrameMove st gpn errs => Sys2Proof.Machine.execKeepFrameMove st gpn s errs
  | .stitcherRead id => Sys2Proof.Machine.execStitcherRead id s
  | .stitcherAllFencedTimeout id => Sys2Proof.Machine.execStitcherAllFencedTimeout id s
  | .stitchReadDone id => Sys2Proof.Machine.execStitchReadDone id s
  | .imageAppend st gpn => Sys2Proof.Machine.execImageAppend st gpn s
  | .seamSealTimeout st stream => Sys2Proof.Machine.execSeamSealTimeout st stream s
  | .pageOpCommit gpn => Sys2Proof.Machine.execPageOpCommit gpn s
  | .ledgerGroupWrite g n => Sys2Proof.Machine.execLedgerGroupWrite g s n
  | .ledgerRecoveryDone errs => Sys2Proof.Machine.execLedgerRecoveryDone errs s
  | .segmentFree seg => Sys2Proof.Machine.execSegmentFree seg s
  | .keyWindowTimeout ld => Sys2Proof.Machine.execKeyWindowTimeout ld s
  | .reencSlotStart slot => Sys2Proof.Machine.execReencSlotStart slot s
  | .reencPageOpen slot => Sys2Proof.Machine.execReencPageOpen slot s
  | .reencCheckpoint slot => Sys2Proof.Machine.execReencCheckpoint slot s
  | .reencFinalPass slot => Sys2Proof.Machine.execReencFinalPass slot s
  | .requestCinch via r => Sys2Proof.Machine.execRequestCinch via r s
  | .releaseCinch via cinchId => Sys2Proof.Machine.execReleaseCinch via cinchId s
  | .confirmCinch via cinchId ok => Sys2Proof.Machine.execConfirmCinch via cinchId ok s
  | .cinchConfirmTimeout slot => Sys2Proof.Machine.execCinchConfirmTimeout slot s
  | .cinchPinnedActive slot => Sys2Proof.Machine.execCinchPinnedActive slot s
  | .packetForward c o inject fails => Sys2Proof.Machine.execPacketForward c o inject s fails
  | .packetEject c o err => Sys2Proof.Machine.execPacketEject c o err s
  | .requestReissueTimeout id => Sys2Proof.Machine.execRequestReissueTimeout id s
  | .streetSilence c d selfCheck => Sys2Proof.Machine.execStreetSilence c d selfCheck s
  | .routeTableWrite p v => Sys2Proof.Machine.execRouteTableWrite p v s
  | .routeFlip p => Sys2Proof.Machine.execRouteFlip p s
  | .routeDrained c => Sys2Proof.Machine.execRouteDrained c s
  | .ringEnable p r v => Sys2Proof.Machine.execRingEnable p r v s
  | .ringDoorbell p r v => Sys2Proof.Machine.execRingDoorbell p r v s
  | .descriptorFetch n => Sys2Proof.Machine.execDescriptorFetch n s
  | .nop r idx => Sys2Proof.Machine.execNop r idx s
  | .copy r idx => Sys2Proof.Machine.execCopy r idx s
  | .fill r idx => Sys2Proof.Machine.execFill r idx s
  | .zero r idx => Sys2Proof.Machine.execZero r idx s
  | .crc32c r idx => Sys2Proof.Machine.execCrc32c r idx s
  | .sha256 r idx => Sys2Proof.Machine.execSha256 r idx s
  | .rsEnc r idx => Sys2Proof.Machine.execRsEnc r idx s
  | .rsRec r idx => Sys2Proof.Machine.execRsRec r idx s
  | .compare r idx => Sys2Proof.Machine.execCompare r idx s
  | .atomicBatch r idx => Sys2Proof.Machine.execAtomicBatch r idx s
  | .tierHint r idx => Sys2Proof.Machine.execTierHint r idx s
  | .descriptorComplete r => Sys2Proof.Machine.execDescriptorComplete r s
  | .descriptorWaitTimeout r => Sys2Proof.Machine.execDescriptorWaitTimeout r s
  | .ringResume p r => Sys2Proof.Machine.execRingResume p r s
  | .spdReadRetry ch z k => Sys2Proof.Machine.execSpdReadRetry ch z k s
  | .spdSilent ch z => Sys2Proof.Machine.execSpdSilent ch z s
  | .spdReadDone ch z info => Sys2Proof.Machine.execSpdReadDone ch z info s
  | .dimmTempReading ch z ts0 ts1 => Sys2Proof.Machine.execDimmTempReading ch z ts0 ts1 s
  | .pmicReading ch z mv ma fault => Sys2Proof.Machine.execPmicReading ch z mv ma fault s
  | .dccReadRequest ch id seam => Sys2Proof.Machine.execDccReadRequest ch id seam s
  | .dccWriteRequest ch seam => Sys2Proof.Machine.execDccWriteRequest ch seam s
  | .stitchReadTimeout ch id seam => Sys2Proof.Machine.execStitchReadTimeout ch id seam s
  | .refreshDue ch bank => Sys2Proof.Machine.execRefreshDue ch bank s
  | .selfRefreshEntry ch => Sys2Proof.Machine.execSelfRefreshEntry ch s
  | .selfRefreshExit ch => Sys2Proof.Machine.execSelfRefreshExit ch s
  | .channelTrainingDone ch failed => Sys2Proof.Machine.execChannelTrainingDone ch failed s
  | .trainingHoldTimeout u => Sys2Proof.Machine.execTrainingHoldTimeout u s
  | .stackTrainingDone st lanes => Sys2Proof.Machine.execStackTrainingDone st lanes s
  | .marginingPass u m => Sys2Proof.Machine.execMarginingPass u m s
  | .rankRetrainDone u m => Sys2Proof.Machine.execRankRetrainDone u m s
  | .patrolSeamCheck ce ue => Sys2Proof.Machine.execPatrolSeamCheck ce ue s
  | .patrolFloorVisit seam ce ue => Sys2Proof.Machine.execPatrolFloorVisit seam ce ue s
  | .rowRepair ch z rank bank row spare => Sys2Proof.Machine.execRowRepair ch z rank bank row spare s
  | .rankRetire ch z rank => Sys2Proof.Machine.execRankRetire ch z rank s
  | .rebuildUnitDone b ue => Sys2Proof.Machine.execRebuildUnitDone b s ue
  | .coverageRefresh b seg ue => Sys2Proof.Machine.execCoverageRefresh b seg s ue
  | .evacuate p ch z => Sys2Proof.Machine.execEvacuate p ch z s
  | .fenceForService p ch z => Sys2Proof.Machine.execFenceForService p ch z s
  | .slotReturn p ch z => Sys2Proof.Machine.execSlotReturn p ch z s
  | .cancelEvacuation p ch z => Sys2Proof.Machine.execCancelEvacuation p ch z s
  | .stackTempReading st t => Sys2Proof.Machine.execStackTempReading st t s
  | .faultReport src inst info => Sys2Proof.Machine.execFaultReport src inst info s
  | .hostDecisionTimeout src inst => Sys2Proof.Machine.execHostDecisionTimeout src inst s
  | .autoReturnTimer dom => Sys2Proof.Machine.execAutoReturnTimer dom s
  | .firstErrorClear p => Sys2Proof.Machine.execFirstErrorClear p s
  | .sourcePendClear p k ovf => Sys2Proof.Machine.execSourcePendClear p k ovf s
  | .forceReport p src inst => Sys2Proof.Machine.execForceReport p src inst s
  | .armInjection p tgt inst bit => Sys2Proof.Machine.execArmInjection p tgt inst bit s
  | .sramScrubVisit dom array blk bad act => Sys2Proof.Machine.execSramScrubVisit dom array blk bad act s
  | .latencyToleranceWrite p h v => Sys2Proof.Machine.execLatencyToleranceWrite p h v s
  | .domainPowerDown d => Sys2Proof.Machine.execDomainPowerDown d s
  | .domainPowerUp d => Sys2Proof.Machine.execDomainPowerUp d s
  | .wake src inst => Sys2Proof.Machine.execWake src inst s
  | .regulatorAck rail => Sys2Proof.Machine.execRegulatorAck rail s
  | .voltageAckTimeout rail repeatAck inWindow => Sys2Proof.Machine.execVoltageAckTimeout rail repeatAck inWindow s
  | .vcoreTrim mv => Sys2Proof.Machine.execVcoreTrim mv s
  | .feedPresent f mv => Sys2Proof.Machine.execFeedPresent f mv s
  | .feedAbsent f => Sys2Proof.Machine.execFeedAbsent f s
  | .pgWindowEnd j => Sys2Proof.Machine.execPgWindowEnd j s
  | .currentLimit j => Sys2Proof.Machine.execCurrentLimit j s
  | .faultTimerClear j => Sys2Proof.Machine.execFaultTimerClear j s
  | .faultTimerExpiry j => Sys2Proof.Machine.execFaultTimerExpiry j s
  | .fastTrip j => Sys2Proof.Machine.execFastTrip j s
  | .overVoltageOpen f mv => Sys2Proof.Machine.execOverVoltageOpen f mv s
  | .overVoltageReclose f mv => Sys2Proof.Machine.execOverVoltageReclose f mv s
  | .retryTimer j => Sys2Proof.Machine.execRetryTimer j s
  | .bandFall mv => Sys2Proof.Machine.execBandFall mv s
  | .bandRise mv => Sys2Proof.Machine.execBandRise mv s
  | .powerCapUpdate vin => Sys2Proof.Machine.execPowerCapUpdate vin s
  | .throttleRaise pin => Sys2Proof.Machine.execThrottleRaise pin s
  | .throttleLower pin => Sys2Proof.Machine.execThrottleLower pin s
  | .busLowThrottle mv => Sys2Proof.Machine.execBusLowThrottle mv s
  | .phaseFault ph => Sys2Proof.Machine.execPhaseFault ph s
  | .powerFailWarning vin => Sys2Proof.Machine.execPowerFailWarning vin s
  | .inputReturn f => Sys2Proof.Machine.execInputReturn f s
  | .measurementSample j mv cur => Sys2Proof.Machine.execMeasurementSample j mv cur s
  | .measurementSelect p v => Sys2Proof.Machine.execMeasurementSelect p v s
  | .supplyPowerOff p j => Sys2Proof.Machine.execSupplyPowerOff p j s
  | .supplyPowerOn p j => Sys2Proof.Machine.execSupplyPowerOn p j s
  | .clearLatchOff p j => Sys2Proof.Machine.execClearLatchOff p j s
  | .ejectorLatchOpen k => Sys2Proof.Machine.execEjectorLatchOpen k s
  | .ejectorLatchClose k fitted => Sys2Proof.Machine.execEjectorLatchClose k fitted s
  | .dischargeComplete k => Sys2Proof.Machine.execDischargeComplete k s
  | .dischargeTimeout k => Sys2Proof.Machine.execDischargeTimeout k s
  | .referenceLost r => Sys2Proof.Machine.execReferenceLost r s
  | .referenceGood r => Sys2Proof.Machine.execReferenceGood r s
  | .clockMonitorFail d => Sys2Proof.Machine.execClockMonitorFail d s
  | .keepCalCount cycles => Sys2Proof.Machine.execKeepCalCount cycles s
  | .setTimestamp via t => Sys2Proof.Machine.execSetTimestamp via t s
  | .ptmRequest h => Sys2Proof.Machine.execPtmRequest h s
  | .powerOn bootSrc clkMode addr => Sys2Proof.Machine.execPowerOn bootSrc clkMode addr s
  | .mrstN e bootSrc clkMode => Sys2Proof.Machine.execMrstN e bootSrc clkMode s
  | .perst p e => Sys2Proof.Machine.execPerst p e s
  | .hotReset h => Sys2Proof.Machine.execHotReset h s
  | .flr ld => Sys2Proof.Machine.execFlr ld s
  | .cxlReset ld => Sys2Proof.Machine.execCxlReset ld s
  | .rstCmdLevel3 p dom => Sys2Proof.Machine.execRstCmdLevel3 p dom s
  | .rstCmdLevel4 p => Sys2Proof.Machine.execRstCmdLevel4 p s
  | .rstCmdLevel5 p => Sys2Proof.Machine.execRstCmdLevel5 p s
  | .blockIdleReached dom us => Sys2Proof.Machine.execBlockIdleReached dom us s
  | .idleTimeout dom => Sys2Proof.Machine.execIdleTimeout dom s
  | .clockReleaseTimeout dom => Sys2Proof.Machine.execClockReleaseTimeout dom s
  | .selfTestDone dom pass => Sys2Proof.Machine.execSelfTestDone dom pass s
  | .fuseLoadDone bad => Sys2Proof.Machine.execFuseLoadDone bad s
  | .headReady h => Sys2Proof.Machine.execHeadReady h s
  | .statusResponderRead cmd => Sys2Proof.Machine.execStatusResponderRead cmd s
  | .cablePresenceChange c present => Sys2Proof.Machine.execCablePresenceChange c present s
  | .inletLimitUpdate t => Sys2Proof.Machine.execInletLimitUpdate t s
  | .pmuEvent o => Sys2Proof.Machine.execPmuEvent o s
  | .pmuWindowRestart p fix v => Sys2Proof.Machine.execPmuWindowRestart p fix v s
  | .pmuClearAll p v => Sys2Proof.Machine.execPmuClearAll p v s
  | .getLayoutInfo via => Sys2Proof.Machine.execGetLayoutInfo via s
  | .transferLayout via a => Sys2Proof.Machine.execTransferLayout via a s
  | .selectLayoutSlot via slot => Sys2Proof.Machine.execSelectLayoutSlot via slot s
  | .amendLayout via img => Sys2Proof.Machine.execAmendLayout via img s
  | .setFunctionMode via f host => Sys2Proof.Machine.execSetFunctionMode via f host s
  | .functionModeSwitch f => Sys2Proof.Machine.execFunctionModeSwitch f s
  | .raiseLayoutMinimumVersion via => Sys2Proof.Machine.execRaiseLayoutMinimumVersion via s
  | .getFaultLog via first n => Sys2Proof.Machine.execGetFaultLog via first n s
  | .clearFault via srcs hist => Sys2Proof.Machine.execClearFault via srcs hist s
  | .applyReaction via src inst code => Sys2Proof.Machine.execApplyReaction via src inst code s
  | .injectFault via j => Sys2Proof.Machine.execInjectFault via j s
  | .dimmService via cmd ch z => Sys2Proof.Machine.execDimmService via cmd ch z s
  | .slotPower via cmd j => Sys2Proof.Machine.execSlotPower via cmd j s
  | .tierPages via ld dpa len promote => Sys2Proof.Machine.execTierPages via ld dpa len promote s
  | .nameGcVictims via segs => Sys2Proof.Machine.execNameGcVictims via segs s
  | .patrolRange via first last => Sys2Proof.Machine.execPatrolRange via first last s
  | .getTrainingResults via u => Sys2Proof.Machine.execGetTrainingResults via u s
  | .commitTrainingSettings via u settings pass => Sys2Proof.Machine.execCommitTrainingSettings via u settings pass s
  | .setRebuildRate via mibs => Sys2Proof.Machine.execSetRebuildRate via mibs s
  | .blockReset via dom => Sys2Proof.Machine.execBlockReset via dom s
  | .warmReset via => Sys2Proof.Machine.execWarmReset via s
  | .coldReset via => Sys2Proof.Machine.execColdReset via s
  | .injectRootKey via ld rsvd key check => Sys2Proof.Machine.execInjectRootKey via ld rsvd key check s
  | .setLifeCycleState via target auth => Sys2Proof.Machine.execSetLifeCycleState via target auth s
  | .secureErase via => Sys2Proof.Machine.execSecureErase via s
  | .sanitize via => Sys2Proof.Machine.execSanitize via s
  | .getFwInfo via => Sys2Proof.Machine.execGetFwInfo via s
  | .transferFw via a => Sys2Proof.Machine.execTransferFw via a s
  | .activateFw via slot online => Sys2Proof.Machine.execActivateFw via slot online s
  | .fwActivationTimeout failed => Sys2Proof.Machine.execFwActivationTimeout failed s
  | .pldmRequest r => Sys2Proof.Machine.execPldmRequest r s
  | .newCapacityRequest ld n => Sys2Proof.Machine.execNewCapacityRequest ld n s
  | .feedReverseTurnOff f mv => Sys2Proof.Machine.execFeedReverseTurnOff f mv s
  | .switchRampDone j => Sys2Proof.Machine.execSwitchRampDone j s
  | .retryAttemptTimeout j => Sys2Proof.Machine.execRetryAttemptTimeout j s
  | .pwrgdDeasserted bus => Sys2Proof.Machine.execPwrgdDeasserted bus s
  | .dccColumnCommand u busy ecc => Sys2Proof.Machine.execDccColumnCommand u busy ecc s
  | .openRowIdleClose u bank => Sys2Proof.Machine.execOpenRowIdleClose u bank s
  | .stackPatrolVisit st err => Sys2Proof.Machine.execStackPatrolVisit st err s
  | .firmwareBootDone ok => Sys2Proof.Machine.execFirmwareBootDone ok s
  | .recoveryFirmwareImage img => Sys2Proof.Machine.execRecoveryFirmwareImage img s
  | .ideKmKSetGo h st => Sys2Proof.Machine.execIdeKmKSetGo h st s
  | .heatEpoch errs => Sys2Proof.Machine.execHeatEpoch s errs
  | .journalSeamDrain => Sys2Proof.Machine.execJournalSeamDrain s
  | .gcStart => Sys2Proof.Machine.execGcStart s
  | .gcHostFallback => Sys2Proof.Machine.execGcHostFallback s
  | .ratioRecompute => Sys2Proof.Machine.execRatioRecompute s
  | .distressStageEntry => Sys2Proof.Machine.execDistressStageEntry s
  | .tackBorrow => Sys2Proof.Machine.execTackBorrow s
  | .tackReturn => Sys2Proof.Machine.execTackReturn s
  | .distressDeadline => Sys2Proof.Machine.execDistressDeadline s
  | .extentFreeze => Sys2Proof.Machine.execExtentFreeze s
  | .trngHealthFailure => Sys2Proof.Machine.execTrngHealthFailure s
  | .overwriteDone failed => Sys2Proof.Machine.execOverwriteDone s failed
  | .admissionRerun => Sys2Proof.Machine.execAdmissionRerun s
  | .cinchRestore => Sys2Proof.Machine.execCinchRestore s
  | .excessWindow => Sys2Proof.Machine.execExcessWindow s
  | .routeGuardExpiry => Sys2Proof.Machine.execRouteGuardExpiry s
  | .firstReactionDone => Sys2Proof.Machine.execFirstReactionDone s
  | .dozeEntry => Sys2Proof.Machine.execDozeEntry s
  | .dozeExit => Sys2Proof.Machine.execDozeExit s
  | .keepEntry => Sys2Proof.Machine.execKeepEntry s
  | .keepReleasesDone => Sys2Proof.Machine.execKeepReleasesDone s
  | .keepExit => Sys2Proof.Machine.execKeepExit s
  | .maintenanceBurst => Sys2Proof.Machine.execMaintenanceBurst s
  | .tripRecordWrite => Sys2Proof.Machine.execTripRecordWrite s
  | .pllReacquired => Sys2Proof.Machine.execPllReacquired s
  | .clockFailback => Sys2Proof.Machine.execClockFailback s
  | .keepClockFail => Sys2Proof.Machine.execKeepClockFail s
  | .fuseLoadHold => Sys2Proof.Machine.execFuseLoadHold s
  | .layoutLoadAttempt => Sys2Proof.Machine.execLayoutLoadAttempt s
  | .nvPulseEnd => Sys2Proof.Machine.execNvPulseEnd s
  | .ctmInit => Sys2Proof.Machine.execCtmInit s
  | .tp7Overtemp => Sys2Proof.Machine.execTp7Overtemp s
  | .pmuWindowBoundary => Sys2Proof.Machine.execPmuWindowBoundary s
  | .fwActivationHandover => Sys2Proof.Machine.execFwActivationHandover s
  | .trngHealthTestPass => Sys2Proof.Machine.execTrngHealthTestPass s
  | .timeSlewDone => Sys2Proof.Machine.execTimeSlewDone s

end Sys2Proof.Machine
end

