-- ==== Sys2Proof/Machine/Step.lean ====
section
/-! DEFINITION. One step of the block: the command at the front of the queue, or a nanosecond of idle time. -/
namespace Sys2Proof.Machine

open Sys2Proof

/-- The next step. The command at the front of the queue acts on the machine with the queue's rest. On an empty queue nothing happens but the
passing of one nanosecond, which TIME_NS counts (R422, log entry 1). -/
def step (s : State) : Host.Outcome State Fault Refusal :=
  match s.pending with
  | [] => .next (s.advance 1)
  | c :: q => exec c { s with pending := q }

/-- `s` with the command that a table word spells at the front of its queue; no row of the table has bits, so no word spells one. -/
def State.withFetchWord (s : State) (nbits w : Nat) : State :=
  match Sys2Proof.decodeTableWord nbits w with
  | some c => { s with pending := c :: s.pending }
  | none => s

end Sys2Proof.Machine
end

