-- ==== Sys2Proof/Safety.lean ====
section
/-! DEFINITION. What counts as safe, in the terms that statements use: the canonical form of the addressed stores, what two states may differ in, and a
command that completes. -/
namespace Sys2Proof.Machine

open Sys2Proof

/-- The addressed stores in canonical form: the registers of BAR2, the lines of the stack frames, the stitches of the DIMMs. -/
def Memory.wf (s : State) : Bool :=
  SMap.wf Reg.resetOf s.regs && SMap.wf (fun _ => (0 : Line)) s.hot.lines && SMap.wf (fun _ => (0 : Stitch)) s.cold.stitches

/-- What line `l` of stack frame `f`, and what the stitch of seam `seam` on channel `ch`, hold. -/
def State.stackLine (s : State) (f l : Nat) : Line := SMap.get 0 s.hot.lines (64 * f + l)
def State.dimmStitch (s : State) (seam ch : Nat) : Stitch := SMap.get 0 s.cold.stitches (16 * seam + ch)

/-- Every line of the stacks and every stitch of the DIMMs reads in `t` as in `s`. -/
def sameMemory (s t : State) : Prop :=
  (∀ f l, t.stackLine f l = s.stackLine f l) ∧ ∀ seam ch, t.dimmStitch seam ch = s.dimmStitch seam ch

/-- Every register of BAR2 but those of `l` stores in `t` what it stores in `s`. -/
def sameRegsBut (l : List Nat) (s t : State) : Prop := ∀ a, a ∉ l → t.reg a = s.reg a

/-- The frame of a command that stores to no memory and writes at most the registers of `l`. -/
def onlyRegs (l : List Nat) (s t : State) : Prop := sameRegsBut l s t ∧ sameMemory s t

/-- The registers that a lapse of time may change: module time, and what is left of a slew. -/
def timeRegs : List Nat := [Reg.TIME_NS_LO, Reg.TIME_NS_HI, Reg.TIME_SLEW_REM]

/-- The queue of commands is as it was. -/
def sameQueue (s t : State) : Prop := t.pending = s.pending

/-- What every step keeps: the canonical form of the stores. -/
def Canonical (s : State) : Prop := Memory.wf s = true

/-- Nothing is left over from an earlier command: no move waits for frames, no transaction that could go on waits, no report waits to be judged, and no lost
pseudo-channel group exposes a page. What follows a command's own effect (`settled`) leaves such a state alone. -/
def calm (s : State) : Bool :=
  s.hot.damaged.isEmpty && s.waitingLines.isEmpty && s.flt.inbox.isEmpty && !(s.flt.exposures.any fun e => e.src == 0x0B)

/-- The module serves data-path requests at once: it is in Active or Trim, no change of the power state is under way, no fault halts the module, and nothing
is left over from an earlier command. -/
def serving (s : State) : Bool :=
  decide (s.fld Reg.PWR_STS_STATE < 2) && s.pwr.move == .none && !s.flt.halt && calm s

/-- Head `h` takes CXL.mem requests of LD `k`: R60's conditions hold, CXL.mem is active, the LD is presented, the stream is not secure and the host has
not signalled Viral. -/
def hostReady (h k : Nat) (s : State) : Bool :=
  serving s && s.takes h && s.on (Reg.HPA_LINK_STS_CXL_MEM h) && s.bitOf (Reg.HPA_LD_ACT_LD_ACTIVE h) k && s.fld (Reg.HPA_IDE_STS_MEM_STATE h) != 2 &&
    !(s.head h).hostViral

/-- The requests that head `h`'s pen holds, oldest first. -/
def State.penReqs (s : State) (h : Nat) : List Req := (s.head h).pen.map PenEntry.req

/-- The plaza takes commands: its firmware runs, no online activation is under way, and its core complex is not retained in Keep. -/
def plazaTakes (s : State) : Bool := !s.fwBusy && s.cond 130 != .retained

/-- A report of source `src` from instance `inst` waits to be judged. -/
def State.reported (s : State) (src inst : Nat) : Bool := s.flt.inbox.any fun r => r.src == src && r.inst == inst

/-- The routes of a crossing or an injection table of both copies are the same in `t` as in `s`. -/
def sameRoutes (s t : State) : Prop := ∀ copy inj node entry, t.routeAt copy inj node entry = s.routeAt copy inj node entry

/-- A descriptor that has begun and has dealt with nothing yet. -/
def Running.atStart (x : Running) : Bool := x == { ring := x.ring, idx := x.idx, eng := x.eng, d := x.d, fetched := true, started := true }

/-- The read, and the write, at DPA `a` of LD `k` by the engine of descriptor `x`, where the home slice serves it at once. -/
def engineReads (x : Running) (k a : Nat) (s : State) : Option ((Line × Bool) × State) :=
  if s.reachable k a then fastRead (s.engineReq x.eng k a 0 .read 0 0 false) s else none
def engineWrites (x : Running) (k a : Nat) (v : Line) (mask : BitVec 64) (s : State) : Option State :=
  if s.reachable k a && !s.isFrozen k a then fastWrite (s.engineReq x.eng k a 0 .write v mask false) s else none

/-- Descriptor `idx` of ring `r` has ended in `t` as `e` says; the other descriptors, the registers and both tiers are as in `s`. -/
def endedAs (r idx : Nat) (e : Ending) (s t : State) : Prop :=
  (t.run r idx).bind Running.ended = some e ∧ (∀ q i, (q, i) ≠ (r, idx) → t.run q i = s.run q i) ∧ t.regs = s.regs ∧ t.hot = s.hot ∧ t.cold = s.cold

/-- A command that neither faults nor is refused. -/
def completes (o : Host.Outcome State Fault Refusal) : Bool :=
  match o with
  | .next _ => true
  | .fault _ => false
  | .refused _ => false

end Sys2Proof.Machine
end

