-- ==== Sys2Proof/WellFormed.lean ====
section
/-! DEFINITION. Which commands are well formed: the operands that the types leave wider than the spec does. -/
namespace Sys2Proof

/-- A BAR2 access lies inside the 16 MiB and is naturally aligned (R16, R489). -/
def accessOk (off : Nat) (size : AccSize) : Bool :=
  let n := match size with
    | .w8 => 1
    | .w16 => 2
    | .w32 => 4
    | .w64 => 8
  decide (off + n ≤ 2 ^ 24) && decide (off % n = 0)

/-- A CXL.mem request names a line of a 52-bit host physical address space. -/
def lineOk (hpa : Nat) : Bool := decide (hpa < 2 ^ 52) && decide (hpa % 64 = 0)

/-- A CXL.mem tag has 16 bits. -/
def tagOk (tag : Nat) : Bool := decide (tag < 2 ^ 16)

/-- The fields of a Request Cinch payload fit their widths (Table 8.3). -/
def cinchOk (r : CinchRequest) : Bool :=
  decide (r.ld < 16) && decide (r.cls < 8) && decide (r.baseGib < 2 ^ 16) && decide (r.lenGib < 2 ^ 16) && decide (r.readMbs < 2 ^ 32) &&
  decide (r.writeMbs < 2 ^ 32) && decide (r.bound < 2 ^ 32) && decide (r.allow < 2 ^ 32)

/-- The fields of a packet header fit their widths (Table 9.3). -/
def packetOk (p : Packet) : Bool :=
  decide (p.lane < 4) && decide (p.svc < 8) && decide (p.tepoch < 256) && decide (p.dst < 128) && decide (p.src < 128) && decide (p.mport < 64) &&
  decide (p.tag < 2 ^ 12) && decide (p.hint < 4) && decide (p.len ≤ 4) && decide (p.opc < 64) && decide (p.dl < 2 ^ 24) && decide (p.bnd < 2 ^ 16)

/-- An SPD names a capacity, and rates by the codes of DCC_POP.RATE (R219). -/
def spdOk (i : SpdInfo) : Bool := decide (0 < i.capGib) && decide (1 ≤ i.ranks) && decide (i.ranks ≤ 4) && i.rates.all fun r => decide (1 ≤ r) && decide (r ≤ 7)

/-- A voltage in mV as the TP7 measures it. -/
def milliOk (mv : Nat) : Bool := decide (mv < 2 ^ 16)

/-- Whether a command is well formed. -/
def Instr.wf (i : Instr) : Bool :=
  match i with
  | .registerWrite _ off size _ => accessOk off size
  | .loHalfRead _ off size => accessOk off size
  | .hiHalfRead _ off => accessOk off .w32
  | .pairHiWrite _ off _ => accessOk off .w32
  | .sleepingRegisterAccess _ off _ => accessOk off .w32
  | .fencedRegisterAccess _ off _ => accessOk off .w32
  | .hostMemRead _ _ hpa _ tag _ => lineOk hpa && tagOk tag
  | .hostMemWrite _ _ hpa _ tag _ _ _ _ => lineOk hpa && tagOk tag
  | .bar4AtomicOp _ x tag _ => decide (x < 2 ^ 30) && tagOk tag
  | .linkTrainingDone _ _ width _ => [1, 2, 4, 8, 16].contains width
  | .addCapacityOffer _ gib _ => decide (gib < 2 ^ 22)
  | .sliceRequest _ ids => decide ids.Nodup
  | .requestCinch _ r => cinchOk r
  | .releaseCinch _ cinchId => decide (cinchId < 2 ^ 32)
  | .confirmCinch _ cinchId _ => decide (cinchId < 2 ^ 32)
  | .packetForward _ _ inject _ => inject.all fun e => packetOk e.pkt
  | .spdReadDone _ _ info => spdOk info
  | .pmicReading _ _ mv ma _ => decide (mv.length = ma.length)
  | .channelTrainingDone _ failed => decide failed.Nodup
  | .stackTrainingDone _ lanes => decide (lanes.length ≤ 8)
  | .faultReport _ _ info => info.all fun v => decide (v < 2 ^ 32)
  | .sramScrubVisit _ _ _ bad _ => decide bad.Nodup
  | .feedPresent _ mv => milliOk mv
  | .overVoltageOpen _ mv => milliOk mv
  | .bandFall mv => milliOk mv
  | .bandRise mv => milliOk mv
  | .powerCapUpdate vin => milliOk vin
  | .powerFailWarning vin => milliOk vin
  | .pmuEvent o => decide (1 ≤ o.block) && decide (o.block ≤ 10) && decide (1 ≤ o.n)
  | .tierPages _ _ dpa len _ => decide (dpa % 4096 = 0) && decide (len % 4096 = 0)
  | .patrolRange _ first last => decide (first ≤ last)
  | .selectorWrite _ _ _ | .penEntryFree _ _ | .penReinject _ _ | .penReadExpiry _ _ | .penWriteExpiry _ _ | .headResponse _ _
  | .surpriseLinkDown _ | .cableMeasurementDone _ _ _ _ | .linkRecovery _ | .rateFallback _ | .retryRate _ | .linkDisable _ | .linkEnable _
  | .viralReceived _ | .ideKeyProg _ _ _ | .ideMacFailure _ _ | .addCapacityResponse _ _ | .releaseDynamicCapacity _ _ | .birspReceived _ _ _ _
  | .snoopTimeout _ _ _ | .ticketForfeit _ _ | .nackRetry _ | .ldTeardown _ | .sparePowerUpDone _ | .spareArrayLoadDone _ | .buddyEntryDrained _
  | .mapEntryReturn _ _ _ _ | .htcLineAccess _ _ | .fillData _ _ | .heldWriteResume _ | .coldWritebackOpen _ _ | .shedFrameRelease _ _
  | .shedFloorRelease _ _ | .pinSet _ | .pinClear _ | .keepFrameMove _ _ _ | .stitcherRead _ | .stitcherAllFencedTimeout _ | .stitchReadDone _
  | .imageAppend _ _ | .seamSealTimeout _ _ | .pageOpCommit _ | .ledgerGroupWrite _ _ | .ledgerRecoveryDone _ | .segmentFree _ | .keyWindowTimeout _
  | .reencSlotStart _ | .reencPageOpen _ | .reencCheckpoint _ | .reencFinalPass _ | .cinchConfirmTimeout _ | .cinchPinnedActive _
  | .packetEject _ _ _ | .requestReissueTimeout _ | .streetSilence _ _ _ | .routeTableWrite _ _ | .routeFlip _ | .routeDrained _
  | .ringEnable _ _ _ | .ringDoorbell _ _ _ | .descriptorFetch _ | .nop _ _ | .copy _ _ | .fill _ _ | .zero _ _ | .crc32c _ _ | .sha256 _ _
  | .rsEnc _ _ | .rsRec _ _ | .compare _ _ | .atomicBatch _ _ | .tierHint _ _ | .descriptorComplete _ | .descriptorWaitTimeout _ | .ringResume _ _
  | .spdReadRetry _ _ _ | .spdSilent _ _ | .dimmTempReading _ _ _ _ | .dccReadRequest _ _ _ | .dccWriteRequest _ _ | .stitchReadTimeout _ _ _
  | .refreshDue _ _ | .selfRefreshEntry _ | .selfRefreshExit _ | .trainingHoldTimeout _ | .marginingPass _ _ | .rankRetrainDone _ _
  | .patrolSeamCheck _ _ | .patrolFloorVisit _ _ _ | .rowRepair _ _ _ _ _ _ | .rankRetire _ _ _ | .rebuildUnitDone _ _ | .coverageRefresh _ _ _
  | .evacuate _ _ _ | .fenceForService _ _ _ | .slotReturn _ _ _ | .cancelEvacuation _ _ _ | .stackTempReading _ _ | .hostDecisionTimeout _ _
  | .autoReturnTimer _ | .firstErrorClear _ | .sourcePendClear _ _ _ | .forceReport _ _ _ | .armInjection _ _ _ _ | .latencyToleranceWrite _ _ _
  | .domainPowerDown _ | .domainPowerUp _ | .wake _ _ | .regulatorAck _ | .voltageAckTimeout _ _ _ | .vcoreTrim _ | .feedAbsent _ | .pgWindowEnd _
  | .currentLimit _ | .faultTimerClear _ | .faultTimerExpiry _ | .fastTrip _ | .overVoltageReclose _ _ | .retryTimer _ | .throttleRaise _
  | .throttleLower _ | .busLowThrottle _ | .phaseFault _ | .inputReturn _ | .measurementSample _ _ _ | .measurementSelect _ _ | .supplyPowerOff _ _
  | .supplyPowerOn _ _ | .clearLatchOff _ _ | .ejectorLatchOpen _ | .ejectorLatchClose _ _ | .dischargeComplete _ | .dischargeTimeout _
  | .referenceLost _ | .referenceGood _ | .clockMonitorFail _ | .keepCalCount _ | .setTimestamp _ _ | .ptmRequest _ | .powerOn _ _ _ | .mrstN _ _ _
  | .perst _ _ | .hotReset _ | .flr _ | .cxlReset _ | .rstCmdLevel3 _ _ | .rstCmdLevel4 _ | .rstCmdLevel5 _ | .blockIdleReached _ _
  | .idleTimeout _ | .clockReleaseTimeout _ | .selfTestDone _ _ | .fuseLoadDone _ | .headReady _ | .statusResponderRead _
  | .cablePresenceChange _ _ | .inletLimitUpdate _ | .pmuWindowRestart _ _ _ | .pmuClearAll _ _ | .getLayoutInfo _ | .transferLayout _ _
  | .selectLayoutSlot _ _ | .amendLayout _ _ | .setFunctionMode _ _ _ | .functionModeSwitch _ | .raiseLayoutMinimumVersion _ | .getFaultLog _ _ _
  | .clearFault _ _ _ | .applyReaction _ _ _ _ | .injectFault _ _ | .dimmService _ _ _ _ | .slotPower _ _ _ | .nameGcVictims _ _
  | .getTrainingResults _ _ | .commitTrainingSettings _ _ _ _ | .setRebuildRate _ _ | .blockReset _ _ | .warmReset _ | .coldReset _
  | .injectRootKey _ _ _ _ _ | .setLifeCycleState _ _ _ | .secureErase _ | .sanitize _ | .getFwInfo _ | .transferFw _ _ | .activateFw _ _ _
  | .fwActivationTimeout _ | .pldmRequest _ | .newCapacityRequest _ _ | .feedReverseTurnOff _ _ | .switchRampDone _ | .retryAttemptTimeout _
  | .pwrgdDeasserted _ | .dccColumnCommand _ _ _ | .openRowIdleClose _ _ | .stackPatrolVisit _ _ | .firmwareBootDone _ | .recoveryFirmwareImage _
  | .ideKmKSetGo _ _ | .heatEpoch _ | .journalSeamDrain | .gcStart | .gcHostFallback | .ratioRecompute | .distressStageEntry | .tackBorrow
  | .tackReturn | .distressDeadline | .extentFreeze | .trngHealthFailure | .overwriteDone _ | .admissionRerun | .cinchRestore | .excessWindow
  | .routeGuardExpiry | .firstReactionDone | .dozeEntry | .dozeExit | .keepEntry | .keepReleasesDone | .keepExit | .maintenanceBurst
  | .tripRecordWrite | .pllReacquired | .clockFailback | .keepClockFail | .fuseLoadHold | .layoutLoadAttempt | .nvPulseEnd | .ctmInit
  | .tp7Overtemp | .pmuWindowBoundary | .fwActivationHandover | .trngHealthTestPass | .timeSlewDone => true

end Sys2Proof
end

