-- ==== Sys2Proof/Certificates/Slice0/Obligations.lean ====
section
/-! DEFINITION. The statements for the provers. Each says what one or several commands do: that the command completes, what it leaves in the state it
answers, and what it leaves alone. `settle` is the fault collector's judgement of the reports that a command made; it changes nothing where none waits. -/

open Sys2Proof Sys2Proof.Machine

/-- The machine's step: with command c at the front of the queue, a step is exec of c on the state with the queue's rest. -/
def Obligations.StepRunsFront : Prop :=
  ∀ (c : Instr) (q : List Instr) (s : State), s.pending = c :: q → step s = exec c { s with pending := q }

/-- The model's choice (log entry 1): on an empty queue a step is one nanosecond, in which module time counts up (where neither an external source
  nor a slew corrects it) and no memory changes. -/
def Obligations.IdleStepCountsTime : Prop :=
  ∀ s : State, s.pending = [] → s.fld Reg.TIME_STATUS_SOURCE ≠ 1 → s.clocks.slewRem = 0 →
    ∃ t, step s = .next t ∧ t.clk = s.clk + 1 ∧ t.time = (s.time + 1) % 2 ^ 64 ∧ t.pending = [] ∧ onlyRegs [Reg.TIME_NS_LO, Reg.TIME_NS_HI] s t

/-- No command faults or is refused in any state, and its effect is on everything but the queue. -/
def Obligations.CommandsComplete : Prop :=
  ∀ (c : Instr) (s : State), ∃ t, exec c s = .next t ∧ sameQueue s t

/-- The invariant of EveryStepKeepsCanonical holds at reset: the stores of registers, stack lines and DIMM stitches list rising addresses and nothing
  that an unlisted address reads as (log entry 6). -/
def Obligations.ResetHoldsCanonical : Prop :=
  Canonical State.reset

/-- From every state whose stores of registers, stack lines and DIMM stitches are in canonical form, whatever commands wait, a step gives such a
  state: states that store the same contents are equal data. -/
def Obligations.EveryStepKeepsCanonical : Prop :=
  ∀ s t : State, Canonical s → step s = .next t → Canonical t

/-- R494: IDG_SCRATCH and IDG_STICKY take every write, from every path, and the other IDG registers none. -/
def Obligations.ScratchTakesEveryPath : Prop :=
  (∀ (p : Path) (v : BitVec 64) (a : Nat) (s : State), calm s = true → a = Reg.IDG_SCRATCH ∨ a = Reg.IDG_STICKY → ∃ t, exec (.registerWrite p a .w32
    v) s = .next t ∧ t.reg a = v.setWidth 32 ∧ t.out = .regDone p a :: s.out ∧ onlyRegs [a] s t) ∧
  (∀ (p : Path) (v : BitVec 64) (a : Nat) (s : State), calm s = true → a ∈ [Reg.IDG_ID, Reg.IDG_PART, Reg.IDG_SERIAL_LO, Reg.IDG_SERIAL_HI,
    Reg.IDG_MAP, Reg.IDG_PATH] → ∃ t, exec (.registerWrite p a .w32 v) s = .next t ∧ t.out = .regDone p a :: s.out ∧ onlyRegs [] s t) ∧
  ∀ (p : Path) (v : BitVec 64) (s : State), calm s = true → ∃ t, exec (.registerWrite p Reg.IDG_SCRATCH .w64 v) s = .next t ∧ t.reg Reg.IDG_SCRATCH =
    v.setWidth 32 ∧ t.reg Reg.IDG_STICKY = v.extractLsb' 32 32 ∧ onlyRegs [Reg.IDG_SCRATCH, Reg.IDG_STICKY] s t

/-- R16, third sentence and Table 18.3: a write narrower than 32 bits is dropped and reported as ACCESS_FAULT, and so is a write through a head to
  RST_CMD, CLK_CFG, SUP_CFG, SUP_CMD, FLT_CFG or FLT_INJ; R15: a write to an unimplemented offset of the keep island changes nothing. R377: an access
  to a register of a block that does not answer (`regBlocked`), such as a fenced engine's, completes at once: a read returns all ones, a write is
  dropped, and the access is reported as FENCED_ACCESS with the domain; R375: in Trim an access to an engine whose domain is gated restores that
  domain, and the read completes. -/
def Obligations.AccessesDroppedOrWoken : Prop :=
  (∀ (p : Path) (off : Nat) (v : BitVec 64) (z : AccSize) (s : State), z = .w8 ∨ z = .w16 → exec (.registerWrite p off z v) s = .next (settled
    ((s.report 0x1D 0).emit (.regDone p off)))) ∧
  (∀ (h : Fin 4) (k : Fin 16) (v : BitVec 64) (a : Nat) (s : State), a ∈ [Reg.RST_CMD, Reg.CLK_CFG, Reg.SUP_CFG, Reg.SUP_CMD, Reg.FLT_CFG,
    Reg.FLT_INJ] → exec (.registerWrite (.head h k) a .w32 v) s = .next (settled ((s.report 0x1D 0).emit (.regDone (.head h k) a)))) ∧
  (∀ (p : Path) (v : BitVec 64) (a : Nat) (s : State), calm s = true → a % 4 = 0 → a < 0x10000 → 0x20 ≤ a → ∃ t, exec (.registerWrite p a .w32 v) s =
    .next t ∧ t.out = .regDone p a :: s.out ∧ onlyRegs [] s t) ∧
  (∀ (p : Path) (a d : Nat) (s : State), a % 4 = 0 → s.regBlocked a = some d → exec (.fencedRegisterAccess p a none) s = .next (settled ((s.report
    0x1F d).emit (.regRead p a 0xFFFFFFFF)))) ∧
  (∀ (p : Path) (a d : Nat) (v : BitVec 32) (s : State), a % 4 = 0 → s.regBlocked a = some d → exec (.fencedRegisterAccess p a (some v)) s = .next
    (settled ((s.report 0x1F d).emit (.regDone p a)))) ∧
  (∀ (p : Path) (n : Fin 8) (s : State), s.domFenced (122 + n) = true → exec (.fencedRegisterAccess p (Reg.NME_CFG n) none) s = .next (settled
    ((s.report 0x1F (122 + n)).emit (.regRead p (Reg.NME_CFG n) 0xFFFFFFFF)))) ∧
  (∀ (p : Path) (n : Fin 8) (v : BitVec 32) (s : State), s.domFenced (122 + n) = true → exec (.fencedRegisterAccess p (Reg.NME_CFG n) (some v)) s =
    .next (settled ((s.report 0x1F (122 + n)).emit (.regDone p (Reg.NME_CFG n))))) ∧
  ∀ (p : Path) (n : Fin 8) (s : State), calm s = true → s.domFenced (122 + n) = false → s.cond (122 + n) = .retained → s.on Reg.PWR_STS_FORCED =
    false → s.fld Reg.RST_STS_LEVEL = 0 → s.fld Reg.PWR_STS_STATE < 2 → s.pwr.move = .none → s.pwr.downs = [] → ∃ t, exec (.sleepingRegisterAccess p
    (Reg.NME_CFG n) none) s = .next t ∧ t.cond (122 + n) = .on ∧ t.out = .regRead p (Reg.NME_CFG n) (s.reg (Reg.NME_CFG n)).toNat :: s.out ∧ onlyRegs
    [Reg.PWR_LAST_WAKE, Reg.PWR_GATE_CNT] s t

/-- R17: a read of _LO returns it and latches the high half of its path; the next read of _HI on that path returns the latched half, whatever has
  become of the register, and after it the current half. `a` is an _LO register whose block answers. R17, last sentence, and R479: a write to
  PMU_CTR_LO from the plaza is held and changes no register; the 48-bit value takes effect when PMU_CTR_HI is written. -/
def Obligations.PairsReadAndWritten : Prop :=
  (∀ (p : Path) (a : Nat) (s : State), calm s = true → isLo a = true → s.regBlocked a = none → wakeBlockAt a s = s → ∃ t, exec (.loHalfRead p a .w32)
    s = .next t ∧ t.out = .regRead p a (s.view p a).toNat :: s.out ∧ SMap.get none (t.path (Path.key p)).latch a = some (s.view p (a + 4)) ∧ onlyRegs
    [] s t ∧ (∀ k, k ≠ Path.key p → t.path k = s.path k)) ∧
  (∀ (p : Path) (a : Nat) (v : Word) (s : State), calm s = true → isLo a = true → s.regBlocked (a + 4) = none → wakeBlockAt (a + 4) s = s → SMap.get
    none (s.path (Path.key p)).latch a = some v → ∃ t, exec (.hiHalfRead p (a + 4)) s = .next t ∧ t.out = .regRead p (a + 4) v.toNat :: s.out ∧
    SMap.get none (t.path (Path.key p)).latch a = none ∧ onlyRegs [] s t) ∧
  (∀ (p : Path) (a : Nat) (s : State), calm s = true → isLo a = true → s.regBlocked (a + 4) = none → wakeBlockAt (a + 4) s = s → SMap.get none
    (s.path (Path.key p)).latch a = none → ∃ t, exec (.hiHalfRead p (a + 4)) s = .next t ∧ t.out = .regRead p (a + 4) (s.view p (a + 4)).toNat ::
    s.out ∧ onlyRegs [] s t) ∧
  (∀ (i : Fin 96) (v : BitVec 64) (s : State), calm s = true → ∃ t, exec (.registerWrite .plaza (Reg.PMU_CTR_LO i) .w32 v) s = .next t ∧ SMap.get
    none (t.path 4).held (Reg.PMU_CTR_LO i) = some (v.setWidth 32) ∧ onlyRegs [] s t) ∧
  ∀ (i : Fin 96) (v : BitVec 32) (x : Word) (s : State), calm s = true → SMap.get none (s.path 4).held (Reg.PMU_CTR_LO i) = some x → ∃ t, exec
    (.pairHiWrite .plaza (Reg.PMU_CTR_HI i) v) s = .next t ∧ t.ctr i % 2 ^ 48 = x.toNat + 2 ^ 32 * (v.toNat % 2 ^ 16) ∧ onlyRegs [Reg.PMU_CTR_LO i,
    Reg.PMU_CTR_HI i] s t

/-- R18: a write sets the selector of the path that carries it and no other path's, and a read of the selector through a path returns that path's
  own. -/
def Obligations.SelectorPerPath : Prop :=
  (∀ (p : Path) (v : BitVec 32) (s : State), calm s = true → ∃ t, exec (.selectorWrite p .qosCsel v) s = .next t ∧ (t.path (Path.key p)).qosCsel =
    v.toNat % 64 ∧ (∀ k, k ≠ Path.key p → t.path k = s.path k) ∧ onlyRegs [] s t) ∧
  (∀ (p : Path) (v : BitVec 32) (s : State), calm s = true → s.domFenced 134 = false → ∃ t, exec (.selectorWrite p .cryEpochSel v) s = .next t ∧
    (t.path (Path.key p)).cryEpochSel = v.toNat % 65536 ∧ (∀ k, k ≠ Path.key p → t.path k = s.path k) ∧ onlyRegs [] s t) ∧
  (∀ (p : Path) (v : BitVec 32) (s : State), calm s = true → s.domFenced 142 = false → ∃ t, exec (.selectorWrite p .nocMpSel v) s = .next t ∧ (t.path
    (Path.key p)).nocMpSel = v.toNat % 64 ∧ (∀ k, k ≠ Path.key p → t.path k = s.path k) ∧ onlyRegs [] s t) ∧
  (∀ (p : Path) (s : State), calm s = true → ∃ t, exec (.loHalfRead p Reg.QOS_CSEL .w32) s = .next t ∧ t.out = .regRead p Reg.QOS_CSEL ((s.path
    (Path.key p)).qosCsel % 2 ^ 32) :: s.out) ∧
  (∀ (p : Path) (s : State), calm s = true → s.domFenced 134 = false → ∃ t, exec (.loHalfRead p Reg.CRY_EPOCH_SEL .w32) s = .next t ∧ t.out =
    .regRead p Reg.CRY_EPOCH_SEL ((s.path (Path.key p)).cryEpochSel % 2 ^ 32) :: s.out) ∧
  ∀ (p : Path) (s : State), calm s = true → s.domFenced 142 = false → ∃ t, exec (.loHalfRead p Reg.NOC_MP_SEL .w32) s = .next t ∧ t.out = .regRead p
    Reg.NOC_MP_SEL ((s.path (Path.key p)).nocMpSel % 2 ^ 32) :: s.out

/-- R38, R44, R60, R61: a read or a write that a ready head takes for a DPA within active capacity enters the head's pen as its newest entry, with
  the global page number and line of that DPA; no memory changes yet, and of the registers only the counts of R38: the flits of the request that FEC
  corrected and those that were replayed. -/
def Obligations.HostAccessEntersThePen : Prop :=
  (∀ (h : Fin 4) (ld : Fin 16) (hpa a : Nat) (m : MetaValue) (tag : Nat) (arr : Arrival) (s : State), hostReady h ld s = true → s.dpaOf ld hpa = some
    a → s.reachable ld a = true → ∃ t, exec (.hostMemRead h ld hpa m tag arr) s = .next t ∧ onlyRegs [Reg.HPA_FEC_CNT h, Reg.HPA_REPLAY_CNT h] s t ∧
    t.fld (Reg.HPA_FEC_CNT_COUNT h) = satAdd (Reg.HPA_FEC_CNT_COUNT h).w (s.fld (Reg.HPA_FEC_CNT_COUNT h)) arr.fec ∧ t.fld (Reg.HPA_REPLAY_CNT_COUNT
    h) = satAdd (Reg.HPA_REPLAY_CNT_COUNT h).w (s.fld (Reg.HPA_REPLAY_CNT_COUNT h)) arr.replays ∧ (∃ r, t.penReqs h = s.penReqs h ++ [r] ∧ r.kind =
    .read ∧ r.gpn = s.gpnOf ld a ∧ r.line = a % 4096 / 64 ∧ r.tag = tag ∧ r.agent = .host h ld ∧ r.epoch = s.headEpoch h)) ∧
  ∀ (h : Fin 4) (ld : Fin 16) (hpa a : Nat) (m : MetaValue) (tag : Nat) (data : BitVec 512) (mask : BitVec 64) (poison : Bool) (arr : Arrival) (s :
    State), hostReady h ld s = true → s.dpaOf ld hpa = some a → s.reachable ld a = true → s.isFrozen ld a = false → ∃ t, exec (.hostMemWrite h ld hpa
    m tag data mask poison arr) s = .next t ∧ onlyRegs [Reg.HPA_FEC_CNT h, Reg.HPA_REPLAY_CNT h] s t ∧ t.fld (Reg.HPA_FEC_CNT_COUNT h) = satAdd
    (Reg.HPA_FEC_CNT_COUNT h).w (s.fld (Reg.HPA_FEC_CNT_COUNT h)) arr.fec ∧ t.fld (Reg.HPA_REPLAY_CNT_COUNT h) = satAdd (Reg.HPA_REPLAY_CNT_COUNT
    h).w (s.fld (Reg.HPA_REPLAY_CNT_COUNT h)) arr.replays ∧ (∃ r, t.penReqs h = s.penReqs h ++ [r] ∧ r.kind = .write ∧ r.gpn = s.gpnOf ld a ∧ r.line
    = a % 4096 / 64 ∧ r.tag = tag ∧ r.data = data ∧ r.mask = mask ∧ r.poison = poison ∧ r.agent = .host h ld)

/-- R45: a read outside the LD's capacity, or to memory that is not active, returns a poisoned line; a write there is dropped; the head reports
  source 0x1E. -/
def Obligations.AccessOutsideCapacity : Prop :=
  (∀ (h : Fin 4) (ld : Fin 16) (hpa : Nat) (m : MetaValue) (tag : Nat) (arr : Arrival) (s : State), hostReady h ld s = true → (s.dpaOf ld hpa).any
    (s.reachable ld) = false → ∃ u, exec (.hostMemRead h ld hpa m tag arr) s = .next (settled u) ∧ u.out = .memData h tag 0 true (s.devLoad
    (s.hostClass ld (s.dpaOf ld hpa))) :: s.out ∧ u.flight = s.flight ∧ u.penReqs h = s.penReqs h ∧ u.flt.inbox = [{ src := 0x1E, inst := h }] ∧
    onlyRegs [Reg.HPA_FEC_CNT h, Reg.HPA_REPLAY_CNT h] s u) ∧
  ∀ (h : Fin 4) (ld : Fin 16) (hpa a : Nat) (m : MetaValue) (tag : Nat) (data : BitVec 512) (mask : BitVec 64) (poison : Bool) (arr : Arrival) (s :
    State), hostReady h ld s = true → s.dpaOf ld hpa = some a → s.reachable ld a = false → ∃ u, exec (.hostMemWrite h ld hpa m tag data mask poison
    arr) s = .next (settled u) ∧ u.penReqs h = s.penReqs h ∧ u.flight = s.flight ∧ u.flt.inbox = [{ src := 0x1E, inst := h }] ∧ onlyRegs
    [Reg.HPA_FEC_CNT h, Reg.HPA_REPLAY_CNT h] s u

/-- R99: BAR4 accepts FetchAdd and Swap of 32 and 64 bits and CAS of 32, 64 and 128 bits, naturally aligned: where the window is enabled and its LD
  assigned to the head, such an operation within capacity enters the pen. Any other request, and any while EN is 0 or the LD is not assigned to the
  head, ends as an Unsupported Request. -/
def Obligations.Bar4TakesAtomics : Prop :=
  (∀ (h : Fin 4) (x tag : Nat) (op : AtomicKind × Nat × BitVec 128 × BitVec 128) (o : AtomicOp) (s : State), serving s = true → s.takes h = true →
    bar4Op x op = some o → s.on (Reg.HSC_AWIN_EN h) = true → s.bitOf (Reg.HPA_CFG_LD_MASK h) (s.fld (Reg.HSC_AWIN_LD h)) = true → s.reachable (s.fld
    (Reg.HSC_AWIN_LD h)) (s.fld (Reg.HSC_AWIN_DPA_GIB h) * gib + x) = true → s.isFrozen (s.fld (Reg.HSC_AWIN_LD h)) (s.fld (Reg.HSC_AWIN_DPA_GIB h) *
    gib + x) = false → ∃ t, exec (.bar4AtomicOp h x tag (some op)) s = .next t ∧ onlyRegs [] s t ∧ (∃ r, t.penReqs h = s.penReqs h ++ [r] ∧ r.kind =
    .atomic o true ∧ r.gpn = s.gpnOf (s.fld (Reg.HSC_AWIN_LD h)) (s.fld (Reg.HSC_AWIN_DPA_GIB h) * gib + x) ∧ r.tag = tag)) ∧
  (∀ (x n : Nat) (k : AtomicKind) (v c : BitVec 128), ((bar4Op x (k, n, v, c)).isSome = true ↔ (n = 4 ∨ n = 8 ∨ (k = .cas ∧ n = 16)) ∧ x % n = 0 ∧ x
    < gib)) ∧
  (∀ (h : Fin 4) (x tag : Nat) (op : Option (AtomicKind × Nat × BitVec 128 × BitVec 128)) (s : State), s.takes h = true → op.bind (bar4Op x) = none →
    exec (.bar4AtomicOp h x tag op) s = .next (s.emit (.unsupported h tag))) ∧
  ∀ (h : Fin 4) (x tag : Nat) (op : Option (AtomicKind × Nat × BitVec 128 × BitVec 128)) (s : State), s.takes h = true → (s.on (Reg.HSC_AWIN_EN h) =
    false ∨ s.bitOf (Reg.HPA_CFG_LD_MASK h) (s.fld (Reg.HSC_AWIN_LD h)) = false) → exec (.bar4AtomicOp h x tag op) s = .next (s.emit (.unsupported h
    tag))

/-- R60: when the acceptance of a pen entry's request reaches its head, the entry is freed and a credit goes back to the host. R62: a request that
  was NACKed is injected again, not before the end of its back-off; R182: a write of it to an extent frozen meanwhile leaves the pen instead,
  completed and counted in CTM_DROP_CNT; a NACK that reaches the head puts its entry in back-off. R68, R55: data of the head's present epoch goes to
  the host with its tag and poison, a write's completion with its tag, each with a DevLoad (Table 2.3); a response of an epoch that the head has
  left, or on an insecure head, is discarded and counted in HPA_STALE_CNT. -/
def Obligations.PenEntriesLeave : Prop :=
  (∀ (h : Fin 4) (id : Nat) (e : PenEntry) (r : Reply) (s1 : State) (s : State), calm s = true → s.penEntry h id = some e → takeReply id (fun r =>
    r.req.ofHead h && r.kind == .accepted) s = some (r, s1) → (∀ k : Fin 16, (s.ld k).releasing = []) → ∃ t, exec (.penEntryFree h id) s = .next t ∧
    t.penReqs h = (s.penReqs h).filter (fun r => r.id != id) ∧ t.out = .credit h :: s.out ∧ onlyRegs [] s t) ∧
  (∀ (h : Fin 4) (id : Nat) (e : PenEntry) (s : State), s.penEntry h id = some e → e.phase = .backoff → s.frozenPage e.req = false → ∃ t, exec
    (.penReinject h id) s = .next t ∧ t.flight = s.flight ++ [e.req] ∧ t.penReqs h = s.penReqs h ∧ s.clk ≤ t.clk ∧ e.req.nackAt + backoff e.req.nacks
    e.req.ticket.isSome ≤ t.clk ∧ sameMemory s t) ∧
  (∀ (h : Fin 4) (id : Nat) (e : PenEntry) (s : State), s.penEntry h id = some e → e.phase = .backoff → e.req.kind = .write → s.frozenPage e.req =
    true → (∀ k : Fin 16, (s.ld k).releasing = []) → ∃ u, exec (.penReinject h id) s = .next (settled u) ∧ u.penReqs h = (s.penReqs h).filter (fun r
    => r.id != id) ∧ (∃ d, u.out = .credit h :: .memDone h e.req.tag d :: s.out) ∧ u.fld Reg.CTM_DROP_CNT_COUNT = satAdd Reg.CTM_DROP_CNT_COUNT.w
    (s.fld Reg.CTM_DROP_CNT_COUNT) 1 ∧ sameMemory s u) ∧
  (∀ (h : Fin 4) (id : Nat) (r : Reply) (s1 : State) (e : PenEntry) (b : Nat) (k : Option Nat) (s : State), takeReply id (fun r => r.req.ofHead h &&
    r.kind != .accepted) s = some (r, s1) → r.kind = .nack b k → s1.penEntry h id = some e → ∃ t, exec (.headResponse h id) s = .next t ∧ onlyRegs []
    s t ∧ (t.penEntry h id).map PenEntry.phase = some .backoff ∧ (t.penReqs h).map Req.id = (s.penReqs h).map Req.id ∧ t.replies = s1.replies) ∧
  (∀ (h : Fin 4) (id : Nat) (r : Reply) (s1 : State) (v : Line) (p : Bool) (s : State), takeReply id (fun r => r.req.ofHead h && r.kind != .accepted)
    s = some (r, s1) → r.kind = .data v p → s1.oldEpoch h r.req.epoch = false → (s1.head h).insecure = false → ∃ t, exec (.headResponse h id) s =
    .next t ∧ t.out = .memData h r.req.tag v p (s1.devLoad r.req.cls) :: s.out ∧ t.replies = s1.replies ∧ sameMemory s t) ∧
  (∀ (h : Fin 4) (id : Nat) (r : Reply) (s1 : State) (s : State), takeReply id (fun r => r.req.ofHead h && r.kind != .accepted) s = some (r, s1) →
    r.kind = .done → s1.oldEpoch h r.req.epoch = false → (s1.head h).insecure = false → ∃ t, exec (.headResponse h id) s = .next t ∧ t.out = .memDone
    h r.req.tag (s1.devLoad r.req.cls) :: s.out ∧ t.replies = s1.replies ∧ sameMemory s t) ∧
  ∀ (h : Fin 4) (id : Nat) (r : Reply) (s1 : State) (v : Line) (p : Bool) (s : State), takeReply id (fun r => r.req.ofHead h && r.kind != .accepted)
    s = some (r, s1) → r.kind = .data v p → s1.oldEpoch h r.req.epoch = true ∨ (s1.head h).insecure = true → exec (.headResponse h id) s = .next
    (s1.count (Reg.HPA_STALE_CNT_COUNT h))

/-- R64: a read that has not been accepted at the pen age limit ends with a poisoned line, its entry is freed with a credit, HPA_PEN_EXP.READ_EXP
  counts it and source 0x17 is reported. R65, first exception: a write stays in the pen, Viral is signalled and shown, WRITE_EXP counts it and source
  0x18 is reported; it is marked, so that it is counted once. Neither comes before the pen age limit, and no other register changes but those of the
  module time. -/
def Obligations.PenAgeLimit : Prop :=
  (∀ (h : Fin 4) (id : Nat) (e : PenEntry) (s : State), s.penEntry h id = some e → e.req.kind = .read → s.acceptedReply id = false → (∀ k : Fin 16,
    (s.ld k).releasing = []) → ∃ u, exec (.penReadExpiry h id) s = .next (settled u) ∧ u.penReqs h = (s.penReqs h).filter (fun r => r.id != id) ∧ (∃
    d, u.out = .credit h :: .memData h e.req.tag 0 true d :: s.out) ∧ u.fld (Reg.HPA_PEN_EXP_READ_EXP h) = satAdd (Reg.HPA_PEN_EXP_READ_EXP h).w
    (s.fld (Reg.HPA_PEN_EXP_READ_EXP h)) 1 ∧ u.flt.inbox = s.flt.inbox ++ [{ src := 0x17, inst := h }] ∧ e.req.t0 + s.penLimit h ≤ u.clk ∧
    (u.replies.all fun r => r.req.id != id) = true ∧ onlyRegs (Reg.HPA_PEN_EXP h :: timeRegs) s u) ∧
  ∀ (h : Fin 4) (id : Nat) (e : PenEntry) (s : State), s.penEntry h id = some e → e.req.kind = .write → e.expired = false → s.acceptedReply id =
    false → ∃ u, exec (.penWriteExpiry h id) s = .next (settled u) ∧ u.penReqs h = s.penReqs h ∧ (u.penEntry h id).map PenEntry.expired = some true ∧
    u.out = .viral h :: s.out ∧ u.on (Reg.HPA_LINK_STS_VIRAL h) = true ∧ u.fld (Reg.HPA_PEN_EXP_WRITE_EXP h) = satAdd (Reg.HPA_PEN_EXP_WRITE_EXP h).w
    (s.fld (Reg.HPA_PEN_EXP_WRITE_EXP h)) 1 ∧ u.flt.inbox = s.flt.inbox ++ [{ src := 0x18, inst := h }] ∧ e.req.t0 + s.penLimit h ≤ u.clk ∧ onlyRegs
    (Reg.HPA_PEN_EXP h :: Reg.HPA_LINK_STS h :: timeRegs) s u

/-- R56, R57, R59, R41: the cable's measurement, an unknown value as 255, is recorded with the rate cap of its loss, and the head goes on to
  training; training with a flit-mode partner, a reference being good, ends in L0 at the highest common rate under the caps and the largest width,
  the LDs of the head presented; a partner with no common rate, or no flit mode, leaves the link in training. LINK_EN written with 1 starts a head
  that is held in Disabled (R68). -/
def Obligations.LinkTrains : Prop :=
  (∀ (h : Fin 4) (loss len : Option (Fin 255)) (iv : Bool) (s : State), s.headLive h = true → (s.head h).link = .measuring → (s.head h).epochDue =
    false → ∃ t, exec (.cableMeasurementDone h loss len iv) s = .next t ∧ (t.head h).link = .training ∧ t.fld (Reg.HPA_CABLE_LOSS h) =
    (match loss with | some l => l.val | none => 255) ∧ t.fld (Reg.HPA_CABLE_LENGTH h) = (match len with | some l => l.val | none => 255) ∧ t.fld
    (Reg.HPA_CABLE_RATE_LIMIT h) = lossCap (loss.map Fin.val) ∧ t.on (Reg.HPA_CABLE_ID_VALID h) = iv ∧ onlyRegs [Reg.HPA_CABLE h] s t) ∧
  (∀ (h : Fin 4) (q : Partner) (width : Nat) (rt : Fin 3) (r : Nat) (s : State), serving s = true → s.headLive h = true → (s.head h).link = .training
    ∨ (s.head h).link = .up → s.headClock h = true → q.flit = true → powWidth (Nat.min width (s.maxWidth h)) ≠ 0 → bestRate (Nat.min (if s.fld
    (Reg.HPA_CABLE_RATE_LIMIT h) = 0 then 1 else s.fld (Reg.HPA_CABLE_RATE_LIMIT h)) (Nat.min (s.rateMax h) (s.head h).rateCap)) q.rates = some r → ∃
    t, exec (.linkTrainingDone h q width rt) s = .next t ∧ (t.head h).link = .up ∧ t.linkUp h = true ∧ t.fld (Reg.HPA_LINK_STS_RATE h) = r ∧ t.fld
    (Reg.HPA_LINK_STS_WIDTH h) = powWidth (Nat.min width (s.maxWidth h)) ∧ t.fld (Reg.HPA_LD_ACT_LD_ACTIVE h) = s.presentTo h q.switch ∧ onlyRegs
    [Reg.HPA_LINK_STS h, Reg.HPA_LD_ACT h, Reg.HPA_PARTNER h] s t) ∧
  (∀ (h : Fin 4) (q : Partner) (width : Nat) (rt : Fin 3) (s : State), s.headLive h = true → (s.head h).link = .training → s.linkUp h = false →
    s.headClock h = true → q.flit = false ∨ q.rates = 0 → ∃ t, exec (.linkTrainingDone h q width rt) s = .next t ∧ (t.head h).link = .training ∧
    t.fld (Reg.HPA_PARTNER_RATES h) = q.rates.toNat ∧ onlyRegs [Reg.HPA_PARTNER h] s t) ∧
  ∀ (h : Fin 4) (s : State), s.headLive h = true → s.on (Reg.HPA_CTL_LINK_EN h) = false → s.perstHeld h = false → ∃ t, exec (.linkEnable h) s = .next
    t ∧ t.on (Reg.HPA_CTL_LINK_EN h) = true ∧ (t.head h).link = .measuring ∧ onlyRegs [Reg.HPA_CTL h] s t

/-- R66: each recovery is counted; more than FALLBACK_THR of them within 1 s at the present rate, above the lowest rate, make the head retrain one
  rate lower, count a fallback, set CAP_ERR and report source 0x1A; RETRY_RATE written with 1 clears CAP_ERR and lets every rate be tried again. R68,
  Table 2.6: a surprise link-down, or LINK_EN written with 0, with the level of its source below 2, resets the head: the link leaves L0, the reads of
  the pen are discarded and the whole writes kept, the IDE keys and the host's Viral are forgotten, the teardown of the head's filter entries is
  pending, and the epoch advances by 1 unless a request of the next one is still outstanding; a surprise link-down is reported as source 0x19. R67:
  the host's Viral is noted, shown and reported as source 0x35. No memory changes. -/
def Obligations.LinkFails : Prop :=
  (∀ (h : Fin 4) (s : State), s.headLive h = true → s.linkUp h = true → ∃ t, exec (.linkRecovery h) s = .next t ∧ t.fld (Reg.HPA_RECOV_RECOVERIES h)
    = satAdd (Reg.HPA_RECOV_RECOVERIES h).w (s.fld (Reg.HPA_RECOV_RECOVERIES h)) 1 ∧ (t.head h).recov = s.clk :: (s.head h).recov.filter (fun x =>
    decide (s.clk < x + sec)) ∧ t.linkUp h = true ∧ onlyRegs [Reg.HPA_RECOV h] s t) ∧
  (∀ (h : Fin 4) (s : State), s.headLive h = true → s.linkUp h = true → s.fld (Reg.HPA_CTL_FALLBACK_THR h) ≠ 0 → s.fld (Reg.HPA_CTL_FALLBACK_THR h) <
    ((s.head h).recov.filter fun x => decide (s.clk < x + sec)).length → 1 < s.fld (Reg.HPA_LINK_STS_RATE h) → ∃ u, exec (.rateFallback h) s = .next
    (settled u) ∧ u.fld (Reg.HPA_RECOV_FALLBACKS h) = satAdd (Reg.HPA_RECOV_FALLBACKS h).w (s.fld (Reg.HPA_RECOV_FALLBACKS h)) 1 ∧ u.on
    (Reg.HPA_LINK_STS_CAP_ERR h) = true ∧ (u.head h).rateCap = s.fld (Reg.HPA_LINK_STS_RATE h) - 1 ∧ (u.head h).link = .training ∧ u.linkUp h = false
    ∧ u.flt.inbox = s.flt.inbox ++ [{ src := 0x1A, inst := h }] ∧ onlyRegs [Reg.HPA_RECOV h, Reg.HPA_LINK_STS h] s u) ∧
  (∀ (h : Fin 4) (s : State), s.headLive h = true → s.linkUp h = true → ∃ t, exec (.retryRate h) s = .next t ∧ t.on (Reg.HPA_LINK_STS_CAP_ERR h) =
    false ∧ (t.head h).rateCap = 4 ∧ (t.head h).link = .training ∧ t.linkUp h = false ∧ onlyRegs [Reg.HPA_LINK_STS h] s t) ∧
  (∀ (h : Fin 4) (s : State), s.headLive h = true → s.linkUp h = true → s.effLevel 3 < 2 → ∃ u, exec (.surpriseLinkDown h) s = .next (settled u) ∧
    u.linkUp h = false ∧ u.penReqs h = ((s.head h).pen.filter (fun e => e.whole && e.req.kind == .write)).map PenEntry.req ∧ (u.head h).memKey = {} ∧
    (u.head h).ioKey = {} ∧ (u.head h).hostViral = false ∧ u.teardown.contains h.val = true ∧ (s.outstanding h (s.nextEpoch h) = false → u.headEpoch
    h = s.nextEpoch h) ∧ u.flt.inbox = s.flt.inbox ++ [{ src := 0x19, inst := h }] ∧ sameMemory s u) ∧
  (∀ (h : Fin 4) (s : State), calm s = true → s.headLive h = true → s.on (Reg.HPA_CTL_LINK_EN h) = true → s.effLevel 3 < 2 → ∃ t, exec (.linkDisable
    h) s = .next t ∧ t.linkUp h = false ∧ (t.head h).link = .disabled ∧ t.on (Reg.HPA_CTL_LINK_EN h) = false ∧ t.penReqs h = ((s.head h).pen.filter
    (fun e => e.whole && e.req.kind == .write)).map PenEntry.req ∧ (t.head h).memKey = {} ∧ (t.head h).ioKey = {} ∧ (t.head h).hostViral = false ∧
    t.teardown.contains h.val = true ∧ (s.outstanding h (s.nextEpoch h) = false → t.headEpoch h = s.nextEpoch h) ∧ sameMemory s t) ∧
  ∀ (h : Fin 4) (s : State), s.headLive h = true → s.linkUp h = true → ∃ u, exec (.viralReceived h) s = .next (settled u) ∧ (u.head h).hostViral =
    true ∧ u.on (Reg.HPA_LINK_STS_VIRAL h) = true ∧ u.flt.inbox = s.flt.inbox ++ [{ src := 0x35, inst := h }] ∧ onlyRegs [Reg.HPA_LINK_STS h] s u

/-- R52: the first KEY_PROG of a direction of a stream stores its key and is acknowledged with status 0; with both directions programmed the stream
  is locked and its keys are set; a second KEY_PROG of a direction changes no key, is counted in REFUSED and acknowledged with a status that is not 0
  (1, the model's choice: log entry 92); K_SET_GO makes a stream with set keys secure. R55: a MAC failure on a secure stream makes it Insecure, is
  signalled to the host through AER and reported as source 0x1B, and the head takes no more requests; the stream is marked as due for a new key
  exchange. -/
def Obligations.IdeKeysOncePerReset : Prop :=
  (∀ (h : Fin 4) (dir : IdeDir) (key : BitVec 256) (s : State), s.headLive h = true → ((s.head h).memKey.get dir).isNone = true → ∃ t, exec
    (.ideKeyProg h ⟨.mem, dir⟩ key) s = .next t ∧ (t.head h).memKey = (s.head h).memKey.set dir key ∧ ((((t.head h).memKey.rx.isSome && (t.head
    h).memKey.tx.isSome) = true) → t.on (Reg.HPA_IDE_STS_MEM_KEY_LOCK h) = true ∧ t.fld (Reg.HPA_IDE_STS_MEM_STATE h) = 1) ∧ ((((t.head
    h).memKey.rx.isSome && (t.head h).memKey.tx.isSome) = false) → t.reg (Reg.HPA_IDE_STS h) = s.reg (Reg.HPA_IDE_STS h)) ∧ t.out = .kpAck h .mem 0
    :: s.out ∧ (t.head h).ioKey = (s.head h).ioKey ∧ onlyRegs [Reg.HPA_IDE_STS h] s t) ∧
  (∀ (h : Fin 4) (dir : IdeDir) (key : BitVec 256) (s : State), s.headLive h = true → ((s.head h).ioKey.get dir).isNone = true → ∃ t, exec
    (.ideKeyProg h ⟨.io, dir⟩ key) s = .next t ∧ (t.head h).ioKey = (s.head h).ioKey.set dir key ∧ ((((t.head h).ioKey.rx.isSome && (t.head
    h).ioKey.tx.isSome) = true) → t.on (Reg.HPA_IDE_STS_IO_KEY_LOCK h) = true ∧ t.fld (Reg.HPA_IDE_STS_IO_STATE h) = 1) ∧ ((((t.head
    h).ioKey.rx.isSome && (t.head h).ioKey.tx.isSome) = false) → t.reg (Reg.HPA_IDE_STS h) = s.reg (Reg.HPA_IDE_STS h)) ∧ t.out = .kpAck h .io 0 ::
    s.out ∧ (t.head h).memKey = (s.head h).memKey ∧ onlyRegs [Reg.HPA_IDE_STS h] s t) ∧
  (∀ (h : Fin 4) (dir : IdeDir) (key : BitVec 256) (s : State), s.headLive h = true → ((s.head h).memKey.get dir).isSome = true → ∃ t, exec
    (.ideKeyProg h ⟨.mem, dir⟩ key) s = .next t ∧ (t.head h).memKey = (s.head h).memKey ∧ t.fld (Reg.HPA_IDE_STS_REFUSED h) = satAdd
    (Reg.HPA_IDE_STS_REFUSED h).w (s.fld (Reg.HPA_IDE_STS_REFUSED h)) 1 ∧ t.out = .kpAck h .mem 1 :: s.out ∧ onlyRegs [Reg.HPA_IDE_STS h] s t) ∧
  (∀ (h : Fin 4) (dir : IdeDir) (key : BitVec 256) (s : State), s.headLive h = true → ((s.head h).ioKey.get dir).isSome = true → ∃ t, exec
    (.ideKeyProg h ⟨.io, dir⟩ key) s = .next t ∧ (t.head h).ioKey = (s.head h).ioKey ∧ t.fld (Reg.HPA_IDE_STS_REFUSED h) = satAdd
    (Reg.HPA_IDE_STS_REFUSED h).w (s.fld (Reg.HPA_IDE_STS_REFUSED h)) 1 ∧ t.out = .kpAck h .io 1 :: s.out ∧ onlyRegs [Reg.HPA_IDE_STS h] s t) ∧
  (∀ (h : Fin 4) (s : State), s.headLive h = true → s.fld (Reg.HPA_IDE_STS_MEM_STATE h) = 1 → ∃ t, exec (.ideKmKSetGo h .mem) s = .next t ∧ t.fld
    (Reg.HPA_IDE_STS_MEM_STATE h) = 2 ∧ t.fld (Reg.HPA_IDE_STS_IO_STATE h) = s.fld (Reg.HPA_IDE_STS_IO_STATE h) ∧ (t.head h).rekey = (s.head
    h).rekey.filter (· != .mem) ∧ onlyRegs [Reg.HPA_IDE_STS h] s t) ∧
  (∀ (h : Fin 4) (s : State), s.headLive h = true → s.fld (Reg.HPA_IDE_STS_IO_STATE h) = 1 → ∃ t, exec (.ideKmKSetGo h .io) s = .next t ∧ t.fld
    (Reg.HPA_IDE_STS_IO_STATE h) = 2 ∧ t.fld (Reg.HPA_IDE_STS_MEM_STATE h) = s.fld (Reg.HPA_IDE_STS_MEM_STATE h) ∧ (t.head h).rekey = (s.head
    h).rekey.filter (· != .io) ∧ onlyRegs [Reg.HPA_IDE_STS h] s t) ∧
  (∀ (h : Fin 4) (s : State), s.headLive h = true → s.fld (Reg.HPA_IDE_STS_MEM_STATE h) = 2 → ∃ u, exec (.ideMacFailure h .mem) s = .next (settled u)
    ∧ u.fld (Reg.HPA_IDE_STS_MEM_STATE h) = 3 ∧ (u.head h).insecure = true ∧ (u.head h).rekey.contains .mem = true ∧ u.takes h = false ∧ u.out = .aer
    h :: s.out ∧ u.flt.inbox = s.flt.inbox ++ [{ src := 0x1B, inst := h }] ∧ onlyRegs [Reg.HPA_IDE_STS h] s u) ∧
  ∀ (h : Fin 4) (s : State), s.headLive h = true → s.fld (Reg.HPA_IDE_STS_IO_STATE h) = 2 → ∃ u, exec (.ideMacFailure h .io) s = .next (settled u) ∧
    u.fld (Reg.HPA_IDE_STS_IO_STATE h) = 3 ∧ (u.head h).insecure = true ∧ (u.head h).rekey.contains .io = true ∧ u.takes h = false ∧ u.out = .aer h
    :: s.out ∧ u.flt.inbox = s.flt.inbox ++ [{ src := 0x1B, inst := h }] ∧ onlyRegs [Reg.HPA_IDE_STS h] s u

/-- R48, R179: while the test of R179 allows one more extent, a GiB that may be offered becomes an offered extent and an Add Capacity event in the
  LD's log, unless the log is full; a sharable one whose domain does not exist yet takes a free block of the sharing area (R100); otherwise nothing
  happens. R50: the response makes the extent accepted, and the LD a member of the extent's sharing domain (R101). A release stands from its command
  on while a request to the GiB is held in a pen; it completes where none is, here where nothing is stored in the GiB or the sharing domain keeps
  another member. -/
def Obligations.DynamicCapacity : Prop :=
  (∀ (ld : Fin 16) (g : Nat) (s : State), s.offersAllowed ≠ 0 → s.mayOffer ld g false = true → ∃ t, exec (.addCapacityOffer ld g none) s = .next t ∧
    (t.ld ld).extents = (s.ld ld).extents ++ [{ gib := g, share := none }] ∧ (∀ es, (s.ld ld).logs[0]? = some es → es.length < 64 → (t.ld ld).logs =
    (s.ld ld).logs.set 0 (es ++ [(s.time, .capacity capAdd ld g)])) ∧ t.regs = s.regs ∧ sameMemory s t ∧ (∀ k, k ≠ ld.val → t.ld k = s.ld k)) ∧
  (∀ (ld : Fin 16) (g key p : Nat) (s : State), s.offersAllowed ≠ 0 → s.mayOffer ld g true = true → s.domainOf key = none → s.freeShareBlock = some p
    → ∃ t, exec (.addCapacityOffer ld g (some key)) s = .next t ∧ (t.ld ld).extents = (s.ld ld).extents ++ [{ gib := g, share := some key }] ∧
    t.cold.domains = s.cold.domains ++ [{ key := key, firstPage := p }] ∧ t.regs = s.regs ∧ sameMemory s t ∧ (∀ k, k ≠ ld.val → t.ld k = s.ld k)) ∧
  (∀ (ld : Fin 16) (g : Nat) (share : Option Nat) (s : State), s.offersAllowed = 0 ∨ s.mayOffer ld g share.isSome = false → exec (.addCapacityOffer
    ld g share) s = .next (s)) ∧
  (∀ (ld : Fin 16) (g : Nat) (e : Extent) (s : State), (s.ld ld).extents.find? (fun x => x.gib == g && !x.accepted) = some e → ∃ t, exec
    (.addCapacityResponse ld g) s = .next t ∧ (t.ld ld).extents = (s.ld ld).extents.map (fun x => if x.gib = g then
    { x with accepted := true, seq := s.cold.acceptSeq } else x) ∧ (∀ d, some d.key = e.share → d ∈ s.cold.domains → ∃ d', d' ∈ t.cold.domains ∧
    d'.key = d.key ∧ d'.members = d.members ++ [(ld.val, g)]) ∧ t.regs = s.regs ∧ sameMemory s t) ∧
  (∀ (ld : Fin 16) (g : Nat) (e : Extent) (s : State), calm s = true → (s.ld ld).extents.find? (fun x => x.gib == g) = some e → e.accepted = true →
    e.share = none → (s.ld ld).releasing = [] → s.releaseReady ld (s.extentBase ld e) false = false → ∃ t, exec (.releaseDynamicCapacity ld g) s =
    .next t ∧ (t.ld ld).releasing = [g] ∧ (t.ld ld).extents = (s.ld ld).extents ∧ onlyRegs [] s t) ∧
  (∀ (ld : Fin 16) (g : Nat) (e : Extent) (s : State), calm s = true → (s.ld ld).extents.find? (fun x => x.gib == g) = some e → e.accepted = true →
    e.share = none → e.frozen = false → (s.ld ld).releasing = [] → s.releaseReady ld (s.extentBase ld e) false = true → ((s.slotOf (s.extentBase ld
    e)).all fun k => (SMap.get (0, 0) s.cold.used k).1 == 0) = true → ∃ t, exec (.releaseDynamicCapacity ld g) s = .next t ∧ (t.ld ld).releasing = []
    ∧ (t.ld ld).extents = (s.ld ld).extents.filter (fun x => x.gib != g) ∧ onlyRegs [] s t) ∧
  ∀ (ld : Fin 16) (g key : Nat) (e : Extent) (d : ShareDomain) (s : State), calm s = true → (s.ld ld).extents.find? (fun x => x.gib == g) = some e →
    e.accepted = true → e.share = some key → e.frozen = false → (s.ld ld).releasing = [] → s.domainOf key = some d → (d.members.filter (· != (ld.val,
    g))).isEmpty = false → s.releaseReady ld d.firstPage true = true → ∃ t, exec (.releaseDynamicCapacity ld g) s = .next t ∧ (t.ld ld).releasing =
    [] ∧ (t.ld ld).extents = (s.ld ld).extents.filter (fun x => x.gib != g) ∧ t.cold.domains = s.cold.domains.map (fun x => if x.key = key then
    { x with members := d.members.filter (· != (ld.val, g)) } else x) ∧ onlyRegs [] s t

/-- R73: a host's read, or a write that is no writeback, of a page whose map entry must be looked up first, is accepted where no rule of Table 3.1
  refuses it: it leaves the grid, a transaction of the line table is opened for it and the acceptance goes back to its head. R74: a host's request
  that is refused is answered with a NACK that names the reason; the first three change nothing else in the slice and bring no ticket; the fourth
  brings a reservation ticket, the next number of the address's ticket entry or number 0 of a new one (R76), or NACK 2 where the ticket table is full
  (R78). -/
def Obligations.SliceTakesRequests : Prop :=
  (∀ (sl : Fin 34) (r : Req) (h k : Nat) (s : State), calm s = true → s.fld Reg.PWR_STS_STATE < 2 → s.flight = [r] → s.home r.gpn = sl.val → r.agent
    = .host h k → r.kind = .read ∨ r.kind = .write → r.db = false → r.retry = false → s.entryHeld (remapIndex r.gpn) = false → s.refuses sl r = none
    → s.sramEntry sl r.gpn = none → s.filterLost r = false → s.keyless r.gpn = false → ∃ t, exec (.sliceRequest sl [r.id]) s = .next t ∧ t.flight =
    [] ∧ t.replies = s.replies ++ [{ req := r, kind := .accepted }] ∧ (t.slice sl).txns.map (fun x => x.req.id) = (s.slice sl).txns.map (fun x =>
    x.req.id) ++ [r.id] ∧ sameMemory s t) ∧
  (∀ (sl : Fin 34) (r : Req) (h k why : Nat) (s : State), calm s = true → s.fld Reg.PWR_STS_STATE < 2 → s.flight = [r] → s.home r.gpn = sl.val →
    r.agent = .host h k → r.kind = .read ∨ r.kind = .write → r.db = false → r.retry = false → s.entryHeld (remapIndex r.gpn) = false → s.refuses sl r
    = some why → s.filterLost r = false → r.nacks < 3 → r.ticket = none → ∃ t, exec (.sliceRequest sl [r.id]) s = .next t ∧ t.flight = [] ∧ t.replies
    = s.replies ++ [{ req := { r with nacks := r.nacks + 1 }, kind := .nack why none }] ∧ t.fld (Reg.HSL_NACK_CNT_COUNT sl) = satAdd
    (Reg.HSL_NACK_CNT_COUNT sl).w (s.fld (Reg.HSL_NACK_CNT_COUNT sl)) 1 ∧ t.slice sl = s.slice sl ∧ onlyRegs [Reg.HSL_NACK_CNT sl] s t) ∧
  ∀ (sl : Fin 34) (r : Req) (h k why : Nat) (s : State), calm s = true → s.fld Reg.PWR_STS_STATE < 2 → s.flight = [r] → s.home r.gpn = sl.val →
    r.agent = .host h k → r.kind = .read ∨ r.kind = .write → r.db = false → r.retry = false → s.entryHeld (remapIndex r.gpn) = false → s.refuses sl r
    = some why → s.filterLost r = false → r.nacks = 3 → r.ticket = none → ∃ t, exec (.sliceRequest sl [r.id]) s = .next t ∧ t.flight = [] ∧ t.replies
    = s.replies ++
    [match s.ticketAt sl r.ticketKey with | some x => { req := { r with nacks := 4, ticket := some x.issue }, kind := .nack why (some x.issue) } | none => if 256 ≤ (s.slice sl).tickets.length then { req := { r with nacks := 4 }, kind := .nack 2 none } else { req := { r with nacks := 4, ticket := some 0 }, kind := .nack why (some 0) }] ∧
    (t.slice sl).txns = (s.slice sl).txns ∧ onlyRegs [Reg.HSL_NACK_CNT sl, Reg.HSL_TKT_FULL sl] s t

/-- R77: the ticket is forfeited, not before 1 µs after its holder became next: the serve counter advances, an entry with no ticket left is freed,
  and FORFEIT counts it. R75: an internal page-level request that was NACKed once is given to the slice again, not before the end of its 16 ns delay,
  and is granted where the slice does not refuse it: its operation opens. -/
def Obligations.TicketsAndRetries : Prop :=
  (∀ (sl : Fin 34) (key : Nat) (x : Ticket) (s : State), s.ticketAt sl key = some x → ∃ t, exec (.ticketForfeit sl key) s = .next t ∧ x.since + 1000
    ≤ t.clk ∧ t.fld (Reg.HSL_TKT_STS_FORFEIT sl) = satAdd (Reg.HSL_TKT_STS_FORFEIT sl).w (s.fld (Reg.HSL_TKT_STS_FORFEIT sl)) 1 ∧ (t.slice
    sl).tickets = (((s.slice sl).tickets.map fun y => if y.key = key then { y with serve := y.serve + 1, since := t.clk } else y).filter fun y =>
    y.serve != y.issue) ∧ sameMemory s t) ∧
  ∀ (r : Req) (s : State), calm s = true → s.flight = [r] → r.nackAt ≠ 0 → r.nacks = 1 → r.agent = .plaza → r.kind = .pageOp .distress → r.retry =
    false → s.entryHeld (remapIndex r.gpn) = false → s.refuses (s.home r.gpn) r = none → s.filterLost r = false → r.db = false → ∃ t, exec
    (.nackRetry r.id) s = .next t ∧ r.nackAt + 16 ≤ t.clk ∧ t.flight = [] ∧ (t.cold.ops.map fun o => (o.gpn, o.kind)) = (s.cold.ops.map fun o =>
    (o.gpn, o.kind)) ++ [(r.gpn, .distress)] ∧ sameMemory s t

/-- R85, Table 3.3: a response to a transaction that awaits others besides removes its LD from those that it awaits and changes the holders of the
  line's entry as the snoop's kind and the response say. R104: a response that comes after the time-out is discarded and counted, and the LD is
  silent no more. R107: one to a fenced slice is discarded and counted by the street grid. R103: a snoop times out no sooner than HSC_BI_CFG.TMO_US
  after it was sent; the silent LD then leaves the entry, which is held, and the transaction awaits the others; the time-out and the poisoned line
  are counted, the transaction's result is poison, and source 0x10 is reported. -/
def Obligations.SnoopsAnswered : Prop :=
  (∀ (sl : Fin 34) (la : Nat) (ld : Fin 16) (rsp : BiRsp) (x : Txn) (s : State), calm s = true → (s.slice sl).fenced = false → (s.filter la).state =
    1 → (∀ k : Fin 16, (s.ld k).releasing = []) → s.awaiting sl la ld = some (x, false) → (x.snoops.filter (· != ld.val)).isEmpty = false → ∃ t, exec
    (.birspReceived sl la ld rsp) s = .next t ∧ (t.filter la).holders = (answeredEntry x.req.snoopKind rsp ld (s.filter la)).holders ∧ (t.slice
    sl).txns = (s.slice sl).txns.map (fun y => if y.req.id = x.req.id then
    { y with snoops := ((s.txn sl x.req.id).getD {}).snoops.filter (· != ld.val) } else y) ∧ onlyRegs [] s t) ∧
  (∀ (sl : Fin 34) (la : Nat) (ld : Fin 16) (rsp : BiRsp) (s : State), (s.slice sl).fenced = false → (s.filter la).state = 3 → (s.filter
    la).silent.getLsbD ld = true → ∃ t, exec (.birspReceived sl la ld rsp) s = .next t ∧ t.fld (Reg.HSL_BI_TMO_LATE sl) = satAdd (Reg.HSL_BI_TMO_LATE
    sl).w (s.fld (Reg.HSL_BI_TMO_LATE sl)) 1 ∧ (t.filter la).silent.getLsbD ld = false ∧ (t.filter la).state = 3 ∧ (t.filter la).holders = (s.filter
    la).holders ∧ onlyRegs [Reg.HSL_BI_TMO sl] s t) ∧
  (∀ (sl : Fin 34) (la : Nat) (ld : Fin 16) (rsp : BiRsp) (s : State), (s.slice sl).fenced = true → exec (.birspReceived sl la ld rsp) s = .next
    (s.count Reg.NOC_DROP_FENCED)) ∧
  ∀ (sl : Fin 34) (la : Nat) (ld : Fin 16) (x : Txn) (s : State), (∀ k : Fin 16, (s.ld k).releasing = []) → s.awaiting sl la ld = some (x, false) →
    s.txn sl x.req.id = some x → (x.snoops.filter (· != ld.val)).isEmpty = false → ∃ u, exec (.snoopTimeout sl la ld) s = .next (settled u) ∧
    x.sentAt + s.snoopTmo ≤ u.clk ∧ (u.filter la).state = 3 ∧ (u.filter la).silent.getLsbD ld = true ∧ (u.filter la).holders.getLsbD ld = false ∧
    u.fld (Reg.HSL_BI_TMO_TIMEOUTS sl) = satAdd (Reg.HSL_BI_TMO_TIMEOUTS sl).w (s.fld (Reg.HSL_BI_TMO_TIMEOUTS sl)) 1 ∧ u.fld (Reg.HSL_POISON_TIMEOUT
    sl) = satAdd (Reg.HSL_POISON_TIMEOUT sl).w (s.fld (Reg.HSL_POISON_TIMEOUT sl)) 1 ∧ ((u.txn sl x.req.id).map fun y => (y.snoops, y.poisonResult))
    = some (x.snoops.filter (· != ld.val), true) ∧ (∃ q ∈ u.flt.inbox, q.src = 0x10 ∧ q.inst = sl.val) ∧ sameMemory s u

/-- R108, Table 3.6, steps 5 to 8: the spare's power-up leads to the load of its arrays; the load gives it the entry's part of the buddy's mirror as
  its filter and the buddy's filter as its mirror, and goes on to step 7; once the buddy has drained the entry, the remap table names the spare and a
  route change is under way. R105: where the head's pen holds no write of the old epoch and no transaction is open, its teardown is carried out and
  pending no more, the others stay pending, and no memory changes. -/
def Obligations.SpareTakesTheEntry : Prop :=
  (∀ (e : Fin 32) (x : Takeover) (sp : Nat) (s : State), s.takeover e = some x → x.spare = some sp → x.step = 4 → x.double = false → s.pwr.downs = []
    → s.domFenced (8 + sp) = false → s.tableCond 0 (8 + sp) = .on → ∃ t, exec (.sparePowerUpDone e) s = .next t ∧ (t.takeover e).map Takeover.step =
    some 5 ∧ t.cond (8 + sp) = .on ∧ t.takeovers.map Takeover.entry = s.takeovers.map Takeover.entry ∧ sameMemory s t) ∧
  (∀ (e : Fin 32) (x : Takeover) (sp : Nat) (s : State), s.takeover e = some x → x.spare = some sp → x.step = 5 → ∃ t, exec (.spareArrayLoadDone e) s
    = .next t ∧ (t.takeover e).map Takeover.step = some 7 ∧ (t.slice sp).filter = (s.slice (s.buddyOf e)).mirror.filter (fun y => remapIndex (y.1 /
    64) == e.val) ∧ (t.slice sp).mirror = (s.slice (s.buddyOf e)).filter ∧ (∀ n, n ≠ sp → t.slice n = s.slice n) ∧ onlyRegs [] s t) ∧
  (∀ (e : Fin 32) (x : Takeover) (sp : Nat) (s : State), s.takeover e = some x → x.spare = some sp → sp < 64 → x.step = 7 → s.noc.flipping = false →
    ((s.slice (s.buddyOf e)).txns.any fun y => remapIndex y.req.gpn == e.val) = false → ∃ t, exec (.buddyEntryDrained e) s = .next t ∧ (t.takeover
    e).map Takeover.step = some 8 ∧ t.remap e = sp ∧ t.noc.flipping = true ∧ t.noc.epoch = !s.noc.epoch ∧ sameMemory s t) ∧
  ∀ (h : Fin 4) (s : State), s.teardown.contains h.val = true → s.oldWrites h = false → (s.slices.all fun e => e.2.txns.isEmpty) = true → (∀ k : Fin
    16, (s.ld k).releasing = []) → ∃ u, exec (.ldTeardown h) s = .next (settled u) ∧ u.teardown = s.teardown.filter (· != h.val) ∧ sameMemory s u

/-- Table 5.4, R160: the sixteen bytes of a map entry give back every field within its width, and the entry's CHECK holds. -/
def Obligations.MapEntryEncoding : Prop :=
  ∀ m : MapEntry, m.state < 4 → m.heat < 2 ^ 8 → m.wcnt < 2 ^ 24 → m.scnt < 2 ^ 5 → m.spos < 2 ^ 4 → m.seam < 2 ^ 32 → m.frame < 2 ^ 25 →
    unpackEntry m.pack = m ∧ entryOk m.pack = true

/-- R160: a probe of the map cache that finds no way counts a miss in its stack and changes nothing else; one that finds the entry counts a hit, puts
  the entry into slice SRAM, and the one read that waited is served: with zeros for a page in STATE 0 (R20). An entry of the cache that fails its
  CHECK is reported as source 0x0D, and the read goes on waiting for the ledger's copy. An entry that comes from the ledger, of a block that is in
  the cache, serves the read in the same way and counts nothing. -/
def Obligations.MapEntryArrives : Prop :=
  (∀ (p sl : Nat) (err : BitVec 128) (ok : Bool) (s : State), s.entrySlice p = sl → (s.awaitEntry sl p).isEmpty = false → s.wayOf (p / 256) = none →
    exec (.mapEntryReturn p .cache err ok) s = .next (s.count (Reg.HTC_MAPC_MISS_COUNT (s.cacheStack (p / 256))))) ∧
  (∀ (p id w sl : Nat) (x : Txn) (ok : Bool) (s : State), calm s = true → s.entrySlice p = sl → s.awaitEntry sl p = [id] → s.txn sl id = some x →
    x.req.gpn = p → x.req.kind = .read → x.req.agent = .host 0 0 → s.wayOf (p / 256) = some w → entryOk (SMap.get zeroEntry s.hot.entries p) = true →
    (s.entry p).state = 0 → s.marks p = 0 → s.on Reg.FLT_INJ_ARM = false → ∃ t, exec (.mapEntryReturn p .cache 0 ok) s = .next t ∧ t.fld
    (Reg.HTC_MAPC_HIT_COUNT (s.cacheStack (p / 256))) = satAdd (Reg.HTC_MAPC_HIT_COUNT (s.cacheStack (p / 256))).w (s.fld (Reg.HTC_MAPC_HIT_COUNT
    (s.cacheStack (p / 256)))) 1 ∧ (t.sramEntry sl p).isSome = true ∧ t.replies.map (fun r => (r.req.id, r.kind)) = s.replies.map (fun r =>
    (r.req.id, r.kind)) ++ [(x.req.id, .data 0 false)] ∧ onlyRegs [Reg.HTC_MAPC_HIT (s.cacheStack (p / 256))] s t) ∧
  (∀ (p w sl : Nat) (err : BitVec 128) (ok : Bool) (s : State), s.entrySlice p = sl → (s.awaitEntry sl p).isEmpty = false → s.wayOf (p / 256) = some
    w → entryOk (SMap.get zeroEntry s.hot.entries p ^^^ err) = false → ∃ u, exec (.mapEntryReturn p .cache err ok) s = .next (settled u) ∧
    (u.flt.inbox.map fun r => (r.src, r.inst)) = (s.flt.inbox.map fun r => (r.src, r.inst)) ++ [(0x0D, sl)] ∧ u.replies = s.replies ∧ u.slices =
    s.slices ∧ onlyRegs [Reg.HTC_MAPC_HIT (s.cacheStack (p / 256))] s u) ∧
  ∀ (p id w sl : Nat) (x : Txn) (ok : Bool) (s : State), calm s = true → s.entrySlice p = sl → s.awaitEntry sl p = [id] → s.txn sl id = some x →
    x.req.gpn = p → x.req.kind = .read → x.req.agent = .host 0 0 → s.wayOf (p / 256) = some w → (s.entry p).state = 0 → s.marks p = 0 → s.on
    Reg.FLT_INJ_ARM = false → ∃ t, exec (.mapEntryReturn p .ledger 0 ok) s = .next t ∧ (t.sramEntry sl p).isSome = true ∧ t.replies.map (fun r =>
    (r.req.id, r.kind)) = s.replies.map (fun r => (r.req.id, r.kind)) ++ [(x.req.id, .data 0 false)] ∧ onlyRegs [] s t

/-- R116: a read whose frame access is done without an error is answered with the line that R116 finds for it, and nothing is stored. R135: one whose
  access finds a corrected symbol is answered in the same way, counts it in the stack's CORR and reports it as source 0x09. R116, R122: a write of a
  whole line to a dirty page whose access finds no error stores it in the primary frame and in its mirror, marks it valid and dirty in both, and is
  completed; every other line of the stacks, every stitch and every register stays. R118: a write that was held, to a page that is dirty already,
  takes its access into the write queue of its group. -/
def Obligations.HotLineAccess : Prop :=
  (∀ (id sl p k : Nat) (x : Txn) (v : Line) (bad : Bool) (s : State), calm s = true → s.sliceOfTxn id = some sl → s.txn sl id = some x → x.phase =
    .frame → x.slot = some k → (((s.group k).rq ++ (s.group k).wq).any fun a => a.id == id) = false → x.req.kind = .read → x.val = none → x.req.agent
    = .host 0 0 → x.req.gpn = p → 2 ≤ (s.entry p).state → s.hot.inject = [] → s.lineAt p (s.entry p).frame x.req.line = .line v bad → ∃ t, exec
    (.htcLineAccess id .none) s = .next t ∧ t.replies.map (fun r => (r.req.id, r.kind)) = s.replies.map (fun r => (r.req.id, r.kind)) ++ [(x.req.id,
    .data (if bad then 0 else v) bad)] ∧ (t.slice sl).txns = (s.slice sl).txns.filter (fun y => y.req.id != id) ∧ onlyRegs [] s t) ∧
  (∀ (id sl p k : Nat) (x : Txn) (v : Line) (bad : Bool) (s : State), s.sliceOfTxn id = some sl → s.txn sl id = some x → x.phase = .frame → x.slot =
    some k → (((s.group k).rq ++ (s.group k).wq).any fun a => a.id == id) = false → x.req.kind = .read → x.val = none → x.req.agent = .host 0 0 →
    x.req.gpn = p → 2 ≤ (s.entry p).state → s.hot.inject = [] → s.lineAt p (s.entry p).frame x.req.line = .line v bad → ∃ u, exec (.htcLineAccess id
    .corrected) s = .next (settled u) ∧ u.replies.map (fun r => (r.req.id, r.kind)) = s.replies.map (fun r => (r.req.id, r.kind)) ++ [(x.req.id,
    .data (if bad then 0 else v) bad)] ∧ u.fld (Reg.HTC_ECC_CORR ((s.entry p).frame % 2)) = satAdd (Reg.HTC_ECC_CORR ((s.entry p).frame % 2)).w
    (s.fld (Reg.HTC_ECC_CORR ((s.entry p).frame % 2))) 1 ∧ (u.flt.inbox.map fun r => (r.src, r.inst)) = (s.flt.inbox.map fun r => (r.src, r.inst)) ++
    [(0x09, (s.entry p).frame % 2)] ∧ onlyRegs [Reg.HTC_ECC ((s.entry p).frame % 2)] s u) ∧
  (∀ (id sl p k mf : Nat) (x : Txn) (s : State), calm s = true → s.sliceOfTxn id = some sl → s.txn sl id = some x → x.phase = .frame → x.slot = some
    k → (((s.group k).rq ++ (s.group k).wq).any fun a => a.id == id) = false → x.req.kind = .write → x.val = none → x.req.agent = .host 0 0 →
    x.req.gpn = p → x.req.line < 64 → x.req.mask = BitVec.allOnes 64 → (s.entry p).state = 3 → (s.desc (s.entry p).frame).partner = some mf → mf ≠
    (s.entry p).frame → s.hot.inject = [] → s.on Reg.FLT_INJ_ARM = false → ∃ t, exec (.htcLineAccess id .none) s = .next t ∧ t.stackLine (s.entry
    p).frame x.req.line = x.req.data ∧ t.stackLine mf x.req.line = x.req.data ∧ (∀ f l, l < 64 → (f, l) ≠ ((s.entry p).frame, x.req.line) → (f, l) ≠
    (mf, x.req.line) → t.stackLine f l = s.stackLine f l) ∧ (∀ seam ch, t.dimmStitch seam ch = s.dimmStitch seam ch) ∧ (t.desc (s.entry
    p).frame).dirty.getLsbD x.req.line = true ∧ (t.desc (s.entry p).frame).valid.getLsbD x.req.line = true ∧ (t.desc mf).dirty.getLsbD x.req.line =
    true ∧ (t.desc mf).valid.getLsbD x.req.line = true ∧ t.replies.map (fun r => (r.req.id, r.kind)) = s.replies.map (fun r => (r.req.id, r.kind)) ++
    [(x.req.id, .done)] ∧ sameRegsBut [] s t) ∧
  ∀ (id sl p : Nat) (x : Txn) (s : State), calm s = true → s.sliceOfTxn id = some sl → s.txn sl id = some x → x.phase = .frames → x.req.gpn = p →
    (s.entry p).state = 3 → (s.desc (s.entry p).frame).partner.isSome = true → (s.group (groupKey (s.entry p).frame)).wq.length < 512 → ∃ t, exec
    (.heldWriteResume id) s = .next t ∧ (t.txn sl id).map Txn.phase = some .frame ∧ (t.group (groupKey (s.entry p).frame)).wq.map LineAccess.id =
    (s.group (groupKey (s.entry p).frame)).wq.map LineAccess.id ++ [id] ∧ onlyRegs [] s t

/-- R119: the data of a fill from the cold image takes every line of the frame that is not valid yet and not partly written, the lines that are valid
  stay, and the fill is over. R123, R124: above the high mark the page that has been dirty for longest opens its write-back at once: WB is set, its
  DIRTY mask moves into the pending mask, and an operation holds the page. Below the mark it does so once it is older than AGE_MS. R208: a page whose
  next write counter would pass 0xFF_FFFF is held in place of that, and counted in CRY_WB_HELD. -/
def Obligations.FillsAndCleaning : Prop :=
  (∀ (p id : Nat) (fl : Fill) (ls : List Line) (pm : BitVec 64) (s : State), calm s = true → s.fillOf p = some fl → fl.gpn = p → fl.source = .cold id
    → fl.masks = [] → (s.job id).bind ReadJob.result = some (.lines ls pm) → (s.desc fl.frame).partner = none → (s.slices.all fun e =>
    e.2.txns.isEmpty) = true → ∃ t, exec (.fillData p []) s = .next t ∧ t.fillOf p = none ∧ (t.desc fl.frame).fill = false ∧ (t.desc fl.frame).valid
    = BitVec.allOnes 64 ∧ (∀ l < 64, t.stackLine fl.frame l = if (s.desc fl.frame).valid.getLsbD l then s.stackLine fl.frame l else ls.getD l 0) ∧ (∀
    f l, l < 64 → f ≠ fl.frame → t.stackLine f l = s.stackLine f l) ∧ (∀ seam ch, t.dimmStitch seam ch = s.dimmStitch seam ch) ∧ sameRegsBut [] s t)
    ∧
  (∀ (p : Nat) (s : State), calm s = true → (s.entry p).state = 3 → s.cleanNow p = true → s.counterSpent p = false → (s.desc (s.entry
    p).frame).partner = none → s.single = false → s.dirtyHigh < s.dirtyPages → s.mayOpen p = true → (s.hot.desc.any fun e => e.2.kind == 1 &&
    (s.entry e.2.gpn).frame == e.1 && s.cleanNow e.2.gpn && decide (s.dirtyAge (s.desc (s.entry p).frame) < s.dirtyAge e.2)) = false → ∃ t, exec
    (.coldWritebackOpen p []) s = .next t ∧ (t.opOf p).map PageOp.kind = some .writeback ∧ t.hot.pending = s.hot.pending ++ [(p, (s.desc (s.entry
    p).frame).dirty)] ∧ (t.desc (s.entry p).frame).wb = true ∧ (t.desc (s.entry p).frame).dirty = 0 ∧ t.clk = s.clk ∧ onlyRegs [] s t) ∧
  (∀ (p : Nat) (s : State), calm s = true → (s.entry p).state = 3 → s.cleanNow p = true → s.counterSpent p = false → (s.desc (s.entry
    p).frame).partner = none → s.single = false → s.dirtyPages ≤ s.dirtyHigh → s.mayOpen p = true → (s.hot.desc.any fun e => e.2.kind == 1 &&
    (s.entry e.2.gpn).frame == e.1 && s.cleanNow e.2.gpn && decide (s.dirtyAge (s.desc (s.entry p).frame) < s.dirtyAge e.2)) = false → ∃ t, exec
    (.coldWritebackOpen p []) s = .next t ∧ (t.opOf p).map PageOp.kind = some .writeback ∧ t.hot.pending = s.hot.pending ++ [(p, (s.desc (s.entry
    p).frame).dirty)] ∧ (t.desc (s.entry p).frame).wb = true ∧ s.clk + (s.dirtyAgeMs - s.dirtyAge (s.desc (s.entry p).frame)) * ms ≤ t.clk ∧ onlyRegs
    timeRegs s t) ∧
  ∀ (p : Nat) (s : State), calm s = true → (s.entry p).state = 3 → s.cleanNow p = true → s.counterSpent p = true → s.single = false → s.dirtyHigh <
    s.dirtyPages → (s.hot.desc.any fun e => e.2.kind == 1 && (s.entry e.2.gpn).frame == e.1 && s.cleanNow e.2.gpn && decide (s.dirtyAge (s.desc
    (s.entry p).frame) < s.dirtyAge e.2)) = false → ∃ t, exec (.coldWritebackOpen p []) s = .next t ∧ t.vault.wbHeld = s.vault.wbHeld ++ [p] ∧ t.fld
    Reg.CRY_WB_HELD_COUNT = satAdd Reg.CRY_WB_HELD_COUNT.w (s.fld Reg.CRY_WB_HELD_COUNT) 1 ∧ t.hot = s.hot ∧ t.cold = s.cold ∧ onlyRegs
    [Reg.CRY_WB_HELD] s t

/-- R130, Table 3.4: with fewer free shed frames than SHED_LOW in hardware mode, the coldest clean page of the group is released: its entry goes back
  to STATE 1, its frame is free and the demotion is counted, here where one clean page lies in the shed frames of the stack; all other frames and
  every stitch stay. R131: in host-assisted mode this happens only at the floor, below 65,536 free shed frames, with a vendor event 0x0130; above the
  floor, and not below SHED_LOW in hardware mode, the commands change nothing. -/
def Obligations.FramesReleased : Prop :=
  (∀ (st : Fin 2) (p f w : Nat) (s : State), calm s = true → s.on Reg.HTM_TIER_CFG_MODE_ACT = false → s.switching 0 = false → s.freeShedCount st <
    s.shedLow → s.cleanShed st = [(f, p)] → s.hot.desc = [(f, s.desc f)] → s.wayOf (p / 256) = some w → (s.entry p).state = 2 → (s.entry p).frame = f
    → (s.entry p).pin = false → s.mayOpen p = true → s.writeOpen p = false → s.marks p = 0 → s.hot.pinWait = [] → ∃ t, exec (.shedFrameRelease st [])
    s = .next t ∧ (t.entry p).state = 1 ∧ (t.desc f).kind = 0 ∧ t.fld Reg.HTM_DEMO_CNT_COUNT = satAdd Reg.HTM_DEMO_CNT_COUNT.w (s.fld
    Reg.HTM_DEMO_CNT_COUNT) 1 ∧ (∀ g l, l < 64 → g ≠ f → t.stackLine g l = s.stackLine g l) ∧ (∀ seam ch, t.dimmStitch seam ch = s.dimmStitch seam
    ch)) ∧
  (∀ (st : Fin 2) (p f w : Nat) (s : State), calm s = true → s.on Reg.HTM_TIER_CFG_MODE_ACT = true → s.switching 0 = false → s.freeShedCount st <
    65536 → s.shedReleasing st = false → s.cleanShed st = [(f, p)] → s.hot.desc.all (fun e => e.1 == f || e.2.kind == 3) = true → s.wayOf (p / 256) =
    some w → (s.entry p).state = 2 → (s.entry p).frame = f → (s.entry p).pin = false → s.mayOpen p = true → s.writeOpen p = false → s.marks p = 0 →
    s.hot.pinWait = [] → ∃ t, exec (.shedFloorRelease st []) s = .next t ∧ (t.entry p).state = 1 ∧ (t.desc f).kind = 0 ∧ t.fld Reg.HTM_DEMO_CNT_COUNT
    = satAdd Reg.HTM_DEMO_CNT_COUNT.w (s.fld Reg.HTM_DEMO_CNT_COUNT) 1 ∧ t.flt = (s.vendor 1 0x0130 [st.val]).flt ∧ t.lds = (s.vendor 1 0x0130
    [st.val]).lds ∧ (∀ seam ch, t.dimmStitch seam ch = s.dimmStitch seam ch)) ∧
  (∀ (st : Fin 2) (errs : DescErrors) (s : State), s.on Reg.HTM_TIER_CFG_MODE_ACT = true ∨ (s.shedLow ≤ s.freeShedCount st ∧ s.shedReleasing st =
    false) → s.pinsWait st = false → exec (.shedFrameRelease st errs) s = .next (s)) ∧
  ∀ (st : Fin 2) (errs : DescErrors) (s : State), s.on Reg.HTM_TIER_CFG_MODE_ACT = false ∨ (65536 ≤ s.freeShedCount st ∧ s.shedReleasing st = false)
    → exec (.shedFloorRelease st errs) s = .next (s)

/-- R133: PIN_SET and PIN_CLEAR write PIN in the page's entry, where its home slice serves it; a cold page with an image that is pinned opens a
  promotion into a free shed frame, and waits where none is free. R139: the move of a clean page from its keep frame to a free shed frame opens; at
  its commit, with no write accepted since, the entry names the shed frame, which holds the page's valid lines, and the keep frame is free. R127: the
  heat epoch advances modulo 16. R258: a patrol visit without an error only advances the cursor of the stack; a corrected error is counted and
  reported as source 0x09 besides. -/
def Obligations.PinsMovesAndPatrol : Prop :=
  (∀ (p w : Nat) (s : State), calm s = true → (s.slotOf p).isSome = true → s.wayOf (p / 256) = some w → s.pageServed p = true → ∃ t, exec (.pinSet p)
    s = .next t ∧ t.entry p = { s.entry p with pin := true } ∧ sameMemory s t) ∧
  (∀ (p w f : Nat) (s : State), calm s = true → (s.slotOf p).isSome = true → s.wayOf (p / 256) = some w → s.mayOpen p = true → (s.entry p).state = 1
    → (s.entry p).scnt ≠ 0 → s.shedFor p = some f → ∃ t, exec (.pinSet p) s = .next t ∧ t.entry p = { s.entry p with pin := true } ∧ (t.opOf p).map
    (fun o => (o.kind, o.frame)) = some (.promotion, some f) ∧ sameMemory s t) ∧
  (∀ (p w : Nat) (s : State), calm s = true → (s.slotOf p).isSome = true → s.wayOf (p / 256) = some w → s.mayOpen p = true → (s.entry p).state = 1 →
    (s.entry p).scnt ≠ 0 → s.shedFor p = none → s.hot.pinWait.contains p = false → ∃ t, exec (.pinSet p) s = .next t ∧ t.entry p =
    { s.entry p with pin := true } ∧ t.hot.pinWait = s.hot.pinWait ++ [p] ∧ t.opOf p = none ∧ sameMemory s t) ∧
  (∀ (p w : Nat) (s : State), calm s = true → (s.slotOf p).isSome = true → s.wayOf (p / 256) = some w → s.pageServed p = true → ∃ t, exec (.pinClear
    p) s = .next t ∧ t.entry p = { s.entry p with pin := false } ∧ t.hot.pinWait = s.hot.pinWait.filter (· != p) ∧ sameMemory s t) ∧
  (∀ (st : Fin 2) (p nf : Nat) (s : State), calm s = true → (s.entry p).state = 2 → (s.entry p).frame % 2 = st.val → isKeepFrame (s.entry p).frame =
    true → s.mayOpen p = true → s.fillOf p = none → s.shedFor p = some nf → ∃ t, exec (.keepFrameMove st p []) s = .next t ∧ (t.opOf p).map (fun o =>
    (o.kind, o.frame)) = some (.move, some nf) ∧ t.entry p = s.entry p ∧ onlyRegs [] s t) ∧
  (∀ (p w nf : Nat) (o : PageOp) (s : State), calm s = true → s.wayOf (p / 256) = some w → s.opOf p = some o → o.kind = .move → o.phase = .opened →
    o.frame = some nf → o.written = false → (s.entry p).state = 2 → nf ≠ (s.entry p).frame → nf < 2 ^ 25 → s.fillOf p = none → s.marks p = 0 → ∃ t,
    exec (.pageOpCommit p) s = .next t ∧ t.entry p = { s.entry p with frame := nf } ∧ (t.desc nf).valid = (s.desc (s.entry p).frame).valid ∧ (∀ l <
    64, (s.desc (s.entry p).frame).valid.getLsbD l = true → t.stackLine nf l = s.stackLine (s.entry p).frame l) ∧ (t.desc (s.entry p).frame).kind = 0
    ∧ t.opOf p = none ∧ (∀ f l, l < 64 → f ≠ nf → f ≠ (s.entry p).frame → t.stackLine f l = s.stackLine f l)) ∧
  (∀ (s : State), calm s = true → ∃ t, exec (.heatEpoch []) s = .next t ∧ t.hot.heatEpoch = (s.hot.heatEpoch + 1) % 16 ∧ t.fld Reg.HTM_HEAT_CFG_EPOCH
    = (s.hot.heatEpoch + 1) % 16 ∧ s.hot.heatAt + Nat.max 10 (s.fld Reg.HTM_HEAT_CFG_EPOCH_MS) * ms ≤ t.clk ∧ sameMemory s t) ∧
  (∀ (st : Fin 2) (s : State), s.on (Reg.HTC_STS_READY st) = true → s.hot.patrol.length = 2 → ∃ t, exec (.stackPatrolVisit st .none) s = .next t ∧
    t.hot.patrol.getD st 0 = (s.hot.patrol.getD st 0 + 1) % stackLines ∧ t.regs = s.regs ∧ sameMemory s t) ∧
  ∀ (st : Fin 2) (s : State), s.on (Reg.HTC_STS_READY st) = true → s.hot.patrol.length = 2 → ∃ u, exec (.stackPatrolVisit st .corrected) s = .next
    (settled u) ∧ u.hot.patrol.getD st 0 = (s.hot.patrol.getD st 0 + 1) % stackLines ∧ u.fld (Reg.HTC_ECC_CORR st) = satAdd (Reg.HTC_ECC_CORR st).w
    (s.fld (Reg.HTC_ECC_CORR st)) 1 ∧ (u.flt.inbox.map fun r => (r.src, r.inst)) = (s.flt.inbox.map fun r => (r.src, r.inst)) ++ [(0x09, st.val)] ∧
    onlyRegs [Reg.HTC_ECC st] s u

/-- R154: a read job is given to the stitcher of its seam, with the places that it must read; where every stitcher is fenced for 2 ms, the waiting
  read is answered with poison. R174: when every stitch has arrived and the image verifies, its lines are the job's result for a fill, and a read
  that waits for one of them is answered with it. R175: where more stitches are lost than the code recovers, source 0x05 is reported and the page is
  marked poisoned; R22: where the tag fails and no stitch can be named as wrong, source 0x04 is reported, the failure is counted, and the page is
  marked poisoned. -/
def Obligations.ImagesRead : Prop :=
  (∀ (id n : Nat) (j : ReadJob) (s : State), s.job id = some j → j.stitcher = none → s.stitcherFor j.img.seam = some n → s.cond (42 + n) = .on →
    j.use = .fill → (s.cold.jobs.any fun k => k.stitcher.isNone && s.stitcherFor k.img.seam == some n && decide (s.jobRank k < s.jobRank j)) = false
    → ∃ t, exec (.stitcherRead id) s = .next t ∧ (t.job id).map ReadJob.stitcher = some (some n) ∧ (t.job id).map ReadJob.needs = some (s.imageNeeds
    j.img) ∧ onlyRegs [] s t) ∧
  (∀ (id sl x : Nat) (j : ReadJob) (y : Txn) (s : State), calm s = true → s.job id = some j → j.stitcher = none → s.stitcherFor j.img.seam = none →
    j.use = .txn → (s.slices.flatMap fun e => (e.2.txns.filter fun z => z.job == some id).map fun z => (e.1, z.req.id)) = [(sl, x)] → s.txn sl x =
    some y → y.req.kind = .read → y.req.agent = .host 0 0 → ∃ t, exec (.stitcherAllFencedTimeout id) s = .next t ∧ t.job id = none ∧ j.t0 + 2 * ms ≤
    t.clk ∧ t.replies.map (fun r => (r.req.id, r.kind)) = s.replies.map (fun r => (r.req.id, r.kind)) ++ [(x, .data 0 true)] ∧ onlyRegs timeRegs s t)
    ∧
  (∀ (id n : Nat) (j : ReadJob) (b : List Nat) (ls : List Line) (pm : BitVec 64) (s : State), calm s = true → s.job id = some j → j.id = id →
    j.stitcher = some n → j.result = none → (j.needs.any fun p => !(j.got.any fun g => g.1 == p.1 && g.2.1 == p.2)) = false → s.jobShort j = [] →
    j.use = .fill → s.vault.badCopies = [] → s.readImage j = .page b ls pm none → ∃ t, exec (.stitchReadDone id) s = .next t ∧ (t.job id).bind
    ReadJob.result = some (.lines ls pm) ∧ onlyRegs [Reg.CTM_STCH n] s t) ∧
  (∀ (id n sl x : Nat) (j : ReadJob) (b : List Nat) (ls : List Line) (pm : BitVec 64) (y : Txn) (s : State), calm s = true → s.job id = some j → j.id
    = id → j.stitcher = some n → j.result = none → (j.needs.any fun p => !(j.got.any fun g => g.1 == p.1 && g.2.1 == p.2)) = false → s.jobShort j =
    [] → j.use = .txn → s.vault.badCopies = [] → s.readImage j = .page b ls pm none → (s.slices.flatMap fun e => (e.2.txns.filter fun z => z.job ==
    some id).map fun z => (e.1, z.req.id)) = [(sl, x)] → s.txn sl x = some y → y.req.kind = .read → y.req.agent = .host 0 0 → y.phase = .cold → ∃ t,
    exec (.stitchReadDone id) s = .next t ∧ t.job id = none ∧ t.replies.map (fun r => (r.req.id, r.kind)) = s.replies.map (fun r => (r.req.id,
    r.kind)) ++ [(x, .data (if pm.getLsbD y.req.line then 0 else ls.getD y.req.line 0) (pm.getLsbD y.req.line))] ∧ onlyRegs [Reg.CTM_STCH n] s t) ∧
  (∀ (id n : Nat) (j : ReadJob) (s : State), s.job id = some j → j.stitcher = some n → j.result = none → (j.needs.any fun p => !(j.got.any fun g =>
    g.1 == p.1 && g.2.1 == p.2)) = false → s.jobShort j = [] → s.vault.badCopies = [] → s.readImage j = .tag → ∃ u, exec (.stitchReadDone id) s =
    .next (settled u) ∧ (∃ r ∈ u.flt.inbox, r.src = 0x04 ∧ r.inst = n) ∧ u.opAsked .poison j.gpn = true ∧ u.fld Reg.CRY_TAG_POISONED = satAdd
    Reg.CRY_TAG_POISONED.w (s.fld Reg.CRY_TAG_POISONED) 1 ∧ onlyRegs [Reg.CTM_STCH n, Reg.CRY_TAG] s u) ∧
  ∀ (id n : Nat) (j : ReadJob) (s : State), s.job id = some j → j.stitcher = some n → j.result = none → (j.needs.any fun p => !(j.got.any fun g =>
    g.1 == p.1 && g.2.1 == p.2)) = false → s.jobShort j = [] → s.vault.badCopies = [] → s.readImage j = .lost → ∃ u, exec (.stitchReadDone id) s =
    .next (settled u) ∧ (∃ r ∈ u.flt.inbox, r.src = 0x05 ∧ r.inst = n) ∧ u.opAsked .poison j.gpn = true ∧ onlyRegs [Reg.CTM_STCH n] s u

/-- R151: the image of an operation that has one is placed in its stitcher's stream and the operation remembers the place. R157: a seam that stays
  open is filled with padding, which is counted, and leaves the stream empty. R163: the commit of a stored relocation makes its place the page's
  image and counts the relocation, or, where the page's image has moved since the snapshot, is abandoned and counted in place of that; the commit of
  a stored write-back with no line written since makes its place the page's image, the page clean and its mirror free (here with a write counter
  below the point at which R207 advances the epoch). R129: the commit of a promotion whose image has been read gives a page still in STATE 1 its
  frame, with every line valid. R165: with a full journal the commit waits and JRNL_STALL says so. R93: a release gives an unpinned clean page back
  to STATE 1. -/
def Obligations.ImagesAppendedAndCommitted : Prop :=
  (∀ (st : Fin 16) (p : Nat) (o : PageOp) (img : List Nat) (c loc : Image) (s1 : State) (s : State), s.opOf p = some o → o.stitcher = some st.val →
    s.on (Reg.CTM_STCH_FENCED st) = false → s.on Reg.CTM_STS_READY = true → s.outranked o = false → s.opImage o = some (img, c) → placeImage
    (streamKey st (o.kind == .relocation)) p img (useDomain none (42 + st) (usePage p (useSlot p s))) = some (loc, s1) → ∃ t, exec (.imageAppend st
    p) s = .next t ∧ (t.opOf p).map PageOp.phase = some .placed ∧ (t.opOf p).map PageOp.loc = some { loc with wcnt := c.wcnt, epb := c.epb } ∧ t.regs
    = s1.regs ∧ t.cold.streams = s1.cold.streams ∧ sameMemory s1 t) ∧
  (∀ (st : Fin 16) (g : Nat) (s : State), (s.stream (streamKey st false)).bufs.isEmpty = false → (s.stream (streamKey st false)).bufs.length < 14 →
    (s.stream (streamKey st false)).seg = some g → ∃ t, exec (.seamSealTimeout st .W) s = .next t ∧ (t.stream (streamKey st false)).bufs = [] ∧ t.fld
    Reg.CTM_PAD_CNT_COUNT = satAdd Reg.CTM_PAD_CNT_COUNT.w (s.fld Reg.CTM_PAD_CNT_COUNT) (14 - (s.stream (streamKey st false)).bufs.length) ∧
    (s.stream (streamKey st false)).firstAt + clamp 1 1000 (s.fld Reg.CTM_SEAL_CFG_SEAL_US) * 1000 ≤ t.clk ∧ sameMemory s t ∧ sameRegsBut
    ([Reg.CTM_PAD_CNT, Reg.CTM_SEAM_WR] ++ timeRegs) s t) ∧
  (∀ (p w : Nat) (o : PageOp) (s : State), calm s = true → s.opOf p = some o → o.kind = .relocation → o.phase = .placed → s.imageStored o.loc = true
    → s.journalFull = false → s.wayOf (p / 256) = some w → (s.entry p).seam = (unpackEntry o.snap).seam → (s.entry p).spos = (unpackEntry
    o.snap).spos → o.loc.seam < 2 ^ 32 → o.loc.spos < 16 → o.loc.scnt < 32 → ∃ t, exec (.pageOpCommit p) s = .next t ∧ (t.entry p).image =
    { o.loc with wcnt := (s.entry p).wcnt, epb := (s.entry p).epb } ∧ (t.entry p).state = (s.entry p).state ∧ t.opOf p = none ∧ t.fld
    Reg.CTM_RELOC_CNT_COUNT = satAdd Reg.CTM_RELOC_CNT_COUNT.w (s.fld Reg.CTM_RELOC_CNT_COUNT) 1 ∧ t.cold.nextSeq = s.cold.nextSeq + 1 ∧ onlyRegs
    [Reg.CTM_STS, Reg.CTM_RELOC_CNT] s t) ∧
  (∀ (p : Nat) (o : PageOp) (s : State), calm s = true → s.opOf p = some o → o.kind = .relocation → o.phase = .placed → s.imageStored o.loc = true →
    s.journalFull = false → (s.entry p).seam ≠ (unpackEntry o.snap).seam ∨ (s.entry p).spos ≠ (unpackEntry o.snap).spos → ∃ t, exec (.pageOpCommit p)
    s = .next t ∧ t.entry p = s.entry p ∧ t.opOf p = none ∧ t.fld Reg.CTM_ABANDON_CONDITION = satAdd Reg.CTM_ABANDON_CONDITION.w (s.fld
    Reg.CTM_ABANDON_CONDITION) 1 ∧ t.cold.journal = s.cold.journal ∧ onlyRegs [Reg.CTM_STS, Reg.CTM_ABANDON] s t) ∧
  (∀ (p w mf : Nat) (o : PageOp) (s : State), calm s = true → s.opOf p = some o → o.kind = .writeback → o.phase = .placed → o.written = false →
    s.imageStored o.loc = true → s.journalFull = false → s.wayOf (p / 256) = some w → (s.entry p).state = 3 → (s.desc (s.entry p).frame).dirty = 0 →
    (s.desc (s.entry p).frame).partner = some mf → mf ≠ (s.entry p).frame → s.hot.hints.contains p = false → s.marks p = 0 → o.loc.seam < 2 ^ 32 →
    o.loc.spos < 16 → o.loc.scnt < 32 → o.loc.wcnt < 0xF00000 → ∃ t, exec (.pageOpCommit p) s = .next t ∧ t.entry p =
    { s.entry p with state := 2, seam := o.loc.seam, spos := o.loc.spos, scnt := o.loc.scnt, wcnt := o.loc.wcnt, epb := o.loc.epb } ∧ t.opOf p = none
    ∧ (t.desc (s.entry p).frame).wb = false ∧ (t.desc (s.entry p).frame).partner = none ∧ (t.desc mf).kind = 0 ∧ t.cold.nextSeq = s.cold.nextSeq + 1
    ∧ (∀ f l, l < 64 → f ≠ mf → t.stackLine f l = s.stackLine f l) ∧ sameRegsBut [Reg.CTM_STS] s t) ∧
  (∀ (p w id f : Nat) (o : PageOp) (ls : List Line) (pm : BitVec 64) (s : State), calm s = true → s.opOf p = some o → o.kind = .promotion → o.phase =
    .reading id → o.frame = some f → (s.job id).bind ReadJob.result = some (.lines ls pm) → s.wayOf (p / 256) = some w → (s.entry p).state = 1 →
    (s.entry p).pin = false → f < 2 ^ 25 → ∃ t, exec (.pageOpCommit p) s = .next t ∧ t.entry p = { s.entry p with state := 2, frame := f } ∧ (t.desc
    f).valid = BitVec.allOnes 64 ∧ (∀ l < 64, t.stackLine f l = ls.getD l 0) ∧ (∀ g l, l < 64 → g ≠ f → t.stackLine g l = s.stackLine g l) ∧ t.opOf p
    = none ∧ t.job id = none ∧ t.fld Reg.HTM_PROMO_CNT_COUNT = satAdd Reg.HTM_PROMO_CNT_COUNT.w (s.fld Reg.HTM_PROMO_CNT_COUNT) 1 ∧ sameRegsBut
    [Reg.HTM_PROMO_CNT] s t) ∧
  (∀ (p : Nat) (o : PageOp) (s : State), s.opOf p = some o → o.kind = .discard → s.journalFull = true → ∃ t, exec (.pageOpCommit p) s = .next t ∧
    t.on Reg.CTM_STS_JRNL_STALL = true ∧ t.opOf p = some o ∧ onlyRegs [Reg.CTM_STS] s t) ∧
  ∀ (p w : Nat) (o : PageOp) (s : State), calm s = true → s.opOf p = some o → o.kind = .release → (s.cold.ops.filter fun x => x.gpn == p) = [o] →
    s.wayOf (p / 256) = some w → (s.entry p).state = 2 → (s.entry p).pin = false → s.writeOpen p = false → s.marks p = 0 → ∃ t, exec (.pageOpCommit
    p) s = .next t ∧ (t.entry p).state = 1 ∧ (t.entry p).image = (s.entry p).image ∧ t.opOf p = none ∧ (t.desc (s.entry p).frame).kind = 0 ∧ t.fld
    Reg.HTM_DEMO_CNT_COUNT = satAdd Reg.HTM_DEMO_CNT_COUNT.w (s.fld Reg.HTM_DEMO_CNT_COUNT) 1 ∧ sameRegsBut [Reg.HTM_DEMO_CNT] s t

/-- R164: a drain takes the records that wait, at least 1 ms after the oldest where they are fewer than 112, and moves on to the next journal seam,
  the first one after the last with the pass advanced; R165: while the journal has no seam left between its head and its tail it changes nothing.
  R201: a group write begins with a pending-update record for each modified block and stores nothing; its second step advances the counters of its
  root blocks; its fourth drops the pending-update records; and a group that is written whole has no modified block left, with a record that says up
  to which SEQ. R167: recovery whose journal seams verify sets READY and takes the distress stage up from stage 0; R203: a journal seam that does not
  verify sets LEDGER_FATAL and reports source 0x0F. -/
def Obligations.JournalAndLedger : Prop :=
  (∀ (e : Nat × BitVec 256) (l : List (Nat × BitVec 256)) (k : BitVec 256) (s : State), s.journalWaiting = e :: l → l.length < 111 →
    s.vault.ledgerKey = some k → s.vault.badCopies = [] → s.journalHead - s.journalTail < s.journalSeams → ∃ t, exec (.journalSeamDrain) s = .next t
    ∧ e.1 + ms ≤ t.clk ∧ t.cold.jseam = (if s.journalSeams ≤ s.cold.jseam + 1 then 0 else s.cold.jseam + 1) ∧ t.vault.jpass = (if s.journalSeams ≤
    s.cold.jseam + 1 then s.vault.jpass + 1 else s.vault.jpass) ∧ t.cold.drained = ((e :: l).map Prod.snd).foldl (fun a r => Nat.max a (recSeq r))
    s.cold.drained ∧ t.hot = s.hot) ∧
  (∀ (s : State), s.journalSeams ≤ s.journalHead - s.journalTail → exec (.journalSeamDrain) s = .next (s)) ∧
  (∀ (g : Nat) (s : State), calm s = true → s.groupTarget g = (g, none) → (s.cold.groups.any fun x => x.group == g) = false → s.mayWriteGroup g =
    true → ((s.modifiedBlocks g).all fun m => checkRoot (m.1 / 128) s == s) = true → ∃ t, exec (.ledgerGroupWrite g 0) s = .next t ∧
    t.vault.updates.map PendingUpdate.block = s.vault.updates.map PendingUpdate.block ++ (s.modifiedBlocks g).map Prod.fst ∧ t.cold.groups.map
    GroupRun.group = s.cold.groups.map GroupRun.group ++ [g] ∧ onlyRegs [] s t) ∧
  (∀ (g : Nat) (x : GroupRun) (s : State), calm s = true → s.groupTarget g = (g, none) → s.cold.groups = [x] → x.group = g → x.step = 1 → ∃ t, exec
    (.ledgerGroupWrite g 1) s = .next t ∧ t.cold.groups.map GroupRun.step = [2] ∧ (∀ u ∈ s.vault.updates, (∃ e ∈ x.blocks, e.block / 128 = u.root) →
    (s.vault.updates.find? fun v => v.root == u.root) = some u → s.rootCounter u.root = u.oldRoot → t.rootCounter u.root = u.oldRoot + 1) ∧ onlyRegs
    [] s t) ∧
  (∀ (g : Nat) (x : GroupRun) (s : State), calm s = true → s.groupTarget g = (g, none) → s.cold.groups = [x] → x.group = g → x.step = 3 → ∃ t, exec
    (.ledgerGroupWrite g 1) s = .next t ∧ t.vault.updates = s.vault.updates.filter (fun u => !(x.blocks.any fun e => e.block == u.block)) ∧
    t.cold.groups.map GroupRun.step = [4] ∧ onlyRegs [] s t) ∧
  (∀ (g : Nat) (s : State), calm s = true → s.groupTarget g = (g, none) → (s.cold.groups.any fun x => x.group == g) = false → s.mayWriteGroup g =
    true → ((s.modifiedBlocks g).all fun m => checkRoot (m.1 / 128) s == s) = true → ∃ t, exec (.ledgerGroupWrite g 5) s = .next t ∧ t.modifiedBlocks
    g = [] ∧ SMap.get 0 t.cold.applied g = s.cold.nextSeq - 1 ∧ t.cold.nextSeq = s.cold.nextSeq + 1 ∧ (t.cold.groups.any fun x => x.group == g) =
    false ∧ (∀ f i, t.stackLine f i = s.stackLine f i)) ∧
  (∀ (s : State), calm s = true → s.on Reg.CTM_STS_RECOVERING = true → s.fld Reg.RST_STS_LEVEL ≠ 4 → s.vault.badCopies = [] → s.vault.updates = [] →
    s.cold.discarding = [] → checkJournal ((List.range (s.journalHead - s.journalTail)).map (s.journalTail + ·)) s = (true, s) → ∃ t, exec
    (.ledgerRecoveryDone []) s = .next t ∧ t.on Reg.CTM_STS_READY = true ∧ t.on Reg.CTM_STS_RECOVERING = false ∧ t.fld Reg.CTM_DIST_STS_STAGE ≤ 1 ∧
    sameMemory s t) ∧
  ∀ (s : State), s.on Reg.CTM_STS_RECOVERING = true → s.vault.badCopies = [] → (checkJournal ((List.range (s.journalHead - s.journalTail)).map
    (s.journalTail + ·)) s).1 = false → ∃ u, exec (.ledgerRecoveryDone []) s = .next (settled u) ∧ u.on Reg.CRY_STS_LEDGER_FATAL = true ∧ u.on
    Reg.CTM_STS_RECOVERING = false ∧ u.on Reg.CTM_STS_READY = s.on Reg.CTM_STS_READY ∧ (∃ r ∈ u.flt.inbox, r.src = 0x0F) ∧ onlyRegs [Reg.CRY_STS,
    Reg.CTM_STS, Reg.CRY_LAUTH] s u

/-- R180, Table 5.9: below WM_DISTRESS with an accepted extent, stage 0 leads to stage 1; F back at twice WM_DISTRESS ends the distress; F below 0
  leads from stage 1 to stage 2 while tack remains, and to stage 3 where none remains; the deadline leads to stage 3 while F is below WM_DISTRESS;
  each change of stage raises event 0x0110. R181: in stage 2 with F below 0 a block of tack is borrowed, with event 0x0111, and it is returned, with
  event 0x0112, when F allows and it holds nothing. R182: in stage 3 the newest accepted extent that is not frozen is frozen, with event 0x0113.
  R178: CTM_RATIO follows at each full second. -/
def Obligations.CapacityDistress : Prop :=
  (∀ (s : State), s.on Reg.CTM_STS_READY = true → s.fld Reg.CTM_DIST_STS_STAGE = 0 → s.freeStitches < (s.wmDistress * gibStitches : Nat) →
    s.newestExtents.isEmpty = false → ∃ t, exec (.distressStageEntry) s = .next t ∧ t.fld Reg.CTM_DIST_STS_STAGE = 1 ∧ t.cold.distressT0 = s.clk ∧
    t.flt = (s.vendor 1 0x0110 [1]).flt ∧ onlyRegs [Reg.CTM_DIST_STS] s t) ∧
  (∀ (s : State), s.on Reg.CTM_STS_READY = true → 1 ≤ s.fld Reg.CTM_DIST_STS_STAGE → (2 * s.wmDistress * gibStitches : Nat) ≤ s.freeStitches → ∃ t,
    exec (.distressStageEntry) s = .next t ∧ t.fld Reg.CTM_DIST_STS_STAGE = 0 ∧ t.flt = (s.vendor 1 0x0110 [0]).flt ∧ t.lds = (s.vendor 1 0x0110
    [0]).lds ∧ onlyRegs [Reg.CTM_DIST_STS] s t) ∧
  (∀ (s : State), s.on Reg.CTM_STS_READY = true → s.fld Reg.CTM_DIST_STS_STAGE = 1 → s.freeStitches < 0 → s.tackLeft ≠ 0 → ∃ t, exec
    (.distressStageEntry) s = .next t ∧ t.fld Reg.CTM_DIST_STS_STAGE = 2 ∧ t.flt = (s.vendor 1 0x0110 [2]).flt ∧ t.lds = (s.vendor 1 0x0110 [2]).lds
    ∧ onlyRegs [Reg.CTM_DIST_STS] s t) ∧
  (∀ (s : State), s.on Reg.CTM_STS_READY = true → s.fld Reg.CTM_DIST_STS_STAGE = 1 ∨ s.fld Reg.CTM_DIST_STS_STAGE = 2 → s.freeStitches < 0 →
    s.tackLeft = 0 → ∃ t, exec (.distressStageEntry) s = .next t ∧ t.fld Reg.CTM_DIST_STS_STAGE = 3 ∧ t.flt = (s.vendor 1 0x0110 [3]).flt ∧ t.lds =
    (s.vendor 1 0x0110 [3]).lds ∧ onlyRegs [Reg.CTM_DIST_STS] s t) ∧
  (∀ (b : Nat) (s : State), s.borrowable = some b → s.fld Reg.CTM_DIST_STS_STAGE = 2 → s.freeStitches < 0 → s.fld Reg.CTM_TACK_BORROWED < 7 → ∃ t,
    exec (.tackBorrow) s = .next t ∧ t.on (Reg.DCM_BLK_BORROWED b) = true ∧ t.fld Reg.CTM_TACK_BORROWED = s.fld Reg.CTM_TACK_BORROWED + 1 ∧ t.fld
    (Reg.DCM_BLK_VALID b) = s.fld (Reg.DCM_BLK_VALID b) ∧ t.flt = (s.vendor 1 0x0111 [t.tackLeft]).flt ∧ onlyRegs [Reg.DCM_BLK b, Reg.CTM_TACK] s t)
    ∧
  (∀ (b : Nat) (s : State), ((List.range 4).find? fun i => s.on (Reg.DCM_BLK_BORROWED i)) = some b → (s.wmDistress * gibStitches : Nat) +
    s.stepStitches < s.freeStitches → (s.cold.segs.filter fun e => decide (s.blockFirst b ≤ e.1) && decide (e.1 < s.blockFirst b + s.blockSegs) &&
    e.2.st != .free).isEmpty = true → s.fld Reg.CTM_TACK_BORROWED ≠ 0 → ∃ t, exec (.tackReturn) s = .next t ∧ t.on (Reg.DCM_BLK_BORROWED b) = false ∧
    t.fld Reg.CTM_TACK_BORROWED = s.fld Reg.CTM_TACK_BORROWED - 1 ∧ t.flt = (s.vendor 1 0x0112 [t.tackLeft]).flt ∧ onlyRegs [Reg.DCM_BLK b,
    Reg.CTM_TACK] s t) ∧
  (∀ (s : State), s.fld Reg.CTM_DIST_STS_STAGE = 1 ∨ s.fld Reg.CTM_DIST_STS_STAGE = 2 → s.freeStitches < (s.wmDistress * gibStitches : Nat) → ∃ t,
    exec (.distressDeadline) s = .next t ∧ t.fld Reg.CTM_DIST_STS_STAGE = 3 ∧ s.cold.distressT0 + zeroAsOne (s.fld Reg.CTM_DIST_CFG_DEADLINE_S) * sec
    ≤ t.clk ∧ onlyRegs (Reg.CTM_DIST_STS :: timeRegs) s t) ∧
  (∀ (s : State), s.fld Reg.CTM_DIST_STS_STAGE = 1 ∨ s.fld Reg.CTM_DIST_STS_STAGE = 2 → (s.wmDistress * gibStitches : Nat) ≤ s.freeStitches → ∃ t,
    exec (.distressDeadline) s = .next t ∧ t.fld Reg.CTM_DIST_STS_STAGE = s.fld Reg.CTM_DIST_STS_STAGE ∧ onlyRegs timeRegs s t) ∧
  (∀ (k g : Nat) (e : Extent) (s : State), calm s = true → s.fld Reg.CTM_DIST_STS_STAGE = 3 → s.freeStitches < (s.wmDistress * gibStitches : Nat) →
    s.newestExtents.find? (fun x => !x.2.2.frozen) = some (k, g, e) → e.share = none → (∀ i : Fin 16, (s.ld i).releasing = []) → (∀ h : Fin 4,
    (s.head h).pen = []) → ∃ t, exec (.extentFreeze) s = .next t ∧ (t.ld k).extents = (s.ld k).extents.map (fun y => if y.gib = g then
    { y with frozen := true } else y) ∧ t.cold.lastFreeze = t.clk ∧ (s.cold.lastFreeze ≠ 0 → s.cold.lastFreeze + sec ≤ t.clk) ∧ onlyRegs
    (Reg.CTM_DIST_STS :: timeRegs) s t) ∧
  ∀ (s : State), ∃ t, exec (.ratioRecompute) s = .next t ∧ t.fld Reg.CTM_RATIO_RHO = Nat.min 65535 s.measured ∧ t.clk = (s.clk / sec + 1) * sec ∧
    onlyRegs (Reg.CTM_RATIO :: timeRegs) s t

/-- R170: below LOW in hardware mode the segment that R170 picks becomes a victim and GC_ACTIVE is set; R171: a relocation opens for a live image in
  it. R173: in host-assisted mode below CRIT the hardware does the same, with event 0x0131 when it begins; above these points, and in the other mode,
  neither command changes anything. R172: a sealed segment with no live stitch, no outstanding read and no write to come is free again; one with a
  live stitch stays. -/
def Obligations.GarbageCollection : Prop :=
  (∀ (g : Nat) (s : State), s.on Reg.CTM_GC_CFG_MODE_ACT = false → s.switching 1 = false → s.on Reg.CTM_STS_READY = true → s.freeSegs < s.gcLow →
    s.pickVictim = some g → ((s.writtenSeams g).flatMap s.liveIn) = [] → ∃ u, exec (.gcStart) s = .next (settled u) ∧ (u.segment g).st = .victim ∧
    u.cold.victims.contains g = true ∧ u.on Reg.CTM_STS_GC_ACTIVE = true ∧ u.cold.ops = s.cold.ops ∧ onlyRegs [Reg.CTM_STS] s u) ∧
  (∀ (g p : Nat) (s : State), s.on Reg.CTM_GC_CFG_MODE_ACT = false → s.switching 1 = false → s.on Reg.CTM_STS_READY = true → s.freeSegs < s.gcLow →
    s.pickVictim = some g → ((s.writtenSeams g).flatMap s.liveIn).eraseDups = [p] → s.mayOpen p = true → ∃ u, exec (.gcStart) s = .next (settled u) ∧
    (u.segment g).st = .victim ∧ u.cold.victims.contains g = true ∧ (u.opOf p).map PageOp.kind = some .relocation ∧ u.entry p = s.entry p ∧ onlyRegs
    [Reg.CTM_STS] s u) ∧
  (∀ (g : Nat) (s : State), s.on Reg.CTM_GC_CFG_MODE_ACT = true → s.switching 1 = false → s.on Reg.CTM_STS_READY = true → s.on Reg.CTM_STS_GC_ACTIVE
    = false → s.freeSegs < s.gcCrit → s.pickVictim = some g → ((s.writtenSeams g).flatMap s.liveIn) = [] → ∃ u, exec (.gcHostFallback) s = .next
    (settled u) ∧ (u.segment g).st = .victim ∧ u.cold.victims.contains g = true ∧ u.on Reg.CTM_STS_GC_ACTIVE = true ∧ u.flt = (s.vendor 1 0x0131
    []).flt ∧ onlyRegs [Reg.CTM_STS] s u) ∧
  (∀ (s : State), s.on Reg.CTM_GC_CFG_MODE_ACT = true ∨ (s.gcLow ≤ s.freeSegs ∧ s.on Reg.CTM_STS_GC_ACTIVE = false) → exec (.gcStart) s = .next (s))
    ∧
  (∀ (s : State), s.on Reg.CTM_GC_CFG_MODE_ACT = false ∨ (s.gcCrit ≤ s.freeSegs ∧ s.on Reg.CTM_STS_GC_ACTIVE = false) → exec (.gcHostFallback) s =
    .next (s)) ∧
  (∀ (g : Nat) (s : State), (s.segment g).st = .sealed ∨ (s.segment g).st = .victim → (s.segment g).live = 0 → (s.slices.any fun e => e.2.txns.any
    fun t => (unpackEntry t.snap).image.scnt != 0 && segOf (unpackEntry t.snap).image.seam == g) = false → (s.cold.jobs.any fun j => segOf j.img.seam
    == g || j.needs.any fun p => segOf p.1 == g) = false → (s.cold.writes.any fun w => segOf w.seam == g) = false → s.uncommitted g = false → s.on
    Reg.CTM_GC_CFG_MODE_ACT = false → ∃ t, exec (.segmentFree g) s = .next t ∧ (t.segment g).st = .free ∧ (t.segment g).live = 0 ∧
    t.cold.victims.contains g = false ∧ (∀ k, k ≠ g → t.segment k = s.segment k) ∧ onlyRegs [Reg.CTM_STS] s t) ∧
  ∀ (g : Nat) (s : State), (s.segment g).live ≠ 0 → exec (.segmentFree g) s = .next (s)

/-- R188, R190: in hardware mode a window closes WIN_S after memory became active; an LD with no injected key then gets one from the TRNG, a free
  value, or none while the TRNG's health test fails, and its memory is then disabled; an LD with an injected key keeps it. R192: in host-assisted
  mode the time closes no window. R190: a failed health test clears TRNG_OK and is reported as source 0x25; a passed one generates the keys withheld.
  -/
def Obligations.KeysComeFromTheWindow : Prop :=
  (∀ (k : Fin 16) (s : State), s.kpHost = false → s.windowOpen k = true → s.on Reg.RST_STS_MEM_ACTIVE = true → s.hasRoot k = false → s.on
    Reg.CRY_STS_TRNG_OK = true → ∃ t, exec (.keyWindowTimeout k) s = .next t ∧ s.vault.winStart + zeroAsOne (s.fld Reg.CRY_KP_CFG_WIN_S) * sec ≤
    t.clk ∧ t.windowOpen k = false ∧ t.hasRoot k = true ∧ t.free = s.free + 1 ∧ t.fld Reg.CRY_KEY_SRC_SRC / 4 ^ k.val % 4 = 1 ∧ (∀ n : Nat, n ≠ k →
    SMap.get none t.vault.roots n = SMap.get none s.vault.roots n) ∧ onlyRegs ([Reg.CRY_INJ, Reg.CRY_KEY_SRC] ++ timeRegs) s t) ∧
  (∀ (k : Fin 16) (s : State), s.kpHost = false → s.windowOpen k = true → s.on Reg.RST_STS_MEM_ACTIVE = true → s.hasRoot k = false → s.on
    Reg.CRY_STS_TRNG_OK = false → ∃ t, exec (.keyWindowTimeout k) s = .next t ∧ s.vault.winStart + zeroAsOne (s.fld Reg.CRY_KP_CFG_WIN_S) * sec ≤
    t.clk ∧ t.windowOpen k = false ∧ t.vault.withheld = s.vault.withheld ++ [k.val] ∧ t.vault.roots = s.vault.roots ∧ t.free = s.free ∧ (t.ld
    k).memActive = false ∧ onlyRegs (Reg.CRY_INJ :: timeRegs) s t) ∧
  (∀ (k : Fin 16) (s : State), s.kpHost = false → s.windowOpen k = true → s.on Reg.RST_STS_MEM_ACTIVE = true → s.hasRoot k = true → ∃ t, exec
    (.keyWindowTimeout k) s = .next t ∧ s.vault.winStart + zeroAsOne (s.fld Reg.CRY_KP_CFG_WIN_S) * sec ≤ t.clk ∧ t.windowOpen k = false ∧ t.vault =
    s.vault ∧ t.free = s.free ∧ onlyRegs (Reg.CRY_INJ :: timeRegs) s t) ∧
  (∀ (k : Fin 16) (s : State), s.kpHost = true ∨ s.windowOpen k = false → exec (.keyWindowTimeout k) s = .next (s)) ∧
  (∀ (s : State), ∃ u, exec (.trngHealthFailure) s = .next (settled u) ∧ u.on Reg.CRY_STS_TRNG_OK = false ∧ (u.flt.inbox.map fun r => (r.src,
    r.inst)) = (s.flt.inbox.map fun r => (r.src, r.inst)) ++ [(0x25, 0)] ∧ u.vault = s.vault ∧ onlyRegs [Reg.CRY_STS] s u) ∧
  ∀ (k : Nat) (s : State), s.on Reg.RST_STS_MEM_ACTIVE = false → s.vault.withheld = [k] → s.vault.ledgerWithheld = true → ∃ t, exec
    (.trngHealthTestPass) s = .next t ∧ t.on Reg.CRY_STS_TRNG_OK = true ∧ t.vault.withheld = [] ∧ t.vault.ledgerWithheld = false ∧ t.hasRoot k = true
    ∧ t.vault.ledgerKey.isSome = true ∧ t.free = s.free + 2 ∧ onlyRegs [Reg.CRY_STS, Reg.CRY_KEY_SRC] s t

/-- R210: a queued slot starts while fewer than MAX are active; R211: with a checkpoint where it begins anew, and after its last checkpoint where it
  was cut short. R209: the walk opens the re-encryption of the next page of the unit under the old epoch, here a page of STATE 1 or 2, and a unit
  with none left is passed over. R211: each 64 MiB passed is checkpointed in the journal. R209: the pass that finds no page under the old epoch ends
  the re-encryption, counts it and frees its register. R216: the overwrite's end clears every location of the DIMMs in service but those named as
  failed, and the operation's reply names the slots that were not overwritten. -/
def Obligations.ReencryptionWalksTheSlot : Prop :=
  (∀ (k : Nat) (r : Reenc) (j : Nat) (s : State), (s.vault.reenc.find? fun r => !r.active) = some r → r.slot = k → ((List.range 4).find? fun j =>
    !s.on (Reg.CRY_REENC_SLOT_VALID j)) = some j → s.reencActive < s.reencMax → s.on Reg.CTM_STS_READY = true → s.journalFull = false → k < 256 → ∃
    t, exec (.reencSlotStart k) s = .next t ∧ (∀ x ∈ t.vault.reenc, x.slot = k → x.active = true) ∧ t.on (Reg.CRY_REENC_SLOT_VALID j) = true ∧ t.fld
    (Reg.CRY_REENC_SLOT_SLOT j) = k ∧ t.fld (Reg.CRY_REENC_SLOT_DONE j) = r.done % 32 ∧ t.cold.nextSeq = s.cold.nextSeq + (if r.done = 0 then 1 else
    0) ∧ onlyRegs [Reg.CRY_REENC_SLOT j] s t) ∧
  (∀ (k : Nat) (r : Reenc) (s : State), s.reencOf k = some r → r.active = true → r.next = Nat.min pagesPerGib ((r.done + 1) * 16384) → s.on
    Reg.CTM_STS_READY = true → ∃ t, exec (.reencPageOpen k) s = .next t ∧ (t.reencOf k).map Reenc.next = some r.next ∧ t.cold = s.cold ∧ t.hot =
    s.hot ∧ onlyRegs [] s t) ∧
  (∀ (k p i : Nat) (r : Reenc) (s : State), calm s = true → s.reencOf k = some r → r.active = true → s.on Reg.CTM_STS_READY = true → ((List.range
    (Nat.min pagesPerGib ((r.done + 1) * 16384) - r.next)).find? fun i => s.stale k (s.slotFirst k + r.next + i)) = some i → p = s.slotFirst k +
    r.next + i → (s.entry p).state < 3 → s.mayOpen p = true → ∃ t, exec (.reencPageOpen k) s = .next t ∧ (t.reencOf k).map Reenc.next = some (r.next
    + i + 1) ∧ (t.opOf p).map PageOp.kind = some .reenc ∧ t.entry p = s.entry p ∧ onlyRegs [] s t) ∧
  (∀ (k : Nat) (r : Reenc) (j : Nat) (s : State), s.reencOf k = some r → r.active = true → r.done < 16 → r.next = (r.done + 1) * 16384 →
    s.journalFull = false → s.reencReg k = some j → j < 4 → ∃ t, exec (.reencCheckpoint k) s = .next t ∧ (t.reencOf k).map Reenc.done = some (r.done
    + 1) ∧ t.fld (Reg.CRY_REENC_SLOT_DONE j) = (r.done + 1) % 32 ∧ t.cold.nextSeq = s.cold.nextSeq + 1 ∧ t.vault.epochs = s.vault.epochs ∧ onlyRegs
    [Reg.CRY_REENC_SLOT j] s t) ∧
  (∀ (k : Nat) (r : Reenc) (j : Nat) (s : State), s.reencOf k = some r → r.active = true → r.done = 16 → r.again = false → s.reencReg k = some j → j
    < 4 → (∀ p, s.stale k p = false) → ∃ t, exec (.reencFinalPass k) s = .next t ∧ (t.reencOf k).isSome = false ∧ (t.epochAt k).reenc = false ∧
    (t.epochAt k).epoch = (s.epochAt k).epoch ∧ t.on (Reg.CRY_REENC_SLOT_VALID j) = false ∧ t.fld Reg.CRY_REENC_DONE_COUNT = satAdd
    Reg.CRY_REENC_DONE_COUNT.w (s.fld Reg.CRY_REENC_DONE_COUNT) 1 ∧ onlyRegs [Reg.CRY_REENC_SLOT j, Reg.CRY_REENC_DONE] s t) ∧
  ∀ (failed : List (Fin 32)) (s : State), s.rst.overwrite = true → ((List.range 16).all fun c => s.on (Reg.DCC_STS_READY c) || s.on
    (Reg.DCC_STS_FENCED c)) = true → ∃ t, exec (.overwriteDone failed) s = .next t ∧ t.rst.overwrite = false ∧ t.on Reg.CRY_STS_WIPING = false ∧ (∀
    seam ch, ch < 16 → t.dimmStitch seam ch = if s.slotState ch (s.slotOfSeam seam) = 3 ∧ (failed.any fun k => k.val == 2 * ch + s.slotOfSeam seam) =
    false then 0 else s.dimmStitch seam ch) ∧ (∃ code names, t.out = .reply none code names :: s.out ∧ ∀ n, n ∈ names ↔ n < 32 ∧ s.slotState (n / 2)
    (n % 2) ≠ 0 ∧ (s.slotState (n / 2) (n % 2) ≠ 3 ∨ (failed.any fun k => k.val == n) = true)) ∧ (∀ f l, t.stackLine f l = s.stackLine f l) ∧
    sameRegsBut [Reg.CRY_STS] s t

/-- R275, R276: a request that breaks a rule of R263, or that the model refuses, is answered with the first code that applies and counts as refused.
  R276, R277: one that no check refuses takes the first free slot: in hardware mode it is admitted at once, Pinning where its range is to be pinned
  and Active otherwise (Table 8.6), and in host-assisted mode it waits there for Confirm Cinch. R277: a confirmation admits it; a refusal, or
  HOST_WAIT_MS without an answer, frees its slot and answers it with code 9. R280: a release frees the slot, and of a range that is not pinned it
  changes nothing else. -/
def Obligations.CinchesAreAskedFor : Prop :=
  (∀ (via : CmdPath) (r : CinchRequest) (s : State), anyLdPath via = true → plazaTakes s = true → s.switching 7 = false → (s.ruleCode (ownLd via) r
    == 8) = true → ∃ u, exec (.requestCinch via r) s = .next (settled u) ∧ u.out = .reply (ownLd via) rcSuccess (cinchReply 8 0 0 (0, 0, 0)) :: s.out
    ∧ u.qos = s.qos ∧ u.fld Reg.QOS_REFUSE_CNT_COUNT = satAdd Reg.QOS_REFUSE_CNT_COUNT.w (s.fld Reg.QOS_REFUSE_CNT_COUNT) 1 ∧ onlyRegs
    [Reg.QOS_REFUSE_CNT, Reg.MGT_CMD_CNT] s u) ∧
  (∀ (via : CmdPath) (r : CinchRequest) (s : State), anyLdPath via = true → plazaTakes s = true → s.switching 7 = false → s.ruleCode (ownLd via) r ≠
    8 → s.ruleCode (ownLd via) r ≠ 0 → ∃ u, exec (.requestCinch via r) s = .next (settled u) ∧ u.out = .reply (ownLd via) rcSuccess (cinchReply
    (s.ruleCode (ownLd via) r) 0 0 (s.limits s.inChecks { askedCinch r with via := via })) :: s.out ∧ u.qos = s.qos ∧ u.fld Reg.QOS_REFUSE_CNT_COUNT
    = satAdd Reg.QOS_REFUSE_CNT_COUNT.w (s.fld Reg.QOS_REFUSE_CNT_COUNT) 1 ∧ onlyRegs [Reg.QOS_REFUSE_CNT, Reg.MGT_CMD_CNT] s u) ∧
  (∀ (via : CmdPath) (r : CinchRequest) (s : State), anyLdPath via = true → plazaTakes s = true → s.switching 7 = false → s.ruleCode (ownLd via) r =
    0 → (s.modelCode { askedCinch r with via := via }).1 ≠ 0 → ∃ u, exec (.requestCinch via r) s = .next (settled u) ∧ u.out = .reply (ownLd via)
    rcSuccess (cinchReply (s.modelCode { askedCinch r with via := via }).1 (s.modelCode { askedCinch r with via := via }).2 0 (s.limits s.inChecks
    { askedCinch r with via := via })) :: s.out ∧ u.qos = s.qos ∧ u.fld Reg.QOS_REFUSE_CNT_COUNT = satAdd Reg.QOS_REFUSE_CNT_COUNT.w (s.fld
    Reg.QOS_REFUSE_CNT_COUNT) 1 ∧ onlyRegs [Reg.QOS_REFUSE_CNT, Reg.MGT_CMD_CNT] s u) ∧
  (∀ (via : CmdPath) (r : CinchRequest) (i : Fin 64) (s : State), anyLdPath via = true → plazaTakes s = true → s.switching 7 = false → s.ruleCode
    (ownLd via) r = 0 → s.modelCode { askedCinch r with via := via } = (0, 0) → ((List.range 64).find? fun i => !(s.slotsHeld.any fun e => e.1 == i))
    = some i.val → s.on Reg.QOS_ADM_CFG_MODE_ACT = false → s.fld Reg.PWR_STS_STATE < 2 → ∃ u, exec (.requestCinch via r) s = .next (settled u) ∧
    (u.cinch i).st = (if r.pin then .pinning else .active) ∧ (u.cinch i).ld = r.ld ∧ (u.cinch i).readMbs = r.readMbs ∧ (u.cinch i).writeMbs =
    r.writeMbs ∧ (u.cinch i).seq = s.qos.nextSeq % 65536 ∧ u.qos.nextSeq = s.qos.nextSeq + 1 ∧ (∀ n, n ≠ i.val → u.cinch n = s.cinch n) ∧ u.out =
    .reply (ownLd via) rcSuccess (cinchReply 0 0 (u.cinchId i) (0, 0, 0)) :: s.out ∧ onlyRegs [Reg.MGT_CMD_CNT] s u) ∧
  (∀ (via : CmdPath) (r : CinchRequest) (i : Fin 64) (s : State), anyLdPath via = true → plazaTakes s = true → s.switching 7 = false → s.ruleCode
    (ownLd via) r = 0 → s.modelCode { askedCinch r with via := via } = (0, 0) → ((List.range 64).find? fun i => !(s.slotsHeld.any fun e => e.1 == i))
    = some i.val → s.on Reg.QOS_ADM_CFG_MODE_ACT = true → ∃ u, exec (.requestCinch via r) s = .next (settled u) ∧ (u.cinch i).waiting = true ∧
    (u.cinch i).st = .free ∧ (u.cinch i).due = s.clk + zeroAsOne (s.fld Reg.QOS_ADM_CFG_HOST_WAIT_MS) * ms ∧ (u.cinch i).seq = s.qos.nextSeq % 65536
    ∧ (∀ n, n ≠ i.val → u.cinch n = s.cinch n) ∧ onlyRegs [Reg.MGT_CMD_CNT] s u) ∧
  (∀ (via : CmdPath) (id : Nat) (i : Fin 64) (s : State), s.mgrPath via = true → s.mgmt.mgrBusy = false → plazaTakes s = true → s.cinchNamed id
    Cinch.waiting = some i.val → s.fld Reg.PWR_STS_STATE < 2 → ∃ u, exec (.confirmCinch via id true) s = .next (settled u) ∧ (u.cinch i).st = (if
    (s.cinch i).pin then .pinning else .active) ∧ (u.cinch i).waiting = false ∧ (∀ n, n ≠ i.val → u.cinch n = s.cinch n) ∧ u.out = .reply (ownLd via)
    rcSuccess [] :: .reply (ownLd (s.cinch i).via) rcSuccess (cinchReply 0 0 id (0, 0, 0)) :: s.out ∧ onlyRegs [Reg.MGT_CMD_CNT] s u) ∧
  (∀ (via : CmdPath) (id : Nat) (i : Fin 64) (s : State), s.mgrPath via = true → s.mgmt.mgrBusy = false → plazaTakes s = true → s.cinchNamed id
    Cinch.waiting = some i.val → ∃ u, exec (.confirmCinch via id false) s = .next (settled u) ∧ u.cinch i = {} ∧ (∀ n, n ≠ i.val → u.cinch n =
    s.cinch n) ∧ (∃ lim, u.out = .reply (ownLd via) rcSuccess [] :: .reply (ownLd (s.cinch i).via) rcSuccess (cinchReply 9 0 0 lim) :: s.out) ∧ u.fld
    Reg.QOS_REFUSE_CNT_COUNT = satAdd Reg.QOS_REFUSE_CNT_COUNT.w (s.fld Reg.QOS_REFUSE_CNT_COUNT) 1 ∧ onlyRegs [Reg.MGT_CMD_CNT, Reg.QOS_REFUSE_CNT]
    s u) ∧
  (∀ (i : Fin 64) (s : State), (s.cinch i).waiting = true → ∃ t, exec (.cinchConfirmTimeout i) s = .next t ∧ (s.cinch i).due ≤ t.clk ∧ t.cinch i = {}
    ∧ (∀ n, n ≠ i.val → t.cinch n = s.cinch n) ∧ (∃ lim, t.out = .reply (ownLd (s.cinch i).via) rcSuccess (cinchReply 9 0 0 lim) :: s.out) ∧ t.fld
    Reg.QOS_REFUSE_CNT_COUNT = satAdd Reg.QOS_REFUSE_CNT_COUNT.w (s.fld Reg.QOS_REFUSE_CNT_COUNT) 1 ∧ onlyRegs (Reg.QOS_REFUSE_CNT :: timeRegs) s t)
    ∧
  (∀ (via : CmdPath) (id : Nat) (i : Fin 64) (s : State), s.cinchNamed id (fun c => c.st != .free) = some i.val → ldPath (s.cinch i).ld via = true →
    plazaTakes s = true → (s.cinch i).pin = false → ∃ u, exec (.releaseCinch via id) s = .next (settled u) ∧ u.cinch i = {} ∧ (∀ n, n ≠ i.val →
    u.cinch n = s.cinch n) ∧ u.hot = s.hot ∧ u.out = .reply (ownLd via) rcSuccess [] :: s.out ∧ onlyRegs [Reg.MGT_CMD_CNT] s u) ∧
  ∀ (via : CmdPath) (id : Nat) (i : Fin 64) (s : State), s.cinchNamed id (fun c => c.st != .free) = some i.val → ldPath (s.cinch i).ld via = true →
    plazaTakes s = true → (s.cinch i).pin = true → ∃ u, exec (.releaseCinch via id) s = .next (settled u) ∧ u.cinch i = {} ∧ (∀ n, n ≠ i.val →
    u.cinch n = s.cinch n) ∧ (∃ l, u.out = .reply (ownLd via) rcSuccess [] :: l)

/-- R265: a pinned cinch whose range is wholly in the hot tier becomes Active, with event 0x0103. R281: while the remaining cinches pass every check,
  a rerun demotes none; while the input is low it demotes every cinch, here the only one, with its event 0x0101, and counts it. R282: a demoted cinch
  whose checks have passed for 100 ms is restored, with event 0x0102, and counted. R284: a window of 100 µs ends; an episode begins with event 0x0104
  once windows with delayed best-effort bytes have lasted longer than HOLD_MS, and ends with event 0x0105 after ten windows without. -/
def Obligations.CinchesComeAndGo : Prop :=
  (∀ (i : Fin 64) (s : State), (s.cinch i).st = .pinning → s.rangeHot (s.cinch i) = true → (s.cinch i).pin = false → ∃ t, exec (.cinchPinnedActive i)
    s = .next t ∧ (t.cinch i).st = .active ∧ (∀ n, n ≠ i.val → t.cinch n = s.cinch n) ∧ onlyRegs [] s t) ∧
  (∀ (i : Fin 64) (s : State), (s.cinch i).st = .pinning → s.rangeHot (s.cinch i) = true → (s.cinch i).pin = true → ∃ t, exec (.cinchPinnedActive i)
    s = .next t ∧ (t.cinch i).st = .active ∧ (∀ n, n ≠ i.val → t.cinch n = s.cinch n) ∧ t.flt = (s.vendor 0 0x0103 [s.cinchId i, 0]).flt ∧ t.lds =
    (s.vendor 0 0x0103 [s.cinchId i, 0]).lds ∧ onlyRegs [] s t) ∧
  (∀ (i : Fin 64) (s : State), (s.cinch i).st ≠ .pinning ∨ s.rangeHot (s.cinch i) = false → exec (.cinchPinnedActive i) s = .next (s)) ∧
  (∀ (s : State), s.supplyLow = false → s.checkCode (s.liveCinches.map Prod.snd) = 0 → ∃ t, exec (.admissionRerun) s = .next t ∧ t.qos.cinches =
    s.qos.cinches ∧ t.qos.demoted = s.qos.demoted ∧ t.qos.passSince.map Prod.fst = s.restorable ∧ onlyRegs [] s t) ∧
  (∀ (i : Fin 64) (c : Cinch) (s : State), s.supplyLow = true → s.liveCinches = [(i.val, c)] → ∃ t, exec (.admissionRerun) s = .next t ∧ (t.cinch
    i).st = .demoted ∧ (∀ n, n ≠ i.val → t.cinch n = s.cinch n) ∧ t.qos.demoted = i.val :: s.qos.demoted ∧ t.fld Reg.QOS_DEMO_CNT_DEMOTIONS = satAdd
    Reg.QOS_DEMO_CNT_DEMOTIONS.w (s.fld Reg.QOS_DEMO_CNT_DEMOTIONS) 1 ∧ t.flt = (s.vendor 1 0x0101 [s.cinchId i, 10]).flt ∧ onlyRegs
    [Reg.QOS_DEMO_CNT] s t) ∧
  (∀ (i : Fin 64) (n : Nat) (s : State), s.qos.passSince = [(i.val, n)] → s.qos.demoted = [i.val] → (s.cinch i).pin = false → s.supplyLow = false →
    s.checkCode (s.liveCinches.map Prod.snd ++ [s.cinch i]) = 0 → ∃ t, exec (.cinchRestore) s = .next t ∧ n + 100 * ms ≤ t.clk ∧ t.qos.demoted = [] ∧
    t.qos.passSince = [] ∧ (t.cinch i).st = .active ∧ (∀ m, m ≠ i.val → t.cinch m = s.cinch m) ∧ t.fld Reg.QOS_DEMO_CNT_RESTORES = satAdd
    Reg.QOS_DEMO_CNT_RESTORES.w (s.fld Reg.QOS_DEMO_CNT_RESTORES) 1 ∧ (t.flt.log.head? = some (t.time, .vendor 0x0102 [s.cinchId i, 0]) ∨
    t.flt.queued.getLast? = some (t.time, .vendor 0x0102 [s.cinchId i, 0])) ∧ onlyRegs (Reg.QOS_DEMO_CNT :: timeRegs) s t) ∧
  (∀ (s : State), s.qos.excess = [(1, { on := true, run := 9 })] → ∃ t, exec (.excessWindow) s = .next t ∧ t.on (Reg.QOS_CLS_EPI_ACTIVE 1) = false ∧
    (SMap.get ({} : Excess) t.qos.excess 1).on = false ∧ s.clk / 100000 < t.clk / 100000 ∧ (t.flt.log.head? = some (t.time, .vendor 0x0105 [0, 0, 1,
    0]) ∨ t.flt.queued.getLast? = some (t.time, .vendor 0x0105 [0, 0, 1, 0])) ∧ onlyRegs (Reg.QOS_CLS_EPI 1 :: timeRegs) s t) ∧
  ∀ (b r : Nat) (s : State), s.qos.excess = [(1, { bytes := b, run := r })] → b ≠ 0 → zeroAsOne (s.fld Reg.QOS_HOLD_CFG_HOLD_MS) * 10 = r → ∃ t, exec
    (.excessWindow) s = .next t ∧ t.on (Reg.QOS_CLS_EPI_ACTIVE 1) = true ∧ (SMap.get ({} : Excess) t.qos.excess 1).on = true ∧ s.clk / 100000 < t.clk
    / 100000 ∧ t.fld (Reg.QOS_CLS_EPI_EPISODES 1) = satAdd (Reg.QOS_CLS_EPI_EPISODES 1).w (s.fld (Reg.QOS_CLS_EPI_EPISODES 1)) 1 ∧ (t.flt.log.head? =
    some (t.time, .vendor 0x0104 [0, 0, 1, 0]) ∨ t.flt.queued.getLast? = some (t.time, .vendor 0x0104 [0, 0, 1, 0])) ∧ onlyRegs (Reg.QOS_CLS_EPI 1 ::
    timeRegs) s t

/-- R287: a packet handed to the street grid waits, as its endpoint stamps it, in the buffer of the port that R287 chooses. R291, R292: the one
  packet that leaves crossing c by output o goes to the next crossing's input buffer on its raised lane, or, at a local output whose block is in
  service, to the endpoint. R290: a flit that fails its street's CRC is replayed and counted; with the fourth replay in a row the street is down
  (R302), reported as source 0x15, and the packet is lost. R302: one routed to a street that is down is discarded and counted. R298: a REQ that finds
  its gate closed wakes its domain, is counted as one that waited, and goes on behind those that wait at the gate. R303: what is routed to a fenced
  endpoint is discarded and counted, unless it is a REQ, which the crossing answers. R290, R303, R519: at the endpoint a packet whose header fails
  its HCHK is discarded and reported as source 0x14, a response of another transaction epoch is discarded and counted, and any other packet is taken
  out. -/
def Obligations.PacketsMoveOn : Prop :=
  (∀ (c : Fin 48) (o : Fin 4) (k port k' : Nat) (p q : Packet) (s : State), s.noc.failed = [] → s.noc.down = [] → s.candidates c = [(k, port, p)] →
    s.outputOf c p = o.val → s.hop c o p = some (k', q) → s.bufRoom k' q = true → k ≠ k' → s.armed 6 c = false → ∃ t, exec (.packetForward c
    (o.castLE (by decide)) none 0) s = .next t ∧ SMap.get [] t.noc.bufs k = (SMap.get [] s.noc.bufs k).tail ∧ SMap.get [] t.noc.bufs k' = SMap.get []
    s.noc.bufs k' ++ [{ pkt := q, at_ := s.clk }] ∧ q = { p with lane := s.raisedLane p } ∧ (∀ j, j ≠ k → j ≠ k' → SMap.get [] t.noc.bufs j =
    SMap.get [] s.noc.bufs j) ∧ onlyRegs [] s t) ∧
  (∀ (c : Fin 48) (o : Fin 4) (k port k' : Nat) (p q : Packet) (n : Fin 5) (s : State), calm s = true → s.noc.failed = [] → s.noc.down = [] →
    s.candidates c = [(k, port, p)] → s.outputOf c p = o.val → s.hop c o p = some (k', q) → s.bufRoom k' q = true → k ≠ k' → s.armed 6 c = false →
    n.val < 4 → ∃ t, exec (.packetForward c (o.castLE (by decide)) none n) s = .next t ∧ SMap.get [] t.noc.bufs k' = SMap.get [] s.noc.bufs k' ++
    [{ pkt := q, at_ := s.clk }] ∧ t.fld Reg.NOC_REPLAY_COUNT = satAdd Reg.NOC_REPLAY_COUNT.w (s.fld Reg.NOC_REPLAY_COUNT) n ∧ t.noc.down = [] ∧
    onlyRegs [Reg.NOC_REPLAY] s t) ∧
  (∀ (c : Fin 48) (o : Fin 4) (k port k' : Nat) (p q : Packet) (s : State), s.noc.failed = [] → s.noc.down = [] → s.candidates c = [(k, port, p)] →
    s.outputOf c p = o.val → s.hop c o p = some (k', q) → s.bufRoom k' q = true → k ≠ k' → ∃ u, exec (.packetForward c (o.castLE (by decide)) none 4)
    s = .next (settled u) ∧ u.noc.down = [4 * c.val + o.val] ∧ SMap.get [] u.noc.bufs k = (SMap.get [] s.noc.bufs k).tail ∧ SMap.get [] u.noc.bufs k'
    = SMap.get [] s.noc.bufs k' ∧ u.fld Reg.NOC_DROP_DOWN = satAdd Reg.NOC_DROP_DOWN.w (s.fld Reg.NOC_DROP_DOWN) 1 ∧ u.reported 0x15 c = true ∧
    onlyRegs [Reg.NOC_REPLAY, Reg.NOC_STS, Reg.NOC_DROP] s u) ∧
  (∀ (c : Fin 48) (o : Fin 4) (k port k' : Nat) (p q : Packet) (n : Fin 5) (s : State), s.noc.failed = [] → s.noc.down = [4 * c.val + o.val] →
    s.candidates c = [(k, port, p)] → s.outputOf c p = o.val → s.hop c o p = some (k', q) → ∃ t, exec (.packetForward c (o.castLE (by decide)) none
    n) s = .next t ∧ SMap.get [] t.noc.bufs k = (SMap.get [] s.noc.bufs k).tail ∧ (∀ j, j ≠ k → SMap.get [] t.noc.bufs j = SMap.get [] s.noc.bufs j)
    ∧ t.fld Reg.NOC_DROP_DOWN = satAdd Reg.NOC_DROP_DOWN.w (s.fld Reg.NOC_DROP_DOWN) 1 ∧ onlyRegs [Reg.NOC_DROP] s t) ∧
  (∀ (c : Fin 48) (o : Fin 3) (k port ep : Nat) (p : Packet) (s : State), calm s = true → s.noc.failed = [] → s.noc.down = [] → s.candidates c = [(k,
    port, p)] → s.outputOf c p = 4 + o.val → epAt c o = some ep → s.isFenced (s.epOwner ep) = false → s.noc.closed = [] → ∃ t, exec (.packetForward c
    (o.natAdd 4) none 0) s = .next t ∧ SMap.get [] t.noc.bufs k = (SMap.get [] s.noc.bufs k).tail ∧ SMap.get [] t.noc.outs ep = SMap.get []
    s.noc.outs ep ++ [{ pkt := { p with lane := s.raisedLane p }, at_ := s.clk }] ∧ (∀ j, j ≠ ep → SMap.get [] t.noc.outs j = SMap.get [] s.noc.outs
    j) ∧ onlyRegs [] s t) ∧
  (∀ (c : Fin 48) (o : Fin 3) (k port ep : Nat) (p : Packet) (s : State), s.noc.failed = [] → s.noc.down = [] → s.candidates c = [(k, port, p)] →
    s.outputOf c p = 4 + o.val → epAt c o = some ep → s.isFenced (s.epOwner ep) = false → p.cls = .req → s.noc.closed.contains (s.epOwner ep).dom =
    true → (SMap.get [] s.noc.gates ep).length < 16 → (s.pwr.downs.any fun d => d.1 == (s.epOwner ep).dom) = false → s.cond (s.epOwner ep).dom ≠ .on
    → ∃ t, exec (.packetForward c (o.natAdd 4) none 0) s = .next t ∧ SMap.get [] t.noc.bufs k = (SMap.get [] s.noc.bufs k).tail ∧ SMap.get []
    t.noc.outs ep = SMap.get [] s.noc.outs ep ++ SMap.get [] s.noc.gates ep ++ [{ pkt := { p with lane := s.raisedLane p }, at_ := s.clk }] ∧
    SMap.get [] t.noc.gates ep = [] ∧ t.cond (s.epOwner ep).dom = .on ∧ t.fld Reg.PWR_WAIT_CNT_COUNT = satAdd Reg.PWR_WAIT_CNT_COUNT.w (s.fld
    Reg.PWR_WAIT_CNT_COUNT) 1 ∧ sameMemory s t) ∧
  (∀ (c : Fin 48) (o : Fin 3) (k port : Nat) (p : Packet) (s : State), s.noc.failed = [] → s.candidates c = [(k, port, p)] → s.outputOf c p = 7 →
    epPort p.dst = o.val → p.cls ≠ .req → ∃ t, exec (.packetForward c (o.natAdd 4) none 0) s = .next t ∧ SMap.get [] t.noc.bufs k = (SMap.get []
    s.noc.bufs k).tail ∧ t.noc.outs = s.noc.outs ∧ t.fld Reg.NOC_DROP_FENCED = satAdd Reg.NOC_DROP_FENCED.w (s.fld Reg.NOC_DROP_FENCED) 1 ∧ onlyRegs
    [Reg.NOC_DROP] s t) ∧
  (∀ (c : Fin 48) (o : Fin 3) (k port : Nat) (p : Packet) (s : State), s.noc.failed = [] → s.candidates c = [(k, port, p)] → s.outputOf c p = 7 →
    epPort p.dst = o.val → p.cls = .req → k ≠ bufKey c 4 { p with cls := .rsp } → ∃ t, exec (.packetForward c (o.natAdd 4) none 0) s = .next t ∧
    SMap.get [] t.noc.bufs k = (SMap.get [] s.noc.bufs k).tail ∧ t.noc.outs = s.noc.outs ∧ (SMap.get [] t.noc.bufs (bufKey c 4
    { p with cls := .rsp })).length = (SMap.get [] s.noc.bufs (bufKey c 4 { p with cls := .rsp })).length + 1 ∧ (∃ x, (SMap.get [] t.noc.bufs (bufKey
    c 4 { p with cls := .rsp })).getLast? = some x ∧ x.pkt.cls = .rsp ∧ x.pkt.dst = p.src ∧ x.pkt.tag = p.tag ∧ x.pkt.mport = p.mport) ∧ onlyRegs []
    s t) ∧
  (∀ (c : Fin 48) (o : Fin 7) (i : PacketIn) (ep e k : Nat) (p : Packet) (s : State), s.noc.failed = [] → s.noc.bufs = [] → epAt c i.port = some ep →
    p = s.stamped i.pkt i.start i.bound → e = s.injectEp ep p → k = bufKey (epCrossing e) (4 + epPort e) { p with repoch := s.noc.epoch, src := e } →
    s.bufRoom k { p with repoch := s.noc.epoch, src := e } = true → epCrossing e ≠ c.val ∨ s.leavesBy c o { p with repoch := s.noc.epoch, src := e }
    = false → ∃ t, exec (.packetForward c o (some i) 0) s = .next t ∧ SMap.get [] t.noc.bufs k =
    [{ pkt := { p with repoch := s.noc.epoch, src := e }, at_ := s.clk }] ∧ (∀ j, j ≠ k → SMap.get [] t.noc.bufs j = []) ∧ t.noc.outs = s.noc.outs ∧
    onlyRegs [] s t) ∧
  (∀ (c : Fin 48) (o : Fin 3) (ep : Nat) (q : Queued) (rest : List Queued) (err : BitVec 128) (s : State), epAt c o = some ep → SMap.get []
    s.noc.outs ep = q :: rest → s.armed 7 ep = false → err ≠ 0 → headerHolds (packHeader q.pkt ^^^ err) = false → ∃ u, exec (.packetEject c o err) s
    = .next (settled u) ∧ SMap.get [] u.noc.outs ep = rest ∧ u.reported 0x14 c = true ∧ u.noc.sent = s.noc.sent ∧ onlyRegs [] s u) ∧
  (∀ (c : Fin 48) (o : Fin 3) (ep n : Nat) (q : Queued) (rest : List Queued) (s : State), epAt c o = some ep → SMap.get [] s.noc.outs ep = q :: rest
    → s.armed 7 ep = false → q.pkt.cls = .rsp → q.pkt.tepoch ≠ s.epEpoch ep → s.epOwner ep = .slice n → ∃ t, exec (.packetEject c o 0) s = .next t ∧
    SMap.get [] t.noc.outs ep = rest ∧ t.noc.sent = s.noc.sent ∧ t.fld Reg.NOC_DROP_STALE = satAdd Reg.NOC_DROP_STALE.w (s.fld Reg.NOC_DROP_STALE) 1
    ∧ onlyRegs [Reg.NOC_DROP] s t) ∧
  (∀ (c : Fin 48) (o : Fin 3) (ep h : Nat) (q : Queued) (rest : List Queued) (s : State), epAt c o = some ep → SMap.get [] s.noc.outs ep = q :: rest
    → s.armed 7 ep = false → q.pkt.cls = .rsp → q.pkt.tepoch ≠ s.epEpoch ep → s.epOwner ep = .head h → ∃ t, exec (.packetEject c o 0) s = .next t ∧
    SMap.get [] t.noc.outs ep = rest ∧ t.noc.sent = s.noc.sent ∧ t.fld (Reg.HPA_STALE_CNT_COUNT h) = satAdd (Reg.HPA_STALE_CNT_COUNT h).w (s.fld
    (Reg.HPA_STALE_CNT_COUNT h)) 1 ∧ onlyRegs [Reg.HPA_STALE_CNT h] s t) ∧
  ∀ (c : Fin 48) (o : Fin 3) (ep : Nat) (q : Queued) (rest : List Queued) (s : State), epAt c o = some ep → SMap.get [] s.noc.outs ep = q :: rest →
    s.armed 7 ep = false → q.pkt.cls = .rsp → q.pkt.tepoch = s.epEpoch ep → ∃ t, exec (.packetEject c o 0) s = .next t ∧ SMap.get [] t.noc.outs ep =
    rest ∧ (∀ j, j ≠ ep → SMap.get [] t.noc.outs j = SMap.get [] s.noc.outs j) ∧ t.noc.bufs = s.noc.bufs ∧ onlyRegs [] s t

/-- R301: a request of a head, or of an internal requester, that has had no answer for TMO_US goes out again with RETRY = 1. R302: a street whose
  idle words stop is down, counted in NOC_STS and reported as source 0x15; a crossing with two streets down, or one that fails its self-check, has
  failed: its bit is set, it is counted and reported as source 0x16, and what it held is lost. -/
def Obligations.GridFailures : Prop :=
  (∀ (r : Req) (s : State), s.flight = [r] → r.nackAt = 0 → (∀ h : Fin 4, s.penEntry h r.id = none) → ∃ t, exec (.requestReissueTimeout r.id) s =
    .next t ∧ r.t0 + s.reissueNs ≤ t.clk ∧ t.flight = [{ r with retry := true }] ∧ t.fld Reg.NOC_REISSUE_COUNT = satAdd Reg.NOC_REISSUE_COUNT.w
    (s.fld Reg.NOC_REISSUE_COUNT) 1 ∧ onlyRegs (Reg.NOC_REISSUE :: timeRegs) s t) ∧
  (∀ (h : Fin 4) (id : Nat) (e : PenEntry) (s : State), s.flight = [] → s.penEntry h id = some e → (∀ g : Fin 4, g ≠ h → s.penEntry g id = none) →
    e.phase = .injected → s.answered id = false → ∃ t, exec (.requestReissueTimeout id) s = .next t ∧ Nat.max e.req.t0 e.req.nackAt + s.reissueNs ≤
    t.clk ∧ t.flight = [{ e.req with retry := true }] ∧ t.fld Reg.NOC_REISSUE_COUNT = satAdd Reg.NOC_REISSUE_COUNT.w (s.fld Reg.NOC_REISSUE_COUNT) 1
    ∧ t.heads = s.heads ∧ onlyRegs (Reg.NOC_REISSUE :: timeRegs) s t) ∧
  (∀ (c : Fin 48) (d : Fin 4) (n : Nat) (s : State), neighbour c d = some n → s.noc.down = [] → s.noc.failed = [] → ∃ u, exec (.streetSilence c d
    false) s = .next (settled u) ∧ u.noc.down = [4 * n + opposite d] ∧ u.noc.failed = [] ∧ u.noc.bufs = s.noc.bufs ∧ u.fld Reg.NOC_STS_DOWN_ST = 1 ∧
    u.reported 0x15 n = true ∧ onlyRegs [Reg.NOC_STS] s u) ∧
  (∀ (c : Fin 48) (d : Fin 4) (n x : Nat) (s : State), neighbour c d = some n → s.noc.down = [x] → x ≠ 4 * n + opposite d → s.noc.failed = [] →
    s.streetsDown c = 1 → s.streetsDown n = 0 → ∃ u, exec (.streetSilence c d false) s = .next (settled u) ∧ u.noc.failed = [c.val] ∧ (∀ k, k / 168 =
    c.val → SMap.get [] u.noc.bufs k = []) ∧ (∀ k, k / 168 ≠ c.val → SMap.get [] u.noc.bufs k = SMap.get [] s.noc.bufs k) ∧ u.fld
    Reg.NOC_STS_FAILED_X = 1 ∧ u.reported 0x15 n = true ∧ u.reported 0x16 c = true ∧ onlyRegs [Reg.NOC_STS, Reg.NOC_XFAIL_LO, Reg.NOC_XFAIL_HI] s u)
    ∧
  ∀ (c : Fin 48) (d : Fin 4) (s : State), neighbour c d = none → s.noc.failed = [] → ∃ u, exec (.streetSilence c d true) s = .next (settled u) ∧
    u.noc.failed = [c.val] ∧ (∀ k, k / 168 = c.val → SMap.get [] u.noc.bufs k = []) ∧ (∀ k, k / 168 ≠ c.val → SMap.get [] u.noc.bufs k = SMap.get []
    s.noc.bufs k) ∧ u.fld Reg.NOC_STS_FAILED_X = 1 ∧ u.reported 0x16 c = true ∧ onlyRegs [Reg.NOC_STS, Reg.NOC_XFAIL_LO, Reg.NOC_XFAIL_HI] s u

/-- R299: a write through the plaza's path goes to the shadow copy only and clears CHECK_FAIL. R295, R300: a flip is taken where the shadow set
  passes the check, and otherwise sets CHECK_FAIL and changes nothing else. R300: when the last crossing has declared, a guard of 10 µs runs, and its
  end clears BUSY. -/
def Obligations.RoutesChangeTogether : Prop :=
  (∀ (v : BitVec 32) (s : State), calm s = true → s.on Reg.NOC_RT_CTL_BUSY = false → s.on Reg.NOC_RT_ADDR_INJ = false → s.fld Reg.NOC_RT_ADDR_NODE <
    48 → s.fld Reg.NOC_RT_ADDR_ENTRY < 98 → ∃ t, exec (.routeTableWrite .plaza v) s = .next t ∧ t.routeAt (!s.noc.epoch) false (s.fld
    Reg.NOC_RT_ADDR_NODE) (s.fld Reg.NOC_RT_ADDR_ENTRY) = v.toNat % 128 ∧ (∀ inj node entry, node < 128 → entry < 128 → t.routeAt s.noc.epoch inj
    node entry = s.routeAt s.noc.epoch inj node entry) ∧ t.noc.epoch = s.noc.epoch ∧ t.on Reg.NOC_RT_CTL_CHECK_FAIL = false ∧ onlyRegs
    [Reg.NOC_RT_CTL] s t) ∧
  (∀ (h : Fin 4) (k : Fin 16) (v : BitVec 32) (s : State), ∃ u, exec (.routeTableWrite (.head h k) v) s = .next (settled u) ∧ u.reported 0x1D 0 =
    true ∧ u.noc = s.noc ∧ onlyRegs [] s u) ∧
  (∀ (s : State), calm s = true → s.on Reg.NOC_RT_CTL_BUSY = false → ∃ t, exec (.routeFlip .plaza) s = .next t ∧ t.noc.tables = s.noc.tables ∧
    t.noc.epoch = (s.noc.epoch ^^ s.routesAcyclic (!s.noc.epoch)) ∧ t.noc.flipping = (s.noc.flipping || s.routesAcyclic (!s.noc.epoch)) ∧ t.on
    Reg.NOC_RT_CTL_BUSY = s.routesAcyclic (!s.noc.epoch) ∧ (s.routesAcyclic (!s.noc.epoch) = false → t.on Reg.NOC_RT_CTL_CHECK_FAIL = true) ∧
    sameMemory s t) ∧
  (∀ (c d : Fin 48) (s : State), s.noc.flipping = true → s.noc.declared.contains c.val = false → s.drainedAt c = true → d ≠ c →
    s.noc.declared.contains d.val = false → s.noc.failed = [] → ∃ t, exec (.routeDrained c) s = .next t ∧ t.noc.declared = s.noc.declared ++ [c.val]
    ∧ t.noc.guard = s.noc.guard ∧ t.noc.flipping = true ∧ onlyRegs [] s t) ∧
  (∀ (c : Fin 48) (s : State), s.noc.flipping = true → s.noc.declared = (List.range 48).filter (· != c.val) → s.drainedAt c = true → ∃ t, exec
    (.routeDrained c) s = .next t ∧ t.noc.guard = some (s.clk + 10000) ∧ t.noc.flipping = true ∧ onlyRegs [] s t) ∧
  ∀ (n : Nat) (s : State), s.noc.guard = some n → s.takeovers = [] → ∃ t, exec (.routeGuardExpiry) s = .next t ∧ n ≤ t.clk ∧ t.noc.flipping = false ∧
    t.noc.guard = none ∧ t.noc.declared = [] ∧ t.on Reg.NOC_RT_CTL_BUSY = false ∧ t.noc.epoch = s.noc.epoch ∧ sameRoutes s t ∧ sameMemory s t

/-- R309: a path of another LD changes nothing of a ring and is reported as source 0x1D, at each of the three commands. R310: EN going from 0 to 1
  loads the bases and the size, and HEAD and TAIL restart at 0 with PHASE 1; EN going to 0 drops the ring's descriptors and keeps HEAD. R311: a
  doorbell moves NMR_TAIL and stamps each new index. R312: one that would pass HEAD halts the ring with 0x24 and moves nothing. R327: a write of 1 to
  HALTED clears it. -/
def Obligations.RingsTakeDescriptors : Prop :=
  (∀ (h : Fin 4) (k : Fin 16) (r : Fin 256) (v : BitVec 32) (s : State), s.ringPath (.head h k) r = false → ∃ u, exec (.ringEnable (.head h k) r v) s
    = .next (settled u) ∧ u.reported 0x1D 0 = true ∧ u.nme = s.nme ∧ onlyRegs [] s u) ∧
  (∀ (h : Fin 4) (k : Fin 16) (r : Fin 256) (v : BitVec 32) (s : State), s.ringPath (.head h k) r = false → ∃ u, exec (.ringDoorbell (.head h k) r v)
    s = .next (settled u) ∧ u.reported 0x1D 0 = true ∧ u.nme = s.nme ∧ onlyRegs [] s u) ∧
  (∀ (h : Fin 4) (k : Fin 16) (r : Fin 256) (s : State), s.ringPath (.head h k) r = false → ∃ u, exec (.ringResume (.head h k) r) s = .next (settled
    u) ∧ u.reported 0x1D 0 = true ∧ u.nme = s.nme ∧ onlyRegs [] s u) ∧
  (∀ (p : Path) (r : Fin 256) (v : BitVec 32) (s : State), s.ringPath p r = true → v.getLsbD 31 = true → s.on (Reg.NMR_CFG_EN r) = false → ∃ t, exec
    (.ringEnable p r v) s = .next t ∧ t.on (Reg.NMR_CFG_EN r) = true ∧ t.ring r =
    { dbase := s.fld (Reg.NMR_DBASE_DPA_64K r) * 65536, cbase := s.fld (Reg.NMR_CBASE_DPA_64K r) * 65536, entries := 2 ^ (6 + Nat.min 10 (t.fld (Reg.NMR_CFG_SIZE r))) }
    ∧ t.fld (Reg.NMR_HEAD_HEAD r) = 0 ∧ t.fld (Reg.NMR_TAIL_TAIL r) = 0 ∧ t.on (Reg.NMR_STS_PHASE r) = true ∧ t.fld (Reg.NMR_CFG_LD r) = s.fld
    (Reg.NMR_CFG_LD r) ∧ onlyRegs [Reg.NMR_CFG r, Reg.NMR_HEAD r, Reg.NMR_TAIL r, Reg.NMR_STS r] s t) ∧
  (∀ (p : Path) (r : Fin 256) (v : BitVec 32) (s : State), s.ringPath p r = true → v.getLsbD 31 = false → s.on (Reg.NMR_CFG_EN r) = true → ∃ t, exec
    (.ringEnable p r v) s = .next t ∧ t.on (Reg.NMR_CFG_EN r) = false ∧ t.nme.running = s.nme.running.filter (fun x => x.ring != r.val) ∧ (t.ring
    r).stamps = [] ∧ onlyRegs [Reg.NMR_CFG r] s t) ∧
  (∀ (p : Path) (r : Fin 256) (v : BitVec 32) (n : Nat) (s : State), calm s = true → s.ringPath p r = true → s.on (Reg.NMR_CFG_EN r) = true → (s.ring
    r).entries = n → 0 < n → n ≤ 65536 → s.ringN r + (v.toNat % 65536 % n + n - s.fld (Reg.NMR_TAIL_TAIL r)) % n ≤ n - 1 → s.cond (122 + s.fld
    (Reg.NMR_STS_ENG_ACT r)) = .on → ∃ t, exec (.ringDoorbell p r v) s = .next t ∧ t.fld (Reg.NMR_TAIL_TAIL r) = v.toNat % 65536 % n ∧ (t.ring
    r).stamps = (s.ring r).stamps ++ (List.range ((v.toNat % 65536 % n + n - s.fld (Reg.NMR_TAIL_TAIL r)) % n)).map (fun i => ((s.fld
    (Reg.NMR_TAIL_TAIL r) + i) % n, s.time)) ∧ t.fld (Reg.NMR_HEAD_HEAD r) = s.fld (Reg.NMR_HEAD_HEAD r) ∧ t.nme.running = s.nme.running ∧ onlyRegs
    [Reg.NMR_TAIL r] s t) ∧
  (∀ (p : Path) (r : Fin 256) (v : BitVec 32) (n : Nat) (s : State), s.ringPath p r = true → s.on (Reg.NMR_CFG_EN r) = true → (s.ring r).entries = n
    → 0 < n → n ≤ 65536 → n - 1 < s.ringN r + (v.toNat % 65536 % n + n - s.fld (Reg.NMR_TAIL_TAIL r)) % n → s.on (Reg.NMR_STS_HALTED r) = false →
    s.cond (122 + s.fld (Reg.NMR_STS_ENG_ACT r)) = .on → ∃ u, exec (.ringDoorbell p r v) s = .next (settled u) ∧ u.on (Reg.NMR_STS_HALTED r) = true ∧
    u.fld (Reg.NMR_STS_LAST_ERR r) = 0x24 ∧ u.fld (Reg.NMR_TAIL_TAIL r) = s.fld (Reg.NMR_TAIL_TAIL r) ∧ u.reported 0x1D 0 = true ∧ u.nme = s.nme ∧
    onlyRegs [Reg.NMR_STS r] s u) ∧
  ∀ (p : Path) (r : Fin 256) (s : State), s.ringPath p r = true → ∃ t, exec (.ringResume p r) s = .next t ∧ t.on (Reg.NMR_STS_HALTED r) = false ∧
    t.fld (Reg.NMR_STS_LAST_ERR r) = s.fld (Reg.NMR_STS_LAST_ERR r) ∧ t.nme = s.nme ∧ onlyRegs [Reg.NMR_STS r] s t

/-- R323, R314: an engine that has a context free, here one with nothing to do, fetches the descriptor that its ring's start index names, and begins
  it where every field is in Table 10.3, its destinations lie in no frozen extent and what is erased can be rebuilt; one with a field outside Table
  10.3 ends with the code of R314. R325: WAIT_MS after its stamp the tail of the ring, here one descriptor, is refused with code 0x10; the TAG that
  was never read is a free value. R321, R322: the record of the ring's head index is 16 bytes at the completion base; NMR_HEAD passes it, PHASE
  toggles when it wraps, NME_DONE counts it, and the interrupt goes out where INTR asks for it. -/
def Obligations.DescriptorsComeAndGo : Prop :=
  (∀ (n : Fin 8) (r : Nat) (v : Line) (s : State), calm s = true → s.isFenced (.engine n) = false → s.on (Reg.NME_STS_READY n) = true → s.supplyLow =
    false → s.nme.running = [] → s.pickRing n = some r → r < 256 → s.reachable (s.fld (Reg.NMR_CFG_LD r)) (s.descAddr r (s.ring r).start) = true →
    s.lineNow (s.gpnOf (s.fld (Reg.NMR_CFG_LD r)) (s.descAddr r (s.ring r).start)) (s.descAddr r (s.ring r).start % 4096 / 64) = some (v, false) →
    s.lineFree (s.engineReq n (s.fld (Reg.NMR_CFG_LD r)) (s.descAddr r (s.ring r).start) 0 .read 0 0 false) = true → (parseDescriptor v).fence =
    false → paramCode { ring := r, idx := (s.ring r).start, eng := n, d := parseDescriptor v, fetched := true, started := true } = 0 → ((destRanges
    { ring := r, idx := (s.ring r).start, eng := n, d := parseDescriptor v, fetched := true, started := true }).any (s.touchesFrozen (s.fld
    (Reg.NMR_CFG_LD r)))) = false → (parseDescriptor v).opc ≠ 7 ∨ (Running.erased
    { ring := r, idx := (s.ring r).start, eng := n, d := parseDescriptor v, fetched := true, started := true }).length ≤ Running.m
    { ring := r, idx := (s.ring r).start, eng := n, d := parseDescriptor v, fetched := true, started := true } → ∃ t, exec (.descriptorFetch n) s =
    .next t ∧ t.nme.running =
    [{ ring := r, idx := (s.ring r).start, eng := n, d := parseDescriptor v, fetched := true, started := true, stamp := (((s.ring r).stamps.find? fun e => e.1 == (s.ring r).start).map Prod.snd).getD s.time }]
    ∧ (t.ring r).start = ((s.ring r).start + 1) % (s.ring r).entries ∧ t.fld (Reg.NMR_HEAD_HEAD r) = s.fld (Reg.NMR_HEAD_HEAD r) ∧ t.on
    (Reg.NMR_STS_HALTED r) = s.on (Reg.NMR_STS_HALTED r) ∧ sameMemory s t) ∧
  (∀ (n : Fin 8) (r : Nat) (v : Line) (s : State), calm s = true → s.isFenced (.engine n) = false → s.on (Reg.NME_STS_READY n) = true → s.supplyLow =
    false → s.nme.running = [] → s.pickRing n = some r → r < 256 → s.reachable (s.fld (Reg.NMR_CFG_LD r)) (s.descAddr r (s.ring r).start) = true →
    s.lineNow (s.gpnOf (s.fld (Reg.NMR_CFG_LD r)) (s.descAddr r (s.ring r).start)) (s.descAddr r (s.ring r).start % 4096 / 64) = some (v, false) →
    s.lineFree (s.engineReq n (s.fld (Reg.NMR_CFG_LD r)) (s.descAddr r (s.ring r).start) 0 .read 0 0 false) = true → (parseDescriptor v).fence =
    false → paramCode { ring := r, idx := (s.ring r).start, eng := n, d := parseDescriptor v, fetched := true, started := true } = 0x20 → ∃ t, exec
    (.descriptorFetch n) s = .next t ∧ ((t.run r (s.ring r).start).bind Running.ended).map Ending.status = some 0x20 ∧ t.on (Reg.NMR_STS_HALTED r) =
    true ∧ (t.ring r).start = ((s.ring r).start + 1) % (s.ring r).entries ∧ t.fld (Reg.NMR_HEAD_HEAD r) = s.fld (Reg.NMR_HEAD_HEAD r) ∧ sameMemory s
    t) ∧
  (∀ (r : Fin 256) (i t0 n : Nat) (s : State), s.nme.running = [] → (s.ring r).stamps = [(i, t0)] → (s.ring r).start = i → (s.ring r).entries = n → 1
    < n → i < n → s.fld (Reg.NMR_TAIL_TAIL r) = (i + 1) % n → ∃ t, exec (.descriptorWaitTimeout r) s = .next t ∧ (t.run r i).bind Running.ended =
    some ⟨0x10, 0, 0⟩ ∧ (t.ring r).start = (i + 1) % n ∧ (t.ring r).stamps = [] ∧ t.free = s.free + 1 ∧ onlyRegs timeRegs s t) ∧
  (∀ (r : Fin 256) (x : Running) (e : Ending) (s1 : State) (a n : Nat) (s : State), calm s = true → s.run r (s.fld (Reg.NMR_HEAD_HEAD r)) = some x →
    x.ring = r.val → x.idx = s.fld (Reg.NMR_HEAD_HEAD r) → x.ended = some e → x.waits = none → a = (s.ring r).cbase + 16 * x.idx → engineWrites x
    (s.fld (Reg.NMR_CFG_LD r)) a (lineOf (List.replicate (a % 64) 0 ++ recordBytes x e (s.on (Reg.NMR_STS_PHASE r)))) (BitVec.ofNat 64 (65535 * 2 ^
    (a % 64))) s = some s1 → s1.nme = s.nme → calm s1 = true → (s.ring r).entries = n → x.idx + 1 < n → n ≤ 65536 → halting e.status = false →
    x.d.intr = false → e.status < 0x10 → x.eng < 8 → ∃ t, exec (.descriptorComplete r) s = .next t ∧ t.hot = s1.hot ∧ t.fld (Reg.NMR_HEAD_HEAD r) =
    x.idx + 1 ∧ t.run r x.idx = none ∧ t.fld (Reg.NME_DONE_COUNT x.eng) = satAdd (Reg.NME_DONE_COUNT x.eng).w (s1.fld (Reg.NME_DONE_COUNT x.eng)) 1 ∧
    onlyRegs [Reg.NMR_HEAD r, Reg.NME_DONE x.eng] s1 t) ∧
  (∀ (r : Fin 256) (x : Running) (e : Ending) (s1 : State) (a n : Nat) (s : State), calm s = true → s.run r (s.fld (Reg.NMR_HEAD_HEAD r)) = some x →
    x.ring = r.val → x.idx = s.fld (Reg.NMR_HEAD_HEAD r) → x.ended = some e → x.waits = none → a = (s.ring r).cbase + 16 * x.idx → engineWrites x
    (s.fld (Reg.NMR_CFG_LD r)) a (lineOf (List.replicate (a % 64) 0 ++ recordBytes x e (s.on (Reg.NMR_STS_PHASE r)))) (BitVec.ofNat 64 (65535 * 2 ^
    (a % 64))) s = some s1 → s1.nme = s.nme → s1.on (Reg.NMR_STS_PHASE r) = s.on (Reg.NMR_STS_PHASE r) → calm s1 = true → (s.ring r).entries = n →
    x.idx + 1 = n → n ≤ 65536 → halting e.status = false → x.d.intr = false → e.status < 0x10 → x.eng < 8 → ∃ t, exec (.descriptorComplete r) s =
    .next t ∧ t.hot = s1.hot ∧ t.fld (Reg.NMR_HEAD_HEAD r) = 0 ∧ t.on (Reg.NMR_STS_PHASE r) = !s.on (Reg.NMR_STS_PHASE r) ∧ t.run r x.idx = none ∧
    t.fld (Reg.NME_DONE_COUNT x.eng) = satAdd (Reg.NME_DONE_COUNT x.eng).w (s1.fld (Reg.NME_DONE_COUNT x.eng)) 1 ∧ onlyRegs [Reg.NMR_HEAD r,
    Reg.NMR_STS r, Reg.NME_DONE x.eng] s1 t) ∧
  ∀ (r : Fin 256) (x : Running) (e : Ending) (s1 : State) (a n h : Nat) (s : State), calm s = true → s.run r (s.fld (Reg.NMR_HEAD_HEAD r)) = some x →
    x.ring = r.val → x.idx = s.fld (Reg.NMR_HEAD_HEAD r) → x.ended = some e → x.waits = none → a = (s.ring r).cbase + 16 * x.idx → engineWrites x
    (s.fld (Reg.NMR_CFG_LD r)) a (lineOf (List.replicate (a % 64) 0 ++ recordBytes x e (s.on (Reg.NMR_STS_PHASE r)))) (BitVec.ofNat 64 (65535 * 2 ^
    (a % 64))) s = some s1 → s1.nme = s.nme → s1.fld (Reg.NMR_CFG_LD r) = s.fld (Reg.NMR_CFG_LD r) → s1.fld (Reg.NMR_CFG_VEC r) = s.fld
    (Reg.NMR_CFG_VEC r) → calm s1 = true → (s.ring r).entries = n → x.idx + 1 < n → n ≤ 65536 → halting e.status = false → x.d.intr = true →
    s1.headOf (s1.fld (Reg.NMR_CFG_LD r)) = some h → s1.linkUp h = true → s1.out = s.out → e.status < 0x10 → x.eng < 8 → ∃ t, exec
    (.descriptorComplete r) s = .next t ∧ t.hot = s1.hot ∧ t.out = .msix (s.fld (Reg.NMR_CFG_LD r)) (s.fld (Reg.NMR_CFG_VEC r)) :: s.out ∧ t.fld
    (Reg.NMR_HEAD_HEAD r) = x.idx + 1 ∧ t.run r x.idx = none ∧ t.fld (Reg.NME_DONE_COUNT x.eng) = satAdd (Reg.NME_DONE_COUNT x.eng).w (s1.fld
    (Reg.NME_DONE_COUNT x.eng)) 1 ∧ onlyRegs [Reg.NMR_HEAD r, Reg.NME_DONE x.eng] s1 t

/-- R315, Table 10.3: NOP does nothing; COPY of a line writes at DST what SRC holds; FILL of a line writes the pattern. R313: a COPY whose source
  line cannot be had at once puts a read to the page's home slice and waits for its answer. R318: ZERO of a whole page that no host holds discards
  it. R320: a demotion hint releases a clean page, a promotion hint for a cold page with an image opens its promotion, and one for a page with
  nothing to do does nothing; each counts its work in DONE and its result in RESULT. R131: a promotion hint that finds no free shed frame ends with
  status 0x12. -/
def Obligations.EnginesMoveData : Prop :=
  (∀ (r : Fin 256) (i : Nat) (x : Running) (s : State), s.run r i = some x → x.atStart = true → x.d.opc = 0 → ∃ u, exec (.nop r i) s = .next (settled
    u) ∧ endedAs r i ⟨0, 0, 0⟩ s u) ∧
  (∀ (r : Fin 256) (i : Nat) (x : Running) (v : Line) (s1 s2 : State) (s : State), s.run r i = some x → x.atStart = true → x.d.opc = 1 → x.d.len = 64
    → engineReads x (s.fld (Reg.NMR_CFG_LD r)) x.d.src s = some ((v, false), s1) → engineWrites x (s1.fld (Reg.NMR_CFG_LD r)) x.d.dst v allBytes s1 =
    some s2 → ∃ u, exec (.copy r i) s = .next (settled u) ∧ endedAs r i ⟨0, 0, 64⟩ s2 u) ∧
  (∀ (r : Fin 256) (i k : Nat) (x : Running) (s : State), s.run r i = some x → x.atStart = true → x.d.opc = 1 → 64 ≤ x.d.len → k = s.fld
    (Reg.NMR_CFG_LD r) → s.reachable k x.d.src = true → engineReads x k x.d.src s = none → ∃ u, exec (.copy r i) s = .next (settled u) ∧ u.flight =
    s.flight ++ [s.engineReq x.eng k x.d.src s.fresh.1 .read 0 0 false] ∧ (u.run r i).map Running.waits = some (some s.fresh.1) ∧ (u.run r i).bind
    Running.ended = none ∧ u.hot = s.hot ∧ u.cold = s.cold ∧ onlyRegs [] s u) ∧
  (∀ (r : Fin 256) (i : Nat) (x : Running) (s1 : State) (s : State), s.run r i = some x → x.atStart = true → x.d.opc = 2 → x.d.len = 64 →
    engineWrites x (s.fld (Reg.NMR_CFG_LD r)) x.d.dst (patternLine x.d.imm) allBytes s = some s1 → ∃ u, exec (.fill r i) s = .next (settled u) ∧
    endedAs r i ⟨0, 0, 64⟩ s1 u) ∧
  (∀ (r : Fin 256) (i k p : Nat) (x : Running) (s : State), s.run r i = some x → x.atStart = true → x.d.opc = 3 → x.d.len = 4096 → x.d.dst % 4096 = 0
    → k = s.fld (Reg.NMR_CFG_LD r) → p = s.gpnOf k x.d.dst → s.reachable k x.d.dst = true → s.isFrozen k x.d.dst = false → s.heldLine x.eng k x.d.dst
    = none → s.mayOpen p = true → ((s.slice (s.home p)).txns.any fun y => y.req.gpn == p) = false → s.fld Reg.PWR_STS_STATE < 2 → ∃ u, exec (.zero r
    i) s = .next (settled u) ∧ endedAs r i ⟨0, 1, 4096⟩ (if (s.entry p).state = 0 then s else discardCommit p s) u) ∧
  (∀ (r : Fin 256) (i p : Nat) (x : Running) (s : State), s.run r i = some x → x.atStart = true → x.d.opc = 10 → x.d.aux = 1 → x.d.len = 4096 → p =
    s.gpnOf (s.fld (Reg.NMR_CFG_LD r)) x.d.src → s.inCapacity (s.fld (Reg.NMR_CFG_LD r)) x.d.src = true → s.switching 0 = false → (s.entry p).pin =
    false → (s.entry p).state = 2 → s.mayOpen p = true → ∃ u, exec (.tierHint r i) s = .next (settled u) ∧ endedAs r i ⟨0, 1, 1⟩ (grantRelease p s)
    u) ∧
  (∀ (r : Fin 256) (i p : Nat) (x : Running) (s : State), s.run r i = some x → x.atStart = true → x.d.opc = 10 → x.d.aux = 1 → x.d.len = 4096 → p =
    s.gpnOf (s.fld (Reg.NMR_CFG_LD r)) x.d.src → s.inCapacity (s.fld (Reg.NMR_CFG_LD r)) x.d.src = true → s.switching 0 = false → (s.entry p).pin =
    true → ∃ u, exec (.tierHint r i) s = .next (settled u) ∧ endedAs r i ⟨0, 0, 1⟩ s u) ∧
  (∀ (r : Fin 256) (i p f : Nat) (x : Running) (s : State), s.run r i = some x → x.atStart = true → x.d.opc = 10 → x.d.aux = 0 → x.d.len = 4096 → p =
    s.gpnOf (s.fld (Reg.NMR_CFG_LD r)) x.d.src → s.inCapacity (s.fld (Reg.NMR_CFG_LD r)) x.d.src = true → s.switching 0 = false → (s.entry p).state =
    1 → (s.entry p).scnt ≠ 0 → s.mayOpen p = true → s.shedFor p = some f → ∃ u, exec (.tierHint r i) s = .next (settled u) ∧ endedAs r i ⟨0, 1, 1⟩
    (beginOp .promotion p (16 + x.eng) (some f) s) u) ∧
  ∀ (r : Fin 256) (i p : Nat) (x : Running) (s : State), s.run r i = some x → x.atStart = true → x.d.opc = 10 → x.d.aux = 0 → x.d.len = 4096 → p =
    s.gpnOf (s.fld (Reg.NMR_CFG_LD r)) x.d.src → s.inCapacity (s.fld (Reg.NMR_CFG_LD r)) x.d.src = true → s.switching 0 = false → (s.entry p).state =
    1 → (s.entry p).scnt ≠ 0 → s.shedFor p = none → ∃ u, exec (.tierHint r i) s = .next (settled u) ∧ endedAs r i ⟨0x12, 0, 1⟩ s u

/-- R315, Table 10.3: the CRC32C of the bytes, continued from AUX, is RESULT; the SHA-256 digest goes to RES; COMPARE ends with status 0 and RESULT
  0xFFFFFFFF, or with status 1 and the first offset that differs. R316: the check block is the combination of the data block that its coefficient
  gives. R317: the erased block is rebuilt from the lowest-numbered blocks left (here with one data and one check block). R319: the entry's
  operation, which AUX selects, is executed on its target. -/
def Obligations.EnginesCompute : Prop :=
  (∀ (r : Fin 256) (i : Nat) (x : Running) (v : Line) (s1 : State) (s : State), s.run r i = some x → x.atStart = true → x.d.opc = 4 → 0 < x.d.len →
    x.d.src % 64 + x.d.len ≤ 64 → engineReads x (s.fld (Reg.NMR_CFG_LD r)) (x.d.src / 64 * 64) s = some ((v, false), s1) → ∃ u, exec (.crc32c r i) s
    = .next (settled u) ∧ endedAs r i ⟨0, Crypto.crc32cFrom x.d.aux ((sliceBytes v (x.d.src % 64) x.d.len).map (BitVec.ofNat 8)), x.d.len⟩ s1 u) ∧
  (∀ (r : Fin 256) (i : Nat) (x : Running) (v : Line) (s1 s2 : State) (s : State), s.run r i = some x → x.atStart = true → x.d.opc = 5 → 0 < x.d.len
    → x.d.src % 64 + x.d.len ≤ 64 → engineReads x (s.fld (Reg.NMR_CFG_LD r)) (x.d.src / 64 * 64) s = some ((v, false), s1) → engineWrites x (s1.fld
    (Reg.NMR_CFG_LD r)) x.d.res (lineOf (List.replicate (x.d.res % 64) 0 ++ Crypto.sha256 (sliceBytes v (x.d.src % 64) x.d.len))) (BitVec.ofNat 64
    ((2 ^ 32 - 1) * 2 ^ (x.d.res % 64))) s1 = some s2 → ∃ u, exec (.sha256 r i) s = .next (settled u) ∧ endedAs r i ⟨0, 0, x.d.len⟩ s2 u) ∧
  (∀ (r : Fin 256) (i : Nat) (x : Running) (v : Line) (s1 s2 : State) (s : State), s.run r i = some x → x.atStart = true → x.d.opc = 6 → x.k = 1 →
    x.m = 1 → x.d.mat = false → x.d.len = 64 → engineReads x (s.fld (Reg.NMR_CFG_LD r)) x.d.src s = some ((v, false), s1) → engineWrites x (s1.fld
    (Reg.NMR_CFG_LD r)) x.d.dst (combine [Crypto.gfInv rsPoly 1] [v]) allBytes s1 = some s2 → ∃ u, exec (.rsEnc r i) s = .next (settled u) ∧ endedAs
    r i ⟨0, 0, 64⟩ s2 u) ∧
  (∀ (r : Fin 256) (i : Nat) (x : Running) (v : Line) (s1 s2 : State) (m : List Nat) (s : State), s.run r i = some x → x.atStart = true → x.d.opc = 7
    → x.k = 1 → x.m = 1 → x.d.mat = false → x.d.len = 64 → x.erased = [0] → x.rebuild = some [m] → engineReads x (s.fld (Reg.NMR_CFG_LD r)) (x.d.src
    + x.d.aux) s = some ((v, false), s1) → engineWrites x (s1.fld (Reg.NMR_CFG_LD r)) x.d.src (combine m [v]) allBytes s1 = some s2 → ∃ u, exec
    (.rsRec r i) s = .next (settled u) ∧ endedAs r i ⟨0, 1, 64⟩ s2 u) ∧
  (∀ (r : Fin 256) (i : Nat) (x : Running) (v w : Line) (s1 s2 : State) (s : State), s.run r i = some x → x.atStart = true → x.d.opc = 8 → 0 <
    x.d.len → x.d.src % 64 + x.d.len ≤ 64 → x.d.dst % 64 + x.d.len ≤ 64 → engineReads x (s.fld (Reg.NMR_CFG_LD r)) (x.d.src / 64 * 64) s = some ((v,
    false), s1) → engineReads x (s1.fld (Reg.NMR_CFG_LD r)) (x.d.dst / 64 * 64) s1 = some ((w, false), s2) → ∃ u, exec (.compare r i) s = .next
    (settled u) ∧ endedAs r i
    (match (List.range x.d.len).find? (fun j => (sliceBytes v (x.d.src % 64) x.d.len).getD j 0 != (sliceBytes w (x.d.dst % 64) x.d.len).getD j 0) with | some j => ⟨1, j, j + 1⟩ | none => ⟨0, 0xFFFFFFFF, x.d.len⟩) s2 u) ∧
  ∀ (r : Fin 256) (i k e a : Nat) (x : Running) (v : Line) (s1 s2 : State) (s : State), s.run r i = some x → x.atStart = true → x.d.opc = 9 → x.d.aux
    ≤ 6 → x.d.len = 16 → x.d.src % 16 = 0 → engineReads x (s.fld (Reg.NMR_CFG_LD r)) x.d.src s = some ((v, false), s1) → e = v.toNat / 256 ^ (x.d.src
    % 64) % 2 ^ 128 → a = e % 2 ^ 64 → a % (batchOp x.d.aux).2 = 0 → k = s1.fld (Reg.NMR_CFG_LD r) → s1.reachable k a = true → s1.isFrozen k a =
    false → fastAtomic (s1.engineReq x.eng k a 0 (.atomic
    { op := (batchOp x.d.aux).1, off := a % 64, bytes := (batchOp x.d.aux).2, operand := BitVec.ofNat 128 (e / 2 ^ 64), compare := 0 } false) 0 0
    false) { op := (batchOp x.d.aux).1, off := a % 64, bytes := (batchOp x.d.aux).2, operand := BitVec.ofNat 128 (e / 2 ^ 64), compare := 0 } s1 =
    some (false, s2) → ∃ u, exec (.atomicBatch r i) s = .next (settled u) ∧ endedAs r i ⟨0, 0, 1⟩ s2 u

/-- R221: a reading that fails is noted and retried 10 ms after; a DIMM that has been silent for 1 s has failed with cause 3 in service, and is
  rejected at a return command. R219, R221: an SPD that has been read before activation is recorded, with its capacity, its rank count and its
  retired ranks in the slot's DCC_SLOT register. R222: the hotter of the two sensors sets the slot's halved refresh interval and its throttling, with
  3 °C on the falling edge, and DCC_STS shows both for the channel; at 100 °C a DIMM in service has failed with cause 5. Table 7.2: a PMIC's readings
  are recorded, and a fault that it signals is a failure with cause 2. R257: a stack's reading sets its bits, and from 105 °C it is reported as
  source 0x0C. -/
def Obligations.DimmsAreMeasured : Prop :=
  (∀ (ch : Fin 16) (z : Fin 2) (k : DimmReading) (s : State), s.slotPowered ch z = true → (s.dimm ch z).failing = [] → (s.dcc ch).slots.length = 2 →
    ∃ t, exec (.spdReadRetry ch z k) s = .next t ∧ (t.dimm ch z).failing = [(k, s.clk)] ∧ (t.dimm ch z).info = (s.dimm ch z).info ∧ t.clk = s.clk ∧
    onlyRegs [] s t) ∧
  (∀ (ch : Fin 16) (z : Fin 2) (k : DimmReading) (t0 : Nat) (s : State), s.slotPowered ch z = true → (s.dimm ch z).failing = [(k, t0)] → ∃ t, exec
    (.spdReadRetry ch z k) s = .next t ∧ t.clk = s.clk + 10 * ms ∧ t.dram = s.dram ∧ onlyRegs timeRegs s t) ∧
  (∀ (ch : Fin 16) (z : Fin 2) (k : DimmReading) (t0 st : Nat) (s : State), (s.dcc ch).slots.length = 2 → (s.dimm ch z).failing = [(k, t0)] → (s.dimm
    ch z).prev = some st → ∃ u, exec (.spdSilent ch z) s = .next (settled u) ∧ t0 + sec ≤ u.clk ∧ u.slotState ch z = 9 ∧ (u.dimm ch z).failing = [] ∧
    (u.dimm ch z).prev = none ∧ u.fld Reg.DCM_SVC_STS_CODE = 4 ∧ u.on Reg.DCM_SVC_STS_BUSY = false ∧ sameMemory s u) ∧
  (∀ (ch : Fin 16) (z : Fin 2) (k : DimmReading) (t0 : Nat) (s : State), (s.dcc ch).slots.length = 2 → (s.dimm ch z).failing = [(k, t0)] → (s.dimm ch
    z).prev = none → s.slotState ch z = 3 → s.twoDpc = false → s.fld Reg.RST_STS_PHASE = 0 → ∃ u, exec (.spdSilent ch z) s = .next (settled u) ∧ t0 +
    sec ≤ u.clk ∧ u.slotState ch z = 7 ∧ u.fld (Reg.DCC_SLOT_CAUSE ch z) = 3 ∧ (u.fenceRecord ch (some z.val)).map FenceRecord.cause = some 3 ∧
    u.reported 0x07 (slotInst ch z) = true) ∧
  (∀ (ch : Fin 16) (z : Fin 2) (info : SpdInfo) (s : State), calm s = true → (s.dcc ch).slots.length = 2 → s.slotPowered ch z = true → (s.dimm ch
    z).fitted = true → s.slotState ch z = 1 → (s.dimm ch z).prev = none → s.dram.checked = true → ∃ t, exec (.spdReadDone ch z info) s = .next t ∧
    (t.dimm ch z).info = some info ∧ t.fld (Reg.DCC_SLOT_CAP ch z) = capCode info.capGib ∧ t.fld (Reg.DCC_SLOT_RANKS ch z) = (if info.ranks = 4 then
    2 else if info.ranks = 2 then 1 else 0) ∧ t.fld (Reg.DCC_SLOT_RET ch z) = (if (s.dimm ch z).retired.1 = info.serial then (s.dimm ch z).retired.2
    % 16 else 0) ∧ t.slotState ch z = 1 ∧ onlyRegs [Reg.DCC_SLOT ch z] s t) ∧
  (∀ (ch : Fin 16) (z : Fin 2) (a b : Fin 255) (s : State), calm s = true → (s.dcc ch).slots.length = 2 → a.val < 100 → b.val < 100 → ∃ t, exec
    (.dimmTempReading ch z a b) s = .next t ∧ t.fld (if z = 0 then Reg.DCC_TEMP_S0_TS0 ch else Reg.DCC_TEMP_S1_TS0 ch) = a.val ∧ t.fld (if z = 0 then
    Reg.DCC_TEMP_S0_TS1 ch else Reg.DCC_TEMP_S1_TS1 ch) = b.val ∧ (t.dimm ch z).fg = (decide (Nat.min 85 (s.fld (Reg.DCC_REF_FG_C ch)) ≤ Nat.max a b)
    || ((s.dimm ch z).fg && decide (Nat.min 85 (s.fld (Reg.DCC_REF_FG_C ch)) - 3 ≤ Nat.max a b))) ∧ (t.dimm ch z).thr = (decide (Nat.min 99 (s.fld
    (Reg.DCC_REF_THR_THROTTLE ch)) ≤ Nat.max a b) || ((s.dimm ch z).thr && decide (Nat.min 99 (s.fld (Reg.DCC_REF_THR_THROTTLE ch)) - 3 ≤ Nat.max a
    b))) ∧ t.on (Reg.DCC_STS_FG ch) = ((t.dimm ch 0).fg || (t.dimm ch 1).fg) ∧ t.on (Reg.DCC_STS_THROTTLE ch) = ((t.dimm ch 0).thr || (t.dimm ch
    1).thr) ∧ t.dimm ch (1 - z.val) = s.dimm ch (1 - z.val) ∧ onlyRegs [Reg.DCC_TEMP ch, Reg.DCC_STS ch] s t) ∧
  (∀ (ch : Fin 16) (z : Fin 2) (a b : Fin 255) (s : State), (s.dcc ch).slots.length = 2 → 100 ≤ a.val → s.slotState ch z = 3 → s.twoDpc = false →
    s.fld Reg.RST_STS_PHASE = 0 → ∃ u, exec (.dimmTempReading ch z a b) s = .next (settled u) ∧ u.slotState ch z = 7 ∧ u.fld (Reg.DCC_SLOT_CAUSE ch
    z) = 5 ∧ (u.fenceRecord ch (some z.val)).map FenceRecord.cause = some 5 ∧ u.reported 0x07 (slotInst ch z) = true) ∧
  (∀ (ch : Fin 16) (z : Fin 2) (mv ma : List Nat) (s : State), calm s = true → (s.dcc ch).slots.length = 2 → ∃ t, exec (.pmicReading ch z mv ma
    false) s = .next t ∧ (t.dimm ch z).rails = mv ∧ (t.dimm ch z).currents = ma ∧ (t.dimm ch z).info = (s.dimm ch z).info ∧ onlyRegs [] s t) ∧
  (∀ (ch : Fin 16) (z : Fin 2) (mv ma : List Nat) (s : State), (s.dcc ch).slots.length = 2 → s.slotState ch z = 3 → s.twoDpc = false → s.fld
    Reg.RST_STS_PHASE = 0 → ∃ u, exec (.pmicReading ch z mv ma true) s = .next (settled u) ∧ (u.dimm ch z).rails = mv ∧ u.slotState ch z = 7 ∧ u.fld
    (Reg.DCC_SLOT_CAUSE ch z) = 2 ∧ (u.fenceRecord ch (some z.val)).map FenceRecord.cause = some 2 ∧ u.reported 0x07 (slotInst ch z) = true) ∧
  (∀ (st : Fin 2) (c : Fin 256) (s : State), calm s = true → c.val < 105 → ∃ t, exec (.stackTempReading st c) s = .next t ∧ t.fld
    (Reg.HTC_PHY_STS_TEMP st) = c.val ∧ t.on (Reg.HTC_PHY_STS_FG st) = decide (85 ≤ c.val) ∧ t.on (Reg.HTC_PHY_STS_THROTTLE st) = decide (95 ≤ c.val)
    ∧ onlyRegs [Reg.HTC_PHY_STS st] s t) ∧
  ∀ (st : Fin 2) (c : Fin 256) (s : State), 105 ≤ c.val → s.isFenced (.stack st) = false → ∃ u, exec (.stackTempReading st c) s = .next (settled u) ∧
    u.reported 0x0C st = true ∧ u.fld (Reg.HTC_PHY_STS_TEMP st) = c.val ∧ onlyRegs [Reg.HTC_PHY_STS st] s u

/-- R224: a read or a write enters its queue. R228: a read whose stitch a queued write holds is answered from the queue and counted, and a write to a
  queued stitch replaces its data in place. R225: outside a holdover, the column command that the scheduler picks is carried out: a write stores its
  stitch and nothing else, a read answers its job with the stitch as it was when the read was accepted, and in a group a line access leaves its
  queue. R227: an idle row closes. R229: a refresh of a bank that has none ahead is postponed while C0 reads wait, and issued on an idle channel.
  R230: self-refresh closes every row; its exit runs ZQ calibration where a temperature has moved. R338: 20 µs without data make an erasure, counted
  as uncorrectable and reported. -/
def Obligations.ChannelsServeTheirQueues : Prop :=
  (∀ (ch : Fin 16) (id seam : Nat) (j : ReadJob) (s : State), s.job id = some j → j.needs.contains (seam, ch.val) = true → j.got = [] → (s.dcc ch).rq
    = [] → (s.dcc ch).wq = [] → (s.dcc ch).stopped = false → (s.rawStitch ch seam).isSome = true → ∃ t, exec (.dccReadRequest ch id seam) s = .next t
    ∧ (t.dcc ch).rq =
    [{ job := id, seam := seam, cls := s.jobRank j, val := (s.rawStitch ch seam).getD 0, openHint := s.openHint j seam ch, at_ := s.clk }] ∧ t.cold =
    s.cold ∧ onlyRegs [] s t) ∧
  (∀ (ch : Fin 16) (id seam : Nat) (j : ReadJob) (w : WriteEntry) (s : State), s.job id = some j → j.needs.contains (seam, ch.val) = true → j.got =
    [] → (s.dcc ch).rq = [] → (s.dcc ch).wq = [w] → w.seam = seam → (s.dcc ch).stopped = false → (s.rawStitch ch seam).isSome = true → ∃ t, exec
    (.dccReadRequest ch id seam) s = .next t ∧ (t.job id).map ReadJob.got = some [(seam, ch.val, some w.data)] ∧ t.fld (Reg.DCC_FWD_CNT_COUNT ch) =
    satAdd (Reg.DCC_FWD_CNT_COUNT ch).w (s.fld (Reg.DCC_FWD_CNT_COUNT ch)) 1 ∧ t.dcc ch = s.dcc ch ∧ onlyRegs [Reg.DCC_FWD_CNT ch] s t) ∧
  (∀ (ch : Fin 16) (seam : Nat) (w : StitchWrite) (s : State), s.cold.writes = [w] → w.seam = seam → w.ch = ch.val → s.writable ch seam = true →
    (s.dcc ch).stopped = false → s.slotState ch (s.slotOfSeam seam) ≠ 2 → (s.dcc ch).wq = [] → 1 < s.wqHigh ch → ∃ t, exec (.dccWriteRequest ch seam)
    s = .next t ∧ t.cold.writes = [] ∧ (t.dcc ch).wq = [{ seam := seam, data := w.data, at_ := s.clk }] ∧ (t.dcc ch).rq = (s.dcc ch).rq ∧ onlyRegs
    [Reg.DCC_STS ch] s t) ∧
  (∀ (ch : Fin 16) (seam : Nat) (w : StitchWrite) (e : WriteEntry) (s : State), s.cold.writes = [w] → w.seam = seam → w.ch = ch.val → s.writable ch
    seam = true → (s.dcc ch).stopped = false → s.slotState ch (s.slotOfSeam seam) ≠ 2 → (s.dcc ch).wq = [e] → e.seam = seam → ∃ t, exec
    (.dccWriteRequest ch seam) s = .next t ∧ t.cold.writes = [] ∧ (t.dcc ch).wq = [{ e with data := w.data }] ∧ (t.dcc ch).rq = (s.dcc ch).rq ∧
    onlyRegs [] s t) ∧
  (∀ (ch : Fin 16) (busy : List Nat) (e : WriteEntry) (s : State), calm s = true → s.on Reg.CLK_STS_HOLDOVER = false → (s.dcc ch).stopped = false →
    s.on Reg.FLT_INJ_ARM = false → s.nextColumn ch busy = some (.write e) → ∃ t, exec (.dccColumnCommand (.dcc ch) busy .ok) s = .next t ∧
    t.dimmStitch e.seam ch = e.data ∧ (∀ q c, c < 16 → (q, c) ≠ (e.seam, ch.val) → t.dimmStitch q c = s.dimmStitch q c) ∧ (∀ f l, t.stackLine f l =
    s.stackLine f l) ∧ ((t.dcc ch).wq.any fun w => w.seam == e.seam) = false ∧ sameRegsBut [Reg.DCC_STS ch] s t) ∧
  (∀ (ch : Fin 16) (busy : List Nat) (e : ReadEntry) (row miss : Bool) (j : ReadJob) (s : State), calm s = true → s.on Reg.CLK_STS_HOLDOVER = false →
    (s.dcc ch).stopped = false → s.armed 3 ch = false → (s.dcc ch).inject = [] → s.nextColumn ch busy = some (.read e row miss) → s.job e.job = some
    j → ∃ t, exec (.dccColumnCommand (.dcc ch) busy .ok) s = .next t ∧ (t.job e.job).map ReadJob.got = some (j.got ++ [(e.seam, ch.val, some e.val)])
    ∧ (t.dcc ch).rq = (s.dcc ch).rq.erase e ∧ (t.dcc ch).wq = (s.dcc ch).wq ∧ onlyRegs [] s t) ∧
  (∀ (st : Fin 2) (g : Fin 8) (busy : List Nat) (a : LineAccess) (s : State), s.on Reg.CLK_STS_HOLDOVER = false → s.dram.stackRetrain ≠ some (8 *
    st.val + g.val) → (s.group (8 * st.val + g.val)).rq = [a] → (s.group (8 * st.val + g.val)).wq = [] → busy.contains a.bank = false → ∃ t, exec
    (.dccColumnCommand (.group st g) busy .ok) s = .next t ∧ (t.group (8 * st.val + g.val)).rq = [] ∧ (t.group (8 * st.val + g.val)).wq = [] ∧ t.cold
    = s.cold ∧ onlyRegs [] s t) ∧
  (∀ (ch : Fin 16) (bank : Nat) (o : OpenRow) (s : State), (s.dcc ch).rows = [o] → o.bank = bank → ∃ t, exec (.openRowIdleClose (.dcc ch) bank) s =
    .next t ∧ o.at_ + s.fld (Reg.DCC_SCHED_OPEN ch) * 10 ≤ t.clk ∧ (t.dcc ch).rows = [] ∧ (t.dcc ch).rq = (s.dcc ch).rq ∧ onlyRegs timeRegs s t) ∧
  (∀ (ch : Fin 16) (id seam : Nat) (r : ReadEntry) (j : ReadJob) (s : State), (s.dcc ch).rq = [r] → r.job = id → r.seam = seam → s.job id = some j →
    ∃ u, exec (.stitchReadTimeout ch id seam) s = .next (settled u) ∧ r.at_ + 20000 ≤ u.clk ∧ (u.dcc ch).rq = [] ∧ (u.job id).map ReadJob.got = some
    (j.got ++ [(seam, ch.val, none)]) ∧ u.fld (Reg.DCC_ECC_UE ch) = satAdd (Reg.DCC_ECC_UE ch).w (s.fld (Reg.DCC_ECC_UE ch)) 1 ∧ u.reported 0x02
    (slotInst ch (s.slotOfSeam seam)) = true ∧ sameMemory s u) ∧
  (∀ (ch : Fin 16) (bank : Nat) (s : State), s.on (Reg.DCC_STS_SR ch) = false → (s.dcc ch).rq.any (fun r => r.cls == 0) = true → (s.dcc ch).due = []
    → (s.dcc ch).ahead = [] → ∃ t, exec (.refreshDue ch bank) s = .next t ∧ (t.dcc ch).due = [(bank, 1)] ∧ (t.dcc ch).rows = (s.dcc ch).rows.filter
    (fun o => o.bank != bank) ∧ (t.dcc ch).rq = (s.dcc ch).rq ∧ onlyRegs [] s t) ∧
  (∀ (ch : Fin 16) (bank : Nat) (s : State), s.on Reg.CLK_STS_HOLDOVER = false → s.on (Reg.DCC_STS_SR ch) = false → (s.dcc ch).rq = [] → (s.dcc
    ch).wq = [] → (s.dcc ch).due = [] → (s.dcc ch).ahead = [] → ∃ t, exec (.refreshDue ch bank) s = .next t ∧ (t.dcc ch).due = [] ∧ (t.dcc ch).rows =
    (s.dcc ch).rows.filter (fun o => o.bank != bank) ∧ onlyRegs [] s t) ∧
  (∀ (ch : Fin 16) (s : State), s.on (Reg.DCC_STS_READY ch) = true → s.on (Reg.DCC_STS_SR ch) = false → (s.dcc ch).rq = [] → (s.dcc ch).wq = [] → ∃
    t, exec (.selfRefreshEntry ch) s = .next t ∧ t.on (Reg.DCC_STS_SR ch) = true ∧ (t.dcc ch).stopped = true ∧ (t.dcc ch).rows = [] ∧ (t.dcc
    ch).srTemps = s.reg (Reg.DCC_TEMP ch) ∧ onlyRegs [Reg.DCC_STS ch] s t) ∧
  ∀ (ch : Fin 16) (s : State), s.on (Reg.DCC_STS_SR ch) = true → ∃ t, exec (.selfRefreshExit ch) s = .next t ∧ t.on (Reg.DCC_STS_SR ch) = false ∧
    (t.dcc ch).stopped = false ∧ (t.dcc ch).zqCal = tempMoved (s.dcc ch).srTemps (s.reg (Reg.DCC_TEMP ch)) ∧ onlyRegs [Reg.DCC_STS ch] s t

/-- R231: with a full training's results in force the slot of a channel with one DIMM serves, at once in hardware mode; a fast training with a
  failure is followed by a full one. R232: in host-assisted mode the results are held, and applied RET_WAIT_S later. R258: a stack whose groups need
  at most four spare lanes each is trained and ready. R233: a margining pass of a channel, MARGIN_H hours after the last in hardware mode, records
  the worst margins of its ranks, and a rank below MARGIN_MIN is retrained; the retrain is counted, and a rank whose margin is then below half of
  MARGIN_MIN is retired with cause 8. R258: a stack's group of that margin is fenced. R236, R238: patrol checks the seam at the cursor and goes on by
  one, or begins a new pass after the last seam; a free segment's seam is only read. -/
def Obligations.TrainingAndPatrol : Prop :=
  (∀ (ch : Fin 16) (s : State), calm s = true → s.on (Reg.DCC_STS_TRAINING ch) = true → s.on (Reg.DCC_STS_FENCED ch) = false → (s.dcc ch).held = none
    → (s.dcc ch).fast = false → s.on Reg.DCM_MODE_TRAIN_ACT = false → s.slotState ch 0 = 2 → s.slotState ch 1 = 0 → (s.dimm ch 0).prev = none →
    s.fenceRecord ch (some 0) = none → s.dram.dcm.slots = [] → s.fld Reg.RST_STS_PHASE = 0 → ∃ t, exec (.channelTrainingDone ch []) s = .next t ∧
    t.slotState ch 0 = 3 ∧ t.slotState ch 1 = 0 ∧ t.on (Reg.DCC_STS_TRAINING ch) = false ∧ t.on (Reg.DCC_STS_READY ch) = true ∧ onlyRegs
    [Reg.DCC_SLOT ch 0, Reg.DCC_STS ch] s t) ∧
  (∀ (ch : Fin 16) (s : State), s.on (Reg.DCC_STS_TRAINING ch) = true → (s.dcc ch).held = none → (s.dcc ch).fast = false → s.on
    Reg.DCM_MODE_TRAIN_ACT = true → ∃ t, exec (.channelTrainingDone ch []) s = .next t ∧ (t.dcc ch).held = some [] ∧ (t.dcc ch).heldAt = s.clk ∧ t.on
    (Reg.DCC_STS_TRAINING ch) = true ∧ t.flt = (s.vendor 0 0x0123 [ch.val]).flt ∧ t.lds = (s.vendor 0 0x0123 [ch.val]).lds ∧ onlyRegs [] s t) ∧
  (∀ (ch : Fin 16) (f : Fin 2 × Fin 4) (s : State), s.on (Reg.DCC_STS_TRAINING ch) = true → (s.dcc ch).held = none → (s.dcc ch).fast = true → ∃ t,
    exec (.channelTrainingDone ch [f]) s = .next t ∧ (t.dcc ch).fast = false ∧ t.on (Reg.DCC_STS_TRAINING ch) = true ∧ t.slotState ch f.1 =
    s.slotState ch f.1 ∧ onlyRegs [] s t) ∧
  (∀ (ch : Fin 16) (s : State), (s.dcc ch).held = some [] → s.slotState ch 0 = 2 → s.slotState ch 1 = 0 → (s.dimm ch 0).prev = none → s.fenceRecord
    ch (some 0) = none → s.dram.dcm.slots = [] → s.on (Reg.DCC_STS_FENCED ch) = false → s.fld Reg.RST_STS_PHASE = 0 → ∃ u, exec (.trainingHoldTimeout
    (.channel ch)) s = .next (settled u) ∧ (s.dcc ch).heldAt + zeroAsOne (s.fld Reg.DCM_TRAIN_CFG_RET_WAIT_S) * sec ≤ u.clk ∧ u.slotState ch 0 = 3 ∧
    (u.dcc ch).held = none ∧ u.on (Reg.DCC_STS_TRAINING ch) = false ∧ u.on (Reg.DCC_STS_READY ch) = true ∧ onlyRegs ([Reg.DCC_SLOT ch 0, Reg.DCC_STS
    ch] ++ timeRegs) s u) ∧
  (∀ (st : Fin 2) (lanes : List Nat) (s : State), calm s = true → s.on (Reg.HTC_PHY_STS_TRAINED st) = false → s.isFenced (.stack st) = false → s.fld
    Reg.RST_STS_PHASE = 5 → s.dram.stackHeld = [] → s.on Reg.DCM_MODE_TRAIN_ACT = false → ((List.range 8).all fun g => decide (lanes.getD g 0 ≤ 4)) =
    true → ∃ t, exec (.stackTrainingDone st lanes) s = .next t ∧ t.on (Reg.HTC_PHY_STS_TRAINED st) = true ∧ t.fld (Reg.HTC_PHY_STS_PCG_TRAINED st) =
    255 ∧ t.fld (Reg.HTC_PHY_STS_LANES_REPAIRED st) = (((List.range 8).map fun g => lanes.getD g 0).foldl (· + ·) 0) ∧ t.on (Reg.HTC_STS_READY st) =
    true ∧ onlyRegs [Reg.HTC_PHY_STS st, Reg.HTC_STS st] s t) ∧
  (∀ (ch : Fin 16) (x y : RankMargin) (s : State), s.on (Reg.DCC_STS_READY ch) = true → s.switching 4 = false → s.on Reg.DCM_MODE_TRAIN_ACT = false →
    s.fld Reg.DCM_TRAIN_CFG_MARGIN_H ≠ 0 → s.dram.stackRetrain = none → s.dram.dcm.retrainQ = [] → ((List.range 16).all fun c => (s.dcc
    c).retrain.isEmpty) = true → s.fld Reg.DCM_TRAIN_CFG_MARGIN_MIN ≤ Nat.min x.rd x.wr → s.fld Reg.DCM_TRAIN_CFG_MARGIN_MIN ≤ Nat.min y.rd y.wr →
    Nat.max x.rd x.wr < 256 → Nat.max y.rd y.wr < 256 → ∃ t, exec (.marginingPass (.channel ch) [x, y]) s = .next t ∧ (s.dcc ch).marginAt + s.fld
    Reg.DCM_TRAIN_CFG_MARGIN_H * 3600 * sec ≤ t.clk ∧ t.fld (Reg.DCC_MARGIN_RD_MIN ch) = Nat.min x.rd y.rd ∧ t.fld (Reg.DCC_MARGIN_WR_MIN ch) =
    Nat.min x.wr y.wr ∧ (t.dcc ch).retrain = [] ∧ t.dram.dcm.retrainQ = [] ∧ onlyRegs (Reg.DCC_MARGIN ch :: timeRegs) s t) ∧
  (∀ (ch : Fin 16) (x : RankMargin) (s : State), s.on (Reg.DCC_STS_READY ch) = true → s.switching 4 = false → s.on Reg.DCM_MODE_TRAIN_ACT = false →
    s.fld Reg.DCM_TRAIN_CFG_MARGIN_H ≠ 0 → s.dram.stackRetrain = none → s.dram.dcm.retrainQ = [] → ((List.range 16).all fun c => (s.dcc
    c).retrain.isEmpty) = true → (s.dcc ch).rq = [] → Nat.min x.rd x.wr < s.fld Reg.DCM_TRAIN_CFG_MARGIN_MIN → ∃ t, exec (.marginingPass (.channel
    ch) [x]) s = .next t ∧ (t.dcc ch).retrain = [(x.slot.val, x.rank.val)] ∧ t.on (Reg.DCC_STS_RETRAIN ch) = true ∧ t.dram.dcm.retrainQ = [] ∧
    onlyRegs ([Reg.DCC_MARGIN ch, Reg.DCC_STS ch] ++ timeRegs) s t) ∧
  (∀ (ch : Fin 16) (m : RankMargin) (s : State), calm s = true → (s.dcc ch).retrain = [(m.slot.val, m.rank.val)] → s.dram.dcm.retrainQ = [] → s.fld
    Reg.DCM_TRAIN_CFG_MARGIN_MIN ≤ 2 * m.rd → s.fld Reg.DCM_TRAIN_CFG_MARGIN_MIN ≤ 2 * m.wr → ∃ t, exec (.rankRetrainDone (.channel ch) m) s = .next
    t ∧ (t.dcc ch).retrain = [] ∧ t.on (Reg.DCC_STS_RETRAIN ch) = false ∧ t.fld (Reg.DCC_MARGIN_RETRAINS ch) = satAdd (Reg.DCC_MARGIN_RETRAINS ch).w
    (s.fld (Reg.DCC_MARGIN_RETRAINS ch)) 1 ∧ onlyRegs [Reg.DCC_MARGIN ch, Reg.DCC_STS ch] s t) ∧
  (∀ (ch : Fin 16) (m : RankMargin) (s : State), s.failable ch m.slot = true → s.bitOf (Reg.DCC_SLOT_RET ch m.slot) m.rank = false → (s.dcc
    ch).retrain = [(m.slot.val, m.rank.val)] → s.dram.dcm.retrainQ = [] → 2 * m.rd < s.fld Reg.DCM_TRAIN_CFG_MARGIN_MIN → ∃ u, exec (.rankRetrainDone
    (.channel ch) m) s = .next (settled u) ∧ (u.dcc ch).retrain = [] ∧ u.on (Reg.DCC_STS_RETRAIN ch) = false ∧ u.bitOf (Reg.DCC_SLOT_RET ch m.slot)
    m.rank = true ∧ u.reported 0x06 (slotInst ch m.slot) = true) ∧
  (∀ (st : Fin 2) (m : RankMargin) (s : State), s.dram.stackRetrain = some (8 * st.val + 4 * m.slot.val + m.rank.val) → s.dram.dcm.retrainQ = [] → 2
    * m.rd < s.fld Reg.DCM_TRAIN_CFG_MARGIN_MIN → ∃ u, exec (.rankRetrainDone (.stack st) m) s = .next (settled u) ∧ u.dram.stackRetrain = none ∧
    u.reported 0x0B (8 * st.val + 4 * m.slot.val + m.rank.val) = true ∧ onlyRegs [] s u) ∧
  (∀ (s : State), calm s = true → s.patrols = true → s.on Reg.DCM_MODE_PATROL_ACT = false → s.fld Reg.DCM_PATROL_STS_CURSOR + 1 < s.cold.nSeg * 4096
    → s.cold.nSeg ≤ 1048576 → s.segState (segOf (s.fld Reg.DCM_PATROL_STS_CURSOR)) = .free → ∃ t, exec (.patrolSeamCheck [] []) s = .next t ∧ t.fld
    Reg.DCM_PATROL_STS_CURSOR = s.fld Reg.DCM_PATROL_STS_CURSOR + 1 ∧ SMap.get 0 t.dram.dcm.visited (s.fld Reg.DCM_PATROL_STS_CURSOR) = s.clk ∧
    onlyRegs [Reg.DCM_PATROL_STS] s t) ∧
  (∀ (s : State), calm s = true → s.patrols = true → s.on Reg.DCM_MODE_PATROL_ACT = false → s.fld Reg.DCM_PATROL_STS_CURSOR + 1 = s.cold.nSeg * 4096
    → s.segState (segOf (s.fld Reg.DCM_PATROL_STS_CURSOR)) = .free → ∃ t, exec (.patrolSeamCheck [] []) s = .next t ∧ t.fld Reg.DCM_PATROL_STS_CURSOR
    = 0 ∧ t.fld Reg.DCM_PATROL_CNT_PASSES = satAdd Reg.DCM_PATROL_CNT_PASSES.w (s.fld Reg.DCM_PATROL_CNT_PASSES) 1 ∧ onlyRegs [Reg.DCM_PATROL_STS,
    Reg.DCM_PATROL_CNT] s t) ∧
  ∀ (seam : Nat) (s : State), s.patrols = true → s.on Reg.DCM_MODE_PATROL_ACT = true → seam < s.cold.nSeg * 4096 → s.segState (segOf seam) = .free →
    ∃ u, exec (.patrolFloorVisit seam [] []) s = .next (settled u) ∧ SMap.get 0 s.dram.dcm.visited seam + zeroAsOne (s.fld
    Reg.DCM_PATROL_CFG_FLOOR_D) * 86400 * sec ≤ u.clk ∧ SMap.get 0 u.dram.dcm.visited seam = u.clk ∧ onlyRegs timeRegs s u

/-- R240: PPR_THR uncorrectable errors of a row within 24 h replace it, and the repair enters the DIMM's list; only stitches of that row are written.
  R241, Table 7.5: UE_THR of a rank retire it, reported as source 0x06. R246: a unit of a rebuild with no segment to visit moves DONE on and is
  checkpointed. R244: a sealed segment is covered. R251, R252, R253, R255: the service commands that the slot's state allows answer code 0 and move
  the slot to evacuating, fenced for service, waiting to be measured, or back in service; from a head each of them is an access fault. -/
def Obligations.RepairRebuildService : Prop :=
  (∀ (ch : Fin 16) (z : Fin 2) (rank : Fin 4) (bank row : Nat) (s : State), zeroAsOne (s.fld (Reg.DCC_ERR_CFG_PPR_THR ch)) ≤ ((s.recentUe ch).filter
    fun u => u.z == z.val && u.rank == rank.val && u.bank == bank && u.row == row).length → ∃ u, exec (.rowRepair ch z rank bank row true) s = .next
    (settled u) ∧ u.fld (Reg.DCC_SLOT_PPR ch z) = satAdd 8 (s.fld (Reg.DCC_SLOT_PPR ch z)) 1 ∧ u.flash.rows = s.flash.rows ++ [(s.serialOf ch z,
    rank.val * 32 + bank, row)] ∧ (u.dcc ch).ueLog = (s.dcc ch).ueLog.filter (fun u => !(u.z == z.val && u.rank == rank.val && u.bank == bank &&
    u.row == row)) ∧ u.slotState ch z = s.slotState ch z ∧ (∀ f l, u.stackLine f l = s.stackLine f l) ∧ (∀ q c, c < 16 → ¬ (c = ch.val ∧ z.val *
    s.slotSeams + rank.val * (s.slotSeams / s.rankCount ch z) + 32 * (32 * row + bank % 4 * 8 + bank / 4) ≤ q ∧ q < z.val * s.slotSeams + rank.val *
    (s.slotSeams / s.rankCount ch z) + 32 * (32 * row + bank % 4 * 8 + bank / 4) + 32) → u.dimmStitch q c = s.dimmStitch q c) ∧ sameRegsBut
    [Reg.DCC_SLOT ch z] s u) ∧
  (∀ (ch : Fin 16) (z : Fin 2) (rank : Fin 4) (s : State), s.failable ch z = true → s.bitOf (Reg.DCC_SLOT_RET ch z) rank = false → zeroAsOne (s.fld
    (Reg.DCC_ERR_CFG_UE_THR ch)) ≤ ((s.recentUe ch).filter fun u => u.z == z.val && u.rank == rank.val).length → ∃ u, exec (.rankRetire ch z rank) s
    = .next (settled u) ∧ u.bitOf (Reg.DCC_SLOT_RET ch z) rank = true ∧ u.reported 0x06 (slotInst ch z) = true) ∧
  (∀ (b : Fin 4) (s : State), calm s = true → s.patrols = true → s.on (Reg.DCM_BLK_VALID b) = true → s.fld (Reg.DCM_BLK_OP b) = 1 → s.fld
    (Reg.DCM_BLK_DONE b) + 1 < s.slotUnits → s.fld (Reg.DCM_BLK_DONE b) < 8191 → ((s.unitSegs (s.fld (Reg.DCM_BLK_SLOT b)) (s.fld (Reg.DCM_BLK_DONE
    b))).all fun g => !s.visits g) = true → ∃ t, exec (.rebuildUnitDone b []) s = .next t ∧ t.fld (Reg.DCM_BLK_DONE b) = s.fld (Reg.DCM_BLK_DONE b) +
    1 ∧ t.fld (Reg.DCM_BLK_OP b) = 1 ∧ t.cold.nextSeq = s.cold.nextSeq + 1 ∧ s.dram.dcm.unitAt.getD b 0 ≤ t.clk ∧ onlyRegs (Reg.DCM_BLK b ::
    timeRegs) s t) ∧
  (∀ (b : Fin 4) (seg : Nat) (s : State), calm s = true → s.on (Reg.DCM_BLK_VALID b) = true → s.fld (Reg.DCM_BLK_OP b) = 3 → (s.needsCover
    b).contains seg = true → s.visits seg = true → s.inRange b seg = true → s.writtenSeams seg = [] → s.cold.stitches = [] → ∃ t, exec
    (.coverageRefresh b seg []) s = .next t ∧ SMap.get false t.dram.dcm.cover (b.val * 1048576 + (seg - s.fld (Reg.DCM_BLK_SLOT b) * s.slotSegs)) =
    true ∧ onlyRegs [] s t) ∧
  (∀ (ch : Fin 16) (z : Fin 2) (b : Nat) (s : State), s.slotState ch z = 3 → s.serviceRuns ch = false → s.blockOf ch z = none → s.freeBlock z = some
    b → b < 4 → ∃ u, exec (.evacuate .plaza ch z) s = .next (settled u) ∧ u.slotState ch z = 4 ∧ u.on (Reg.DCM_BLK_VALID b) = true ∧ u.fld
    (Reg.DCM_BLK_OP b) = 2 ∧ u.fld (Reg.DCM_BLK_CH b) = ch.val ∧ u.fld (Reg.DCM_BLK_SLOT b) = z.val ∧ u.fld (Reg.DCM_BLK_DONE b) = 0 ∧ u.fld
    Reg.DCM_SVC_STS_CODE = 0 ∧ sameMemory s u) ∧
  (∀ (ch : Fin 16) (z : Fin 2) (b : Nat) (s : State), calm s = true → s.slotState ch z = 5 → s.blockOf ch z = some b → s.cold.nLedger = 0 →
    s.cold.segs = [] → (s.dcc ch).rq = [] → (s.dcc ch).wq = [] → ∃ t, exec (.fenceForService .plaza ch z) s = .next t ∧ t.slotState ch z = 6 ∧
    (t.fenceRecord ch (some z.val)).map FenceRecord.serial = some (s.serialOf ch z) ∧ t.fld Reg.DCM_SVC_STS_CODE = 0 ∧ sameMemory s t) ∧
  (∀ (ch : Fin 16) (z : Fin 2) (s : State), calm s = true → [6, 7, 10].contains (s.slotState ch z) = true → s.slotPowered ch z = true → s.serviceRuns
    ch = false → (s.dcc ch).slots.length = 2 → ∃ t, exec (.slotReturn .plaza ch z) s = .next t ∧ t.slotState ch z = 1 ∧ t.on Reg.DCM_SVC_STS_BUSY =
    true ∧ t.fld Reg.DCM_SVC_STS_CODE = 0 ∧ (t.dimm ch z).prev = some (s.slotState ch z) ∧ (t.dimm ch z).info = none ∧ onlyRegs [Reg.DCM_SVC_STS,
    Reg.DCC_SLOT ch z] s t) ∧
  (∀ (ch : Fin 16) (z : Fin 2) (b : Nat) (s : State), [4, 5].contains (s.slotState ch z) = true → s.blockOf ch z = some b → s.dram.dcm.pend = [] → ∃
    u, exec (.cancelEvacuation .plaza ch z) s = .next (settled u) ∧ u.slotState ch z = 3 ∧ u.on (Reg.DCM_BLK_VALID b) = false ∧ u.fld
    Reg.DCM_SVC_STS_CODE = 0 ∧ u.cold.nextSeq = s.cold.nextSeq + 1 ∧ sameMemory s u) ∧
  ∀ (h : Fin 4) (k : Fin 16) (ch : Fin 16) (z : Fin 2) (c : Instr) (s : State), [Instr.evacuate (.head h k) ch z, .fenceForService (.head h k) ch z,
    .slotReturn (.head h k) ch z, .cancelEvacuation (.head h k) ch z].contains c = true → ∃ u, exec (c) s = .next (settled u) ∧ u.reported 0x1D 0 =
    true ∧ u.slotState ch z = s.slotState ch z ∧ onlyRegs [] s u

/-- R330, R331: a report of a source whose effective reaction is 0 is only counted; a reserved source does nothing. R340, Table 11.1: the first
  report of a source of effective code 1 (here DIMM_CE, HOST_VIRAL and 0x2F) is latched with its source, instance, action, time and detail, and PEND
  is set. R341: DONE follows the effect of the reaction. R334: where a decision does not come, the floor's action is all that is done if EFF is no
  wider; a wider EFF is applied by the module and recorded in the latch, and a fence of an NME is carried out. R335: 1 s after its fence an NME is
  sent to a Level 3 reset, once between Level 4 resets. -/
def Obligations.FaultsAreJudged : Prop :=
  (∀ (src inst : BitVec 8) (info : List Nat) (s : State), calm s = true → knownSource src.toNat = true → s.eff src.toNat = 0 → s.fld
    Reg.RST_STS_LEVEL = 0 → ∃ t, exec (.faultReport src inst info) s = .next t ∧ t.fld (Reg.FLT_SSTS_COUNT src.toNat) = satAdd (Reg.FLT_SSTS_COUNT
    src.toNat).w (s.fld (Reg.FLT_SSTS_COUNT src.toNat)) 1 ∧ t.fld (Reg.FLT_SSTS_LAST_INST src.toNat) = inst.toNat ∧ t.fld (Reg.FLT_SSTS_PEND
    src.toNat) = s.fld (Reg.FLT_SSTS_PEND src.toNat) ∧ t.flt.fenced = s.flt.fenced ∧ onlyRegs [Reg.FLT_SSTS src.toNat] s t) ∧
  (∀ (src inst : BitVec 8) (info : List Nat) (s : State), calm s = true → knownSource src.toNat = false → s.fld Reg.RST_STS_LEVEL = 0 → exec
    (.faultReport src inst info) s = .next (s)) ∧
  (∀ (src inst : BitVec 8) (a : Nat) (s : State), calm s = true → s.fld Reg.RST_STS_LEVEL = 0 → [0x01, 0x18, 0x2F].contains src.toNat = true → s.eff
    src.toNat = 1 → s.asks src.toNat = false → s.on Reg.FLT_FIRST_VALID = false → ∃ t, exec (.faultReport src inst [a]) s = .next t ∧ t.on
    Reg.FLT_FIRST_VALID = true ∧ t.fld Reg.FLT_FIRST_SRC = src.toNat ∧ t.fld Reg.FLT_FIRST_INST = inst.toNat ∧ t.fld Reg.FLT_FIRST_ACT = 1 ∧ (t.reg
    (Reg.FLT_FIRST_INFO 0)).toNat = a % 2 ^ 32 ∧ t.flt.firstAt = s.clk ∧ (t.reg Reg.FLT_FIRST_TIME_LO).toNat = s.time % 2 ^ 32 ∧ (t.reg
    (Reg.FLT_FIRST_INFO 1)).toNat = 0 ∧ t.fld (Reg.FLT_SSTS_COUNT src.toNat) = satAdd (Reg.FLT_SSTS_COUNT src.toNat).w (s.fld (Reg.FLT_SSTS_COUNT
    src.toNat)) 1 ∧ t.on (Reg.FLT_SSTS_PEND src.toNat) = true ∧ t.flt.fenced = s.flt.fenced ∧ sameMemory s t) ∧
  (∀ (s : State), s.on Reg.FLT_FIRST_VALID = true → s.on Reg.FLT_FIRST_DONE = false → s.effective = true → s.effectNs (s.fld Reg.FLT_FIRST_SRC) = 0 →
    ∃ t, exec (.firstReactionDone) s = .next t ∧ s.flt.firstAt ≤ t.clk ∧ t.on Reg.FLT_FIRST_DONE = true ∧ t.fld Reg.FLT_FIRST_SRC = s.fld
    Reg.FLT_FIRST_SRC ∧ t.flt.fenced = s.flt.fenced ∧ onlyRegs ([Reg.FLT_FIRST, Reg.FLT_INTR] ++ timeRegs) s t) ∧
  (∀ (src inst : BitVec 8) (d : Decision) (s : State), s.waiting src.toNat inst.toNat = some d → s.eff src.toNat ≤ s.fld (Reg.FLT_REACT_FLOOR
    d.report.src) → ∃ u, exec (.hostDecisionTimeout src inst) s = .next (settled u) ∧ d.due ≤ u.clk ∧ u.flt.awaiting = s.flt.awaiting.filter (fun x
    => !(x.report.src == d.report.src && x.report.inst == d.report.inst)) ∧ u.flt.fenced = s.flt.fenced ∧ sameMemory s u) ∧
  (∀ (src inst : BitVec 8) (d : Decision) (s : State), s.waiting src.toNat inst.toNat = some d → src.toNat ≠ 0x23 → s.eff src.toNat = 2 → s.fld
    (Reg.FLT_REACT_FLOOR d.report.src) < 2 → s.on Reg.FLT_FIRST_VALID = true → s.fld Reg.FLT_FIRST_SRC = src.toNat → s.fld Reg.FLT_FIRST_INST =
    inst.toNat → ∃ u, exec (.hostDecisionTimeout src inst) s = .next (settled u) ∧ d.due ≤ u.clk ∧ u.flt.awaiting = s.flt.awaiting.filter (fun x =>
    !(x.report.src == d.report.src && x.report.inst == d.report.inst)) ∧ u.fld Reg.FLT_FIRST_ACT = 2 ∧ u.flt.fenced = s.flt.fenced ∧ sameMemory s u)
    ∧
  (∀ (src inst : BitVec 8) (d : Decision) (e : Nat) (s : State), s.waiting src.toNat inst.toNat = some d → src.toNat ≠ 0x23 → s.eff src.toNat = 4 →
    s.fld (Reg.FLT_REACT_FLOOR d.report.src) < 4 → s.blocksOf d.report = [Block.engine e] → ∃ u, exec (.hostDecisionTimeout src inst) s = .next
    (settled u) ∧ d.due ≤ u.clk ∧ u.isFenced (.engine e) = true ∧ u.flt.awaiting = s.flt.awaiting.filter (fun x => !(x.report.src == d.report.src &&
    x.report.inst == d.report.inst))) ∧
  ∀ (dom : Fin 144) (n : Nat) (s : State), s.flt.returnAt = [(blockOfDomain dom, n)] → s.isFenced (blockOfDomain dom) = true → s.on
    Reg.FLT_CFG_MODE_ACT = false → s.on Reg.FLT_CFG_RETURN_EN = true → s.flt.returned = [] → s.rst.blocks = [] → 122 ≤ dom.val → dom.val < 130 →
    s.effLevel 7 < 4 → ∃ u, exec (.autoReturnTimer dom) s = .next (settled u) ∧ n + sec ≤ u.clk ∧ u.flt.returned = [blockOfDomain dom] ∧
    u.flt.returnAt = [] ∧ (u.rst.blocks.any fun b => b.dom == dom.val) = true ∧ sameMemory s u

/-- R343: the first-error latch is cleared only once DONE is 1, and ignored before. R344: PEND and OVF of a source are cleared by the writes that
  name them. R345: a forced report of an admitted source is counted and reaches the collector as injected; in the Retired state it is refused with
  code 1 and nothing else happens. An injection of class B is armed while the life-cycle code is below 2. From a head each of these is an access
  fault. R351: the scrubber rewrites a wrong column-parity word, counts a pass after the last block, and reports wrong bits beyond one as source
  0x23. R350: a use of a word with one wrong bit is reported as source 0x22 and leaves the stored word as it is; a write of the word leaves no wrong
  bit. -/
def Obligations.FaultRegistersAndInjection : Prop :=
  (∀ (s : State), calm s = true → s.on Reg.FLT_FIRST_VALID = true → s.on Reg.FLT_FIRST_DONE = true → ∃ t, exec (.firstErrorClear .plaza) s = .next t
    ∧ t.reg Reg.FLT_FIRST = 0 ∧ t.reg (Reg.FLT_FIRST_INFO 0) = 0 ∧ t.reg (Reg.FLT_FIRST_INFO 3) = 0 ∧ t.flt.firstBlocks = [] ∧ t.flt.fenced =
    s.flt.fenced ∧ onlyRegs [Reg.FLT_FIRST, Reg.FLT_FIRST_TIME_LO, Reg.FLT_FIRST_TIME_HI, Reg.FLT_FIRST_INFO 0, Reg.FLT_FIRST_INFO 1,
    Reg.FLT_FIRST_INFO 2, Reg.FLT_FIRST_INFO 3] s t) ∧
  (∀ (s : State), calm s = true → s.on Reg.FLT_FIRST_DONE = false → exec (.firstErrorClear .plaza) s = .next (s)) ∧
  (∀ (k : Fin 64) (ovf : Bool) (s : State), calm s = true → ∃ t, exec (.sourcePendClear .plaza k ovf) s = .next t ∧ t.on (Reg.FLT_SSTS_PEND k) =
    false ∧ t.on (Reg.FLT_SSTS_OVF k) = (s.on (Reg.FLT_SSTS_OVF k) && !ovf) ∧ t.fld (Reg.FLT_SSTS_COUNT k) = s.fld (Reg.FLT_SSTS_COUNT k) ∧ onlyRegs
    [Reg.FLT_SSTS k] s t) ∧
  (∀ (src inst : BitVec 8) (s : State), s.lifeCycle ≠ 3 → knownSource (src.toNat % 64) = true → s.eff (src.toNat % 64) < 6 → s.noInstance (src.toNat
    % 64) inst.toNat = false → ∃ u, exec (.forceReport .plaza src inst) s = .next (settled u) ∧ u.fld Reg.FLT_FORCE_STS_CODE = 0 ∧ u.fld
    Reg.FLT_FORCE_STS_COUNT = satAdd Reg.FLT_FORCE_STS_COUNT.w (s.fld Reg.FLT_FORCE_STS_COUNT) 1 ∧ u.flt.inbox = s.flt.inbox ++
    [{ src := src.toNat % 64, inst := inst.toNat, inj := true, forced := true }] ∧ onlyRegs [Reg.FLT_FORCE_STS] s u) ∧
  (∀ (src inst : BitVec 8) (s : State), calm s = true → s.lifeCycle = 3 → ∃ t, exec (.forceReport .plaza src inst) s = .next t ∧ t.fld
    Reg.FLT_FORCE_STS_CODE = 1 ∧ t.fld Reg.FLT_FORCE_STS_COUNT = s.fld Reg.FLT_FORCE_STS_COUNT ∧ onlyRegs [Reg.FLT_FORCE_STS] s t) ∧
  (∀ (tgt : BitVec 4) (inst bit : BitVec 8) (s : State), calm s = true → 1 ≤ tgt.toNat → tgt.toNat ≤ 8 → s.lifeCycle < 2 → s.noTarget tgt.toNat
    inst.toNat = false → ∃ t, exec (.armInjection .plaza tgt inst bit) s = .next t ∧ t.on Reg.FLT_INJ_ARM = true ∧ t.fld Reg.FLT_INJ_TGT = tgt.toNat
    ∧ t.fld Reg.FLT_INJ_INST = inst.toNat ∧ t.fld Reg.FLT_INJ_BIT = bit.toNat ∧ t.fld Reg.FLT_FORCE_STS_CODE = 0 ∧ t.on Reg.FLT_FORCE_STS_FIRED =
    false ∧ t.fld Reg.FLT_FORCE_STS_COUNT = satAdd Reg.FLT_FORCE_STS_COUNT.w (s.fld Reg.FLT_FORCE_STS_COUNT) 1 ∧ onlyRegs [Reg.FLT_INJ,
    Reg.FLT_FORCE_STS] s t) ∧
  (∀ (h : Fin 4) (k : Fin 16) (src inst bit : BitVec 8) (tgt : BitVec 4) (n : Fin 64) (ovf : Bool) (c : Instr) (s : State), [Instr.firstErrorClear
    (.head h k), .sourcePendClear (.head h k) n ovf, .forceReport (.head h k) src inst, .armInjection (.head h k) tgt inst bit].contains c = true → ∃
    u, exec (c) s = .next (settled u) ∧ u.reported 0x1D 0 = true ∧ onlyRegs [] s u) ∧
  (∀ (dom : Fin 144) (array blk b : Nat) (s : State), calm s = true → s.sramPowered dom = true → s.sramBad (dom.val * 2 ^ 32 + (array % 65536 + blk %
    65536 * 65536)) = [] → b ≠ 0 → ∃ t, exec (.sramScrubVisit (some dom) array blk [(64, b)] (.scrub false)) s = .next t ∧ t.fld Reg.FLT_SCRUB_MENDED
    = satAdd Reg.FLT_SCRUB_MENDED.w (s.fld Reg.FLT_SCRUB_MENDED) 1 ∧ t.fld Reg.FLT_SCRUB_PASSES = s.fld Reg.FLT_SCRUB_PASSES ∧ t.sramBad (dom.val * 2
    ^ 32 + (array % 65536 + blk % 65536 * 65536)) = [] ∧ onlyRegs [Reg.FLT_SCRUB] s t) ∧
  (∀ (dom : Fin 144) (array blk : Nat) (s : State), calm s = true → s.sramPowered dom = true → s.sramBad (dom.val * 2 ^ 32 + (array % 65536 + blk %
    65536 * 65536)) = [] → ∃ t, exec (.sramScrubVisit (some dom) array blk [] (.scrub true)) s = .next t ∧ t.fld Reg.FLT_SCRUB_PASSES = satAdd
    Reg.FLT_SCRUB_PASSES.w (s.fld Reg.FLT_SCRUB_PASSES) 1 ∧ t.fld Reg.FLT_SCRUB_MENDED = s.fld Reg.FLT_SCRUB_MENDED ∧ onlyRegs [Reg.FLT_SCRUB] s t) ∧
  (∀ (dom : Fin 144) (array blk : Nat) (s : State), s.sramPowered dom = true → s.sramBad (dom.val * 2 ^ 32 + (array % 65536 + blk % 65536 * 65536)) =
    [] → ∃ u, exec (.sramScrubVisit (some dom) array blk [(0, 1), (1, 2)] (.scrub false)) s = .next (settled u) ∧ u.reported 0x23 dom = true ∧
    onlyRegs [] s u) ∧
  (∀ (dom : Fin 144) (array blk b : Nat) (w : Fin 64) (s : State), s.sramPowered dom = true → s.sramBad (dom.val * 2 ^ 32 + (array % 65536 + blk %
    65536 * 65536)) = [(w.val, b)] → ∃ u, exec (.sramScrubVisit (some dom) array blk [] (.read w)) s = .next (settled u) ∧ u.reported 0x22 dom = true
    ∧ u.sramBad (dom.val * 2 ^ 32 + (array % 65536 + blk % 65536 * 65536)) = [(w.val, b)] ∧ onlyRegs [] s u) ∧
  ∀ (dom : Fin 144) (array blk b : Nat) (w : Fin 64) (s : State), s.sramPowered dom = true → s.sramBad (dom.val * 2 ^ 32 + (array % 65536 + blk %
    65536 * 65536)) = [(w.val, b)] → ∃ u, exec (.sramScrubVisit (some dom) array blk [] (.write w)) s = .next (settled u) ∧ u.sramBad (dom.val * 2 ^
    32 + (array % 65536 + blk % 65536 * 65536)) = [] ∧ u.reported 0x22 dom = true ∧ onlyRegs [] s u

/-- R361, R363: a domain that may be gated takes the condition of Table 12.4 and its gate closes, one that Trim gates TRIM_IDLE after its last use;
  powered up it is counted. R362: a wake in the first 60 ns of a power-down abandons it, counted. R366, R369, R370: an idle module enters Doze and
  leaves it at a wake, counted. R371, R372: Keep begins with the releases, from Doze after its exit, then asks VCORE and VSRAM for retention voltage;
  its exit begins with the voltage requests. R374: a wake in a sleep is recorded with its code and instance, code 6 where the state is deeper than
  allowed. R368: 600 s into a sleep the maintenance burst wakes the module, from Keep by the voltage requests. R365: a present head's latency
  tolerance is taken, an absent head's write ignored. -/
def Obligations.PowerStatesAndDomains : Prop :=
  (∀ (p : Path) (h : Fin 4) (v : BitVec 32) (s : State), s.present h = true → s.fld Reg.PWR_STS_STATE < 2 → ∃ t, exec (.latencyToleranceWrite p h v)
    s = .next t ∧ t.fld (Reg.HPA_LAT_TOL_TOL_NS h) = v.toNat % 2 ^ (Reg.HPA_LAT_TOL_TOL_NS h).w ∧ onlyRegs [Reg.HPA_LAT_TOL h] s t) ∧
  (∀ (p : Path) (h : Fin 4) (v : BitVec 32) (s : State), s.present h = false → exec (.latencyToleranceWrite p h v) s = .next (s)) ∧
  (∀ (d : Fin 144) (c : DomCond) (s : State), s.trimGroup d = [d.val] → s.gateTarget d = some c → s.noc.closed.contains d.val = false → ∃ t, exec
    (.domainPowerDown d) s = .next t ∧ t.cond d = c ∧ t.noc.closed = s.noc.closed ++ [d.val] ∧ t.pwr.downs = (d.val, t.clk) :: s.pwr.downs.filter
    (fun e => e.1 != d.val) ∧ (c = .retained → SMap.get 0 s.pwr.usedAt d + zeroAsOne (s.fld Reg.PWR_CFG_TRIM_IDLE) * 100 ≤ t.clk) ∧ onlyRegs timeRegs
    s t) ∧
  (∀ (d : Fin 144) (s : State), s.pwr.downs = [] → s.domFenced d = false → s.tableCond 0 d = .on → s.cond d = .retained → ∃ t, exec (.domainPowerUp
    d) s = .next t ∧ t.cond d = .on ∧ t.noc.closed = s.noc.closed.filter (· != d.val) ∧ t.fld Reg.PWR_GATE_CNT_COUNT = satAdd
    Reg.PWR_GATE_CNT_COUNT.w (s.fld Reg.PWR_GATE_CNT_COUNT) 1 ∧ sameMemory s t) ∧
  (∀ (d : Fin 144) (a : Nat) (s : State), s.pwr.downs = [(d.val, a)] → s.clk < a + 60 → ∃ t, exec (.domainPowerUp d) s = .next t ∧ t.cond d = .on ∧
    t.pwr.downs = [] ∧ t.noc.closed = s.noc.closed.filter (· != d.val) ∧ t.fld Reg.PWR_ABORT_BEFORE_CLAMP = satAdd Reg.PWR_ABORT_BEFORE_CLAMP.w
    (s.fld Reg.PWR_ABORT_BEFORE_CLAMP) 1 ∧ onlyRegs [Reg.PWR_ABORT] s t) ∧
  (∀ (s : State), (s.until (s.pwr.idleSince + s.dozeIdle)).mayEnter 2 = true → s.fld Reg.PWR_STS_STATE = 0 → s.domFenced 42 = false → s.on
    (Reg.DCC_STS_READY 3) = true → ∃ t, exec (.dozeEntry) s = .next t ∧ s.pwr.idleSince + s.dozeIdle ≤ t.clk ∧ t.fld Reg.PWR_STS_STATE = 2 ∧ t.cond
    42 = .off ∧ t.on (Reg.DCC_STS_SR 3) = true ∧ t.pwr.burstAt = t.clk ∧ t.pwr.inBurst = false) ∧
  (∀ (w : Nat) (s : State), s.fld Reg.PWR_STS_STATE = 2 → s.pwr.wake = some w → ∃ t, exec (.dozeExit) s = .next t ∧ t.fld Reg.PWR_STS_STATE = 0 ∧
    t.pwr.wake = none ∧ t.cond 42 = s.tableCond 0 42 ∧ t.fld Reg.PWR_EXIT_CNT_DOZE = satAdd Reg.PWR_EXIT_CNT_DOZE.w (s.fld Reg.PWR_EXIT_CNT_DOZE) 1 ∧
    sameMemory s t) ∧
  (∀ (s : State), (s.until (s.pwr.idleSince + s.keepIdle)).mayEnter 3 = true → s.fld Reg.PWR_STS_STATE = 0 → ∃ t, exec (.keepEntry) s = .next t ∧
    s.pwr.idleSince + s.keepIdle ≤ t.clk ∧ t.pwr.move = .keepReleasing ∧ t.on Reg.PWR_STS_TRANS = true ∧ t.fld Reg.PWR_STS_STATE = 0 ∧ onlyRegs
    (Reg.PWR_STS :: timeRegs) s t) ∧
  (∀ (s : State), (s.until (s.pwr.idleSince + s.keepIdle)).mayEnter 3 = true → s.fld Reg.PWR_STS_STATE = 2 → ∃ t, exec (.keepEntry) s = .next t ∧
    s.pwr.idleSince + s.keepIdle ≤ t.clk ∧ t.pwr.move = .keepReleasing ∧ t.on Reg.PWR_STS_TRANS = true ∧ t.fld Reg.PWR_STS_STATE = 0 ∧ t.fld
    Reg.PWR_EXIT_CNT_DOZE = satAdd Reg.PWR_EXIT_CNT_DOZE.w (s.fld Reg.PWR_EXIT_CNT_DOZE) 1 ∧ sameMemory s t) ∧
  (∀ (s : State), s.pwr.move = .keepReleasing → ∃ t, exec (.keepReleasesDone) s = .next t ∧ t.pwr.move = .keepRails ∧ (t.pwr.reqs.map fun r =>
    (r.rail, r.mv)).contains (0, 600) = true ∧ (t.pwr.reqs.map fun r => (r.rail, r.mv)).contains (1, 650) = true ∧ t.fld Reg.PWR_STS_STATE = s.fld
    Reg.PWR_STS_STATE) ∧
  (∀ (w : Nat) (s : State), s.fld Reg.PWR_STS_STATE = 3 → s.pwr.wake = some w → s.pwr.move = .none → ∃ t, exec (.keepExit) s = .next t ∧ t.pwr.move =
    .keepExit ∧ t.pwr.wake = none ∧ (t.pwr.reqs.map fun r => (r.rail, r.mv)).contains (0, 750) = true ∧ (t.pwr.reqs.map fun r => (r.rail,
    r.mv)).contains (1, 800) = true ∧ t.on Reg.PWR_STS_TRANS = true ∧ onlyRegs [Reg.PWR_STS, Reg.PWR_REG_STS] s t) ∧
  (∀ (src : Fin 9) (inst : BitVec 8) (s : State), src.val ≠ 0 → src.val ≠ 6 ∨ s.allowed < s.fld Reg.PWR_STS_STATE → s.on Reg.PWR_STS_FORCED = false →
    s.pwr.move = .none → 2 ≤ s.fld Reg.PWR_STS_STATE → s.pwr.wake = none → ∃ t, exec (.wake src inst) s = .next t ∧ t.pwr.wake = some src.val ∧ t.fld
    Reg.PWR_LAST_WAKE_SRC = src.val ∧ t.fld Reg.PWR_LAST_WAKE_INST = inst.toNat ∧ t.fld Reg.PWR_STS_STATE = s.fld Reg.PWR_STS_STATE ∧ onlyRegs
    [Reg.PWR_LAST_WAKE] s t) ∧
  (∀ (s : State), s.fld Reg.PWR_STS_STATE = 2 → s.on Reg.PWR_STS_FORCED = false → s.pwr.move = .none → s.pwr.wake = none → ∃ t, exec
    (.maintenanceBurst) s = .next t ∧ s.pwr.burstAt + 600 * sec ≤ t.clk ∧ t.pwr.inBurst = true ∧ t.fld Reg.PWR_STS_STATE = 0 ∧ t.fld
    Reg.PWR_LAST_WAKE_SRC = 7 ∧ sameMemory s t) ∧
  ∀ (s : State), s.fld Reg.PWR_STS_STATE = 3 → s.on Reg.PWR_STS_FORCED = false → s.pwr.move = .none → s.pwr.wake = none → ∃ t, exec
    (.maintenanceBurst) s = .next t ∧ s.pwr.burstAt + 600 * sec ≤ t.clk ∧ t.pwr.inBurst = true ∧ t.pwr.move = .keepExit ∧ t.fld Reg.PWR_STS_STATE = 3
    ∧ t.fld Reg.PWR_LAST_WAKE_SRC = 7 ∧ onlyRegs ([Reg.PWR_LAST_WAKE, Reg.PWR_STS, Reg.PWR_REG_STS] ++ timeRegs) s t

/-- R381: in Full and Trim VCORE is asked for inside 0.70 to 0.80 V, and the request is outstanding. R380: an acknowledgement sets the rail and ends
  the request; the step that waited for the rails goes on, here the entry to Keep. Without one in 100 µs it is counted and reported as source 0x2F;
  where the repeat is acknowledged the request ends, and where it is not and the rail is outside its window that is reported as source 0x2E. -/
def Obligations.RailsFollowTheRegulator : Prop :=
  (∀ (mv : Nat) (s : State), s.fld Reg.PWR_STS_STATE = 0 → s.pwr.move = .none → ∃ t, exec (.vcoreTrim mv) s = .next t ∧ t.pwr.reqs =
    s.pwr.reqs.filter (fun r => r.rail != 0) ++ [{ rail := 0, mv := clamp 700 800 mv, at_ := s.clk }] ∧ t.fld Reg.PWR_REG_STS_TARGET_MV = clamp 700
    800 mv ∧ t.on Reg.PWR_REG_STS_PEND = true ∧ t.pwr.rails = s.pwr.rails ∧ onlyRegs [Reg.PWR_REG_STS] s t) ∧
  (∀ (rail : Fin 4) (r : VoltReq) (s : State), s.pwr.reqs = [r] → r.rail = rail.val → s.pwr.move = .none → s.pwr.rails.length = 4 → ∃ t, exec
    (.regulatorAck rail) s = .next t ∧ t.pwr.rails[rail.val]? = some r.mv ∧ t.pwr.reqs = [] ∧ t.on Reg.PWR_REG_STS_PEND = false ∧ onlyRegs
    [Reg.PWR_REG_STS] s t) ∧
  (∀ (rail : Fin 4) (r : VoltReq) (s : State), s.pwr.reqs = [r] → r.rail = rail.val → s.pwr.move = .keepRails → ∃ t, exec (.regulatorAck rail) s =
    .next t ∧ t.fld Reg.PWR_STS_STATE = 3 ∧ t.on Reg.PWR_STS_TRANS = false ∧ t.pwr.move = .none ∧ t.pwr.reqs = [] ∧ onlyRegs [Reg.PWR_REG_STS,
    Reg.PWR_STS] s t) ∧
  (∀ (rail : Fin 4) (r : VoltReq) (w : Bool) (s : State), s.pwr.reqs = [r] → r.rail = rail.val → s.pwr.move = .none → ∃ u, exec (.voltageAckTimeout
    rail true w) s = .next (settled u) ∧ r.at_ + 100000 ≤ u.clk ∧ u.pwr.reqs = [] ∧ u.fld Reg.PWR_REG_STS_TIMEOUTS = satAdd
    Reg.PWR_REG_STS_TIMEOUTS.w (s.fld Reg.PWR_REG_STS_TIMEOUTS) 1 ∧ u.reported 0x2F 0 = true ∧ onlyRegs (Reg.PWR_REG_STS :: timeRegs) s u) ∧
  ∀ (rail : Fin 4) (r : VoltReq) (s : State), s.pwr.reqs = [r] → r.rail = rail.val → ∃ u, exec (.voltageAckTimeout rail false false) s = .next
    (settled u) ∧ r.at_ + 125000 ≤ u.clk ∧ u.reported 0x2F 0 = true ∧ u.reported 0x2E 0 = true ∧ u.pwr.rails = s.pwr.rails ∧ onlyRegs
    (Reg.PWR_REG_STS :: timeRegs) s u

/-- R501, R385, R396: a feed that is present ramps; a ramped channel's window ends with PG unless the fault timer started in it, and a timer that
  clears leaves PG as it was. R385, R397: the current limit starts the fault timer, whose end trips the channel; a trip opens the switch, counts, and
  is reported as source 0x2A for a feed or 0x2C for a slot (here one that no DIMM serves). R386: an over-voltage opening is no trip, and the feed
  ramps again after 100 ms below 18.3 V. R398: in MODE 1 the channel tries again after its period and uses a retry; in MODE 0 an attempt without PG
  waits for the next. R399, R409: the commands answer code 0 where they act; from a head they are an access fault. R406, R407: latches and the rail's
  discharge are recorded; opening the latches of a slot in STATE 6 switches it off without a report. R384: a feed below the input node turns off and
  counts as lost. -/
def Obligations.SupplyChannelsSwitch : Prop :=
  (∀ (f : Fin 2) (mv : Nat) (s : State), s.sup.overtemp = false → s.supSt f = 7 → s.sup.lostAt = none → s.fld Reg.SUP_STS_BAND < 3 → 3000 ≤ mv → ∃ t,
    exec (.feedPresent f mv) s = .next t ∧ t.supSt f = 1 ∧ (t.chan f).mv = mv ∧ (t.chan f).rampAt = s.clk ∧ t.free = s.free + 1 ∧ onlyRegs
    [Reg.SUP_CH_STS f] s t) ∧
  (∀ (f : Fin 2) (s : State), s.supSt f = 3 → s.on (Reg.SUP_CH_STS_PG f) = true → ∃ u, exec (.feedAbsent f) s = .next (settled u) ∧ u.supSt f = 7 ∧
    u.on (Reg.SUP_CH_STS_PG f) = false ∧ u.fld (Reg.SUP_CH_STS_TRIPS f) = s.fld (Reg.SUP_CH_STS_TRIPS f) ∧ u.sup.feedLostAt = s.sup.feedLostAt.set f
    (some s.clk) ∧ u.reported 0x2A f = true ∧ onlyRegs [Reg.SUP_CH_STS f, Reg.SUP_STS] s u) ∧
  (∀ (f : Fin 2) (mv : Nat) (s : State), s.conducts f = true → mv < s.sup.vin → 3000 ≤ mv → ∃ u, exec (.feedReverseTurnOff f mv) s = .next (settled
    u) ∧ u.supSt f = 0 ∧ u.on (Reg.SUP_CH_STS_PG f) = false ∧ (u.chan f).mv = mv ∧ u.sup.feedLostAt = s.sup.feedLostAt.set f (some s.clk) ∧ onlyRegs
    [Reg.SUP_CH_STS f, Reg.SUP_STS] s u) ∧
  (∀ (j : Fin 36) (s : State), s.supSt j = 1 → (s.chan j).ramped = false → ∃ t, exec (.switchRampDone j) s = .next t ∧ t.supSt j = 2 ∧ (t.chan
    j).winAt = some s.clk ∧ (t.chan j).ramped = true ∧ onlyRegs [Reg.SUP_CH_STS j] s t) ∧
  (∀ (j : Fin 36) (n : Nat) (s : State), (s.chan j).winAt = some n → s.supSt j = 2 → (s.chan j).ftInWin = false → isSlot j = true → ∃ t, exec
    (.pgWindowEnd j) s = .next t ∧ n + 10000 ≤ t.clk ∧ t.supSt j = 3 ∧ t.on (Reg.SUP_CH_STS_PG j) = true ∧ (t.chan j).winAt = none ∧ (t.dimm ((j.val
    - 4) / 2) ((j.val - 4) % 2)).info = none ∧ onlyRegs ([Reg.SUP_CH_STS j, Reg.DCC_SLOT ((j.val - 4) / 2) ((j.val - 4) % 2)] ++ timeRegs) s t) ∧
  (∀ (f : Fin 2) (n : Nat) (s : State), (s.chan f).winAt = some n → s.supSt f = 2 → (s.chan f).ftInWin = false → s.on Reg.SUP_STS_PWRGD = false → ∃
    t, exec (.pgWindowEnd (f.castLE (by decide))) s = .next t ∧ n + 10000 ≤ t.clk ∧ t.supSt f = 3 ∧ t.on (Reg.SUP_CH_STS_PG f) = true ∧ t.on
    Reg.SUP_STS_PWRGD = true ∧ t.on Reg.SUP_STS_BUS_OK = true ∧ t.on Reg.SUP_STS_PFW = false ∧ t.sup.lostAt = none ∧ onlyRegs ([Reg.SUP_CH_STS f,
    Reg.SUP_STS] ++ timeRegs) s t) ∧
  (∀ (j : Fin 36) (n : Nat) (s : State), (s.chan j).winAt = some n → s.supSt j = 2 → (s.chan j).ftInWin = true → ∃ t, exec (.pgWindowEnd j) s = .next
    t ∧ n + 10000 ≤ t.clk ∧ t.supSt j = 1 ∧ t.on (Reg.SUP_CH_STS_PG j) = s.on (Reg.SUP_CH_STS_PG j) ∧ (t.chan j).winAt = none ∧ onlyRegs
    (Reg.SUP_CH_STS j :: timeRegs) s t) ∧
  (∀ (j : Fin 36) (s : State), s.conducts j = true → isSwitched j = true → s.on (Reg.SUP_CH_STS_FT_RUN j) = false → ∃ t, exec (.currentLimit j) s =
    .next t ∧ t.on (Reg.SUP_CH_STS_FT_RUN j) = true ∧ (t.chan j).ftAt = some s.clk ∧ t.supSt j = s.supSt j ∧ onlyRegs [Reg.SUP_CH_STS j] s t) ∧
  (∀ (j : Fin 36) (s : State), s.on (Reg.SUP_CH_STS_FT_RUN j) = true → s.supSt j = 3 → ∃ t, exec (.faultTimerClear j) s = .next t ∧ t.on
    (Reg.SUP_CH_STS_FT_RUN j) = false ∧ (t.chan j).ftAt = none ∧ t.on (Reg.SUP_CH_STS_PG j) = s.on (Reg.SUP_CH_STS_PG j) ∧ t.supSt j = 3 ∧ onlyRegs
    [Reg.SUP_CH_STS j] s t) ∧
  (∀ (f : Fin 2) (n : Nat) (s : State), (s.chan f).ftAt = some n → s.on (Reg.SUP_CH_STS_FT_RUN f) = true → s.fld (Reg.SUP_CH_CFG_MODE f) = 0 → ∃ u,
    exec (.faultTimerExpiry (f.castLE (by decide))) s = .next (settled u) ∧ n + s.faultTimer f ≤ u.clk ∧ u.supSt f = 4 ∧ u.on (Reg.SUP_CH_STS_PG f) =
    false ∧ u.fld (Reg.SUP_CH_STS_LAST_TRIP f) = 2 ∧ u.fld (Reg.SUP_CH_STS_TRIPS f) = satAdd (Reg.SUP_CH_STS_TRIPS f).w (s.fld (Reg.SUP_CH_STS_TRIPS
    f)) 1 ∧ (u.chan f).nextAt = some (u.clk + sec) ∧ u.reported 0x2A f = true ∧ onlyRegs ([Reg.SUP_CH_STS f, Reg.SUP_STS] ++ timeRegs) s u) ∧
  (∀ (k : Fin 32) (j n : Nat) (s : State), j = 4 + k.val → (s.chan j).ftAt = some n → s.on (Reg.SUP_CH_STS_FT_RUN j) = true → s.slotSt j = 0 → s.fld
    (Reg.SUP_CH_CFG_MODE j) = 1 → s.retryLeft j = 0 → ∃ u, exec (.faultTimerExpiry ((k.natAdd 4).castLE (by decide))) s = .next (settled u) ∧ n +
    s.faultTimer j ≤ u.clk ∧ u.supSt j = 5 ∧ u.on (Reg.SUP_CH_STS_PG j) = false ∧ u.fld (Reg.SUP_CH_STS_LAST_TRIP j) = 2 ∧ u.fld
    (Reg.SUP_CH_STS_TRIPS j) = satAdd (Reg.SUP_CH_STS_TRIPS j).w (s.fld (Reg.SUP_CH_STS_TRIPS j)) 1 ∧ u.reported 0x2C k = true ∧ onlyRegs
    (Reg.SUP_CH_STS j :: timeRegs) s u) ∧
  (∀ (k : Fin 32) (j : Nat) (s : State), j = 4 + k.val → s.conducts j = true → s.slotSt j = 0 → s.fld (Reg.SUP_CH_CFG_MODE j) = 1 → s.retryLeft j = 0
    → ∃ u, exec (.fastTrip ((k.natAdd 4).castLE (by decide))) s = .next (settled u) ∧ u.supSt j = 5 ∧ u.on (Reg.SUP_CH_STS_PG j) = false ∧ u.fld
    (Reg.SUP_CH_STS_LAST_TRIP j) = 1 ∧ u.fld (Reg.SUP_CH_STS_TRIPS j) = satAdd (Reg.SUP_CH_STS_TRIPS j).w (s.fld (Reg.SUP_CH_STS_TRIPS j)) 1 ∧
    u.slotSt j = 0 ∧ u.reported 0x2C k = true ∧ onlyRegs [Reg.SUP_CH_STS j] s u) ∧
  (∀ (f : Fin 2) (mv : Nat) (s : State), s.conducts f = true → 19000 ≤ mv → ∃ u, exec (.overVoltageOpen f mv) s = .next (settled u) ∧ u.supSt f = 0 ∧
    u.fld (Reg.SUP_CH_STS_LAST_TRIP f) = 3 ∧ u.fld (Reg.SUP_CH_STS_TRIPS f) = s.fld (Reg.SUP_CH_STS_TRIPS f) ∧ (u.chan f).ovAt = some s.clk ∧ (u.chan
    f).used = (s.chan f).used ∧ onlyRegs [Reg.SUP_CH_STS f, Reg.SUP_STS] s u) ∧
  (∀ (f : Fin 2) (mv n : Nat) (s : State), (s.chan f).ovAt = some n → s.supSt f = 0 → mv < 18300 → ∃ t, exec (.overVoltageReclose f mv) s = .next t ∧
    n + 100 * ms ≤ t.clk ∧ t.supSt f = 1 ∧ (t.chan f).ovAt = none ∧ (t.chan f).used = (s.chan f).used ∧ onlyRegs (Reg.SUP_CH_STS f :: timeRegs) s t)
    ∧
  (∀ (j : Fin 36) (n : Nat) (s : State), (s.chan j).nextAt = some n → s.supSt j = 4 → s.fld (Reg.SUP_CH_CFG_MODE j) = 1 → ∃ t, exec (.retryTimer j) s
    = .next t ∧ n ≤ t.clk ∧ t.supSt j = 1 ∧ (t.chan j).used = (s.chan j).used + 1 ∧ (t.chan j).retrying = true ∧ t.fld (Reg.SUP_CH_STS_NEXT_10MS j) =
    0 ∧ onlyRegs (Reg.SUP_CH_STS j :: timeRegs) s t) ∧
  (∀ (j : Fin 36) (s : State), (s.chan j).retrying = true → [1, 2].contains (s.supSt j) = true → isSlot j = true → s.fld (Reg.SUP_CH_CFG_MODE j) = 0
    → ∃ t, exec (.retryAttemptTimeout j) s = .next t ∧ (s.chan j).rampAt + 10 * ms ≤ t.clk ∧ t.supSt j = 4 ∧ (t.chan j).nextAt = some ((s.chan
    j).rampAt + sec) ∧ t.on (Reg.SUP_CH_STS_PG j) = false ∧ onlyRegs (Reg.SUP_CH_STS j :: timeRegs) s t) ∧
  (∀ (k : Fin 32) (j : Nat) (s : State), j = 4 + k.val → s.conducts j = true → s.slotSt j = 6 → ∃ t, exec (.ejectorLatchOpen k) s = .next t ∧ t.supSt
    j = 6 ∧ t.on (Reg.SUP_CH_STS_LATCH j) = false ∧ t.fld (Reg.SUP_CH_STS_LAST_TRIP j) = 4 ∧ t.slotSt j = 10 ∧ t.flt.inbox = s.flt.inbox ∧ onlyRegs
    [Reg.SUP_CH_STS j, Reg.DCC_SLOT ((j - 4) / 2) ((j - 4) % 2)] s t) ∧
  (∀ (k : Fin 32) (fitted : Bool) (j : Nat) (s : State), j = 4 + k.val → s.supSt j = 5 → s.on (Reg.SUP_CH_STS_LATCH j) = false → ∃ t, exec
    (.ejectorLatchClose k fitted) s = .next t ∧ t.supSt j = 0 ∧ t.on (Reg.SUP_CH_STS_LATCH j) = true ∧ (t.chan j).used = 0 ∧ onlyRegs [Reg.SUP_CH_STS
    j] s t) ∧
  (∀ (k : Fin 32) (j : Nat) (s : State), j = 4 + k.val → s.supSt j = 6 → ∃ t, exec (.dischargeComplete k) s = .next t ∧ t.on (Reg.SUP_CH_STS_SAFE j)
    = true ∧ t.supSt j = 0 ∧ onlyRegs [Reg.SUP_CH_STS j] s t) ∧
  (∀ (k : Fin 32) (j : Nat) (s : State), j = 4 + k.val → s.supSt j = 6 → s.on (Reg.SUP_CH_STS_SAFE j) = false → ∃ u, exec (.dischargeTimeout k) s =
    .next (settled u) ∧ (s.chan j).offAt + 100 * ms ≤ u.clk ∧ u.fld (Reg.SUP_CH_STS_LAST_TRIP j) = 5 ∧ u.supSt j = 6 ∧ u.reported 0x2C k = true ∧
    onlyRegs (Reg.SUP_CH_STS j :: timeRegs) s u) ∧
  (∀ (j : Fin 64) (s : State), calm s = true → isSlot j = true → s.conducts j = true → [0, 6, 7, 9].contains (s.slotSt j) = true → ∃ t, exec
    (.supplyPowerOff .plaza j) s = .next t ∧ t.supSt j = 6 ∧ t.slotSt j = 10 ∧ t.fld Reg.SUP_CMD_STS_CODE = 0 ∧ t.fld Reg.SUP_CMD_STS_CH = j.val ∧
    onlyRegs [Reg.SUP_CH_STS j, Reg.DCC_SLOT ((j.val - 4) / 2) ((j.val - 4) % 2), Reg.SUP_CMD_STS] s t) ∧
  (∀ (j : Fin 64) (s : State), calm s = true → isSlot j = true → s.supSt j = 0 → [0, 7, 9, 10].contains (s.slotSt j) = true → s.on
    (Reg.SUP_CH_STS_LATCH j) = true → s.fld Reg.SUP_STS_BAND ≠ 2 → ∃ t, exec (.supplyPowerOn .plaza j) s = .next t ∧ t.supSt j = 1 ∧ t.fld
    Reg.SUP_CMD_STS_CODE = 0 ∧ t.fld Reg.SUP_CMD_STS_CH = j.val ∧ onlyRegs [Reg.SUP_CH_STS j, Reg.SUP_CMD_STS] s t) ∧
  (∀ (j : Fin 64) (s : State), calm s = true → isSlot j = true → s.supSt j = 5 → ∃ t, exec (.clearLatchOff .plaza j) s = .next t ∧ t.supSt j = 0 ∧
    (t.chan j).used = 0 ∧ t.fld Reg.SUP_CMD_STS_CODE = 0 ∧ onlyRegs [Reg.SUP_CH_STS j, Reg.SUP_CMD_STS] s t) ∧
  (∀ (f : Fin 2) (j : Fin 64) (s : State), calm s = true → j.val = f.val → s.supSt j = 5 → ∃ t, exec (.clearLatchOff .plaza j) s = .next t ∧ t.supSt
    j = 1 ∧ (t.chan j).used = 0 ∧ (t.chan j).rampAt = s.clk ∧ t.fld Reg.SUP_CMD_STS_CODE = 0 ∧ onlyRegs [Reg.SUP_CH_STS j, Reg.SUP_CMD_STS] s t) ∧
  ∀ (h : Fin 4) (k : Fin 16) (j : Fin 64) (v : BitVec 32) (c : Instr) (s : State), [Instr.supplyPowerOff (.head h k) j, .supplyPowerOn (.head h k) j,
    .clearLatchOff (.head h k) j, .measurementSelect (.head h k) v].contains c = true → ∃ u, exec (c) s = .next (settled u) ∧ u.reported 0x1D 0 =
    true ∧ u.sup = s.sup ∧ onlyRegs [] s u

/-- R390: the band follows the input voltage past its thresholds, here from band 0 to bands 1 and 3 and from band 1 to band 0; outside the
  thresholds' ranges the band is certain. R392: the cap is recomputed, THROTTLE moves by one against it, and goes to 7 on a low bus. R394: a faulty
  phase is shed and reported as source 0x2D. R400, R402, R401: below the lowest band PFW is set; 150 ms without input the feeds' trips are recorded;
  an input or a feed back within 200 ms counts as a dropout, and one away longer is a fresh insertion, which loads the record into SUP_HIST. R403: a
  sample's energy is added, and a selection latches the newest values. R515: a hotter inlet lowers the cap at once. R516: at the junction's limit
  both feed switches open and the input counts as lost. -/
def Obligations.InputIsWatched : Prop :=
  (∀ (mv : Nat) (s : State), s.fld Reg.SUP_STS_BAND = 0 → 6900 < mv → mv ≤ 10550 → ∃ u, exec (.bandFall mv) s = .next (settled u) ∧ u.fld
    Reg.SUP_STS_BAND = 1 ∧ u.sup.vin = mv ∧ u.fld Reg.SUP_CAP_PCAP_W = u.pCap % 65536 ∧ u.reported 0x2B 0 = true ∧ u.free = s.free + 1 ∧ onlyRegs
    [Reg.SUP_STS, Reg.SUP_CAP] s u) ∧
  (∀ (mv : Nat) (s : State), s.fld Reg.SUP_STS_BAND < 3 → mv ≤ 4350 → ∃ u, exec (.bandFall mv) s = .next (settled u) ∧ u.fld Reg.SUP_STS_BAND = 3 ∧
    u.sup.vin = mv ∧ u.fld Reg.SUP_CAP_PCAP_W = u.pCap % 65536 ∧ u.reported 0x2B 0 = true ∧ u.free = s.free + 1 ∧ onlyRegs [Reg.SUP_STS, Reg.SUP_CAP]
    s u) ∧
  (∀ (mv : Nat) (s : State), s.fld Reg.SUP_STS_BAND = 1 → 10800 ≤ mv → s.on Reg.PWR_STS_FORCED = false → ∃ t, exec (.bandRise mv) s = .next t ∧ t.fld
    Reg.SUP_STS_BAND = 0 ∧ t.sup.vin = mv ∧ t.fld Reg.SUP_CAP_PCAP_W = t.pCap % 65536 ∧ t.free = s.free + 1 ∧ onlyRegs [Reg.SUP_STS, Reg.SUP_CAP] s
    t) ∧
  (∀ (mv : Nat) (s : State), ∃ t, exec (.powerCapUpdate mv) s = .next t ∧ t.sup.vin = mv ∧ t.fld Reg.SUP_CAP_PCAP_W = t.pCap % 65536 ∧ onlyRegs
    [Reg.SUP_CAP] s t) ∧
  (∀ (pin : Nat) (s : State), 95 * s.fld Reg.SUP_CAP_PCAP_W < 100 * pin → s.fld Reg.SUP_STS_THROTTLE < 7 → ∃ t, exec (.throttleRaise pin) s = .next t
    ∧ s.sup.raiseAt + ms ≤ t.clk ∧ t.fld Reg.SUP_STS_THROTTLE = s.fld Reg.SUP_STS_THROTTLE + 1 ∧ t.on Reg.SUP_STS_CAP = true ∧ t.sup.raiseAt = t.clk
    ∧ onlyRegs ([Reg.SUP_STS, Reg.SUP_CAP] ++ timeRegs) s t) ∧
  (∀ (pin : Nat) (s : State), 100 * pin < 85 * s.fld Reg.SUP_CAP_PCAP_W → s.fld Reg.SUP_STS_BAND < 2 → pin < 65536 → 1000 * pin ≤ 76 * s.sup.vin → ∃
    t, exec (.throttleLower pin) s = .next t ∧ s.sup.raiseAt + 10 * ms ≤ t.clk ∧ t.fld Reg.SUP_STS_THROTTLE = s.fld Reg.SUP_STS_THROTTLE - 1 ∧ t.on
    Reg.SUP_STS_CAP = decide (1 < s.fld Reg.SUP_STS_THROTTLE) ∧ onlyRegs ([Reg.SUP_STS, Reg.SUP_CAP] ++ timeRegs) s t) ∧
  (∀ (mv : Nat) (s : State), ∃ t, exec (.busLowThrottle mv) s = .next t ∧ t.sup.bus = mv ∧ t.on Reg.SUP_STS_BUS_OK = decide (11760 ≤ mv ∧ mv ≤ 12240)
    ∧ t.fld Reg.SUP_STS_THROTTLE = (if mv < 11400 then 7 else s.fld Reg.SUP_STS_THROTTLE) ∧ onlyRegs [Reg.SUP_STS] s t) ∧
  (∀ (ph : Fin 6) (s : State), s.bitOf Reg.SUP_STS_PHASE_OK ph = true → ∃ u, exec (.phaseFault ph) s = .next (settled u) ∧ u.bitOf
    Reg.SUP_STS_PHASE_OK ph = false ∧ u.healthy + 1 = s.healthy ∧ u.fld Reg.SUP_CAP_PCAP_W = u.pCap % 65536 ∧ u.reported 0x2D 0 = true ∧ onlyRegs
    [Reg.SUP_STS, Reg.SUP_CAP] s u) ∧
  (∀ (mv : Nat) (s : State), mv ≤ 4350 → s.sup.lostAt = none → ∃ t, exec (.powerFailWarning mv) s = .next t ∧ t.on Reg.SUP_STS_PFW = true ∧ t.fld
    Reg.SUP_STS_BAND = 3 ∧ t.sup.lostAt = some s.clk ∧ t.sup.vin = mv ∧ t.free = s.free + 1 ∧ onlyRegs [Reg.SUP_STS, Reg.SUP_CAP] s t) ∧
  (∀ (n : Nat) (s : State), s.sup.lostAt = some n → ∃ t, exec (.tripRecordWrite) s = .next t ∧ n + 150 * ms ≤ t.clk ∧ (t.sup.record.map fun r =>
    (r.1, r.2.1)) = some (s.fld (Reg.SUP_CH_STS_TRIPS 0), s.fld (Reg.SUP_CH_STS_TRIPS 1)) ∧ t.sup.chans = s.sup.chans ∧ onlyRegs timeRegs s t) ∧
  (∀ (n : Nat) (s : State), s.sup.lostAt = some n → s.clk ≤ n + 200 * ms → ∃ t, exec (.inputReturn none) s = .next t ∧ t.sup.lostAt = none ∧ t.fld
    Reg.SUP_DROP_DROPOUTS = satAdd Reg.SUP_DROP_DROPOUTS.w (s.fld Reg.SUP_DROP_DROPOUTS) 1 ∧ (∀ j, j < 36 → (t.chan j).used = (s.chan j).used) ∧
    t.sup.record = s.sup.record ∧ onlyRegs [Reg.SUP_DROP] s t) ∧
  (∀ (n a b sl : Nat) (l : Bool) (s : State), s.sup.lostAt = some n → n + 200 * ms < s.clk → s.sup.record = some (a, b, sl, l) → a < 256 → b < 256 →
    ∃ t, exec (.inputReturn none) s = .next t ∧ t.sup.lostAt = none ∧ t.sup.record = none ∧ t.on Reg.SUP_HIST_VALID = true ∧ t.fld
    Reg.SUP_HIST_TRIPS_A = a ∧ t.fld Reg.SUP_HIST_TRIPS_B = b ∧ t.on Reg.SUP_HIST_LATCHED = l ∧ (t.reg Reg.SUP_DROP).toNat = 0 ∧ t.fld
    Reg.SUP_STS_PHASE_OK = 63 ∧ (∀ j, j < 36 → t.fld (Reg.SUP_CH_STS_TRIPS j) = 0 ∧ (t.chan j).used = 0) ∧ sameMemory s t) ∧
  (∀ (f : Fin 2) (n : Nat) (s : State), s.sup.feedLostAt[f.val]? = some (some n) → s.clk ≤ n + 200 * ms → ∃ t, exec (.inputReturn (some f)) s = .next
    t ∧ t.sup.feedLostAt[f.val]? = some none ∧ t.fld (if f.val = 0 then Reg.SUP_DROP_FEED_A else Reg.SUP_DROP_FEED_B) = satAdd (if f.val = 0 then
    Reg.SUP_DROP_FEED_A else Reg.SUP_DROP_FEED_B).w (s.fld (if f.val = 0 then Reg.SUP_DROP_FEED_A else Reg.SUP_DROP_FEED_B)) 1 ∧ onlyRegs
    [Reg.SUP_DROP] s t) ∧
  (∀ (j : Fin 36) (mv cur : BitVec 16) (s : State), ∃ t, exec (.measurementSample j mv cur) s = .next t ∧ (t.chan j).sampleMv = mv.toNat ∧ (t.chan
    j).sampleCur = cur.toNat ∧ 10000000 * (t.chan j).energy + (t.chan j).rem = 10000000 * (((s.chan j).energy + ((s.chan j).rem + mv.toNat *
    cur.toNat * 10) / 10000000) % 2 ^ 64) + ((s.chan j).rem + mv.toNat * cur.toNat * 10) % 10000000 ∧ onlyRegs [] s t) ∧
  (∀ (v : BitVec 32) (s : State), calm s = true → v.toNat % 64 < 36 → ∃ t, exec (.measurementSelect .plaza v) s = .next t ∧ t.fld Reg.SUP_M_VI_V_MV =
    (s.chan (v.toNat % 64)).sampleMv % 65536 ∧ t.fld Reg.SUP_M_VI_I_10MA = (s.chan (v.toNat % 64)).sampleCur % 65536 ∧ (t.reg Reg.SUP_M_E_LO).toNat =
    (s.chan (v.toNat % 64)).energy % 2 ^ 32 ∧ onlyRegs [Reg.SUP_MSEL, Reg.SUP_M_VI, Reg.SUP_M_P, Reg.SUP_M_E_LO, Reg.SUP_M_E_HI] s t) ∧
  (∀ (a : Nat) (s : State), inletLimit a < s.sup.inletCap → ∃ t, exec (.inletLimitUpdate a) s = .next t ∧ t.sup.inletCap = inletLimit a ∧
    t.sup.inletMax = a ∧ t.fld Reg.SUP_CAP_PCAP_W = t.pCap % 65536 ∧ onlyRegs [Reg.SUP_CAP] s t) ∧
  ∀ (s : State), s.supSt 0 = 3 → s.supSt 1 = 7 → ∃ u, exec (.tp7Overtemp) s = .next (settled u) ∧ u.sup.overtemp = true ∧ u.supSt 0 = 0 ∧ u.supSt 1 =
    7 ∧ u.sup.lostAt.isSome = true ∧ onlyRegs [Reg.SUP_CH_STS 0, Reg.SUP_STS] s u

/-- R414 to R416: a core reference that is lost is reported as source 0x26 and the next good one takes over, counted; a good one is taken where none
  was selected; a PLL that has re-acquired ends holdover; with FAILBACK the preferred one, good for 1 s, is taken again. R420, R421: the keep clock
  and a clock domain fail with their reports, in holdover only the domains 4 to 7. R423: a count, 1 s long, is stored. R425: a timestamp ahead of
  TIME_NS is a step, one less than 2^32 ns behind it a slew, which ends absorbed. R426: PTM is answered with TIME_NS by a head that is up, and not at
  all otherwise. R478: an event of a block that is On advances the one counter that counts it. PMU_CTL.CLEAR_ALL clears the counters and PMU_OVF.
  R483, R484: the window's end latches and restarts the fixed counters; a restart does not latch. R488: a PMU write from a head without the right is
  an access fault. -/
def Obligations.TimeAndCounters : Prop :=
  (∀ (r q : Fin 3) (s : State), s.refGood r = true → s.fld Reg.CLK_STS_CORE_SRC = r.val → ((s.refOrder.filter (· != r.val)).find? s.refGood) = some
    q.val → s.commonClock = false → ∃ u, exec (.referenceLost r) s = .next (settled u) ∧ u.refGood r = false ∧ u.fld Reg.CLK_STS_CORE_SRC = q.val ∧
    u.on Reg.CLK_STS_HOLDOVER = true ∧ u.fld Reg.CLK_FOVER_CORE = satAdd Reg.CLK_FOVER_CORE.w (s.fld Reg.CLK_FOVER_CORE) 1 ∧ u.reported 0x26 r = true
    ∧ onlyRegs [Reg.CLK_STS, Reg.CLK_FOVER] s u) ∧
  (∀ (r : Fin 3) (s : State), s.refGood r = false → s.fld Reg.CLK_STS_CORE_SRC = 3 → s.commonClock = false → ∃ t, exec (.referenceGood r) s = .next t
    ∧ t.refGood r = true ∧ t.fld Reg.CLK_STS_CORE_SRC = r.val ∧ t.on Reg.CLK_STS_FREE_RUN = false ∧ t.on Reg.CLK_STS_HOLDOVER = true ∧
    t.clocks.refGoodAt = s.clocks.refGoodAt.set r (some s.clk) ∧ onlyRegs [Reg.CLK_STS] s t) ∧
  (∀ (s : State), s.on Reg.CLK_STS_HOLDOVER = true → s.clocks.sleepStart = none → ∃ t, exec (.pllReacquired) s = .next t ∧ t.on Reg.CLK_STS_HOLDOVER
    = false ∧ t.fld Reg.CLK_STS_CORE_SRC = s.fld Reg.CLK_STS_CORE_SRC ∧ t.clocks.lockedAt = s.clk ∧ onlyRegs [Reg.CLK_STS] s t) ∧
  (∀ (n : Nat) (s : State), s.on Reg.CLK_CFG_FAILBACK = true → s.refOrder = [2, 0, 1] → s.fld Reg.CLK_STS_CORE_SRC = 0 → s.refGood 2 = true →
    s.clocks.refGoodAt.getD 2 none = some n → ∃ t, exec (.clockFailback) s = .next t ∧ n + sec ≤ t.clk ∧ t.fld Reg.CLK_STS_CORE_SRC = 2 ∧ t.fld
    Reg.CLK_FOVER_CORE = satAdd Reg.CLK_FOVER_CORE.w (s.fld Reg.CLK_FOVER_CORE) 1 ∧ onlyRegs ([Reg.CLK_STS, Reg.CLK_FOVER] ++ timeRegs) s t) ∧
  (∀ (s : State), s.on Reg.CLK_STS_KEEP_FAIL = false → s.fld Reg.TIME_STATUS_SOURCE = 0 → ∃ u, exec (.keepClockFail) s = .next (settled u) ∧ u.on
    Reg.CLK_STS_KEEP_FAIL = true ∧ u.reported 0x26 3 = true ∧ u.fld Reg.TIME_STATUS_SOURCE = 0 ∧ onlyRegs [Reg.CLK_STS] s u) ∧
  (∀ (d : Fin 101) (s : State), (s.on Reg.CLK_STS_HOLDOVER = false ∨ (4 ≤ d.val ∧ d.val < 8)) → ∃ u, exec (.clockMonitorFail d) s = .next (settled u)
    ∧ u.bitOf (Reg.CLK_DOM_FAIL_FAIL (d.val / 32)) (d.val % 32) = true ∧ u.reported 0x27 d = true ∧ onlyRegs [Reg.CLK_DOM_FAIL (d.val / 32)] s u) ∧
  (∀ (cycles : BitVec 27) (n : Nat) (s : State), s.fld Reg.CLK_STS_CORE_SRC < 3 → s.refGood (s.fld Reg.CLK_STS_CORE_SRC) = true → s.on
    Reg.CLK_STS_KEEP_FAIL = false → s.clocks.calAt = some n → ∃ t, exec (.keepCalCount cycles) s = .next t ∧ n + sec ≤ t.clk ∧ t.fld
    Reg.CLK_CAL_CYCLES = cycles.toNat ∧ t.on Reg.CLK_CAL_VALID = true ∧ t.clocks.calAt = some t.clk ∧ onlyRegs (Reg.CLK_CAL :: timeRegs) s t) ∧
  (∀ (via : CmdPath) (v : BitVec 64) (s : State), cxlPath via = true → plazaTakes s = true → s.fld Reg.PWR_STS_STATE = 0 → s.time ≤ v.toNat → ∃ u,
    exec (.setTimestamp via v) s = .next (settled u) ∧ u.time = v.toNat ∧ u.on Reg.TIME_STATUS_SLEWING = false ∧ u.on Reg.TIME_STATUS_EXTRAPOLATED =
    false ∧ u.fld Reg.TIME_STATUS_ERR_US = 0 ∧ u.pmu.adjusted = true ∧ u.out = .reply (ownLd via) rcSuccess [] :: s.out ∧ onlyRegs [Reg.TIME_NS_LO,
    Reg.TIME_NS_HI, Reg.TIME_STATUS, Reg.TIME_SLEW_REM] s u) ∧
  (∀ (via : CmdPath) (v : BitVec 64) (s : State), cxlPath via = true → plazaTakes s = true → s.fld Reg.PWR_STS_STATE = 0 → v.toNat < s.time → s.time
    < v.toNat + 2 ^ 32 → ∃ u, exec (.setTimestamp via v) s = .next (settled u) ∧ u.time = s.time ∧ u.on Reg.TIME_STATUS_SLEWING = true ∧ u.fld
    Reg.TIME_SLEW_REM_NS = s.time - v.toNat ∧ u.clocks.slewRem = s.time - v.toNat ∧ u.out = .reply (ownLd via) rcSuccess [] :: s.out ∧ onlyRegs
    [Reg.TIME_STATUS, Reg.TIME_SLEW_REM] s u) ∧
  (∀ (s : State), s.on Reg.TIME_STATUS_SLEWING = true → ∃ t, exec (.timeSlewDone) s = .next t ∧ t.on Reg.TIME_STATUS_SLEWING = false ∧ t.clk = s.clk
    + s.slewLeft ∧ onlyRegs (Reg.TIME_STATUS :: timeRegs) s t) ∧
  (∀ (h : Fin 4) (s : State), s.present h = true → s.linkUp h = true → exec (.ptmRequest h) s = .next (s.emit (.ptm h s.time))) ∧
  (∀ (h : Fin 4) (s : State), (s.present h = false ∨ s.linkUp h = false) → exec (.ptmRequest h) s = .next (s)) ∧
  (∀ (o : Occurrence) (i : Fin 96) (s : State), s.cond (occDomain o) = .on → s.on Reg.PMU_CTL_FREEZE = false → s.pmu.pick = none → ((List.range
    96).filter fun j => s.counts j o) = [i.val] → s.ctr i + o.n < 2 ^ 48 → ∃ t, exec (.pmuEvent o) s = .next t ∧ t.ctr i = s.ctr i + o.n ∧ onlyRegs
    [Reg.PMU_CTR_LO i, Reg.PMU_CTR_HI i] s t) ∧
  (∀ (s : State), s.fld Reg.TIME_STATUS_SOURCE ≠ 1 → s.clocks.slewRem = 0 → s.time + s.window < 2 ^ 64 → s.pmu.winStart ≤ s.time → s.time ≤
    (s.pmu.winStart / s.window + 1) * s.window → ∃ t, exec (.pmuWindowBoundary) s = .next t ∧ t.time = (s.pmu.winStart / s.window + 1) * s.window ∧
    (∀ k : Fin 26, t.pair (Reg.PMU_FIX_LO k) (Reg.PMU_FIX_HI k) = SMap.get 0 s.pmu.acc k % 2 ^ 64) ∧ t.pmu.acc = [] ∧ t.pmu.winStart = t.time ∧ t.fld
    Reg.PMU_WIN_SEQ_SEQ = (s.fld Reg.PMU_WIN_SEQ_SEQ + 1) % 2 ^ Reg.PMU_WIN_SEQ_SEQ.w ∧ t.on Reg.PMU_WIN_SEQ_ADJ = s.pmu.adjusted ∧ t.on
    Reg.PMU_WIN_SEQ_SLEPT = s.pmu.slept ∧ (∀ a, ¬ (Reg.PMU_FIX_LO 0 ≤ a ∧ a < Reg.PMU_FIX_LO 26) → a ∉ Reg.PMU_WIN_SEQ :: timeRegs → t.reg a = s.reg
    a) ∧ sameMemory s t) ∧
  (∀ (v : BitVec 32) (s : State), ∃ t, exec (.pmuWindowRestart .plaza false v) s = .next t ∧ t.pmu.acc = [] ∧ t.pmu.winStart = s.time ∧ t.fld
    Reg.PMU_WIN_CFG_WIN_US = v.toNat % 2 ^ Reg.PMU_WIN_CFG_WIN_US.w ∧ t.fld Reg.PMU_WIN_SEQ_SEQ = s.fld Reg.PMU_WIN_SEQ_SEQ ∧ onlyRegs
    [Reg.PMU_WIN_CFG] s t) ∧
  (∀ (v : BitVec 32) (s : State), ∃ t, exec (.pmuWindowRestart .plaza true v) s = .next t ∧ t.pmu.acc = [] ∧ t.pmu.winStart = s.time ∧ t.fld
    Reg.PMU_FIX_SEL_MPORT = v.toNat % 2 ^ Reg.PMU_FIX_SEL_MPORT.w ∧ t.fld Reg.PMU_WIN_SEQ_SEQ = s.fld Reg.PMU_WIN_SEQ_SEQ ∧ onlyRegs
    [Reg.PMU_FIX_SEL] s t) ∧
  (∀ (p : Path) (fix : Bool) (v : BitVec 32) (c : Instr) (s : State), s.pmuPath p = false → [Instr.pmuWindowRestart p fix v, .pmuClearAll p
    v].contains c = true → ∃ u, exec (c) s = .next (settled u) ∧ u.reported 0x1D 0 = true ∧ u.pmu = s.pmu ∧ onlyRegs [] s u) ∧
  ∀ (v : BitVec 32) (s : State), v.getLsbD 1 = true → ∃ t, exec (.pmuClearAll .plaza v) s = .next t ∧ (∀ i : Fin 96, t.ctr i = 0) ∧ (∀ j : Fin 3,
    t.reg (Reg.PMU_OVF j) = 0) ∧ t.on Reg.PMU_CTL_FREEZE = v.getLsbD 0 ∧ t.on Reg.PMU_CTL_FREEZE_ON_OVF = v.getLsbD 2 ∧ t.pmu.acc = s.pmu.acc ∧ (∀ a,
    ¬ (Reg.PMU_CTR_LO 0 ≤ a ∧ a < Reg.PMU_CTR_LO 96) → a ∉ [Reg.PMU_CTL, Reg.PMU_OVF 0, Reg.PMU_OVF 1, Reg.PMU_OVF 2] → t.reg a = s.reg a) ∧
    sameMemory s t

/-- R444, R441: a power-on, MRST_N at Level 5 and RST_CMD LEVEL 5 begin a Level 5 start-up, RST_CMD LEVEL 4 one of Level 4: PHASE 1, RST_CAUSE with
  the source, and after a reset from outside a supply loss memory is not active; a Level 5 reset that is no power-on leaves every DIMM stitch, and
  every one of Level 5 zeroises the vault. R433: a rise of MRST_N samples the straps. R395: when PWRGD falls the contents are lost and the slots'
  switches are open. R428, R431: a head's PERST# or hot reset at Level 1 advances its epoch and is recorded in RST_LOCAL; a pulse that the filter
  ignores is counted, and the rise of the last low pin of a head releases it; a pin that no head hears (R497) resets nothing. R436: an LD's reset at
  Level 2 leaves memory, the root keys and the accepted extents; CXL Reset uncommits its decoders. R437, R438, R440: a block reset waits for idle or
  for the time-out, then releases the block, here an NME. R443: after its self-test it is over; a block that fails is fenced. R442: a stitcher whose
  clock is not stable is fenced, and a block that is fenced already is passed over. R451: when a pulse ends, a reset that it deferred is asserted and
  marked DEFERRED; without one the pulse is over. RST_CMD from a head is an access fault. -/
def Obligations.ResetsReach : Prop :=
  (∀ (b k : Fin 4) (a : Fin 8) (s : State), (s.on Reg.SUP_STS_FEED_A_PG || s.on Reg.SUP_STS_FEED_B_PG) = true → s.rst.pulse = none → ∃ t, exec
    (.powerOn b k a) s = .next t ∧ t.fld Reg.RST_STS_PHASE = 1 ∧ t.fld Reg.RST_STS_LEVEL = 5 ∧ t.on Reg.SUP_STS_PWRGD = true ∧ t.rst.bootSrc = b.val
    ∧ t.rst.clkMode = k.val ∧ t.rst.addr = a.val ∧ t.cold.stitches = [] ∧ t.hot.lines = [] ∧ t.vault = {} ∧ t.fld Reg.RST_CAUSE_SRC = 0 ∧ t.flash.fw
    = s.flash.fw) ∧
  (∀ (bus : Nat) (s : State), s.on Reg.SUP_STS_PWRGD = true → ((s.on Reg.SUP_STS_FEED_A_PG || s.on Reg.SUP_STS_FEED_B_PG) = false ∨ bus < 11400 ∨
    12600 < bus) → s.rst.pulse = none → ∃ t, exec (.pwrgdDeasserted bus) s = .next t ∧ t.on Reg.SUP_STS_PWRGD = false ∧ t.cold.stitches = [] ∧
    t.hot.lines = [] ∧ t.pwr.rails = [0, 0, 0, 0] ∧ t.sup.bus = bus ∧ (∀ k : Fin 32, t.conducts (4 + k.val) = false) ∧ t.flash.fw = s.flash.fw) ∧
  (∀ (ns : Nat) (b k : Fin 4) (s : State), 1200 ≤ ns → s.effLevel 1 = 5 → s.on Reg.RST_STS_HOLD = false → s.rst.pulse = none → s.fld
    Reg.RST_STS_LEVEL = 0 → ∃ u, exec (.mrstN (.pulse ns) b k) s = .next (settled u) ∧ u.fld Reg.RST_STS_PHASE = 1 ∧ u.fld Reg.RST_STS_LEVEL = 5 ∧
    u.fld Reg.RST_CAUSE_SRC = 1 ∧ u.fld Reg.RST_CAUSE_LEVEL = 5 ∧ u.on Reg.RST_STS_MEM_ACTIVE = false ∧ u.vault = {} ∧ u.hot.lines = [] ∧
    u.cold.stitches = s.cold.stitches ∧ u.rst.bootSrc = b.val) ∧
  (∀ (b k : Fin 4) (s : State), s.rst.mrstLow = false → s.effLevel 1 = 5 → s.on Reg.RST_STS_HOLD = false → s.rst.pulse = none → s.fld
    Reg.RST_STS_LEVEL = 0 → ∃ u, exec (.mrstN .low b k) s = .next (settled u) ∧ u.rst.mrstLow = true ∧ u.fld Reg.RST_STS_PHASE = 1 ∧ u.fld
    Reg.RST_STS_LEVEL = 5 ∧ u.fld Reg.RST_CAUSE_SRC = 1 ∧ u.on Reg.RST_STS_MEM_ACTIVE = false ∧ u.vault = {} ∧ u.hot.lines = [] ∧ u.cold.stitches =
    s.cold.stitches) ∧
  (∀ (b k : Fin 4) (s : State), s.rst.mrstLow = true → ∃ t, exec (.mrstN .high b k) s = .next t ∧ t.rst.mrstLow = false ∧ t.rst.t0 = s.clk ∧
    t.rst.bootSrc = b.val ∧ t.rst.clkMode = k.val ∧ onlyRegs [] s t) ∧
  (∀ (p h : Fin 4) (ns : Nat) (s : State), s.heardBy p = some h → ns < 1000 → ∃ t, exec (.perst p (.pulse ns)) s = .next t ∧ t.fld ⟨Reg.RST_FILT, 8 *
    h.val, 8⟩ = satAdd 8 (s.fld ⟨Reg.RST_FILT, 8 * h.val, 8⟩) 1 ∧ t.heads = s.heads ∧ t.free = s.free + 1 ∧ onlyRegs [Reg.RST_FILT] s t) ∧
  (∀ (p : Fin 4) (ns : Nat) (s : State), s.heardBy p = none → exec (.perst p (.pulse ns)) s = .next (s)) ∧
  (∀ (p h : Fin 4) (s : State), s.heardBy p = some h → s.present h = true → s.perstHeld h = false → s.effLevel 2 = 1 → ∃ u, exec (.perst p .low) s =
    .next (settled u) ∧ u.perstHeld h = true ∧ u.headEpoch h ≠ s.headEpoch h ∧ u.fld Reg.RST_LOCAL_SRC = 2 ∧ u.fld Reg.RST_LOCAL_LEVEL = 1 ∧ u.fld
    Reg.RST_LOCAL_INST = h.val ∧ u.linkUp h = false ∧ sameMemory s u) ∧
  (∀ (p h : Fin 4) (ns : Nat) (s : State), s.heardBy p = some h → s.present h = true → s.perstHeld h = false → s.effLevel 2 = 1 → 1200 ≤ ns → ∃ u,
    exec (.perst p (.pulse ns)) s = .next (settled u) ∧ u.perstHeld h = false ∧ (u.head h).perstRise = s.clk ∧ u.headEpoch h ≠ s.headEpoch h ∧ u.fld
    Reg.RST_LOCAL_SRC = 2 ∧ u.fld Reg.RST_LOCAL_LEVEL = 1 ∧ u.fld Reg.RST_LOCAL_INST = h.val ∧ u.linkUp h = false ∧ sameMemory s u) ∧
  (∀ (p h : Fin 4) (s : State), s.heardBy p = some h → s.perstHeld h = true → (setPerstPin p false s).perstHeld h = false → ∃ t, exec (.perst p
    .high) s = .next t ∧ t.perstHeld h = false ∧ (t.head h).perstRise = s.clk ∧ (∀ k, k ≠ h.val → t.head k = s.head k) ∧ onlyRegs [] s t) ∧
  (∀ (p h : Fin 4) (s : State), s.heardBy p = some h → (setPerstPin p false s).perstHeld h = true → exec (.perst p .high) s = .next (setPerstPin p
    false s)) ∧
  (∀ (h : Fin 4) (s : State), s.present h = true → s.effLevel 4 = 1 → ∃ u, exec (.hotReset h) s = .next (settled u) ∧ u.headEpoch h ≠ s.headEpoch h ∧
    u.fld Reg.RST_LOCAL_SRC = 4 ∧ u.fld Reg.RST_LOCAL_LEVEL = 1 ∧ u.fld Reg.RST_LOCAL_INST = h.val ∧ sameMemory s u) ∧
  (∀ (k : Fin 16) (s : State), (s.headOf k).isSome = true → s.effLevel 5 = 2 → ∃ u, exec (.flr k) s = .next (settled u) ∧ (u.ld k).msixPending = 0 ∧
    (u.ld k).decoders = (s.ld k).decoders ∧ (u.ld k).memActive = (s.ld k).memActive ∧ (u.ld k).extents = (s.ld k).extents ∧ u.vault = s.vault ∧ u.fld
    Reg.RST_LOCAL_SRC = 5 ∧ u.fld Reg.RST_LOCAL_LEVEL = 2 ∧ u.fld Reg.RST_LOCAL_INST = k.val ∧ sameMemory s u) ∧
  (∀ (k : Fin 16) (s : State), (s.headOf k).isSome = true → s.effLevel 6 = 2 → ∃ u, exec (.cxlReset k) s = .next (settled u) ∧ (u.ld k).msixPending =
    0 ∧ (u.ld k).decoders = (s.ld k).decoders.map (fun x => { x with committed := false }) ∧ (u.ld k).memActive = (s.ld k).memActive ∧ (u.ld
    k).extents = (s.ld k).extents ∧ u.vault = s.vault ∧ u.fld Reg.RST_LOCAL_SRC = 6 ∧ u.fld Reg.RST_LOCAL_LEVEL = 2 ∧ u.fld Reg.RST_LOCAL_INST =
    k.val ∧ sameMemory s u) ∧
  (∀ (d : BitVec 8) (s : State), resettable d.toNat = true → s.rst.blocks = [] → s.domFenced d.toNat = false → s.cond d.toNat = .on → s.effLevel 8 =
    3 → ∃ u, exec (.rstCmdLevel3 .plaza d) s = .next (settled u) ∧ (u.rst.blocks.map fun b => (b.dom, b.src, b.released)) = [(d.toNat, 8, false)] ∧
    u.fld Reg.RST_CMD_STS_CODE = 0 ∧ u.on Reg.RST_CMD_STS_BUSY = true ∧ u.on Reg.RST_STS_BLOCK_RST = true) ∧
  (∀ (d : BitVec 8) (s : State), calm s = true → resettable d.toNat = true → (domStitchers d.toNat).isEmpty = true → s.rst.blocks = [] → s.domFenced
    d.toNat = false → s.cond d.toNat = .on → s.effLevel 8 = 3 → ∃ t, exec (.rstCmdLevel3 .plaza d) s = .next t ∧ (t.rst.blocks.map fun b => (b.dom,
    b.src, b.released)) = [(d.toNat, 8, false)] ∧ t.fld Reg.RST_CMD_STS_CODE = 0 ∧ t.on Reg.RST_CMD_STS_BUSY = true ∧ t.on Reg.RST_STS_BLOCK_RST =
    true ∧ onlyRegs [Reg.RST_CMD_STS, Reg.RST_STS, Reg.RST_LOCAL, Reg.RST_HIST, Reg.RST_IDLE] s t) ∧
  (∀ (s : State), s.effLevel 0x0B = 4 → s.on Reg.RST_STS_HOLD = false → s.rst.pulse = none → s.fld Reg.RST_STS_LEVEL = 0 → ∃ u, exec (.rstCmdLevel4
    .plaza) s = .next (settled u) ∧ u.fld Reg.RST_STS_PHASE = 1 ∧ u.fld Reg.RST_STS_LEVEL = 4 ∧ u.fld Reg.RST_CAUSE_SRC = 0x0B ∧ u.fld
    Reg.RST_CAUSE_LEVEL = 4 ∧ u.on Reg.RST_STS_MEM_ACTIVE = false ∧ u.vault.roots = s.vault.roots ∧ u.flight = [] ∧ u.qos = {}) ∧
  (∀ (s : State), s.effLevel 0x0D = 5 → s.on Reg.RST_STS_HOLD = false → s.rst.pulse = none → s.fld Reg.RST_STS_LEVEL = 0 → ∃ u, exec (.rstCmdLevel5
    .plaza) s = .next (settled u) ∧ u.fld Reg.RST_STS_PHASE = 1 ∧ u.fld Reg.RST_STS_LEVEL = 5 ∧ u.fld Reg.RST_CAUSE_SRC = 0x0D ∧ u.vault = {} ∧
    u.hot.lines = [] ∧ u.cold.stitches = s.cold.stitches) ∧
  (∀ (h : Fin 4) (k : Fin 16) (d : BitVec 8) (c : Instr) (s : State), [Instr.rstCmdLevel3 (.head h k) d, .rstCmdLevel4 (.head h k), .rstCmdLevel5
    (.head h k)].contains c = true → ∃ u, exec (c) s = .next (settled u) ∧ u.reported 0x1D 0 = true ∧ u.rst = s.rst ∧ onlyRegs [] s u) ∧
  (∀ (dom : Fin 144) (us : Fin 200) (b : BlockReset) (s : State), s.rst.blocks = [b] → b.dom = dom.val → b.released = false → s.idleBlock dom = true
    → 122 ≤ dom.val → dom.val < 130 → ∃ u, exec (.blockIdleReached dom us) s = .next (settled u) ∧ b.at_ + us.val * 1000 ≤ u.clk ∧ u.fld
    Reg.RST_IDLE_LAST_US = us.val ∧ u.rst.blocks = [{ b with released := true }] ∧ sameMemory s u) ∧
  (∀ (dom : Fin 144) (b : BlockReset) (s : State), s.rst.blocks = [b] → b.dom = dom.val → b.released = false → 122 ≤ dom.val → dom.val < 130 → ∃ u,
    exec (.idleTimeout dom) s = .next (settled u) ∧ b.at_ + 200000 ≤ u.clk ∧ u.fld Reg.RST_IDLE_LAST_US = 255 ∧ u.fld Reg.RST_IDLE_TIMEOUTS = satAdd
    Reg.RST_IDLE_TIMEOUTS.w (s.fld Reg.RST_IDLE_TIMEOUTS) 1 ∧ u.rst.blocks = [{ b with released := true }]) ∧
  (∀ (dom : Fin 144) (b : BlockReset) (s : State), calm s = true → s.rst.blocks = [b] → b.dom = dom.val → b.released = true → 122 ≤ dom.val → dom.val
    < 130 → s.domFenced dom = false → ∃ u, exec (.selfTestDone dom true) s = .next (settled u) ∧ u.rst.blocks = [] ∧ u.on Reg.RST_STS_BLOCK_RST =
    false ∧ u.cond dom = u.tableCond 0 dom ∧ sameMemory s u) ∧
  (∀ (dom : Fin 144) (b : BlockReset) (s : State), calm s = true → s.rst.blocks = [b] → b.dom = dom.val → b.released = true → 122 ≤ dom.val → dom.val
    < 130 → s.domFenced dom = false → s.eff 0x34 = 4 → s.asks 0x34 = false → s.on Reg.FLT_FIRST_VALID = false → s.fld Reg.RST_STS_LEVEL = 0 → ∃ u,
    exec (.selfTestDone dom false) s = .next (settled u) ∧ u.rst.blocks = [] ∧ u.on Reg.RST_STS_BLOCK_RST = false ∧ u.isFenced (blockOfDomain dom) =
    true ∧ u.fld (Reg.FLT_SSTS_COUNT 0x34) = satAdd (Reg.FLT_SSTS_COUNT 0x34).w (s.fld (Reg.FLT_SSTS_COUNT 0x34)) 1 ∧ u.fld Reg.FLT_FIRST_SRC = 0x34)
    ∧
  (∀ (dom : Fin 144) (s : State), s.rst.blocks = [] → s.rst.mrstLow = false → s.rst.released.contains dom.val = false → s.fld Reg.RST_STS_PHASE = 2 →
    bootDomains.contains dom.val = true → s.pwr.reqs = [] → ∃ u, exec (.selfTestDone dom true) s = .next (settled u) ∧ u.rst.released =
    s.rst.released ++ [dom.val] ∧ (u.fld Reg.RST_STS_PHASE = 2 ∨ u.fld Reg.RST_STS_PHASE = 3) ∧ sameMemory s u) ∧
  (∀ (dom : Fin 144) (c : Nat) (b : BlockReset) (s : State), clockOf dom = some c → calm s = true → s.rst.blocks = [b] → b.dom = dom.val → b.released
    = true → 42 ≤ dom.val → dom.val < 58 → s.domFenced dom = false → s.eff 0x27 = 4 → s.asks 0x27 = false → s.on Reg.FLT_FIRST_VALID = false → s.fld
    Reg.RST_STS_LEVEL = 0 → ∃ u, exec (.clockReleaseTimeout dom) s = .next (settled u) ∧ u.rst.blocks = [] ∧ u.isFenced (blockOfDomain dom) = true ∧
    u.bitOf (Reg.CLK_DOM_FAIL_FAIL (c / 32)) (c % 32) = true ∧ u.fld Reg.FLT_FIRST_SRC = 0x27) ∧
  (∀ (dom : Fin 144) (c : Nat) (s : State), clockOf dom = some c → s.releasing dom = true → s.rst.blocks = [] → (s.domainBlocks dom).all s.isFenced =
    true → s.fld Reg.RST_STS_PHASE = 5 → s.eff 0x27 = 0 → calm s = true → s.fld Reg.RST_STS_LEVEL = 0 → ∃ t, exec (.clockReleaseTimeout dom) s =
    .next t ∧ t.rst.released = s.rst.released ++ [dom.val] ∧ t.fld (Reg.FLT_SSTS_COUNT 0x27) = satAdd (Reg.FLT_SSTS_COUNT 0x27).w (s.fld
    (Reg.FLT_SSTS_COUNT 0x27)) 1 ∧ t.bitOf (Reg.CLK_DOM_FAIL_FAIL (c / 32)) (c % 32) = true ∧ onlyRegs [Reg.FLT_SSTS 0x27, Reg.CLK_DOM_FAIL (c / 32)]
    s t) ∧
  (∀ (p : NvPulse) (s : State), s.rst.pulse = some p → s.rst.deferred = none → s.flash.job = none → ∃ t, exec (.nvPulseEnd) s = .next t ∧ t.rst.pulse
    = none ∧ t.flash.slots = s.flash.slots ∧ t.fuses = s.fuses ∧ onlyRegs [] s t) ∧
  ∀ (p : NvPulse) (src inst at_ : Nat) (s : State), s.rst.pulse = some p → s.rst.deferred = some (src, inst, 5, at_) → src < 16 → s.on
    Reg.RST_STS_HOLD = false → s.fld Reg.RST_STS_LEVEL = 0 → ∃ u, exec (.nvPulseEnd) s = .next (settled u) ∧ u.rst.pulse = none ∧ u.rst.deferred =
    none ∧ u.fld Reg.RST_STS_PHASE = 1 ∧ u.fld Reg.RST_STS_LEVEL = 5 ∧ u.fld Reg.RST_CAUSE_SRC = src ∧ u.on Reg.RST_CAUSE_DEFERRED = true ∧ u.vault =
    {} ∧ u.cold.stitches = s.cold.stitches

/-- R448: a fuse load with a bad bank counts as incomplete and names the bank; one that passes leads to PHASE 2. R449: three within 1 s hold the
  module with FAULT_N asserted, reported as source 0x30. R433: the firmware of the running slot starts and the layout load begins; a boot that fails
  starts nothing; a recovery image starts it where it verifies. R450: after three failed attempts the built-in safe layout is committed, reported as
  source 0x31. R445: a head that is ready answers configuration requests. Table 15.6, step 15: an initialised CTM activates memory and ends the
  start-up. R506: the status responder answers its three codes and no other. R498: a cable's presence is recorded. R497: where that makes a low
  PERST# pin heard, its head is reset at its level in force; where it makes the last low pin ignored, the head is released. -/
def Obligations.StartUpSteps : Prop :=
  (∀ (b : BitVec 8) (s : State), s.inPhase 1 = true → s.rst.fuseFails = [] → s.on Reg.FLT_INJ_ARM = false → ∃ t, exec (.fuseLoadDone (some b)) s =
    .next t ∧ t.rst.fuseFails = [s.clk] ∧ t.fld Reg.RST_BOOT_FUSE_TRIES = 1 ∧ t.fld Reg.RST_BOOT_FUSE_BANK = b.toNat ∧ t.fuses = s.fuses ∧ t.fld
    Reg.RST_STS_PHASE = 1 ∧ onlyRegs [Reg.RST_BOOT] s t) ∧
  (∀ (s : State), s.inPhase 1 = true → s.rst.fuseFails = [] → s.on Reg.FLT_INJ_ARM = false → ∃ t, exec (.fuseLoadDone none) s = .next t ∧ t.fld
    Reg.RST_STS_PHASE = 2 ∧ t.fuses.loaded = true ∧ t.fld Reg.CRY_STS_LC = s.fuses.lc % 4 ∧ t.on Reg.CRY_STS_VAULT_READY = true ∧ t.cond 117 = .on ∧
    sameMemory s t) ∧
  (∀ (s : State), s.inPhase 1 = true → 3 ≤ s.rst.fuseFails.length → ∃ u, exec (.fuseLoadHold) s = .next (settled u) ∧ u.on Reg.RST_STS_HOLD = true ∧
    u.fld Reg.RST_STS_LEVEL = 5 ∧ u.faultN = true ∧ u.reported 0x30 0 = true ∧ onlyRegs [Reg.RST_STS] s u) ∧
  (∀ (img : FwImage) (s : State), s.inPhase 3 = true → s.coreReady = true → s.mgmt.act = none → s.on Reg.MGT_STS_FW_RUN = false → s.fld
    Reg.RST_BOOT_BOOT_SRC = 0 → s.flash.staged = 0 → s.fwImage s.flash.runSlot = some img → s.flash.cut = none → ∃ u, exec (.firmwareBootDone true) s
    = .next (settled u) ∧ u.on Reg.MGT_STS_FW_RUN = true ∧ u.fld Reg.RST_STS_PHASE = 4 ∧ u.fld Reg.MGT_FW_SVN = img.svn % 2 ^ Reg.MGT_FW_SVN.w ∧
    u.flt.queued = [] ∧ sameMemory s u) ∧
  (∀ (s : State), exec (.firmwareBootDone false) s = .next (s)) ∧
  (∀ (img : FwImage) (s : State), s.inPhase 3 = true → s.coreReady = true → s.fld Reg.RST_BOOT_BOOT_SRC = 2 → s.on Reg.MGT_STS_FW_RUN = false →
    s.flash.cut = none → calm s = true → s.flash.report = false → ∃ t, exec (.recoveryFirmwareImage img) s = .next t ∧ t.on Reg.MGT_STS_FW_RUN =
    s.fwAuthentic img ∧ t.fld Reg.RST_STS_PHASE = (if s.fwAuthentic img then 4 else 3) ∧ t.flash.fw = s.flash.fw ∧ sameMemory s t) ∧
  (∀ (s : State), s.inPhase 4 = true → s.on Reg.MGT_STS_FW_RUN = true → 3 ≤ s.fld Reg.RST_BOOT_LAYOUT_TRIES → ∃ u, exec (.layoutLoadAttempt) s =
    .next (settled u) ∧ u.layout.safe = true ∧ u.layout.committed = true ∧ u.reported 0x31 0 = true ∧ sameMemory s u) ∧
  (∀ (h : Fin 4) (s : State), s.headLive h = true → s.perstHeld h = false → (s.head h).ready = false → s.layout.committed = true → ∃ t, exec
    (.headReady h) s = .next t ∧ (t.head h).ready = true ∧ t.out = .crs h false :: s.out ∧ (∀ k, k ≠ h.val → t.head k = s.head k) ∧ onlyRegs
    [Reg.RST_TIME] s t) ∧
  (∀ (s : State), s.inPhase 5 = true → s.dram.checked = true → s.fld Reg.SUP_STS_BAND = 0 → s.on Reg.CTM_STS_READY = true → ∃ u, exec (.ctmInit) s =
    .next (settled u) ∧ u.on Reg.RST_STS_MEM_ACTIVE = true ∧ u.fld Reg.RST_STS_PHASE = 0 ∧ u.fld Reg.RST_STS_LEVEL = 0 ∧ u.vault.winStart = s.clk ∧
    sameMemory s u) ∧
  (∀ (c : BitVec 8) (s : State), s.on Reg.SUP_STS_PWRGD = true → [0, 1, 8].contains c.toNat = true → exec (.statusResponderRead c) s = .next (s.emit
    (.bytes (4 :: (List.range 4).map fun i => (if c = 0 then s.rstSts else if c = 1 then s.reg Reg.RST_CAUSE else s.reg Reg.RST_BOOT).toNat / 256 ^ i
    % 256)))) ∧
  (∀ (c : BitVec 8) (s : State), (s.on Reg.SUP_STS_PWRGD = false ∨ [0, 1, 8].contains c.toNat = false) → exec (.statusResponderRead c) s = .next (s))
    ∧
  (∀ (c : Fin 2) (b : Bool) (s : State), s.rst.cables.length = 2 → (∀ k : Fin 4, (setCable c b s).perstHeld k = s.perstHeld k) → ∃ t, exec
    (.cablePresenceChange c b) s = .next t ∧ t.rst.cables[c.val]? = some b ∧ t.rst.lowPins = s.rst.lowPins ∧ t.out = s.out ∧ onlyRegs [] s t) ∧
  (∀ (c : Fin 2) (b : Bool) (h : Fin 4) (s : State), s.perstHeld h = false → (setCable c b s).perstHeld h = true → (∀ k : Fin 4, k ≠ h → (setCable c
    b s).perstHeld k = s.perstHeld k) → s.present h = true → s.effLevel 2 = 1 → ∃ u, exec (.cablePresenceChange c b) s = .next (settled u) ∧
    u.perstHeld h = true ∧ u.headEpoch h ≠ s.headEpoch h ∧ u.fld Reg.RST_LOCAL_SRC = 2 ∧ u.fld Reg.RST_LOCAL_INST = h.val ∧ u.linkUp h = false ∧
    sameMemory s u) ∧
  ∀ (c : Fin 2) (b : Bool) (h : Fin 4) (s : State), s.perstHeld h = true → (setCable c b s).perstHeld h = false → (∀ k : Fin 4, k ≠ h → (setCable c b
    s).perstHeld k = s.perstHeld k) → ∃ u, exec (.cablePresenceChange c b) s = .next (settled u) ∧ u.perstHeld h = false ∧ (u.head h).perstRise =
    s.clk ∧ u.rst.lowPins = s.rst.lowPins ∧ (∀ k, k ≠ h.val → u.head k = s.head k) ∧ onlyRegs [] s u

/-- R468: an MGR command of a path of its class is executed one at a time: it answers Busy while another goes on, and Unsupported by another path.
  R457, R460: a transfer erases the slot that the active marker does not name, takes chunks of at most 4 KiB, and writes the image; the marker moves
  only to a slot with an authenticated image. R457: the minimum version is raised to the committed image's SVN, by a pulse, and not without an image.
  R461, R463: an amendment that no code of R463 refuses is written first; otherwise the reply and LAST_CODE give the code. R465: a command writes
  MODE, but for a fixed function, and MODE_ACT follows at the function's quiet point and not before. The first bytes of GET_LAYOUT_INFO's payload and
  the return codes are the model's (log entries 60 and 41). -/
def Obligations.LayoutCommands : Prop :=
  (∀ (via : CmdPath) (s : State), anyLdPath via = true → plazaTakes s = true → ∃ u, exec (.getLayoutInfo via) s = .next (settled u) ∧ (∃ p, u.out =
    .reply (ownLd via) 0 p :: s.out ∧ p.take 8 =
    match s.layout.image with | some m => leBytes 4 m.layoutId ++ leBytes 2 m.ver ++ [m.svn, m.key] | none => leBytes 8 0) ∧ u.fld
    Reg.MGT_CMD_CNT_EXECUTED = satAdd Reg.MGT_CMD_CNT_EXECUTED.w (s.fld Reg.MGT_CMD_CNT_EXECUTED) 1 ∧ onlyRegs [Reg.MGT_CMD_CNT] s u) ∧
  (∀ (via : CmdPath) (a : Transfer LayoutImage) (slot : Fin 2) (img : LayoutImage) (f : Fin 8) (host : Bool) (c : Instr) (s : State),
    [Instr.transferLayout via a, .selectLayoutSlot via slot, .amendLayout via img, .raiseLayoutMinimumVersion via, .setFunctionMode via f
    host].contains c = true → s.mgrPath via = true → s.mgmt.mgrBusy = true → ∃ u, exec (c) s = .next (settled u) ∧ u.out = .reply (ownLd via) 6 [] ::
    s.out ∧ u.fld Reg.MGT_CMD_CNT_REFUSED = satAdd Reg.MGT_CMD_CNT_REFUSED.w (s.fld Reg.MGT_CMD_CNT_REFUSED) 1 ∧ u.flash = s.flash ∧ u.mgmt = s.mgmt
    ∧ u.layout = s.layout ∧ onlyRegs [Reg.MGT_CMD_CNT] s u) ∧
  (∀ (via : CmdPath) (a : Transfer LayoutImage) (slot : Fin 2) (img : LayoutImage) (f : Fin 8) (host : Bool) (c : Instr) (s : State),
    [Instr.transferLayout via a, .selectLayoutSlot via slot, .amendLayout via img, .raiseLayoutMinimumVersion via, .setFunctionMode via f
    host].contains c = true → s.mgrPath via = false → ∃ u, exec (c) s = .next (settled u) ∧ u.out = .reply (ownLd via) 3 [] :: s.out ∧ u.fld
    Reg.MGT_CMD_CNT_REFUSED = satAdd Reg.MGT_CMD_CNT_REFUSED.w (s.fld Reg.MGT_CMD_CNT_REFUSED) 1 ∧ u.flash = s.flash ∧ u.mgmt = s.mgmt ∧ u.layout =
    s.layout ∧ onlyRegs [Reg.MGT_CMD_CNT] s u) ∧
  (∀ (via : CmdPath) (s : State), s.mgrPath via = true → s.mgmt.mgrBusy = false → plazaTakes s = true → s.flashFree = true → s.flash.transfer = none
    → ∃ u, exec (.transferLayout via .initiate) s = .next (settled u) ∧ u.flash.job = some (.erase false (1 - s.flash.active)) ∧ u.rst.pulse.isSome =
    true ∧ u.mgmt.mgrBusy = true ∧ u.out = s.out ∧ u.flash.slots = s.flash.slots ∧ u.flash.active = s.flash.active ∧ onlyRegs [Reg.MGT_CMD_CNT] s u)
    ∧
  (∀ (via : CmdPath) (n b : Nat) (s : State), s.mgrPath via = true → s.mgmt.mgrBusy = false → plazaTakes s = true → s.flashFree = true →
    s.flash.transfer = some b → 0 < n → n ≤ 4096 → b + n ≤ 524288 → ∃ u, exec (.transferLayout via (.more n)) s = .next (settled u) ∧ u.flash.job =
    some (.chunk false n) ∧ u.flash.transfer = some b ∧ u.mgmt.mgrBusy = true ∧ u.out = s.out ∧ onlyRegs [Reg.MGT_CMD_CNT] s u) ∧
  (∀ (via : CmdPath) (n b : Nat) (s : State), s.mgrPath via = true → s.mgmt.mgrBusy = false → plazaTakes s = true → s.flash.transfer = some b → n = 0
    ∨ 4096 < n ∨ 524288 < b + n → ∃ u, exec (.transferLayout via (.more n)) s = .next (settled u) ∧ u.out = .reply (ownLd via) 2 [] :: s.out ∧
    u.flash = s.flash ∧ onlyRegs [Reg.MGT_CMD_CNT] s u) ∧
  (∀ (via : CmdPath) (img : LayoutImage) (b : Nat) (s : State), s.mgrPath via = true → s.mgmt.mgrBusy = false → plazaTakes s = true → s.flashFree =
    true → s.flash.transfer = some b → ∃ u, exec (.transferLayout via (.finish img)) s = .next (settled u) ∧ u.flash.job = some (.layout (1 -
    s.flash.active) img) ∧ u.mgmt.mgrBusy = true ∧ u.out = s.out ∧ onlyRegs [Reg.MGT_CMD_CNT] s u) ∧
  (∀ (via : CmdPath) (b : Nat) (s : State), s.mgrPath via = true → s.mgmt.mgrBusy = false → plazaTakes s = true → s.flash.transfer = some b → ∃ u,
    exec (.transferLayout via .abort) s = .next (settled u) ∧ u.out = .reply (ownLd via) 0 [] :: s.out ∧ u.flash.transfer = none ∧ u.flash.slots =
    s.flash.slots ∧ onlyRegs [Reg.MGT_CMD_CNT] s u) ∧
  (∀ (via : CmdPath) (b : Nat) (s : State), s.mgrPath via = true → s.mgmt.mgrBusy = false → plazaTakes s = true → s.flash.transfer = some b → ∃ u,
    exec (.transferLayout via .initiate) s = .next (settled u) ∧ u.out = .reply (ownLd via) 8 [] :: s.out ∧ u.flash = s.flash ∧ onlyRegs
    [Reg.MGT_CMD_CNT] s u) ∧
  (∀ (via : CmdPath) (a : Transfer LayoutImage) (s : State), s.mgrPath via = true → s.mgmt.mgrBusy = false → plazaTakes s = true → s.flash.transfer =
    none → a ≠ .initiate → ∃ u, exec (.transferLayout via a) s = .next (settled u) ∧ u.out = .reply (ownLd via) 9 [] :: s.out ∧ u.flash = s.flash ∧
    onlyRegs [Reg.MGT_CMD_CNT] s u) ∧
  (∀ (via : CmdPath) (slot : Fin 2) (s : State), s.mgrPath via = true → s.mgmt.mgrBusy = false → plazaTakes s = true → (s.flash.slots.getD slot
    {}).image = none → ∃ u, exec (.selectLayoutSlot via slot) s = .next (settled u) ∧ u.out = .reply (ownLd via) 2 [1] :: s.out ∧ u.flash.active =
    s.flash.active ∧ u.fld Reg.CFG_STS_LAST_CODE = 1 ∧ onlyRegs [Reg.MGT_CMD_CNT, Reg.CFG_STS] s u) ∧
  (∀ (via : CmdPath) (slot : Fin 2) (img : LayoutImage) (s : State), s.mgrPath via = true → s.mgmt.mgrBusy = false → plazaTakes s = true →
    (s.flash.slots.getD slot {}).image = some img → ∃ u, exec (.selectLayoutSlot via slot) s = .next (settled u) ∧ u.out = .reply (ownLd via) (if
    s.authentic img then 0 else 2) [if s.authentic img then 0 else 1] :: s.out ∧ u.flash.active = (if s.authentic img then slot.val else
    s.flash.active) ∧ u.fld Reg.CFG_STS_LAST_CODE = (if s.authentic img then 0 else 1) ∧ u.flash.slots = s.flash.slots ∧ onlyRegs [Reg.MGT_CMD_CNT,
    Reg.CFG_STS, Reg.CFG_SLOTS] s u) ∧
  (∀ (via : CmdPath) (img : LayoutImage) (s : State), s.mgrPath via = true → s.mgmt.mgrBusy = false → plazaTakes s = true → s.flashFree = true → ∃ u,
    exec (.amendLayout via img) s = .next (settled u) ∧ u.flash.job = (if s.arrivalCode img = 0 then some (.amend img) else none) ∧ u.out = (if
    s.arrivalCode img = 0 then s.out else .reply (ownLd via) 2 [s.arrivalCode img] :: s.out) ∧ u.fld Reg.CFG_STS_LAST_CODE = (if s.arrivalCode img =
    0 then s.fld Reg.CFG_STS_LAST_CODE else s.arrivalCode img) ∧ u.layout = s.layout ∧ onlyRegs [Reg.MGT_CMD_CNT, Reg.CFG_STS] s u) ∧
  (∀ (via : CmdPath) (img : LayoutImage) (s : State), s.mgrPath via = true → s.mgmt.mgrBusy = false → plazaTakes s = true → s.flashFree = true →
    s.layout.image = some img → ∃ u, exec (.raiseLayoutMinimumVersion via) s = .next (settled u) ∧ u.flash.job = some (.minSvn img.svn) ∧ u.fuses =
    s.fuses ∧ u.mgmt.mgrBusy = true ∧ u.out = s.out ∧ onlyRegs [Reg.MGT_CMD_CNT] s u) ∧
  (∀ (via : CmdPath) (s : State), s.mgrPath via = true → s.mgmt.mgrBusy = false → plazaTakes s = true → s.layout.image = none → ∃ u, exec
    (.raiseLayoutMinimumVersion via) s = .next (settled u) ∧ u.out = .reply (ownLd via) 2 [] :: s.out ∧ u.flash = s.flash ∧ u.fuses = s.fuses ∧
    onlyRegs [Reg.MGT_CMD_CNT] s u) ∧
  (∀ (via : CmdPath) (f : Fin 8) (host : Bool) (s : State), s.mgrPath via = true → s.mgmt.mgrBusy = false → plazaTakes s = true → ∃ u, exec
    (.setFunctionMode via f host) s = .next (settled u) ∧ u.out = .reply (ownLd via) 0 [] :: s.out ∧ u.fld (modeFld f) = (if s.bitOf
    Reg.CFG_FMODE_FIXED f then s.fld (modeFld f) else host.toNat) ∧ (∀ g : Fin 8, u.fld (actFld g) = s.fld (actFld g)) ∧ onlyRegs [Reg.MGT_CMD_CNT,
    (modeFld f).addr] s u) ∧
  (∀ (f : Fin 8) (s : State), s.switching f = true → s.quiet f = true → (f.val = 4 → s.fld (modeFld 4) = 1) → s.hot.held = [] → s.qos.heldReq = [] →
    ∃ u, exec (.functionModeSwitch f) s = .next (settled u) ∧ u.switching f = false ∧ u.fld (actFld f) = s.fld (modeFld f) ∧ u.fld (modeFld f) =
    s.fld (modeFld f) ∧ u.flt.log.head? = (s.vendor 0 0x0140 [f.val, s.fld (modeFld f), (if f.val = 1 then s.cold.hostVictims.length else
    0)]).flt.log.head? ∧ onlyRegs [(actFld f).addr] s u) ∧
  (∀ (f : Fin 8) (s : State), s.switching f = false → exec (.functionModeSwitch f) s = .next (s)) ∧
  ∀ (f : Fin 8) (s : State), calm s = true → s.switching f = true → s.quiet f = false → f ≠ 4 → exec (.functionModeSwitch f) s = .next (s)

/-- Table 16.5: each command by a path of its class, while the plaza takes commands, has the effect that its rule gives and a reply. R356: the fault
  log is read, newest record first. R343, R344: Clear Fault clears the PEND bits named, the latch where its reaction is done, and the history on
  request. R334, R335: Apply Reaction decides a report that waits, is refused below the floor, and with code 0xFF sends a fenced NME to its Level 3
  reset. R345, R251 to R255, R409: Inject Fault, DIMM Service and Slot Power act as their registers do, and reply with their codes. R320: a promotion
  hint promotes a cold page for which a shed frame is free, and does nothing for a page that holds no data; while a switch of the mode is pending the
  command waits. R173, R238: victims and ranges are taken in host-assisted mode only. R232: held results are read and committed. R247: the host's
  rebuild rate. R470: sensors and FRU records. R46, R212, Table 2.3: the CDAT of an LD with a head, the life-cycle state, the FM API's LD
  information, its refused QoS control, and a vendor opcode that Table 16.5 does not list. R48: new capacity is offered, or refused where it cannot
  be backed. Payload layouts, sensor numbers and return codes are the model's (log entries 60 and 41). -/
def Obligations.ManagementCommands : Prop :=
  (∀ (via : CmdPath) (first n : Nat) (s : State), s.mgrPath via = true → s.mgmt.mgrBusy = false → plazaTakes s = true → ∃ u, exec (.getFaultLog via
    first n) s = .next (settled u) ∧ u.out = .reply (ownLd via) 0 (((s.flt.log.drop first).take n).flatMap logBytes) :: s.out ∧ u.flt = s.flt ∧
    onlyRegs [Reg.MGT_CMD_CNT] s u) ∧
  (∀ (via : CmdPath) (srcs : List (Fin 64)) (hist : Bool) (s : State), s.mgrPath via = true → s.mgmt.mgrBusy = false → plazaTakes s = true → ∃ u,
    exec (.clearFault via srcs hist) s = .next (settled u) ∧ u.out = .reply (ownLd via) 0 [] :: s.out ∧ u.reg Reg.FLT_FIRST = (if s.on
    Reg.FLT_FIRST_VALID && s.on Reg.FLT_FIRST_DONE then 0 else s.reg Reg.FLT_FIRST) ∧ (∀ k ∈ srcs, u.on (Reg.FLT_SSTS_PEND k) = false) ∧ u.fld
    Reg.RST_HIST_SEEN = (if hist then 0 else s.fld Reg.RST_HIST_SEEN) ∧ u.on Reg.RST_NVW_VALID = (!hist && s.on Reg.RST_NVW_VALID) ∧ u.flt.fenced =
    s.flt.fenced ∧ sameMemory s u) ∧
  (∀ (via : CmdPath) (src inst code : BitVec 8) (d : Decision) (s : State), s.mgrPath via = true → s.mgmt.mgrBusy = false → plazaTakes s = true →
    s.waiting src.toNat inst.toNat = some d → d.report.src = src.toNat → d.report.inst = inst.toNat → s.fld (Reg.FLT_REACT_FLOOR src.toNat) =
    code.toNat → code.toNat ≤ 7 → ∃ u, exec (.applyReaction via src inst code) s = .next (settled u) ∧ u.out = .reply (ownLd via) 0 [] :: s.out ∧
    u.waiting src.toNat inst.toNat = none ∧ onlyRegs [Reg.MGT_CMD_CNT] s u) ∧
  (∀ (via : CmdPath) (src inst code : BitVec 8) (s : State), s.mgrPath via = true → s.mgmt.mgrBusy = false → plazaTakes s = true → code ≠ 0xFF →
    (s.waiting src.toNat inst.toNat = none ∨ code.toNat < s.fld (Reg.FLT_REACT_FLOOR src.toNat) ∨ 7 < code.toNat) → ∃ u, exec (.applyReaction via src
    inst code) s = .next (settled u) ∧ u.out = .reply (ownLd via) 2 [] :: s.out ∧ u.flt = s.flt ∧ onlyRegs [Reg.MGT_CMD_CNT] s u) ∧
  (∀ (via : CmdPath) (src inst : BitVec 8) (e : Nat) (s : State), s.mgrPath via = true → s.mgmt.mgrBusy = false → plazaTakes s = true → s.returnable
    src.toNat inst.toNat = [Block.engine e] → e < 8 → s.effLevel 7 < 4 → ∃ u, exec (.applyReaction via src inst 0xFF) s = .next (settled u) ∧ u.out =
    .reply (ownLd via) 0 [] :: s.out ∧ (u.rst.blocks.any fun b => b.dom == 122 + e) = true ∧ u.flt.returned = s.flt.returned ∧ sameMemory s u) ∧
  (∀ (via : CmdPath) (src inst : BitVec 8) (s : State), s.mgrPath via = true → s.mgmt.mgrBusy = false → plazaTakes s = true → s.lifeCycle ≠ 3 →
    knownSource (src.toNat % 64) = true → s.eff (src.toNat % 64) < 6 → s.noInstance (src.toNat % 64) inst.toNat = false → ∃ u, exec (.injectFault via
    (.force src inst)) s = .next (settled u) ∧ u.out = .reply (ownLd via) 0 [0] :: s.out ∧ u.fld Reg.FLT_FORCE_STS_CODE = 0 ∧ u.flt.inbox =
    s.flt.inbox ++ [{ src := src.toNat % 64, inst := inst.toNat, inj := true, forced := true }] ∧ onlyRegs [Reg.MGT_CMD_CNT, Reg.FLT_FORCE_STS] s u)
    ∧
  (∀ (via : CmdPath) (tgt : BitVec 4) (inst bit : BitVec 8) (s : State), s.mgrPath via = true → s.mgmt.mgrBusy = false → plazaTakes s = true → 1 ≤
    tgt.toNat → tgt.toNat ≤ 8 → s.lifeCycle < 2 → s.noTarget tgt.toNat inst.toNat = false → ∃ u, exec (.injectFault via (.arm tgt inst bit)) s =
    .next (settled u) ∧ u.out = .reply (ownLd via) 0 [0] :: s.out ∧ u.on Reg.FLT_INJ_ARM = true ∧ u.fld Reg.FLT_INJ_TGT = tgt.toNat ∧ u.fld
    Reg.FLT_INJ_INST = inst.toNat ∧ u.fld Reg.FLT_INJ_BIT = bit.toNat ∧ onlyRegs [Reg.MGT_CMD_CNT, Reg.FLT_INJ, Reg.FLT_FORCE_STS] s u) ∧
  (∀ (via : CmdPath) (ch : Fin 16) (z : Fin 2) (b : Nat) (s : State), s.mgrPath via = true → s.mgmt.mgrBusy = false → plazaTakes s = true →
    s.slotState ch z = 3 → s.serviceRuns ch = false → s.blockOf ch z = none → s.freeBlock z = some b → b < 4 → ∃ u, exec (.dimmService via 1 ch z) s
    = .next (settled u) ∧ u.out.head? = some (.reply (ownLd via) 0 [0]) ∧ u.slotState ch z = 4 ∧ u.on (Reg.DCM_BLK_VALID b) = true ∧ u.fld
    (Reg.DCM_BLK_OP b) = 2 ∧ u.fld (Reg.DCM_BLK_CH b) = ch.val ∧ u.fld Reg.DCM_SVC_STS_CODE = 0 ∧ sameMemory s u) ∧
  (∀ (via : CmdPath) (ch : Fin 16) (z : Fin 2) (b : Nat) (s : State), s.mgrPath via = true → s.mgmt.mgrBusy = false → plazaTakes s = true →
    s.slotState ch z = 5 → s.blockOf ch z = some b → s.cold.nLedger = 0 → s.cold.segs = [] → (s.dcc ch).rq = [] → (s.dcc ch).wq = [] → ∃ u, exec
    (.dimmService via 2 ch z) s = .next (settled u) ∧ u.out.head? = some (.reply (ownLd via) 0 [0]) ∧ u.slotState ch z = 6 ∧ u.fld
    Reg.DCM_SVC_STS_CODE = 0 ∧ sameMemory s u) ∧
  (∀ (via : CmdPath) (ch : Fin 16) (z : Fin 2) (s : State), s.mgrPath via = true → s.mgmt.mgrBusy = false → plazaTakes s = true → [6, 7, 10].contains
    (s.slotState ch z) = true → s.slotPowered ch z = true → s.serviceRuns ch = false → ∃ u, exec (.dimmService via 3 ch z) s = .next (settled u) ∧
    u.out = .reply (ownLd via) 0 [0] :: s.out ∧ u.slotState ch z = 1 ∧ u.on Reg.DCM_SVC_STS_BUSY = true ∧ u.fld Reg.DCM_SVC_STS_CODE = 0 ∧ onlyRegs
    [Reg.MGT_CMD_CNT, Reg.DCM_SVC_STS, Reg.DCC_SLOT ch z] s u) ∧
  (∀ (via : CmdPath) (ch : Fin 16) (z : Fin 2) (b : Nat) (s : State), s.mgrPath via = true → s.mgmt.mgrBusy = false → plazaTakes s = true → [4,
    5].contains (s.slotState ch z) = true → s.blockOf ch z = some b → s.dram.dcm.pend = [] → ∃ u, exec (.dimmService via 4 ch z) s = .next (settled
    u) ∧ u.out.head? = some (.reply (ownLd via) 0 [0]) ∧ u.slotState ch z = 3 ∧ u.on (Reg.DCM_BLK_VALID b) = false ∧ u.fld Reg.DCM_SVC_STS_CODE = 0 ∧
    sameMemory s u) ∧
  (∀ (via : CmdPath) (ch : Fin 16) (z : Fin 2) (s : State), s.mgrPath via = true → s.mgmt.mgrBusy = false → plazaTakes s = true → s.slotState ch z ≠
    3 → ∃ u, exec (.dimmService via 1 ch z) s = .next (settled u) ∧ u.out = .reply (ownLd via) 2 [2] :: s.out ∧ u.fld Reg.DCM_SVC_STS_CODE = 2 ∧
    u.slotState ch z = s.slotState ch z ∧ onlyRegs [Reg.MGT_CMD_CNT, Reg.DCM_SVC_STS] s u) ∧
  (∀ (via : CmdPath) (cmd : BitVec 3) (ch : Fin 16) (z : Fin 2) (s : State), s.mgrPath via = true → s.mgmt.mgrBusy = false → plazaTakes s = true →
    cmd.toNat = 0 ∨ 4 < cmd.toNat → ∃ u, exec (.dimmService via cmd ch z) s = .next (settled u) ∧ u.out = .reply (ownLd via) 2 [] :: s.out ∧ onlyRegs
    [Reg.MGT_CMD_CNT] s u) ∧
  (∀ (via : CmdPath) (j : Fin 64) (s : State), s.mgrPath via = true → s.mgmt.mgrBusy = false → plazaTakes s = true → isSlot j = true → s.conducts j =
    true → [0, 6, 7, 9].contains (s.slotSt j) = true → ∃ u, exec (.slotPower via 1 j) s = .next (settled u) ∧ u.out.head? = some (.reply (ownLd via)
    0 [0]) ∧ u.supSt j = 6 ∧ u.slotSt j = 10 ∧ u.fld Reg.SUP_CMD_STS_CODE = 0 ∧ u.fld Reg.SUP_CMD_STS_CH = j.val ∧ sameMemory s u) ∧
  (∀ (via : CmdPath) (j : Fin 64) (s : State), s.mgrPath via = true → s.mgmt.mgrBusy = false → plazaTakes s = true → isSlot j = true → s.supSt j = 0
    → [0, 7, 9, 10].contains (s.slotSt j) = true → s.on (Reg.SUP_CH_STS_LATCH j) = true → s.fld Reg.SUP_STS_BAND ≠ 2 → ∃ u, exec (.slotPower via 2 j)
    s = .next (settled u) ∧ u.out = .reply (ownLd via) 0 [0] :: s.out ∧ u.supSt j = 1 ∧ u.fld Reg.SUP_CMD_STS_CODE = 0 ∧ onlyRegs [Reg.MGT_CMD_CNT,
    Reg.SUP_CH_STS j, Reg.SUP_CMD_STS] s u) ∧
  (∀ (via : CmdPath) (j : Fin 64) (s : State), s.mgrPath via = true → s.mgmt.mgrBusy = false → plazaTakes s = true → isSlot j = true → s.supSt j = 5
    → ∃ u, exec (.slotPower via 3 j) s = .next (settled u) ∧ u.out = .reply (ownLd via) 0 [0] :: s.out ∧ u.supSt j = 0 ∧ (u.chan j).used = 0 ∧ u.fld
    Reg.SUP_CMD_STS_CODE = 0 ∧ onlyRegs [Reg.MGT_CMD_CNT, Reg.SUP_CH_STS j, Reg.SUP_CMD_STS] s u) ∧
  (∀ (via : CmdPath) (cmd : BitVec 3) (j : Fin 64) (s : State), s.mgrPath via = true → s.mgmt.mgrBusy = false → plazaTakes s = true → cmd.toNat = 0 ∨
    3 < cmd.toNat → ∃ u, exec (.slotPower via cmd j) s = .next (settled u) ∧ u.out = .reply (ownLd via) 2 [] :: s.out ∧ u.sup = s.sup ∧ onlyRegs
    [Reg.MGT_CMD_CNT] s u) ∧
  (∀ (via : CmdPath) (ld : Fin 16) (dpa p f : Nat) (s : State), ldPath ld via = true → plazaTakes s = true → dpa % 4096 = 0 → s.inCapacity ld dpa =
    true → s.switching 0 = false → p = s.gpnOf ld dpa → (s.entry p).state = 1 → (s.entry p).scnt ≠ 0 → s.mayOpen p = true → s.shedFor p = some f → ∃
    u, exec (.tierPages via ld dpa 4096 true) s = .next (settled u) ∧ u.out = .reply (ownLd via) 0 [0, 1, 0, 0, 0] :: s.out ∧ (u.opOf p).map
    PageOp.kind = some .promotion ∧ onlyRegs [Reg.MGT_CMD_CNT] s u) ∧
  (∀ (via : CmdPath) (ld : Fin 16) (dpa : Nat) (s : State), ldPath ld via = true → plazaTakes s = true → dpa % 4096 = 0 → s.inCapacity ld dpa = true
    → s.switching 0 = false → (s.entry (s.gpnOf ld dpa)).state = 0 → ∃ u, exec (.tierPages via ld dpa 4096 true) s = .next (settled u) ∧ u.out =
    .reply (ownLd via) 0 [0, 0, 0, 0, 0] :: s.out ∧ u.hot = s.hot ∧ u.cold = s.cold ∧ onlyRegs [Reg.MGT_CMD_CNT] s u) ∧
  (∀ (via : CmdPath) (ld : Fin 16) (dpa len : Nat) (promote : Bool) (s : State), ldPath ld via = true → plazaTakes s = true → dpa % 4096 = 0 → len %
    4096 = 0 → 0 < len → ((List.range (len / 4096)).all fun i => s.inCapacity ld (dpa + 4096 * i)) = true → s.switching 0 = true → ∃ u, exec
    (.tierPages via ld dpa len promote) s = .next (settled u) ∧ u.out = s.out ∧ u.hot.held = s.hot.held ++ [(via, ld.val, dpa, len, promote)] ∧
    onlyRegs [Reg.MGT_CMD_CNT] s u) ∧
  (∀ (via : CmdPath) (segs : List Nat) (s : State), s.mgrPath via = true → s.mgmt.mgrBusy = false → plazaTakes s = true → segs.length ≤ 64 →
    (segs.any fun g => decide (s.cold.nSeg ≤ g)) = false → s.on Reg.CTM_GC_CFG_MODE_ACT = true → s.on Reg.CTM_STS_READY = false → ∃ u, exec
    (.nameGcVictims via segs) s = .next (settled u) ∧ u.out = .reply (ownLd via) 0 [] :: s.out ∧ u.cold.hostVictims = s.cold.hostVictims ++
    segs.filter (fun g => !s.cold.hostVictims.contains g) ∧ u.cold.segs = s.cold.segs ∧ onlyRegs [Reg.MGT_CMD_CNT] s u) ∧
  (∀ (via : CmdPath) (segs : List Nat) (s : State), s.mgrPath via = true → s.mgmt.mgrBusy = false → plazaTakes s = true → s.on
    Reg.CTM_GC_CFG_MODE_ACT = false → ∃ u, exec (.nameGcVictims via segs) s = .next (settled u) ∧ u.out = .reply (ownLd via) 2 [] :: s.out ∧ u.cold =
    s.cold ∧ onlyRegs [Reg.MGT_CMD_CNT] s u) ∧
  (∀ (via : CmdPath) (first last : Nat) (s : State), s.mgrPath via = true → s.mgmt.mgrBusy = false → plazaTakes s = true → first ≤ last → last <
    s.cold.nSeg * 4096 → s.on Reg.DCM_MODE_PATROL_ACT = true → ∃ u, exec (.patrolRange via first last) s = .next (settled u) ∧ u.out = .reply (ownLd
    via) 0 [] :: s.out ∧ u.dram.dcm.ranges = s.dram.dcm.ranges ++ [(first, last + 1)] ∧ onlyRegs [Reg.MGT_CMD_CNT] s u) ∧
  (∀ (via : CmdPath) (ch : Fin 16) (l : List (Nat × Nat)) (s : State), s.mgrPath via = true → s.mgmt.mgrBusy = false → plazaTakes s = true → (s.dcc
    ch).held = some l → ∃ u, exec (.getTrainingResults via (.channel ch)) s = .next (settled u) ∧ u.out = .reply (ownLd via) 0 (2 * l.length ::
    l.flatMap fun e => [e.1, e.2]) :: s.out ∧ u.dram = s.dram ∧ onlyRegs [Reg.MGT_CMD_CNT] s u) ∧
  (∀ (via : CmdPath) (st : Fin 2) (h : Nat × Nat × List Nat) (s : State), s.mgrPath via = true → s.mgmt.mgrBusy = false → plazaTakes s = true →
    (s.dram.stackHeld.find? fun h => h.1 == st.val) = some h → ∃ u, exec (.getTrainingResults via (.stack st)) s = .next (settled u) ∧ u.out = .reply
    (ownLd via) 0 (h.2.2.length :: h.2.2) :: s.out ∧ u.dram = s.dram ∧ onlyRegs [Reg.MGT_CMD_CNT] s u) ∧
  (∀ (via : CmdPath) (st : Fin 2) (h : Nat × Nat × List Nat) (x : Nat) (s : State), s.mgrPath via = true → s.mgmt.mgrBusy = false → plazaTakes s =
    true → (s.dram.stackHeld.find? fun h => h.1 == st.val) = some h → ∃ u, exec (.commitTrainingSettings via (.stack st) x true) s = .next (settled
    u) ∧ u.out = .reply (ownLd via) 0 [0] :: s.out ∧ u.fld (Reg.HTC_PHY_STS_PCG_TRAINED st) = 255 ∧ u.on (Reg.HTC_STS_READY st) = true ∧
    u.dram.stackHeld = s.dram.stackHeld.filter (fun h => h.1 != st.val) ∧ sameMemory s u) ∧
  (∀ (via : CmdPath) (ch : Fin 16) (x : Nat) (l : List (Nat × Nat)) (s : State), s.mgrPath via = true → s.mgmt.mgrBusy = false → plazaTakes s = true
    → (s.dcc ch).held = some l → s.fld Reg.RST_STS_PHASE ≠ 5 → ∃ u, exec (.commitTrainingSettings via (.channel ch) x true) s = .next (settled u) ∧
    u.out = .reply (ownLd via) 0 [0] :: s.out ∧ (u.dcc ch).held = none ∧ (u.dcc ch).applied = some x ∧ u.on (Reg.DCC_STS_TRAINING ch) = false ∧
    sameMemory s u) ∧
  (∀ (via : CmdPath) (ch : Fin 16) (x : Nat) (l : List (Nat × Nat)) (s : State), s.mgrPath via = true → s.mgmt.mgrBusy = false → plazaTakes s = true
    → (s.dcc ch).held = some l → s.fld Reg.RST_STS_PHASE ≠ 5 → s.slotState ch 0 ≠ 2 → s.slotState ch 1 ≠ 2 → ∃ u, exec (.commitTrainingSettings via
    (.channel ch) x false) s = .next (settled u) ∧ u.out = .reply (ownLd via) 0 [1] :: s.out ∧ (u.dcc ch).held = none ∧ (u.dcc ch).applied = none ∧
    u.on (Reg.DCC_STS_TRAINING ch) = false ∧ sameMemory s u) ∧
  (∀ (via : CmdPath) (ch : Fin 16) (x : Nat) (pass : Bool) (c : Instr) (s : State), s.mgrPath via = true → s.mgmt.mgrBusy = false → plazaTakes s =
    true → (s.dcc ch).held = none → [Instr.getTrainingResults via (.channel ch), .commitTrainingSettings via (.channel ch) x pass].contains c = true
    → ∃ u, exec (c) s = .next (settled u) ∧ u.out = .reply (ownLd via) 2 [] :: s.out ∧ u.dram = s.dram ∧ onlyRegs [Reg.MGT_CMD_CNT] s u) ∧
  (∀ (via : CmdPath) (mibs : BitVec 16) (s : State), s.mgrPath via = true → s.mgmt.mgrBusy = false → plazaTakes s = true → ∃ u, exec (.setRebuildRate
    via mibs) s = .next (settled u) ∧ u.out = .reply (ownLd via) 0 [] :: s.out ∧ u.fld Reg.DCM_REB_CFG_RATE_HOST = mibs.toNat ∧ u.fld
    Reg.DCM_REB_CFG_RATE_MIN = s.fld Reg.DCM_REB_CFG_RATE_MIN ∧ onlyRegs [Reg.MGT_CMD_CNT, Reg.DCM_REB_CFG] s u) ∧
  (∀ (id v : Nat) (s : State), plazaTakes s = true → s.sensor id = some v → ∃ u, exec (.pldmRequest (.sensor id)) s = .next (settled u) ∧ u.out =
    .reply none 0 (leBytes 4 v) :: s.out ∧ u.free = s.free + 1 ∧ onlyRegs [] s u) ∧
  (∀ (d : Option (Fin 32)) (s : State), plazaTakes s = true → ∃ u, exec (.pldmRequest (.fru d)) s = .next (settled u) ∧ u.out = .reply none 0 (s.fru
    d) :: s.out ∧ u.free = s.free ∧ onlyRegs [] s u) ∧
  (∀ (id : Nat) (s : State), plazaTakes s = true → s.sensor id = none → ∃ u, exec (.pldmRequest (.sensor id)) s = .next (settled u) ∧ u.out = .reply
    none 2 [] :: s.out ∧ u.free = s.free ∧ onlyRegs [] s u) ∧
  (∀ (k : Fin 16) (b : List Nat) (s : State), plazaTakes s = true → s.cdatBytes k = some b → ∃ u, exec (.pldmRequest (.cdat k)) s = .next (settled u)
    ∧ u.out = .reply none 0 b :: s.out ∧ onlyRegs [] s u) ∧
  (∀ (o : LinkOption) (x : DebugTarget) (r : PldmRequest) (s : State), plazaTakes s = true → [PldmRequest.advertised o, .debugAccess x,
    .measurements, .fmLdInfo, .fmLdAllocations, .fmQosControl].contains r = true → ∃ u, exec (.pldmRequest r) s = .next (settled u) ∧ u.out = .reply
    none (if r = .fmQosControl then 3 else 0) (if r = .advertised o then [(advertises o).toNat] else if r = .debugAccess x then [(s.debugOpen
    x).toNat] else if r = .measurements then [s.lifeCycle] else if r = .fmLdInfo then s.fmLdInfo else if r = .fmLdAllocations then s.fmLdAllocations
    else []) :: s.out ∧ u.free = s.free ∧ onlyRegs [] s u) ∧
  (∀ (via : CmdPath) (op : BitVec 16) (s : State), vendorOpcodes.contains op.toNat = false → ∃ u, exec (.pldmRequest (.vendorOpcode via op)) s =
    .next (settled u) ∧ u.out = .reply (ownLd via) 3 [] :: s.out ∧ u.fld Reg.MGT_CMD_CNT_REFUSED = satAdd Reg.MGT_CMD_CNT_REFUSED.w (s.fld
    Reg.MGT_CMD_CNT_REFUSED) 1 ∧ onlyRegs [Reg.MGT_CMD_CNT] s u) ∧
  (∀ (ld : Fin 16) (n : Nat) (s : State), plazaTakes s = true → 0 < n → s.offersAllowed < n → ∃ u, exec (.newCapacityRequest ld n) s = .next (settled
    u) ∧ u.out = .reply (some ld.val) 0x1D [] :: s.out ∧ (∀ k, (u.ld k).extents = (s.ld k).extents) ∧ onlyRegs [] s u) ∧
  ∀ (ld : Fin 16) (g : Nat) (s : State), plazaTakes s = true → 1 ≤ s.offersAllowed → (s.offerable ld).head? = some g → ∃ u, exec (.newCapacityRequest
    ld 1) s = .next (settled u) ∧ (∃ o, u.out = o ++ .reply (some ld.val) 0 [] :: s.out) ∧ (u.ld ld).extents = (s.ld ld).extents ++
    [{ gib := g, share := none }] ∧ sameMemory s u

/-- R440: Block Reset replies with the code of RST_CMD_STS and begins a Level 3 reset, or says why not. R441, R444, R217: Warm Reset begins a Level 4
  reset, Cold Reset and Secure Erase one of Level 5, and Sanitize also asks for the overwrite; the last two are unsupported by any other path and
  busy while a life-cycle change is in progress. R189: a root key with its check value is taken while the LD's window is open, which closes it; any
  other is refused and counted, and a session over DOE on a head that does not present the LD is no path. R213: an authorised change of state that
  Table 6.8 allows is written to the fuses. R471: firmware is described, transferred into the slot that does not run, and staged. R472: an online
  activation is refused while the standby core is unavailable, or busy; else it resets the core pair. R473: every other command then is busy. R474:
  it ends with the new firmware running, or goes back. Return codes are the model's (log entry 41). -/
def Obligations.ResetKeyAndFirmwareCommands : Prop :=
  (∀ (via : CmdPath) (dom : BitVec 8) (s : State), s.mgrPath via = true → s.mgmt.mgrBusy = false → plazaTakes s = true → resettable dom.toNat = true
    → s.rst.blocks = [] → s.domFenced dom.toNat = false → s.cond dom.toNat = .on → s.effLevel 8 = 3 → ∃ u, exec (.blockReset via dom) s = .next
    (settled u) ∧ u.out = .reply (ownLd via) 0 [0] :: s.out ∧ (u.rst.blocks.map fun b => (b.dom, b.src, b.released)) = [(dom.toNat, 8, false)] ∧
    u.fld Reg.RST_CMD_STS_CODE = 0 ∧ u.on Reg.RST_CMD_STS_BUSY = true) ∧
  (∀ (via : CmdPath) (dom : BitVec 8) (s : State), s.mgrPath via = true → s.mgmt.mgrBusy = false → plazaTakes s = true → resettable dom.toNat = true
    → (domStitchers dom.toNat).isEmpty = true → s.rst.blocks = [] → s.domFenced dom.toNat = false → s.cond dom.toNat = .on → s.effLevel 8 = 3 → ∃ u,
    exec (.blockReset via dom) s = .next (settled u) ∧ (u.rst.blocks.map fun b => (b.dom, b.src, b.released)) = [(dom.toNat, 8, false)] ∧ onlyRegs
    [Reg.MGT_CMD_CNT, Reg.RST_CMD_STS, Reg.RST_STS, Reg.RST_LOCAL, Reg.RST_HIST, Reg.RST_IDLE] s u) ∧
  (∀ (via : CmdPath) (dom : BitVec 8) (s : State), s.mgrPath via = true → s.mgmt.mgrBusy = false → plazaTakes s = true → resettable dom.toNat = false
    → ∃ u, exec (.blockReset via dom) s = .next (settled u) ∧ u.out = .reply (ownLd via) 2 [1] :: s.out ∧ u.rst.blocks = s.rst.blocks ∧ u.fld
    Reg.RST_CMD_STS_CODE = 1 ∧ onlyRegs [Reg.MGT_CMD_CNT, Reg.RST_CMD_STS] s u) ∧
  (∀ (via : CmdPath) (dom : BitVec 8) (s : State), s.mgrPath via = true → s.mgmt.mgrBusy = false → plazaTakes s = true → resettable dom.toNat = true
    → (s.rst.blocks.any fun b => b.dom == dom.toNat) = true → ∃ u, exec (.blockReset via dom) s = .next (settled u) ∧ u.out = .reply (ownLd via) 2
    [3] :: s.out ∧ u.rst.blocks = s.rst.blocks ∧ u.fld Reg.RST_CMD_STS_CODE = 3 ∧ onlyRegs [Reg.MGT_CMD_CNT, Reg.RST_CMD_STS] s u) ∧
  (∀ (via : CmdPath) (dom : BitVec 8) (s : State), s.mgrPath via = true → s.mgmt.mgrBusy = false → plazaTakes s = true → resettable dom.toNat = true
    → (s.rst.blocks.any fun b => b.dom == dom.toNat) = false → (s.domFenced dom.toNat || s.cond dom.toNat == .off) = true → ∃ u, exec (.blockReset
    via dom) s = .next (settled u) ∧ u.out = .reply (ownLd via) 2 [4] :: s.out ∧ u.rst.blocks = s.rst.blocks ∧ u.fld Reg.RST_CMD_STS_CODE = 4 ∧
    onlyRegs [Reg.MGT_CMD_CNT, Reg.RST_CMD_STS] s u) ∧
  (∀ (via : CmdPath) (dom : BitVec 8) (c : Instr) (s : State), [Instr.blockReset via dom, .warmReset via, .coldReset via].contains c = true →
    s.mgrPath via = false → ∃ u, exec (c) s = .next (settled u) ∧ u.out = .reply (ownLd via) 3 [] :: s.out ∧ u.rst = s.rst ∧ u.vault = s.vault ∧
    onlyRegs [Reg.MGT_CMD_CNT] s u) ∧
  (∀ (via : CmdPath) (s : State), s.mgrPath via = true → s.mgmt.mgrBusy = false → plazaTakes s = true → s.effLevel 0x0B = 4 → s.on Reg.RST_STS_HOLD =
    false → s.rst.pulse = none → s.fld Reg.RST_STS_LEVEL = 0 → ∃ u, exec (.warmReset via) s = .next (settled u) ∧ u.fld Reg.RST_STS_PHASE = 1 ∧ u.fld
    Reg.RST_STS_LEVEL = 4 ∧ u.fld Reg.RST_CAUSE_SRC = 0x0B ∧ u.fld Reg.RST_CAUSE_LEVEL = 4 ∧ u.on Reg.RST_STS_MEM_ACTIVE = false ∧ u.vault.roots =
    s.vault.roots ∧ u.flight = [] ∧ (u.out.contains (.reply (ownLd via) 0 [])) = true) ∧
  (∀ (via : CmdPath) (s : State), s.mgrPath via = true → s.mgmt.mgrBusy = false → plazaTakes s = true → s.effLevel 0x0D = 5 → s.on Reg.RST_STS_HOLD =
    false → s.rst.pulse = none → s.fld Reg.RST_STS_LEVEL = 0 → ∃ u, exec (.coldReset via) s = .next (settled u) ∧ u.fld Reg.RST_STS_PHASE = 1 ∧ u.fld
    Reg.RST_STS_LEVEL = 5 ∧ u.fld Reg.RST_CAUSE_SRC = 0x0D ∧ u.vault = {} ∧ u.hot.lines = [] ∧ u.cold.stitches = s.cold.stitches ∧ (u.out.contains
    (.reply (ownLd via) 0 [])) = true) ∧
  (∀ (via : CmdPath) (s : State), s.erasePath via = true → plazaTakes s = true → s.lcChanging = false → s.effLevel 0x0E = 5 → s.on Reg.RST_STS_HOLD =
    false → s.rst.pulse = none → s.fld Reg.RST_STS_LEVEL = 0 → ∃ u, exec (.secureErase via) s = .next (settled u) ∧ u.fld Reg.RST_STS_PHASE = 1 ∧
    u.fld Reg.RST_STS_LEVEL = 5 ∧ u.fld Reg.RST_CAUSE_SRC = 0x0E ∧ u.vault = {} ∧ u.hot.lines = [] ∧ u.cold.stitches = s.cold.stitches ∧
    u.rst.overwrite = s.rst.overwrite ∧ (u.out.contains (.reply (ownLd via) 0 [])) = true) ∧
  (∀ (via : CmdPath) (s : State), s.erasePath via = true → plazaTakes s = true → s.lcChanging = false → s.effLevel 0x0E = 5 → s.on Reg.RST_STS_HOLD =
    false → s.rst.pulse = none → s.fld Reg.RST_STS_LEVEL = 0 → ∃ u, exec (.sanitize via) s = .next (settled u) ∧ u.fld Reg.RST_STS_PHASE = 1 ∧ u.fld
    Reg.RST_STS_LEVEL = 5 ∧ u.fld Reg.RST_CAUSE_SRC = 0x0E ∧ u.vault = {} ∧ u.hot.lines = [] ∧ u.cold.stitches = s.cold.stitches ∧ u.rst.overwrite =
    true ∧ u.on Reg.CRY_STS_WIPING = true ∧ (u.out.contains (.reply (ownLd via) 0 [])) = true) ∧
  (∀ (via : CmdPath) (c : Instr) (s : State), [Instr.secureErase via, .sanitize via].contains c = true → s.erasePath via = false → ∃ u, exec (c) s =
    .next (settled u) ∧ u.out = .reply (ownLd via) 3 [] :: s.out ∧ u.rst = s.rst ∧ u.vault = s.vault ∧ onlyRegs [] s u) ∧
  (∀ (via : CmdPath) (c : Instr) (s : State), [Instr.secureErase via, .sanitize via].contains c = true → s.erasePath via = true → plazaTakes s = true
    → s.lcChanging = true → ∃ u, exec (c) s = .next (settled u) ∧ u.out = .reply (ownLd via) 6 [] :: s.out ∧ u.rst = s.rst ∧ u.vault = s.vault ∧
    onlyRegs [] s u) ∧
  (∀ (via : CmdPath) (ld : BitVec 8) (key : BitVec 256) (check : BitVec 32) (s : State), spdmPath via = true → s.injectPath ld.toNat via = true →
    plazaTakes s = true → ld.toNat < 16 → s.windowOpen ld.toNat = true → s.lifeCycle ≠ 3 → keyCheck key = check.toNat → ∃ u, exec (.injectRootKey via
    ld 0 key check) s = .next (settled u) ∧ u.out.head? = some (.reply none 0 []) ∧ SMap.get none u.vault.roots ld.toNat = some key ∧ (∀ k, k ≠
    ld.toNat → SMap.get none u.vault.roots k = SMap.get none s.vault.roots k) ∧ u.windowOpen ld.toNat = false ∧ u.fld Reg.CRY_KEY_SRC_SRC / 4 ^
    ld.toNat % 4 = 2 ∧ sameMemory s u) ∧
  (∀ (via : CmdPath) (ld : BitVec 8) (key : BitVec 256) (check : BitVec 32) (s : State), spdmPath via = true → s.injectPath ld.toNat via = true →
    plazaTakes s = true → ld.toNat < 16 → (s.windowOpen ld.toNat = false ∨ s.lifeCycle = 3 ∨ keyCheck key ≠ check.toNat) → ∃ u, exec (.injectRootKey
    via ld 0 key check) s = .next (settled u) ∧ u.out = .reply none 2 [] :: s.out ∧ u.fld Reg.CRY_INJ_REFUSED = satAdd Reg.CRY_INJ_REFUSED.w (s.fld
    Reg.CRY_INJ_REFUSED) 1 ∧ u.vault = s.vault ∧ onlyRegs [Reg.MGT_CMD_CNT, Reg.CRY_INJ] s u) ∧
  (∀ (via : CmdPath) (ld : BitVec 8) (rsvd : BitVec 24) (key : BitVec 256) (check : BitVec 32) (s : State), spdmPath via = true → plazaTakes s = true
    → (16 ≤ ld.toNat ∨ (s.injectPath ld.toNat via = true ∧ rsvd ≠ 0)) → ∃ u, exec (.injectRootKey via ld rsvd key check) s = .next (settled u) ∧
    u.out = .reply none 2 [] :: s.out ∧ u.vault = s.vault ∧ onlyRegs [Reg.MGT_CMD_CNT] s u) ∧
  (∀ (via : CmdPath) (ld : BitVec 8) (rsvd : BitVec 24) (key : BitVec 256) (check : BitVec 32) (s : State), ld.toNat < 16 → s.injectPath ld.toNat via
    = false → ∃ u, exec (.injectRootKey via ld rsvd key check) s = .next (settled u) ∧ u.out = .reply (ownLd via) 3 [] :: s.out ∧ u.vault = s.vault ∧
    onlyRegs [Reg.MGT_CMD_CNT] s u) ∧
  (∀ (via : CmdPath) (target : LifeCycle) (s : State), spdmPath via = true → plazaTakes s = true → lcAllowed s.lifeCycle (lcCode target) = true →
    s.flashFree = true → ∃ u, exec (.setLifeCycleState via target true) s = .next (settled u) ∧ u.out = .reply none 0 [] :: s.out ∧ u.flash.job =
    some (.lifeCycle target) ∧ u.lcChanging = true ∧ u.fuses = s.fuses ∧ onlyRegs [Reg.MGT_CMD_CNT] s u) ∧
  (∀ (via : CmdPath) (target : LifeCycle) (auth : Bool) (s : State), spdmPath via = true → plazaTakes s = true → auth = false ∨ lcAllowed s.lifeCycle
    (lcCode target) = false → ∃ u, exec (.setLifeCycleState via target auth) s = .next (settled u) ∧ u.out = .reply none 2 [] :: s.out ∧ u.flash =
    s.flash ∧ u.fuses = s.fuses ∧ onlyRegs [Reg.MGT_CMD_CNT] s u) ∧
  (∀ (via : CmdPath) (target : LifeCycle) (auth : Bool) (s : State), spdmPath via = false → ∃ u, exec (.setLifeCycleState via target auth) s = .next
    (settled u) ∧ u.out = .reply (ownLd via) 3 [] :: s.out ∧ u.flash = s.flash ∧ u.fuses = s.fuses ∧ onlyRegs [Reg.MGT_CMD_CNT] s u) ∧
  (∀ (via : CmdPath) (s : State), cxlPath via = true → plazaTakes s = true → ∃ u, exec (.getFwInfo via) s = .next (settled u) ∧ (∃ p, u.out = .reply
    (ownLd via) 0 p :: s.out ∧ p.take 3 = [2, s.flash.runSlot + 8 * s.flash.staged, 1] ∧ p.length = 80) ∧ u.flash = s.flash ∧ onlyRegs [] s u) ∧
  (∀ (via : CmdPath) (s : State), cxlPath via = true → plazaTakes s = true → s.flashFree = true → s.mgmt.fwTransfer = none → ∃ u, exec (.transferFw
    via .initiate) s = .next (settled u) ∧ u.flash.job = some (.erase true (3 - s.flash.runSlot)) ∧ u.mgmt.mgrBusy = true ∧ u.flash.fw = s.flash.fw ∧
    u.out = s.out ∧ onlyRegs [] s u) ∧
  (∀ (via : CmdPath) (n b : Nat) (s : State), cxlPath via = true → plazaTakes s = true → s.flashFree = true → s.mgmt.fwTransfer = some b → 0 < n → ∃
    u, exec (.transferFw via (.more n)) s = .next (settled u) ∧ u.flash.job = some (.chunk true n) ∧ u.mgmt.mgrBusy = true ∧ u.flash.fw = s.flash.fw
    ∧ u.out = s.out ∧ onlyRegs [] s u) ∧
  (∀ (via : CmdPath) (img : FwImage) (b : Nat) (s : State), cxlPath via = true → plazaTakes s = true → s.flashFree = true → s.mgmt.fwTransfer = some
    b → ∃ u, exec (.transferFw via (.finish img)) s = .next (settled u) ∧ u.flash.job = some (.firmware (3 - s.flash.runSlot) img) ∧ u.mgmt.mgrBusy =
    true ∧ u.flash.fw = s.flash.fw ∧ u.out = s.out ∧ onlyRegs [] s u) ∧
  (∀ (via : CmdPath) (b : Nat) (s : State), cxlPath via = true → plazaTakes s = true → s.mgmt.fwTransfer = some b → ∃ u, exec (.transferFw via
    .abort) s = .next (settled u) ∧ u.out = .reply (ownLd via) 0 [] :: s.out ∧ u.mgmt.fwTransfer = none ∧ u.flash = s.flash ∧ onlyRegs [] s u) ∧
  (∀ (via : CmdPath) (a : Transfer FwImage) (s : State), cxlPath via = true → plazaTakes s = true → a ≠ .initiate → s.mgmt.fwTransfer = none → ∃ u,
    exec (.transferFw via a) s = .next (settled u) ∧ u.out = .reply (ownLd via) rcFwOutOfOrder [] :: s.out ∧ u.flash = s.flash ∧ onlyRegs [] s u) ∧
  (∀ (via : CmdPath) (b : Nat) (s : State), cxlPath via = true → plazaTakes s = true → s.mgmt.fwTransfer = some b → ∃ u, exec (.transferFw via
    .initiate) s = .next (settled u) ∧ u.out = .reply (ownLd via) rcFwInProgress [] :: s.out ∧ u.flash = s.flash ∧ onlyRegs [] s u) ∧
  (∀ (via : CmdPath) (slot : Fin 4) (img : FwImage) (s : State), cxlPath via = true → plazaTakes s = true → slot.val = 1 ∨ slot.val = 2 → s.fwImage
    slot = some img → ∃ u, exec (.activateFw via slot false) s = .next (settled u) ∧ u.out = .reply (ownLd via) 0 [] :: s.out ∧ u.flash.staged =
    slot.val ∧ u.fld Reg.MGT_FW_STAGED = slot.val ∧ u.flash.runSlot = s.flash.runSlot ∧ onlyRegs [Reg.MGT_FW] s u) ∧
  (∀ (via : CmdPath) (slot : Fin 4) (online : Bool) (s : State), cxlPath via = true → plazaTakes s = true → ((slot.val ≠ 1 ∧ slot.val ≠ 2) ∨
    s.fwImage slot = none) → ∃ u, exec (.activateFw via slot online) s = .next (settled u) ∧ u.out = .reply (ownLd via) rcFwInvalidSlot [] :: s.out ∧
    u.flash = s.flash ∧ u.mgmt.act = s.mgmt.act ∧ onlyRegs [] s u) ∧
  (∀ (via : CmdPath) (slot : Fin 4) (img : FwImage) (s : State), cxlPath via = true → plazaTakes s = true → slot.val = 1 ∨ slot.val = 2 → s.fwImage
    slot = some img → (!s.on Reg.MGT_STS_STANDBY_OK || s.isFenced (.domain 131) || s.on Reg.MGT_STS_CORE) = true → ∃ u, exec (.activateFw via slot
    true) s = .next (settled u) ∧ u.out = .reply (ownLd via) 3 [] :: s.out ∧ u.flash = s.flash ∧ u.mgmt.act = s.mgmt.act ∧ onlyRegs [Reg.MGT_CMD_CNT]
    s u) ∧
  (∀ (via : CmdPath) (slot : Fin 4) (img : FwImage) (s : State), cxlPath via = true → plazaTakes s = true → slot.val = 1 ∨ slot.val = 2 → s.fwImage
    slot = some img → s.on Reg.MGT_STS_STANDBY_OK = true → s.isFenced (.domain 131) = false → s.on Reg.MGT_STS_CORE = false → (s.hostAwaited ||
    (List.range 8).any s.switching || s.mgmt.mgrBusy) = true → ∃ u, exec (.activateFw via slot true) s = .next (settled u) ∧ u.out = .reply (ownLd
    via) 6 [] :: s.out ∧ u.flash = s.flash ∧ u.mgmt.act = s.mgmt.act ∧ onlyRegs [Reg.MGT_CMD_CNT] s u) ∧
  (∀ (via : CmdPath) (slot : Fin 4) (img : FwImage) (s : State), cxlPath via = true → plazaTakes s = true → slot.val = 1 ∨ slot.val = 2 → s.fwImage
    slot = some img → s.on Reg.MGT_STS_STANDBY_OK = true → s.isFenced (.domain 131) = false → s.on Reg.MGT_STS_CORE = false → s.hostAwaited = false →
    ((List.range 8).any s.switching) = false → s.mgmt.mgrBusy = false → s.rst.blocks = [] → s.effLevel 0x0A = 3 → ∃ u, exec (.activateFw via slot
    true) s = .next (settled u) ∧ u.mgmt.act = some (slot.val, s.clk) ∧ u.on Reg.MGT_STS_ACTIVATING = true ∧ u.on Reg.MGT_STS_RESIDENT = true ∧
    u.cond 131 = .on ∧ (u.rst.blocks.map fun b => (b.dom, b.src)) = [(130, 0x0A)] ∧ u.out = s.out ∧ u.flash = s.flash ∧ sameMemory s u) ∧
  (∀ (via : CmdPath) (c : Instr) (dom : BitVec 8) (slot : Fin 4) (online : Bool) (a : Transfer FwImage) (s : State), [Instr.blockReset via dom,
    .warmReset via, .coldReset via, .transferFw via a, .activateFw via slot online].contains c = true → s.mgrPath via = true → s.fwBusy = true → ∃ u,
    exec (c) s = .next (settled u) ∧ u.out = .reply (ownLd via) 6 [] :: s.out ∧ u.rst = s.rst ∧ u.flash = s.flash ∧ u.mgmt = s.mgmt ∧ onlyRegs
    [Reg.MGT_CMD_CNT] s u) ∧
  (∀ (slot t0 : Nat) (img : FwImage) (via : CmdPath) (s : State), s.mgmt.act = some (slot, t0) → s.mgmt.actVia = some via → s.fwImage slot = some img
    → (s.rst.blocks.any fun b => b.dom == 130) = false → s.isFenced .plazaPair = false → s.on Reg.MGT_STS_FW_RUN = false → s.fld Reg.RST_STS_PHASE =
    0 → ∃ u, exec (.fwActivationHandover) s = .next (settled u) ∧ u.flash.runSlot = slot ∧ u.on Reg.MGT_STS_FW_RUN = true ∧ u.on
    Reg.MGT_STS_ACTIVATING = false ∧ u.on Reg.MGT_STS_RESIDENT = false ∧ u.mgmt.act = none ∧ u.fld Reg.MGT_FW_VER_VERSION = img.version % 2 ^ 32 ∧
    u.out.head? = some (.reply (ownLd via) 0 []) ∧ sameMemory s u) ∧
  (∀ (failed : Bool) (slot t0 : Nat) (via : CmdPath) (s : State), s.mgmt.act = some (slot, t0) → s.mgmt.actVia = some via → s.fld Reg.RST_STS_PHASE =
    0 → ∃ u, exec (.fwActivationTimeout failed) s = .next (settled u) ∧ u.flash.runSlot = s.flash.runSlot ∧ u.on Reg.MGT_STS_ACTIVATING = false ∧
    u.on Reg.MGT_STS_RESIDENT = false ∧ u.mgmt.act = none ∧ u.on Reg.MGT_ACT_TIME_ROLLED_BACK = true ∧ (failed = false → t0 + 500 * ms ≤ u.clk) ∧
    u.out.head? = some (.reply (ownLd via) 0x0C []) ∧ sameMemory s u) ∧
  ∀ (c : Instr) (failed : Bool) (s : State), [Instr.fwActivationHandover, .fwActivationTimeout failed].contains c = true → s.mgmt.act = none → exec
    (c) s = .next (s)
end

