-- ==== Sys2Proof/Laws/Mem.lean ====
section
/-! SUPPORT. The laws of sparse stores: a read after a write, other keys untouched, and the canonical form kept by every operation. -/
namespace Sys2Proof

variable {α : Type}

@[simp] theorem SMap.get_nil (d : α) (x : Nat) : SMap.get d [] x = d := rfl

theorem SMap.get_insert_same (d : α) (m : SMap α) (x : Nat) (v : α) (h : ∀ e ∈ m, e.1 ≠ x) : SMap.get d (SMap.insert m x v) x = v := by
  induction m with
  | nil => simp [SMap.insert, SMap.get]
  | cons e m ih =>
    obtain ⟨k, w⟩ := e
    have hk : x ≠ k := fun hx => h (k, w) (by simp) hx.symm
    have ht : ∀ e ∈ m, e.1 ≠ x := fun e he => h e (by simp [he])
    by_cases hlt : x < k
    · simp [SMap.insert, SMap.get, hlt]
    · simp [SMap.insert, SMap.get, hlt, hk, ih ht]

theorem SMap.get_insert_ne (d : α) (m : SMap α) {x y : Nat} (v : α) (h : y ≠ x) : SMap.get d (SMap.insert m x v) y = SMap.get d m y := by
  induction m with
  | nil => simp [SMap.insert, SMap.get, h]
  | cons e m ih =>
    obtain ⟨k, w⟩ := e
    by_cases hlt : x < k
    · simp [SMap.insert, SMap.get, hlt, h]
    · simp [SMap.insert, SMap.get, hlt, ih]

theorem SMap.get_filter_same (d : α) (m : SMap α) (x : Nat) : SMap.get d (m.filter fun e => e.1 != x) x = d := by
  induction m with
  | nil => rfl
  | cons e m ih =>
    obtain ⟨k, w⟩ := e
    by_cases hk : k = x
    · simpa [hk] using ih
    · simp [hk, SMap.get, Ne.symm hk, ih]

theorem SMap.get_filter_ne (d : α) (m : SMap α) {x y : Nat} (h : y ≠ x) : SMap.get d (m.filter fun e => e.1 != x) y = SMap.get d m y := by
  induction m with
  | nil => rfl
  | cons e m ih =>
    obtain ⟨k, w⟩ := e
    by_cases hk : k = x
    · subst hk; simp [SMap.get, h, ih]
    · simp [hk, SMap.get, ih]

/-- A read after a write to the same key gives the value written. -/
@[simp] theorem SMap.get_put_same [DecidableEq α] (d : α) (m : SMap α) (x : Nat) (v : α) : SMap.get d (SMap.put d m x v) x = v := by
  by_cases hv : v = d
  · simp [SMap.put, hv, SMap.get_filter_same]
  · rw [SMap.put]
    simp only [hv, if_false]
    exact SMap.get_insert_same d _ x v (by intro e he; simpa using (List.mem_filter.mp he).2)

/-- A write leaves every other key alone. -/
theorem SMap.get_put_ne [DecidableEq α] (c d : α) (m : SMap α) {x y : Nat} (v : α) (h : y ≠ x) : SMap.get c (SMap.put d m x v) y = SMap.get c m y := by
  by_cases hv : v = d
  · simp [SMap.put, hv, SMap.get_filter_ne c m h]
  · simp [SMap.put, hv, SMap.get_insert_ne c _ v h, SMap.get_filter_ne c m h]

@[simp] theorem SMap.get_upd_same [DecidableEq α] (d : α) (m : SMap α) (x : Nat) (f : α → α) : SMap.get d (SMap.upd d m x f) x = f (SMap.get d m x) := by
  simp [SMap.upd]

theorem SMap.get_upd_ne [DecidableEq α] (c d : α) (m : SMap α) {x y : Nat} (f : α → α) (h : y ≠ x) : SMap.get c (SMap.upd d m x f) y = SMap.get c m y := by
  simp [SMap.upd, SMap.get_put_ne c d m _ h]

/-! ### The canonical form -/

theorem SMap.risingFrom_mono {lo lo' : Nat} {m : SMap α} (h : SMap.risingFrom lo m = true) (hl : lo' ≤ lo) : SMap.risingFrom lo' m = true := by
  cases m with
  | nil => rfl
  | cons e m =>
    obtain ⟨k, w⟩ := e
    simp only [SMap.risingFrom, Bool.and_eq_true, decide_eq_true_eq] at h ⊢
    exact ⟨by omega, h.2⟩

theorem SMap.risingFrom_filter {lo : Nat} {m : SMap α} (p : Nat × α → Bool) (h : SMap.risingFrom lo m = true) : SMap.risingFrom lo (m.filter p) = true := by
  induction m generalizing lo with
  | nil => rfl
  | cons e m ih =>
    obtain ⟨k, w⟩ := e
    simp only [SMap.risingFrom, Bool.and_eq_true, decide_eq_true_eq] at h
    rw [List.filter_cons]
    split
    · simp only [SMap.risingFrom, Bool.and_eq_true, decide_eq_true_eq]
      exact ⟨h.1, ih h.2⟩
    · exact SMap.risingFrom_mono (ih h.2) (by omega)

theorem SMap.risingFrom_insert {lo x : Nat} {m : SMap α} (v : α) (h : SMap.risingFrom lo m = true) (hx : lo ≤ x) (hn : ∀ e ∈ m, e.1 ≠ x) :
    SMap.risingFrom lo (SMap.insert m x v) = true := by
  induction m generalizing lo with
  | nil => simp [SMap.insert, SMap.risingFrom, hx]
  | cons e m ih =>
    obtain ⟨k, w⟩ := e
    have hk : k ≠ x := hn (k, w) (by simp)
    simp only [SMap.risingFrom, Bool.and_eq_true, decide_eq_true_eq] at h
    rw [SMap.insert]
    split
    · simp only [SMap.risingFrom, Bool.and_eq_true, decide_eq_true_eq]
      exact ⟨hx, by omega, h.2⟩
    · simp only [SMap.risingFrom, Bool.and_eq_true, decide_eq_true_eq]
      exact ⟨h.1, ih h.2 (by omega) (fun e he => hn e (by simp [he]))⟩

theorem SMap.mem_insert {m : SMap α} {x : Nat} {v : α} {e : Nat × α} (h : e ∈ SMap.insert m x v) : e = (x, v) ∨ e ∈ m := by
  induction m with
  | nil => simpa [SMap.insert] using h
  | cons a m ih =>
    obtain ⟨k, w⟩ := a
    rw [SMap.insert] at h
    split at h
    · simpa using h
    · rcases List.mem_cons.mp h with h | h
      · exact Or.inr (by simp [h])
      · rcases ih h with h | h
        · exact Or.inl h
        · exact Or.inr (by simp [h])

/-- Writing a key keeps the canonical form. -/
theorem SMap.put_wf [DecidableEq α] {d : Nat → α} {m : SMap α} (x : Nat) (v : α) (h : SMap.wf d m = true) : SMap.wf d (SMap.put (d x) m x v) = true := by
  simp only [SMap.wf, Bool.and_eq_true, List.all_eq_true, decide_eq_true_eq] at h ⊢
  have hf : SMap.risingFrom 0 (m.filter fun e => e.1 != x) = true := SMap.risingFrom_filter _ h.1
  rw [SMap.put]
  by_cases hv : v = d x
  · simp only [hv, if_true]
    exact ⟨hf, fun e he => h.2 e (List.mem_filter.mp he).1⟩
  · simp only [hv, if_false]
    refine ⟨SMap.risingFrom_insert v hf (Nat.zero_le x) (fun e he => by simpa using (List.mem_filter.mp he).2), fun e he => ?_⟩
    rcases SMap.mem_insert he with he | he
    · subst he; exact hv
    · exact h.2 e (List.mem_filter.mp he).1

/-- Unlisting keys keeps the canonical form. -/
theorem SMap.keep_wf [DecidableEq α] {d : Nat → α} {m : SMap α} (p : Nat → Bool) (h : SMap.wf d m = true) : SMap.wf d (SMap.keep p m) = true := by
  simp only [SMap.wf, Bool.and_eq_true, List.all_eq_true, decide_eq_true_eq] at h ⊢
  exact ⟨SMap.risingFrom_filter _ h.1, fun e he => h.2 e (List.mem_filter.mp he).1⟩

theorem SMap.risingFrom_mapAll [DecidableEq α] (d : Nat → α) (f : Nat → α → α) {lo : Nat} {m : SMap α} (h : SMap.risingFrom lo m = true) :
    SMap.risingFrom lo (SMap.mapAll d f m) = true := by
  induction m generalizing lo with
  | nil => rfl
  | cons e m ih =>
    obtain ⟨k, w⟩ := e
    simp only [SMap.risingFrom, Bool.and_eq_true, decide_eq_true_eq] at h
    rw [SMap.mapAll]
    split
    · exact SMap.risingFrom_mono (ih h.2) (by omega)
    · simp only [SMap.risingFrom, Bool.and_eq_true, decide_eq_true_eq]
      exact ⟨h.1, ih h.2⟩

/-- Changing every entry keeps the canonical form. -/
theorem SMap.mapAll_wf [DecidableEq α] {d : Nat → α} {m : SMap α} (f : Nat → α → α) (h : SMap.wf d m = true) : SMap.wf d (SMap.mapAll d f m) = true := by
  simp only [SMap.wf, Bool.and_eq_true] at h ⊢
  refine ⟨SMap.risingFrom_mapAll d f h.1, ?_⟩
  induction m with
  | nil => rfl
  | cons e m ih =>
    obtain ⟨k, w⟩ := e
    have hm : SMap.risingFrom 0 m = true := by
      have := h.1; simp only [SMap.risingFrom, Bool.and_eq_true, decide_eq_true_eq] at this
      exact SMap.risingFrom_mono this.2 (Nat.zero_le _)
    have ht := ih ⟨hm, by have := h.2; simp only [List.all_cons, Bool.and_eq_true] at this; exact this.2⟩
    rw [SMap.mapAll]
    split
    · exact ht
    · rename_i hne
      simp only [List.all_cons, Bool.and_eq_true, decide_eq_true_eq]
      exact ⟨hne, ht⟩

end Sys2Proof
end

