-- ==== Sys2Proof/Laws/Kept.lean ====
section
/-! SUPPORT. What every operation of the model keeps: the queue of commands, and the canonical form of the addressed stores. -/
namespace Sys2Proof.Machine

open Sys2Proof

/-- What is to be kept: the queue of commands, and, where `canon` holds, the canonical form of the stores. -/
structure Keep where
  queue : List Instr
  canon : Prop

/-- The registers, the lines of the stacks and the stitches of the DIMMs in canonical form. -/
structure RegsWf (qs : Keep) (m : SMap Word) : Prop where
  wf : qs.canon → SMap.wf Reg.resetOf m = true
structure LinesWf (qs : Keep) (m : SMap Line) : Prop where
  wf : qs.canon → SMap.wf (fun _ => (0 : Line)) m = true
structure StitchesWf (qs : Keep) (m : SMap Stitch) : Prop where
  wf : qs.canon → SMap.wf (fun _ => (0 : Stitch)) m = true

/-- `s` holds what `qs` says is to be kept. -/
structure Kept (qs : Keep) (s : State) : Prop where
  pending : s.pending = qs.queue
  regs : RegsWf qs s.regs
  lines : LinesWf qs s.hot.lines
  stitches : StitchesWf qs s.cold.stitches

/-- The outcome is a next state that keeps them. -/
def Answers (qs : Keep) (r : Host.Outcome State Fault Refusal) : Prop := ∃ t, r = .next t ∧ Kept qs t

/-- What an engine's access leaves keeps them. -/
structure KeptAccess (qs : Keep) (a : Access) : Prop where
  got : ∀ v b y t, a = .got v b y t → Kept qs t
  wait : ∀ y t, a = .wait y t → Kept qs t

/-- The state that `o` holds, if any, keeps them; the same for a state beside a value. -/
structure KeptOpt (qs : Keep) (o : Option State) : Prop where
  all : ∀ t, o = some t → Kept qs t
structure KeptOptP {α : Type} (qs : Keep) (o : Option (α × State)) : Prop where
  all : ∀ p, o = some p → Kept qs p.2

variable {qs : Keep} {α β γ : Type}

theorem Kept.queue (s : State) : Kept ⟨s.pending, False⟩ s := ⟨rfl, ⟨False.elim⟩, ⟨False.elim⟩, ⟨False.elim⟩⟩

theorem Canonical.kept {s : State} (h : Canonical s) : Kept ⟨s.pending, True⟩ s := by
  simp only [Canonical, Memory.wf, Bool.and_eq_true] at h
  exact ⟨rfl, ⟨fun _ => h.1.1⟩, ⟨fun _ => h.1.2⟩, ⟨fun _ => h.2⟩⟩

theorem Kept.canonical {s : State} (h : Kept qs s) (hc : qs.canon) : Canonical s := by
  obtain ⟨-, h1, h2, h3⟩ := h
  simp only [Canonical, Memory.wf, h1.wf hc, h2.wf hc, h3.wf hc, Bool.and_self]

theorem Kept.cut {P : Prop} (t : State) (h : Kept qs t) (k : Kept qs t → P) : P := k h

theorem Kept.of_parts {s : State} (h1 : s.pending = qs.queue) (h2 : RegsWf qs s.regs)
    (h3 : LinesWf qs s.hot.lines) (h4 : StitchesWf qs s.cold.stitches) : Kept qs s := ⟨h1, h2, h3, h4⟩

theorem Kept.same {s t : State} (h : Kept qs s) (h1 : t.pending = s.pending) (h2 : t.regs = s.regs) (h3 : t.hot.lines = s.hot.lines)
    (h4 : t.cold.stitches = s.cold.stitches) : Kept qs t := ⟨h1.trans h.pending, h2 ▸ h.regs, h3 ▸ h.lines, h4 ▸ h.stitches⟩

theorem Answers.next {t : State} (h : Kept qs t) : Answers qs (.next t) := ⟨t, rfl, h⟩

theorem RegsWf.put {m : SMap Word} (x : Nat) (v : Word) (h : RegsWf qs m) : RegsWf qs (SMap.put (Reg.resetOf x) m x v) := ⟨fun c => SMap.put_wf x v (h.wf c)⟩
theorem LinesWf.put {m : SMap Line} (x : Nat) (v : Line) (h : LinesWf qs m) : LinesWf qs (SMap.put 0 m x v) :=
  ⟨fun c => SMap.put_wf (d := fun _ => 0) x v (h.wf c)⟩
theorem StitchesWf.put {m : SMap Stitch} (x : Nat) (v : Stitch) (h : StitchesWf qs m) : StitchesWf qs (SMap.put 0 m x v) :=
  ⟨fun c => SMap.put_wf (d := fun _ => 0) x v (h.wf c)⟩
theorem StitchesWf.upd {m : SMap Stitch} (x : Nat) (f : Stitch → Stitch) (h : StitchesWf qs m) : StitchesWf qs (SMap.upd 0 m x f) := h.put x _
theorem RegsWf.keep {m : SMap Word} (p : Nat → Bool) (h : RegsWf qs m) : RegsWf qs (SMap.keep p m) := ⟨fun c => SMap.keep_wf p (h.wf c)⟩
theorem LinesWf.keep {m : SMap Line} (p : Nat → Bool) (h : LinesWf qs m) : LinesWf qs (SMap.keep p m) := ⟨fun c => SMap.keep_wf p (h.wf c)⟩
theorem StitchesWf.keep {m : SMap Stitch} (p : Nat → Bool) (h : StitchesWf qs m) : StitchesWf qs (SMap.keep p m) := ⟨fun c => SMap.keep_wf p (h.wf c)⟩
theorem RegsWf.mapAll {m : SMap Word} (f : Nat → Word → Word) (h : RegsWf qs m) : RegsWf qs (SMap.mapAll Reg.resetOf f m) :=
  ⟨fun c => SMap.mapAll_wf f (h.wf c)⟩
theorem LinesWf.nil : LinesWf qs [] := ⟨fun _ => rfl⟩
theorem StitchesWf.nil : StitchesWf qs [] := ⟨fun _ => rfl⟩

theorem KeptOpt.of_none : KeptOpt qs none := ⟨fun _ h => nomatch h⟩
theorem KeptOpt.of_some {t : State} (h : Kept qs t) : KeptOpt qs (some t) := ⟨fun _ e => by cases e; exact h⟩
theorem KeptOpt.of_eq {o : Option State} {t : State} (e : o = some t) (h : KeptOpt qs o) : Kept qs t := h.all t e
theorem KeptOptP.of_none : KeptOptP (α := α) qs none := ⟨fun _ h => nomatch h⟩
theorem KeptOptP.of_some {p : α × State} (h : Kept qs p.2) : KeptOptP qs (some p) := ⟨fun _ e => by cases e; exact h⟩
theorem KeptOptP.of_eq {o : Option (α × State)} {a : α} {t : State} (e : o = some (a, t)) (h : KeptOptP qs o) : Kept qs t := h.all _ e
theorem KeptOptP.of_eq' {o : Option (α × State)} {p : α × State} (e : o = some p) (h : KeptOptP qs o) : Kept qs p.2 := h.all _ e

theorem KeptOpt.ite {c : Prop} [Decidable c] {a b : Option State} (ha : KeptOpt qs a) (hb : KeptOpt qs b) : KeptOpt qs (if c then a else b) := by
  split <;> assumption
theorem KeptOpt.bind {o : Option State} {f : State → Option State} (hf : ∀ t, Kept qs t → KeptOpt qs (f t)) (h : KeptOpt qs o) : KeptOpt qs (o.bind f) := by
  cases o with
  | none => exact KeptOpt.of_none
  | some t => exact hf t (h.all t rfl)
theorem KeptOpt.map {o : Option State} {f : State → State} (hf : ∀ t, Kept qs t → Kept qs (f t)) (h : KeptOpt qs o) : KeptOpt qs (o.map f) := by
  cases o with
  | none => exact KeptOpt.of_none
  | some t => exact KeptOpt.of_some (hf t (h.all t rfl))
theorem KeptOpt.map_of {o : Option α} {f : α → State} (hf : ∀ a, Kept qs (f a)) : KeptOpt qs (o.map f) := by
  cases o with
  | none => exact KeptOpt.of_none
  | some a => exact KeptOpt.of_some (hf a)
theorem KeptOptP.map {o : Option State} {f : State → α × State} (hf : ∀ t, Kept qs t → Kept qs (f t).2) (h : KeptOpt qs o) : KeptOptP qs (o.map f) := by
  cases o with
  | none => exact KeptOptP.of_none
  | some t => exact KeptOptP.of_some (hf t (h.all t rfl))
theorem KeptOpt.getD {o : Option State} {s : State} (h : KeptOpt qs o) (hs : Kept qs s) : Kept qs (o.getD s) := by
  cases o with
  | none => exact hs
  | some t => exact h.all t rfl
theorem KeptAccess.of_got {v : Line} {b : Bool} {y : Running} {t : State} (h : Kept qs t) : KeptAccess qs (.got v b y t) :=
  ⟨fun _ _ _ _ e => by cases e; exact h, fun _ _ e => nomatch e⟩
theorem KeptAccess.of_wait {y : Running} {t : State} (h : Kept qs t) : KeptAccess qs (.wait y t) :=
  ⟨fun _ _ _ _ e => (nomatch e), fun _ _ e => by cases e; exact h⟩
theorem KeptAccess.of_stop {c : Nat} : KeptAccess qs (.stop c) := ⟨fun _ _ _ _ e => (nomatch e), fun _ _ e => nomatch e⟩
theorem KeptAccess.of_eq_got {a : Access} {v : Line} {b : Bool} {y : Running} {t : State} (e : a = .got v b y t) (h : KeptAccess qs a) : Kept qs t :=
  h.got _ _ _ _ e
theorem KeptAccess.of_eq_wait {a : Access} {y : Running} {t : State} (e : a = .wait y t) (h : KeptAccess qs a) : Kept qs t := h.wait _ _ e
theorem Kept.of_pair {p : α × State} {a : α} {t : State} (e : p = (a, t)) (h : Kept qs p.2) : Kept qs t := by subst e; exact h
theorem Kept.of_triple {p : α × State × β} {a : α} {b : β} {t : State} (e : p = (a, t, b)) (h : Kept qs p.2.1) : Kept qs t := by subst e; exact h
theorem Kept.of_triple' {p : α × β × State} {a : α} {b : β} {t : State} (e : p = (a, b, t)) (h : Kept qs p.2.2) : Kept qs t := by subst e; exact h

theorem Kept.foldl {f : State → α → State} {l : List α} {s : State} (hf : ∀ t a, Kept qs t → Kept qs (f t a)) (h : Kept qs s) : Kept qs (l.foldl f s) := by
  induction l generalizing s with
  | nil => exact h
  | cons a l ih => exact ih (hf s a h)

theorem Kept.foldl_third {f : α × β × State → γ → α × β × State} {l : List γ} {x : α × β × State} (hf : ∀ t a, Kept qs t.2.2 → Kept qs (f t a).2.2)
    (h : Kept qs x.2.2) : Kept qs (l.foldl f x).2.2 := by
  induction l generalizing x with
  | nil => exact h
  | cons a l ih => exact ih (hf x a h)

theorem Kept.foldl_second {f : α × State → γ → α × State} {l : List γ} {x : α × State} (hf : ∀ t a, Kept qs t.2 → Kept qs (f t a).2)
    (h : Kept qs x.2) : Kept qs (l.foldl f x).2 := by
  induction l generalizing x with
  | nil => exact h
  | cons a l ih => exact ih (hf x a h)

end Sys2Proof.Machine
end

