-- ==== Sys2Proof/Laws/KeptOps.lean ====
section
/-! SUPPORT. What the operations of Machine/Ops.lean keep: the queue, and the canonical form of the stores. -/
namespace Sys2Proof.Machine

open Sys2Proof

theorem State.setReg_kept {qs : Keep} (s : State) (a : Nat) (v : Word) (hs : Kept qs s) : Kept qs (State.setReg s a v) := by
  unfold State.setReg
  repeat' first
    | with_reducible (first | assumption | intro _ | apply RegsWf.put | apply RegsWf.keep | apply RegsWf.mapAll | refine Kept.pending (qs := qs) ?_
                            | refine Kept.regs (qs := qs) ?_ | refine Kept.lines (qs := qs) ?_ | refine Kept.stitches (qs := qs) ?_)
    | dsimp only
    | (with_reducible refine Kept.of_parts ?_ ?_ ?_ ?_ <;> dsimp only)

theorem State.setFld_kept {qs : Keep} (s : State) (f : Reg.FRef) (x : Nat) (hs : Kept qs s) : Kept qs (State.setFld s f x) := by
  unfold State.setFld
  with_reducible repeat' first | assumption | apply State.setReg_kept

theorem State.setBit_kept {qs : Keep} (s : State) (f : Reg.FRef) (b : Bool) (hs : Kept qs s) : Kept qs (State.setBit s f b) := by
  unfold State.setBit
  with_reducible repeat' first | assumption | apply State.setFld_kept

theorem State.count_kept {qs : Keep} (s : State) (f : Reg.FRef) (n : Nat) (hs : Kept qs s) : Kept qs (State.count s f n) := by
  unfold State.count
  with_reducible repeat' first | assumption | apply State.setFld_kept

theorem State.wrap_kept {qs : Keep} (s : State) (f : Reg.FRef) (n : Nat) (hs : Kept qs s) : Kept qs (State.wrap s f n) := by
  unfold State.wrap
  with_reducible repeat' first | assumption | apply State.setFld_kept

theorem State.setBitOf_kept {qs : Keep} (s : State) (f : Reg.FRef) (i : Nat) (b : Bool) (hs : Kept qs s) : Kept qs (State.setBitOf s f i b) := by
  unfold State.setBitOf
  with_reducible repeat' first | assumption | apply State.setFld_kept

theorem State.setPair_kept {qs : Keep} (s : State) (lo hi v : Nat) (hs : Kept qs s) : Kept qs (State.setPair s lo hi v) := by
  unfold State.setPair
  with_reducible repeat' first | assumption | apply State.setReg_kept

theorem State.wrapPair_kept {qs : Keep} (s : State) (lo hi n : Nat) (hs : Kept qs s) : Kept qs (State.wrapPair s lo hi n) := by
  unfold State.wrapPair
  with_reducible repeat' first | assumption | apply State.setPair_kept

theorem State.setTime_kept {qs : Keep} (s : State) (t : Nat) (hs : Kept qs s) : Kept qs (State.setTime s t) := by
  unfold State.setTime
  with_reducible repeat' first | assumption | apply State.setPair_kept

theorem State.spent_kept {qs : Keep} (s : State) (hs : Kept qs s) : Kept qs (State.spent s) := by
  unfold State.spent
  repeat' first
    | with_reducible (first | assumption | intro _ | refine Kept.pending (qs := qs) ?_ | refine Kept.regs (qs := qs) ?_
                            | refine Kept.lines (qs := qs) ?_ | refine Kept.stitches (qs := qs) ?_)
    | dsimp only
    | (with_reducible refine Kept.of_parts ?_ ?_ ?_ ?_ <;> dsimp only)

theorem State.fresh_kept {qs : Keep} (s : State) (hs : Kept qs s) : Kept qs (State.fresh s).2 := by
  unfold State.fresh
  repeat' first
    | with_reducible (first | assumption | intro _ | refine Kept.pending (qs := qs) ?_ | refine Kept.regs (qs := qs) ?_
                            | refine Kept.lines (qs := qs) ?_ | refine Kept.stitches (qs := qs) ?_)
    | dsimp only
    | (with_reducible refine Kept.of_parts ?_ ?_ ?_ ?_ <;> dsimp only)

theorem State.emit_kept {qs : Keep} (s : State) (o : Out) (hs : Kept qs s) : Kept qs (State.emit s o) := by
  unfold State.emit
  repeat' first
    | with_reducible (first | assumption | intro _ | refine Kept.pending (qs := qs) ?_ | refine Kept.regs (qs := qs) ?_
                            | refine Kept.lines (qs := qs) ?_ | refine Kept.stitches (qs := qs) ?_)
    | dsimp only
    | (with_reducible refine Kept.of_parts ?_ ?_ ?_ ?_ <;> dsimp only)

theorem State.report_kept {qs : Keep} (s : State) (src inst : Nat) (info : List Nat) (hs : Kept qs s) : Kept qs (State.report s src inst info) := by
  unfold State.report
  repeat' first
    | with_reducible (first | assumption | intro _ | refine Kept.pending (qs := qs) ?_ | refine Kept.regs (qs := qs) ?_
                            | refine Kept.lines (qs := qs) ?_ | refine Kept.stitches (qs := qs) ?_)
    | dsimp only
    | (with_reducible refine Kept.of_parts ?_ ?_ ?_ ?_ <;> dsimp only)

theorem State.reportInj_kept {qs : Keep} (s : State) (src inst : Nat) (info : List Nat) (hs : Kept qs s) : Kept qs (State.reportInj s src inst info)
    := by
  unfold State.reportInj
  repeat' first
    | with_reducible (first | assumption | intro _ | refine Kept.pending (qs := qs) ?_ | refine Kept.regs (qs := qs) ?_
                            | refine Kept.lines (qs := qs) ?_ | refine Kept.stitches (qs := qs) ?_)
    | dsimp only
    | (with_reducible refine Kept.of_parts ?_ ?_ ?_ ?_ <;> dsimp only)

theorem State.reportAs_kept {qs : Keep} (s : State) (inj : Bool) (src inst : Nat) (info : List Nat) (hs : Kept qs s) : Kept qs (State.reportAs s inj
    src inst info) := by
  unfold State.reportAs
  repeat' first
    | with_reducible (first | assumption | apply State.report_kept | apply State.reportInj_kept)
    | split

theorem fire_kept {qs : Keep} (s : State) (hs : Kept qs s) : Kept qs (fire s) := by
  unfold fire
  with_reducible repeat' first | assumption | apply State.setFld_kept

theorem State.accessFault_kept {qs : Keep} (s : State) (hs : Kept qs s) : Kept qs (State.accessFault s) := by
  unfold State.accessFault
  with_reducible repeat' first | assumption | apply State.report_kept

theorem plazaOnly_kept {qs : Keep} (p : Path) (s : State) (f : State → State) (hs : Kept qs s) (hf : ∀ a0, Kept qs a0 → Kept qs (f a0)) : Kept qs
    (plazaOnly p s f) := by
  unfold plazaOnly
  repeat' first
    | with_reducible (first | assumption | apply State.accessFault_kept | apply hf)
    | split

theorem State.onPwr_kept {qs : Keep} (s : State) (f : Power → Power) (hs : Kept qs s) : Kept qs (State.onPwr s f) := by
  unfold State.onPwr
  repeat' first
    | with_reducible (first | assumption | intro _ | refine Kept.pending (qs := qs) ?_ | refine Kept.regs (qs := qs) ?_
                            | refine Kept.lines (qs := qs) ?_ | refine Kept.stitches (qs := qs) ?_)
    | dsimp only
    | (with_reducible refine Kept.of_parts ?_ ?_ ?_ ?_ <;> dsimp only)

theorem State.onSup_kept {qs : Keep} (s : State) (f : Supply → Supply) (hs : Kept qs s) : Kept qs (State.onSup s f) := by
  unfold State.onSup
  repeat' first
    | with_reducible (first | assumption | intro _ | refine Kept.pending (qs := qs) ?_ | refine Kept.regs (qs := qs) ?_
                            | refine Kept.lines (qs := qs) ?_ | refine Kept.stitches (qs := qs) ?_)
    | dsimp only
    | (with_reducible refine Kept.of_parts ?_ ?_ ?_ ?_ <;> dsimp only)

theorem State.onRst_kept {qs : Keep} (s : State) (f : Resets → Resets) (hs : Kept qs s) : Kept qs (State.onRst s f) := by
  unfold State.onRst
  repeat' first
    | with_reducible (first | assumption | intro _ | refine Kept.pending (qs := qs) ?_ | refine Kept.regs (qs := qs) ?_
                            | refine Kept.lines (qs := qs) ?_ | refine Kept.stitches (qs := qs) ?_)
    | dsimp only
    | (with_reducible refine Kept.of_parts ?_ ?_ ?_ ?_ <;> dsimp only)

theorem State.onClocks_kept {qs : Keep} (s : State) (f : Clocks → Clocks) (hs : Kept qs s) : Kept qs (State.onClocks s f) := by
  unfold State.onClocks
  repeat' first
    | with_reducible (first | assumption | intro _ | refine Kept.pending (qs := qs) ?_ | refine Kept.regs (qs := qs) ?_
                            | refine Kept.lines (qs := qs) ?_ | refine Kept.stitches (qs := qs) ?_)
    | dsimp only
    | (with_reducible refine Kept.of_parts ?_ ?_ ?_ ?_ <;> dsimp only)

theorem State.onMgmt_kept {qs : Keep} (s : State) (f : Mgmt → Mgmt) (hs : Kept qs s) : Kept qs (State.onMgmt s f) := by
  unfold State.onMgmt
  repeat' first
    | with_reducible (first | assumption | intro _ | refine Kept.pending (qs := qs) ?_ | refine Kept.regs (qs := qs) ?_
                            | refine Kept.lines (qs := qs) ?_ | refine Kept.stitches (qs := qs) ?_)
    | dsimp only
    | (with_reducible refine Kept.of_parts ?_ ?_ ?_ ?_ <;> dsimp only)

theorem State.onFlt_kept {qs : Keep} (s : State) (f : Collector → Collector) (hs : Kept qs s) : Kept qs (State.onFlt s f) := by
  unfold State.onFlt
  repeat' first
    | with_reducible (first | assumption | intro _ | refine Kept.pending (qs := qs) ?_ | refine Kept.regs (qs := qs) ?_
                            | refine Kept.lines (qs := qs) ?_ | refine Kept.stitches (qs := qs) ?_)
    | dsimp only
    | (with_reducible refine Kept.of_parts ?_ ?_ ?_ ?_ <;> dsimp only)

theorem State.onHot_kept {qs : Keep} (s : State) (f : HotTier → HotTier) (hs : Kept qs s) (hf : ∀ x, LinesWf qs x.lines → LinesWf qs (f x).lines) :
    Kept qs (State.onHot s f) := by
  unfold State.onHot
  repeat' first
    | with_reducible (first | assumption | intro _ | apply hf | refine Kept.pending (qs := qs) ?_ | refine Kept.regs (qs := qs) ?_
                            | refine Kept.lines (qs := qs) ?_ | refine Kept.stitches (qs := qs) ?_)
    | dsimp only
    | (with_reducible refine Kept.of_parts ?_ ?_ ?_ ?_ <;> dsimp only)

theorem State.onCold_kept {qs : Keep} (s : State) (f : ColdTier → ColdTier) (hs : Kept qs s) (hf : ∀ x, StitchesWf qs x.stitches → StitchesWf qs (f
    x).stitches) : Kept qs (State.onCold s f) := by
  unfold State.onCold
  repeat' first
    | with_reducible (first | assumption | intro _ | apply hf | refine Kept.pending (qs := qs) ?_ | refine Kept.regs (qs := qs) ?_
                            | refine Kept.lines (qs := qs) ?_ | refine Kept.stitches (qs := qs) ?_)
    | dsimp only
    | (with_reducible refine Kept.of_parts ?_ ?_ ?_ ?_ <;> dsimp only)

theorem State.onVault_kept {qs : Keep} (s : State) (f : Vault → Vault) (hs : Kept qs s) : Kept qs (State.onVault s f) := by
  unfold State.onVault
  repeat' first
    | with_reducible (first | assumption | intro _ | refine Kept.pending (qs := qs) ?_ | refine Kept.regs (qs := qs) ?_
                            | refine Kept.lines (qs := qs) ?_ | refine Kept.stitches (qs := qs) ?_)
    | dsimp only
    | (with_reducible refine Kept.of_parts ?_ ?_ ?_ ?_ <;> dsimp only)

theorem State.onNoc_kept {qs : Keep} (s : State) (f : Noc → Noc) (hs : Kept qs s) : Kept qs (State.onNoc s f) := by
  unfold State.onNoc
  repeat' first
    | with_reducible (first | assumption | intro _ | refine Kept.pending (qs := qs) ?_ | refine Kept.regs (qs := qs) ?_
                            | refine Kept.lines (qs := qs) ?_ | refine Kept.stitches (qs := qs) ?_)
    | dsimp only
    | (with_reducible refine Kept.of_parts ?_ ?_ ?_ ?_ <;> dsimp only)

theorem State.onNme_kept {qs : Keep} (s : State) (f : Nme → Nme) (hs : Kept qs s) : Kept qs (State.onNme s f) := by
  unfold State.onNme
  repeat' first
    | with_reducible (first | assumption | intro _ | refine Kept.pending (qs := qs) ?_ | refine Kept.regs (qs := qs) ?_
                            | refine Kept.lines (qs := qs) ?_ | refine Kept.stitches (qs := qs) ?_)
    | dsimp only
    | (with_reducible refine Kept.of_parts ?_ ?_ ?_ ?_ <;> dsimp only)

theorem State.onDram_kept {qs : Keep} (s : State) (f : Dram → Dram) (hs : Kept qs s) : Kept qs (State.onDram s f) := by
  unfold State.onDram
  repeat' first
    | with_reducible (first | assumption | intro _ | refine Kept.pending (qs := qs) ?_ | refine Kept.regs (qs := qs) ?_
                            | refine Kept.lines (qs := qs) ?_ | refine Kept.stitches (qs := qs) ?_)
    | dsimp only
    | (with_reducible refine Kept.of_parts ?_ ?_ ?_ ?_ <;> dsimp only)

theorem State.onQos_kept {qs : Keep} (s : State) (f : Qos → Qos) (hs : Kept qs s) : Kept qs (State.onQos s f) := by
  unfold State.onQos
  repeat' first
    | with_reducible (first | assumption | intro _ | refine Kept.pending (qs := qs) ?_ | refine Kept.regs (qs := qs) ?_
                            | refine Kept.lines (qs := qs) ?_ | refine Kept.stitches (qs := qs) ?_)
    | dsimp only
    | (with_reducible refine Kept.of_parts ?_ ?_ ?_ ?_ <;> dsimp only)

theorem State.onLayout_kept {qs : Keep} (s : State) (f : Layout → Layout) (hs : Kept qs s) : Kept qs (State.onLayout s f) := by
  unfold State.onLayout
  repeat' first
    | with_reducible (first | assumption | intro _ | refine Kept.pending (qs := qs) ?_ | refine Kept.regs (qs := qs) ?_
                            | refine Kept.lines (qs := qs) ?_ | refine Kept.stitches (qs := qs) ?_)
    | dsimp only
    | (with_reducible refine Kept.of_parts ?_ ?_ ?_ ?_ <;> dsimp only)

theorem State.onFlash_kept {qs : Keep} (s : State) (f : Flash → Flash) (hs : Kept qs s) : Kept qs (State.onFlash s f) := by
  unfold State.onFlash
  repeat' first
    | with_reducible (first | assumption | intro _ | refine Kept.pending (qs := qs) ?_ | refine Kept.regs (qs := qs) ?_
                            | refine Kept.lines (qs := qs) ?_ | refine Kept.stitches (qs := qs) ?_)
    | dsimp only
    | (with_reducible refine Kept.of_parts ?_ ?_ ?_ ?_ <;> dsimp only)

theorem State.onFuses_kept {qs : Keep} (s : State) (f : Fuses → Fuses) (hs : Kept qs s) : Kept qs (State.onFuses s f) := by
  unfold State.onFuses
  repeat' first
    | with_reducible (first | assumption | intro _ | refine Kept.pending (qs := qs) ?_ | refine Kept.regs (qs := qs) ?_
                            | refine Kept.lines (qs := qs) ?_ | refine Kept.stitches (qs := qs) ?_)
    | dsimp only
    | (with_reducible refine Kept.of_parts ?_ ?_ ?_ ?_ <;> dsimp only)

theorem State.onPmu_kept {qs : Keep} (s : State) (f : Pmu → Pmu) (hs : Kept qs s) : Kept qs (State.onPmu s f) := by
  unfold State.onPmu
  repeat' first
    | with_reducible (first | assumption | intro _ | refine Kept.pending (qs := qs) ?_ | refine Kept.regs (qs := qs) ?_
                            | refine Kept.lines (qs := qs) ?_ | refine Kept.stitches (qs := qs) ?_)
    | dsimp only
    | (with_reducible refine Kept.of_parts ?_ ?_ ?_ ?_ <;> dsimp only)

theorem State.onDcm_kept {qs : Keep} (s : State) (f : Dcm → Dcm) (hs : Kept qs s) : Kept qs (State.onDcm s f) := by
  unfold State.onDcm
  with_reducible repeat' first | assumption | apply State.onDram_kept

theorem State.updHead_kept {qs : Keep} (s : State) (h : Nat) (f : Head → Head) (hs : Kept qs s) : Kept qs (State.updHead s h f) := by
  unfold State.updHead
  repeat' first
    | with_reducible (first | assumption | intro _ | refine Kept.pending (qs := qs) ?_ | refine Kept.regs (qs := qs) ?_
                            | refine Kept.lines (qs := qs) ?_ | refine Kept.stitches (qs := qs) ?_)
    | dsimp only
    | (with_reducible refine Kept.of_parts ?_ ?_ ?_ ?_ <;> dsimp only)

theorem State.updLd_kept {qs : Keep} (s : State) (k : Nat) (f : Ld → Ld) (hs : Kept qs s) : Kept qs (State.updLd s k f) := by
  unfold State.updLd
  repeat' first
    | with_reducible (first | assumption | intro _ | refine Kept.pending (qs := qs) ?_ | refine Kept.regs (qs := qs) ?_
                            | refine Kept.lines (qs := qs) ?_ | refine Kept.stitches (qs := qs) ?_)
    | dsimp only
    | (with_reducible refine Kept.of_parts ?_ ?_ ?_ ?_ <;> dsimp only)

theorem State.updSlice_kept {qs : Keep} (s : State) (n : Nat) (f : Slice → Slice) (hs : Kept qs s) : Kept qs (State.updSlice s n f) := by
  unfold State.updSlice
  repeat' first
    | with_reducible (first | assumption | intro _ | refine Kept.pending (qs := qs) ?_ | refine Kept.regs (qs := qs) ?_
                            | refine Kept.lines (qs := qs) ?_ | refine Kept.stitches (qs := qs) ?_)
    | dsimp only
    | (with_reducible refine Kept.of_parts ?_ ?_ ?_ ?_ <;> dsimp only)

theorem State.updDcc_kept {qs : Keep} (s : State) (c : Nat) (f : Dcc → Dcc) (hs : Kept qs s) : Kept qs (State.updDcc s c f) := by
  unfold State.updDcc
  repeat' first
    | with_reducible (first | assumption | intro _ | refine Kept.pending (qs := qs) ?_ | refine Kept.regs (qs := qs) ?_
                            | refine Kept.lines (qs := qs) ?_ | refine Kept.stitches (qs := qs) ?_)
    | dsimp only
    | (with_reducible refine Kept.of_parts ?_ ?_ ?_ ?_ <;> dsimp only)

theorem State.updGroup_kept {qs : Keep} (s : State) (k : Nat) (f : Group → Group) (hs : Kept qs s) : Kept qs (State.updGroup s k f) := by
  unfold State.updGroup
  repeat' first
    | with_reducible (first | assumption | intro _ | refine Kept.pending (qs := qs) ?_ | refine Kept.regs (qs := qs) ?_
                            | refine Kept.lines (qs := qs) ?_ | refine Kept.stitches (qs := qs) ?_)
    | dsimp only
    | (with_reducible refine Kept.of_parts ?_ ?_ ?_ ?_ <;> dsimp only)

theorem State.updChan_kept {qs : Keep} (s : State) (j : Nat) (f : Channel → Channel) (hs : Kept qs s) : Kept qs (State.updChan s j f) := by
  unfold State.updChan
  repeat' first
    | with_reducible (first | assumption | intro _ | refine Kept.pending (qs := qs) ?_ | refine Kept.regs (qs := qs) ?_
                            | refine Kept.lines (qs := qs) ?_ | refine Kept.stitches (qs := qs) ?_)
    | dsimp only
    | (with_reducible refine Kept.of_parts ?_ ?_ ?_ ?_ <;> dsimp only)

theorem State.updRing_kept {qs : Keep} (s : State) (r : Nat) (f : Ring → Ring) (hs : Kept qs s) : Kept qs (State.updRing s r f) := by
  unfold State.updRing
  repeat' first
    | with_reducible (first | assumption | intro _ | refine Kept.pending (qs := qs) ?_ | refine Kept.regs (qs := qs) ?_
                            | refine Kept.lines (qs := qs) ?_ | refine Kept.stitches (qs := qs) ?_)
    | dsimp only
    | (with_reducible refine Kept.of_parts ?_ ?_ ?_ ?_ <;> dsimp only)

theorem State.updCinch_kept {qs : Keep} (s : State) (k : Nat) (f : Cinch → Cinch) (hs : Kept qs s) : Kept qs (State.updCinch s k f) := by
  unfold State.updCinch
  repeat' first
    | with_reducible (first | assumption | intro _ | refine Kept.pending (qs := qs) ?_ | refine Kept.regs (qs := qs) ?_
                            | refine Kept.lines (qs := qs) ?_ | refine Kept.stitches (qs := qs) ?_)
    | dsimp only
    | (with_reducible refine Kept.of_parts ?_ ?_ ?_ ?_ <;> dsimp only)

theorem State.updPath_kept {qs : Keep} (s : State) (k : Nat) (f : PathState → PathState) (hs : Kept qs s) : Kept qs (State.updPath s k f) := by
  unfold State.updPath
  repeat' first
    | with_reducible (first | assumption | intro _ | refine Kept.pending (qs := qs) ?_ | refine Kept.regs (qs := qs) ?_
                            | refine Kept.lines (qs := qs) ?_ | refine Kept.stitches (qs := qs) ?_)
    | dsimp only
    | (with_reducible refine Kept.of_parts ?_ ?_ ?_ ?_ <;> dsimp only)

theorem State.clearSram_kept {qs : Keep} (s : State) (d : Nat) (hs : Kept qs s) : Kept qs (State.clearSram s d) := by
  unfold State.clearSram
  repeat' first
    | with_reducible (first | assumption | intro _ | refine Kept.pending (qs := qs) ?_ | refine Kept.regs (qs := qs) ?_
                            | refine Kept.lines (qs := qs) ?_ | refine Kept.stitches (qs := qs) ?_)
    | dsimp only
    | (with_reducible refine Kept.of_parts ?_ ?_ ?_ ?_ <;> dsimp only)

theorem State.setCond_kept {qs : Keep} (s : State) (d : Nat) (c : DomCond) (hs : Kept qs s) : Kept qs (State.setCond s d c) := by
  unfold State.setCond
  repeat' first
    | with_reducible (first | assumption | intro _ | apply State.clearSram_kept | refine Kept.pending (qs := qs) ?_ | refine Kept.regs (qs := qs) ?_
                            | refine Kept.lines (qs := qs) ?_ | refine Kept.stitches (qs := qs) ?_)
    | (extract_lets +onlyGivenNames x; first | (refine Kept.cut (qs := qs) x ?_ fun hx => ?_; subst x; rotate_left; clear_value x; rotate_left) | subst x)
    | split
    | dsimp only
    | (with_reducible refine Kept.of_parts ?_ ?_ ?_ ?_ <;> dsimp only)

theorem forAll_kept {qs : Keep} {α : Type} (l : List α) (s : State) (f : State → α → State) (hs : Kept qs s) (hf : ∀ a0 a1, Kept qs a0 → Kept qs (f
    a0 a1)) : Kept qs (forAll l s f) := by
  unfold forAll
  with_reducible repeat' first | assumption | apply hf | apply Kept.foldl

theorem touchIdle_kept {qs : Keep} (s : State) (hs : Kept qs s) : Kept qs (touchIdle s) := by
  unfold touchIdle
  repeat' first
    | with_reducible (first | assumption | intro _ | refine Kept.pending (qs := qs) ?_ | refine Kept.regs (qs := qs) ?_
                            | refine Kept.lines (qs := qs) ?_ | refine Kept.stitches (qs := qs) ?_)
    | split
    | dsimp only
    | (with_reducible refine Kept.of_parts ?_ ?_ ?_ ?_ <;> dsimp only)

theorem touchDomain_kept {qs : Keep} (d : Nat) (s : State) (hs : Kept qs s) : Kept qs (touchDomain d s) := by
  unfold touchDomain
  repeat' first
    | with_reducible (first | assumption | intro _ | refine Kept.pending (qs := qs) ?_ | refine Kept.regs (qs := qs) ?_
                            | refine Kept.lines (qs := qs) ?_ | refine Kept.stitches (qs := qs) ?_)
    | dsimp only
    | (with_reducible refine Kept.of_parts ?_ ?_ ?_ ?_ <;> dsimp only)

theorem State.msix_kept {qs : Keep} (s : State) (k vec : Nat) (hs : Kept qs s) : Kept qs (State.msix s k vec) := by
  unfold State.msix
  repeat' first
    | with_reducible (first | assumption | apply State.emit_kept | apply State.updLd_kept)
    | split

theorem State.flushMsix_kept {qs : Keep} (s : State) (h : Nat) (hs : Kept qs s) : Kept qs (State.flushMsix s h) := by
  unfold State.flushMsix
  repeat' first
    | with_reducible (first | assumption | intro _ | apply State.emit_kept | apply State.updLd_kept | apply forAll_kept)
    | split

theorem State.sample_kept {qs : Keep} (s : State) (i : Nat) (o : Occurrence) (hs : Kept qs s) : Kept qs (State.sample s i o) := by
  unfold State.sample
  with_reducible repeat' first | assumption | apply State.setFld_kept | apply State.setBit_kept | apply State.setPair_kept

theorem State.overflow_kept {qs : Keep} (s : State) (is : List Nat) (o : Occurrence) (hs : Kept qs s) : Kept qs (State.overflow s is o) := by
  unfold State.overflow
  repeat' first
    | with_reducible (first | assumption | intro _ | apply State.setFld_kept | apply State.setBit_kept | apply State.count_kept
                            | apply State.spent_kept | apply State.onPmu_kept | apply State.msix_kept | apply State.sample_kept | apply Kept.foldl)
    | (extract_lets +onlyGivenNames x; first | (refine Kept.cut (qs := qs) x ?_ fun hx => ?_; subst x; rotate_left; clear_value x; rotate_left) | subst x)
    | split

theorem State.tally_kept {qs : Keep} (s : State) (i : Nat) (o : Occurrence) (hs : Kept qs s) : Kept qs (State.tally s i o) := by
  unfold State.tally
  repeat' first
    | with_reducible (first | assumption | intro _ | apply State.setBitOf_kept | apply State.setPair_kept | apply State.onPmu_kept
                            | apply State.sample_kept)
    | (extract_lets +onlyGivenNames x; first | (refine Kept.cut (qs := qs) x ?_ fun hx => ?_; subst x; rotate_left; clear_value x; rotate_left) | subst x)
    | split

theorem State.occur_kept {qs : Keep} (s : State) (o : Occurrence) (hs : Kept qs s) : Kept qs (State.occur s o) := by
  unfold State.occur
  repeat' first
    | with_reducible (first | assumption | intro _ | apply State.spent_kept | apply State.onPmu_kept | apply State.overflow_kept
                            | apply State.tally_kept | apply Kept.foldl)
    | (extract_lets +onlyGivenNames x; first | (refine Kept.cut (qs := qs) x ?_ fun hx => ?_; subst x; rotate_left; clear_value x; rotate_left) | subst x)
    | split

theorem State.bytes_kept {qs : Keep} (s : State) (k n : Nat) (hs : Kept qs s) : Kept qs (State.bytes s k n) := by
  unfold State.bytes
  with_reducible repeat' first | assumption | apply State.onPmu_kept

theorem State.log1_kept {qs : Keep} (s : State) (l : Nat) (e : Event) (k : Nat) (hs : Kept qs s) : Kept qs (State.log1 s l e k) := by
  unfold State.log1
  with_reducible repeat' first | assumption | apply State.updLd_kept

theorem keepRecord_kept {qs : Keep} (e : Event) (s : State) (hs : Kept qs s) : Kept qs (keepRecord e s) := by
  unfold keepRecord
  repeat' first
    | with_reducible (first | assumption | intro _ | refine Kept.pending (qs := qs) ?_ | refine Kept.regs (qs := qs) ?_
                            | refine Kept.lines (qs := qs) ?_ | refine Kept.stitches (qs := qs) ?_)
    | (extract_lets +onlyGivenNames x; subst x)
    | split
    | dsimp only
    | (with_reducible refine Kept.of_parts ?_ ?_ ?_ ?_ <;> dsimp only)

theorem sendRecord_kept {qs : Keep} (s : State) (r : Nat × Event) (hs : Kept qs s) : Kept qs (sendRecord s r) := by
  unfold sendRecord
  repeat' first
    | with_reducible (first | assumption | apply State.emit_kept)
    | split
    | exact Kept.same ‹_› rfl rfl rfl rfl

theorem writeQueued_kept {qs : Keep} (s : State) (hs : Kept qs s) : Kept qs (writeQueued s) := by
  unfold writeQueued
  repeat' first
    | with_reducible (first | assumption | intro _ | apply sendRecord_kept | apply Kept.foldl | apply Kept.foldl_second | apply Kept.foldl_third
                            | refine Kept.pending (qs := qs) ?_ | refine Kept.regs (qs := qs) ?_ | refine Kept.lines (qs := qs) ?_
                            | refine Kept.stitches (qs := qs) ?_)
    | dsimp only
    | (with_reducible refine Kept.of_parts ?_ ?_ ?_ ?_ <;> dsimp only)

theorem State.deliver_kept {qs : Keep} (s : State) (ks : List Nat) (l : Nat) (e : Event) (hs : Kept qs s) : Kept qs (State.deliver s ks l e) := by
  unfold State.deliver
  with_reducible repeat' first | assumption | intro _ | apply State.log1_kept | apply Kept.foldl

theorem State.logTo_kept {qs : Keep} (s : State) (ks : List Nat) (l : Nat) (e : Event) (hs : Kept qs s) : Kept qs (State.logTo s ks l e) := by
  unfold State.logTo
  with_reducible repeat' first | assumption | apply keepRecord_kept | apply State.deliver_kept

theorem State.vendor_kept {qs : Keep} (s : State) (l kind : Nat) (detail : List Nat) (hs : Kept qs s) : Kept qs (State.vendor s l kind detail) := by
  unfold State.vendor
  with_reducible repeat' first | assumption | apply State.logTo_kept

theorem State.markFenced_kept {qs : Keep} (s : State) (b : Block) (hs : Kept qs s) : Kept qs (State.markFenced s b) := by
  unfold State.markFenced
  repeat' first
    | with_reducible (first | assumption | intro _ | refine Kept.pending (qs := qs) ?_ | refine Kept.regs (qs := qs) ?_
                            | refine Kept.lines (qs := qs) ?_ | refine Kept.stitches (qs := qs) ?_)
    | split
    | dsimp only
    | (with_reducible refine Kept.of_parts ?_ ?_ ?_ ?_ <;> dsimp only)

theorem State.fenceOff_kept {qs : Keep} (s : State) (b : Block) (hs : Kept qs s) : Kept qs (State.fenceOff s b) := by
  unfold State.fenceOff
  repeat' first
    | with_reducible (first | assumption | intro _ | apply State.markFenced_kept | apply Kept.foldl | apply Kept.foldl_second
                            | apply Kept.foldl_third | refine Kept.pending (qs := qs) ?_ | refine Kept.regs (qs := qs) ?_
                            | refine Kept.lines (qs := qs) ?_ | refine Kept.stitches (qs := qs) ?_)
    | (extract_lets +onlyGivenNames x; subst x)
    | split
    | dsimp only
    | (with_reducible refine Kept.of_parts ?_ ?_ ?_ ?_ <;> dsimp only)

theorem State.unfence_kept {qs : Keep} (s : State) (b : Block) (hs : Kept qs s) : Kept qs (State.unfence s b) := by
  unfold State.unfence
  repeat' first
    | with_reducible (first | assumption | intro _ | refine Kept.pending (qs := qs) ?_ | refine Kept.regs (qs := qs) ?_
                            | refine Kept.lines (qs := qs) ?_ | refine Kept.stitches (qs := qs) ?_)
    | dsimp only
    | (with_reducible refine Kept.of_parts ?_ ?_ ?_ ?_ <;> dsimp only)

theorem State.expose_kept {qs : Keep} (s : State) (src inst : Nat) (hs : Kept qs s) : Kept qs (State.expose s src inst) := by
  unfold State.expose
  repeat' first
    | with_reducible (first | assumption | intro _ | refine Kept.pending (qs := qs) ?_ | refine Kept.regs (qs := qs) ?_
                            | refine Kept.lines (qs := qs) ?_ | refine Kept.stitches (qs := qs) ?_)
    | split
    | dsimp only
    | (with_reducible refine Kept.of_parts ?_ ?_ ?_ ?_ <;> dsimp only)

theorem State.unexpose_kept {qs : Keep} (s : State) (p : Exposure → Bool) (hs : Kept qs s) : Kept qs (State.unexpose s p) := by
  unfold State.unexpose
  repeat' first
    | with_reducible (first | assumption | intro _ | refine Kept.pending (qs := qs) ?_ | refine Kept.regs (qs := qs) ?_
                            | refine Kept.lines (qs := qs) ?_ | refine Kept.stitches (qs := qs) ?_)
    | dsimp only
    | (with_reducible refine Kept.of_parts ?_ ?_ ?_ ?_ <;> dsimp only)

theorem State.counted_kept {qs : Keep} (s : State) (n : Nat) (hs : Kept qs s) : Kept qs (State.counted s n).2 := by
  unfold State.counted
  repeat' first
    | with_reducible (first | assumption | intro _ | refine Kept.pending (qs := qs) ?_ | refine Kept.regs (qs := qs) ?_
                            | refine Kept.lines (qs := qs) ?_ | refine Kept.stitches (qs := qs) ?_)
    | (extract_lets +onlyGivenNames x; subst x)
    | split
    | dsimp only
    | (with_reducible refine Kept.of_parts ?_ ?_ ?_ ?_ <;> dsimp only)

theorem State.slewed_kept {qs : Keep} (s : State) (d : Nat) (hs : Kept qs s) : Kept qs (State.slewed s d).2 := by
  unfold State.slewed
  repeat' first
    | with_reducible (first | assumption | intro _ | apply State.setFld_kept | refine Kept.pending (qs := qs) ?_ | refine Kept.regs (qs := qs) ?_
                            | refine Kept.lines (qs := qs) ?_ | refine Kept.stitches (qs := qs) ?_)
    | (extract_lets +onlyGivenNames x; subst x)
    | split
    | dsimp only
    | (with_reducible refine Kept.of_parts ?_ ?_ ?_ ?_ <;> dsimp only)

theorem State.advance_kept {qs : Keep} (s : State) (n : Nat) (hs : Kept qs s) : Kept qs (State.advance s n) := by
  unfold State.advance
  repeat' first
    | with_reducible (first | assumption | intro _ | apply State.setTime_kept | apply State.counted_kept | apply State.slewed_kept
                            | refine Kept.pending (qs := qs) ?_ | refine Kept.regs (qs := qs) ?_ | refine Kept.lines (qs := qs) ?_
                            | refine Kept.stitches (qs := qs) ?_)
    | split
    | refine Kept.of_pair ‹_ = (_, _)› ?_
    | dsimp only
    | (with_reducible refine Kept.of_parts ?_ ?_ ?_ ?_ <;> dsimp only)

theorem State.until_kept {qs : Keep} (s : State) (t : Nat) (hs : Kept qs s) : Kept qs (State.until s t) := by
  unfold State.until
  with_reducible repeat' first | assumption | apply State.advance_kept

end Sys2Proof.Machine
end

