-- ==== Sys2Proof/Laws/KeptColdOps.lean ====
section
/-! SUPPORT. What the operations of Machine/ColdOps.lean keep: the queue, and the canonical form of the stores. -/
namespace Sys2Proof.Machine

open Sys2Proof

theorem injectStitch_kept {qs : Keep} (ch seam : Nat) (v : Stitch) (s : State) (hs : Kept qs s) : Kept qs (injectStitch ch seam v s).2 := by
  unfold injectStitch
  repeat' first
    | with_reducible (first | assumption | apply State.spent_kept | apply fire_kept | apply State.updDcc_kept)
    | split

theorem putStitch_kept {qs : Keep} (ch seam : Nat) (data : Stitch) (s : State) (hs : Kept qs s) : Kept qs (putStitch ch seam data s) := by
  unfold putStitch
  with_reducible repeat' first | assumption | intro _ | apply State.onCold_kept | apply State.updDcc_kept | apply injectStitch_kept
                               | apply StitchesWf.put

theorem skipStitch_kept {qs : Keep} (ch seam : Nat) (s : State) (hs : Kept qs s) : Kept qs (skipStitch ch seam s) := by
  unfold skipStitch
  with_reducible repeat' first | assumption | intro _ | apply State.onCold_kept

theorem noteWrite_kept {qs : Keep} (seam : Nat) (s : State) (hs : Kept qs s) : Kept qs (noteWrite seam s) := by
  unfold noteWrite
  repeat' first
    | with_reducible (first | assumption | intro _ | apply State.onCold_kept)
    | exact Kept.same ‹_› rfl rfl rfl rfl

theorem writeSeamDirect_kept {qs : Keep} (seam : Nat) (d : List Stitch) (s : State) (hs : Kept qs s) : Kept qs (writeSeamDirect seam d s) := by
  unfold writeSeamDirect
  repeat' first
    | with_reducible (first | assumption | intro _ | apply State.count_kept | apply forAll_kept | apply putStitch_kept | apply skipStitch_kept
                            | apply noteWrite_kept)
    | (extract_lets +onlyGivenNames x; subst x)
    | split

theorem refreshSubstitutes_kept {qs : Keep} (seam : Nat) (d : List Stitch) (s : State) (hs : Kept qs s) : Kept qs (refreshSubstitutes seam d s) := by
  unfold refreshSubstitutes
  repeat' first
    | with_reducible (first | assumption | intro _ | apply forAll_kept | apply writeSeamDirect_kept)
    | split

theorem issueSeam_kept {qs : Keep} (seam : Nat) (d : List Stitch) (s : State) (hs : Kept qs s) : Kept qs (issueSeam seam d s) := by
  unfold issueSeam
  repeat' first
    | with_reducible (first | assumption | intro _ | apply State.count_kept | apply State.onCold_kept | apply forAll_kept | apply skipStitch_kept
                            | apply noteWrite_kept)
    | (extract_lets +onlyGivenNames x; subst x)
    | split

theorem useSlot_kept {qs : Keep} (p : Nat) (s : State) (hs : Kept qs s) : Kept qs (useSlot p s) := by
  unfold useSlot
  repeat' first
    | with_reducible (first | assumption | apply State.onVault_kept)
    | split

theorem appendRecord_kept {qs : Keep} (r : Nat → BitVec 256) (s : State) (hs : Kept qs s) : Kept qs (appendRecord r s) := by
  unfold appendRecord
  with_reducible repeat' first | assumption | intro _ | apply State.onCold_kept

theorem trimJournal_kept {qs : Keep} (s : State) (hs : Kept qs s) : Kept qs (trimJournal s) := by
  unfold trimJournal
  repeat' first
    | with_reducible (first | assumption | intro _ | refine Kept.pending (qs := qs) ?_ | refine Kept.regs (qs := qs) ?_
                            | refine Kept.lines (qs := qs) ?_ | refine Kept.stitches (qs := qs) ?_)
    | (extract_lets +onlyGivenNames x; first | (refine Kept.cut (qs := qs) x ?_ fun hx => ?_; subst x; rotate_left; clear_value x; rotate_left) | subst x)
    | dsimp only
    | (with_reducible refine Kept.of_parts ?_ ?_ ?_ ?_ <;> dsimp only)

theorem checkpoint_kept {qs : Keep} (body mask : Nat) (s : State) (hs : Kept qs s) : Kept qs (checkpoint body mask s) := by
  unfold checkpoint
  with_reducible repeat' first | assumption | intro _ | apply State.onCold_kept | apply appendRecord_kept

theorem writeGroup_kept {qs : Keep} (base g : Nat) (new : List (Nat × List Nat)) (s : State) (hs : Kept qs s) : Kept qs (writeGroup base g new s) :=
    by
  unfold writeGroup
  with_reducible repeat' first | assumption | intro _ | apply forAll_kept | apply writeSeamDirect_kept | apply refreshSubstitutes_kept

theorem putRoot_kept {qs : Keep} (r c : Nat) (body : List Nat) (s : State) (hs : Kept qs s) : Kept qs (putRoot r c body s) := by
  unfold putRoot
  repeat' first
    | with_reducible (first | assumption | apply State.onVault_kept | apply writeGroup_kept)
    | exact Kept.same ‹_› rfl rfl rfl rfl

theorem clearPages_kept {qs : Keep} (b : Nat) (s : State) (hs : Kept qs s) : Kept qs (clearPages b s) := by
  unfold clearPages
  repeat' first
    | with_reducible (first | assumption | intro _ | apply State.onHot_kept | apply State.onCold_kept | apply Kept.foldl | apply Kept.foldl_second
                            | apply Kept.foldl_third | apply LinesWf.put | apply LinesWf.keep | exact LinesWf.nil
                            | refine Kept.pending (qs := qs) ?_ | refine Kept.regs (qs := qs) ?_ | refine Kept.lines (qs := qs) ?_
                            | refine Kept.stitches (qs := qs) ?_)
    | (extract_lets +onlyGivenNames x; first | (refine Kept.cut (qs := qs) x ?_ fun hx => ?_; subst x; rotate_left; clear_value x; rotate_left) | subst x)
    | split
    | dsimp only
    | (with_reducible refine Kept.of_parts ?_ ?_ ?_ ?_ <;> dsimp only)

theorem poisonCached_kept {qs : Keep} (b : Nat) (s : State) (hs : Kept qs s) : Kept qs (poisonCached b s) := by
  unfold poisonCached
  repeat' first
    | with_reducible (first | assumption | intro _ | apply State.onHot_kept | apply State.onCold_kept | apply forAll_kept | apply clearPages_kept
                            | apply Kept.foldl)
    | (extract_lets +onlyGivenNames x; first | (refine Kept.cut (qs := qs) x ?_ fun hx => ?_; subst x; rotate_left; clear_value x; rotate_left) | subst x)
    | split
    | exact Kept.same ‹_› rfl rfl rfl rfl

theorem failRoot_kept {qs : Keep} (r : Nat) (s : State) (hs : Kept qs s) : Kept qs (failRoot r s) := by
  unfold failRoot
  repeat' first
    | with_reducible (first | assumption | intro _ | apply State.count_kept | apply State.report_kept | apply State.onCold_kept | apply forAll_kept
                            | apply poisonCached_kept)
    | (extract_lets +onlyGivenNames x; first | (refine Kept.cut (qs := qs) x ?_ fun hx => ?_; subst x; rotate_left; clear_value x; rotate_left) | subst x)
    | split
    | exact Kept.same ‹_› rfl rfl rfl rfl

theorem loseRoot_kept {qs : Keep} (s : State) (r : Nat) (hs : Kept qs s) : Kept qs (loseRoot s r) := by
  unfold loseRoot
  repeat' first
    | with_reducible (first | assumption | intro _ | apply State.onCold_kept | apply State.onVault_kept | apply failRoot_kept)
    | (extract_lets +onlyGivenNames x; first | (refine Kept.cut (qs := qs) x ?_ fun hx => ?_; subst x; rotate_left; clear_value x; rotate_left) | subst x)
    | exact Kept.same ‹_› rfl rfl rfl rfl

theorem loseItem_kept {qs : Keep} (i : VaultItem) (s : State) (hs : Kept qs s) : Kept qs (loseItem i s) := by
  unfold loseItem
  repeat' first
    | with_reducible (first | assumption | apply State.spent_kept | apply State.onVault_kept | apply forAll_kept | apply loseRoot_kept)
    | split
    | exact Kept.same ‹_› rfl rfl rfl rfl

theorem useItem_kept {qs : Keep} (i : VaultItem) (s : State) (hs : Kept qs s) : Kept qs (useItem i s) := by
  unfold useItem
  repeat' first
    | with_reducible (first | assumption | intro _ | apply State.report_kept | apply State.onVault_kept | apply loseItem_kept)
    | (extract_lets +onlyGivenNames x; first | (refine Kept.cut (qs := qs) x ?_ fun hx => ?_; subst x; rotate_left; clear_value x; rotate_left) | subst x)
    | split
    | exact Kept.same ‹_› rfl rfl rfl rfl

theorem usePage_kept {qs : Keep} (p : Nat) (s : State) (hs : Kept qs s) : Kept qs (usePage p s) := by
  unfold usePage
  repeat' first
    | with_reducible (first | assumption | apply useItem_kept)
    | split
    | exact Kept.same ‹_› rfl rfl rfl rfl

theorem freshItem_kept {qs : Keep} (i : VaultItem) (s : State) (hs : Kept qs s) : Kept qs (freshItem i s) := by
  unfold freshItem
  repeat' first
    | with_reducible (first | assumption | apply State.onVault_kept)
    | exact Kept.same ‹_› rfl rfl rfl rfl

theorem checkRoot_kept {qs : Keep} (r : Nat) (s0 : State) (hs0 : Kept qs s0) : Kept qs (checkRoot r s0) := by
  unfold checkRoot
  repeat' first
    | with_reducible (first | assumption | intro _ | apply State.count_kept | apply State.report_kept | apply putRoot_kept | apply failRoot_kept
                            | apply useItem_kept)
    | (extract_lets +onlyGivenNames x; first | (refine Kept.cut (qs := qs) x ?_ fun hx => ?_; subst x; rotate_left; clear_value x; rotate_left) | subst x)
    | split
    | exact Kept.same ‹_› rfl rfl rfl rfl

theorem beginGroup_kept {qs : Keep} (g : Nat) (s : State) (hs : Kept qs s) : Kept qs (beginGroup g s) := by
  unfold beginGroup
  repeat' first
    | with_reducible (first | assumption | intro _ | apply State.onCold_kept | apply State.onVault_kept | apply forAll_kept | apply checkRoot_kept)
    | (extract_lets +onlyGivenNames x; first | (refine Kept.cut (qs := qs) x ?_ fun hx => ?_; subst x; rotate_left; clear_value x; rotate_left) | subst x)
    | split
    | exact Kept.same ‹_› rfl rfl rfl rfl

theorem stepRoot_kept {qs : Keep} (s : State) (r : Nat) (hs : Kept qs s) : Kept qs (stepRoot s r) := by
  unfold stepRoot
  repeat' first
    | with_reducible (first | assumption | apply State.onVault_kept)
    | split
    | exact Kept.same ‹_› rfl rfl rfl rfl

theorem cleanBlocks_kept {qs : Keep} (x : GroupRun) (s : State) (hs : Kept qs s) : Kept qs (cleanBlocks x s) := by
  unfold cleanBlocks
  repeat' first
    | with_reducible (first | assumption | intro _ | apply State.onHot_kept | apply forAll_kept)
    | split
    | exact Kept.same ‹_› rfl rfl rfl rfl

theorem groupDo_kept {qs : Keep} (x : GroupRun) (s : State) (hs : Kept qs s) : Kept qs (groupDo x s) := by
  unfold groupDo
  repeat' first
    | with_reducible (first | assumption | intro _ | apply State.onCold_kept | apply State.onVault_kept | apply forAll_kept
                            | apply State.unexpose_kept | apply appendRecord_kept | apply trimJournal_kept | apply writeGroup_kept
                            | apply putRoot_kept | apply stepRoot_kept | apply cleanBlocks_kept)
    | (extract_lets +onlyGivenNames x; first | (refine Kept.cut (qs := qs) x ?_ fun hx => ?_; subst x; rotate_left; clear_value x; rotate_left) | subst x)
    | split
    | exact Kept.same ‹_› rfl rfl rfl rfl

theorem groupStep_kept {qs : Keep} (g : Nat) (s : State) (hs : Kept qs s) : Kept qs (groupStep g s) := by
  unfold groupStep
  repeat' first
    | with_reducible (first | assumption | intro _ | apply State.onCold_kept | apply groupDo_kept)
    | split
    | exact Kept.same ‹_› rfl rfl rfl rfl

theorem groupSteps_kept {qs : Keep} (g n : Nat) (s : State) (hs : Kept qs s) : Kept qs (groupSteps g n s) := by
  unfold groupSteps
  repeat' first
    | with_reducible (first | assumption | intro _ | apply forAll_kept | apply beginGroup_kept | apply groupStep_kept)
    | (extract_lets +onlyGivenNames x; first | (refine Kept.cut (qs := qs) x ?_ fun hx => ?_; subst x; rotate_left; clear_value x; rotate_left) | subst x)
    | split
    | exact Kept.same ‹_› rfl rfl rfl rfl

theorem groupWrite_kept {qs : Keep} (g : Nat) (s : State) (hs : Kept qs s) : Kept qs (groupWrite g s) := by
  unfold groupWrite
  with_reducible repeat' first | assumption | intro _ | apply forAll_kept | apply groupSteps_kept

theorem dropBlock_kept {qs : Keep} (key : Nat) (s : State) (hs : Kept qs s) : Kept qs (dropBlock key s) := by
  unfold dropBlock
  repeat' first
    | with_reducible (first | assumption | intro _ | apply State.onHot_kept | refine Kept.pending (qs := qs) ?_ | refine Kept.regs (qs := qs) ?_
                            | refine Kept.lines (qs := qs) ?_ | refine Kept.stitches (qs := qs) ?_)
    | (extract_lets +onlyGivenNames x; first | (refine Kept.cut (qs := qs) x ?_ fun hx => ?_; subst x; rotate_left; clear_value x; rotate_left) | subst x)
    | dsimp only
    | (with_reducible refine Kept.of_parts ?_ ?_ ?_ ?_ <;> dsimp only)

theorem placeBlock_kept {qs : Keep} (b : Nat) (es : List (BitVec 128)) (modified : Bool) (s : State) (hs : Kept qs s) : Kept qs (placeBlock b es
    modified s) := by
  unfold placeBlock
  repeat' first
    | with_reducible (first | assumption | intro _ | apply State.onHot_kept | apply groupWrite_kept | apply dropBlock_kept | apply Kept.foldl)
    | (extract_lets +onlyGivenNames x; first | (refine Kept.cut (qs := qs) x ?_ fun hx => ?_; subst x; rotate_left; clear_value x; rotate_left) | subst x)
    | split

theorem failBlock_kept {qs : Keep} (b k : Nat) (s : State) (hs : Kept qs s) : Kept qs (failBlock b k s) := by
  unfold failBlock
  repeat' first
    | with_reducible (first | assumption | apply State.count_kept | apply State.report_kept | apply clearPages_kept | apply placeBlock_kept)
    | split

theorem loadBlock_kept {qs : Keep} (b : Nat) (s : State) (hs : Kept qs s) : Kept qs (loadBlock b s) := by
  unfold loadBlock
  repeat' first
    | with_reducible (first | assumption | intro _ | apply State.count_kept | apply State.report_kept | apply State.onHot_kept
                            | apply State.bytes_kept | apply checkRoot_kept | apply placeBlock_kept | apply failBlock_kept)
    | (extract_lets +onlyGivenNames x; first | (refine Kept.cut (qs := qs) x ?_ fun hx => ?_; subst x; rotate_left; clear_value x; rotate_left) | subst x)
    | split

theorem touchBlock_kept {qs : Keep} (b : Nat) (s : State) (hs : Kept qs s) : Kept qs (touchBlock b s) := by
  unfold touchBlock
  repeat' first
    | with_reducible (first | assumption | intro _ | apply State.onHot_kept | apply loadBlock_kept)
    | (extract_lets +onlyGivenNames x; first | (refine Kept.cut (qs := qs) x ?_ fun hx => ?_; subst x; rotate_left; clear_value x; rotate_left) | subst x)
    | split
    | exact Kept.same ‹_› rfl rfl rfl rfl

theorem repeatGroup_kept {qs : Keep} (s : State) (g : Nat) (hs : Kept qs s) : Kept qs (repeatGroup s g) := by
  unfold repeatGroup
  repeat' first
    | with_reducible (first | assumption | intro _ | apply State.onCold_kept | apply State.onVault_kept | apply forAll_kept | apply putRoot_kept
                            | apply groupSteps_kept | apply touchBlock_kept)
    | (extract_lets +onlyGivenNames x; first | (refine Kept.cut (qs := qs) x ?_ fun hx => ?_; subst x; rotate_left; clear_value x; rotate_left) | subst x)
    | split
    | exact Kept.same ‹_› rfl rfl rfl rfl

theorem repeatUpdates_kept {qs : Keep} (s : State) (hs : Kept qs s) : Kept qs (repeatUpdates s) := by
  unfold repeatUpdates
  with_reducible repeat' first | assumption | apply forAll_kept | apply repeatGroup_kept

theorem account_kept {qs : Keep} (p : Nat) (a m : MapEntry) (s : State) (hs : Kept qs s) : Kept qs (account p a m s) := by
  unfold account
  repeat' first
    | with_reducible (first | assumption | intro _ | apply State.onCold_kept)
    | split

theorem injectEntry_kept {qs : Keep} (sl : Nat) (e : BitVec 128) (s : State) (hs : Kept qs s) : Kept qs (injectEntry sl e s).2 := by
  unfold injectEntry
  repeat' first
    | with_reducible (first | assumption | apply fire_kept)
    | split

theorem putSram_kept {qs : Keep} (p : Nat) (e : BitVec 128) (s : State) (hs : Kept qs s) : Kept qs (putSram p e s) := by
  unfold putSram
  repeat' first
    | with_reducible (first | assumption | intro _ | apply State.updSlice_kept | apply forAll_kept | apply injectEntry_kept)
    | (extract_lets +onlyGivenNames x; subst x)
    | split

theorem putEntry_kept {qs : Keep} (p : Nat) (m : MapEntry) (s : State) (hs : Kept qs s) : Kept qs (putEntry p m s) := by
  unfold putEntry
  repeat' first
    | with_reducible (first | assumption | intro _ | apply State.setFld_kept | apply State.onHot_kept | apply loadBlock_kept | apply account_kept
                            | apply putSram_kept)
    | (extract_lets +onlyGivenNames x; first | (refine Kept.cut (qs := qs) x ?_ fun hx => ?_; subst x; rotate_left; clear_value x; rotate_left) | subst x)
    | split

theorem updEntry_kept {qs : Keep} (p : Nat) (f : MapEntry → MapEntry) (s : State) (hs : Kept qs s) : Kept qs (updEntry p f s) := by
  unfold updEntry
  with_reducible repeat' first | assumption | apply putEntry_kept

theorem setSeg_kept {qs : Keep} (g : Nat) (st : SegState) (s : State) (hs : Kept qs s) : Kept qs (setSeg g st s) := by
  unfold setSeg
  with_reducible repeat' first | assumption | intro _ | apply State.onCold_kept

theorem addLive_kept {qs : Keep} (seam n : Nat) (s : State) (hs : Kept qs s) : Kept qs (addLive seam n s) := by
  unfold addLive
  with_reducible repeat' first | assumption | intro _ | apply State.onCold_kept

theorem subLive_kept {qs : Keep} (seam n : Nat) (s : State) (hs : Kept qs s) : Kept qs (subLive seam n s) := by
  unfold subLive
  with_reducible repeat' first | assumption | intro _ | apply State.onCold_kept

theorem clearCover_kept {qs : Keep} (g : Nat) (s : State) (hs : Kept qs s) : Kept qs (clearCover g s) := by
  unfold clearCover
  with_reducible repeat' first | assumption | apply State.onDcm_kept

theorem freeSegment_kept {qs : Keep} (g : Nat) (s : State) (hs : Kept qs s) : Kept qs (freeSegment g s) := by
  unfold freeSegment
  repeat' first
    | with_reducible (first | assumption | intro _ | apply clearCover_kept | refine Kept.pending (qs := qs) ?_ | refine Kept.regs (qs := qs) ?_
                            | refine Kept.lines (qs := qs) ?_ | refine Kept.stitches (qs := qs) ?_)
    | dsimp only
    | (with_reducible refine Kept.of_parts ?_ ?_ ?_ ?_ <;> dsimp only)

theorem mediaRecord_kept {qs : Keep} (lg p l pages : Nat) (corrected inj : Bool) (s : State) (hs : Kept qs s) : Kept qs (mediaRecord lg p l pages
    corrected inj s) := by
  unfold mediaRecord
  repeat' first
    | with_reducible (first | assumption | intro _ | apply State.updLd_kept | apply forAll_kept | apply State.deliver_kept)
    | (extract_lets +onlyGivenNames x; first | (refine Kept.cut (qs := qs) x ?_ fun hx => ?_; subst x; rotate_left; clear_value x; rotate_left) | subst x)
    | split

theorem mediaEvent_kept {qs : Keep} (lg p l pages : Nat) (corrected : Bool) (s : State) (hs : Kept qs s) : Kept qs (mediaEvent lg p l pages
    corrected s) := by
  unfold mediaEvent
  with_reducible repeat' first | assumption | apply keepRecord_kept | apply mediaRecord_kept

theorem clearPoison_kept {qs : Keep} (p : Nat) (gone : Nat → Bool) (s : State) (hs : Kept qs s) : Kept qs (clearPoison p gone s) := by
  unfold clearPoison
  repeat' first
    | with_reducible (first | assumption | intro _ | refine Kept.pending (qs := qs) ?_ | refine Kept.regs (qs := qs) ?_
                            | refine Kept.lines (qs := qs) ?_ | refine Kept.stitches (qs := qs) ?_)
    | dsimp only
    | (with_reducible refine Kept.of_parts ?_ ?_ ?_ ?_ <;> dsimp only)

theorem startJob_kept {qs : Keep} (p : Nat) (i : Image) (u : JobUse) (s : State) (hs : Kept qs s) : Kept qs (startJob p i u s).2 := by
  unfold startJob
  with_reducible repeat' first | assumption | intro _ | apply State.fresh_kept | apply State.onCold_kept

theorem updJob_kept {qs : Keep} (id : Nat) (f : ReadJob → ReadJob) (s : State) (hs : Kept qs s) : Kept qs (updJob id f s) := by
  unfold updJob
  with_reducible repeat' first | assumption | intro _ | apply State.onCold_kept

theorem endJob_kept {qs : Keep} (id : Nat) (s : State) (hs : Kept qs s) : Kept qs (endJob id s) := by
  unfold endJob
  repeat' first
    | with_reducible (first | assumption | intro _ | apply State.onCold_kept | apply forAll_kept | apply touchDomain_kept)
    | (extract_lets +onlyGivenNames x; first | (refine Kept.cut (qs := qs) x ?_ fun hx => ?_; subst x; rotate_left; clear_value x; rotate_left) | subst x)

theorem updOp_kept {qs : Keep} (p : Nat) (f : PageOp → PageOp) (s : State) (hs : Kept qs s) : Kept qs (updOp p f s) := by
  unfold updOp
  with_reducible repeat' first | assumption | intro _ | apply State.onCold_kept

theorem closeOp_kept {qs : Keep} (p : Nat) (s : State) (hs : Kept qs s) : Kept qs (closeOp p s) := by
  unfold closeOp
  repeat' first
    | with_reducible (first | assumption | intro _ | apply State.onCold_kept | apply forAll_kept | apply touchDomain_kept)
    | (extract_lets +onlyGivenNames x; first | (refine Kept.cut (qs := qs) x ?_ fun hx => ?_; subst x; rotate_left; clear_value x; rotate_left) | subst x)

theorem meter_kept {qs : Keep} (port n : Nat) (s : State) (hs : Kept qs s) : Kept qs (meter port n s).2 := by
  unfold meter
  repeat' first
    | with_reducible (first | assumption | apply State.onQos_kept)
    | split
    | exact Kept.same ‹_› rfl rfl rfl rfl

theorem beginOp_kept {qs : Keep} (k : OpKind) (p port : Nat) (frame : Option Nat) (s0 : State) (hs0 : Kept qs s0) : Kept qs (beginOp k p port frame
    s0) := by
  unfold beginOp
  repeat' first
    | with_reducible (first | assumption | intro _ | apply State.onCold_kept | apply startJob_kept | apply meter_kept | apply LinesWf.put
                            | apply LinesWf.keep | exact LinesWf.nil | apply StitchesWf.put | apply StitchesWf.keep | exact StitchesWf.nil
                            | refine Kept.pending (qs := qs) ?_ | refine Kept.regs (qs := qs) ?_ | refine Kept.lines (qs := qs) ?_
                            | refine Kept.stitches (qs := qs) ?_)
    | (extract_lets +onlyGivenNames x; first | (refine Kept.cut (qs := qs) x ?_ fun hx => ?_; subst x; rotate_left; clear_value x; rotate_left) | subst x)
    | split
    | refine Kept.of_pair ‹_ = (_, _)› ?_
    | dsimp only
    | (with_reducible refine Kept.of_parts ?_ ?_ ?_ ?_ <;> dsimp only)

theorem queueOpOf_kept {qs : Keep} (who : Agent) (k : OpKind) (p port : Nat) (s : State) (hs : Kept qs s) : Kept qs (queueOpOf who k p port s).2 := by
  unfold queueOpOf
  repeat' first
    | with_reducible (first | assumption | intro _ | apply State.count_kept | apply State.fresh_kept | refine Kept.pending (qs := qs) ?_
                            | refine Kept.regs (qs := qs) ?_ | refine Kept.lines (qs := qs) ?_ | refine Kept.stitches (qs := qs) ?_)
    | (extract_lets +onlyGivenNames x; first | (refine Kept.cut (qs := qs) x ?_ fun hx => ?_; subst x; rotate_left; clear_value x; rotate_left) | subst x)
    | split
    | refine Kept.of_pair ‹_ = (_, _)› ?_
    | dsimp only
    | (with_reducible refine Kept.of_parts ?_ ?_ ?_ ?_ <;> dsimp only)

theorem queueOp_kept {qs : Keep} (k : OpKind) (p port : Nat) (s : State) (hs : Kept qs s) : Kept qs (queueOp k p port s) := by
  unfold queueOp
  repeat' first
    | with_reducible (first | assumption | apply queueOpOf_kept)
    | refine Kept.of_pair ‹_ = (_, _)› ?_

theorem askOp_kept {qs : Keep} (k : OpKind) (p port : Nat) (s : State) (hs : Kept qs s) : Kept qs (askOp k p port s) := by
  unfold askOp
  repeat' first
    | with_reducible (first | assumption | intro _ | apply beginOp_kept | apply queueOp_kept | refine Kept.pending (qs := qs) ?_
                            | refine Kept.regs (qs := qs) ?_ | refine Kept.lines (qs := qs) ?_ | refine Kept.stitches (qs := qs) ?_)
    | split
    | dsimp only
    | (with_reducible refine Kept.of_parts ?_ ?_ ?_ ?_ <;> dsimp only)

theorem updStream_kept {qs : Keep} (key : Nat) (f : AppendStream → AppendStream) (s : State) (hs : Kept qs s) : Kept qs (updStream key f s) := by
  unfold updStream
  with_reducible repeat' first | assumption | intro _ | apply State.onCold_kept

theorem nextSeam_kept {qs : Keep} (key : Nat) (rest : List Stitch) (s : State) (hs : Kept qs s) : Kept qs (nextSeam key rest s) := by
  unfold nextSeam
  repeat' first
    | with_reducible (first | assumption | intro _ | apply setSeg_kept | apply updStream_kept)
    | (extract_lets +onlyGivenNames x; subst x)
    | split

theorem writeFull_kept {qs : Keep} (key : Nat) (s : State) (hs : Kept qs s) : Kept qs (writeFull key s) := by
  unfold writeFull
  repeat' first
    | with_reducible (first | assumption | intro _ | apply issueSeam_kept | apply nextSeam_kept)
    | (extract_lets +onlyGivenNames x; subst x)
    | split

theorem sealStream_kept {qs : Keep} (key : Nat) (s : State) (hs : Kept qs s) : Kept qs (sealStream key s) := by
  unfold sealStream
  repeat' first
    | with_reducible (first | assumption | intro _ | apply State.count_kept | apply updStream_kept | apply writeFull_kept)
    | (extract_lets +onlyGivenNames x; subst x)
    | split

theorem sealAll_kept {qs : Keep} (s : State) (hs : Kept qs s) : Kept qs (sealAll s) := by
  unfold sealAll
  with_reducible repeat' first | assumption | intro _ | apply forAll_kept | apply sealStream_kept

theorem openSegment_kept {qs : Keep} (key : Nat) (s : State) (hs : Kept qs s) : Kept qs (openSegment key s) := by
  unfold openSegment
  repeat' first
    | with_reducible (first | assumption | apply State.setBit_kept | apply setSeg_kept | apply updStream_kept)
    | split

theorem placeImage_kept {qs : Keep} (key p : Nat) (img : List Nat) (s : State) (hs : Kept qs s) : KeptOptP qs (placeImage key p img s) := by
  unfold placeImage
  repeat' first
    | with_reducible (first | assumption | intro _ | apply updStream_kept | apply writeFull_kept | apply sealStream_kept | apply openSegment_kept
                            | exact KeptOptP.of_none | apply KeptOptP.of_some)
    | (extract_lets +onlyGivenNames x; first | (refine Kept.cut (qs := qs) x ?_ fun hx => ?_; subst x; rotate_left; clear_value x; rotate_left) | subst x)
    | split

theorem commitImage_kept {qs : Keep} (ty p : Nat) (new : Image) (f : MapEntry → MapEntry) (s : State) (hs : Kept qs s) : Kept qs (commitImage ty p
    new f s) := by
  unfold commitImage
  repeat' first
    | with_reducible (first | assumption | intro _ | apply appendRecord_kept | apply updEntry_kept | apply addLive_kept | apply subLive_kept)
    | (extract_lets +onlyGivenNames x; first | (refine Kept.cut (qs := qs) x ?_ fun hx => ?_; subst x; rotate_left; clear_value x; rotate_left) | subst x)
    | split

theorem commitFree_kept {qs : Keep} (ty p : Nat) (f : MapEntry → MapEntry) (s : State) (hs : Kept qs s) : Kept qs (commitFree ty p f s) := by
  unfold commitFree
  repeat' first
    | with_reducible (first | assumption | intro _ | apply appendRecord_kept | apply updEntry_kept | apply subLive_kept)
    | (extract_lets +onlyGivenNames x; first | (refine Kept.cut (qs := qs) x ?_ fun hx => ?_; subst x; rotate_left; clear_value x; rotate_left) | subst x)
    | split

end Sys2Proof.Machine
end

