-- ==== Sys2Proof/Laws/KeptHotOps.lean ====
section
/-! SUPPORT. What the operations of Machine/HotOps.lean keep: the queue, and the canonical form of the stores. -/
namespace Sys2Proof.Machine

open Sys2Proof

theorem updDesc_kept {qs : Keep} (f : Nat) (g : FrameDesc → FrameDesc) (s : State) (hs : Kept qs s) : Kept qs (updDesc f g s) := by
  unfold updDesc
  with_reducible repeat' first | assumption | intro _ | apply State.onHot_kept

theorem setLine_kept {qs : Keep} (f l : Nat) (v : Line) (s : State) (hs : Kept qs s) : Kept qs (setLine f l v s) := by
  unfold setLine
  with_reducible repeat' first | assumption | intro _ | apply State.onHot_kept | apply LinesWf.put

theorem clearFrame_kept {qs : Keep} (f : Nat) (d : FrameDesc) (s : State) (hs : Kept qs s) : Kept qs (clearFrame f d s) := by
  unfold clearFrame
  repeat' first
    | with_reducible (first | assumption | intro _ | apply State.onHot_kept | apply LinesWf.put | apply LinesWf.keep | exact LinesWf.nil
                            | refine Kept.pending (qs := qs) ?_ | refine Kept.regs (qs := qs) ?_ | refine Kept.lines (qs := qs) ?_
                            | refine Kept.stitches (qs := qs) ?_)
    | dsimp only
    | (with_reducible refine Kept.of_parts ?_ ?_ ?_ ?_ <;> dsimp only)

theorem retireFrame_kept {qs : Keep} (f : Nat) (s : State) (hs : Kept qs s) : Kept qs (retireFrame f s) := by
  unfold retireFrame
  with_reducible repeat' first | assumption | intro _ | apply State.count_kept | apply clearFrame_kept

theorem freeFrame_kept {qs : Keep} (f : Nat) (s : State) (hs : Kept qs s) : Kept qs (freeFrame f s) := by
  unfold freeFrame
  repeat' first
    | with_reducible (first | assumption | intro _ | apply clearFrame_kept | apply retireFrame_kept)
    | split

theorem touchHeat_kept {qs : Keep} (p inc : Nat) (s : State) (hs : Kept qs s) : Kept qs (touchHeat p inc s) := by
  unfold touchHeat
  repeat' first
    | with_reducible (first | assumption | intro _ | apply putEntry_kept | apply updDesc_kept)
    | (extract_lets +onlyGivenNames x; first | (refine Kept.cut (qs := qs) x ?_ fun hx => ?_; subst x; rotate_left; clear_value x; rotate_left) | subst x)
    | split

theorem openColdFill_kept {qs : Keep} (p f : Nat) (i : Image) (s : State) (hs : Kept qs s) : Kept qs (openColdFill p f i s) := by
  unfold openColdFill
  with_reducible repeat' first | assumption | intro _ | apply State.onHot_kept | apply startJob_kept | apply updDesc_kept

theorem openFrameFill_kept {qs : Keep} (p f old : Nat) (s : State) (hs : Kept qs s) : Kept qs (openFrameFill p f old s) := by
  unfold openFrameFill
  with_reducible repeat' first | assumption | intro _ | apply State.onHot_kept | apply updDesc_kept

theorem closeFill_kept {qs : Keep} (p : Nat) (s : State) (hs : Kept qs s) : Kept qs (closeFill p s) := by
  unfold closeFill
  with_reducible repeat' first | assumption | intro _ | apply State.onHot_kept

theorem dropFill_kept {qs : Keep} (p : Nat) (s : State) (hs : Kept qs s) : Kept qs (dropFill p s) := by
  unfold dropFill
  repeat' first
    | with_reducible (first | assumption | apply endJob_kept | apply freeFrame_kept | apply closeFill_kept)
    | split
    | exact Kept.same ‹_› rfl rfl rfl rfl

theorem setMarks_kept {qs : Keep} (p : Nat) (k : BitVec 64) (s : State) (hs : Kept qs s) : Kept qs (setMarks p k s) := by
  unfold setMarks
  repeat' first
    | with_reducible (first | assumption | intro _ | apply State.onHot_kept)
    | exact Kept.same ‹_› rfl rfl rfl rfl

theorem askMark_kept {qs : Keep} (p : Nat) (s : State) (hs : Kept qs s) : Kept qs (askMark p s) := by
  unfold askMark
  repeat' first
    | with_reducible (first | assumption | apply askOp_kept)
    | split

theorem updBoth_kept {qs : Keep} (f : Nat) (g : FrameDesc → FrameDesc) (s : State) (hs : Kept qs s) : Kept qs (updBoth f g s) := by
  unfold updBoth
  repeat' first
    | with_reducible (first | assumption | apply updDesc_kept)
    | split
    | exact Kept.same ‹_› rfl rfl rfl rfl

theorem poisonLine_kept {qs : Keep} (p l : Nat) (s : State) (hs : Kept qs s) : Kept qs (poisonLine p l s) := by
  unfold poisonLine
  repeat' first
    | with_reducible (first | assumption | intro _ | apply setMarks_kept | apply askMark_kept | apply updBoth_kept)
    | (extract_lets +onlyGivenNames x; first | (refine Kept.cut (qs := qs) x ?_ fun hx => ?_; subst x; rotate_left; clear_value x; rotate_left) | subst x)
    | split

theorem poisonPage_kept {qs : Keep} (p : Nat) (s : State) (hs : Kept qs s) : Kept qs (poisonPage p s) := by
  unfold poisonPage
  repeat' first
    | with_reducible (first | assumption | intro _ | apply askOp_kept | apply setMarks_kept | apply updBoth_kept)
    | (extract_lets +onlyGivenNames x; first | (refine Kept.cut (qs := qs) x ?_ fun hx => ?_; subst x; rotate_left; clear_value x; rotate_left) | subst x)
    | split
    | exact Kept.same ‹_› rfl rfl rfl rfl

theorem takeFrames_kept {qs : Keep} (p f mf : Nat) (noimg : Bool) (poison : BitVec 64) (m : MapEntry) (s : State) (hs : Kept qs s) : Kept qs
    (takeFrames p f mf noimg poison m s) := by
  unfold takeFrames
  with_reducible repeat' first | assumption | intro _ | apply putEntry_kept | apply updDesc_kept

theorem makeMirror_kept {qs : Keep} (f mf : Nat) (s : State) (hs : Kept qs s) : Kept qs (makeMirror f mf s) := by
  unfold makeMirror
  repeat' first
    | with_reducible (first | assumption | intro _ | apply forAll_kept | apply updDesc_kept | apply setLine_kept)
    | (extract_lets +onlyGivenNames x; first | (refine Kept.cut (qs := qs) x ?_ fun hx => ?_; subst x; rotate_left; clear_value x; rotate_left) | subst x)
    | split
    | exact Kept.same ‹_› rfl rfl rfl rfl

theorem allocForWrite_kept {qs : Keep} (p : Nat) (s : State) (hs : Kept qs s) : KeptOpt qs (allocForWrite p s) := by
  unfold allocForWrite
  repeat' first
    | with_reducible (first | assumption | intro _ | apply putEntry_kept | apply updDesc_kept | apply openColdFill_kept | apply openFrameFill_kept
                            | apply dropFill_kept | apply takeFrames_kept | apply makeMirror_kept | apply KeptOpt.ite | exact KeptOpt.of_none
                            | apply KeptOpt.of_some | apply KeptOpt.map | apply KeptOpt.map_of)
    | (extract_lets +onlyGivenNames x; subst x)
    | split

theorem storeLine_kept {qs : Keep} (f l : Nat) (v : Line) (poison : Bool) (s : State) (hs : Kept qs s) : Kept qs (storeLine f l v poison s) := by
  unfold storeLine
  repeat' first
    | with_reducible (first | assumption | apply updDesc_kept | apply setLine_kept)
    | split

theorem writeLine_kept {qs : Keep} (p f l : Nat) (v : Line) (mask : BitVec 64) (poison : Bool) (s : State) (hs : Kept qs s) : KeptOpt qs (writeLine
    p f l v mask poison s) := by
  unfold writeLine
  repeat' first
    | with_reducible (first | assumption | intro _ | apply State.onHot_kept | apply clearPoison_kept | apply updDesc_kept | apply setLine_kept
                            | apply setMarks_kept | apply storeLine_kept | apply KeptOpt.ite | exact KeptOpt.of_none | apply KeptOpt.of_some
                            | apply KeptOpt.map | apply KeptOpt.map_of)
    | (extract_lets +onlyGivenNames x; first | (refine Kept.cut (qs := qs) x ?_ fun hx => ?_; subst x; rotate_left; clear_value x; rotate_left) | subst x)
    | split

theorem applyFill_kept {qs : Keep} (fl : Fill) (lines : BitVec 64) (data : List Line) (poison : BitVec 64) (failed : Bool) (s : State) (hs : Kept qs
    s) : Kept qs (applyFill fl lines data poison failed s) := by
  unfold applyFill
  repeat' first
    | with_reducible (first | assumption | intro _ | apply forAll_kept | apply updDesc_kept | apply setLine_kept)
    | (extract_lets +onlyGivenNames x; first | (refine Kept.cut (qs := qs) x ?_ fun hx => ?_; subst x; rotate_left; clear_value x; rotate_left) | subst x)
    | split

theorem releasePage_kept {qs : Keep} (p : Nat) (s : State) (hs : Kept qs s) : Kept qs (releasePage p s) := by
  unfold releasePage
  with_reducible repeat' first | assumption | apply putEntry_kept | apply freeFrame_kept | apply askMark_kept

theorem setPin_kept {qs : Keep} (p : Nat) (b : Bool) (s : State) (hs : Kept qs s) : Kept qs (setPin p b s) := by
  unfold setPin
  repeat' first
    | with_reducible (first | assumption | intro _ | apply putEntry_kept | apply updDesc_kept)
    | (extract_lets +onlyGivenNames x; first | (refine Kept.cut (qs := qs) x ?_ fun hx => ?_; subst x; rotate_left; clear_value x; rotate_left) | subst x)
    | split

theorem clearPin_kept {qs : Keep} (p : Nat) (s : State) (hs : Kept qs s) : Kept qs (clearPin p s) := by
  unfold clearPin
  repeat' first
    | with_reducible (first | assumption | intro _ | apply State.onHot_kept | apply setPin_kept)
    | split
    | exact Kept.same ‹_› rfl rfl rfl rfl

theorem pinWaits_kept {qs : Keep} (p : Nat) (s : State) (hs : Kept qs s) : Kept qs (pinWaits p s) := by
  unfold pinWaits
  repeat' first
    | with_reducible (first | assumption | intro _ | apply State.onHot_kept)
    | split

theorem pinPromote_kept {qs : Keep} (p : Nat) (s : State) (hs : Kept qs s) : Kept qs (pinPromote p s) := by
  unfold pinPromote
  repeat' first
    | with_reducible (first | assumption | intro _ | apply beginOp_kept | apply queueOp_kept | apply pinWaits_kept)
    | (extract_lets +onlyGivenNames x; subst x)
    | split

theorem applyPin_kept {qs : Keep} (p : Nat) (b : Bool) (s : State) (hs : Kept qs s) : Kept qs (applyPin p b s) := by
  unfold applyPin
  repeat' first
    | with_reducible (first | assumption | apply setPin_kept | apply clearPin_kept | apply pinPromote_kept)
    | split

theorem changePin_kept {qs : Keep} (p : Nat) (b : Bool) (s : State) (hs : Kept qs s) : Kept qs (changePin p b s) := by
  unfold changePin
  repeat' first
    | with_reducible (first | assumption | intro _ | apply State.fresh_kept | apply applyPin_kept | refine Kept.pending (qs := qs) ?_
                            | refine Kept.regs (qs := qs) ?_ | refine Kept.lines (qs := qs) ?_ | refine Kept.stitches (qs := qs) ?_)
    | (extract_lets +onlyGivenNames x; first | (refine Kept.cut (qs := qs) x ?_ fun hx => ?_; subst x; rotate_left; clear_value x; rotate_left) | subst x)
    | split
    | refine Kept.of_pair ‹_ = (_, _)› ?_
    | dsimp only
    | (with_reducible refine Kept.of_parts ?_ ?_ ?_ ?_ <;> dsimp only)

theorem unpin_kept {qs : Keep} (p : Nat) (s : State) (hs : Kept qs s) : Kept qs (unpin p s) := by
  unfold unpin
  repeat' first
    | with_reducible (first | assumption | intro _ | apply changePin_kept)
    | split

theorem servePins_kept {qs : Keep} (s : State) (hs : Kept qs s) : Kept qs (servePins s) := by
  unfold servePins
  repeat' first
    | with_reducible (first | assumption | intro _ | apply State.onHot_kept | apply forAll_kept | apply pinPromote_kept)
    | split

theorem grantRelease_kept {qs : Keep} (p : Nat) (s : State) (hs : Kept qs s) : Kept qs (grantRelease p s) := by
  unfold grantRelease
  repeat' first
    | with_reducible (first | assumption | intro _ | apply State.count_kept | apply releasePage_kept)
    | (extract_lets +onlyGivenNames x; first | (refine Kept.cut (qs := qs) x ?_ fun hx => ?_; subst x; rotate_left; clear_value x; rotate_left) | subst x)
    | split
    | exact Kept.same ‹_› rfl rfl rfl rfl

theorem tryRelease_kept {qs : Keep} (p : Nat) (s : State) (hs : Kept qs s) : Kept qs (tryRelease p s) := by
  unfold tryRelease
  repeat' first
    | with_reducible (first | assumption | intro _ | apply grantRelease_kept)
    | split

theorem loseLines_kept {qs : Keep} (p : Nat) (lost : BitVec 64) (s : State) (hs : Kept qs s) : Kept qs (loseLines p lost s) := by
  unfold loseLines
  repeat' first
    | with_reducible (first | assumption | intro _ | apply forAll_kept | apply mediaEvent_kept | apply poisonLine_kept)
    | exact Kept.same ‹_› rfl rfl rfl rfl

theorem holdMove_kept {qs : Keep} (f : Nat) (bad : BitVec 64) (s : State) (hs : Kept qs s) : Kept qs (holdMove f bad s) := by
  unfold holdMove
  repeat' first
    | with_reducible (first | assumption | intro _ | apply State.count_kept | apply State.onHot_kept)
    | (extract_lets +onlyGivenNames x; first | (refine Kept.cut (qs := qs) x ?_ fun hx => ?_; subst x; rotate_left; clear_value x; rotate_left) | subst x)
    | split
    | exact Kept.same ‹_› rfl rfl rfl rfl

theorem carryOver_kept {qs : Keep} (f nf : Nat) (away : BitVec 64) (s : State) (hs : Kept qs s) : Kept qs (carryOver f nf away s) := by
  unfold carryOver
  repeat' first
    | with_reducible (first | assumption | intro _ | apply State.onHot_kept | apply forAll_kept | apply putEntry_kept | apply setLine_kept
                            | apply retireFrame_kept | apply openColdFill_kept)
    | (extract_lets +onlyGivenNames x; first | (refine Kept.cut (qs := qs) x ?_ fun hx => ?_; subst x; rotate_left; clear_value x; rotate_left) | subst x)
    | split
    | exact Kept.same ‹_› rfl rfl rfl rfl

theorem moveDamaged_kept {qs : Keep} (f : Nat) (bad : BitVec 64) (both : Bool) (s : State) (hs : Kept qs s) : Kept qs (moveDamaged f bad both s) := by
  unfold moveDamaged
  repeat' first
    | with_reducible (first | assumption | intro _ | apply State.onHot_kept | apply forAll_kept | apply putEntry_kept | apply updDesc_kept
                            | apply setLine_kept | apply retireFrame_kept | apply freeFrame_kept | apply dropFill_kept | apply makeMirror_kept
                            | apply loseLines_kept | apply holdMove_kept | apply carryOver_kept)
    | (extract_lets +onlyGivenNames x; first | (refine Kept.cut (qs := qs) x ?_ fun hx => ?_; subst x; rotate_left; clear_value x; rotate_left) | subst x)
    | split

theorem resumeMoves_kept {qs : Keep} (s : State) (hs : Kept qs s) : Kept qs (resumeMoves s) := by
  unfold resumeMoves
  repeat' first
    | with_reducible (first | assumption | intro _ | apply forAll_kept | apply moveDamaged_kept)
    | split
    | exact Kept.same ‹_› rfl rfl rfl rfl

theorem frameError_kept {qs : Keep} (f : Nat) (bad : BitVec 64) (both inj : Bool) (s : State) (hs : Kept qs s) : Kept qs (frameError f bad both inj
    s) := by
  unfold frameError
  repeat' first
    | with_reducible (first | assumption | intro _ | apply State.count_kept | apply State.reportAs_kept | apply forAll_kept | apply setLine_kept
                            | apply moveDamaged_kept)
    | (extract_lets +onlyGivenNames x; first | (refine Kept.cut (qs := qs) x ?_ fun hx => ?_; subst x; rotate_left; clear_value x; rotate_left) | subst x)
    | split
    | exact Kept.same ‹_› rfl rfl rfl rfl

theorem checkDescs_kept {qs : Keep} (errs : DescErrors) (reads : Nat → Bool) (s : State) (hs : Kept qs s) : Kept qs (checkDescs errs reads s) := by
  unfold checkDescs
  repeat' first
    | with_reducible (first | assumption | intro _ | apply forAll_kept | apply frameError_kept)
    | split
    | exact Kept.same ‹_› rfl rfl rfl rfl

theorem openWriteback_kept {qs : Keep} (p port : Nat) (s : State) (hs : Kept qs s) : Kept qs (openWriteback p port s) := by
  unfold openWriteback
  repeat' first
    | with_reducible (first | assumption | intro _ | apply State.onHot_kept | apply beginOp_kept | apply updDesc_kept)
    | split

theorem holdWriteback_kept {qs : Keep} (p : Nat) (s : State) (hs : Kept qs s) : Kept qs (holdWriteback p s) := by
  unfold holdWriteback
  repeat' first
    | with_reducible (first | assumption | apply State.count_kept | apply State.onVault_kept)
    | split
    | exact Kept.same ‹_› rfl rfl rfl rfl

theorem startClean_kept {qs : Keep} (p port : Nat) (s : State) (hs : Kept qs s) : Kept qs (startClean p port s) := by
  unfold startClean
  repeat' first
    | with_reducible (first | assumption | apply openWriteback_kept | apply holdWriteback_kept)
    | split

theorem cleanPage_kept {qs : Keep} (p port : Nat) (s : State) (hs : Kept qs s) : Kept qs (cleanPage p port s) := by
  unfold cleanPage
  repeat' first
    | with_reducible (first | assumption | apply queueOp_kept | apply startClean_kept)
    | split

theorem mergePending_kept {qs : Keep} (p : Nat) (s : State) (hs : Kept qs s) : Kept qs (mergePending p s) := by
  unfold mergePending
  repeat' first
    | with_reducible (first | assumption | intro _ | apply State.onHot_kept | apply updDesc_kept)
    | (extract_lets +onlyGivenNames x; subst x)
    | split

theorem finishWriteback_kept {qs : Keep} (p : Nat) (written : Bool) (s : State) (hs : Kept qs s) : Kept qs (finishWriteback p written s) := by
  unfold finishWriteback
  repeat' first
    | with_reducible (first | assumption | intro _ | apply State.onHot_kept | apply updDesc_kept | apply freeFrame_kept)
    | (extract_lets +onlyGivenNames x; first | (refine Kept.cut (qs := qs) x ?_ fun hx => ?_; subst x; rotate_left; clear_value x; rotate_left) | subst x)
    | split

theorem abandonOp_kept {qs : Keep} (p : Nat) (s : State) (hs : Kept qs s) : Kept qs (abandonOp p s) := by
  unfold abandonOp
  repeat' first
    | with_reducible (first | assumption | intro _ | apply endJob_kept | apply closeOp_kept | apply pinWaits_kept | apply mergePending_kept)
    | (extract_lets +onlyGivenNames x; first | (refine Kept.cut (qs := qs) x ?_ fun hx => ?_; subst x; rotate_left; clear_value x; rotate_left) | subst x)
    | split
    | exact Kept.same ‹_› rfl rfl rfl rfl

theorem abandonPageOps_kept {qs : Keep} (s : State) (hs : Kept qs s) : Kept qs (abandonPageOps s) := by
  unfold abandonPageOps
  with_reducible repeat' first | assumption | intro _ | apply forAll_kept | apply abandonOp_kept

theorem loseDirty_kept {qs : Keep} (f : Nat) (s : State) (hs : Kept qs s) : Kept qs (loseDirty f s) := by
  unfold loseDirty
  repeat' first
    | with_reducible (first | assumption | apply putEntry_kept | apply mediaEvent_kept | apply freeFrame_kept | apply dropFill_kept
                            | apply poisonPage_kept | apply abandonOp_kept)
    | exact Kept.same ‹_› rfl rfl rfl rfl

theorem promoteMirror_kept {qs : Keep} (f mf : Nat) (s : State) (hs : Kept qs s) : Kept qs (promoteMirror f mf s) := by
  unfold promoteMirror
  repeat' first
    | with_reducible (first | assumption | intro _ | apply State.onHot_kept | apply putEntry_kept | apply updDesc_kept | apply freeFrame_kept
                            | apply abandonOp_kept)
    | (extract_lets +onlyGivenNames x; first | (refine Kept.cut (qs := qs) x ?_ fun hx => ?_; subst x; rotate_left; clear_value x; rotate_left) | subst x)
    | split
    | exact Kept.same ‹_› rfl rfl rfl rfl

theorem loseFrames_kept {qs : Keep} (lost : Nat → Bool) (s : State) (hs : Kept qs s) : Kept qs (loseFrames lost s) := by
  unfold loseFrames
  repeat' first
    | with_reducible (first | assumption | intro _ | apply State.onHot_kept | apply forAll_kept | apply startJob_kept | apply updDesc_kept
                            | apply freeFrame_kept | apply dropFill_kept | apply releasePage_kept | apply loseDirty_kept | apply promoteMirror_kept
                            | apply LinesWf.put | apply LinesWf.keep | exact LinesWf.nil | refine Kept.pending (qs := qs) ?_
                            | refine Kept.regs (qs := qs) ?_ | refine Kept.lines (qs := qs) ?_ | refine Kept.stitches (qs := qs) ?_)
    | (extract_lets +onlyGivenNames x; first | (refine Kept.cut (qs := qs) x ?_ fun hx => ?_; subst x; rotate_left; clear_value x; rotate_left) | subst x)
    | split

theorem releaseCleanShed_kept {qs : Keep} (st : Nat) (s : State) (hs : Kept qs s) : Kept qs (releaseCleanShed st s) := by
  unfold releaseCleanShed
  repeat' first
    | with_reducible (first | assumption | intro _ | apply State.count_kept | apply forAll_kept | apply dropFill_kept | apply releasePage_kept
                            | apply pinWaits_kept | apply abandonOp_kept | apply loseFrames_kept)
    | (extract_lets +onlyGivenNames x; first | (refine Kept.cut (qs := qs) x ?_ fun hx => ?_; subst x; rotate_left; clear_value x; rotate_left) | subst x)
    | split
    | exact Kept.same ‹_› rfl rfl rfl rfl

theorem loseBlocks_kept {qs : Keep} (lost : Nat → Bool) (then_ : State → State) (s : State) (hthen_ : ∀ a0, Kept qs a0 → Kept qs (then_ a0)) (hs :
    Kept qs s) : Kept qs (loseBlocks lost then_ s) := by
  unfold loseBlocks
  with_reducible repeat' first | assumption | intro _ | apply State.onHot_kept | apply forAll_kept | apply dropBlock_kept | apply loadBlock_kept
                               | apply hthen_

theorem dropAccesses_kept {qs : Keep} (hit : Nat → Bool) (s : State) (hs : Kept qs s) : Kept qs (dropAccesses hit s) := by
  unfold dropAccesses
  repeat' first
    | with_reducible (first | assumption | intro _ | refine Kept.pending (qs := qs) ?_ | refine Kept.regs (qs := qs) ?_
                            | refine Kept.lines (qs := qs) ?_ | refine Kept.stitches (qs := qs) ?_)
    | split
    | dsimp only
    | (with_reducible refine Kept.of_parts ?_ ?_ ?_ ?_ <;> dsimp only)

theorem fenceGroup_kept {qs : Keep} (st g : Nat) (s : State) (hs : Kept qs s) : Kept qs (fenceGroup st g s) := by
  unfold fenceGroup
  with_reducible repeat' first | assumption | apply State.setBitOf_kept | apply loseFrames_kept | apply loseBlocks_kept | apply dropAccesses_kept

theorem fenceStack_kept {qs : Keep} (st : Nat) (s : State) (hs : Kept qs s) : Kept qs (fenceStack st s) := by
  unfold fenceStack
  with_reducible repeat' first | assumption | apply State.setFld_kept | apply loseFrames_kept | apply loseBlocks_kept | apply dropAccesses_kept

end Sys2Proof.Machine
end

