-- ==== Sys2Proof/Laws/KeptKeyOps.lean ====
section
/-! SUPPORT. What the operations of Machine/KeyOps.lean keep: the queue, and the canonical form of the stores. -/
namespace Sys2Proof.Machine

open Sys2Proof

theorem setKeySrc_kept {qs : Keep} (k v : Nat) (s : State) (hs : Kept qs s) : Kept qs (setKeySrc k v s) := by
  unfold setKeySrc
  with_reducible repeat' first | assumption | apply State.setFld_kept

theorem trngKey_kept {qs : Keep} (k : Nat) (s : State) (hs : Kept qs s) : Kept qs (trngKey k s) := by
  unfold trngKey
  with_reducible repeat' first | assumption | apply State.spent_kept | apply State.onVault_kept | apply freshItem_kept | apply setKeySrc_kept

theorem ledgerKeyGen_kept {qs : Keep} (s : State) (hs : Kept qs s) : Kept qs (ledgerKeyGen s) := by
  unfold ledgerKeyGen
  with_reducible repeat' first | assumption | apply State.setFld_kept | apply State.spent_kept | apply State.onVault_kept | apply freshItem_kept

theorem closeWindow_kept {qs : Keep} (k : Nat) (s : State) (hs : Kept qs s) : Kept qs (closeWindow k s) := by
  unfold closeWindow
  repeat' first
    | with_reducible (first | assumption | intro _ | apply State.setBitOf_kept | apply State.onVault_kept | apply State.updLd_kept
                            | apply trngKey_kept)
    | (extract_lets +onlyGivenNames x; refine Kept.cut (qs := qs) x ?_ fun hx => ?_; subst x; rotate_left; clear_value x; rotate_left)
    | split

theorem enableKeyed_kept {qs : Keep} (s : State) (hs : Kept qs s) : Kept qs (enableKeyed s) := by
  unfold enableKeyed
  repeat' first
    | with_reducible (first | assumption | intro _ | apply State.updLd_kept | apply forAll_kept)
    | split

theorem lastEpochEvent_kept {qs : Keep} (k e : Nat) (s : State) (hs : Kept qs s) : Kept qs (lastEpochEvent k e s) := by
  unfold lastEpochEvent
  repeat' first
    | with_reducible (first | assumption | apply State.vendor_kept)
    | split

theorem advanceEpoch_kept {qs : Keep} (k : Nat) (s0 : State) (hs0 : Kept qs s0) : Kept qs (advanceEpoch k s0) := by
  unfold advanceEpoch
  repeat' first
    | with_reducible (first | assumption | intro _ | apply State.onVault_kept | apply useItem_kept | apply lastEpochEvent_kept)
    | (extract_lets +onlyGivenNames x; first | (refine Kept.cut (qs := qs) x ?_ fun hx => ?_; subst x; rotate_left; clear_value x; rotate_left) | subst x)
    | split
    | exact Kept.same ‹_› rfl rfl rfl rfl

theorem checkCounter_kept {qs : Keep} (k w : Nat) (s : State) (hs : Kept qs s) : Kept qs (checkCounter k w s) := by
  unfold checkCounter
  repeat' first
    | with_reducible (first | assumption | apply advanceEpoch_kept)
    | split

end Sys2Proof.Machine
end

