-- ==== Sys2Proof/Laws/KeptQosOps.lean ====
section
/-! SUPPORT. What the operations of Machine/QosOps.lean keep: the queue, and the canonical form of the stores. -/
namespace Sys2Proof.Machine

open Sys2Proof

theorem injectCharge_kept {qs : Keep} (i : Nat) (read write : Bool) (s : State) (hs : Kept qs s) : Kept qs (injectCharge i read write s).2 := by
  unfold injectCharge
  with_reducible repeat' first | assumption | apply State.updCinch_kept

theorem remainder_kept {qs : Keep} (r : Req) (write : Bool) (s : State) (hs : Kept qs s) : Kept qs (remainder r write s) := by
  unfold remainder
  repeat' first
    | with_reducible (first | assumption | apply State.updCinch_kept)
    | split

theorem accountReply_kept {qs : Keep} (r : Req) (s : State) (hs : Kept qs s) : Kept qs (accountReply r s) := by
  unfold accountReply
  repeat' first
    | with_reducible (first | assumption | intro _ | apply State.count_kept | apply State.wrapPair_kept | apply State.onQos_kept
                            | apply State.bytes_kept)
    | (extract_lets +onlyGivenNames x; first | (refine Kept.cut (qs := qs) x ?_ fun hx => ?_; subst x; rotate_left; clear_value x; rotate_left) | subst x)
    | split

theorem freeCinch_kept {qs : Keep} (i : Nat) (s : State) (hs : Kept qs s) : Kept qs (freeCinch i s) := by
  unfold freeCinch
  with_reducible repeat' first | assumption | apply State.onQos_kept

end Sys2Proof.Machine
end

