-- ==== Sys2Proof/Laws/KeptSliceOps.lean ====
section
/-! SUPPORT. What the operations of Machine/SliceOps.lean keep: the queue, and the canonical form of the stores. -/
namespace Sys2Proof.Machine

open Sys2Proof

theorem putFilter_kept {qs : Keep} (la : Nat) (x : FilterEntry) (s : State) (a : Nat × Bool) (hs : Kept qs s) : Kept qs (putFilter la x s a) := by
  unfold putFilter
  repeat' first
    | with_reducible (first | assumption | apply State.updSlice_kept)
    | split
    | exact Kept.same ‹_› rfl rfl rfl rfl

theorem setFilter_kept {qs : Keep} (la : Nat) (x : FilterEntry) (s : State) (hs : Kept qs s) : Kept qs (setFilter la x s) := by
  unfold setFilter
  repeat' first
    | with_reducible (first | assumption | intro _ | apply forAll_kept | apply putFilter_kept)
    | (extract_lets +onlyGivenNames x; subst x)
    | split

theorem updTxn_kept {qs : Keep} (sl id : Nat) (f : Txn → Txn) (s : State) (hs : Kept qs s) : Kept qs (updTxn sl id f s) := by
  unfold updTxn
  with_reducible repeat' first | assumption | apply State.updSlice_kept

theorem sendReply_kept {qs : Keep} (r : Req) (k : ReplyKind) (s : State) (hs : Kept qs s) : Kept qs (sendReply r k s) := by
  unfold sendReply
  repeat' first
    | with_reducible (first | assumption | intro _ | refine Kept.pending (qs := qs) ?_ | refine Kept.regs (qs := qs) ?_
                            | refine Kept.lines (qs := qs) ?_ | refine Kept.stitches (qs := qs) ?_)
    | split
    | dsimp only
    | (with_reducible refine Kept.of_parts ?_ ?_ ?_ ?_ <;> dsimp only)

theorem mirrorTxn_kept {qs : Keep} (r : Req) (s : State) (hs : Kept qs s) : Kept qs (mirrorTxn r s) := by
  unfold mirrorTxn
  with_reducible repeat' first | assumption | apply State.updSlice_kept

theorem finishTxn_kept {qs : Keep} (sl id : Nat) (k : ReplyKind) (s : State) (hs : Kept qs s) : Kept qs (finishTxn sl id k s) := by
  unfold finishTxn
  repeat' first
    | with_reducible (first | assumption | apply State.count_kept | apply State.updSlice_kept | apply touchIdle_kept | apply sendReply_kept)
    | split

theorem sendSnoops_kept {qs : Keep} (sl la : Nat) (kind : SnoopKind) (ks : List Nat) (s : State) (hs : Kept qs s) : Kept qs (sendSnoops sl la kind
    ks s) := by
  unfold sendSnoops
  repeat' first
    | with_reducible (first | assumption | intro _ | apply State.count_kept | apply State.emit_kept | apply forAll_kept | apply setFilter_kept)
    | (extract_lets +onlyGivenNames x; first | (refine Kept.cut (qs := qs) x ?_ fun hx => ?_; subst x; rotate_left; clear_value x; rotate_left) | subst x)
    | split

theorem deliverNack_kept {qs : Keep} (r : Req) (reason : Nat) (s : State) (hs : Kept qs s) : Kept qs (deliverNack r reason s) := by
  unfold deliverNack
  repeat' first
    | with_reducible (first | assumption | intro _ | refine Kept.pending (qs := qs) ?_ | refine Kept.regs (qs := qs) ?_
                            | refine Kept.lines (qs := qs) ?_ | refine Kept.stitches (qs := qs) ?_)
    | split
    | dsimp only
    | (with_reducible refine Kept.of_parts ?_ ?_ ?_ ?_ <;> dsimp only)

theorem holderRetried_kept {qs : Keep} (sl : Nat) (r : Req) (s : State) (hs : Kept qs s) : Kept qs (holderRetried sl r s) := by
  unfold holderRetried
  repeat' first
    | with_reducible (first | assumption | apply State.updSlice_kept)
    | split
    | exact Kept.same ‹_› rfl rfl rfl rfl

theorem nack_kept {qs : Keep} (sl reason : Nat) (r : Req) (s : State) (hs : Kept qs s) : Kept qs (nack sl reason r s) := by
  unfold nack
  repeat' first
    | with_reducible (first | assumption | intro _ | apply State.count_kept | apply State.updSlice_kept | apply deliverNack_kept
                            | apply holderRetried_kept)
    | (extract_lets +onlyGivenNames x; first | (refine Kept.cut (qs := qs) x ?_ fun hx => ?_; subst x; rotate_left; clear_value x; rotate_left) | subst x)
    | split

theorem advanceTicket_kept {qs : Keep} (sl key : Nat) (s : State) (hs : Kept qs s) : Kept qs (advanceTicket sl key s) := by
  unfold advanceTicket
  with_reducible repeat' first | assumption | apply State.updSlice_kept

theorem enqueueAccess_kept {qs : Keep} (sl id f : Nat) (write : Bool) (cls : Nat) (s : State) (hs : Kept qs s) : Kept qs (enqueueAccess sl id f
    write cls s) := by
  unfold enqueueAccess
  repeat' first
    | with_reducible (first | assumption | intro _ | apply State.updGroup_kept | apply updTxn_kept)
    | (extract_lets +onlyGivenNames x; first | (refine Kept.cut (qs := qs) x ?_ fun hx => ?_; subst x; rotate_left; clear_value x; rotate_left) | subst x)
    | split

theorem startWrite_kept {qs : Keep} (sl id : Nat) (s : State) (hs : Kept qs s) : Kept qs (startWrite sl id s) := by
  unfold startWrite
  repeat' first
    | with_reducible (first | assumption | apply State.count_kept | apply updOp_kept | apply allocForWrite_kept | apply updTxn_kept
                            | apply finishTxn_kept | apply enqueueAccess_kept)
    | split
    | refine KeptOpt.of_eq ‹_ = some _› ?_

theorem answerRead_kept {qs : Keep} (sl id : Nat) (v : Line) (poison : Bool) (s : State) (hs : Kept qs s) : Kept qs (answerRead sl id v poison s) :=
    by
  unfold answerRead
  with_reducible repeat' first | assumption | apply finishTxn_kept

theorem atomicRead_kept {qs : Keep} (sl id : Nat) (v : Line) (poison : Bool) (s : State) (hs : Kept qs s) : Kept qs (atomicRead sl id v poison s) :=
    by
  unfold atomicRead
  repeat' first
    | with_reducible (first | assumption | apply updTxn_kept | apply finishTxn_kept | apply startWrite_kept | apply answerRead_kept)
    | split

theorem coldRead_kept {qs : Keep} (sl id : Nat) (s : State) (hs : Kept qs s) : Kept qs (coldRead sl id s) := by
  unfold coldRead
  repeat' first
    | with_reducible (first | assumption | apply startJob_kept | apply remainder_kept | apply updTxn_kept)
    | split

theorem considerPromotion_kept {qs : Keep} (p : Nat) (s : State) (hs : Kept qs s) : Kept qs (considerPromotion p s) := by
  unfold considerPromotion
  repeat' first
    | with_reducible (first | assumption | intro _ | apply State.count_kept | apply beginOp_kept)
    | (extract_lets +onlyGivenNames x; subst x)
    | split

theorem readPage_kept {qs : Keep} (sl id : Nat) (t : Txn) (s : State) (hs : Kept qs s) : Kept qs (readPage sl id t s) := by
  unfold readPage
  repeat' first
    | with_reducible (first | assumption | intro _ | apply enqueueAccess_kept | apply atomicRead_kept | apply coldRead_kept)
    | (extract_lets +onlyGivenNames x; first | (refine Kept.cut (qs := qs) x ?_ fun hx => ?_; subst x; rotate_left; clear_value x; rotate_left) | subst x)
    | split
    | exact Kept.same ‹_› rfl rfl rfl rfl

theorem serve_kept {qs : Keep} (sl id : Nat) (s : State) (hs : Kept qs s) : Kept qs (serve sl id s) := by
  unfold serve
  repeat' first
    | with_reducible (first | assumption | intro _ | apply touchHeat_kept | apply remainder_kept | apply updTxn_kept | apply startWrite_kept
                            | apply considerPromotion_kept | apply readPage_kept)
    | (extract_lets +onlyGivenNames x; first | (refine Kept.cut (qs := qs) x ?_ fun hx => ?_; subst x; rotate_left; clear_value x; rotate_left) | subst x)
    | split

theorem lookup_kept {qs : Keep} (sl id : Nat) (s : State) (hs : Kept qs s) : Kept qs (lookup sl id s) := by
  unfold lookup
  repeat' first
    | with_reducible (first | assumption | apply State.reportInj_kept | apply State.updSlice_kept | apply updTxn_kept | apply serve_kept)
    | split

theorem endRecall_kept {qs : Keep} (k la : Nat) (s : State) (hs : Kept qs s) : Kept qs (endRecall k la s) := by
  unfold endRecall
  repeat' first
    | with_reducible (first | assumption | apply State.updLd_kept)
    | exact Kept.same ‹_› rfl rfl rfl rfl

theorem clearSnp_kept {qs : Keep} (la : Nat) (s : State) (hs : Kept qs s) : Kept qs (clearSnp la s) := by
  unfold clearSnp
  repeat' first
    | with_reducible (first | assumption | intro _ | apply setFilter_kept)
    | (extract_lets +onlyGivenNames x; first | (refine Kept.cut (qs := qs) x ?_ fun hx => ?_; subst x; rotate_left; clear_value x; rotate_left) | subst x)
    | split
    | exact Kept.same ‹_› rfl rfl rfl rfl

theorem snoopsDone_kept {qs : Keep} (sl id : Nat) (s : State) (hs : Kept qs s) : Kept qs (snoopsDone sl id s) := by
  unfold snoopsDone
  repeat' first
    | with_reducible (first | assumption | intro _ | apply touchHeat_kept | apply setFilter_kept | apply finishTxn_kept | apply answerRead_kept
                            | apply lookup_kept)
    | (extract_lets +onlyGivenNames x; first | (refine Kept.cut (qs := qs) x ?_ fun hx => ?_; subst x; rotate_left; clear_value x; rotate_left) | subst x)
    | split

theorem openTxn_kept {qs : Keep} (sl : Nat) (r : Req) (s : State) (hs : Kept qs s) : Kept qs (openTxn sl r s) := by
  unfold openTxn
  repeat' first
    | with_reducible (first | assumption | intro _ | apply State.count_kept | apply State.updSlice_kept | apply updTxn_kept | apply sendSnoops_kept
                            | apply snoopsDone_kept)
    | (extract_lets +onlyGivenNames x; first | (refine Kept.cut (qs := qs) x ?_ fun hx => ?_; subst x; rotate_left; clear_value x; rotate_left) | subst x)
    | split

theorem accept_kept {qs : Keep} (sl : Nat) (r : Req) (s : State) (hs : Kept qs s) : Kept qs (accept sl r s) := by
  unfold accept
  repeat' first
    | with_reducible (first | assumption | apply State.count_kept | apply State.updSlice_kept | apply updOp_kept | apply closeWindow_kept
                            | apply sendReply_kept | apply mirrorTxn_kept | apply advanceTicket_kept | apply serve_kept | apply openTxn_kept)
    | split

theorem grantOp_kept {qs : Keep} (k : OpKind) (r : Req) (s : State) (hs : Kept qs s) : Kept qs (grantOp k r s) := by
  unfold grantOp
  repeat' first
    | with_reducible (first | assumption | intro _ | apply State.count_kept | apply beginOp_kept | apply pinWaits_kept | apply grantRelease_kept
                            | apply startClean_kept)
    | (extract_lets +onlyGivenNames x; first | (refine Kept.cut (qs := qs) x ?_ fun hx => ?_; subst x; rotate_left; clear_value x; rotate_left) | subst x)
    | split

theorem answerLost_kept {qs : Keep} (r : Req) (s : State) (hs : Kept qs s) : Kept qs (answerLost r s) := by
  unfold answerLost
  repeat' first
    | with_reducible (first | assumption | apply touchHeat_kept | apply sendReply_kept)
    | split

theorem answerKeyless_kept {qs : Keep} (r : Req) (s : State) (hs : Kept qs s) : Kept qs (answerKeyless r s) := by
  unfold answerKeyless
  repeat' first
    | with_reducible (first | assumption | apply State.report_kept | apply closeWindow_kept | apply sendReply_kept)
    | split
    | exact Kept.same ‹_› rfl rfl rfl rfl

theorem deliver_kept {qs : Keep} (sl : Nat) (r : Req) (s : State) (hs : Kept qs s) : Kept qs (deliver sl r s) := by
  unfold deliver
  repeat' first
    | with_reducible (first | assumption | apply State.count_kept | apply applyPin_kept | apply sendReply_kept | apply deliverNack_kept
                            | apply nack_kept | apply advanceTicket_kept | apply serve_kept | apply accept_kept | apply grantOp_kept
                            | apply answerLost_kept | apply answerKeyless_kept)
    | split

theorem answerJob_kept {qs : Keep} (job : Nat) (res : Option (List Line × BitVec 64)) (s : State) (hs : Kept qs s) : Kept qs (answerJob job res s)
    := by
  unfold answerJob
  with_reducible repeat' first | assumption | intro _ | apply forAll_kept | apply atomicRead_kept

end Sys2Proof.Machine
end

