-- ==== Sys2Proof/Laws/KeptHeadOps.lean ====
section
/-! SUPPORT. What the operations of Machine/HeadOps.lean keep: the queue, and the canonical form of the stores. -/
namespace Sys2Proof.Machine

open Sys2Proof

theorem pathsUp_kept {qs : Keep} (s : State) (hs : Kept qs s) : Kept qs (pathsUp s) := by
  unfold pathsUp
  repeat' first
    | with_reducible (first | assumption | apply State.unexpose_kept)
    | split

theorem resetRange_kept {qs : Keep} (lo hi : Nat) (s : State) (hs : Kept qs s) : Kept qs (resetRange lo hi s) := by
  unfold resetRange
  repeat' first
    | with_reducible (first | assumption | intro _ | apply State.setReg_kept | apply Kept.foldl | apply Kept.foldl_second | apply Kept.foldl_third
                            | apply RegsWf.put | apply RegsWf.keep | apply RegsWf.mapAll | refine Kept.pending (qs := qs) ?_
                            | refine Kept.regs (qs := qs) ?_ | refine Kept.lines (qs := qs) ?_ | refine Kept.stitches (qs := qs) ?_)
    | (extract_lets +onlyGivenNames x; first | (refine Kept.cut (qs := qs) x ?_ fun hx => ?_; subst x; rotate_left; clear_value x; rotate_left) | subst x)
    | split
    | dsimp only
    | (with_reducible refine Kept.of_parts ?_ ?_ ?_ ?_ <;> dsimp only)

theorem updPen_kept {qs : Keep} (h id : Nat) (f : PenEntry → PenEntry) (s : State) (hs : Kept qs s) : Kept qs (updPen h id f s) := by
  unfold updPen
  with_reducible repeat' first | assumption | apply State.updHead_kept

theorem inject_kept {qs : Keep} (h id : Nat) (s : State) (hs : Kept qs s) : Kept qs (inject h id s) := by
  unfold inject
  repeat' first
    | with_reducible (first | assumption | intro _ | apply updPen_kept | refine Kept.pending (qs := qs) ?_ | refine Kept.regs (qs := qs) ?_
                            | refine Kept.lines (qs := qs) ?_ | refine Kept.stitches (qs := qs) ?_)
    | split
    | dsimp only
    | (with_reducible refine Kept.of_parts ?_ ?_ ?_ ?_ <;> dsimp only)

theorem penAdd_kept {qs : Keep} (h : Nat) (r : Req) (s : State) (hs : Kept qs s) : Kept qs (penAdd h r s) := by
  unfold penAdd
  repeat' first
    | with_reducible (first | assumption | intro _ | apply State.updHead_kept | apply inject_kept)
    | (extract_lets +onlyGivenNames x; first | (refine Kept.cut (qs := qs) x ?_ fun hx => ?_; subst x; rotate_left; clear_value x; rotate_left) | subst x)
    | split

theorem penFree_kept {qs : Keep} (h id : Nat) (s : State) (hs : Kept qs s) : Kept qs (penFree h id s) := by
  unfold penFree
  repeat' first
    | with_reducible (first | assumption | intro _ | apply State.emit_kept | apply State.updHead_kept | apply touchIdle_kept | apply inject_kept)
    | (extract_lets +onlyGivenNames x; refine Kept.cut (qs := qs) x ?_ fun hx => ?_; subst x; rotate_left; clear_value x; rotate_left)
    | split

theorem endUnserved_kept {qs : Keep} (h tag c : Nat) (k : ReqKind) (s : State) (hs : Kept qs s) : Kept qs (endUnserved h tag c k s) := by
  unfold endUnserved
  repeat' first
    | with_reducible (first | assumption | apply State.emit_kept)
    | split

theorem outside_kept {qs : Keep} (h tag c : Nat) (k : ReqKind) (s : State) (hs : Kept qs s) : Kept qs (outside h tag c k s) := by
  unfold outside
  with_reducible repeat' first | assumption | apply State.report_kept | apply endUnserved_kept

theorem askDistress_kept {qs : Keep} (p : Nat) (s : State) (hs : Kept qs s) : Kept qs (askDistress p s) := by
  unfold askDistress
  repeat' first
    | with_reducible (first | assumption | intro _ | apply askOp_kept)
    | (extract_lets +onlyGivenNames x; subst x)
    | split

theorem frozenWrite_kept {qs : Keep} (h tag c : Nat) (k : ReqKind) (p : Nat) (s : State) (hs : Kept qs s) : Kept qs (frozenWrite h tag c k p s) := by
  unfold frozenWrite
  repeat' first
    | with_reducible (first | assumption | apply State.count_kept | apply State.emit_kept | apply askDistress_kept)
    | split

theorem dropFrozen_kept {qs : Keep} (h : Nat) (r : Req) (s : State) (hs : Kept qs s) : Kept qs (dropFrozen h r s) := by
  unfold dropFrozen
  with_reducible repeat' first | assumption | apply penFree_kept | apply frozenWrite_kept

theorem dropFrozenPens_kept {qs : Keep} (s : State) (hs : Kept qs s) : Kept qs (dropFrozenPens s) := by
  unfold dropFrozenPens
  repeat' first
    | with_reducible (first | assumption | intro _ | apply forAll_kept | apply dropFrozen_kept)
    | exact Kept.same ‹_› rfl rfl rfl rfl

theorem takeIn_kept {qs : Keep} (h k a : Nat) (kind : ReqKind) (data : Line) (mask : BitVec 64) (poison : Bool) (m : MetaValue) (tag : Nat) (s :
    State) (hs : Kept qs s) : Kept qs (takeIn h k a kind data mask poison m tag s) := by
  unfold takeIn
  repeat' first
    | with_reducible (first | assumption | apply State.fresh_kept | apply State.bytes_kept | apply injectCharge_kept | apply penAdd_kept)
    | split

theorem request_kept {qs : Keep} (h k : Nat) (a : Option Nat) (kind : ReqKind) (data : Line) (mask : BitVec 64) (poison : Bool) (m : MetaValue) (tag
    : Nat) (s : State) (hs : Kept qs s) : Kept qs (request h k a kind data mask poison m tag s) := by
  unfold request
  repeat' first
    | with_reducible (first | assumption | intro _ | apply endUnserved_kept | apply outside_kept | apply frozenWrite_kept | apply takeIn_kept)
    | (extract_lets +onlyGivenNames x; subst x)
    | split

theorem startTraining_kept {qs : Keep} (h : Nat) (s : State) (hs : Kept qs s) : Kept qs (startTraining h s) := by
  unfold startTraining
  with_reducible repeat' first | assumption | apply State.updHead_kept

theorem retrain_kept {qs : Keep} (h : Nat) (s : State) (hs : Kept qs s) : Kept qs (retrain h s) := by
  unfold retrain
  with_reducible repeat' first | assumption | apply State.setFld_kept | apply State.emit_kept | apply startTraining_kept

theorem advanceHeadEpoch_kept {qs : Keep} (h : Nat) (s : State) (hs : Kept qs s) : Kept qs (advanceHeadEpoch h s) := by
  unfold advanceHeadEpoch
  repeat' first
    | with_reducible (first | assumption | apply State.setFld_kept | apply State.updHead_kept)
    | split

theorem injectHeld_kept {qs : Keep} (h : Nat) (s : State) (hs : Kept qs s) : Kept qs (injectHeld h s) := by
  unfold injectHeld
  repeat' first
    | with_reducible (first | assumption | intro _ | apply forAll_kept | apply inject_kept)
    | split
    | exact Kept.same ‹_› rfl rfl rfl rfl

theorem resetHead_kept {qs : Keep} (h : Nat) (s : State) (hs : Kept qs s) : Kept qs (resetHead h s) := by
  unfold resetHead
  repeat' first
    | with_reducible (first | assumption | intro _ | apply State.emit_kept | apply State.updHead_kept | apply resetRange_kept
                            | apply advanceHeadEpoch_kept | apply injectHeld_kept | refine Kept.pending (qs := qs) ?_
                            | refine Kept.regs (qs := qs) ?_ | refine Kept.lines (qs := qs) ?_ | refine Kept.stitches (qs := qs) ?_)
    | (extract_lets +onlyGivenNames x; first | (refine Kept.cut (qs := qs) x ?_ fun hx => ?_; subst x; rotate_left; clear_value x; rotate_left) | subst x)
    | split
    | dsimp only
    | (with_reducible refine Kept.of_parts ?_ ?_ ?_ ?_ <;> dsimp only)

theorem macFailure_kept {qs : Keep} (h : Nat) (st : IdeStream) (s : State) (hs : Kept qs s) : Kept qs (macFailure h st s) := by
  unfold macFailure
  with_reducible repeat' first | assumption | apply State.setFld_kept | apply State.emit_kept | apply State.report_kept | apply State.updHead_kept

theorem lostLine_kept {qs : Keep} (la : Nat) (s : State) (hs : Kept qs s) : Kept qs (lostLine la s) := by
  unfold lostLine
  with_reducible repeat' first | assumption | apply State.count_kept | apply mediaEvent_kept | apply poisonLine_kept

theorem tearEntry_kept {qs : Keep} (ks : List Nat) (s : State) (x : Nat × FilterEntry) (hs : Kept qs s) : Kept qs (tearEntry ks s x) := by
  unfold tearEntry
  repeat' first
    | with_reducible (first | assumption | intro _ | apply setFilter_kept | apply lostLine_kept | apply Kept.foldl)
    | (extract_lets +onlyGivenNames x; subst x)
    | split

theorem retryVictim_kept {qs : Keep} (sl id : Nat) (s : State) (hs : Kept qs s) : Kept qs (retryVictim sl id s) := by
  unfold retryVictim
  repeat' first
    | with_reducible (first | assumption | intro _ | apply State.count_kept | apply updTxn_kept | apply sendSnoops_kept | apply snoopsDone_kept)
    | (extract_lets +onlyGivenNames x; first | (refine Kept.cut (qs := qs) x ?_ fun hx => ?_; subst x; rotate_left; clear_value x; rotate_left) | subst x)
    | split
    | exact Kept.same ‹_› rfl rfl rfl rfl

theorem snoopAnswered_kept {qs : Keep} (sl id k : Nat) (s : State) (hs : Kept qs s) : Kept qs (snoopAnswered sl id k s) := by
  unfold snoopAnswered
  repeat' first
    | with_reducible (first | assumption | intro _ | apply setFilter_kept | apply updTxn_kept | apply sendSnoops_kept | apply clearSnp_kept
                            | apply snoopsDone_kept | apply retryVictim_kept)
    | (extract_lets +onlyGivenNames x; first | (refine Kept.cut (qs := qs) x ?_ fun hx => ?_; subst x; rotate_left; clear_value x; rotate_left) | subst x)
    | split

theorem dropSnoops_kept {qs : Keep} (k : Nat) (s : State) (hs : Kept qs s) : Kept qs (dropSnoops k s) := by
  unfold dropSnoops
  with_reducible repeat' first | assumption | intro _ | apply forAll_kept | apply snoopAnswered_kept

theorem dropRecalls_kept {qs : Keep} (k : Nat) (s : State) (hs : Kept qs s) : Kept qs (dropRecalls k s) := by
  unfold dropRecalls
  repeat' first
    | with_reducible (first | assumption | intro _ | apply State.updLd_kept | apply forAll_kept | apply clearSnp_kept)
    | (extract_lets +onlyGivenNames x; first | (refine Kept.cut (qs := qs) x ?_ fun hx => ?_; subst x; rotate_left; clear_value x; rotate_left) | subst x)
    | exact Kept.same ‹_› rfl rfl rfl rfl

theorem tearDown_kept {qs : Keep} (h : Nat) (s : State) (hs : Kept qs s) : Kept qs (tearDown h s) := by
  unfold tearDown
  repeat' first
    | with_reducible (first | assumption | intro _ | apply forAll_kept | apply tearEntry_kept | apply dropSnoops_kept | apply dropRecalls_kept
                            | refine Kept.pending (qs := qs) ?_ | refine Kept.regs (qs := qs) ?_ | refine Kept.lines (qs := qs) ?_
                            | refine Kept.stitches (qs := qs) ?_)
    | dsimp only
    | (with_reducible refine Kept.of_parts ?_ ?_ ?_ ?_ <;> dsimp only)

theorem dropFrames_kept {qs : Keep} (p : Nat) (s : State) (hs : Kept qs s) : Kept qs (dropFrames p s) := by
  unfold dropFrames
  repeat' first
    | with_reducible (first | assumption | intro _ | apply freeFrame_kept | apply dropFill_kept)
    | (extract_lets +onlyGivenNames x; first | (refine Kept.cut (qs := qs) x ?_ fun hx => ?_; subst x; rotate_left; clear_value x; rotate_left) | subst x)
    | split

theorem endDiscards_kept {qs : Keep} (s : State) (hs : Kept qs s) : Kept qs (endDiscards s) := by
  unfold endDiscards
  repeat' first
    | with_reducible (first | assumption | intro _ | apply State.onCold_kept)
    | exact Kept.same ‹_› rfl rfl rfl rfl

theorem discardCommit_kept {qs : Keep} (p : Nat) (s : State) (hs : Kept qs s) : Kept qs (discardCommit p s) := by
  unfold discardCommit
  with_reducible repeat' first | assumption | intro _ | apply clearPoison_kept | apply commitFree_kept | apply setMarks_kept | apply dropFrames_kept
                               | apply endDiscards_kept

theorem discardPage_kept {qs : Keep} (s : State) (p : Nat) (hs : Kept qs s) : Kept qs (discardPage s p) := by
  unfold discardPage
  repeat' first
    | with_reducible (first | assumption | apply queueOp_kept | apply discardCommit_kept)
    | split

theorem discardWalk_kept {qs : Keep} (p0 : Nat) (s : State) (hs : Kept qs s) : Kept qs (discardWalk p0 s) := by
  unfold discardWalk
  repeat' first
    | with_reducible (first | assumption | intro _ | apply forAll_kept | apply discardPage_kept)
    | split

theorem startDiscard_kept {qs : Keep} (k g p0 : Nat) (s : State) (hs : Kept qs s) : Kept qs (startDiscard k g p0 s) := by
  unfold startDiscard
  repeat' first
    | with_reducible (first | assumption | intro _ | apply State.onCold_kept | apply endDiscards_kept | apply discardWalk_kept)
    | exact Kept.same ‹_› rfl rfl rfl rfl

theorem resumeLedger_kept {qs : Keep} (s : State) (hs : Kept qs s) : Kept qs (resumeLedger s) := by
  unfold resumeLedger
  repeat' first
    | with_reducible (first | assumption | intro _ | apply forAll_kept | apply repeatUpdates_kept | apply discardWalk_kept)
    | (extract_lets +onlyGivenNames x; first | (refine Kept.cut (qs := qs) x ?_ fun hx => ?_; subst x; rotate_left; clear_value x; rotate_left) | subst x)
    | exact Kept.same ‹_› rfl rfl rfl rfl

theorem recallBlock_kept {qs : Keep} (k p0 : Nat) (s : State) (hs : Kept qs s) : Kept qs (recallBlock k p0 s) := by
  unfold recallBlock
  repeat' first
    | with_reducible (first | assumption | intro _ | apply State.updLd_kept | apply forAll_kept | apply sendSnoops_kept)
    | split
    | exact Kept.same ‹_› rfl rfl rfl rfl

theorem releaseDone_kept {qs : Keep} (k : Nat) (e : Extent) (s : State) (hs : Kept qs s) : Kept qs (releaseDone k e s) := by
  unfold releaseDone
  repeat' first
    | with_reducible (first | assumption | intro _ | apply State.setFld_kept | apply State.onCold_kept | apply State.updLd_kept
                            | apply startDiscard_kept)
    | (extract_lets +onlyGivenNames x; first | (refine Kept.cut (qs := qs) x ?_ fun hx => ?_; subst x; rotate_left; clear_value x; rotate_left) | subst x)
    | split

theorem finishReleases_kept {qs : Keep} (s : State) (k : Nat) (hs : Kept qs s) : Kept qs (finishReleases s k) := by
  unfold finishReleases
  repeat' first
    | with_reducible (first | assumption | intro _ | apply forAll_kept | apply recallBlock_kept | apply releaseDone_kept)
    | (extract_lets +onlyGivenNames x; first | (refine Kept.cut (qs := qs) x ?_ fun hx => ?_; subst x; rotate_left; clear_value x; rotate_left) | subst x)
    | split

end Sys2Proof.Machine
end

