-- ==== Sys2Proof/Laws/KeptNocOps.lean ====
section
/-! SUPPORT. What the operations of Machine/NocOps.lean keep: the queue, and the canonical form of the stores. -/
namespace Sys2Proof.Machine

open Sys2Proof

theorem streetDown_kept {qs : Keep} (c d : Nat) (s : State) (hs : Kept qs s) : Kept qs (streetDown c d s) := by
  unfold streetDown
  repeat' first
    | with_reducible (first | assumption | apply State.setFld_kept | apply State.onNoc_kept)
    | split

theorem crossingFail_kept {qs : Keep} (c : Nat) (s : State) (hs : Kept qs s) : Kept qs (crossingFail c s) := by
  unfold crossingFail
  repeat' first
    | with_reducible (first | assumption | apply State.setFld_kept | apply State.setBitOf_kept | apply State.onNoc_kept)
    | split

theorem setRoute_kept {qs : Keep} (copy inj : Bool) (node entry v : Nat) (s : State) (hs : Kept qs s) : Kept qs (setRoute copy inj node entry v s)
    := by
  unfold setRoute
  with_reducible repeat' first | assumption | apply State.onNoc_kept

theorem routeEntry_kept {qs : Keep} (copy : Bool) (e n : Nat) (s : State) (hs : Kept qs s) : Kept qs (routeEntry copy e n s) := by
  unfold routeEntry
  with_reducible repeat' first | assumption | intro _ | apply forAll_kept | apply setRoute_kept

theorem flipRoutes_kept {qs : Keep} (s : State) (hs : Kept qs s) : Kept qs (flipRoutes s) := by
  unfold flipRoutes
  repeat' first
    | with_reducible (first | assumption | apply State.setFld_kept | apply State.setBit_kept | apply State.onNoc_kept | apply pathsUp_kept)
    | split

theorem copyShadow_kept {qs : Keep} (s : State) (hs : Kept qs s) : Kept qs (copyShadow s) := by
  unfold copyShadow
  with_reducible repeat' first | assumption | apply State.onNoc_kept

theorem plazaReroute_kept {qs : Keep} (l : List (Nat × Nat)) (s : State) (hs : Kept qs s) : Kept qs (plazaReroute l s) := by
  unfold plazaReroute
  with_reducible repeat' first | assumption | intro _ | apply forAll_kept | apply routeEntry_kept | apply flipRoutes_kept | apply copyShadow_kept

theorem pushBuf_kept {qs : Keep} (k : Nat) (p : Packet) (s : State) (hs : Kept qs s) : Kept qs (pushBuf k p s) := by
  unfold pushBuf
  with_reducible repeat' first | assumption | apply State.onNoc_kept

theorem popBuf_kept {qs : Keep} (k : Nat) (s : State) (hs : Kept qs s) : Kept qs (popBuf k s) := by
  unfold popBuf
  with_reducible repeat' first | assumption | apply State.onNoc_kept

theorem countInject_kept {qs : Keep} (p : Packet) (s : State) (hs : Kept qs s) : Kept qs (countInject p s) := by
  unfold countInject
  repeat' first
    | with_reducible (first | assumption | apply State.onNoc_kept)
    | split

theorem countEject_kept {qs : Keep} (p : Packet) (s : State) (hs : Kept qs s) : Kept qs (countEject p s) := by
  unfold countEject
  repeat' first
    | with_reducible (first | assumption | apply State.onNoc_kept)
    | split

theorem crossingAnswer_kept {qs : Keep} (c : Nat) (p : Packet) (s : State) (hs : Kept qs s) : Kept qs (crossingAnswer c p s) := by
  unfold crossingAnswer
  with_reducible repeat' first | assumption | apply State.spent_kept | apply pushBuf_kept

theorem toLocal_kept {qs : Keep} (c o : Nat) (p : Packet) (s : State) (hs : Kept qs s) : Kept qs (toLocal c o p s).2 := by
  unfold toLocal
  repeat' first
    | with_reducible (first | assumption | intro _ | apply State.count_kept | apply State.report_kept | apply State.onNoc_kept
                            | apply crossingAnswer_kept | apply KeptOpt.ite | exact KeptOpt.of_none | apply KeptOpt.of_some)
    | (extract_lets +onlyGivenNames x; subst x)
    | split

theorem openGates_kept {qs : Keep} (d : Nat) (s : State) (hs : Kept qs s) : Kept qs (openGates d s) := by
  unfold openGates
  with_reducible repeat' first | assumption | apply State.onNoc_kept

theorem updTakeover_kept {qs : Keep} (e : Nat) (f : Takeover → Takeover) (s : State) (hs : Kept qs s) : Kept qs (updTakeover e f s) := by
  unfold updTakeover
  repeat' first
    | with_reducible (first | assumption | intro _ | refine Kept.pending (qs := qs) ?_ | refine Kept.regs (qs := qs) ?_
                            | refine Kept.lines (qs := qs) ?_ | refine Kept.stitches (qs := qs) ?_)
    | split
    | dsimp only
    | (with_reducible refine Kept.of_parts ?_ ?_ ?_ ?_ <;> dsimp only)

theorem takeSpare_kept {qs : Keep} (e : Nat) (s : State) (hs : Kept qs s) : Kept qs (takeSpare e s).2 := by
  unfold takeSpare
  repeat' first
    | with_reducible (first | assumption | intro _ | apply State.setFld_kept | apply KeptOpt.ite | exact KeptOpt.of_none | apply KeptOpt.of_some
                            | apply KeptOpt.map | apply KeptOpt.map_of)
    | (extract_lets +onlyGivenNames x; first | (refine Kept.cut (qs := qs) x ?_ fun hx => ?_; subst x; rotate_left; clear_value x; rotate_left) | subst x)
    | split
    | exact Kept.same ‹_› rfl rfl rfl rfl

theorem setRole_kept {qs : Keep} (n role entry entry2 : Nat) (s : State) (hs : Kept qs s) : Kept qs (setRole n role entry entry2 s) := by
  unfold setRole
  with_reducible repeat' first | assumption | apply State.setFld_kept

theorem replay_kept {qs : Keep} (e k b : Nat) (s : State) (hs : Kept qs s) : Kept qs (replay e k b s) := by
  unfold replay
  repeat' first
    | with_reducible (first | assumption | intro _ | apply State.updSlice_kept | apply forAll_kept | apply openTxn_kept
                            | refine Kept.pending (qs := qs) ?_ | refine Kept.regs (qs := qs) ?_ | refine Kept.lines (qs := qs) ?_
                            | refine Kept.stitches (qs := qs) ?_)
    | (extract_lets +onlyGivenNames x; subst x)
    | dsimp only
    | (with_reducible refine Kept.of_parts ?_ ?_ ?_ ?_ <;> dsimp only)

theorem loseFilter_kept {qs : Keep} (e : Nat) (s : State) (hs : Kept qs s) : Kept qs (loseFilter e s) := by
  unfold loseFilter
  repeat' first
    | with_reducible (first | assumption | intro _ | refine Kept.pending (qs := qs) ?_ | refine Kept.regs (qs := qs) ?_
                            | refine Kept.lines (qs := qs) ?_ | refine Kept.stitches (qs := qs) ?_)
    | (extract_lets +onlyGivenNames x; subst x)
    | split
    | dsimp only
    | (with_reducible refine Kept.of_parts ?_ ?_ ?_ ?_ <;> dsimp only)

theorem moveToSpare_kept {qs : Keep} (e sp : Nat) (s : State) (hs : Kept qs s) : Kept qs (moveToSpare e sp s) := by
  unfold moveToSpare
  with_reducible repeat' first | assumption | apply State.setFld_kept | apply plazaReroute_kept | apply updTakeover_kept | apply setRole_kept

theorem rerouteTakeovers_kept {qs : Keep} (s : State) (hs : Kept qs s) : Kept qs (rerouteTakeovers s) := by
  unfold rerouteTakeovers
  repeat' first
    | with_reducible (first | assumption | intro _ | apply plazaReroute_kept | apply moveToSpare_kept | refine Kept.pending (qs := qs) ?_
                            | refine Kept.regs (qs := qs) ?_ | refine Kept.lines (qs := qs) ?_ | refine Kept.stitches (qs := qs) ?_)
    | (extract_lets +onlyGivenNames x; first | (refine Kept.cut (qs := qs) x ?_ fun hx => ?_; subst x; rotate_left; clear_value x; rotate_left) | subst x)
    | split
    | dsimp only
    | (with_reducible refine Kept.of_parts ?_ ?_ ?_ ?_ <;> dsimp only)

theorem doubleFailure_kept {qs : Keep} (e k : Nat) (s : State) (hs : Kept qs s) : Kept qs (doubleFailure e k s) := by
  unfold doubleFailure
  repeat' first
    | with_reducible (first | assumption | intro _ | apply State.updSlice_kept | apply takeSpare_kept | apply loseFilter_kept
                            | refine Kept.pending (qs := qs) ?_ | refine Kept.regs (qs := qs) ?_ | refine Kept.lines (qs := qs) ?_
                            | refine Kept.stitches (qs := qs) ?_)
    | split
    | refine Kept.of_pair ‹_ = (_, _)› ?_
    | dsimp only
    | (with_reducible refine Kept.of_parts ?_ ?_ ?_ ?_ <;> dsimp only)

theorem sliceLost_kept {qs : Keep} (k : Nat) (s : State) (hs : Kept qs s) : Kept qs (sliceLost k s) := by
  unfold sliceLost
  repeat' first
    | with_reducible (first | assumption | intro _ | apply State.setFld_kept | apply State.updSlice_kept | apply forAll_kept
                            | apply updTakeover_kept | apply takeSpare_kept | apply setRole_kept | apply replay_kept | apply rerouteTakeovers_kept
                            | apply doubleFailure_kept | refine Kept.pending (qs := qs) ?_ | refine Kept.regs (qs := qs) ?_
                            | refine Kept.lines (qs := qs) ?_ | refine Kept.stitches (qs := qs) ?_)
    | (extract_lets +onlyGivenNames x; first | (refine Kept.cut (qs := qs) x ?_ fun hx => ?_; subst x; rotate_left; clear_value x; rotate_left) | subst x)
    | split
    | refine Kept.of_pair ‹_ = (_, _)› ?_
    | dsimp only
    | (with_reducible refine Kept.of_parts ?_ ?_ ?_ ?_ <;> dsimp only)

theorem becomeSpare_kept {qs : Keep} (n : Nat) (s : State) (hs : Kept qs s) : Kept qs (becomeSpare n s) := by
  unfold becomeSpare
  repeat' first
    | with_reducible (first | assumption | apply State.setFld_kept | apply State.updSlice_kept | apply setRole_kept)
    | split

theorem takeoverGuard_kept {qs : Keep} (s : State) (t : Takeover) (hs : Kept qs s) : Kept qs (takeoverGuard s t) := by
  unfold takeoverGuard
  repeat' first
    | with_reducible (first | assumption | intro _ | apply updTakeover_kept | apply setRole_kept | refine Kept.pending (qs := qs) ?_
                            | refine Kept.regs (qs := qs) ?_ | refine Kept.lines (qs := qs) ?_ | refine Kept.stitches (qs := qs) ?_)
    | (extract_lets +onlyGivenNames x; first | (refine Kept.cut (qs := qs) x ?_ fun hx => ?_; subst x; rotate_left; clear_value x; rotate_left) | subst x)
    | split
    | dsimp only
    | (with_reducible refine Kept.of_parts ?_ ?_ ?_ ?_ <;> dsimp only)

end Sys2Proof.Machine
end

