-- ==== Sys2Proof/Laws/KeptDramOps.lean ====
section
/-! SUPPORT. What the operations of Machine/DramOps.lean keep: the queue, and the canonical form of the stores. -/
namespace Sys2Proof.Machine

open Sys2Proof

theorem updDimm_kept {qs : Keep} (ch z : Nat) (f : DimmSlot → DimmSlot) (s : State) (hs : Kept qs s) : Kept qs (updDimm ch z f s) := by
  unfold updDimm
  with_reducible repeat' first | assumption | apply State.updDcc_kept

theorem setSlotState_kept {qs : Keep} (ch z v : Nat) (s : State) (hs : Kept qs s) : Kept qs (setSlotState ch z v s) := by
  unfold setSlotState
  with_reducible repeat' first | assumption | apply State.setFld_kept

theorem eraseRecord_kept {qs : Keep} (ch : Nat) (slot : Option Nat) (s : State) (hs : Kept qs s) : Kept qs (eraseRecord ch slot s) := by
  unfold eraseRecord
  with_reducible repeat' first | assumption | apply State.onFlash_kept

theorem writeRecord_kept {qs : Keep} (r : FenceRecord) (s : State) (hs : Kept qs s) : Kept qs (writeRecord r s) := by
  unfold writeRecord
  with_reducible repeat' first | assumption | apply State.onFlash_kept | apply eraseRecord_kept

theorem giveStitch_kept {qs : Keep} (id ch seam : Nat) (v : Option Stitch) (s : State) (hs : Kept qs s) : Kept qs (giveStitch id ch seam v s) := by
  unfold giveStitch
  with_reducible repeat' first | assumption | apply updJob_kept

theorem failReads_kept {qs : Keep} (ch : Nat) (p : Nat → Bool) (s : State) (hs : Kept qs s) : Kept qs (failReads ch p s) := by
  unfold failReads
  with_reducible repeat' first | assumption | intro _ | apply State.updDcc_kept | apply forAll_kept | apply giveStitch_kept

theorem settleDrain_kept {qs : Keep} (ch : Nat) (s : State) (hs : Kept qs s) : Kept qs (settleDrain ch s) := by
  unfold settleDrain
  repeat' first
    | with_reducible (first | assumption | intro _ | apply State.setFld_kept | apply State.updDcc_kept)
    | (extract_lets +onlyGivenNames x; first | (refine Kept.cut (qs := qs) x ?_ fun hx => ?_; subst x; rotate_left; clear_value x; rotate_left) | subst x)
    | split
    | exact Kept.same ‹_› rfl rfl rfl rfl

theorem dropWrites_kept {qs : Keep} (ch : Nat) (p : Nat → Bool) (s : State) (hs : Kept qs s) : Kept qs (dropWrites ch p s) := by
  unfold dropWrites
  with_reducible repeat' first | assumption | intro _ | apply State.updDcc_kept | apply forAll_kept | apply skipStitch_kept | apply settleDrain_kept

theorem flushWrites_kept {qs : Keep} (ch : Nat) (s : State) (hs : Kept qs s) : Kept qs (flushWrites ch s) := by
  unfold flushWrites
  with_reducible repeat' first | assumption | intro _ | apply State.setFld_kept | apply State.updDcc_kept | apply forAll_kept | apply putStitch_kept

theorem flushReads_kept {qs : Keep} (ch : Nat) (s : State) (hs : Kept qs s) : Kept qs (flushReads ch s) := by
  unfold flushReads
  with_reducible repeat' first | assumption | intro _ | apply State.updDcc_kept | apply forAll_kept | apply giveStitch_kept

theorem enterSelfRefresh_kept {qs : Keep} (ch : Nat) (s : State) (hs : Kept qs s) : Kept qs (enterSelfRefresh ch s) := by
  unfold enterSelfRefresh
  repeat' first
    | with_reducible (first | assumption | apply State.setFld_kept | apply State.updDcc_kept | apply flushWrites_kept | apply flushReads_kept)
    | exact Kept.same ‹_› rfl rfl rfl rfl

theorem leaveSelfRefresh_kept {qs : Keep} (ch : Nat) (s : State) (hs : Kept qs s) : Kept qs (leaveSelfRefresh ch s) := by
  unfold leaveSelfRefresh
  repeat' first
    | with_reducible (first | assumption | apply State.setFld_kept | apply State.updDcc_kept)
    | exact Kept.same ‹_› rfl rfl rfl rfl

theorem touchRow_kept {qs : Keep} (ch bank row : Nat) (keep : Bool) (s : State) (hs : Kept qs s) : Kept qs (touchRow ch bank row keep s) := by
  unfold touchRow
  with_reducible repeat' first | assumption | apply State.updDcc_kept

theorem arriveAt_kept {qs : Keep} (ch seam : Nat) (s : State) (hs : Kept qs s) : Kept qs (arriveAt ch seam s) := by
  unfold arriveAt
  repeat' first
    | with_reducible (first | assumption | apply State.updDcc_kept)
    | exact Kept.same ‹_› rfl rfl rfl rfl

theorem readRows_kept {qs : Keep} (seam : Nat) (chs : List Nat) (s : State) (hs : Kept qs s) : Kept qs (readRows seam chs s) := by
  unfold readRows
  repeat' first
    | with_reducible (first | assumption | intro _ | apply forAll_kept | apply touchRow_kept)
    | (extract_lets +onlyGivenNames x; first | (refine Kept.cut (qs := qs) x ?_ fun hx => ?_; subst x; rotate_left; clear_value x; rotate_left) | subst x)
    | exact Kept.same ‹_› rfl rfl rfl rfl

theorem drainWrites_kept {qs : Keep} (s : State) (hs : Kept qs s) : Kept qs (drainWrites s) := by
  unfold drainWrites
  with_reducible repeat' first | assumption | intro _ | apply forAll_kept | apply flushWrites_kept

theorem assignBlock_kept {qs : Keep} (op ch z b : Nat) (s : State) (hs : Kept qs s) : Kept qs (assignBlock op ch z b s) := by
  unfold assignBlock
  with_reducible repeat' first | assumption | apply State.setFld_kept | apply State.onDcm_kept | apply State.vendor_kept

theorem startCover_kept {qs : Keep} (op ch z : Nat) (s : State) (hs : Kept qs s) : Kept qs (startCover op ch z s) := by
  unfold startCover
  repeat' first
    | with_reducible (first | assumption | apply State.onDcm_kept | apply State.vendor_kept | apply assignBlock_kept)
    | split
    | exact Kept.same ‹_› rfl rfl rfl rfl

theorem serveBlocks_kept {qs : Keep} (s : State) (hs : Kept qs s) : Kept qs (serveBlocks s) := by
  unfold serveBlocks
  repeat' first
    | with_reducible (first | assumption | intro _ | apply forAll_kept | apply assignBlock_kept)
    | split

theorem freeTack_kept {qs : Keep} (b : Nat) (s : State) (hs : Kept qs s) : Kept qs (freeTack b s) := by
  unfold freeTack
  with_reducible repeat' first | assumption | apply State.setReg_kept | apply State.setFld_kept | apply State.onDcm_kept | apply State.vendor_kept
                               | apply checkpoint_kept | apply serveBlocks_kept

theorem coverRange_kept {qs : Keep} (ch z was : Nat) (s : State) (hs : Kept qs s) : Kept qs (coverRange ch z was s) := by
  unfold coverRange
  repeat' first
    | with_reducible (first | assumption | apply State.setFld_kept | apply State.vendor_kept | apply startCover_kept)
    | split

theorem failChannel_kept {qs : Keep} (ch cause : Nat) (s : State) (hs : Kept qs s) : Kept qs (failChannel ch cause s) := by
  unfold failChannel
  repeat' first
    | with_reducible (first | assumption | intro _ | apply State.setFld_kept | apply forAll_kept | apply State.fenceOff_kept
                            | apply State.expose_kept | apply writeRecord_kept | apply failReads_kept | apply dropWrites_kept)
    | (extract_lets +onlyGivenNames x; first | (refine Kept.cut (qs := qs) x ?_ fun hx => ?_; subst x; rotate_left; clear_value x; rotate_left) | subst x)
    | split

theorem coverAfterStart_kept {qs : Keep} (lvl : Nat) (s : State) (hs : Kept qs s) : Kept qs (coverAfterStart lvl s) := by
  unfold coverAfterStart
  repeat' first
    | with_reducible (first | assumption | intro _ | apply forAll_kept | apply startCover_kept)
    | split
    | exact Kept.same ‹_› rfl rfl rfl rfl

theorem failSlot_kept {qs : Keep} (ch z cause : Nat) (s : State) (hs : Kept qs s) : Kept qs (failSlot ch z cause s) := by
  unfold failSlot
  repeat' first
    | with_reducible (first | assumption | intro _ | apply State.setFld_kept | apply State.report_kept | apply State.onDcm_kept
                            | apply State.markFenced_kept | apply State.expose_kept | apply updDimm_kept | apply setSlotState_kept
                            | apply writeRecord_kept | apply failReads_kept | apply dropWrites_kept | apply coverRange_kept | apply failChannel_kept)
    | (extract_lets +onlyGivenNames x; first | (refine Kept.cut (qs := qs) x ?_ fun hx => ?_; subst x; rotate_left; clear_value x; rotate_left) | subst x)
    | split

theorem retireRank_kept {qs : Keep} (ch z r cause : Nat) (s : State) (hs : Kept qs s) : Kept qs (retireRank ch z r cause s) := by
  unfold retireRank
  repeat' first
    | with_reducible (first | assumption | intro _ | apply State.setBitOf_kept | apply State.report_kept | apply State.expose_kept
                            | apply updDimm_kept | apply failReads_kept | apply dropWrites_kept | apply coverRange_kept | apply failSlot_kept)
    | (extract_lets +onlyGivenNames x; first | (refine Kept.cut (qs := qs) x ?_ fun hx => ?_; subst x; rotate_left; clear_value x; rotate_left) | subst x)
    | split

theorem relocateSeam_kept {qs : Keep} (seam : Nat) (s : State) (hs : Kept qs s) : Kept qs (relocateSeam seam s) := by
  unfold relocateSeam
  with_reducible repeat' first | assumption | intro _ | apply forAll_kept | apply askOp_kept

theorem loseSeam_kept {qs : Keep} (seam : Nat) (s : State) (hs : Kept qs s) : Kept qs (loseSeam seam s) := by
  unfold loseSeam
  with_reducible repeat' first | assumption | intro _ | apply State.report_kept | apply forAll_kept | apply poisonPage_kept

theorem coverSeg_kept {qs : Keep} (b g : Nat) (ue : List (Nat × Nat)) (s : State) (hs : Kept qs s) : Kept qs (coverSeg b g ue s) := by
  unfold coverSeg
  refine State.onDcm_kept _ _ (forAll_kept _ _ _ (forAll_kept _ _ _ (forAll_kept _ _ _ hs fun t a ht => readRows_kept _ _ _ ht) fun t a ht =>
    writeSeamDirect_kept _ _ _ ht) fun t a ht => ?_)
  generalize a.2.2 = v
  cases v with
  | wrong _ => exact relocateSeam_kept _ _ ht
  | lost => exact loseSeam_kept _ _ ht
  | _ => exact ht

theorem restoreSeg_kept {qs : Keep} (ch g : Nat) (ue : List (Nat × Nat)) (s : State) (hs : Kept qs s) : Kept qs (restoreSeg ch g ue s) := by
  unfold restoreSeg
  repeat' first
    | with_reducible (first | assumption | intro _ | apply forAll_kept | apply putStitch_kept)
    | split

theorem slotServes_kept {qs : Keep} (ch z : Nat) (s : State) (hs : Kept qs s) : Kept qs (slotServes ch z s) := by
  unfold slotServes
  with_reducible repeat' first | assumption | apply State.setFld_kept | apply State.unfence_kept | apply State.unexpose_kept
                               | apply setSlotState_kept | apply eraseRecord_kept

theorem endOperation_kept {qs : Keep} (b : Nat) (s : State) (hs : Kept qs s) : Kept qs (endOperation b s) := by
  unfold endOperation
  repeat' first
    | with_reducible (first | assumption | apply State.setFld_kept | apply State.vendor_kept | apply setSlotState_kept | apply freeTack_kept
                            | apply slotServes_kept)
    | split

theorem unitDone_kept {qs : Keep} (b : Nat) (ue : List (Nat × Nat)) (s0 : State) (hs0 : Kept qs s0) : Kept qs (unitDone b ue s0) := by
  unfold unitDone
  repeat' first
    | with_reducible (first | assumption | intro _ | apply State.setFld_kept | apply State.onDcm_kept | apply forAll_kept | apply State.until_kept
                            | apply checkpoint_kept | apply coverSeg_kept | apply restoreSeg_kept | apply endOperation_kept)
    | (extract_lets +onlyGivenNames x; first | (refine Kept.cut (qs := qs) x ?_ fun hx => ?_; subst x; rotate_left; clear_value x; rotate_left) | subst x)
    | split
    | exact Kept.same ‹_› rfl rfl rfl rfl

theorem plainRestore_kept {qs : Keep} (ue : List (Nat × Nat)) (s : State) (hs : Kept qs s) : Kept qs (plainRestore ue s) := by
  unfold plainRestore
  repeat' first
    | with_reducible (first | assumption | intro _ | apply State.onDcm_kept | apply forAll_kept | apply restoreSeg_kept | apply slotServes_kept)
    | (extract_lets +onlyGivenNames x; refine Kept.cut (qs := qs) x ?_ fun hx => ?_; subst x; rotate_left; clear_value x; rotate_left)
    | split

theorem svcCode_kept {qs : Keep} (ch z code : Nat) (s : State) (hs : Kept qs s) : Kept qs (svcCode ch z code s) := by
  unfold svcCode
  with_reducible repeat' first | assumption | apply State.setFld_kept

theorem svcEvacuate_kept {qs : Keep} (ch z : Nat) (s : State) (hs : Kept qs s) : Kept qs (svcEvacuate ch z s) := by
  unfold svcEvacuate
  repeat' first
    | with_reducible (first | assumption | apply setSlotState_kept | apply assignBlock_kept | apply svcCode_kept)
    | split

theorem svcFence_kept {qs : Keep} (ch z : Nat) (s : State) (hs : Kept qs s) : Kept qs (svcFence ch z s) := by
  unfold svcFence
  repeat' first
    | with_reducible (first | assumption | intro _ | apply State.markFenced_kept | apply setSlotState_kept | apply writeRecord_kept
                            | apply flushWrites_kept | apply flushReads_kept | apply svcCode_kept)
    | (extract_lets +onlyGivenNames x; first | (refine Kept.cut (qs := qs) x ?_ fun hx => ?_; subst x; rotate_left; clear_value x; rotate_left) | subst x)
    | split

theorem svcReturn_kept {qs : Keep} (ch z : Nat) (s : State) (hs : Kept qs s) : Kept qs (svcReturn ch z s) := by
  unfold svcReturn
  repeat' first
    | with_reducible (first | assumption | intro _ | apply State.setFld_kept | apply updDimm_kept | apply setSlotState_kept | apply svcCode_kept)
    | (extract_lets +onlyGivenNames x; subst x)
    | split

theorem svcCancel_kept {qs : Keep} (ch z : Nat) (s : State) (hs : Kept qs s) : Kept qs (svcCancel ch z s) := by
  unfold svcCancel
  repeat' first
    | with_reducible (first | assumption | apply setSlotState_kept | apply freeTack_kept | apply svcCode_kept)
    | split

theorem svcCommand_kept {qs : Keep} (cmd ch z : Nat) (s : State) (hs : Kept qs s) : Kept qs (svcCommand cmd ch z s) := by
  unfold svcCommand
  repeat' first
    | with_reducible (first | assumption | apply svcEvacuate_kept | apply svcFence_kept | apply svcReturn_kept | apply svcCancel_kept)
    | split

theorem saveBlocks_kept {qs : Keep} (s : State) (hs : Kept qs s) : Kept qs (saveBlocks s) := by
  unfold saveBlocks
  repeat' first
    | with_reducible (first | assumption | apply State.onDcm_kept)
    | split

end Sys2Proof.Machine
end

