-- ==== Sys2Proof/Laws/KeptNmeOps.lean ====
section
/-! SUPPORT. What the operations of Machine/NmeOps.lean keep: the queue, and the canonical form of the stores. -/
namespace Sys2Proof.Machine

open Sys2Proof

theorem putRun_kept {qs : Keep} (x : Running) (s : State) (hs : Kept qs s) : Kept qs (putRun x s) := by
  unfold putRun
  with_reducible repeat' first | assumption | apply State.onNme_kept

theorem haltRing_kept {qs : Keep} (r idx c : Nat) (s : State) (hs : Kept qs s) : Kept qs (haltRing r idx c s) := by
  unfold haltRing
  repeat' first
    | with_reducible (first | assumption | apply State.setFld_kept)
    | split

theorem stopRuns_kept {qs : Keep} (c : Nat) (p : Running → Bool) (s : State) (hs : Kept qs s) : Kept qs (stopRuns c p s) := by
  unfold stopRuns
  repeat' first
    | with_reducible (first | assumption | intro _ | apply State.onNme_kept | apply forAll_kept | apply haltRing_kept
                            | refine Kept.pending (qs := qs) ?_ | refine Kept.regs (qs := qs) ?_ | refine Kept.lines (qs := qs) ?_
                            | refine Kept.stitches (qs := qs) ?_)
    | (extract_lets +onlyGivenNames x; first | (refine Kept.cut (qs := qs) x ?_ fun hx => ?_; subst x; rotate_left; clear_value x; rotate_left) | subst x)
    | split
    | dsimp only
    | (with_reducible refine Kept.of_parts ?_ ?_ ?_ ?_ <;> dsimp only)

theorem bindRings_kept {qs : Keep} (s : State) (hs : Kept qs s) : Kept qs (bindRings s) := by
  unfold bindRings
  repeat' first
    | with_reducible (first | assumption | intro _ | apply State.setFld_kept | apply forAll_kept)
    | split

theorem engineLost_kept {qs : Keep} (n : Nat) (s : State) (hs : Kept qs s) : Kept qs (engineLost n s) := by
  unfold engineLost
  with_reducible repeat' first | assumption | apply State.setFld_kept | apply stopRuns_kept | apply bindRings_kept

theorem stagingLost_kept {qs : Keep} (st : Nat) (s : State) (hs : Kept qs s) : Kept qs (stagingLost st s) := by
  unfold stagingLost
  repeat' first
    | with_reducible (first | assumption | intro _ | apply State.setFld_kept | apply forAll_kept | apply stopRuns_kept)
    | split

theorem dropRing_kept {qs : Keep} (r : Nat) (s : State) (hs : Kept qs s) : Kept qs (dropRing r s) := by
  unfold dropRing
  repeat' first
    | with_reducible (first | assumption | intro _ | apply State.setFld_kept | apply State.onNme_kept | refine Kept.pending (qs := qs) ?_
                            | refine Kept.regs (qs := qs) ?_ | refine Kept.lines (qs := qs) ?_ | refine Kept.stitches (qs := qs) ?_)
    | (extract_lets +onlyGivenNames x; first | (refine Kept.cut (qs := qs) x ?_ fun hx => ?_; subst x; rotate_left; clear_value x; rotate_left) | subst x)
    | dsimp only
    | (with_reducible refine Kept.of_parts ?_ ?_ ?_ ?_ <;> dsimp only)

theorem dropRingsOf_kept {qs : Keep} (k : Nat) (s : State) (hs : Kept qs s) : Kept qs (dropRingsOf k s) := by
  unfold dropRingsOf
  repeat' first
    | with_reducible (first | assumption | intro _ | apply forAll_kept | apply dropRing_kept)
    | split

theorem haltEngines_kept {qs : Keep} (s : State) (hs : Kept qs s) : Kept qs (haltEngines s) := by
  unfold haltEngines
  with_reducible repeat' first | assumption | apply stopRuns_kept

end Sys2Proof.Machine
end

