-- ==== Sys2Proof/Laws/KeptTiers.lean ====
section
/-! SUPPORT. What the operations of Machine/Tiers.lean keep: the queue, and the canonical form of the stores. -/
namespace Sys2Proof.Machine

open Sys2Proof

theorem releaseCinches_kept {qs : Keep} (k : Nat) (s : State) (hs : Kept qs s) : Kept qs (releaseCinches k s) := by
  unfold releaseCinches
  repeat' first
    | with_reducible (first | assumption | intro _ | apply forAll_kept | apply unpin_kept | apply freeCinch_kept)
    | (extract_lets +onlyGivenNames x; subst x)
    | split

theorem resetLdState_kept {qs : Keep} (k : Nat) (cxl : Bool) (s : State) (hs : Kept qs s) : Kept qs (resetLdState k cxl s) := by
  unfold resetLdState
  with_reducible repeat' first | assumption | intro _ | apply State.onMgmt_kept | apply State.onHot_kept | apply State.onQos_kept
                               | apply State.updLd_kept | apply dropRingsOf_kept | apply releaseCinches_kept

theorem reopenOp_kept {qs : Keep} (o : PageOp) (s : State) (hs : Kept qs s) : Kept qs (reopenOp o s) := by
  unfold reopenOp
  repeat' first
    | with_reducible (first | assumption | apply State.count_kept | apply beginOp_kept | apply startClean_kept | apply abandonOp_kept)
    | split

theorem abandonSeams_kept {qs : Keep} (n : Nat) (s : State) (hs : Kept qs s) : Kept qs (abandonSeams n s) := by
  unfold abandonSeams
  repeat' first
    | with_reducible (first | assumption | intro _ | apply forAll_kept | apply setSeg_kept | apply updStream_kept | apply reopenOp_kept)
    | split

theorem stitcherFreed_kept {qs : Keep} (n : Nat) (s : State) (hs : Kept qs s) : Kept qs (stitcherFreed n s) := by
  unfold stitcherFreed
  with_reducible repeat' first | assumption | intro _ | apply State.count_kept | apply State.onCold_kept | apply State.updDcc_kept
                               | apply forAll_kept | apply abandonSeams_kept

theorem stitcherLost_kept {qs : Keep} (n : Nat) (s : State) (hs : Kept qs s) : Kept qs (stitcherLost n s) := by
  unfold stitcherLost
  with_reducible repeat' first | assumption | apply State.setFld_kept | apply stitcherFreed_kept

theorem finishFill_kept {qs : Keep} (fl : Fill) (s : State) (hs : Kept qs s) : Kept qs (finishFill fl s) := by
  unfold finishFill
  repeat' first
    | with_reducible (first | assumption | apply endJob_kept | apply updDesc_kept | apply freeFrame_kept | apply closeFill_kept
                            | apply applyFill_kept)
    | split

theorem carryWrite_kept {qs : Keep} (r : Req) (s : State) (hs : Kept qs s) : KeptOpt qs (carryWrite r s) := by
  unfold carryWrite
  repeat' first
    | with_reducible (first | assumption | intro _ | apply allocForWrite_kept | apply writeLine_kept | apply KeptOpt.ite | exact KeptOpt.of_none
                            | apply KeptOpt.of_some | apply KeptOpt.bind)
    | split

theorem finishTxns_kept {qs : Keep} (s : State) (hs : Kept qs s) : Kept qs (finishTxns s) := by
  unfold finishTxns
  repeat' first
    | with_reducible (first | assumption | intro _ | apply forAll_kept | apply carryWrite_kept | apply KeptOpt.getD)
    | split

theorem finishPens_kept {qs : Keep} (s : State) (hs : Kept qs s) : Kept qs (finishPens s) := by
  unfold finishPens
  repeat' first
    | with_reducible (first | assumption | intro _ | apply State.setFld_kept | apply State.emit_kept | apply State.report_kept | apply forAll_kept
                            | apply carryWrite_kept)
    | (extract_lets +onlyGivenNames x; refine Kept.cut (qs := qs) x ?_ fun hx => ?_; subst x; rotate_left; clear_value x; rotate_left)
    | split
    | refine KeptOpt.of_eq ‹_ = some _› ?_

theorem storeWrites_kept {qs : Keep} (s : State) (hs : Kept qs s) : Kept qs (storeWrites s) := by
  unfold storeWrites
  repeat' first
    | with_reducible (first | assumption | intro _ | apply State.onCold_kept | apply forAll_kept | apply putStitch_kept | apply skipStitch_kept
                            | apply drainWrites_kept)
    | split

theorem finishAll_kept {qs : Keep} (s : State) (hs : Kept qs s) : Kept qs (finishAll s) := by
  unfold finishAll
  with_reducible repeat' first | assumption | intro _ | apply forAll_kept | apply sealAll_kept | apply abandonPageOps_kept | apply finishFill_kept
                               | apply finishTxns_kept | apply finishPens_kept | apply storeWrites_kept

theorem stopFirmware_kept {qs : Keep} (s : State) (hs : Kept qs s) : Kept qs (stopFirmware s) := by
  unfold stopFirmware
  with_reducible repeat' first | assumption | apply State.setFld_kept | apply State.onMgmt_kept

theorem sealStitcher_kept {qs : Keep} (n : Nat) (s : State) (hs : Kept qs s) : Kept qs (sealStitcher n s) := by
  unfold sealStitcher
  repeat' first
    | with_reducible (first | assumption | intro _ | apply forAll_kept | apply sealStream_kept)
    | exact Kept.same ‹_› rfl rfl rfl rfl

theorem quiesceBlock_kept {qs : Keep} (d : Nat) (s : State) (hs : Kept qs s) : Kept qs (quiesceBlock d s) := by
  unfold quiesceBlock
  repeat' first
    | with_reducible (first | assumption | intro _ | apply State.updSlice_kept | apply forAll_kept | apply sealStitcher_kept)
    | split
    | exact Kept.same ‹_› rfl rfl rfl rfl

theorem poisonReads_kept {qs : Keep} (g : Nat) (s : State) (hs : Kept qs s) : Kept qs (poisonReads g s) := by
  unfold poisonReads
  repeat' first
    | with_reducible (first | assumption | intro _ | apply State.updGroup_kept | apply forAll_kept | apply atomicRead_kept)
    | split

theorem endWork_kept {qs : Keep} (d : Nat) (s : State) (hs : Kept qs s) : Kept qs (endWork d s) := by
  unfold endWork
  repeat' first
    | with_reducible (first | assumption | intro _ | apply State.onCold_kept | apply forAll_kept | apply abandonPageOps_kept | apply failReads_kept
                            | apply dropWrites_kept | apply stopRuns_kept | apply stitcherFreed_kept | apply poisonReads_kept)
    | (extract_lets +onlyGivenNames x; refine Kept.cut (qs := qs) x ?_ fun hx => ?_; subst x; rotate_left; clear_value x; rotate_left)
    | split

theorem advanceEndpoints_kept {qs : Keep} (d : Nat) (s : State) (hs : Kept qs s) : Kept qs (advanceEndpoints d s) := by
  unfold advanceEndpoints
  with_reducible repeat' first | assumption | apply State.onNoc_kept

theorem resetChannel_kept {qs : Keep} (ch : Nat) (s : State) (hs : Kept qs s) : Kept qs (resetChannel ch s) := by
  unfold resetChannel
  with_reducible repeat' first | assumption | intro _ | apply State.onDcm_kept | apply State.updDcc_kept | apply forAll_kept | apply inject_kept
                               | apply setSlotState_kept | apply flushWrites_kept | apply flushReads_kept

theorem resetBlockState_kept {qs : Keep} (d : Nat) (s : State) (hs : Kept qs s) : Kept qs (resetBlockState d s) := by
  unfold resetBlockState
  repeat' first
    | with_reducible (first | assumption | intro _ | apply State.onVault_kept | apply State.onNoc_kept | apply State.updSlice_kept
                            | apply forAll_kept | apply sliceLost_kept | apply abandonSeams_kept | apply stopFirmware_kept | apply sealStitcher_kept
                            | apply advanceEndpoints_kept | apply resetChannel_kept | refine Kept.pending (qs := qs) ?_
                            | refine Kept.regs (qs := qs) ?_ | refine Kept.lines (qs := qs) ?_ | refine Kept.stitches (qs := qs) ?_)
    | (extract_lets +onlyGivenNames x; refine Kept.cut (qs := qs) x ?_ fun hx => ?_; subst x; rotate_left; clear_value x; rotate_left)
    | split
    | dsimp only
    | (with_reducible refine Kept.of_parts ?_ ?_ ?_ ?_ <;> dsimp only)

theorem notReady_kept {qs : Keep} (d : Nat) (s : State) (hs : Kept qs s) : Kept qs (notReady d s) := by
  unfold notReady
  repeat' first
    | with_reducible (first | assumption | apply State.setFld_kept)
    | split

theorem retrainChannel_kept {qs : Keep} (ch : Nat) (s : State) (hs : Kept qs s) : Kept qs (retrainChannel ch s) := by
  unfold retrainChannel
  repeat' first
    | with_reducible (first | assumption | apply State.setFld_kept | apply State.updDcc_kept)
    | split

theorem returnBlock_kept {qs : Keep} (d : Nat) (s : State) (hs : Kept qs s) : Kept qs (returnBlock d s) := by
  unfold returnBlock
  repeat' first
    | with_reducible (first | assumption | intro _ | apply State.setFld_kept | apply State.unfence_kept | apply resumeLedger_kept
                            | apply becomeSpare_kept | apply bindRings_kept | apply retrainChannel_kept)
    | (extract_lets +onlyGivenNames x; first | (refine Kept.cut (qs := qs) x ?_ fun hx => ?_; subst x; rotate_left; clear_value x; rotate_left) | subst x)
    | split

end Sys2Proof.Machine
end

