-- ==== Sys2Proof/Laws/KeptPowerOps.lean ====
section
/-! SUPPORT. What the operations of Machine/PowerOps.lean keep: the queue, and the canonical form of the stores. -/
namespace Sys2Proof.Machine

open Sys2Proof

theorem State.enterConds_kept {qs : Keep} (s : State) (x : Nat) (hs : Kept qs s) : Kept qs (State.enterConds s x) := by
  unfold State.enterConds
  with_reducible repeat' first | assumption | intro _ | apply State.count_kept | apply State.setCond_kept | apply forAll_kept

theorem requestVoltage_kept {qs : Keep} (rail mv : Nat) (s : State) (hs : Kept qs s) : Kept qs (requestVoltage rail mv s) := by
  unfold requestVoltage
  with_reducible repeat' first | assumption | apply State.setFld_kept | apply State.onPwr_kept

theorem ackVoltage_kept {qs : Keep} (rail : Nat) (s : State) (hs : Kept qs s) : Kept qs (ackVoltage rail s) := by
  unfold ackVoltage
  repeat' first
    | with_reducible (first | assumption | intro _ | apply State.setBit_kept | refine Kept.pending (qs := qs) ?_ | refine Kept.regs (qs := qs) ?_
                            | refine Kept.lines (qs := qs) ?_ | refine Kept.stitches (qs := qs) ?_)
    | (extract_lets +onlyGivenNames x; subst x)
    | split
    | dsimp only
    | (with_reducible refine Kept.of_parts ?_ ?_ ?_ ?_ <;> dsimp only)

theorem beginKeepTime_kept {qs : Keep} (s : State) (hs : Kept qs s) : Kept qs (beginKeepTime s) := by
  unfold beginKeepTime
  repeat' first
    | with_reducible (first | assumption | apply State.setFld_kept | apply State.onClocks_kept | apply State.onPmu_kept)
    | split
    | exact Kept.same ‹_› rfl rfl rfl rfl

theorem endKeepTime_kept {qs : Keep} (s : State) (hs : Kept qs s) : Kept qs (endKeepTime s) := by
  unfold endKeepTime
  repeat' first
    | with_reducible (first | assumption | apply State.setFld_kept | apply State.count_kept | apply State.onClocks_kept)
    | split

theorem channelsToSleep_kept {qs : Keep} (s : State) (hs : Kept qs s) : Kept qs (channelsToSleep s) := by
  unfold channelsToSleep
  repeat' first
    | with_reducible (first | assumption | intro _ | apply forAll_kept | apply enterSelfRefresh_kept | apply drainWrites_kept)
    | split

theorem channelsWake_kept {qs : Keep} (s : State) (hs : Kept qs s) : Kept qs (channelsWake s) := by
  unfold channelsWake
  repeat' first
    | with_reducible (first | assumption | intro _ | apply forAll_kept | apply leaveSelfRefresh_kept)
    | split

theorem goDown_kept {qs : Keep} (x : Nat) (s : State) (hs : Kept qs s) : Kept qs (goDown x s) := by
  unfold goDown
  with_reducible repeat' first | assumption | apply State.onPwr_kept | apply sealAll_kept | apply State.enterConds_kept | apply beginKeepTime_kept
                               | apply channelsToSleep_kept

theorem dozeDown_kept {qs : Keep} (s : State) (hs : Kept qs s) : Kept qs (dozeDown s) := by
  unfold dozeDown
  with_reducible repeat' first | assumption | apply State.setFld_kept | apply goDown_kept

theorem dozeUp_kept {qs : Keep} (s : State) (hs : Kept qs s) : Kept qs (dozeUp s) := by
  unfold dozeUp
  with_reducible repeat' first | assumption | apply State.setFld_kept | apply State.count_kept | apply State.enterConds_kept
                               | apply endKeepTime_kept | apply channelsWake_kept

theorem keepBegin_kept {qs : Keep} (s : State) (hs : Kept qs s) : Kept qs (keepBegin s) := by
  unfold keepBegin
  repeat' first
    | with_reducible (first | assumption | intro _ | apply State.setFld_kept | refine Kept.pending (qs := qs) ?_ | refine Kept.regs (qs := qs) ?_
                            | refine Kept.lines (qs := qs) ?_ | refine Kept.stitches (qs := qs) ?_)
    | dsimp only
    | (with_reducible refine Kept.of_parts ?_ ?_ ?_ ?_ <;> dsimp only)

theorem keepDown_kept {qs : Keep} (s : State) (hs : Kept qs s) : Kept qs (keepDown s) := by
  unfold keepDown
  repeat' first
    | with_reducible (first | assumption | intro _ | apply releaseCleanShed_kept | apply requestVoltage_kept | apply goDown_kept
                            | refine Kept.pending (qs := qs) ?_ | refine Kept.regs (qs := qs) ?_ | refine Kept.lines (qs := qs) ?_
                            | refine Kept.stitches (qs := qs) ?_)
    | (extract_lets +onlyGivenNames x; subst x)
    | dsimp only
    | (with_reducible refine Kept.of_parts ?_ ?_ ?_ ?_ <;> dsimp only)

theorem keepReached_kept {qs : Keep} (s : State) (hs : Kept qs s) : Kept qs (keepReached s) := by
  unfold keepReached
  repeat' first
    | with_reducible (first | assumption | intro _ | apply State.setFld_kept | refine Kept.pending (qs := qs) ?_ | refine Kept.regs (qs := qs) ?_
                            | refine Kept.lines (qs := qs) ?_ | refine Kept.stitches (qs := qs) ?_)
    | dsimp only
    | (with_reducible refine Kept.of_parts ?_ ?_ ?_ ?_ <;> dsimp only)

theorem keepUpBegin_kept {qs : Keep} (s : State) (hs : Kept qs s) : Kept qs (keepUpBegin s) := by
  unfold keepUpBegin
  repeat' first
    | with_reducible (first | assumption | intro _ | apply State.setFld_kept | apply requestVoltage_kept | refine Kept.pending (qs := qs) ?_
                            | refine Kept.regs (qs := qs) ?_ | refine Kept.lines (qs := qs) ?_ | refine Kept.stitches (qs := qs) ?_)
    | dsimp only
    | (with_reducible refine Kept.of_parts ?_ ?_ ?_ ?_ <;> dsimp only)

theorem keepUpEnd_kept {qs : Keep} (s : State) (hs : Kept qs s) : Kept qs (keepUpEnd s) := by
  unfold keepUpEnd
  repeat' first
    | with_reducible (first | assumption | intro _ | apply State.setFld_kept | apply State.count_kept | apply servePins_kept
                            | apply State.enterConds_kept | apply endKeepTime_kept | apply channelsWake_kept | refine Kept.pending (qs := qs) ?_
                            | refine Kept.regs (qs := qs) ?_ | refine Kept.lines (qs := qs) ?_ | refine Kept.stitches (qs := qs) ?_)
    | (extract_lets +onlyGivenNames x; subst x)
    | split
    | dsimp only
    | (with_reducible refine Kept.of_parts ?_ ?_ ?_ ?_ <;> dsimp only)

theorem railsDone_kept {qs : Keep} (s : State) (hs : Kept qs s) : Kept qs (railsDone s) := by
  unfold railsDone
  repeat' first
    | with_reducible (first | assumption | apply keepReached_kept | apply keepUpEnd_kept)
    | split

theorem abandonEntry_kept {qs : Keep} (s : State) (hs : Kept qs s) : Kept qs (abandonEntry s) := by
  unfold abandonEntry
  repeat' first
    | with_reducible (first | assumption | intro _ | apply State.setFld_kept | apply State.count_kept | apply keepUpBegin_kept
                            | refine Kept.pending (qs := qs) ?_ | refine Kept.regs (qs := qs) ?_ | refine Kept.lines (qs := qs) ?_
                            | refine Kept.stitches (qs := qs) ?_)
    | split
    | dsimp only
    | (with_reducible refine Kept.of_parts ?_ ?_ ?_ ?_ <;> dsimp only)

theorem noteWake_kept {qs : Keep} (src inst : Nat) (s : State) (hs : Kept qs s) : Kept qs (noteWake src inst s) := by
  unfold noteWake
  repeat' first
    | with_reducible (first | assumption | intro _ | apply State.setFld_kept | refine Kept.pending (qs := qs) ?_ | refine Kept.regs (qs := qs) ?_
                            | refine Kept.lines (qs := qs) ?_ | refine Kept.stitches (qs := qs) ?_)
    | (extract_lets +onlyGivenNames x; first | (refine Kept.cut (qs := qs) x ?_ fun hx => ?_; subst x; rotate_left; clear_value x; rotate_left) | subst x)
    | split
    | dsimp only
    | (with_reducible refine Kept.of_parts ?_ ?_ ?_ ?_ <;> dsimp only)

theorem upDomain_kept {qs : Keep} (d : Nat) (s : State) (hs : Kept qs s) : Kept qs (upDomain d s) := by
  unfold upDomain
  repeat' first
    | with_reducible (first | assumption | apply State.count_kept | apply State.setCond_kept)
    | split

theorem gateDomain_kept {qs : Keep} (d : Nat) (c : DomCond) (s : State) (hs : Kept qs s) : Kept qs (gateDomain d c s) := by
  unfold gateDomain
  with_reducible repeat' first | assumption | apply State.onPwr_kept | apply State.onNoc_kept | apply State.setCond_kept

theorem wakeDomain_kept {qs : Keep} (d : Nat) (s : State) (hs : Kept qs s) : Kept qs (wakeDomain d s) := by
  unfold wakeDomain
  repeat' first
    | with_reducible (first | assumption | apply State.count_kept | apply State.onPwr_kept | apply State.setCond_kept | apply openGates_kept
                            | apply upDomain_kept)
    | split

theorem takeWake_kept {qs : Keep} (src inst : Nat) (dom : Option Nat) (s : State) (hs : Kept qs s) : Kept qs (takeWake src inst dom s) := by
  unfold takeWake
  repeat' first
    | with_reducible (first | assumption | intro _ | apply State.setFld_kept | apply abandonEntry_kept | apply noteWake_kept | apply wakeDomain_kept
                            | refine Kept.pending (qs := qs) ?_ | refine Kept.regs (qs := qs) ?_ | refine Kept.lines (qs := qs) ?_
                            | refine Kept.stitches (qs := qs) ?_)
    | (extract_lets +onlyGivenNames x; first | (refine Kept.cut (qs := qs) x ?_ fun hx => ?_; subst x; rotate_left; clear_value x; rotate_left) | subst x)
    | split
    | dsimp only
    | (with_reducible refine Kept.of_parts ?_ ?_ ?_ ?_ <;> dsimp only)

theorem serveWake_kept {qs : Keep} (s : State) (hs : Kept qs s) : Kept qs (serveWake s) := by
  unfold serveWake
  repeat' first
    | with_reducible (first | assumption | intro _ | apply dozeUp_kept | apply keepUpBegin_kept | refine Kept.pending (qs := qs) ?_
                            | refine Kept.regs (qs := qs) ?_ | refine Kept.lines (qs := qs) ?_ | refine Kept.stitches (qs := qs) ?_)
    | (extract_lets +onlyGivenNames x; first | (refine Kept.cut (qs := qs) x ?_ fun hx => ?_; subst x; rotate_left; clear_value x; rotate_left) | subst x)
    | split
    | dsimp only
    | (with_reducible refine Kept.of_parts ?_ ?_ ?_ ?_ <;> dsimp only)

theorem recheckAllowed_kept {qs : Keep} (s : State) (hs : Kept qs s) : Kept qs (recheckAllowed s) := by
  unfold recheckAllowed
  repeat' first
    | with_reducible (first | assumption | apply takeWake_kept | apply serveWake_kept)
    | split

theorem endWorkForKeep_kept {qs : Keep} (s : State) (hs : Kept qs s) : Kept qs (endWorkForKeep s) := by
  unfold endWorkForKeep
  repeat' first
    | with_reducible (first | assumption | apply State.onVault_kept | apply abandonPageOps_kept | apply haltEngines_kept)
    | exact Kept.same ‹_› rfl rfl rfl rfl

theorem forceKeep_kept {qs : Keep} (s : State) (hs : Kept qs s) : Kept qs (forceKeep s) := by
  unfold forceKeep
  repeat' first
    | with_reducible (first | assumption | apply State.setFld_kept | apply State.count_kept | apply dozeUp_kept | apply keepDown_kept
                            | apply endWorkForKeep_kept)
    | split

end Sys2Proof.Machine
end

