-- ==== Sys2Proof/Laws/KeptSupplyOps.lean ====
section
/-! SUPPORT. What the operations of Machine/SupplyOps.lean keep: the queue, and the canonical form of the stores. -/
namespace Sys2Proof.Machine

open Sys2Proof

theorem State.setSlotSt_kept {qs : Keep} (s : State) (j v : Nat) (hs : Kept qs s) : Kept qs (State.setSlotSt s j v) := by
  unfold State.setSlotSt
  with_reducible repeat' first | assumption | apply State.setFld_kept

theorem setPg_kept {qs : Keep} (j : Nat) (b : Bool) (s : State) (hs : Kept qs s) : Kept qs (setPg j b s) := by
  unfold setPg
  repeat' first
    | with_reducible (first | assumption | apply State.setBit_kept)
    | split

theorem openSwitch_kept {qs : Keep} (j st : Nat) (s : State) (hs : Kept qs s) : Kept qs (openSwitch j st s) := by
  unfold openSwitch
  with_reducible repeat' first | assumption | apply State.setFld_kept | apply State.updChan_kept | apply setPg_kept

theorem startRamp_kept {qs : Keep} (j : Nat) (retry : Bool) (s : State) (hs : Kept qs s) : Kept qs (startRamp j retry s) := by
  unfold startRamp
  with_reducible repeat' first | assumption | apply State.setFld_kept | apply State.updChan_kept

theorem scheduleRetry_kept {qs : Keep} (j t0 : Nat) (s : State) (hs : Kept qs s) : Kept qs (scheduleRetry j t0 s) := by
  unfold scheduleRetry
  repeat' first
    | with_reducible (first | assumption | apply State.setFld_kept | apply State.updChan_kept)
    | split

theorem trip_kept {qs : Keep} (j code : Nat) (s : State) (hs : Kept qs s) : Kept qs (trip j code s) := by
  unfold trip
  repeat' first
    | with_reducible (first | assumption | apply State.setFld_kept | apply State.count_kept | apply State.report_kept | apply failSlot_kept
                            | apply openSwitch_kept | apply scheduleRetry_kept)
    | split

theorem feedLost_kept {qs : Keep} (f : Nat) (had : Bool) (s : State) (hs : Kept qs s) : Kept qs (feedLost f had s) := by
  unfold feedLost
  repeat' first
    | with_reducible (first | assumption | intro _ | apply State.report_kept | apply State.onSup_kept)
    | (extract_lets +onlyGivenNames x; refine Kept.cut (qs := qs) x ?_ fun hx => ?_; subst x; rotate_left; clear_value x; rotate_left)
    | split

theorem updateCap_kept {qs : Keep} (s : State) (hs : Kept qs s) : Kept qs (updateCap s) := by
  unfold updateCap
  with_reducible repeat' first | assumption | apply State.setFld_kept

theorem setThrottle_kept {qs : Keep} (v : Nat) (s : State) (hs : Kept qs s) : Kept qs (setThrottle v s) := by
  unfold setThrottle
  with_reducible repeat' first | assumption | apply State.setFld_kept | apply State.setBit_kept | apply State.spent_kept

theorem enterBand_kept {qs : Keep} (b : Nat) (s : State) (hs : Kept qs s) : Kept qs (enterBand b s) := by
  unfold enterBand
  repeat' first
    | with_reducible (first | assumption | apply State.setFld_kept | apply forceKeep_kept | apply updateCap_kept | apply setThrottle_kept)
    | split

theorem supCode_kept {qs : Keep} (j code : Nat) (s : State) (hs : Kept qs s) : Kept qs (supCode j code s) := by
  unfold supCode
  with_reducible repeat' first | assumption | apply State.setFld_kept

theorem supPowerOff_kept {qs : Keep} (j : Nat) (s : State) (hs : Kept qs s) : Kept qs (supPowerOff j s) := by
  unfold supPowerOff
  repeat' first
    | with_reducible (first | assumption | apply updDimm_kept | apply State.setSlotSt_kept | apply openSwitch_kept | apply supCode_kept)
    | split
    | exact Kept.same ‹_› rfl rfl rfl rfl

theorem supPowerOn_kept {qs : Keep} (j : Nat) (s : State) (hs : Kept qs s) : Kept qs (supPowerOn j s) := by
  unfold supPowerOn
  repeat' first
    | with_reducible (first | assumption | apply updDimm_kept | apply startRamp_kept | apply supCode_kept)
    | split
    | exact Kept.same ‹_› rfl rfl rfl rfl

theorem supClear_kept {qs : Keep} (j : Nat) (s : State) (hs : Kept qs s) : Kept qs (supClear j s) := by
  unfold supClear
  repeat' first
    | with_reducible (first | assumption | apply State.setFld_kept | apply State.updChan_kept | apply startRamp_kept | apply supCode_kept)
    | split

theorem supCommand_kept {qs : Keep} (cmd j : Nat) (s : State) (hs : Kept qs s) : Kept qs (supCommand cmd j s) := by
  unfold supCommand
  repeat' first
    | with_reducible (first | assumption | apply supPowerOff_kept | apply supPowerOn_kept | apply supClear_kept)
    | split

theorem freshChannel_kept {qs : Keep} (j : Nat) (s : State) (hs : Kept qs s) : Kept qs (freshChannel j s) := by
  unfold freshChannel
  repeat' first
    | with_reducible (first | assumption | intro _ | apply State.setFld_kept | apply State.updChan_kept)
    | (extract_lets +onlyGivenNames x; refine Kept.cut (qs := qs) x ?_ fun hx => ?_; subst x; rotate_left; clear_value x; rotate_left)
    | split

theorem latchMeasurement_kept {qs : Keep} (j : Nat) (s : State) (hs : Kept qs s) : Kept qs (latchMeasurement j s) := by
  unfold latchMeasurement
  with_reducible repeat' first | assumption | apply State.setFld_kept | apply State.setPair_kept

end Sys2Proof.Machine
end

