-- ==== Sys2Proof/Laws/KeptAdmOps.lean ====
section
/-! SUPPORT. What the operations of Machine/AdmOps.lean keep: the queue, and the canonical form of the stores. -/
namespace Sys2Proof.Machine

open Sys2Proof

theorem demote_kept {qs : Keep} (i why : Nat) (s : State) (hs : Kept qs s) : Kept qs (demote i why s) := by
  unfold demote
  with_reducible repeat' first | assumption | apply State.count_kept | apply State.onQos_kept | apply State.updCinch_kept | apply State.vendor_kept

theorem demoteAll_kept {qs : Keep} (n : Nat) (s : State) (hs : Kept qs s) : Kept qs (demoteAll n s) := by
  induction n generalizing s with
  | zero => exact hs
  | succ n ih =>
    rw [demoteAll]
    generalize (if s.supplyLow = true then 10 else s.checkCode (List.map Prod.snd s.liveCinches)) = why
    repeat' first
      | with_reducible assumption
      | apply ih
      | apply demote_kept
      | split

theorem notePassing_kept {qs : Keep} (s : State) (hs : Kept qs s) : Kept qs (notePassing s) := by
  unfold notePassing
  with_reducible repeat' first | assumption | apply State.onQos_kept

theorem activate_kept {qs : Keep} (i : Nat) (s : State) (hs : Kept qs s) : Kept qs (activate i s) := by
  unfold activate
  repeat' first
    | with_reducible (first | assumption | apply State.updCinch_kept | apply State.vendor_kept)
    | split

theorem restore_kept {qs : Keep} (i : Nat) (s : State) (hs : Kept qs s) : Kept qs (restore i s) := by
  unfold restore
  repeat' first
    | with_reducible (first | assumption | apply State.count_kept | apply State.onQos_kept | apply State.updCinch_kept | apply State.vendor_kept
                            | apply activate_kept)
    | split

end Sys2Proof.Machine
end

