-- ==== Sys2Proof/Laws/KeptResetOps.lean ====
section
/-! SUPPORT. What the operations of Machine/ResetOps.lean keep: the queue, and the canonical form of the stores. -/
namespace Sys2Proof.Machine

open Sys2Proof

theorem resetRegs_kept {qs : Keep} (lvl : Nat) (s : State) (hs : Kept qs s) : Kept qs (resetRegs lvl s) := by
  unfold resetRegs
  repeat' first
    | with_reducible (first | assumption | intro _ | apply RegsWf.put | apply RegsWf.keep | apply RegsWf.mapAll | refine Kept.pending (qs := qs) ?_
                            | refine Kept.regs (qs := qs) ?_ | refine Kept.lines (qs := qs) ?_ | refine Kept.stitches (qs := qs) ?_)
    | dsimp only
    | (with_reducible refine Kept.of_parts ?_ ?_ ?_ ?_ <;> dsimp only)

theorem seenSource_kept {qs : Keep} (src : Nat) (s : State) (hs : Kept qs s) : Kept qs (seenSource src s) := by
  unfold seenSource
  with_reducible repeat' first | assumption | apply State.setBitOf_kept

theorem localCause_kept {qs : Keep} (src inst lvl : Nat) (s : State) (hs : Kept qs s) : Kept qs (localCause src inst lvl s) := by
  unfold localCause
  with_reducible repeat' first | assumption | apply State.setFld_kept | apply seenSource_kept

theorem moduleCause_kept {qs : Keep} (src inst lvl : Nat) (merged deferred : Bool) (s : State) (hs : Kept qs s) : Kept qs (moduleCause src inst lvl
    merged deferred s) := by
  unfold moduleCause
  with_reducible repeat' first | assumption | apply State.setFld_kept | apply State.setBit_kept | apply seenSource_kept

theorem interruptStartup_kept {qs : Keep} (s : State) (hs : Kept qs s) : Kept qs (interruptStartup s) := by
  unfold interruptStartup
  repeat' first
    | with_reducible (first | assumption | apply State.setFld_kept | apply State.onRst_kept)
    | split

theorem clearLogic_kept {qs : Keep} (s : State) (hs : Kept qs s) : Kept qs (clearLogic s) := by
  unfold clearLogic
  repeat' first
    | with_reducible (first | assumption | intro _ | apply State.updHead_kept | apply State.updLd_kept | apply forAll_kept | apply inject_kept
                            | apply resetHead_kept | refine Kept.pending (qs := qs) ?_ | refine Kept.regs (qs := qs) ?_
                            | refine Kept.lines (qs := qs) ?_ | refine Kept.stitches (qs := qs) ?_)
    | (extract_lets +onlyGivenNames x; first | (refine Kept.cut (qs := qs) x ?_ fun hx => ?_; subst x; rotate_left; clear_value x; rotate_left) | subst x)
    | split
    | dsimp only
    | (with_reducible refine Kept.of_parts ?_ ?_ ?_ ?_ <;> dsimp only)

theorem liftFences_kept {qs : Keep} (s : State) (hs : Kept qs s) : Kept qs (liftFences s) := by
  unfold liftFences
  with_reducible repeat' first | assumption | apply State.onFlt_kept

theorem beginStartup_kept {qs : Keep} (lvl : Nat) (s : State) (hs : Kept qs s) : Kept qs (beginStartup lvl s) := by
  unfold beginStartup
  repeat' first
    | with_reducible (first | assumption | intro _ | apply State.setReg_kept | apply State.setFld_kept | apply State.setBit_kept
                            | apply State.setCond_kept | refine Kept.pending (qs := qs) ?_ | refine Kept.regs (qs := qs) ?_
                            | refine Kept.lines (qs := qs) ?_ | refine Kept.stitches (qs := qs) ?_)
    | (extract_lets +onlyGivenNames x; subst x)
    | dsimp only
    | (with_reducible refine Kept.of_parts ?_ ?_ ?_ ?_ <;> dsimp only)

theorem keepFuseInjection_kept {qs : Keep} (was s : State) (hs : Kept qs s) : Kept qs (keepFuseInjection was s) := by
  unfold keepFuseInjection
  repeat' first
    | with_reducible (first | assumption | apply State.setReg_kept)
    | split

theorem level4_kept {qs : Keep} (src inst : Nat) (merged deferred : Bool) (s : State) (hs : Kept qs s) : Kept qs (level4 src inst merged deferred s)
    := by
  unfold level4
  with_reducible repeat' first | assumption | apply State.unexpose_kept | apply saveBlocks_kept | apply finishAll_kept | apply channelsToSleep_kept
                               | apply resetRegs_kept | apply moduleCause_kept | apply interruptStartup_kept | apply clearLogic_kept
                               | apply liftFences_kept | apply beginStartup_kept | apply keepFuseInjection_kept

theorem level5_kept {qs : Keep} (src inst : Nat) (merged deferred : Bool) (s : State) (hs : Kept qs s) : Kept qs (level5 src inst merged deferred s)
    := by
  unfold level5
  repeat' first
    | with_reducible (first | assumption | intro _ | apply resetRegs_kept | apply moduleCause_kept | apply interruptStartup_kept
                            | apply clearLogic_kept | apply liftFences_kept | apply beginStartup_kept | apply keepFuseInjection_kept
                            | apply LinesWf.put | apply LinesWf.keep | exact LinesWf.nil | apply StitchesWf.put | apply StitchesWf.keep
                            | exact StitchesWf.nil | refine Kept.pending (qs := qs) ?_ | refine Kept.regs (qs := qs) ?_
                            | refine Kept.lines (qs := qs) ?_ | refine Kept.stitches (qs := qs) ?_)
    | (extract_lets +onlyGivenNames x; subst x)
    | dsimp only
    | (with_reducible refine Kept.of_parts ?_ ?_ ?_ ?_ <;> dsimp only)

theorem moduleReset_kept {qs : Keep} (src inst lvl : Nat) (deferred : Bool) (s : State) (hs : Kept qs s) : Kept qs (moduleReset src inst lvl
    deferred s) := by
  unfold moduleReset
  repeat' first
    | with_reducible (first | assumption | intro _ | apply State.setFld_kept | apply State.report_kept | apply State.onRst_kept
                            | apply State.onFlash_kept | apply seenSource_kept | apply level4_kept | apply level5_kept)
    | (extract_lets +onlyGivenNames x; first | (refine Kept.cut (qs := qs) x ?_ fun hx => ?_; subst x; rotate_left; clear_value x; rotate_left) | subst x)
    | split

theorem supplyLost_kept {qs : Keep} (s : State) (hs : Kept qs s) : Kept qs (supplyLost s) := by
  unfold supplyLost
  repeat' first
    | with_reducible (first | assumption | intro _ | apply level5_kept | apply StitchesWf.put | apply StitchesWf.keep | exact StitchesWf.nil
                            | refine Kept.pending (qs := qs) ?_ | refine Kept.regs (qs := qs) ?_ | refine Kept.lines (qs := qs) ?_
                            | refine Kept.stitches (qs := qs) ?_)
    | (extract_lets +onlyGivenNames x; first | (refine Kept.cut (qs := qs) x ?_ fun hx => ?_; subst x; rotate_left; clear_value x; rotate_left) | subst x)
    | dsimp only
    | (with_reducible refine Kept.of_parts ?_ ?_ ?_ ?_ <;> dsimp only)

theorem startBlockReset_kept {qs : Keep} (src d : Nat) (s : State) (hs : Kept qs s) : Kept qs (startBlockReset src d s) := by
  unfold startBlockReset
  with_reducible repeat' first | assumption | apply State.setFld_kept | apply State.onRst_kept | apply quiesceBlock_kept | apply localCause_kept

theorem endBlockReset_kept {qs : Keep} (d : Nat) (s : State) (hs : Kept qs s) : Kept qs (endBlockReset d s) := by
  unfold endBlockReset
  repeat' first
    | with_reducible (first | assumption | apply State.setFld_kept | apply State.setBit_kept | apply State.onRst_kept)
    | split

theorem headSource_kept {qs : Keep} (src h : Nat) (s : State) (hs : Kept qs s) : Kept qs (headSource src h s) := by
  unfold headSource
  repeat' first
    | with_reducible (first | assumption | intro _ | apply forAll_kept | apply resetHead_kept | apply resetLdState_kept | apply localCause_kept
                            | apply moduleReset_kept | apply startBlockReset_kept)
    | (extract_lets +onlyGivenNames x; first | (refine Kept.cut (qs := qs) x ?_ fun hx => ?_; subst x; rotate_left; clear_value x; rotate_left) | subst x)
    | split

theorem linkLost_kept {qs : Keep} (h : Nat) (s : State) (hs : Kept qs s) : Kept qs (linkLost h s) := by
  unfold linkLost
  with_reducible repeat' first | assumption | apply State.count_kept | apply State.report_kept | apply headSource_kept

theorem assertBlockReset_kept {qs : Keep} (d : Nat) (s : State) (hs : Kept qs s) : Kept qs (assertBlockReset d s) := by
  unfold assertBlockReset
  repeat' first
    | with_reducible (first | assumption | intro _ | apply State.setReg_kept | apply State.setBit_kept | apply State.onRst_kept
                            | apply State.clearSram_kept | apply forAll_kept | apply resetRange_kept | apply resetHead_kept
                            | apply resetLdState_kept | apply resetBlockState_kept | apply notReady_kept | apply linkLost_kept)
    | split

theorem ldSource_kept {qs : Keep} (src k : Nat) (cxl : Bool) (s : State) (hs : Kept qs s) : Kept qs (ldSource src k cxl s) := by
  unfold ldSource
  repeat' first
    | with_reducible (first | assumption | intro _ | apply resetLdState_kept | apply localCause_kept | apply moduleReset_kept
                            | apply startBlockReset_kept)
    | (extract_lets +onlyGivenNames x; subst x)
    | split

theorem blockSource_kept {qs : Keep} (src d : Nat) (s : State) (hs : Kept qs s) : Kept qs (blockSource src d s) := by
  unfold blockSource
  repeat' first
    | with_reducible (first | assumption | intro _ | apply moduleReset_kept | apply startBlockReset_kept)
    | (extract_lets +onlyGivenNames x; subst x)
    | split

theorem moduleSource_kept {qs : Keep} (src inst : Nat) (s : State) (hs : Kept qs s) : Kept qs (moduleSource src inst s) := by
  unfold moduleSource
  with_reducible repeat' first | assumption | apply moduleReset_kept

theorem rstCode_kept {qs : Keep} (c : Nat) (s : State) (hs : Kept qs s) : Kept qs (rstCode c s) := by
  unfold rstCode
  with_reducible repeat' first | assumption | apply State.setFld_kept

theorem commandLevel3_kept {qs : Keep} (d : Nat) (s : State) (hs : Kept qs s) : Kept qs (commandLevel3 d s) := by
  unfold commandLevel3
  repeat' first
    | with_reducible (first | assumption | apply State.setBit_kept | apply blockSource_kept | apply rstCode_kept)
    | split

theorem nvWrite_kept {qs : Keep} (kind : Nat) (job : FlashJob) (s : State) (hs : Kept qs s) : Kept qs (nvWrite kind job s) := by
  unfold nvWrite
  repeat' first
    | with_reducible (first | assumption | apply State.spent_kept | apply State.onRst_kept | apply State.onFlash_kept)
    | split

end Sys2Proof.Machine
end

