-- ==== Sys2Proof/Laws/KeptClockOps.lean ====
section
/-! SUPPORT. What the operations of Machine/ClockOps.lean keep: the queue, and the canonical form of the stores. -/
namespace Sys2Proof.Machine

open Sys2Proof

theorem selectRef_kept {qs : Keep} (r : Nat) (s : State) (hs : Kept qs s) : Kept qs (selectRef r s) := by
  unfold selectRef
  with_reducible repeat' first | assumption | apply State.setFld_kept

theorem failOver_kept {qs : Keep} (s : State) (hs : Kept qs s) : Kept qs (failOver s) := by
  unfold failOver
  repeat' first
    | with_reducible (first | assumption | intro _ | apply State.setFld_kept | apply State.count_kept | apply beginKeepTime_kept
                            | apply selectRef_kept)
    | (extract_lets +onlyGivenNames x; refine Kept.cut (qs := qs) x ?_ fun hx => ?_; subst x; rotate_left; clear_value x; rotate_left)
    | split

theorem quadsLose_kept {qs : Keep} (c : Nat) (s : State) (hs : Kept qs s) : Kept qs (quadsLose c s) := by
  unfold quadsLose
  repeat' first
    | with_reducible (first | assumption | intro _ | apply State.count_kept | apply forAll_kept | apply linkLost_kept)
    | split

theorem stampTime_kept {qs : Keep} (t : Nat) (s : State) (hs : Kept qs s) : Kept qs (stampTime t s) := by
  unfold stampTime
  repeat' first
    | with_reducible (first | assumption | intro _ | apply State.setFld_kept | apply State.setTime_kept | apply State.onClocks_kept
                            | apply State.onPmu_kept)
    | (extract_lets +onlyGivenNames x; first | (refine Kept.cut (qs := qs) x ?_ fun hx => ?_; subst x; rotate_left; clear_value x; rotate_left) | subst x)
    | split

end Sys2Proof.Machine
end

