-- ==== Sys2Proof/Laws/KeptReact.lean ====
section
/-! SUPPORT. What the operations of Machine/React.lean keep: the queue, and the canonical form of the stores. -/
namespace Sys2Proof.Machine

open Sys2Proof

theorem armReturn_kept {qs : Keep} (b : Block) (s : State) (hs : Kept qs s) : Kept qs (armReturn b s) := by
  unfold armReturn
  with_reducible repeat' first | assumption | apply State.onFlt_kept

theorem headLost_kept {qs : Keep} (h : Nat) (s : State) (hs : Kept qs s) : Kept qs (headLost h s) := by
  unfold headLost
  with_reducible repeat' first | assumption | apply State.updHead_kept | apply resetHead_kept

theorem pairLost_kept {qs : Keep} (s : State) (hs : Kept qs s) : Kept qs (pairLost s) := by
  unfold pairLost
  repeat' first
    | with_reducible (first | assumption | apply State.setFld_kept | apply stopFirmware_kept)
    | split

theorem fenceOne_kept {qs : Keep} (cause : Nat) (b : Block) (s : State) (hs : Kept qs s) : Kept qs (fenceOne cause b s) := by
  unfold fenceOne
  repeat' first
    | with_reducible (first | assumption | intro _ | apply State.setFld_kept | apply State.fenceOff_kept | apply State.expose_kept
                            | apply fenceGroup_kept | apply fenceStack_kept | apply streetDown_kept | apply sliceLost_kept | apply failChannel_kept
                            | apply failSlot_kept | apply engineLost_kept | apply stagingLost_kept | apply stitcherLost_kept | apply armReturn_kept
                            | apply headLost_kept | apply pairLost_kept)
    | (extract_lets +onlyGivenNames x; first | (refine Kept.cut (qs := qs) x ?_ fun hx => ?_; subst x; rotate_left; clear_value x; rotate_left) | subst x)
    | split
    | exact Kept.same ‹_› rfl rfl rfl rfl

theorem fenceBlock_kept {qs : Keep} (cause : Nat) (b : Block) (s : State) (hs : Kept qs s) : Kept qs (fenceBlock cause b s) := by
  unfold fenceBlock
  repeat' first
    | with_reducible (first | assumption | intro _ | apply forAll_kept | apply crossingFail_kept | apply fenceOne_kept)
    | split

theorem signalViral_kept {qs : Keep} (h : Nat) (s : State) (hs : Kept qs s) : Kept qs (signalViral h s) := by
  unfold signalViral
  repeat' first
    | with_reducible (first | assumption | apply State.setFld_kept | apply State.emit_kept)
    | split

theorem enterHalt_kept {qs : Keep} (s : State) (hs : Kept qs s) : Kept qs (enterHalt s) := by
  unfold enterHalt
  with_reducible repeat' first | assumption | intro _ | apply State.onFlt_kept | apply forAll_kept | apply signalViral_kept

theorem dirtyAll_kept {qs : Keep} (st blk : Nat) (s : State) (hs : Kept qs s) : Kept qs (dirtyAll st blk s) := by
  unfold dirtyAll
  repeat' first
    | with_reducible (first | assumption | intro _ | apply forAll_kept | apply updDesc_kept | apply setLine_kept)
    | (extract_lets +onlyGivenNames x; first | (refine Kept.cut (qs := qs) x ?_ fun hx => ?_; subst x; rotate_left; clear_value x; rotate_left) | subst x)
    | split

theorem reopenFills_kept {qs : Keep} (st blk : Nat) (s : State) (hs : Kept qs s) : Kept qs (reopenFills st blk s) := by
  unfold reopenFills
  repeat' first
    | with_reducible (first | assumption | intro _ | apply State.onHot_kept | apply forAll_kept | apply startJob_kept | apply endJob_kept)
    | split

theorem dropBuffer_kept {qs : Keep} (dom array blk : Nat) (s : State) (hs : Kept qs s) : Kept qs (dropBuffer dom array blk s) := by
  unfold dropBuffer
  repeat' first
    | with_reducible (first | assumption | apply State.onNoc_kept)
    | split

theorem recoverSram_kept {qs : Keep} (dom array blk : Nat) (s : State) (hs : Kept qs s) : KeptOpt qs (recoverSram dom array blk s) := by
  unfold recoverSram
  repeat' first
    | with_reducible (first | assumption | intro _ | apply State.onVault_kept | apply State.onDcm_kept | apply State.updDcc_kept | apply forAll_kept
                            | apply abandonSeams_kept | apply freshChannel_kept | apply blockSource_kept | apply dirtyAll_kept
                            | apply reopenFills_kept | apply dropBuffer_kept | apply KeptOpt.ite | exact KeptOpt.of_none | apply KeptOpt.of_some)
    | (extract_lets +onlyGivenNames x; first | (refine Kept.cut (qs := qs) x ?_ fun hx => ?_; subst x; rotate_left; clear_value x; rotate_left) | subst x)
    | split

theorem react_kept {qs : Keep} (c : Nat) (r : Report) (s : State) (hs : Kept qs s) : Kept qs (react c r s) := by
  unfold react
  repeat' first
    | with_reducible (first | assumption | intro _ | apply State.onFlt_kept | apply forAll_kept | apply serve_kept | apply trip_kept
                            | apply blockSource_kept | apply moduleSource_kept | apply fenceBlock_kept | apply signalViral_kept
                            | apply enterHalt_kept | apply recoverSram_kept | apply KeptOpt.getD)
    | (extract_lets +onlyGivenNames x; subst x)
    | split
    | refine KeptOpt.of_eq ‹_ = some _› ?_

theorem noteExposure_kept {qs : Keep} (r : Report) (s : State) (hs : Kept qs s) : Kept qs (noteExposure r s) := by
  unfold noteExposure
  repeat' first
    | with_reducible (first | assumption | apply State.expose_kept)
    | split

theorem record_kept {qs : Keep} (c : Nat) (asks : Bool) (r : Report) (s : State) (hs : Kept qs s) : Kept qs (record c asks r s) := by
  unfold record
  repeat' first
    | with_reducible (first | assumption | intro _ | apply keepRecord_kept | apply sendRecord_kept | apply State.deliver_kept
                            | apply mediaRecord_kept | apply deliver_kept)
    | (extract_lets +onlyGivenNames x; first | (refine Kept.cut (qs := qs) x ?_ fun hx => ?_; subst x; rotate_left; clear_value x; rotate_left) | subst x)
    | split

theorem latchFirst_kept {qs : Keep} (c : Nat) (r : Report) (s : State) (hs : Kept qs s) : Kept qs (latchFirst c r s) := by
  unfold latchFirst
  with_reducible repeat' first | assumption | intro _ | apply State.setReg_kept | apply State.setPair_kept | apply State.onFlt_kept
                               | apply forAll_kept

theorem clearFirst_kept {qs : Keep} (s : State) (hs : Kept qs s) : Kept qs (clearFirst s) := by
  unfold clearFirst
  with_reducible repeat' first | assumption | intro _ | apply State.setReg_kept | apply State.setPair_kept | apply State.onFlt_kept
                               | apply forAll_kept

theorem raiseMax_kept {qs : Keep} (us : Nat) (s : State) (hs : Kept qs s) : Kept qs (raiseMax us s) := by
  unfold raiseMax
  with_reducible repeat' first | assumption | apply State.setFld_kept

theorem firstDone_kept {qs : Keep} (s : State) (hs : Kept qs s) : Kept qs (firstDone s) := by
  unfold firstDone
  repeat' first
    | with_reducible (first | assumption | intro _ | apply State.setFld_kept | apply raiseMax_kept)
    | (extract_lets +onlyGivenNames x; first | (refine Kept.cut (qs := qs) x ?_ fun hx => ?_; subst x; rotate_left; clear_value x; rotate_left) | subst x)
    | split

theorem fillReport_kept {qs : Keep} (r : Report) (s : State) (hs : Kept qs s) : Kept qs (fillReport r s).2 := by
  unfold fillReport
  repeat' first
    | with_reducible (first | assumption | apply State.spent_kept)
    | split

theorem handleReport_kept {qs : Keep} (r0 : Report) (s0 : State) (hs0 : Kept qs s0) : Kept qs (handleReport r0 s0) := by
  unfold handleReport
  repeat' first
    | with_reducible (first | assumption | intro _ | apply State.setFld_kept | apply State.count_kept | apply State.report_kept
                            | apply State.onFlt_kept | apply takeWake_kept | apply react_kept | apply noteExposure_kept | apply record_kept
                            | apply latchFirst_kept | apply raiseMax_kept | apply firstDone_kept | apply fillReport_kept)
    | (extract_lets +onlyGivenNames x; first | (refine Kept.cut (qs := qs) x ?_ fun hx => ?_; subst x; rotate_left; clear_value x; rotate_left) | subst x)
    | split
    | refine Kept.of_pair ‹_ = (_, _)› ?_

theorem judge_kept {qs : Keep} (s : State) (r : Report) (hs : Kept qs s) : Kept qs (judge s r) := by
  unfold judge
  repeat' first
    | with_reducible (first | assumption | intro _ | apply State.setFld_kept | apply State.count_kept | apply handleReport_kept)
    | (extract_lets +onlyGivenNames x; refine Kept.cut (qs := qs) x ?_ fun hx => ?_; subst x; rotate_left; clear_value x; rotate_left)
    | split

theorem judgeAll_kept {qs : Keep} (rs : List Report) (s : State) (hs : Kept qs s) : Kept qs (judgeAll rs s) := by
  unfold judgeAll
  repeat' first
    | with_reducible (first | assumption | intro _ | apply forAll_kept | apply judge_kept)
    | (extract_lets +onlyGivenNames x; subst x)
    | split

theorem settleN_kept {qs : Keep} (n : Nat) (s : State) (hs : Kept qs s) : Kept qs (settleN n s) := by
  induction n generalizing s with
  | zero => exact hs
  | succ n ih =>
    rw [settleN]
    repeat' first
      | with_reducible assumption
      | apply ih
      | apply judgeAll_kept
      | apply State.onFlt_kept
      | split

theorem haltIfStuck_kept {qs : Keep} (s : State) (hs : Kept qs s) : Kept qs (haltIfStuck s) := by
  unfold haltIfStuck
  repeat' first
    | with_reducible (first | assumption | apply enterHalt_kept)
    | split

theorem settle_kept {qs : Keep} (s : State) (hs : Kept qs s) : Kept qs (settle s) := by
  unfold settle
  repeat' first
    | with_reducible (first | assumption | apply settleN_kept | apply haltIfStuck_kept)
    | split

theorem resumeLines_kept {qs : Keep} (s : State) (hs : Kept qs s) : Kept qs (resumeLines s) := by
  unfold resumeLines
  repeat' first
    | with_reducible (first | assumption | intro _ | apply forAll_kept | apply readPage_kept | apply serve_kept | apply retryVictim_kept)
    | split
    | exact Kept.same ‹_› rfl rfl rfl rfl

theorem mirrored_kept {qs : Keep} (s : State) (hs : Kept qs s) : Kept qs (mirrored s) := by
  unfold mirrored
  repeat' first
    | with_reducible (first | assumption | apply State.unexpose_kept)
    | split

theorem settled_kept {qs : Keep} (s : State) (hs : Kept qs s) : Kept qs (settled s) := by
  unfold settled
  with_reducible repeat' first | assumption | apply resumeMoves_kept | apply settle_kept | apply resumeLines_kept | apply mirrored_kept

theorem done_kept {qs : Keep} (s : State) (hs : Kept qs s) : Answers qs (done s) := by
  unfold done
  with_reducible repeat' first | assumption | apply settled_kept | apply Answers.next

end Sys2Proof.Machine
end

