-- ==== Sys2Proof/Laws/KeptClocks.lean ====
section
/-! SUPPORT. What the operations of Machine/Clocks.lean keep: the queue, and the canonical form of the stores. -/
namespace Sys2Proof.Machine

open Sys2Proof

theorem execReferenceLost_kept {qs : Keep} (r : Fin 3) (s : State) (hs : Kept qs s) : Answers qs (execReferenceLost r s) := by
  unfold execReferenceLost
  repeat' first
    | with_reducible (first | assumption | apply State.setBitOf_kept | apply State.report_kept | apply State.onClocks_kept | apply failOver_kept
                            | apply quadsLose_kept | apply done_kept | apply Answers.next)
    | split

theorem execPllReacquired_kept {qs : Keep} (s : State) (hs : Kept qs s) : Answers qs (execPllReacquired s) := by
  unfold execPllReacquired
  repeat' first
    | with_reducible (first | assumption | apply State.setFld_kept | apply State.onClocks_kept | apply endKeepTime_kept | apply Answers.next)
    | split

theorem execReferenceGood_kept {qs : Keep} (r : Fin 3) (s : State) (hs : Kept qs s) : Answers qs (execReferenceGood r s) := by
  unfold execReferenceGood
  repeat' first
    | with_reducible (first | assumption | intro _ | apply State.setBitOf_kept | apply State.onClocks_kept | apply forAll_kept
                            | apply State.unexpose_kept | apply startTraining_kept | apply selectRef_kept | apply Answers.next)
    | (extract_lets +onlyGivenNames x; first | (refine Kept.cut (qs := qs) x ?_ fun hx => ?_; subst x; rotate_left; clear_value x; rotate_left) | subst x)
    | split

theorem execClockFailback_kept {qs : Keep} (s : State) (hs : Kept qs s) : Answers qs (execClockFailback s) := by
  unfold execClockFailback
  repeat' first
    | with_reducible (first | assumption | apply State.count_kept | apply State.until_kept | apply selectRef_kept | apply Answers.next)
    | split

theorem execKeepClockFail_kept {qs : Keep} (s : State) (hs : Kept qs s) : Answers qs (execKeepClockFail s) := by
  unfold execKeepClockFail
  repeat' first
    | with_reducible (first | assumption | apply State.setFld_kept | apply State.report_kept | apply beginKeepTime_kept | apply endKeepTime_kept
                            | apply done_kept | apply Answers.next)
    | split

theorem execClockMonitorFail_kept {qs : Keep} (d : Fin 101) (s : State) (hs : Kept qs s) : Answers qs (execClockMonitorFail d s) := by
  unfold execClockMonitorFail
  repeat' first
    | with_reducible (first | assumption | apply State.setBitOf_kept | apply State.report_kept | apply done_kept | apply Answers.next)
    | split

theorem execKeepCalCount_kept {qs : Keep} (cycles : BitVec 27) (s : State) (hs : Kept qs s) : Answers qs (execKeepCalCount cycles s) := by
  unfold execKeepCalCount
  repeat' first
    | with_reducible (first | assumption | intro _ | apply State.setFld_kept | apply State.onClocks_kept | apply State.until_kept
                            | apply Answers.next)
    | (extract_lets +onlyGivenNames x; first | (refine Kept.cut (qs := qs) x ?_ fun hx => ?_; subst x; rotate_left; clear_value x; rotate_left) | subst x)
    | split

theorem execPtmRequest_kept {qs : Keep} (h : Fin 4) (s : State) (hs : Kept qs s) : Answers qs (execPtmRequest h s) := by
  unfold execPtmRequest
  repeat' first
    | with_reducible (first | assumption | apply State.emit_kept | apply Answers.next)
    | split

theorem execTimeSlewDone_kept {qs : Keep} (s : State) (hs : Kept qs s) : Answers qs (execTimeSlewDone s) := by
  unfold execTimeSlewDone
  repeat' first
    | with_reducible (first | assumption | apply State.setFld_kept | apply State.advance_kept | apply Answers.next)
    | split

end Sys2Proof.Machine
end

