-- ==== Sys2Proof/Laws/KeptDram.lean ====
section
/-! SUPPORT. What the operations of Machine/Dram.lean keep: the queue, and the canonical form of the stores. -/
namespace Sys2Proof.Machine

open Sys2Proof

theorem dimmFails_kept {qs : Keep} (ch z cause : Nat) (s : State) (hs : Kept qs s) : Kept qs (dimmFails ch z cause s) := by
  unfold dimmFails
  repeat' first
    | with_reducible (first | assumption | apply State.report_kept | apply setSlotState_kept | apply failSlot_kept)
    | split

theorem rejectDimm_kept {qs : Keep} (ch z : Nat) (s : State) (hs : Kept qs s) : Kept qs (rejectDimm ch z s) := by
  unfold rejectDimm
  repeat' first
    | with_reducible (first | assumption | apply State.setFld_kept | apply State.vendor_kept | apply updDimm_kept | apply setSlotState_kept
                            | apply svcCode_kept)
    | split

theorem recordSpd_kept {qs : Keep} (ch z : Nat) (i : SpdInfo) (s : State) (hs : Kept qs s) : Kept qs (recordSpd ch z i s) := by
  unfold recordSpd
  with_reducible repeat' first | assumption | apply State.setFld_kept | apply updDimm_kept

theorem refusePopulation_kept {qs : Keep} (e : Nat) (s : State) (hs : Kept qs s) : Kept qs (refusePopulation e s) := by
  unfold refusePopulation
  with_reducible repeat' first | assumption | intro _ | apply State.setFld_kept | apply State.report_kept | apply forAll_kept

theorem beginTraining_kept {qs : Keep} (ch z : Nat) (fast : Bool) (s : State) (hs : Kept qs s) : Kept qs (beginTraining ch z fast s) := by
  unfold beginTraining
  with_reducible repeat' first | assumption | apply State.setFld_kept | apply State.updDcc_kept | apply setSlotState_kept

theorem acceptPopulation_kept {qs : Keep} (s : State) (hs : Kept qs s) : Kept qs (acceptPopulation s) := by
  unfold acceptPopulation
  repeat' first
    | with_reducible (first | assumption | intro _ | apply State.setFld_kept | apply State.setBit_kept | apply State.onCold_kept
                            | apply State.onDram_kept | apply forAll_kept | apply failSlot_kept | apply beginTraining_kept)
    | split

theorem readRecords_kept {qs : Keep} (s : State) (hs : Kept qs s) : Kept qs (readRecords s) := by
  unfold readRecords
  repeat' first
    | with_reducible (first | assumption | intro _ | apply State.setFld_kept | apply forAll_kept | apply State.markFenced_kept
                            | apply setSlotState_kept)
    | split

theorem releaseChannel_kept {qs : Keep} (ch : Nat) (s : State) (hs : Kept qs s) : Kept qs (releaseChannel ch s) := by
  unfold releaseChannel
  with_reducible repeat' first | assumption | intro _ | apply State.setFld_kept | apply State.setCond_kept | apply forAll_kept
                               | apply State.unfence_kept | apply State.unexpose_kept | apply eraseRecord_kept | apply writeRecord_kept

theorem releaseTested_kept {qs : Keep} (s : State) (hs : Kept qs s) : Kept qs (releaseTested s) := by
  unfold releaseTested
  with_reducible repeat' first | assumption | intro _ | apply forAll_kept | apply releaseChannel_kept

theorem tryPopulation_kept {qs : Keep} (s : State) (hs : Kept qs s) : Kept qs (tryPopulation s) := by
  unfold tryPopulation
  repeat' first
    | with_reducible (first | assumption | intro _ | apply State.onDram_kept | apply refusePopulation_kept | apply acceptPopulation_kept
                            | apply readRecords_kept | apply releaseTested_kept)
    | (extract_lets +onlyGivenNames x; first | (refine Kept.cut (qs := qs) x ?_ fun hx => ?_; subst x; rotate_left; clear_value x; rotate_left) | subst x)
    | split

theorem execSpdReadRetry_kept {qs : Keep} (ch : Fin 16) (z : Fin 2) (k : DimmReading) (s : State) (hs : Kept qs s) : Answers qs (execSpdReadRetry ch
    z k s) := by
  unfold execSpdReadRetry
  repeat' first
    | with_reducible (first | assumption | apply State.advance_kept | apply updDimm_kept | apply Answers.next)
    | split

theorem execSpdSilent_kept {qs : Keep} (ch : Fin 16) (z : Fin 2) (s : State) (hs : Kept qs s) : Answers qs (execSpdSilent ch z s) := by
  unfold execSpdSilent
  repeat' first
    | with_reducible (first | assumption | intro _ | apply State.until_kept | apply updDimm_kept | apply done_kept | apply dimmFails_kept
                            | apply rejectDimm_kept | apply tryPopulation_kept | apply Answers.next)
    | (extract_lets +onlyGivenNames x; first | (refine Kept.cut (qs := qs) x ?_ fun hx => ?_; subst x; rotate_left; clear_value x; rotate_left) | subst x)
    | split

theorem execSpdReadDone_kept {qs : Keep} (ch : Fin 16) (z : Fin 2) (info : SpdInfo) (s : State) (hs : Kept qs s) : Answers qs (execSpdReadDone ch z
    info s) := by
  unfold execSpdReadDone
  repeat' first
    | with_reducible (first | assumption | intro _ | apply State.setFld_kept | apply updDimm_kept | apply setSlotState_kept | apply writeRecord_kept
                            | apply done_kept | apply rejectDimm_kept | apply recordSpd_kept | apply beginTraining_kept | apply tryPopulation_kept
                            | apply Answers.next)
    | (extract_lets +onlyGivenNames x; first | (refine Kept.cut (qs := qs) x ?_ fun hx => ?_; subst x; rotate_left; clear_value x; rotate_left) | subst x)
    | split

theorem execDimmTempReading_kept {qs : Keep} (ch : Fin 16) (z : Fin 2) (ts0 ts1 : Fin 255) (s : State) (hs : Kept qs s) : Answers qs
    (execDimmTempReading ch z ts0 ts1 s) := by
  unfold execDimmTempReading
  repeat' first
    | with_reducible (first | assumption | apply State.setFld_kept | apply State.setBit_kept | apply updDimm_kept | apply done_kept
                            | apply dimmFails_kept | apply tryPopulation_kept | apply Answers.next)
    | split

theorem execPmicReading_kept {qs : Keep} (ch : Fin 16) (z : Fin 2) (mv ma : List Nat) (fault : Bool) (s : State) (hs : Kept qs s) : Answers qs
    (execPmicReading ch z mv ma fault s) := by
  unfold execPmicReading
  repeat' first
    | with_reducible (first | assumption | apply updDimm_kept | apply done_kept | apply dimmFails_kept | apply tryPopulation_kept
                            | apply Answers.next)
    | split

theorem execDccReadRequest_kept {qs : Keep} (ch : Fin 16) (id seam : Nat) (s : State) (hs : Kept qs s) : Answers qs (execDccReadRequest ch id seam
    s) := by
  unfold execDccReadRequest
  repeat' first
    | with_reducible (first | assumption | intro _ | apply State.count_kept | apply State.updDcc_kept | apply giveStitch_kept | apply arriveAt_kept
                            | apply Answers.next)
    | (extract_lets +onlyGivenNames x; subst x)
    | split

theorem execDccWriteRequest_kept {qs : Keep} (ch : Fin 16) (seam : Nat) (s : State) (hs : Kept qs s) : Answers qs (execDccWriteRequest ch seam s) :=
    by
  unfold execDccWriteRequest
  repeat' first
    | with_reducible (first | assumption | intro _ | apply State.onCold_kept | apply State.updDcc_kept | apply skipStitch_kept
                            | apply settleDrain_kept | apply arriveAt_kept | apply Answers.next)
    | (extract_lets +onlyGivenNames x; first | (refine Kept.cut (qs := qs) x ?_ fun hx => ?_; subst x; rotate_left; clear_value x; rotate_left) | subst x)
    | split

theorem noteUe_kept {qs : Keep} (ch seam : Nat) (inj : Bool) (s : State) (hs : Kept qs s) : Kept qs (noteUe ch seam inj s) := by
  unfold noteUe
  with_reducible repeat' first | assumption | apply State.count_kept | apply State.reportAs_kept | apply State.updDcc_kept

theorem noteCe_kept {qs : Keep} (ch seam : Nat) (inj : Bool) (s : State) (hs : Kept qs s) : Kept qs (noteCe ch seam inj s) := by
  unfold noteCe
  with_reducible repeat' first | assumption | apply State.count_kept | apply State.reportAs_kept | apply State.updDcc_kept

theorem readDram_kept {qs : Keep} (ch seam : Nat) (v : Stitch) (ecc : Ecc) (s : State) (hs : Kept qs s) : Kept qs (readDram ch seam v ecc s).2 := by
  unfold readDram
  repeat' first
    | with_reducible (first | assumption | apply fire_kept | apply inject_kept | apply noteUe_kept | apply noteCe_kept | apply KeptOpt.ite
                            | exact KeptOpt.of_none | apply KeptOpt.of_some)
    | split

theorem issueRefresh_kept {qs : Keep} (ch bank : Nat) (s : State) (hs : Kept qs s) : Kept qs (issueRefresh ch bank s) := by
  unfold issueRefresh
  with_reducible repeat' first | assumption | apply State.updDcc_kept

theorem issueColumn_kept {qs : Keep} (ch : Nat) (c : Column) (ecc : Ecc) (s : State) (hs : Kept qs s) : Kept qs (issueColumn ch c ecc s) := by
  unfold issueColumn
  repeat' first
    | with_reducible (first | assumption | intro _ | apply State.updDcc_kept | apply touchIdle_kept | apply putStitch_kept | apply giveStitch_kept
                            | apply settleDrain_kept | apply touchRow_kept | apply readDram_kept | apply issueRefresh_kept)
    | (extract_lets +onlyGivenNames x; first | (refine Kept.cut (qs := qs) x ?_ fun hx => ?_; subst x; rotate_left; clear_value x; rotate_left) | subst x)
    | split

theorem pullIn_kept {qs : Keep} (ch : Nat) (busy : List Nat) (s : State) (hs : Kept qs s) : Kept qs (pullIn ch busy s) := by
  unfold pullIn
  repeat' first
    | with_reducible (first | assumption | intro _ | apply State.updDcc_kept)
    | (extract_lets +onlyGivenNames x; first | (refine Kept.cut (qs := qs) x ?_ fun hx => ?_; subst x; rotate_left; clear_value x; rotate_left) | subst x)
    | split
    | exact Kept.same ‹_› rfl rfl rfl rfl

theorem execDccColumnCommand_kept {qs : Keep} (u : Scheduler) (busy : List Nat) (ecc : Ecc) (s : State) (hs : Kept qs s) : Answers qs
    (execDccColumnCommand u busy ecc s) := by
  unfold execDccColumnCommand
  repeat' first
    | with_reducible (first | assumption | intro _ | apply State.updGroup_kept | apply touchIdle_kept | apply done_kept | apply issueColumn_kept
                            | apply pullIn_kept | apply Answers.next)
    | (extract_lets +onlyGivenNames x; subst x)
    | split

theorem execOpenRowIdleClose_kept {qs : Keep} (u : Scheduler) (bank : Nat) (s : State) (hs : Kept qs s) : Answers qs (execOpenRowIdleClose u bank s)
    := by
  unfold execOpenRowIdleClose
  repeat' first
    | with_reducible (first | assumption | apply State.updDcc_kept | apply State.updGroup_kept | apply State.until_kept | apply Answers.next)
    | split

theorem execStitchReadTimeout_kept {qs : Keep} (ch : Fin 16) (id seam : Nat) (s : State) (hs : Kept qs s) : Answers qs (execStitchReadTimeout ch id
    seam s) := by
  unfold execStitchReadTimeout
  repeat' first
    | with_reducible (first | assumption | apply State.updDcc_kept | apply touchIdle_kept | apply State.until_kept | apply giveStitch_kept
                            | apply done_kept | apply noteUe_kept | apply Answers.next)
    | split

theorem execRefreshDue_kept {qs : Keep} (ch : Fin 16) (bank : Nat) (s : State) (hs : Kept qs s) : Answers qs (execRefreshDue ch bank s) := by
  unfold execRefreshDue
  repeat' first
    | with_reducible (first | assumption | intro _ | apply State.updDcc_kept | apply Answers.next)
    | (extract_lets +onlyGivenNames x; subst x)
    | split

theorem execSelfRefreshEntry_kept {qs : Keep} (ch : Fin 16) (s : State) (hs : Kept qs s) : Answers qs (execSelfRefreshEntry ch s) := by
  unfold execSelfRefreshEntry
  repeat' first
    | with_reducible (first | assumption | apply enterSelfRefresh_kept | apply Answers.next)
    | split

theorem execSelfRefreshExit_kept {qs : Keep} (ch : Fin 16) (s : State) (hs : Kept qs s) : Answers qs (execSelfRefreshExit ch s) := by
  unfold execSelfRefreshExit
  repeat' first
    | with_reducible (first | assumption | apply leaveSelfRefresh_kept | apply Answers.next)
    | split

theorem slotTrained_kept {qs : Keep} (ch z : Nat) (bad : List Nat) (s : State) (hs : Kept qs s) : Kept qs (slotTrained ch z bad s) := by
  unfold slotTrained
  repeat' first
    | with_reducible (first | assumption | intro _ | apply State.setFld_kept | apply State.onDcm_kept | apply forAll_kept | apply State.vendor_kept
                            | apply updDimm_kept | apply setSlotState_kept | apply writeRecord_kept | apply retireRank_kept | apply svcCode_kept
                            | apply dimmFails_kept)
    | (extract_lets +onlyGivenNames x; first | (refine Kept.cut (qs := qs) x ?_ fun hx => ?_; subst x; rotate_left; clear_value x; rotate_left) | subst x)
    | split

theorem finishTraining_kept {qs : Keep} (ch : Nat) (failed : List (Nat × Nat)) (s : State) (hs : Kept qs s) : Kept qs (finishTraining ch failed s)
    := by
  unfold finishTraining
  repeat' first
    | with_reducible (first | assumption | intro _ | apply State.setFld_kept | apply State.setBit_kept | apply State.updDcc_kept | apply forAll_kept
                            | apply refusePopulation_kept | apply slotTrained_kept)
    | (extract_lets +onlyGivenNames x; first | (refine Kept.cut (qs := qs) x ?_ fun hx => ?_; subst x; rotate_left; clear_value x; rotate_left) | subst x)
    | split

theorem execChannelTrainingDone_kept {qs : Keep} (ch : Fin 16) (failed : List (Fin 2 × Fin 4)) (s : State) (hs : Kept qs s) : Answers qs
    (execChannelTrainingDone ch failed s) := by
  unfold execChannelTrainingDone
  repeat' first
    | with_reducible (first | assumption | intro _ | apply State.updDcc_kept | apply State.vendor_kept | apply done_kept | apply finishTraining_kept
                            | apply Answers.next)
    | (extract_lets +onlyGivenNames x; subst x)
    | split

theorem stackTrained_kept {qs : Keep} (st : Nat) (lanes : List Nat) (s : State) (hs : Kept qs s) : Kept qs (stackTrained st lanes s) := by
  unfold stackTrained
  with_reducible repeat' first | assumption | intro _ | apply State.setFld_kept | apply State.report_kept | apply State.onDram_kept
                               | apply forAll_kept

theorem execStackTrainingDone_kept {qs : Keep} (st : Fin 2) (lanes : List Nat) (s : State) (hs : Kept qs s) : Answers qs (execStackTrainingDone st
    lanes s) := by
  unfold execStackTrainingDone
  repeat' first
    | with_reducible (first | assumption | apply State.onDram_kept | apply State.vendor_kept | apply done_kept | apply stackTrained_kept
                            | apply Answers.next)
    | split

theorem execTrainingHoldTimeout_kept {qs : Keep} (u : TrainUnit) (s : State) (hs : Kept qs s) : Answers qs (execTrainingHoldTimeout u s) := by
  unfold execTrainingHoldTimeout
  repeat' first
    | with_reducible (first | assumption | apply State.updDcc_kept | apply State.vendor_kept | apply State.until_kept | apply done_kept
                            | apply finishTraining_kept | apply stackTrained_kept | apply Answers.next)
    | split

theorem startRetrain_kept {qs : Keep} (s : State) (hs : Kept qs s) : Kept qs (startRetrain s) := by
  unfold startRetrain
  repeat' first
    | with_reducible (first | assumption | apply State.setFld_kept | apply State.onDram_kept | apply State.onDcm_kept | apply State.updDcc_kept
                            | apply retrain_kept | apply failReads_kept)
    | split

theorem marginDue_kept {qs : Keep} (last : Nat) (s : State) (hs : Kept qs s) : KeptOpt qs (marginDue last s) := by
  unfold marginDue
  repeat' first
    | with_reducible (first | assumption | apply State.until_kept | apply KeptOpt.ite | exact KeptOpt.of_none | apply KeptOpt.of_some)
    | split

theorem askRetrain_kept {qs : Keep} (ch : Nat) (m : List RankMargin) (s : State) (hs : Kept qs s) : Kept qs (askRetrain ch m s) := by
  unfold askRetrain
  repeat' first
    | with_reducible (first | assumption | apply State.onDcm_kept | apply startRetrain_kept)
    | exact Kept.same ‹_› rfl rfl rfl rfl

theorem execMarginingPass_kept {qs : Keep} (u : TrainUnit) (m : List RankMargin) (s : State) (hs : Kept qs s) : Answers qs (execMarginingPass u m s)
    := by
  unfold execMarginingPass
  repeat' first
    | with_reducible (first | assumption | intro _ | apply State.setFld_kept | apply State.onDram_kept | apply State.updDcc_kept
                            | apply marginDue_kept | apply askRetrain_kept | apply Kept.foldl | apply Answers.next | apply KeptOpt.getD
                            | exact KeptOpt.of_none)
    | (extract_lets +onlyGivenNames x; first | (refine Kept.cut (qs := qs) x ?_ fun hx => ?_; subst x; rotate_left; clear_value x; rotate_left) | subst x)
    | split
    | refine KeptOpt.of_eq ‹_ = some _› ?_
    | exact Kept.same ‹_› rfl rfl rfl rfl

theorem execRankRetrainDone_kept {qs : Keep} (u : TrainUnit) (m : RankMargin) (s : State) (hs : Kept qs s) : Answers qs (execRankRetrainDone u m s)
    := by
  unfold execRankRetrainDone
  repeat' first
    | with_reducible (first | assumption | intro _ | apply State.setFld_kept | apply State.count_kept | apply State.report_kept
                            | apply State.onDram_kept | apply State.updDcc_kept | apply retrain_kept | apply retireRank_kept | apply done_kept
                            | apply startRetrain_kept | apply Answers.next)
    | (extract_lets +onlyGivenNames x; first | (refine Kept.cut (qs := qs) x ?_ fun hx => ?_; subst x; rotate_left; clear_value x; rotate_left) | subst x)
    | split
    | exact Kept.same ‹_› rfl rfl rfl rfl

theorem checkSeam_kept {qs : Keep} (seam : Nat) (ce ue : List Nat) (s : State) (hs : Kept qs s) : Kept qs (checkSeam seam ce ue s) := by
  unfold checkSeam
  repeat' first
    | with_reducible (first | assumption | intro _ | apply State.count_kept | apply State.reportAs_kept | apply forAll_kept | apply putStitch_kept
                            | apply relocateSeam_kept | apply noteUe_kept | apply noteCe_kept)
    | (extract_lets +onlyGivenNames x; first | (refine Kept.cut (qs := qs) x ?_ fun hx => ?_; subst x; rotate_left; clear_value x; rotate_left) | subst x)
    | split

theorem visitSeam_kept {qs : Keep} (seam : Nat) (ce ue : List (Fin 16)) (s : State) (hs : Kept qs s) : Kept qs (visitSeam seam ce ue s) := by
  unfold visitSeam
  with_reducible repeat' first | assumption | apply State.onDcm_kept | apply readRows_kept | apply checkSeam_kept

theorem execPatrolSeamCheck_kept {qs : Keep} (ce ue : List (Fin 16)) (s : State) (hs : Kept qs s) : Answers qs (execPatrolSeamCheck ce ue s) := by
  unfold execPatrolSeamCheck
  repeat' first
    | with_reducible (first | assumption | apply State.setFld_kept | apply State.count_kept | apply State.onDcm_kept | apply done_kept
                            | apply visitSeam_kept | apply Answers.next)
    | split

theorem execPatrolFloorVisit_kept {qs : Keep} (seam : Nat) (ce ue : List (Fin 16)) (s : State) (hs : Kept qs s) : Answers qs (execPatrolFloorVisit
    seam ce ue s) := by
  unfold execPatrolFloorVisit
  repeat' first
    | with_reducible (first | assumption | apply State.vendor_kept | apply State.until_kept | apply done_kept | apply visitSeam_kept
                            | apply Answers.next)
    | split

theorem execRowRepair_kept {qs : Keep} (ch : Fin 16) (z : Fin 2) (rank : Fin 4) (bank row : Nat) (spare : Bool) (s : State) (hs : Kept qs s) :
    Answers qs (execRowRepair ch z rank bank row spare s) := by
  unfold execRowRepair
  repeat' first
    | with_reducible (first | assumption | intro _ | apply State.setFld_kept | apply State.onFlash_kept | apply State.updDcc_kept
                            | apply forAll_kept | apply State.logTo_kept | apply putStitch_kept | apply done_kept | apply Answers.next)
    | (extract_lets +onlyGivenNames x; first | (refine Kept.cut (qs := qs) x ?_ fun hx => ?_; subst x; rotate_left; clear_value x; rotate_left) | subst x)
    | split

theorem execRankRetire_kept {qs : Keep} (ch : Fin 16) (z : Fin 2) (rank : Fin 4) (s : State) (hs : Kept qs s) : Answers qs (execRankRetire ch z rank
    s) := by
  unfold execRankRetire
  repeat' first
    | with_reducible (first | assumption | intro _ | apply retireRank_kept | apply done_kept | apply Answers.next)
    | (extract_lets +onlyGivenNames x; subst x)
    | split

theorem noteUes_kept {qs : Keep} (ue : List (Nat × Nat)) (s : State) (hs : Kept qs s) : Kept qs (noteUes ue s) := by
  unfold noteUes
  repeat' first
    | with_reducible (first | assumption | intro _ | apply forAll_kept | apply noteUe_kept)
    | exact Kept.same ‹_› rfl rfl rfl rfl

theorem execRebuildUnitDone_kept {qs : Keep} (b : Fin 4) (s : State) (ue : List (Nat × Fin 16)) (hs : Kept qs s) : Answers qs (execRebuildUnitDone b
    s ue) := by
  unfold execRebuildUnitDone
  repeat' first
    | with_reducible (first | assumption | apply unitDone_kept | apply plainRestore_kept | apply done_kept | apply noteUes_kept | apply Answers.next)
    | split

theorem execCoverageRefresh_kept {qs : Keep} (b : Fin 4) (seg : Nat) (s : State) (ue : List (Nat × Fin 16)) (hs : Kept qs s) : Answers qs
    (execCoverageRefresh b seg s ue) := by
  unfold execCoverageRefresh
  repeat' first
    | with_reducible (first | assumption | apply coverSeg_kept | apply done_kept | apply noteUes_kept | apply Answers.next)
    | split

theorem execEvacuate_kept {qs : Keep} (p : Path) (ch : Fin 16) (z : Fin 2) (s : State) (hs : Kept qs s) : Answers qs (execEvacuate p ch z s) := by
  unfold execEvacuate
  with_reducible repeat' first | assumption | apply plazaOnly_kept | apply svcEvacuate_kept | apply done_kept

theorem execFenceForService_kept {qs : Keep} (p : Path) (ch : Fin 16) (z : Fin 2) (s : State) (hs : Kept qs s) : Answers qs (execFenceForService p
    ch z s) := by
  unfold execFenceForService
  with_reducible repeat' first | assumption | apply plazaOnly_kept | apply svcFence_kept | apply done_kept

theorem execSlotReturn_kept {qs : Keep} (p : Path) (ch : Fin 16) (z : Fin 2) (s : State) (hs : Kept qs s) : Answers qs (execSlotReturn p ch z s) := by
  unfold execSlotReturn
  with_reducible repeat' first | assumption | apply plazaOnly_kept | apply svcReturn_kept | apply done_kept

theorem execCancelEvacuation_kept {qs : Keep} (p : Path) (ch : Fin 16) (z : Fin 2) (s : State) (hs : Kept qs s) : Answers qs (execCancelEvacuation p
    ch z s) := by
  unfold execCancelEvacuation
  with_reducible repeat' first | assumption | apply plazaOnly_kept | apply svcCancel_kept | apply done_kept

theorem execStackTempReading_kept {qs : Keep} (st : Fin 2) (t : Fin 256) (s : State) (hs : Kept qs s) : Answers qs (execStackTempReading st t s) := by
  unfold execStackTempReading
  repeat' first
    | with_reducible (first | assumption | apply State.setFld_kept | apply State.setBit_kept | apply State.report_kept | apply done_kept
                            | apply Answers.next)
    | split

end Sys2Proof.Machine
end

