-- ==== Sys2Proof/Laws/KeptStartOps.lean ====
section
/-! SUPPORT. What the operations of Machine/StartOps.lean keep: the queue, and the canonical form of the stores. -/
namespace Sys2Proof.Machine

open Sys2Proof

theorem measure_kept {qs : Keep} (s : State) (hs : Kept qs s) : Kept qs (measure s) := by
  unfold measure
  repeat' first
    | with_reducible (first | assumption | intro _ | apply State.setFld_kept | apply State.onCold_kept | apply State.onLayout_kept)
    | (extract_lets +onlyGivenNames x; first | (refine Kept.cut (qs := qs) x ?_ fun hx => ?_; subst x; rotate_left; clear_value x; rotate_left) | subst x)
    | split

theorem inactiveEvent_kept {qs : Keep} (k why : Nat) (s : State) (hs : Kept qs s) : Kept qs (inactiveEvent k why s) := by
  unfold inactiveEvent
  with_reducible repeat' first | assumption | apply State.vendor_kept

theorem activateMemory_kept {qs : Keep} (s : State) (hs : Kept qs s) : Kept qs (activateMemory s) := by
  unfold activateMemory
  repeat' first
    | with_reducible (first | assumption | intro _ | apply State.setFld_kept | apply State.onVault_kept | apply forAll_kept | apply enableKeyed_kept
                            | apply coverAfterStart_kept | apply inactiveEvent_kept)
    | split

theorem clearPins_kept {qs : Keep} (s : State) (hs : Kept qs s) : Kept qs (clearPins s) := by
  unfold clearPins
  repeat' first
    | with_reducible (first | assumption | intro _ | apply State.onQos_kept | apply forAll_kept | apply unpin_kept)
    | (extract_lets +onlyGivenNames x; first | (refine Kept.cut (qs := qs) x ?_ fun hx => ?_; subst x; rotate_left; clear_value x; rotate_left) | subst x)
    | exact Kept.same ‹_› rfl rfl rfl rfl

theorem initFresh_kept {qs : Keep} (s : State) (hs : Kept qs s) : Kept qs (initFresh s) := by
  unfold initFresh
  repeat' first
    | with_reducible (first | assumption | apply State.setFld_kept | apply State.onVault_kept | apply State.onQos_kept | apply ledgerKeyGen_kept)
    | split

theorem initRecovery_kept {qs : Keep} (s : State) (hs : Kept qs s) : Kept qs (initRecovery s) := by
  unfold initRecovery
  with_reducible repeat' first | assumption | intro _ | apply State.setReg_kept | apply State.setFld_kept | apply forAll_kept

theorem restoreBorrowed_kept {qs : Keep} (s : State) (hs : Kept qs s) : Kept qs (restoreBorrowed s) := by
  unfold restoreBorrowed
  with_reducible repeat' first | assumption | intro _ | apply State.setFld_kept | apply forAll_kept

end Sys2Proof.Machine
end

