-- ==== Sys2Proof/Laws/KeptHotTier.lean ====
section
/-! SUPPORT. What the operations of Machine/HotTier.lean keep: the queue, and the canonical form of the stores. -/
namespace Sys2Proof.Machine

open Sys2Proof

theorem entryArrives_kept {qs : Keep} (sl p : Nat) (e : BitVec 128) (extra : Nat) (s : State) (hs : Kept qs s) : Kept qs (entryArrives sl p e extra
    s) := by
  unfold entryArrives
  with_reducible repeat' first | assumption | intro _ | apply State.updSlice_kept | apply forAll_kept | apply injectEntry_kept | apply updTxn_kept
                               | apply serve_kept

theorem poisonWhole_kept {qs : Keep} (p : Nat) (s : State) (hs : Kept qs s) : Kept qs (poisonWhole p s) := by
  unfold poisonWhole
  with_reducible repeat' first | assumption | intro _ | apply mediaEvent_kept | apply poisonPage_kept

theorem execMapEntryReturn_kept {qs : Keep} (p : Nat) (src : EntrySource) (err : BitVec 128) (authOk : Bool) (s : State) (hs : Kept qs s) : Answers
    qs (execMapEntryReturn p src err authOk s) := by
  unfold execMapEntryReturn
  repeat' first
    | with_reducible (first | assumption | intro _ | apply State.count_kept | apply State.report_kept | apply State.onHot_kept
                            | apply failBlock_kept | apply loadBlock_kept | apply done_kept | apply entryArrives_kept | apply poisonWhole_kept
                            | apply Answers.next)
    | (extract_lets +onlyGivenNames x; first | (refine Kept.cut (qs := qs) x ?_ fun hx => ?_; subst x; rotate_left; clear_value x; rotate_left) | subst x)
    | split

theorem serveAgain_kept {qs : Keep} (sl id : Nat) (s : State) (hs : Kept qs s) : Kept qs (serveAgain sl id s) := by
  unfold serveAgain
  repeat' first
    | with_reducible (first | assumption | intro _ | apply startWrite_kept | apply readPage_kept)
    | split

theorem stackWritten_kept {qs : Keep} (f l : Nat) (s : State) (hs : Kept qs s) : Kept qs (stackWritten f l s) := by
  unfold stackWritten
  repeat' first
    | with_reducible (first | assumption | intro _ | apply fire_kept | apply State.onHot_kept | apply inject_kept)
    | (extract_lets +onlyGivenNames x; first | (refine Kept.cut (qs := qs) x ?_ fun hx => ?_; subst x; rotate_left; clear_value x; rotate_left) | subst x)
    | split

theorem lineWrite_kept {qs : Keep} (sl id : Nat) (t : Txn) (f : Nat) (s : State) (hs : Kept qs s) : Kept qs (lineWrite sl id t f s) := by
  unfold lineWrite
  repeat' first
    | with_reducible (first | assumption | intro _ | apply State.count_kept | apply openColdFill_kept | apply storeLine_kept | apply writeLine_kept
                            | apply updTxn_kept | apply finishTxn_kept | apply stackWritten_kept | apply KeptOpt.getD)
    | (extract_lets +onlyGivenNames x; first | (refine Kept.cut (qs := qs) x ?_ fun hx => ?_; subst x; rotate_left; clear_value x; rotate_left) | subst x)
    | split
    | refine KeptOpt.of_eq ‹_ = some _› ?_

theorem giveLine_kept {qs : Keep} (sl id : Nat) (x : LineAt) (s : State) (hs : Kept qs s) : Kept qs (giveLine sl id x s) := by
  unfold giveLine
  repeat' first
    | with_reducible (first | assumption | apply remainder_kept | apply updTxn_kept | apply atomicRead_kept | apply coldRead_kept)
    | split

theorem correctedSymbol_kept {qs : Keep} (st : Nat) (inj : Bool) (s : State) (hs : Kept qs s) : Kept qs (correctedSymbol st inj s) := by
  unfold correctedSymbol
  with_reducible repeat' first | assumption | apply State.count_kept | apply State.reportAs_kept

theorem accessError_kept {qs : Keep} (f l : Nat) (err : StackErr) (inj : Bool) (s : State) (hs : Kept qs s) : Kept qs (accessError f l err inj s) :=
    by
  unfold accessError
  repeat' first
    | with_reducible (first | assumption | intro _ | apply State.onHot_kept | apply frameError_kept | apply checkDescs_kept | apply inject_kept
                            | apply correctedSymbol_kept)
    | (extract_lets +onlyGivenNames x; first | (refine Kept.cut (qs := qs) x ?_ fun hx => ?_; subst x; rotate_left; clear_value x; rotate_left) | subst x)
    | split

theorem execHtcLineAccess_kept {qs : Keep} (id : Nat) (err : StackErr) (s : State) (hs : Kept qs s) : Answers qs (execHtcLineAccess id err s) := by
  unfold execHtcLineAccess
  repeat' first
    | with_reducible (first | assumption | intro _ | apply State.count_kept | apply allocForWrite_kept | apply updTxn_kept
                            | apply enqueueAccess_kept | apply done_kept | apply serveAgain_kept | apply lineWrite_kept | apply giveLine_kept
                            | apply accessError_kept | apply Answers.next)
    | (extract_lets +onlyGivenNames x; subst x)
    | split
    | refine KeptOpt.of_eq ‹_ = some _› ?_

theorem fillEnds_kept {qs : Keep} (fl : Fill) (s : State) (hs : Kept qs s) : Kept qs (fillEnds fl s) := by
  unfold fillEnds
  repeat' first
    | with_reducible (first | assumption | intro _ | apply forAll_kept | apply endJob_kept | apply updDesc_kept | apply freeFrame_kept
                            | apply closeFill_kept | apply atomicRead_kept)
    | split

theorem execFillData_kept {qs : Keep} (p : Nat) (s : State) (errs : DescErrors) (hs : Kept qs s) : Answers qs (execFillData p s errs) := by
  unfold execFillData
  repeat' first
    | with_reducible (first | assumption | intro _ | apply State.onHot_kept | apply startJob_kept | apply freeFrame_kept | apply applyFill_kept
                            | apply checkDescs_kept | apply done_kept | apply fillEnds_kept | apply Answers.next)
    | (extract_lets +onlyGivenNames x; first | (refine Kept.cut (qs := qs) x ?_ fun hx => ?_; subst x; rotate_left; clear_value x; rotate_left) | subst x)
    | split

theorem execHeldWriteResume_kept {qs : Keep} (id : Nat) (s : State) (hs : Kept qs s) : Answers qs (execHeldWriteResume id s) := by
  unfold execHeldWriteResume
  repeat' first
    | with_reducible (first | assumption | apply startWrite_kept | apply done_kept | apply Answers.next)
    | split

theorem execColdWritebackOpen_kept {qs : Keep} (p : Nat) (s : State) (errs : DescErrors) (hs : Kept qs s) : Answers qs (execColdWritebackOpen p s
    errs) := by
  unfold execColdWritebackOpen
  repeat' first
    | with_reducible (first | assumption | intro _ | apply State.until_kept | apply openColdFill_kept | apply checkDescs_kept | apply cleanPage_kept
                            | apply done_kept | apply Answers.next)
    | (extract_lets +onlyGivenNames x; first | (refine Kept.cut (qs := qs) x ?_ fun hx => ?_; subst x; rotate_left; clear_value x; rotate_left) | subst x)
    | split

theorem execHeatEpoch_kept {qs : Keep} (s : State) (errs : DescErrors) (hs : Kept qs s) : Answers qs (execHeatEpoch s errs) := by
  unfold execHeatEpoch
  repeat' first
    | with_reducible (first | assumption | intro _ | apply State.setFld_kept | apply State.onHot_kept | apply forAll_kept | apply State.until_kept
                            | apply updDesc_kept | apply touchHeat_kept | apply checkDescs_kept | apply done_kept | apply Answers.next)
    | split

theorem releaseGroup_kept {qs : Keep} (st : Nat) (s : State) (hs : Kept qs s) : Kept qs (releaseGroup st s) := by
  unfold releaseGroup
  repeat' first
    | with_reducible (first | assumption | intro _ | apply State.onHot_kept | apply tryRelease_kept | apply Kept.foldl)
    | (extract_lets +onlyGivenNames x; first | (refine Kept.cut (qs := qs) x ?_ fun hx => ?_; subst x; rotate_left; clear_value x; rotate_left) | subst x)
    | split

theorem releaseUntil_kept {qs : Keep} (st : Nat) (enough : State → Bool) (n : Nat) (s : State) (hs : Kept qs s) :
    Kept qs (releaseUntil st enough n s) := by
  induction n generalizing s with
  | zero => exact hs
  | succ n ih =>
    rw [releaseUntil]
    repeat' first
      | with_reducible assumption
      | apply ih
      | apply releaseGroup_kept
      | split

theorem releaseTo_kept {qs : Keep} (st stop : Nat) (s : State) (hs : Kept qs s) : Kept qs (releaseTo st stop s) := by
  unfold releaseTo
  repeat' first
    | with_reducible (first | assumption | intro _ | apply State.onHot_kept | apply servePins_kept | apply releaseUntil_kept)
    | (extract_lets +onlyGivenNames x; first | (refine Kept.cut (qs := qs) x ?_ fun hx => ?_; subst x; rotate_left; clear_value x; rotate_left) | subst x)
    | exact Kept.same ‹_› rfl rfl rfl rfl

theorem execShedFrameRelease_kept {qs : Keep} (st : Fin 2) (s : State) (errs : DescErrors) (hs : Kept qs s) : Answers qs (execShedFrameRelease st s
    errs) := by
  unfold execShedFrameRelease
  repeat' first
    | with_reducible (first | assumption | intro _ | apply checkDescs_kept | apply done_kept | apply releaseTo_kept | apply Answers.next)
    | (extract_lets +onlyGivenNames x; subst x)
    | split

theorem execShedFloorRelease_kept {qs : Keep} (st : Fin 2) (s : State) (errs : DescErrors) (hs : Kept qs s) : Answers qs (execShedFloorRelease st s
    errs) := by
  unfold execShedFloorRelease
  repeat' first
    | with_reducible (first | assumption | apply State.vendor_kept | apply checkDescs_kept | apply done_kept | apply releaseTo_kept
                            | apply Answers.next)
    | split

theorem execPinSet_kept {qs : Keep} (p : Nat) (s : State) (hs : Kept qs s) : Answers qs (execPinSet p s) := by
  unfold execPinSet
  repeat' first
    | with_reducible (first | assumption | apply changePin_kept | apply done_kept | apply Answers.next)
    | split

theorem execPinClear_kept {qs : Keep} (p : Nat) (s : State) (hs : Kept qs s) : Answers qs (execPinClear p s) := by
  unfold execPinClear
  repeat' first
    | with_reducible (first | assumption | intro _ | apply changePin_kept | apply done_kept | apply Answers.next)
    | split

theorem execKeepFrameMove_kept {qs : Keep} (st : Fin 2) (p : Nat) (s : State) (errs : DescErrors) (hs : Kept qs s) : Answers qs (execKeepFrameMove
    st p s errs) := by
  unfold execKeepFrameMove
  repeat' first
    | with_reducible (first | assumption | intro _ | apply beginOp_kept | apply checkDescs_kept | apply done_kept | apply Answers.next)
    | (extract_lets +onlyGivenNames x; subst x)
    | split

theorem commitMove_kept {qs : Keep} (p : Nat) (o : PageOp) (s : State) (hs : Kept qs s) : Kept qs (commitMove p o s) := by
  unfold commitMove
  repeat' first
    | with_reducible (first | assumption | intro _ | apply forAll_kept | apply putEntry_kept | apply updDesc_kept | apply setLine_kept
                            | apply freeFrame_kept | apply abandonOp_kept)
    | (extract_lets +onlyGivenNames x; first | (refine Kept.cut (qs := qs) x ?_ fun hx => ?_; subst x; rotate_left; clear_value x; rotate_left) | subst x)
    | split
    | exact Kept.same ‹_› rfl rfl rfl rfl

theorem locationLost_kept {qs : Keep} (st x : Nat) (err : StackErr) (s : State) (hs : Kept qs s) : Kept qs (locationLost st x err s) := by
  unfold locationLost
  repeat' first
    | with_reducible (first | assumption | intro _ | apply State.count_kept | apply State.report_kept | apply State.onHot_kept
                            | apply dropBlock_kept | apply loadBlock_kept | apply frameError_kept | apply checkDescs_kept
                            | refine Kept.pending (qs := qs) ?_ | refine Kept.regs (qs := qs) ?_ | refine Kept.lines (qs := qs) ?_
                            | refine Kept.stitches (qs := qs) ?_)
    | (extract_lets +onlyGivenNames x; first | (refine Kept.cut (qs := qs) x ?_ fun hx => ?_; subst x; rotate_left; clear_value x; rotate_left) | subst x)
    | split
    | dsimp only

theorem execStackPatrolVisit_kept {qs : Keep} (st : Fin 2) (err : StackErr) (s : State) (hs : Kept qs s) : Answers qs (execStackPatrolVisit st err
    s) := by
  unfold execStackPatrolVisit
  repeat' first
    | with_reducible (first | assumption | intro _ | apply State.onHot_kept | apply done_kept | apply correctedSymbol_kept | apply locationLost_kept
                            | apply Answers.next)
    | (extract_lets +onlyGivenNames x; first | (refine Kept.cut (qs := qs) x ?_ fun hx => ?_; subst x; rotate_left; clear_value x; rotate_left) | subst x)
    | split

end Sys2Proof.Machine
end

