-- ==== Sys2Proof/Laws/KeptColdTier.lean ====
section
/-! SUPPORT. What the operations of Machine/ColdTier.lean keep: the queue, and the canonical form of the stores. -/
namespace Sys2Proof.Machine

open Sys2Proof

theorem useDomain_kept {qs : Keep} (who : Option Nat) (d : Nat) (s : State) (hs : Kept qs s) : Kept qs (useDomain who d s) := by
  unfold useDomain
  repeat' first
    | with_reducible (first | assumption | apply State.count_kept | apply wakeDomain_kept | apply takeWake_kept)
    | split
    | exact Kept.same ‹_› rfl rfl rfl rfl

theorem execStitcherRead_kept {qs : Keep} (id : Nat) (s : State) (hs : Kept qs s) : Answers qs (execStitcherRead id s) := by
  unfold execStitcherRead
  repeat' first
    | with_reducible (first | assumption | apply updJob_kept | apply updOp_kept | apply useDomain_kept | apply Answers.next)
    | split

/-- What becomes of a read whose stitchers stay fenced, from a state `t` that keeps them. -/
theorem fencedRead_kept {qs : Keep} (id : Nat) (j : ReadJob) (s t : State) (hs : Kept qs s) (ht : Kept qs t) : Answers qs (
    match j.use with
    | .txn => done (endJob id (answerJob id none t))
    | .fill =>
      let sl := t.home j.gpn
      let hits := ((t.slice sl).txns.filter fun x => x.req.gpn == j.gpn && x.phase == .fill).map fun x => x.req.id
      done (forAll hits (updJob id (fun j => { j with t0 := t.clk }) t) fun t x => atomicRead sl x 0 true t)
    | .op =>
      match t.opOf j.gpn with
      | some o => if o.kind = .promotion then done (abandonOp j.gpn t) else .next s
      | none => done (endJob id t)) := by
  cases j.use with
  | txn => exact done_kept _ (endJob_kept _ _ (answerJob_kept _ _ _ ht))
  | fill => exact done_kept _ (forAll_kept _ _ _ (updJob_kept _ _ _ ht) fun _ _ h => atomicRead_kept _ _ _ _ _ h)
  | op =>
    dsimp only
    split
    · split
      · exact done_kept _ (abandonOp_kept _ _ ht)
      · exact Answers.next hs
    · exact done_kept _ (endJob_kept _ _ ht)

theorem execStitcherAllFencedTimeout_kept {qs : Keep} (id : Nat) (s : State) (hs : Kept qs s) : Answers qs (execStitcherAllFencedTimeout id s) := by
  unfold execStitcherAllFencedTimeout
  split
  · exact Answers.next hs
  · split
    · exact Answers.next hs
    · exact fencedRead_kept _ _ _ _ hs (State.until_kept _ _ hs)

theorem giveImage_kept {qs : Keep} (j : ReadJob) (res : Option (List Nat × List Line × BitVec 64)) (s : State) (hs : Kept qs s) : Kept qs (giveImage
    j res s) := by
  unfold giveImage
  repeat' first
    | with_reducible (first | assumption | intro _ | apply updJob_kept | apply endJob_kept | apply updOp_kept | apply abandonOp_kept
                            | apply answerJob_kept)
    | (extract_lets +onlyGivenNames x; first | (refine Kept.cut (qs := qs) x ?_ fun hx => ?_; subst x; rotate_left; clear_value x; rotate_left) | subst x)
    | split
    | exact Kept.same ‹_› rfl rfl rfl rfl

theorem execStitchReadDone_kept {qs : Keep} (id : Nat) (s0 : State) (hs0 : Kept qs s0) : Answers qs (execStitchReadDone id s0) := by
  unfold execStitchReadDone
  repeat' first
    | with_reducible (first | assumption | intro _ | apply State.count_kept | apply State.report_kept | apply State.reportAs_kept
                            | apply usePage_kept | apply updJob_kept | apply askOp_kept | apply poisonPage_kept | apply done_kept
                            | apply giveImage_kept | apply Answers.next)
    | (extract_lets +onlyGivenNames x; first | (refine Kept.cut (qs := qs) x ?_ fun hx => ?_; subst x; rotate_left; clear_value x; rotate_left) | subst x)
    | split

theorem execImageAppend_kept {qs : Keep} (st : Fin 16) (p : Nat) (s : State) (hs : Kept qs s) : Answers qs (execImageAppend st p s) := by
  unfold execImageAppend
  repeat' first
    | with_reducible (first | assumption | intro _ | apply useSlot_kept | apply usePage_kept | apply endJob_kept | apply updOp_kept
                            | apply placeImage_kept | apply useDomain_kept | apply Answers.next)
    | (extract_lets +onlyGivenNames x; subst x)
    | split
    | refine KeptOptP.of_eq ‹_ = some (_, _)› ?_

theorem execSeamSealTimeout_kept {qs : Keep} (st : Fin 16) (stream : Stream) (s : State) (hs : Kept qs s) : Answers qs (execSeamSealTimeout st
    stream s) := by
  unfold execSeamSealTimeout
  repeat' first
    | with_reducible (first | assumption | intro _ | apply State.until_kept | apply sealStream_kept | apply Answers.next)
    | (extract_lets +onlyGivenNames x; subst x)
    | split

theorem poisonRun_kept {qs : Keep} (k g p : Nat) (s : State) (hs : Kept qs s) : Kept qs (poisonRun k g p s) := by
  unfold poisonRun
  repeat' first
    | with_reducible (first | assumption | intro _ | apply State.onFlt_kept | apply State.updLd_kept | apply forAll_kept | apply State.log1_kept
                            | apply keepRecord_kept | apply State.vendor_kept)
    | (extract_lets +onlyGivenNames x; subst x)
    | split

theorem stall_kept {qs : Keep} (s : State) (hs : Kept qs s) : Kept qs (stall s) := by
  unfold stall
  with_reducible repeat' first | assumption | apply State.setFld_kept

theorem abandonImage_kept {qs : Keep} (p : Nat) (s : State) (hs : Kept qs s) : Kept qs (abandonImage p s) := by
  unfold abandonImage
  with_reducible repeat' first | assumption | apply State.count_kept | apply abandonOp_kept

theorem commitPromotion_kept {qs : Keep} (p : Nat) (o : PageOp) (lines : List Line) (pm : BitVec 64) (s : State) (hs : Kept qs s) : Kept qs
    (commitPromotion p o lines pm s) := by
  unfold commitPromotion
  repeat' first
    | with_reducible (first | assumption | intro _ | apply State.count_kept | apply State.onHot_kept | apply forAll_kept | apply putEntry_kept
                            | apply updDesc_kept | apply setLine_kept | apply abandonOp_kept)
    | (extract_lets +onlyGivenNames x; first | (refine Kept.cut (qs := qs) x ?_ fun hx => ?_; subst x; rotate_left; clear_value x; rotate_left) | subst x)
    | split

theorem servedDemotion_kept {qs : Keep} (p : Nat) (s : State) (hs : Kept qs s) : Kept qs (servedDemotion p s) := by
  unfold servedDemotion
  repeat' first
    | with_reducible (first | assumption | intro _ | apply State.onHot_kept | apply queueOp_kept | apply grantRelease_kept)
    | (extract_lets +onlyGivenNames x; first | (refine Kept.cut (qs := qs) x ?_ fun hx => ?_; subst x; rotate_left; clear_value x; rotate_left) | subst x)
    | split

theorem marksStored_kept {qs : Keep} (p : Nat) (o : PageOp) (s : State) (hs : Kept qs s) : Kept qs (marksStored p o s) := by
  unfold marksStored
  with_reducible repeat' first | assumption | apply setMarks_kept | apply askMark_kept

theorem commitPoison_kept {qs : Keep} (p : Nat) (o : PageOp) (s : State) (hs : Kept qs s) : Kept qs (commitPoison p o s) := by
  unfold commitPoison
  repeat' first
    | with_reducible (first | assumption | intro _ | apply commitImage_kept | apply updBoth_kept)
    | (extract_lets +onlyGivenNames x; first | (refine Kept.cut (qs := qs) x ?_ fun hx => ?_; subst x; rotate_left; clear_value x; rotate_left) | subst x)
    | split
    | exact Kept.same ‹_› rfl rfl rfl rfl

theorem commitOp_kept {qs : Keep} (p : Nat) (o : PageOp) (s : State) (hs : Kept qs s) : Kept qs (commitOp p o s) := by
  unfold commitOp
  repeat' first
    | with_reducible (first | assumption | intro _ | apply State.count_kept | apply closeOp_kept | apply commitImage_kept
                            | apply finishWriteback_kept | apply checkCounter_kept | apply abandonImage_kept | apply servedDemotion_kept
                            | apply marksStored_kept | apply commitPoison_kept)
    | (extract_lets +onlyGivenNames x; first | (refine Kept.cut (qs := qs) x ?_ fun hx => ?_; subst x; rotate_left; clear_value x; rotate_left) | subst x)
    | split

theorem commitDrop_kept {qs : Keep} (p : Nat) (o : PageOp) (s : State) (hs : Kept qs s) : Kept qs (commitDrop p o s) := by
  unfold commitDrop
  repeat' first
    | with_reducible (first | assumption | intro _ | apply forAll_kept | apply closeOp_kept | apply commitFree_kept | apply setMarks_kept
                            | apply dropFrames_kept | apply discardCommit_kept | apply poisonRun_kept)
    | (extract_lets +onlyGivenNames x; refine Kept.cut (qs := qs) x ?_ fun hx => ?_; subst x; rotate_left; clear_value x; rotate_left)
    | split

theorem execPageOpCommit_kept {qs : Keep} (p : Nat) (s : State) (hs : Kept qs s) : Answers qs (execPageOpCommit p s) := by
  unfold execPageOpCommit
  repeat' first
    | with_reducible (first | assumption | apply State.setFld_kept | apply State.unexpose_kept | apply closeOp_kept | apply grantRelease_kept
                            | apply done_kept | apply commitMove_kept | apply stall_kept | apply commitPromotion_kept | apply commitOp_kept
                            | apply commitDrop_kept | apply Answers.next)
    | split

theorem execJournalSeamDrain_kept {qs : Keep} (s : State) (hs : Kept qs s) : Answers qs (execJournalSeamDrain s) := by
  unfold execJournalSeamDrain
  repeat' first
    | with_reducible (first | assumption | intro _ | apply State.wrap_kept | apply State.onCold_kept | apply State.onVault_kept
                            | apply State.until_kept | apply writeSeamDirect_kept | apply refreshSubstitutes_kept | apply trimJournal_kept
                            | apply useItem_kept | apply Kept.foldl | apply Answers.next)
    | (extract_lets +onlyGivenNames x; subst x)
    | split

theorem execLedgerGroupWrite_kept {qs : Keep} (g : Nat) (s : State) (n : Nat) (hs : Kept qs s) : Answers qs (execLedgerGroupWrite g s n) := by
  unfold execLedgerGroupWrite
  repeat' first
    | with_reducible (first | assumption | apply groupSteps_kept | apply touchBlock_kept | apply done_kept | apply Answers.next)
    | split
    | exact Kept.same ‹_› rfl rfl rfl rfl

theorem setStage_kept {qs : Keep} (n : Nat) (s : State) (hs : Kept qs s) : Kept qs (setStage n s) := by
  unfold setStage
  repeat' first
    | with_reducible (first | assumption | apply State.setFld_kept | apply State.vendor_kept)
    | split

theorem enterDistress_kept {qs : Keep} (s : State) (hs : Kept qs s) : Kept qs (enterDistress s) := by
  unfold enterDistress
  repeat' first
    | with_reducible (first | assumption | intro _ | apply State.onCold_kept | apply forAll_kept | apply State.log1_kept | apply setStage_kept)
    | (extract_lets +onlyGivenNames x; first | (refine Kept.cut (qs := qs) x ?_ fun hx => ?_; subst x; rotate_left; clear_value x; rotate_left) | subst x)
    | split

theorem execDistressStageEntry_kept {qs : Keep} (s : State) (hs : Kept qs s) : Answers qs (execDistressStageEntry s) := by
  unfold execDistressStageEntry
  repeat' first
    | with_reducible (first | assumption | intro _ | apply setStage_kept | apply enterDistress_kept | apply Answers.next)
    | (extract_lets +onlyGivenNames x; subst x)
    | split

theorem execTackBorrow_kept {qs : Keep} (s : State) (hs : Kept qs s) : Answers qs (execTackBorrow s) := by
  unfold execTackBorrow
  repeat' first
    | with_reducible (first | assumption | apply State.setFld_kept | apply State.vendor_kept | apply Answers.next)
    | split

theorem execDistressDeadline_kept {qs : Keep} (s : State) (hs : Kept qs s) : Answers qs (execDistressDeadline s) := by
  unfold execDistressDeadline
  repeat' first
    | with_reducible (first | assumption | intro _ | apply State.until_kept | apply setStage_kept | apply Answers.next)
    | (extract_lets +onlyGivenNames x; first | (refine Kept.cut (qs := qs) x ?_ fun hx => ?_; subst x; rotate_left; clear_value x; rotate_left) | subst x)
    | split

theorem execExtentFreeze_kept {qs : Keep} (s : State) (hs : Kept qs s) : Answers qs (execExtentFreeze s) := by
  unfold execExtentFreeze
  repeat' first
    | with_reducible (first | assumption | intro _ | apply State.setFld_kept | apply State.onCold_kept | apply State.updLd_kept | apply forAll_kept
                            | apply State.vendor_kept | apply State.until_kept | apply dropFrozenPens_kept | apply finishReleases_kept
                            | apply done_kept | apply Answers.next)
    | (extract_lets +onlyGivenNames x; refine Kept.cut (qs := qs) x ?_ fun hx => ?_; subst x; rotate_left; clear_value x; rotate_left)
    | split

theorem execRatioRecompute_kept {qs : Keep} (s : State) (hs : Kept qs s) : Answers qs (execRatioRecompute s) := by
  unfold execRatioRecompute
  with_reducible repeat' first | assumption | apply State.setFld_kept | apply State.until_kept | apply Answers.next

theorem collect_kept {qs : Keep} (g : Nat) (s : State) (hs : Kept qs s) : Kept qs (collect g s) := by
  unfold collect
  with_reducible repeat' first | assumption | intro _ | apply State.onCold_kept | apply forAll_kept | apply setSeg_kept | apply askOp_kept

theorem execGcStart_kept {qs : Keep} (s : State) (hs : Kept qs s) : Answers qs (execGcStart s) := by
  unfold execGcStart
  repeat' first
    | with_reducible (first | assumption | intro _ | apply State.setFld_kept | apply done_kept | apply collect_kept | apply Answers.next)
    | (extract_lets +onlyGivenNames x; subst x)
    | split

theorem execGcHostFallback_kept {qs : Keep} (s : State) (hs : Kept qs s) : Answers qs (execGcHostFallback s) := by
  unfold execGcHostFallback
  repeat' first
    | with_reducible (first | assumption | intro _ | apply State.setFld_kept | apply State.vendor_kept | apply done_kept | apply collect_kept
                            | apply Answers.next)
    | (extract_lets +onlyGivenNames x; first | (refine Kept.cut (qs := qs) x ?_ fun hx => ?_; subst x; rotate_left; clear_value x; rotate_left) | subst x)
    | split

theorem gcStop_kept {qs : Keep} (s : State) (hs : Kept qs s) : Kept qs (gcStop s) := by
  unfold gcStop
  repeat' first
    | with_reducible (first | assumption | intro _ | apply State.setFld_kept)
    | (extract_lets +onlyGivenNames x; subst x)
    | split

theorem nextHostVictim_kept {qs : Keep} (s : State) (hs : Kept qs s) : Kept qs (nextHostVictim s) := by
  unfold nextHostVictim
  repeat' first
    | with_reducible (first | assumption | intro _ | apply State.onCold_kept | apply collect_kept)
    | split

theorem execSegmentFree_kept {qs : Keep} (g : Nat) (s : State) (hs : Kept qs s) : Answers qs (execSegmentFree g s) := by
  unfold execSegmentFree
  repeat' first
    | with_reducible (first | assumption | intro _ | apply freeSegment_kept | apply gcStop_kept | apply nextHostVictim_kept | apply Answers.next)
    | (extract_lets +onlyGivenNames x; subst x)
    | split

theorem execTackReturn_kept {qs : Keep} (s : State) (hs : Kept qs s) : Answers qs (execTackReturn s) := by
  unfold execTackReturn
  repeat' first
    | with_reducible (first | assumption | intro _ | apply State.setFld_kept | apply forAll_kept | apply State.vendor_kept | apply done_kept
                            | apply collect_kept | apply Answers.next)
    | (extract_lets +onlyGivenNames x; first | (refine Kept.cut (qs := qs) x ?_ fun hx => ?_; subst x; rotate_left; clear_value x; rotate_left) | subst x)
    | split

theorem wrongJournal_kept {qs : Keep} (errs : List (Nat × Fin 16 × BitVec 2048)) (s : State) (hs : Kept qs s) : Kept qs (wrongJournal errs s) := by
  unfold wrongJournal
  repeat' first
    | with_reducible (first | assumption | intro _ | apply State.onCold_kept | apply forAll_kept | apply StitchesWf.upd)
    | exact Kept.same ‹_› rfl rfl rfl rfl

theorem checkJournal_kept {qs : Keep} (l : List Nat) (s : State) (hs : Kept qs s) : Kept qs (checkJournal l s).2 := by
  unfold checkJournal
  repeat' first
    | with_reducible (first | assumption | intro _ | apply State.count_kept | apply State.report_kept | apply Kept.foldl | apply Kept.foldl_second
                            | apply Kept.foldl_third | refine Kept.pending (qs := qs) ?_ | refine Kept.regs (qs := qs) ?_
                            | refine Kept.lines (qs := qs) ?_ | refine Kept.stitches (qs := qs) ?_)
    | split
    | dsimp only
    | (with_reducible refine Kept.of_parts ?_ ?_ ?_ ?_ <;> dsimp only)

theorem rebuildSegments_kept {qs : Keep} (s : State) (hs : Kept qs s) : Kept qs (rebuildSegments s) := by
  unfold rebuildSegments
  repeat' first
    | with_reducible (first | assumption | intro _ | apply State.spent_kept | apply State.onCold_kept | apply forAll_kept | apply freeSegment_kept)
    | (extract_lets +onlyGivenNames x; first | (refine Kept.cut (qs := qs) x ?_ fun hx => ?_; subst x; rotate_left; clear_value x; rotate_left) | subst x)
    | split
    | exact Kept.same ‹_› rfl rfl rfl rfl

theorem recoveryEnds_kept {qs : Keep} (s : State) (hs : Kept qs s) : Kept qs (recoveryEnds s) := by
  unfold recoveryEnds
  repeat' first
    | with_reducible (first | assumption | intro _ | apply State.setFld_kept | apply forAll_kept | apply repeatUpdates_kept | apply askMark_kept
                            | apply discardWalk_kept | apply restoreBorrowed_kept | apply enterDistress_kept | apply rebuildSegments_kept)
    | (extract_lets +onlyGivenNames x; first | (refine Kept.cut (qs := qs) x ?_ fun hx => ?_; subst x; rotate_left; clear_value x; rotate_left) | subst x)
    | exact Kept.same ‹_› rfl rfl rfl rfl

theorem execLedgerRecoveryDone_kept {qs : Keep} (errs : List (Nat × Fin 16 × BitVec 2048)) (s : State) (hs : Kept qs s) : Answers qs
    (execLedgerRecoveryDone errs s) := by
  unfold execLedgerRecoveryDone
  repeat' first
    | with_reducible (first | assumption | intro _ | apply State.setFld_kept | apply useItem_kept | apply done_kept | apply activateMemory_kept
                            | apply clearPins_kept | apply wrongJournal_kept | apply checkJournal_kept | apply recoveryEnds_kept
                            | apply Answers.next | refine Kept.pending (qs := qs) ?_ | refine Kept.regs (qs := qs) ?_
                            | refine Kept.lines (qs := qs) ?_ | refine Kept.stitches (qs := qs) ?_)
    | (extract_lets +onlyGivenNames x; first | (refine Kept.cut (qs := qs) x ?_ fun hx => ?_; subst x; rotate_left; clear_value x; rotate_left) | subst x)
    | split
    | refine Kept.of_pair ‹_ = (_, _)› ?_
    | dsimp only
    | (with_reducible refine Kept.of_parts ?_ ?_ ?_ ?_ <;> dsimp only)

end Sys2Proof.Machine
end

