-- ==== Sys2Proof/Laws/KeptMailOps.lean ====
section
/-! SUPPORT. What the operations of Machine/MailOps.lean keep: the queue, and the canonical form of the stores. -/
namespace Sys2Proof.Machine

open Sys2Proof

theorem answer_kept {qs : Keep} (via : CmdPath) (rc : Nat) (payload : List Nat) (s : State) (hs : Kept qs s) : Kept qs (answer via rc payload s) := by
  unfold answer
  with_reducible repeat' first | assumption | apply State.emit_kept

theorem refuse_kept {qs : Keep} (via : CmdPath) (rc : Nat) (s : State) (hs : Kept qs s) : Kept qs (refuse via rc s) := by
  unfold refuse
  with_reducible repeat' first | assumption | apply State.count_kept | apply answer_kept

theorem answerCode_kept {qs : Keep} (via : CmdPath) (code : Nat) (s : State) (hs : Kept qs s) : Kept qs (answerCode via code s) := by
  unfold answerCode
  with_reducible repeat' first | assumption | apply answer_kept

theorem wakePlaza_kept {qs : Keep} (via : CmdPath) (s : State) (hs : Kept qs s) : Kept qs (wakePlaza via s) := by
  unfold wakePlaza
  repeat' first
    | with_reducible (first | assumption | apply takeWake_kept | apply serveWake_kept)
    | split

theorem vendorCmd_kept {qs : Keep} (ok : Bool) (via : CmdPath) (f : State → State) (s : State) (hf : ∀ a0, Kept qs a0 → Kept qs (f a0)) (hs : Kept
    qs s) : Kept qs (vendorCmd ok via f s) := by
  unfold vendorCmd
  repeat' first
    | with_reducible (first | assumption | apply State.count_kept | apply refuse_kept | apply wakePlaza_kept | apply hf)
    | split

theorem mgrCmd_kept {qs : Keep} (via : CmdPath) (f : State → State) (s : State) (hf : ∀ a0, Kept qs a0 → Kept qs (f a0)) (hs : Kept qs s) : Kept qs
    (mgrCmd via f s) := by
  unfold mgrCmd
  repeat' first
    | with_reducible (first | assumption | apply refuse_kept | apply vendorCmd_kept | apply hf)
    | split

theorem holdMgr_kept {qs : Keep} (via : CmdPath) (s : State) (hs : Kept qs s) : Kept qs (holdMgr via s) := by
  unfold holdMgr
  with_reducible repeat' first | assumption | apply State.onMgmt_kept

theorem endMgr_kept {qs : Keep} (rc : Nat) (payload : List Nat) (s : State) (hs : Kept qs s) : Kept qs (endMgr rc payload s) := by
  unfold endMgr
  repeat' first
    | with_reducible (first | assumption | apply State.onMgmt_kept | apply answer_kept)
    | split

end Sys2Proof.Machine
end

