-- ==== Sys2Proof/Laws/KeptContracts.lean ====
section
/-! SUPPORT. What the operations of Machine/Contracts.lean keep: the queue, and the canonical form of the stores. -/
namespace Sys2Proof.Machine

open Sys2Proof

theorem answerCinch_kept {qs : Keep} (via : CmdPath) (status res id : Nat) (lim : Nat × Nat × Nat) (s : State) (hs : Kept qs s) : Kept qs
    (answerCinch via status res id lim s) := by
  unfold answerCinch
  repeat' first
    | with_reducible (first | assumption | apply State.count_kept | apply answer_kept)
    | split

theorem takeSlot_kept {qs : Keep} (i : Nat) (c : Cinch) (s : State) (hs : Kept qs s) : Kept qs (takeSlot i c s) := by
  unfold takeSlot
  with_reducible repeat' first | assumption | apply State.onQos_kept | apply State.updCinch_kept

theorem admitCinch_kept {qs : Keep} (i : Nat) (s : State) (hs : Kept qs s) : Kept qs (admitCinch i s) := by
  unfold admitCinch
  with_reducible repeat' first | assumption | apply State.fresh_kept | apply State.updCinch_kept | apply recheckAllowed_kept

theorem judgeCinch_kept {qs : Keep} (via : CmdPath) (r : CinchRequest) (s : State) (hs : Kept qs s) : Kept qs (judgeCinch via r s) := by
  unfold judgeCinch
  repeat' first
    | with_reducible (first | assumption | intro _ | apply State.vendor_kept | apply answerCinch_kept | apply takeSlot_kept | apply admitCinch_kept)
    | (extract_lets +onlyGivenNames x; first | (refine Kept.cut (qs := qs) x ?_ fun hx => ?_; subst x; rotate_left; clear_value x; rotate_left) | subst x)
    | split

theorem execRequestCinch_kept {qs : Keep} (via : CmdPath) (r : CinchRequest) (s : State) (hs : Kept qs s) : Answers qs (execRequestCinch via r s) :=
    by
  unfold execRequestCinch
  repeat' first
    | with_reducible (first | assumption | intro _ | apply State.onQos_kept | apply done_kept | apply vendorCmd_kept | apply judgeCinch_kept
                            | apply Answers.next)
    | split

theorem execReleaseCinch_kept {qs : Keep} (via : CmdPath) (id : Nat) (s : State) (hs : Kept qs s) : Answers qs (execReleaseCinch via id s) := by
  unfold execReleaseCinch
  repeat' first
    | with_reducible (first | assumption | intro _ | apply forAll_kept | apply unpin_kept | apply freeCinch_kept | apply done_kept
                            | apply answer_kept | apply vendorCmd_kept | apply Answers.next)
    | split

theorem execConfirmCinch_kept {qs : Keep} (via : CmdPath) (id : Nat) (ok : Bool) (s : State) (hs : Kept qs s) : Answers qs (execConfirmCinch via id
    ok s) := by
  unfold execConfirmCinch
  repeat' first
    | with_reducible (first | assumption | intro _ | apply freeCinch_kept | apply done_kept | apply answer_kept | apply mgrCmd_kept
                            | apply answerCinch_kept | apply admitCinch_kept | apply Answers.next)
    | split

theorem execCinchConfirmTimeout_kept {qs : Keep} (slot : Fin 64) (s : State) (hs : Kept qs s) : Answers qs (execCinchConfirmTimeout slot s) := by
  unfold execCinchConfirmTimeout
  repeat' first
    | with_reducible (first | assumption | intro _ | apply State.until_kept | apply freeCinch_kept | apply answerCinch_kept | apply Answers.next)
    | (extract_lets +onlyGivenNames x; first | (refine Kept.cut (qs := qs) x ?_ fun hx => ?_; subst x; rotate_left; clear_value x; rotate_left) | subst x)
    | split

theorem execCinchPinnedActive_kept {qs : Keep} (slot : Fin 64) (s : State) (hs : Kept qs s) : Answers qs (execCinchPinnedActive slot s) := by
  unfold execCinchPinnedActive
  repeat' first
    | with_reducible (first | assumption | apply activate_kept | apply Answers.next)
    | split

theorem execAdmissionRerun_kept {qs : Keep} (s : State) (hs : Kept qs s) : Answers qs (execAdmissionRerun s) := by
  unfold execAdmissionRerun
  with_reducible repeat' first | assumption | apply demoteAll_kept | apply notePassing_kept | apply Answers.next

theorem execCinchRestore_kept {qs : Keep} (s : State) (hs : Kept qs s) : Answers qs (execCinchRestore s) := by
  unfold execCinchRestore
  repeat' first
    | with_reducible (first | assumption | intro _ | apply forAll_kept | apply State.until_kept | apply restore_kept | apply Answers.next)
    | (extract_lets +onlyGivenNames x; first | (refine Kept.cut (qs := qs) x ?_ fun hx => ?_; subst x; rotate_left; clear_value x; rotate_left) | subst x)
    | split

theorem excessStep_kept {qs : Keep} (c : Nat) (s : State) (hs : Kept qs s) : Kept qs (excessStep c s) := by
  unfold excessStep
  repeat' first
    | with_reducible (first | assumption | intro _ | apply State.setFld_kept | apply State.count_kept | apply State.onQos_kept
                            | apply State.bytes_kept | apply State.vendor_kept)
    | (extract_lets +onlyGivenNames x; subst x)
    | split

theorem execExcessWindow_kept {qs : Keep} (s : State) (hs : Kept qs s) : Answers qs (execExcessWindow s) := by
  unfold execExcessWindow
  with_reducible repeat' first | assumption | intro _ | apply forAll_kept | apply State.until_kept | apply excessStep_kept | apply Answers.next

end Sys2Proof.Machine
end

