-- ==== Sys2Proof/Laws/KeptMemOps.lean ====
section
/-! SUPPORT. What the operations of Machine/MemOps.lean keep: the queue, and the canonical form of the stores. -/
namespace Sys2Proof.Machine

open Sys2Proof

theorem servedAtOnce_kept {qs : Keep} (r : Req) (s : State) (hs : Kept qs s) : Kept qs (servedAtOnce r s) := by
  unfold servedAtOnce
  repeat' first
    | with_reducible (first | assumption | apply closeWindow_kept | apply accountReply_kept | apply setFilter_kept)
    | split

theorem fastRead_kept {qs : Keep} (r : Req) (s : State) (hs : Kept qs s) : KeptOptP qs (fastRead r s) := by
  unfold fastRead
  repeat' first
    | with_reducible (first | assumption | apply touchHeat_kept | apply servedAtOnce_kept | exact KeptOptP.of_none | apply KeptOptP.of_some)
    | split

theorem fastWrite_kept {qs : Keep} (r : Req) (s : State) (hs : Kept qs s) : KeptOpt qs (fastWrite r s) := by
  unfold fastWrite
  repeat' first
    | with_reducible (first | assumption | intro _ | apply updOp_kept | apply touchHeat_kept | apply allocForWrite_kept | apply writeLine_kept
                            | apply servedAtOnce_kept | apply KeptOpt.ite | exact KeptOpt.of_none | apply KeptOpt.of_some | apply KeptOpt.map
                            | apply KeptOpt.map_of)
    | split
    | refine KeptOpt.of_eq ‹_ = some _› ?_

theorem fastAtomic_kept {qs : Keep} (r : Req) (o : AtomicOp) (s : State) (hs : Kept qs s) : KeptOptP qs (fastAtomic r o s) := by
  unfold fastAtomic
  repeat' first
    | with_reducible (first | assumption | intro _ | apply State.count_kept | apply State.counted_kept | apply updOp_kept | apply touchHeat_kept
                            | apply allocForWrite_kept | apply storeLine_kept | apply servedAtOnce_kept | exact KeptOptP.of_none
                            | apply KeptOptP.of_some | apply KeptOptP.map)
    | split
    | refine Kept.of_pair ‹_ = (_, _)› ?_

theorem takeAnswer_kept {qs : Keep} (x : Running) (id : Nat) (s : State) (hs : Kept qs s) : KeptAccess qs (takeAnswer x id s) := by
  unfold takeAnswer
  repeat' first
    | with_reducible (first | assumption | intro _ | apply accountReply_kept | apply KeptAccess.of_got | apply KeptAccess.of_wait
                            | exact KeptAccess.of_stop | refine Kept.pending (qs := qs) ?_ | refine Kept.regs (qs := qs) ?_
                            | refine Kept.lines (qs := qs) ?_ | refine Kept.stitches (qs := qs) ?_)
    | (extract_lets +onlyGivenNames x; first | (refine Kept.cut (qs := qs) x ?_ fun hx => ?_; subst x; rotate_left; clear_value x; rotate_left) | subst x)
    | split
    | dsimp only
    | (with_reducible refine Kept.of_parts ?_ ?_ ?_ ?_ <;> dsimp only)

theorem putRequest_kept {qs : Keep} (x : Running) (mk : Nat → Req) (s : State) (hs : Kept qs s) : KeptAccess qs (putRequest x mk s) := by
  unfold putRequest
  repeat' first
    | with_reducible (first | assumption | intro _ | apply State.fresh_kept | apply KeptAccess.of_got | apply KeptAccess.of_wait
                            | exact KeptAccess.of_stop | refine Kept.pending (qs := qs) ?_ | refine Kept.regs (qs := qs) ?_
                            | refine Kept.lines (qs := qs) ?_ | refine Kept.stitches (qs := qs) ?_)
    | refine Kept.of_pair ‹_ = (_, _)› ?_
    | dsimp only
    | (with_reducible refine Kept.of_parts ?_ ?_ ?_ ?_ <;> dsimp only)

theorem engRead_kept {qs : Keep} (x : Running) (k a : Nat) (s : State) (hs : Kept qs s) : KeptAccess qs (engRead x k a s) := by
  unfold engRead
  repeat' first
    | with_reducible (first | assumption | intro _ | apply fastRead_kept | apply takeAnswer_kept | apply putRequest_kept | apply KeptAccess.of_got
                            | apply KeptAccess.of_wait | exact KeptAccess.of_stop)
    | (extract_lets +onlyGivenNames x; subst x)
    | split
    | refine KeptOptP.of_eq ‹_ = some (_, _)› ?_

theorem engWrite_kept {qs : Keep} (x : Running) (k a : Nat) (v : Line) (mask : BitVec 64) (poison : Bool) (s : State) (hs : Kept qs s) : KeptAccess
    qs (engWrite x k a v mask poison s) := by
  unfold engWrite
  repeat' first
    | with_reducible (first | assumption | intro _ | apply fastWrite_kept | apply takeAnswer_kept | apply putRequest_kept | apply KeptAccess.of_got
                            | apply KeptAccess.of_wait | exact KeptAccess.of_stop)
    | (extract_lets +onlyGivenNames x; subst x)
    | split
    | refine KeptOpt.of_eq ‹_ = some _› ?_

theorem engAtomic_kept {qs : Keep} (x : Running) (k a : Nat) (o : AtomicOp) (s : State) (hs : Kept qs s) : KeptAccess qs (engAtomic x k a o s) := by
  unfold engAtomic
  repeat' first
    | with_reducible (first | assumption | intro _ | apply fastAtomic_kept | apply takeAnswer_kept | apply putRequest_kept | apply KeptAccess.of_got
                            | apply KeptAccess.of_wait | exact KeptAccess.of_stop)
    | (extract_lets +onlyGivenNames x; subst x)
    | split
    | refine KeptOptP.of_eq ‹_ = some (_, _)› ?_

end Sys2Proof.Machine
end

