-- ==== Sys2Proof/Laws/KeptEngines.lean ====
section
/-! SUPPORT. What the operations of Machine/Engines.lean keep: the queue, and the canonical form of the stores. -/
namespace Sys2Proof.Machine

open Sys2Proof

theorem writeRingCfg_kept {qs : Keep} (r v : Nat) (s : State) (hs : Kept qs s) : Kept qs (writeRingCfg r v s) := by
  unfold writeRingCfg
  repeat' first
    | with_reducible (first | assumption | intro _ | apply State.setFld_kept | apply State.updRing_kept | apply dropRing_kept)
    | (extract_lets +onlyGivenNames x; first | (refine Kept.cut (qs := qs) x ?_ fun hx => ?_; subst x; rotate_left; clear_value x; rotate_left) | subst x)
    | split

theorem execRingEnable_kept {qs : Keep} (p : Path) (r : Fin 256) (v : BitVec 32) (s : State) (hs : Kept qs s) : Answers qs (execRingEnable p r v s)
    := by
  unfold execRingEnable
  repeat' first
    | with_reducible (first | assumption | apply State.accessFault_kept | apply done_kept | apply writeRingCfg_kept | apply Answers.next)
    | split

theorem ringTail_kept {qs : Keep} (r v : Nat) (s : State) (hs : Kept qs s) : Kept qs (ringTail r v s) := by
  unfold ringTail
  repeat' first
    | with_reducible (first | assumption | intro _ | apply State.setFld_kept | apply State.accessFault_kept | apply State.updRing_kept
                            | apply haltRing_kept)
    | (extract_lets +onlyGivenNames x; subst x)
    | split

theorem ringBell_kept {qs : Keep} (r v : Nat) (s : State) (hs : Kept qs s) : Kept qs (ringBell r v s) := by
  unfold ringBell
  repeat' first
    | with_reducible (first | assumption | intro _ | apply takeWake_kept | apply serveWake_kept | apply ringTail_kept)
    | (extract_lets +onlyGivenNames x; first | (refine Kept.cut (qs := qs) x ?_ fun hx => ?_; subst x; rotate_left; clear_value x; rotate_left) | subst x)
    | split

theorem execRingDoorbell_kept {qs : Keep} (p : Path) (r : Fin 256) (v : BitVec 32) (s : State) (hs : Kept qs s) : Answers qs (execRingDoorbell p r v
    s) := by
  unfold execRingDoorbell
  repeat' first
    | with_reducible (first | assumption | apply State.accessFault_kept | apply done_kept | apply ringBell_kept | apply Answers.next)
    | split

theorem resumeRing_kept {qs : Keep} (r : Nat) (s : State) (hs : Kept qs s) : Kept qs (resumeRing r s) := by
  unfold resumeRing
  with_reducible repeat' first | assumption | apply State.setFld_kept

theorem execRingResume_kept {qs : Keep} (p : Path) (r : Fin 256) (s : State) (hs : Kept qs s) : Answers qs (execRingResume p r s) := by
  unfold execRingResume
  repeat' first
    | with_reducible (first | assumption | apply State.accessFault_kept | apply done_kept | apply resumeRing_kept | apply Answers.next)
    | split

theorem begin_kept {qs : Keep} (x : Running) (s : State) (hs : Kept qs s) : Kept qs (begin x s) := by
  unfold begin
  repeat' first
    | with_reducible (first | assumption | intro _ | apply putRun_kept | apply haltRing_kept)
    | (extract_lets +onlyGivenNames x; first | (refine Kept.cut (qs := qs) x ?_ fun hx => ?_; subst x; rotate_left; clear_value x; rotate_left) | subst x)
    | split

theorem unreadDescriptor_kept {qs : Keep} (s : State) (hs : Kept qs s) : Kept qs (unreadDescriptor s).2 := by
  unfold unreadDescriptor
  with_reducible repeat' first | assumption | apply State.spent_kept

theorem refuseTail_kept {qs : Keep} (r c : Nat) (s : State) (hs : Kept qs s) : Kept qs (refuseTail r c s) := by
  unfold refuseTail
  with_reducible repeat' first | assumption | intro _ | apply State.onNme_kept | apply State.updRing_kept | apply forAll_kept | apply stopRuns_kept
                               | apply unreadDescriptor_kept

theorem fetchLine_kept {qs : Keep} (x : Running) (s : State) (hs : Kept qs s) : Kept qs (fetchLine x s) := by
  unfold fetchLine
  repeat' first
    | with_reducible (first | assumption | intro _ | apply putRun_kept | apply haltRing_kept | apply engRead_kept | apply begin_kept
                            | apply unreadDescriptor_kept)
    | (extract_lets +onlyGivenNames x; subst x)
    | split
    | refine KeptAccess.of_eq_wait ‹_ = Access.wait _ _› ?_
    | refine KeptAccess.of_eq_got ‹_ = Access.got _ _ _ _› ?_

theorem execDescriptorFetch_kept {qs : Keep} (n : Fin 8) (s : State) (hs : Kept qs s) : Answers qs (execDescriptorFetch n s) := by
  unfold execDescriptorFetch
  repeat' first
    | with_reducible (first | assumption | apply State.onNme_kept | apply State.updRing_kept | apply done_kept | apply begin_kept
                            | apply refuseTail_kept | apply fetchLine_kept | apply Answers.next)
    | split

theorem execDescriptorWaitTimeout_kept {qs : Keep} (r : Fin 256) (s : State) (hs : Kept qs s) : Answers qs (execDescriptorWaitTimeout r s) := by
  unfold execDescriptorWaitTimeout
  repeat' first
    | with_reducible (first | assumption | apply State.advance_kept | apply refuseTail_kept | apply Answers.next)
    | split

theorem engLoop_kept {qs : Keep} (f : Running → State → Running × State × Bool) (n : Nat) (x : Running) (s : State)
    (hf : ∀ x t, Kept qs t → Kept qs (f x t).2.1) (hs : Kept qs s) : Kept qs (engLoop f n x s).2 := by
  induction n generalizing x s with
  | zero => exact hs
  | succ n ih =>
    rw [engLoop]
    split
    have ht := Kept.of_triple ‹_› (hf x s hs)
    split
    · exact ih _ _ ht
    · exact ht

theorem endPart_kept {qs : Keep} (x : Running) (c : Nat) (s : State) (hs : Kept qs s) : Kept qs (endPart x c s).2.1 := by
  unfold endPart
  repeat' first
    | with_reducible (first | assumption | apply haltRing_kept)
    | split

theorem noResult_kept {qs : Keep} (x : Running) (s : State) (hs : Kept qs s) : Kept qs (noResult x s).2 := by
  unfold noResult
  with_reducible repeat' first | assumption | apply State.spent_kept

theorem part_kept {qs : Keep} (reads : List Nat) (out : List Line → List (Nat × Line × BitVec 64)) (onPoison : List Nat) (unit : Nat) (fin : List
    Line → Running → State → Running × State × Bool) (x : Running) (s : State) (hfin : ∀ a0 a1 a2, Kept qs a2 → Kept qs (fin a0 a1 a2).2.1) (hs :
    Kept qs s) : Kept qs (part reads out onPoison unit fin x s).2.1 := by
  unfold part
  repeat' first
    | with_reducible (first | assumption | intro _ | apply engRead_kept | apply engWrite_kept | apply endPart_kept | apply noResult_kept
                            | apply hfin)
    | (extract_lets +onlyGivenNames x; subst x)
    | split
    | refine KeptAccess.of_eq_wait ‹_ = Access.wait _ _› ?_
    | refine KeptAccess.of_eq_got ‹_ = Access.got _ _ _ _› ?_

theorem nextPart_kept {qs : Keep} (n code : Nat) (x : Running) (s : State) (hs : Kept qs s) : Kept qs (nextPart n code x s).2.1 := by
  unfold nextPart
  repeat' first
    | with_reducible (first | assumption | intro _ | apply endPart_kept)
    | (extract_lets +onlyGivenNames x; subst x)
    | split

theorem partCopy_kept {qs : Keep} (x : Running) (y0 : State) (hy0 : Kept qs y0) : Kept qs (partCopy x y0).2.1 := by
  unfold partCopy
  with_reducible repeat' first | assumption | intro _ | apply part_kept | apply nextPart_kept

theorem partFill_kept {qs : Keep} (v : Line) (x : Running) (y0 : State) (hy0 : Kept qs y0) : Kept qs (partFill v x y0).2.1 := by
  unfold partFill
  with_reducible repeat' first | assumption | intro _ | apply part_kept | apply nextPart_kept

theorem partCrc_kept {qs : Keep} (x : Running) (y0 : State) (hy0 : Kept qs y0) : Kept qs (partCrc x y0).2.1 := by
  unfold partCrc
  with_reducible repeat' first | assumption | intro _ | apply part_kept | apply nextPart_kept

theorem partSha_kept {qs : Keep} (x : Running) (y0 : State) (hy0 : Kept qs y0) : Kept qs (partSha x y0).2.1 := by
  unfold partSha
  repeat' first
    | with_reducible (first | assumption | intro _ | apply endPart_kept | apply part_kept)
    | (extract_lets +onlyGivenNames x; subst x)
    | split

theorem partCompare_kept {qs : Keep} (x : Running) (y0 : State) (hy0 : Kept qs y0) : Kept qs (partCompare x y0).2.1 := by
  unfold partCompare
  repeat' first
    | with_reducible (first | assumption | intro _ | apply endPart_kept | apply part_kept | apply nextPart_kept)
    | (extract_lets +onlyGivenNames x; subst x)
    | split

theorem partMatrix_kept {qs : Keep} (x : Running) (y0 : State) (hy0 : Kept qs y0) : Kept qs (partMatrix x y0).2.1 := by
  unfold partMatrix
  with_reducible repeat' first | assumption | intro _ | apply part_kept

theorem partRsEnc_kept {qs : Keep} (x : Running) (y0 : State) (hy0 : Kept qs y0) : Kept qs (partRsEnc x y0).2.1 := by
  unfold partRsEnc
  repeat' first
    | with_reducible (first | assumption | intro _ | apply part_kept | apply nextPart_kept | apply partMatrix_kept)
    | split

theorem partRsRec_kept {qs : Keep} (x : Running) (s : State) (hs : Kept qs s) : Kept qs (partRsRec x s).2.1 := by
  unfold partRsRec
  repeat' first
    | with_reducible (first | assumption | intro _ | apply endPart_kept | apply part_kept | apply nextPart_kept | apply partMatrix_kept)
    | (extract_lets +onlyGivenNames x; subst x)
    | split

theorem partAtomic_kept {qs : Keep} (x : Running) (s : State) (hs : Kept qs s) : Kept qs (partAtomic x s).2.1 := by
  unfold partAtomic
  repeat' first
    | with_reducible (first | assumption | intro _ | apply State.bytes_kept | apply engRead_kept | apply engAtomic_kept | apply endPart_kept
                            | apply nextPart_kept)
    | (extract_lets +onlyGivenNames x; subst x)
    | split
    | refine KeptAccess.of_eq_wait ‹_ = Access.wait _ _› ?_
    | refine KeptAccess.of_eq_got ‹_ = Access.got _ _ _ _› ?_

theorem partZero_kept {qs : Keep} (x : Running) (s : State) (hs : Kept qs s) : Kept qs (partZero x s).2.1 := by
  unfold partZero
  repeat' first
    | with_reducible (first | assumption | intro _ | apply queueOpOf_kept | apply discardCommit_kept | apply takeAnswer_kept | apply engWrite_kept
                            | apply endPart_kept | apply nextPart_kept | apply partFill_kept | refine Kept.pending (qs := qs) ?_
                            | refine Kept.regs (qs := qs) ?_ | refine Kept.lines (qs := qs) ?_ | refine Kept.stitches (qs := qs) ?_)
    | (extract_lets +onlyGivenNames x; first | (refine Kept.cut (qs := qs) x ?_ fun hx => ?_; subst x; rotate_left; clear_value x; rotate_left) | subst x)
    | split
    | refine KeptAccess.of_eq_wait ‹_ = Access.wait _ _› ?_
    | refine KeptAccess.of_eq_got ‹_ = Access.got _ _ _ _› ?_
    | refine Kept.of_pair ‹_ = (_, _)› ?_
    | refine Kept.of_triple ‹_ = (_, _, _)› ?_
    | dsimp only
    | (with_reducible refine Kept.of_parts ?_ ?_ ?_ ?_ <;> dsimp only)

/-- A hint that acted keeps them. -/
theorem hintPage_kept {qs : Keep} (promote : Bool) (p port : Nat) (s : State) (hs : Kept qs s) :
    ∀ t, hintPage promote p port s = .acted t → Kept qs t := by
  unfold hintPage
  dsimp only
  split
  · split
    · exact fun _ e => nomatch e
    · split
      · exact fun _ e => nomatch e
      · split
        · exact fun _ e => by cases e; exact beginOp_kept _ _ _ _ _ hs
        · exact fun _ e => nomatch e
  · split
    · exact fun _ e => nomatch e
    · split
      · split
        · exact fun _ e => by cases e; exact grantRelease_kept _ _ hs
        · exact fun _ e => nomatch e
      · have h1 := State.onHot_kept s (fun h => { h with hints := if h.hints.contains p then h.hints else h.hints ++ [p] }) hs fun _ h => h
        exact fun _ e => by
          cases e
          split
          · exact h1
          · exact cleanPage_kept _ _ _ h1

theorem partHint_kept {qs : Keep} (x : Running) (s : State) (hs : Kept qs s) : Kept qs (partHint x s).2.1 := by
  unfold partHint
  repeat' first
    | with_reducible (first | assumption | intro _ | apply queueOpOf_kept | apply endPart_kept | apply nextPart_kept
                            | refine Kept.pending (qs := qs) ?_ | refine Kept.regs (qs := qs) ?_ | refine Kept.lines (qs := qs) ?_
                            | refine Kept.stitches (qs := qs) ?_)
    | (extract_lets +onlyGivenNames x; first | (refine Kept.cut (qs := qs) x ?_ fun hx => ?_; subst x; rotate_left; clear_value x; rotate_left) | subst x)
    | split
    | refine Kept.of_pair ‹_ = (_, _)› ?_
    | refine Kept.of_triple ‹_ = (_, _, _)› ?_
    | refine hintPage_kept _ _ _ _ ?_ _ ‹_ = HintResult.acted _›
    | dsimp only
    | (with_reducible refine Kept.of_parts ?_ ?_ ?_ ?_ <;> dsimp only)

theorem runWith_kept {qs : Keep} (opc : Nat) (f : Running → State → Running × State × Bool) (r idx : Nat) (s : State) (hf : ∀ a0 a1, Kept qs a1 →
    Kept qs (f a0 a1).2.1) (hs : Kept qs s) : Kept qs (runWith opc f r idx s) := by
  unfold runWith
  repeat' first
    | with_reducible (first | assumption | apply putRun_kept | apply engLoop_kept | apply hf)
    | split

theorem execNop_kept {qs : Keep} (r : Fin 256) (idx : Nat) (s : State) (hs : Kept qs s) : Answers qs (execNop r idx s) := by
  unfold execNop
  with_reducible repeat' first | assumption | intro _ | apply done_kept | apply endPart_kept | apply runWith_kept

theorem execCopy_kept {qs : Keep} (r : Fin 256) (idx : Nat) (s : State) (hs : Kept qs s) : Answers qs (execCopy r idx s) := by
  unfold execCopy
  with_reducible repeat' first | assumption | apply done_kept | apply partCopy_kept | apply runWith_kept

theorem execFill_kept {qs : Keep} (r : Fin 256) (idx : Nat) (s : State) (hs : Kept qs s) : Answers qs (execFill r idx s) := by
  unfold execFill
  with_reducible repeat' first | assumption | intro _ | apply done_kept | apply partFill_kept | apply runWith_kept

theorem execZero_kept {qs : Keep} (r : Fin 256) (idx : Nat) (s : State) (hs : Kept qs s) : Answers qs (execZero r idx s) := by
  unfold execZero
  with_reducible repeat' first | assumption | apply done_kept | apply partZero_kept | apply runWith_kept

theorem execCrc32c_kept {qs : Keep} (r : Fin 256) (idx : Nat) (s : State) (hs : Kept qs s) : Answers qs (execCrc32c r idx s) := by
  unfold execCrc32c
  with_reducible repeat' first | assumption | apply done_kept | apply partCrc_kept | apply runWith_kept

theorem execSha256_kept {qs : Keep} (r : Fin 256) (idx : Nat) (s : State) (hs : Kept qs s) : Answers qs (execSha256 r idx s) := by
  unfold execSha256
  with_reducible repeat' first | assumption | apply done_kept | apply partSha_kept | apply runWith_kept

theorem execRsEnc_kept {qs : Keep} (r : Fin 256) (idx : Nat) (s : State) (hs : Kept qs s) : Answers qs (execRsEnc r idx s) := by
  unfold execRsEnc
  with_reducible repeat' first | assumption | apply done_kept | apply partRsEnc_kept | apply runWith_kept

theorem execRsRec_kept {qs : Keep} (r : Fin 256) (idx : Nat) (s : State) (hs : Kept qs s) : Answers qs (execRsRec r idx s) := by
  unfold execRsRec
  with_reducible repeat' first | assumption | apply done_kept | apply partRsRec_kept | apply runWith_kept

theorem execCompare_kept {qs : Keep} (r : Fin 256) (idx : Nat) (s : State) (hs : Kept qs s) : Answers qs (execCompare r idx s) := by
  unfold execCompare
  with_reducible repeat' first | assumption | apply done_kept | apply partCompare_kept | apply runWith_kept

theorem execAtomicBatch_kept {qs : Keep} (r : Fin 256) (idx : Nat) (s : State) (hs : Kept qs s) : Answers qs (execAtomicBatch r idx s) := by
  unfold execAtomicBatch
  with_reducible repeat' first | assumption | apply done_kept | apply partAtomic_kept | apply runWith_kept

theorem execTierHint_kept {qs : Keep} (r : Fin 256) (idx : Nat) (s : State) (hs : Kept qs s) : Answers qs (execTierHint r idx s) := by
  unfold execTierHint
  with_reducible repeat' first | assumption | apply done_kept | apply partHint_kept | apply runWith_kept

theorem recorded_kept {qs : Keep} (x : Running) (e : Ending) (s : State) (hs : Kept qs s) : Kept qs (recorded x e s) := by
  unfold recorded
  repeat' first
    | with_reducible (first | assumption | apply State.setFld_kept | apply State.setBit_kept | apply State.count_kept | apply State.onNme_kept
                            | apply touchDomain_kept | apply State.msix_kept)
    | split

theorem execDescriptorComplete_kept {qs : Keep} (r : Fin 256) (s : State) (hs : Kept qs s) : Answers qs (execDescriptorComplete r s) := by
  unfold execDescriptorComplete
  repeat' first
    | with_reducible (first | assumption | intro _ | apply putRun_kept | apply haltRing_kept | apply done_kept | apply engWrite_kept
                            | apply recorded_kept | apply Answers.next)
    | (extract_lets +onlyGivenNames x; subst x)
    | split
    | refine KeptAccess.of_eq_wait ‹_ = Access.wait _ _› ?_
    | refine KeptAccess.of_eq_got ‹_ = Access.got _ _ _ _› ?_

end Sys2Proof.Machine
end

