-- ==== Sys2Proof/Laws/KeptFaults.lean ====
section
/-! SUPPORT. What the operations of Machine/Faults.lean keep: the queue, and the canonical form of the stores. -/
namespace Sys2Proof.Machine

open Sys2Proof

theorem execFaultReport_kept {qs : Keep} (src inst : BitVec 8) (info : List Nat) (s : State) (hs : Kept qs s) : Answers qs (execFaultReport src inst
    info s) := by
  unfold execFaultReport
  with_reducible repeat' first | assumption | apply State.report_kept | apply done_kept

theorem execFirstReactionDone_kept {qs : Keep} (s : State) (hs : Kept qs s) : Answers qs (execFirstReactionDone s) := by
  unfold execFirstReactionDone
  repeat' first
    | with_reducible (first | assumption | apply State.until_kept | apply firstDone_kept | apply Answers.next)
    | split

theorem decideReport_kept {qs : Keep} (c : Nat) (d : Decision) (s : State) (hs : Kept qs s) : Kept qs (decideReport c d s) := by
  unfold decideReport
  repeat' first
    | with_reducible (first | assumption | intro _ | apply State.setFld_kept | apply State.report_kept | apply State.onFlt_kept | apply react_kept
                            | apply record_kept)
    | (extract_lets +onlyGivenNames x; first | (refine Kept.cut (qs := qs) x ?_ fun hx => ?_; subst x; rotate_left; clear_value x; rotate_left) | subst x)
    | split

theorem execHostDecisionTimeout_kept {qs : Keep} (src inst : BitVec 8) (s : State) (hs : Kept qs s) : Answers qs (execHostDecisionTimeout src inst
    s) := by
  unfold execHostDecisionTimeout
  repeat' first
    | with_reducible (first | assumption | apply State.until_kept | apply done_kept | apply decideReport_kept | apply Answers.next)
    | split

theorem returnReset_kept {qs : Keep} (b : Block) (s : State) (hs : Kept qs s) : Kept qs (returnReset b s) := by
  unfold returnReset
  with_reducible repeat' first | assumption | apply State.onFlt_kept | apply State.setCond_kept | apply blockSource_kept

theorem execAutoReturnTimer_kept {qs : Keep} (dom : Fin 144) (s : State) (hs : Kept qs s) : Answers qs (execAutoReturnTimer dom s) := by
  unfold execAutoReturnTimer
  repeat' first
    | with_reducible (first | assumption | intro _ | apply State.onFlt_kept | apply State.until_kept | apply done_kept | apply returnReset_kept
                            | apply Answers.next)
    | (extract_lets +onlyGivenNames x; subst x)
    | split

theorem clearWhenDone_kept {qs : Keep} (s : State) (hs : Kept qs s) : Kept qs (clearWhenDone s) := by
  unfold clearWhenDone
  repeat' first
    | with_reducible (first | assumption | apply clearFirst_kept)
    | split

theorem execFirstErrorClear_kept {qs : Keep} (p : Path) (s : State) (hs : Kept qs s) : Answers qs (execFirstErrorClear p s) := by
  unfold execFirstErrorClear
  with_reducible repeat' first | assumption | apply plazaOnly_kept | apply done_kept | apply clearWhenDone_kept

theorem execSourcePendClear_kept {qs : Keep} (p : Path) (k : Fin 64) (ovf : Bool) (s : State) (hs : Kept qs s) : Answers qs (execSourcePendClear p k
    ovf s) := by
  unfold execSourcePendClear
  repeat' first
    | with_reducible (first | assumption | intro _ | apply State.setFld_kept | apply plazaOnly_kept | apply done_kept | apply Answers.next)
    | (extract_lets +onlyGivenNames x; refine Kept.cut (qs := qs) x ?_ fun hx => ?_; subst x; rotate_left; clear_value x; rotate_left)
    | split

theorem forceCode_kept {qs : Keep} (c : Nat) (s : State) (hs : Kept qs s) : Kept qs (forceCode c s) := by
  unfold forceCode
  with_reducible repeat' first | assumption | apply State.setFld_kept

theorem forceReport_kept {qs : Keep} (src inst : Nat) (s : State) (hs : Kept qs s) : Kept qs (forceReport src inst s) := by
  unfold forceReport
  repeat' first
    | with_reducible (first | assumption | apply State.count_kept | apply State.onFlt_kept | apply forceCode_kept)
    | split

theorem execForceReport_kept {qs : Keep} (p : Path) (src inst : BitVec 8) (s : State) (hs : Kept qs s) : Answers qs (execForceReport p src inst s)
    := by
  unfold execForceReport
  with_reducible repeat' first | assumption | apply plazaOnly_kept | apply done_kept | apply forceReport_kept

theorem injectNow_kept {qs : Keep} (tgt inst : Nat) (s : State) (hs : Kept qs s) : Kept qs (injectNow tgt inst s) := by
  unfold injectNow
  repeat' first
    | with_reducible (first | assumption | apply State.setBitOf_kept | apply State.reportInj_kept | apply fire_kept | apply State.onFlt_kept
                            | apply trip_kept)
    | split

theorem armInjection_kept {qs : Keep} (tgt inst bit : Nat) (s : State) (hs : Kept qs s) : Kept qs (armInjection tgt inst bit s) := by
  unfold armInjection
  repeat' first
    | with_reducible (first | assumption | apply State.setFld_kept | apply State.count_kept | apply forceCode_kept | apply injectNow_kept)
    | split

theorem execArmInjection_kept {qs : Keep} (p : Path) (tgt : BitVec 4) (inst bit : BitVec 8) (s : State) (hs : Kept qs s) : Answers qs
    (execArmInjection p tgt inst bit s) := by
  unfold execArmInjection
  with_reducible repeat' first | assumption | apply plazaOnly_kept | apply done_kept | apply armInjection_kept

theorem setSramBad_kept {qs : Keep} (k : Nat) (l : List (Nat × Nat)) (s : State) (hs : Kept qs s) : Kept qs (setSramBad k l s) := by
  unfold setSramBad
  repeat' first
    | with_reducible (first | assumption | apply State.onFlt_kept)
    | exact Kept.same ‹_› rfl rfl rfl rfl

theorem useWord_kept {qs : Keep} (d place w : Nat) (s : State) (hs : Kept qs s) : Kept qs (useWord d place w s) := by
  unfold useWord
  repeat' first
    | with_reducible (first | assumption | intro _ | apply State.report_kept)
    | (extract_lets +onlyGivenNames x; first | (refine Kept.cut (qs := qs) x ?_ fun hx => ?_; subst x; rotate_left; clear_value x; rotate_left) | subst x)
    | split
    | exact Kept.same ‹_› rfl rfl rfl rfl

theorem scrubVisit_kept {qs : Keep} (d place : Nat) (s : State) (hs : Kept qs s) : Kept qs (scrubVisit d place s) := by
  unfold scrubVisit
  repeat' first
    | with_reducible (first | assumption | intro _ | apply State.count_kept | apply State.report_kept | apply State.unexpose_kept
                            | apply settle_kept | apply setSramBad_kept)
    | (extract_lets +onlyGivenNames x; first | (refine Kept.cut (qs := qs) x ?_ fun hx => ?_; subst x; rotate_left; clear_value x; rotate_left) | subst x)
    | split
    | exact Kept.same ‹_› rfl rfl rfl rfl

theorem execSramScrubVisit_kept {qs : Keep} (dom : Option (Fin 144)) (array blk : Nat) (bad : List (Fin 65 × Nat)) (act : SramAct) (s : State) (hs :
    Kept qs s) : Answers qs (execSramScrubVisit dom array blk bad act s) := by
  unfold execSramScrubVisit
  repeat' first
    | with_reducible (first | assumption | intro _ | apply State.count_kept | apply done_kept | apply setSramBad_kept | apply useWord_kept
                            | apply scrubVisit_kept | apply Answers.next)
    | (extract_lets +onlyGivenNames x; first | (refine Kept.cut (qs := qs) x ?_ fun hx => ?_; subst x; rotate_left; clear_value x; rotate_left) | subst x)
    | split
    | exact Kept.same ‹_› rfl rfl rfl rfl

end Sys2Proof.Machine
end

