-- ==== Sys2Proof/Laws/KeptGrid.lean ====
section
/-! SUPPORT. What the operations of Machine/Grid.lean keep: the queue, and the canonical form of the stores. -/
namespace Sys2Proof.Machine

open Sys2Proof

theorem injectPacket_kept {qs : Keep} (c : Nat) (i : PacketIn) (s : State) (hs : Kept qs s) : Kept qs (injectPacket c i s) := by
  unfold injectPacket
  repeat' first
    | with_reducible (first | assumption | intro _ | apply pushBuf_kept | apply countInject_kept)
    | (extract_lets +onlyGivenNames x; subst x)
    | split

theorem crossStreet_kept {qs : Keep} (c d fails k : Nat) (q : Packet) (s : State) (hs : Kept qs s) : Kept qs (crossStreet c d fails k q s) := by
  unfold crossStreet
  repeat' first
    | with_reducible (first | assumption | intro _ | apply State.count_kept | apply State.report_kept | apply fire_kept | apply forAll_kept
                            | apply streetDown_kept | apply pushBuf_kept)
    | (extract_lets +onlyGivenNames x; first | (refine Kept.cut (qs := qs) x ?_ fun hx => ?_; subst x; rotate_left; clear_value x; rotate_left) | subst x)
    | split
    | exact Kept.same ‹_› rfl rfl rfl rfl

theorem execPacketForward_kept {qs : Keep} (c : Fin 48) (o : Fin 7) (inject : Option PacketIn) (s : State) (fails : Fin 5) (hs : Kept qs s) :
    Answers qs (execPacketForward c o inject s fails) := by
  unfold execPacketForward
  repeat' first
    | with_reducible (first | assumption | intro _ | apply State.count_kept | apply State.onNoc_kept | apply inject_kept | apply popBuf_kept
                            | apply crossingAnswer_kept | apply toLocal_kept | apply wakeDomain_kept | apply done_kept | apply injectPacket_kept
                            | apply crossStreet_kept | apply Kept.foldl | apply Answers.next)
    | (extract_lets +onlyGivenNames x; first | (refine Kept.cut (qs := qs) x ?_ fun hx => ?_; subst x; rotate_left; clear_value x; rotate_left) | subst x)
    | split
    | refine Kept.of_pair ‹_ = (_, _)› ?_

theorem execPacketEject_kept {qs : Keep} (c : Fin 48) (o : Fin 3) (err : BitVec 128) (s : State) (hs : Kept qs s) : Answers qs (execPacketEject c o
    err s) := by
  unfold execPacketEject
  repeat' first
    | with_reducible (first | assumption | intro _ | apply State.count_kept | apply State.report_kept | apply State.reportInj_kept | apply fire_kept
                            | apply State.onNoc_kept | apply countEject_kept | apply done_kept | apply Answers.next)
    | (extract_lets +onlyGivenNames x; refine Kept.cut (qs := qs) x ?_ fun hx => ?_; subst x; rotate_left; clear_value x; rotate_left)
    | split

theorem execRequestReissueTimeout_kept {qs : Keep} (id : Nat) (s : State) (hs : Kept qs s) : Answers qs (execRequestReissueTimeout id s) := by
  unfold execRequestReissueTimeout
  repeat' first
    | with_reducible (first | assumption | intro _ | apply State.count_kept | apply State.until_kept | apply Answers.next
                            | refine Kept.pending (qs := qs) ?_ | refine Kept.regs (qs := qs) ?_ | refine Kept.lines (qs := qs) ?_
                            | refine Kept.stitches (qs := qs) ?_)
    | (extract_lets +onlyGivenNames x; subst x)
    | split
    | dsimp only
    | (with_reducible refine Kept.of_parts ?_ ?_ ?_ ?_ <;> dsimp only)

theorem execStreetSilence_kept {qs : Keep} (c : Fin 48) (d : Fin 4) (selfCheck : Bool) (s : State) (hs : Kept qs s) : Answers qs (execStreetSilence
    c d selfCheck s) := by
  unfold execStreetSilence
  repeat' first
    | with_reducible (first | assumption | intro _ | apply State.fresh_kept | apply State.report_kept | apply forAll_kept | apply streetDown_kept
                            | apply crossingFail_kept | apply done_kept | apply Answers.next)
    | split

theorem writeRoute_kept {qs : Keep} (v : Nat) (s : State) (hs : Kept qs s) : Kept qs (writeRoute v s) := by
  unfold writeRoute
  repeat' first
    | with_reducible (first | assumption | intro _ | apply State.setFld_kept | apply setRoute_kept)
    | (extract_lets +onlyGivenNames x; subst x)
    | split

theorem commandFlip_kept {qs : Keep} (s : State) (hs : Kept qs s) : Kept qs (commandFlip s) := by
  unfold commandFlip
  repeat' first
    | with_reducible (first | assumption | apply State.setFld_kept | apply flipRoutes_kept)
    | split

theorem execRouteTableWrite_kept {qs : Keep} (p : Path) (v : BitVec 32) (s : State) (hs : Kept qs s) : Answers qs (execRouteTableWrite p v s) := by
  unfold execRouteTableWrite
  with_reducible repeat' first | assumption | apply plazaOnly_kept | apply done_kept | apply writeRoute_kept

theorem execRouteFlip_kept {qs : Keep} (p : Path) (s : State) (hs : Kept qs s) : Answers qs (execRouteFlip p s) := by
  unfold execRouteFlip
  with_reducible repeat' first | assumption | apply plazaOnly_kept | apply done_kept | apply commandFlip_kept

theorem execRouteDrained_kept {qs : Keep} (c : Fin 48) (s : State) (hs : Kept qs s) : Answers qs (execRouteDrained c s) := by
  unfold execRouteDrained
  repeat' first
    | with_reducible (first | assumption | apply State.onNoc_kept | apply Answers.next)
    | split

theorem execRouteGuardExpiry_kept {qs : Keep} (s : State) (hs : Kept qs s) : Answers qs (execRouteGuardExpiry s) := by
  unfold execRouteGuardExpiry
  repeat' first
    | with_reducible (first | assumption | apply State.setFld_kept | apply State.onNoc_kept | apply forAll_kept | apply State.until_kept
                            | apply rerouteTakeovers_kept | apply takeoverGuard_kept | apply Answers.next)
    | split

end Sys2Proof.Machine
end

