-- ==== Sys2Proof/Laws/KeptHeads.lean ====
section
/-! SUPPORT. What the operations of Machine/Heads.lean keep: the queue, and the canonical form of the stores. -/
namespace Sys2Proof.Machine

open Sys2Proof

theorem dataWake_kept {qs : Keep} (h : Nat) (s : State) (hs : Kept qs s) : Kept qs (dataWake h s) := by
  unfold dataWake
  repeat' first
    | with_reducible (first | assumption | apply State.count_kept | apply State.onPwr_kept | apply takeWake_kept | apply serveWake_kept)
    | split

theorem flitsArrive_kept {qs : Keep} (h : Nat) (arr : Arrival) (s : State) (hs : Kept qs s) : Kept qs (flitsArrive h arr s) := by
  unfold flitsArrive
  repeat' first
    | with_reducible (first | assumption | apply State.count_kept)
    | split

theorem takeMem_kept {qs : Keep} (h k hpa : Nat) (kind : ReqKind) (data : Line) (mask : BitVec 64) (poison : Bool) (m : MetaValue) (tag : Nat)
    (macOk : Bool) (s : State) (hs : Kept qs s) : Kept qs (takeMem h k hpa kind data mask poison m tag macOk s) := by
  unfold takeMem
  repeat' first
    | with_reducible (first | assumption | apply request_kept | apply macFailure_kept | apply dataWake_kept)
    | split

theorem hostMem_kept {qs : Keep} (h k hpa : Nat) (kind : ReqKind) (data : Line) (mask : BitVec 64) (poison : Bool) (m : MetaValue) (tag : Nat) (arr
    : Arrival) (s : State) (hs : Kept qs s) : Kept qs (hostMem h k hpa kind data mask poison m tag arr s) := by
  unfold hostMem
  with_reducible repeat' first | assumption | apply flitsArrive_kept | apply takeMem_kept

theorem execHostMemRead_kept {qs : Keep} (h : Fin 4) (ld : Fin 16) (hpa : Nat) (m : MetaValue) (tag : Nat) (arr : Arrival) (s : State) (hs : Kept qs
    s) : Answers qs (execHostMemRead h ld hpa m tag arr s) := by
  unfold execHostMemRead
  with_reducible repeat' first | assumption | apply done_kept | apply hostMem_kept

theorem execHostMemWrite_kept {qs : Keep} (h : Fin 4) (ld : Fin 16) (hpa : Nat) (m : MetaValue) (tag : Nat) (data : BitVec 512) (mask : BitVec 64)
    (poison : Bool) (arr : Arrival) (s : State) (hs : Kept qs s) : Answers qs (execHostMemWrite h ld hpa m tag data mask poison arr s) := by
  unfold execHostMemWrite
  with_reducible repeat' first | assumption | apply done_kept | apply hostMem_kept

theorem execBar4AtomicOp_kept {qs : Keep} (h : Fin 4) (x tag : Nat) (op : Option (AtomicKind × Nat × BitVec 128 × BitVec 128)) (s : State) (hs :
    Kept qs s) : Answers qs (execBar4AtomicOp h x tag op s) := by
  unfold execBar4AtomicOp
  repeat' first
    | with_reducible (first | assumption | intro _ | apply State.emit_kept | apply request_kept | apply done_kept | apply dataWake_kept
                            | apply Answers.next)
    | (extract_lets +onlyGivenNames x; subst x)
    | split

theorem takeReply_kept {qs : Keep} (id : Nat) (p : Reply → Bool) (s : State) (hs : Kept qs s) : KeptOptP qs (takeReply id p s) := by
  unfold takeReply
  repeat' first
    | with_reducible (first | assumption | intro _ | exact KeptOptP.of_none | apply KeptOptP.of_some | refine Kept.pending (qs := qs) ?_
                            | refine Kept.regs (qs := qs) ?_ | refine Kept.lines (qs := qs) ?_ | refine Kept.stitches (qs := qs) ?_)
    | (extract_lets +onlyGivenNames x; subst x)
    | split
    | dsimp only
    | (with_reducible refine Kept.of_parts ?_ ?_ ?_ ?_ <;> dsimp only)

theorem execPenEntryFree_kept {qs : Keep} (h : Fin 4) (id : Nat) (s : State) (hs : Kept qs s) : Answers qs (execPenEntryFree h id s) := by
  unfold execPenEntryFree
  repeat' first
    | with_reducible (first | assumption | apply forAll_kept | apply penFree_kept | apply finishReleases_kept | apply done_kept
                            | apply takeReply_kept | apply Answers.next)
    | split
    | refine KeptOptP.of_eq ‹_ = some (_, _)› ?_

theorem execPenReinject_kept {qs : Keep} (h : Fin 4) (id : Nat) (s : State) (hs : Kept qs s) : Answers qs (execPenReinject h id s) := by
  unfold execPenReinject
  repeat' first
    | with_reducible (first | assumption | intro _ | apply forAll_kept | apply State.until_kept | apply inject_kept | apply dropFrozen_kept
                            | apply finishReleases_kept | apply done_kept | apply Answers.next)
    | (extract_lets +onlyGivenNames x; first | (refine Kept.cut (qs := qs) x ?_ fun hx => ?_; subst x; rotate_left; clear_value x; rotate_left) | subst x)
    | split
    | exact Kept.same ‹_› rfl rfl rfl rfl

/-- Other requests in flight and other responses waiting. -/
theorem Kept.withRequests {qs : Keep} {s : State} (h : Kept qs s) (f : List Req) (r : List Reply) : Kept qs { s with flight := f, replies := r } :=
  ⟨h.pending, h.regs, h.lines, h.stitches⟩

theorem execPenReadExpiry_kept {qs : Keep} (h : Fin 4) (id : Nat) (s : State) (hs : Kept qs s) : Answers qs (execPenReadExpiry h id s) := by
  unfold execPenReadExpiry
  split
  · exact Answers.next hs
  · split
    · exact Answers.next hs
    · exact done_kept _ (forAll_kept _ _ _ (penFree_kept _ _ _ (State.report_kept _ _ _ _ (State.count_kept _ _ _
        (endUnserved_kept _ _ _ _ _ ((State.until_kept _ _ hs).withRequests _ _))))) fun _ _ h => finishReleases_kept _ _ h)

theorem execPenWriteExpiry_kept {qs : Keep} (h : Fin 4) (id : Nat) (s : State) (hs : Kept qs s) : Answers qs (execPenWriteExpiry h id s) := by
  unfold execPenWriteExpiry
  repeat' first
    | with_reducible (first | assumption | apply State.setFld_kept | apply State.count_kept | apply State.emit_kept | apply State.report_kept
                            | apply State.until_kept | apply updPen_kept | apply done_kept | apply Answers.next)
    | split

theorem toHost_kept {qs : Keep} (h : Nat) (r : Reply) (s : State) (hs : Kept qs s) : Kept qs (toHost h r s) := by
  unfold toHost
  refine accountReply_kept _ _ ?_
  cases r.kind with
  | data _ _ => exact State.bytes_kept _ _ _ (State.emit_kept _ _ hs)
  | atomic _ _ => exact State.bytes_kept _ _ _ (State.emit_kept _ _ hs)
  | done => exact State.emit_kept _ _ hs
  | _ => exact hs

theorem execHeadResponse_kept {qs : Keep} (h : Fin 4) (id : Nat) (s : State) (hs : Kept qs s) : Answers qs (execHeadResponse h id s) := by
  unfold execHeadResponse
  repeat' first
    | with_reducible (first | assumption | apply State.count_kept | apply updPen_kept | apply takeReply_kept | apply toHost_kept
                            | apply Answers.next)
    | split
    | refine KeptOptP.of_eq ‹_ = some (_, _)› ?_

theorem execSurpriseLinkDown_kept {qs : Keep} (h : Fin 4) (s : State) (hs : Kept qs s) : Answers qs (execSurpriseLinkDown h s) := by
  unfold execSurpriseLinkDown
  repeat' first
    | with_reducible (first | assumption | apply linkLost_kept | apply done_kept | apply Answers.next)
    | split

theorem execCableMeasurementDone_kept {qs : Keep} (h : Fin 4) (loss len : Option (Fin 255)) (idValid : Bool) (s : State) (hs : Kept qs s) : Answers
    qs (execCableMeasurementDone h loss len idValid s) := by
  unfold execCableMeasurementDone
  repeat' first
    | with_reducible (first | assumption | intro _ | apply State.setFld_kept | apply State.setBit_kept | apply startTraining_kept
                            | apply advanceHeadEpoch_kept | apply Answers.next)
    | (extract_lets +onlyGivenNames x; refine Kept.cut (qs := qs) x ?_ fun hx => ?_; subst x; rotate_left; clear_value x; rotate_left)
    | split

theorem notePartner_kept {qs : Keep} (h : Nat) (q : Partner) (s : State) (hs : Kept qs s) : Kept qs (notePartner h q s) := by
  unfold notePartner
  with_reducible repeat' first | assumption | apply State.setFld_kept | apply State.setBit_kept

theorem execLinkTrainingDone_kept {qs : Keep} (h : Fin 4) (partner : Partner) (width : Nat) (retimers : Fin 3) (s : State) (hs : Kept qs s) :
    Answers qs (execLinkTrainingDone h partner width retimers s) := by
  unfold execLinkTrainingDone
  repeat' first
    | with_reducible (first | assumption | intro _ | apply State.setFld_kept | apply State.setBit_kept | apply State.emit_kept
                            | apply State.updHead_kept | apply State.flushMsix_kept | apply State.unexpose_kept | apply pathsUp_kept
                            | apply retrain_kept | apply takeWake_kept | apply serveWake_kept | apply recheckAllowed_kept | apply notePartner_kept
                            | apply Answers.next)
    | (extract_lets +onlyGivenNames x; first | (refine Kept.cut (qs := qs) x ?_ fun hx => ?_; subst x; rotate_left; clear_value x; rotate_left) | subst x)
    | split

theorem execLinkRecovery_kept {qs : Keep} (h : Fin 4) (s : State) (hs : Kept qs s) : Answers qs (execLinkRecovery h s) := by
  unfold execLinkRecovery
  repeat' first
    | with_reducible (first | assumption | apply State.count_kept | apply State.updHead_kept | apply Answers.next)
    | split

theorem execRateFallback_kept {qs : Keep} (h : Fin 4) (s : State) (hs : Kept qs s) : Answers qs (execRateFallback h s) := by
  unfold execRateFallback
  repeat' first
    | with_reducible (first | assumption | intro _ | apply State.setFld_kept | apply State.count_kept | apply State.report_kept
                            | apply State.updHead_kept | apply retrain_kept | apply done_kept | apply Answers.next)
    | (extract_lets +onlyGivenNames x; first | (refine Kept.cut (qs := qs) x ?_ fun hx => ?_; subst x; rotate_left; clear_value x; rotate_left) | subst x)
    | split

theorem retryRate_kept {qs : Keep} (h : Nat) (s : State) (hs : Kept qs s) : Kept qs (retryRate h s) := by
  unfold retryRate
  repeat' first
    | with_reducible (first | assumption | apply State.setFld_kept | apply State.updHead_kept | apply retrain_kept)
    | split

theorem execRetryRate_kept {qs : Keep} (h : Fin 4) (s : State) (hs : Kept qs s) : Answers qs (execRetryRate h s) := by
  unfold execRetryRate
  with_reducible repeat' first | assumption | apply retryRate_kept | apply Answers.next

theorem disableLink_kept {qs : Keep} (h : Nat) (s : State) (hs : Kept qs s) : Kept qs (disableLink h s) := by
  unfold disableLink
  repeat' first
    | with_reducible (first | assumption | intro _ | apply State.setFld_kept | apply State.updHead_kept | apply headSource_kept)
    | (extract_lets +onlyGivenNames x; refine Kept.cut (qs := qs) x ?_ fun hx => ?_; subst x; rotate_left; clear_value x; rotate_left)
    | split

theorem enableLink_kept {qs : Keep} (h : Nat) (s : State) (hs : Kept qs s) : Kept qs (enableLink h s) := by
  unfold enableLink
  repeat' first
    | with_reducible (first | assumption | apply State.setFld_kept | apply State.updHead_kept)
    | split

theorem execLinkDisable_kept {qs : Keep} (h : Fin 4) (s : State) (hs : Kept qs s) : Answers qs (execLinkDisable h s) := by
  unfold execLinkDisable
  with_reducible repeat' first | assumption | apply done_kept | apply disableLink_kept

theorem execLinkEnable_kept {qs : Keep} (h : Fin 4) (s : State) (hs : Kept qs s) : Answers qs (execLinkEnable h s) := by
  unfold execLinkEnable
  with_reducible repeat' first | assumption | apply enableLink_kept | apply Answers.next

theorem execViralReceived_kept {qs : Keep} (h : Fin 4) (s : State) (hs : Kept qs s) : Answers qs (execViralReceived h s) := by
  unfold execViralReceived
  repeat' first
    | with_reducible (first | assumption | apply State.setFld_kept | apply State.report_kept | apply State.updHead_kept | apply done_kept
                            | apply Answers.next)
    | split

theorem execIdeKeyProg_kept {qs : Keep} (h : Fin 4) (sub : IdeSub) (key : BitVec 256) (s : State) (hs : Kept qs s) : Answers qs (execIdeKeyProg h
    sub key s) := by
  unfold execIdeKeyProg
  repeat' first
    | with_reducible (first | assumption | intro _ | apply State.setFld_kept | apply State.count_kept | apply State.emit_kept
                            | apply State.updHead_kept | apply Answers.next)
    | (extract_lets +onlyGivenNames x; first | (refine Kept.cut (qs := qs) x ?_ fun hx => ?_; subst x; rotate_left; clear_value x; rotate_left) | subst x)
    | split

theorem execIdeKmKSetGo_kept {qs : Keep} (h : Fin 4) (st : IdeStream) (s : State) (hs : Kept qs s) : Answers qs (execIdeKmKSetGo h st s) := by
  unfold execIdeKmKSetGo
  repeat' first
    | with_reducible (first | assumption | intro _ | apply State.setFld_kept | apply State.updHead_kept | apply Answers.next)
    | (extract_lets +onlyGivenNames x; subst x)
    | split

theorem execIdeMacFailure_kept {qs : Keep} (h : Fin 4) (st : IdeStream) (s : State) (hs : Kept qs s) : Answers qs (execIdeMacFailure h st s) := by
  unfold execIdeMacFailure
  repeat' first
    | with_reducible (first | assumption | intro _ | apply macFailure_kept | apply done_kept | apply Answers.next)
    | (extract_lets +onlyGivenNames x; subst x)
    | split

theorem shareBlock_kept {qs : Keep} (key : Nat) (s : State) (hs : Kept qs s) : KeptOpt qs (shareBlock key s) := by
  unfold shareBlock
  repeat' first
    | with_reducible (first | assumption | intro _ | apply State.onCold_kept | apply KeptOpt.ite | exact KeptOpt.of_none | apply KeptOpt.of_some
                            | apply KeptOpt.map | apply KeptOpt.map_of)
    | split

theorem offer_kept {qs : Keep} (k g : Nat) (share : Option Nat) (s : State) (hs : Kept qs s) : Kept qs (offer k g share s) := by
  unfold offer
  with_reducible repeat' first | assumption | apply State.updLd_kept | apply State.log1_kept

theorem execAddCapacityOffer_kept {qs : Keep} (ld : Fin 16) (gib : Nat) (share : Option Nat) (s : State) (hs : Kept qs s) : Answers qs
    (execAddCapacityOffer ld gib share s) := by
  unfold execAddCapacityOffer
  repeat' first
    | with_reducible (first | assumption | apply shareBlock_kept | apply offer_kept | apply Answers.next)
    | split
    | refine KeptOpt.of_eq ‹_ = some _› ?_

theorem execAddCapacityResponse_kept {qs : Keep} (ld : Fin 16) (gib : Nat) (s : State) (hs : Kept qs s) : Answers qs (execAddCapacityResponse ld gib
    s) := by
  unfold execAddCapacityResponse
  repeat' first
    | with_reducible (first | assumption | intro _ | apply State.onCold_kept | apply State.updLd_kept | apply useSlot_kept | apply Answers.next)
    | (extract_lets +onlyGivenNames x; first | (refine Kept.cut (qs := qs) x ?_ fun hx => ?_; subst x; rotate_left; clear_value x; rotate_left) | subst x)
    | split

theorem execReleaseDynamicCapacity_kept {qs : Keep} (ld : Fin 16) (gib : Nat) (s : State) (hs : Kept qs s) : Answers qs (execReleaseDynamicCapacity
    ld gib s) := by
  unfold execReleaseDynamicCapacity
  repeat' first
    | with_reducible (first | assumption | intro _ | apply State.updLd_kept | apply finishReleases_kept | apply done_kept | apply Answers.next)
    | split

end Sys2Proof.Machine
end

