-- ==== Sys2Proof/Laws/KeptKeys.lean ====
section
/-! SUPPORT. What the operations of Machine/Keys.lean keep: the queue, and the canonical form of the stores. -/
namespace Sys2Proof.Machine

open Sys2Proof

theorem execKeyWindowTimeout_kept {qs : Keep} (k : Fin 16) (s : State) (hs : Kept qs s) : Answers qs (execKeyWindowTimeout k s) := by
  unfold execKeyWindowTimeout
  repeat' first
    | with_reducible (first | assumption | apply State.until_kept | apply closeWindow_kept | apply Answers.next)
    | split

theorem execTrngHealthFailure_kept {qs : Keep} (s : State) (hs : Kept qs s) : Answers qs (execTrngHealthFailure s) := by
  unfold execTrngHealthFailure
  with_reducible repeat' first | assumption | apply State.setFld_kept | apply State.report_kept | apply done_kept

theorem execTrngHealthTestPass_kept {qs : Keep} (s : State) (hs : Kept qs s) : Answers qs (execTrngHealthTestPass s) := by
  unfold execTrngHealthTestPass
  repeat' first
    | with_reducible (first | assumption | intro _ | apply State.setFld_kept | apply forAll_kept | apply State.unexpose_kept | apply trngKey_kept
                            | apply ledgerKeyGen_kept | apply enableKeyed_kept | apply Answers.next)
    | split

theorem updReenc_kept {qs : Keep} (k : Nat) (f : Reenc → Reenc) (s : State) (hs : Kept qs s) : Kept qs (updReenc k f s) := by
  unfold updReenc
  with_reducible repeat' first | assumption | apply State.onVault_kept

theorem reencRecord_kept {qs : Keep} (k done : Nat) (s : State) (hs : Kept qs s) : Kept qs (reencRecord k done s) := by
  unfold reencRecord
  with_reducible repeat' first | assumption | apply checkpoint_kept

theorem execReencSlotStart_kept {qs : Keep} (k : Nat) (s : State) (hs : Kept qs s) : Answers qs (execReencSlotStart k s) := by
  unfold execReencSlotStart
  repeat' first
    | with_reducible (first | assumption | apply State.setFld_kept | apply done_kept | apply updReenc_kept | apply reencRecord_kept
                            | apply Answers.next)
    | split

theorem reencPage_kept {qs : Keep} (p : Nat) (s : State) (hs : Kept qs s) : Kept qs (reencPage p s) := by
  unfold reencPage
  repeat' first
    | with_reducible (first | assumption | intro _ | apply beginOp_kept | apply queueOp_kept | apply startClean_kept)
    | (extract_lets +onlyGivenNames x; subst x)
    | split

theorem execReencPageOpen_kept {qs : Keep} (k : Nat) (s : State) (hs : Kept qs s) : Answers qs (execReencPageOpen k s) := by
  unfold execReencPageOpen
  repeat' first
    | with_reducible (first | assumption | intro _ | apply done_kept | apply updReenc_kept | apply reencPage_kept | apply Answers.next)
    | (extract_lets +onlyGivenNames x; subst x)
    | split

theorem execReencCheckpoint_kept {qs : Keep} (k : Nat) (s : State) (hs : Kept qs s) : Answers qs (execReencCheckpoint k s) := by
  unfold execReencCheckpoint
  repeat' first
    | with_reducible (first | assumption | intro _ | apply State.setFld_kept | apply done_kept | apply updReenc_kept | apply reencRecord_kept
                            | apply Answers.next)
    | (extract_lets +onlyGivenNames x; first | (refine Kept.cut (qs := qs) x ?_ fun hx => ?_; subst x; rotate_left; clear_value x; rotate_left) | subst x)
    | split

theorem reencDone_kept {qs : Keep} (k : Nat) (again : Bool) (s : State) (hs : Kept qs s) : Kept qs (reencDone k again s) := by
  unfold reencDone
  repeat' first
    | with_reducible (first | assumption | intro _ | apply State.setReg_kept | apply State.count_kept | apply State.onCold_kept
                            | apply State.onVault_kept | apply advanceEpoch_kept)
    | (extract_lets +onlyGivenNames x; refine Kept.cut (qs := qs) x ?_ fun hx => ?_; subst x; rotate_left; clear_value x; rotate_left)
    | split

theorem execReencFinalPass_kept {qs : Keep} (k : Nat) (s : State) (hs : Kept qs s) : Answers qs (execReencFinalPass k s) := by
  unfold execReencFinalPass
  repeat' first
    | with_reducible (first | assumption | intro _ | apply forAll_kept | apply done_kept | apply reencPage_kept | apply reencDone_kept
                            | apply Answers.next)
    | (extract_lets +onlyGivenNames x; subst x)
    | split

theorem execOverwriteDone_kept {qs : Keep} (s : State) (failed : List (Fin 32)) (hs : Kept qs s) : Answers qs (execOverwriteDone s failed) := by
  unfold execOverwriteDone
  repeat' first
    | with_reducible (first | assumption | intro _ | apply State.setFld_kept | apply State.emit_kept | apply State.onRst_kept
                            | apply State.onCold_kept | apply Answers.next | apply StitchesWf.put | apply StitchesWf.keep | exact StitchesWf.nil
                            | refine Kept.pending (qs := qs) ?_ | refine Kept.regs (qs := qs) ?_ | refine Kept.lines (qs := qs) ?_
                            | refine Kept.stitches (qs := qs) ?_)
    | (extract_lets +onlyGivenNames x; first | (refine Kept.cut (qs := qs) x ?_ fun hx => ?_; subst x; rotate_left; clear_value x; rotate_left) | subst x)
    | split

end Sys2Proof.Machine
end

