-- ==== Sys2Proof/Laws/KeptLayoutOps.lean ====
section
/-! SUPPORT. What the operations of Machine/LayoutOps.lean keep: the queue, and the canonical form of the stores. -/
namespace Sys2Proof.Machine

open Sys2Proof

theorem applyRecord_kept {qs : Keep} (s : State) (r : LoadRecord) (hs : Kept qs s) : Kept qs (applyRecord s r) := by
  unfold applyRecord
  with_reducible repeat' first | assumption | apply State.setReg_kept

theorem writeMode_kept {qs : Keep} (f v : Nat) (s : State) (hs : Kept qs s) : Kept qs (writeMode f v s) := by
  unfold writeMode
  repeat' first
    | with_reducible (first | assumption | apply State.setFld_kept | apply State.onVault_kept)
    | split

theorem assignRing_kept {qs : Keep} (r : Nat) (k : Option Nat) (s : State) (hs : Kept qs s) : Kept qs (assignRing r k s) := by
  unfold assignRing
  repeat' first
    | with_reducible (first | assumption | apply State.setFld_kept)
    | split

theorem applySection_kept {qs : Keep} (live : Bool) (s : State) (b : SectionBody) (hs : Kept qs s) : Kept qs (applySection live s b) := by
  unfold applySection
  repeat' first
    | with_reducible (first | assumption | intro _ | apply State.setFld_kept | apply State.setBit_kept | apply State.onLayout_kept
                            | apply forAll_kept | apply setRoute_kept | apply setRole_kept | apply applyRecord_kept | apply writeMode_kept
                            | apply assignRing_kept | apply Kept.foldl)
    | (extract_lets +onlyGivenNames x; first | (refine Kept.cut (qs := qs) x ?_ fun hx => ?_; subst x; rotate_left; clear_value x; rotate_left) | subst x)
    | split

theorem showSlots_kept {qs : Keep} (s : State) (hs : Kept qs s) : Kept qs (showSlots s) := by
  unfold showSlots
  with_reducible repeat' first | assumption | apply State.setFld_kept | apply State.setBit_kept

theorem powerSlots_kept {qs : Keep} (s : State) (hs : Kept qs s) : Kept qs (powerSlots s) := by
  unfold powerSlots
  repeat' first
    | with_reducible (first | assumption | intro _ | apply forAll_kept | apply setSlotState_kept | apply startRamp_kept)
    | (extract_lets +onlyGivenNames x; subst x)
    | split

theorem commitLayout_kept {qs : Keep} (sections : List SectionBody) (img : Option LayoutImage) (amends : List LayoutImage) (slot : Nat) (s : State)
    (hs : Kept qs s) : Kept qs (commitLayout sections img amends slot s) := by
  unfold commitLayout
  with_reducible repeat' first | assumption | intro _ | apply State.setFld_kept | apply State.setBit_kept | apply State.onLayout_kept
                               | apply State.updHead_kept | apply State.setCond_kept | apply forAll_kept | apply State.fenceOff_kept
                               | apply State.expose_kept | apply applySection_kept | apply showSlots_kept | apply powerSlots_kept | apply Kept.foldl

theorem loadAttempt_kept {qs : Keep} (s : State) (hs : Kept qs s) : Kept qs (loadAttempt s) := by
  unfold loadAttempt
  repeat' first
    | with_reducible (first | assumption | intro _ | apply State.setFld_kept | apply State.report_kept | apply commitLayout_kept)
    | (extract_lets +onlyGivenNames x; first | (refine Kept.cut (qs := qs) x ?_ fun hx => ?_; subst x; rotate_left; clear_value x; rotate_left) | subst x)
    | split

end Sys2Proof.Machine
end

