-- ==== Sys2Proof/Laws/KeptFlashOps.lean ====
section
/-! SUPPORT. What the operations of Machine/FlashOps.lean keep: the queue, and the canonical form of the stores. -/
namespace Sys2Proof.Machine

open Sys2Proof

theorem putSlot_kept {qs : Keep} (n : Nat) (v : LayoutSlot) (s : State) (hs : Kept qs s) : Kept qs (putSlot n v s) := by
  unfold putSlot
  with_reducible repeat' first | assumption | apply State.onFlash_kept | apply showSlots_kept

theorem putFw_kept {qs : Keep} (n : Nat) (img : Option FwImage) (s : State) (hs : Kept qs s) : Kept qs (putFw n img s) := by
  unfold putFw
  with_reducible repeat' first | assumption | apply State.onFlash_kept

theorem endLayout_kept {qs : Keep} (code : Nat) (s : State) (hs : Kept qs s) : Kept qs (endLayout code s) := by
  unfold endLayout
  with_reducible repeat' first | assumption | apply State.setFld_kept | apply endMgr_kept

theorem amendLive_kept {qs : Keep} (a : LayoutImage) (s : State) (hs : Kept qs s) : Kept qs (amendLive a s) := by
  unfold amendLive
  repeat' first
    | with_reducible (first | assumption | intro _ | apply State.setFld_kept | apply State.onLayout_kept | apply recheckAllowed_kept
                            | apply demoteAll_kept | apply notePassing_kept | apply applySection_kept | apply Kept.foldl)
    | (extract_lets +onlyGivenNames x; first | (refine Kept.cut (qs := qs) x ?_ fun hx => ?_; subst x; rotate_left; clear_value x; rotate_left) | subst x)
    | split

theorem applyJob_kept {qs : Keep} (j : FlashJob) (s : State) (hs : Kept qs s) : Kept qs (applyJob j s) := by
  unfold applyJob
  repeat' first
    | with_reducible (first | assumption | apply State.setFld_kept | apply State.onRst_kept | apply State.onMgmt_kept | apply State.onFlash_kept
                            | apply State.onFuses_kept | apply moduleSource_kept | apply endMgr_kept | apply putSlot_kept | apply putFw_kept
                            | apply endLayout_kept | apply amendLive_kept)
    | split

theorem showFw_kept {qs : Keep} (img : FwImage) (s : State) (hs : Kept qs s) : Kept qs (showFw img s) := by
  unfold showFw
  with_reducible repeat' first | assumption | apply State.setFld_kept

theorem firmwareStarts_kept {qs : Keep} (img : FwImage) (s : State) (hs : Kept qs s) : Kept qs (firmwareStarts img s) := by
  unfold firmwareStarts
  repeat' first
    | with_reducible (first | assumption | intro _ | apply State.setFld_kept | apply State.setBit_kept | apply State.report_kept
                            | apply State.onMgmt_kept | apply State.onFlash_kept | apply State.setCond_kept | apply writeQueued_kept
                            | apply State.unexpose_kept | apply showSlots_kept | apply showFw_kept)
    | (extract_lets +onlyGivenNames x; first | (refine Kept.cut (qs := qs) x ?_ fun hx => ?_; subst x; rotate_left; clear_value x; rotate_left) | subst x)
    | split

end Sys2Proof.Machine
end

