-- ==== Sys2Proof/Laws/KeptMailbox.lean ====
section
/-! SUPPORT. What the operations of Machine/Mailbox.lean keep: the queue, and the canonical form of the stores. -/
namespace Sys2Proof.Machine

open Sys2Proof

theorem cxlCmd_kept {qs : Keep} (fw ok : Bool) (via : CmdPath) (f : State → State) (s : State) (hf : ∀ a0, Kept qs a0 → Kept qs (f a0)) (hs : Kept
    qs s) : Kept qs (cxlCmd fw ok via f s) := by
  unfold cxlCmd
  repeat' first
    | with_reducible (first | assumption | apply answer_kept | apply refuse_kept | apply wakePlaza_kept | apply hf)
    | split

theorem beginJob_kept {qs : Keep} (via : CmdPath) (kind : Nat) (j : FlashJob) (s : State) (hs : Kept qs s) : Kept qs (beginJob via kind j s) := by
  unfold beginJob
  repeat' first
    | with_reducible (first | assumption | apply nvWrite_kept | apply refuse_kept | apply holdMgr_kept)
    | split

theorem execSetTimestamp_kept {qs : Keep} (via : CmdPath) (t : BitVec 64) (s : State) (hs : Kept qs s) : Answers qs (execSetTimestamp via t s) := by
  unfold execSetTimestamp
  repeat' first
    | with_reducible (first | assumption | intro _ | apply takeWake_kept | apply serveWake_kept | apply stampTime_kept | apply done_kept
                            | apply answer_kept | apply cxlCmd_kept | apply Answers.next)
    | split

theorem execGetLayoutInfo_kept {qs : Keep} (via : CmdPath) (s : State) (hs : Kept qs s) : Answers qs (execGetLayoutInfo via s) := by
  unfold execGetLayoutInfo
  with_reducible repeat' first | assumption | intro _ | apply done_kept | apply answer_kept | apply vendorCmd_kept

theorem execTransferLayout_kept {qs : Keep} (via : CmdPath) (a : Transfer LayoutImage) (s : State) (hs : Kept qs s) : Answers qs (execTransferLayout
    via a s) := by
  unfold execTransferLayout
  repeat' first
    | with_reducible (first | assumption | intro _ | apply State.onFlash_kept | apply done_kept | apply answer_kept | apply mgrCmd_kept
                            | apply beginJob_kept | apply Answers.next)
    | (extract_lets +onlyGivenNames x; subst x)
    | split

theorem execSelectLayoutSlot_kept {qs : Keep} (via : CmdPath) (slot : Fin 2) (s : State) (hs : Kept qs s) : Answers qs (execSelectLayoutSlot via
    slot s) := by
  unfold execSelectLayoutSlot
  repeat' first
    | with_reducible (first | assumption | intro _ | apply State.setFld_kept | apply State.onFlash_kept | apply done_kept | apply answer_kept
                            | apply mgrCmd_kept | apply showSlots_kept | apply Answers.next)
    | split

theorem execAmendLayout_kept {qs : Keep} (via : CmdPath) (img : LayoutImage) (s : State) (hs : Kept qs s) : Answers qs (execAmendLayout via img s)
    := by
  unfold execAmendLayout
  repeat' first
    | with_reducible (first | assumption | intro _ | apply State.setFld_kept | apply done_kept | apply answer_kept | apply mgrCmd_kept
                            | apply beginJob_kept | apply Answers.next)
    | split

theorem execRaiseLayoutMinimumVersion_kept {qs : Keep} (via : CmdPath) (s : State) (hs : Kept qs s) : Answers qs (execRaiseLayoutMinimumVersion via
    s) := by
  unfold execRaiseLayoutMinimumVersion
  repeat' first
    | with_reducible (first | assumption | intro _ | apply done_kept | apply answer_kept | apply mgrCmd_kept | apply beginJob_kept
                            | apply Answers.next)
    | split

theorem execSetFunctionMode_kept {qs : Keep} (via : CmdPath) (f : Fin 8) (host : Bool) (s : State) (hs : Kept qs s) : Answers qs
    (execSetFunctionMode via f host s) := by
  unfold execSetFunctionMode
  with_reducible repeat' first | assumption | intro _ | apply done_kept | apply answer_kept | apply mgrCmd_kept | apply writeMode_kept

theorem applyHeld_kept {qs : Keep} (s : State) (hs : Kept qs s) : Kept qs (applyHeld s) := by
  unfold applyHeld
  repeat' first
    | with_reducible (first | assumption | intro _ | apply forAll_kept | apply State.vendor_kept | apply finishTraining_kept
                            | apply stackTrained_kept)
    | split

theorem tierPages_kept {qs : Keep} (via : CmdPath) (ld dpa len : Nat) (promote : Bool) (s : State) (hs : Kept qs s) : Kept qs (tierPages via ld dpa
    len promote s) := by
  unfold tierPages
  repeat' first
    | with_reducible (first | assumption | intro _ | apply queueOp_kept | apply answer_kept | apply Kept.foldl | apply Kept.foldl_second
                            | apply Kept.foldl_third | refine Kept.pending (qs := qs) ?_ | refine Kept.regs (qs := qs) ?_
                            | refine Kept.lines (qs := qs) ?_ | refine Kept.stitches (qs := qs) ?_)
    | (extract_lets +onlyGivenNames x; first | (refine Kept.cut (qs := qs) x ?_ fun hx => ?_; subst x; rotate_left; clear_value x; rotate_left) | subst x)
    | split
    | refine hintPage_kept _ _ _ _ ?_ _ ‹_ = HintResult.acted _›
    | dsimp only
    | (with_reducible refine Kept.of_parts ?_ ?_ ?_ ?_ <;> dsimp only)

theorem resumeHeld_kept {qs : Keep} (f : Nat) (s : State) (hs : Kept qs s) : Kept qs (resumeHeld f s) := by
  unfold resumeHeld
  repeat' first
    | with_reducible (first | assumption | intro _ | apply State.onHot_kept | apply State.onQos_kept | apply forAll_kept | apply enableKeyed_kept
                            | apply judgeCinch_kept | apply tierPages_kept)
    | split

theorem execFunctionModeSwitch_kept {qs : Keep} (f : Fin 8) (s : State) (hs : Kept qs s) : Answers qs (execFunctionModeSwitch f s) := by
  unfold execFunctionModeSwitch
  repeat' first
    | with_reducible (first | assumption | intro _ | apply State.setFld_kept | apply State.onCold_kept | apply State.vendor_kept | apply done_kept
                            | apply applyHeld_kept | apply resumeHeld_kept | apply Answers.next)
    | (extract_lets +onlyGivenNames x; first | (refine Kept.cut (qs := qs) x ?_ fun hx => ?_; subst x; rotate_left; clear_value x; rotate_left) | subst x)
    | split

theorem execGetFaultLog_kept {qs : Keep} (via : CmdPath) (first n : Nat) (s : State) (hs : Kept qs s) : Answers qs (execGetFaultLog via first n s)
    := by
  unfold execGetFaultLog
  with_reducible repeat' first | assumption | intro _ | apply done_kept | apply answer_kept | apply mgrCmd_kept

theorem execClearFault_kept {qs : Keep} (via : CmdPath) (srcs : List (Fin 64)) (hist : Bool) (s : State) (hs : Kept qs s) : Answers qs
    (execClearFault via srcs hist s) := by
  unfold execClearFault
  repeat' first
    | with_reducible (first | assumption | intro _ | apply State.setFld_kept | apply forAll_kept | apply clearFirst_kept | apply done_kept
                            | apply answer_kept | apply mgrCmd_kept | apply Answers.next)
    | split

theorem execApplyReaction_kept {qs : Keep} (via : CmdPath) (src inst code : BitVec 8) (s : State) (hs : Kept qs s) : Answers qs (execApplyReaction
    via src inst code s) := by
  unfold execApplyReaction
  repeat' first
    | with_reducible (first | assumption | intro _ | apply forAll_kept | apply done_kept | apply answer_kept | apply mgrCmd_kept
                            | apply decideReport_kept | apply returnReset_kept | apply Answers.next)
    | split

theorem execInjectFault_kept {qs : Keep} (via : CmdPath) (j : Injection) (s : State) (hs : Kept qs s) : Answers qs (execInjectFault via j s) := by
  unfold execInjectFault
  repeat' first
    | with_reducible (first | assumption | intro _ | apply done_kept | apply answerCode_kept | apply mgrCmd_kept | apply forceReport_kept
                            | apply armInjection_kept | apply Answers.next)
    | split

theorem execDimmService_kept {qs : Keep} (via : CmdPath) (cmd : BitVec 3) (ch : Fin 16) (z : Fin 2) (s : State) (hs : Kept qs s) : Answers qs
    (execDimmService via cmd ch z s) := by
  unfold execDimmService
  repeat' first
    | with_reducible (first | assumption | intro _ | apply svcCommand_kept | apply done_kept | apply answer_kept | apply answerCode_kept
                            | apply mgrCmd_kept | apply Answers.next)
    | (extract_lets +onlyGivenNames x; refine Kept.cut (qs := qs) x ?_ fun hx => ?_; subst x; rotate_left; clear_value x; rotate_left)
    | split

theorem execSlotPower_kept {qs : Keep} (via : CmdPath) (cmd : BitVec 3) (j : Fin 64) (s : State) (hs : Kept qs s) : Answers qs (execSlotPower via
    cmd j s) := by
  unfold execSlotPower
  repeat' first
    | with_reducible (first | assumption | intro _ | apply supCommand_kept | apply done_kept | apply answer_kept | apply answerCode_kept
                            | apply mgrCmd_kept | apply Answers.next)
    | (extract_lets +onlyGivenNames x; refine Kept.cut (qs := qs) x ?_ fun hx => ?_; subst x; rotate_left; clear_value x; rotate_left)
    | split

theorem execTierPages_kept {qs : Keep} (via : CmdPath) (ld : Fin 16) (dpa len : Nat) (promote : Bool) (s : State) (hs : Kept qs s) : Answers qs
    (execTierPages via ld dpa len promote s) := by
  unfold execTierPages
  repeat' first
    | with_reducible (first | assumption | intro _ | apply State.onHot_kept | apply done_kept | apply answer_kept | apply vendorCmd_kept
                            | apply tierPages_kept | apply Answers.next)
    | split

theorem execNameGcVictims_kept {qs : Keep} (via : CmdPath) (segs : List Nat) (s : State) (hs : Kept qs s) : Answers qs (execNameGcVictims via segs
    s) := by
  unfold execNameGcVictims
  repeat' first
    | with_reducible (first | assumption | intro _ | apply State.onCold_kept | apply done_kept | apply nextHostVictim_kept | apply answer_kept
                            | apply mgrCmd_kept | apply Answers.next)
    | split

theorem execPatrolRange_kept {qs : Keep} (via : CmdPath) (first last : Nat) (s : State) (hs : Kept qs s) : Answers qs (execPatrolRange via first
    last s) := by
  unfold execPatrolRange
  repeat' first
    | with_reducible (first | assumption | intro _ | apply State.onDcm_kept | apply done_kept | apply answer_kept | apply mgrCmd_kept
                            | apply Answers.next)
    | split

theorem execGetTrainingResults_kept {qs : Keep} (via : CmdPath) (u : TrainUnit) (s : State) (hs : Kept qs s) : Answers qs (execGetTrainingResults
    via u s) := by
  unfold execGetTrainingResults
  repeat' first
    | with_reducible (first | assumption | intro _ | apply done_kept | apply answer_kept | apply mgrCmd_kept | apply Answers.next)
    | (extract_lets +onlyGivenNames x; subst x)
    | split

theorem execCommitTrainingSettings_kept {qs : Keep} (via : CmdPath) (u : TrainUnit) (settings : Nat) (pass : Bool) (s : State) (hs : Kept qs s) :
    Answers qs (execCommitTrainingSettings via u settings pass s) := by
  unfold execCommitTrainingSettings
  repeat' first
    | with_reducible (first | assumption | intro _ | apply State.updDcc_kept | apply State.vendor_kept | apply done_kept | apply finishTraining_kept
                            | apply stackTrained_kept | apply answer_kept | apply mgrCmd_kept | apply Answers.next)
    | (extract_lets +onlyGivenNames x; refine Kept.cut (qs := qs) x ?_ fun hx => ?_; subst x; rotate_left; clear_value x; rotate_left)
    | split

theorem execSetRebuildRate_kept {qs : Keep} (via : CmdPath) (mibs : BitVec 16) (s : State) (hs : Kept qs s) : Answers qs (execSetRebuildRate via
    mibs s) := by
  unfold execSetRebuildRate
  with_reducible repeat' first | assumption | intro _ | apply State.setFld_kept | apply done_kept | apply answer_kept | apply mgrCmd_kept

theorem execBlockReset_kept {qs : Keep} (via : CmdPath) (dom : BitVec 8) (s : State) (hs : Kept qs s) : Answers qs (execBlockReset via dom s) := by
  unfold execBlockReset
  with_reducible repeat' first | assumption | intro _ | apply commandLevel3_kept | apply done_kept | apply answerCode_kept | apply mgrCmd_kept

theorem execWarmReset_kept {qs : Keep} (via : CmdPath) (s : State) (hs : Kept qs s) : Answers qs (execWarmReset via s) := by
  unfold execWarmReset
  with_reducible repeat' first | assumption | intro _ | apply moduleSource_kept | apply done_kept | apply answer_kept | apply mgrCmd_kept

theorem execColdReset_kept {qs : Keep} (via : CmdPath) (s : State) (hs : Kept qs s) : Answers qs (execColdReset via s) := by
  unfold execColdReset
  with_reducible repeat' first | assumption | intro _ | apply moduleSource_kept | apply done_kept | apply answer_kept | apply mgrCmd_kept

theorem execInjectRootKey_kept {qs : Keep} (via : CmdPath) (ld : BitVec 8) (rsvd : BitVec 24) (key : BitVec 256) (check : BitVec 32) (s : State) (hs
    : Kept qs s) : Answers qs (execInjectRootKey via ld rsvd key check s) := by
  unfold execInjectRootKey
  repeat' first
    | with_reducible (first | assumption | intro _ | apply State.count_kept | apply State.setBitOf_kept | apply State.onVault_kept
                            | apply freshItem_kept | apply setKeySrc_kept | apply enableKeyed_kept | apply done_kept | apply answer_kept
                            | apply vendorCmd_kept | apply Answers.next)
    | (extract_lets +onlyGivenNames x; refine Kept.cut (qs := qs) x ?_ fun hx => ?_; subst x; rotate_left; clear_value x; rotate_left)
    | split

theorem execSetLifeCycleState_kept {qs : Keep} (via : CmdPath) (target : LifeCycle) (auth : Bool) (s : State) (hs : Kept qs s) : Answers qs
    (execSetLifeCycleState via target auth s) := by
  unfold execSetLifeCycleState
  repeat' first
    | with_reducible (first | assumption | intro _ | apply nvWrite_kept | apply done_kept | apply answer_kept | apply refuse_kept
                            | apply vendorCmd_kept | apply Answers.next)
    | split

theorem eraseModule_kept {qs : Keep} (overwrite : Bool) (via : CmdPath) (s : State) (hs : Kept qs s) : Kept qs (eraseModule overwrite via s) := by
  unfold eraseModule
  repeat' first
    | with_reducible (first | assumption | intro _ | apply State.setFld_kept | apply State.onRst_kept | apply moduleSource_kept | apply answer_kept
                            | apply cxlCmd_kept)
    | (extract_lets +onlyGivenNames x; first | (refine Kept.cut (qs := qs) x ?_ fun hx => ?_; subst x; rotate_left; clear_value x; rotate_left) | subst x)
    | split

theorem execSecureErase_kept {qs : Keep} (via : CmdPath) (s : State) (hs : Kept qs s) : Answers qs (execSecureErase via s) := by
  unfold execSecureErase
  with_reducible repeat' first | assumption | apply done_kept | apply eraseModule_kept

theorem execSanitize_kept {qs : Keep} (via : CmdPath) (s : State) (hs : Kept qs s) : Answers qs (execSanitize via s) := by
  unfold execSanitize
  with_reducible repeat' first | assumption | apply done_kept | apply eraseModule_kept

theorem execGetFwInfo_kept {qs : Keep} (via : CmdPath) (s : State) (hs : Kept qs s) : Answers qs (execGetFwInfo via s) := by
  unfold execGetFwInfo
  with_reducible repeat' first | assumption | intro _ | apply done_kept | apply answer_kept | apply cxlCmd_kept

theorem execTransferFw_kept {qs : Keep} (via : CmdPath) (a : Transfer FwImage) (s : State) (hs : Kept qs s) : Answers qs (execTransferFw via a s) :=
    by
  unfold execTransferFw
  repeat' first
    | with_reducible (first | assumption | intro _ | apply State.onMgmt_kept | apply done_kept | apply answer_kept | apply cxlCmd_kept
                            | apply beginJob_kept | apply Answers.next)
    | (extract_lets +onlyGivenNames x; subst x)
    | split

theorem beginActivation_kept {qs : Keep} (via : CmdPath) (slot : Nat) (s : State) (hs : Kept qs s) : Kept qs (beginActivation via slot s) := by
  unfold beginActivation
  with_reducible repeat' first | assumption | apply State.setFld_kept | apply State.onMgmt_kept | apply State.setCond_kept | apply blockSource_kept

theorem execActivateFw_kept {qs : Keep} (via : CmdPath) (slot : Fin 4) (online : Bool) (s : State) (hs : Kept qs s) : Answers qs (execActivateFw via
    slot online s) := by
  unfold execActivateFw
  repeat' first
    | with_reducible (first | assumption | intro _ | apply State.setFld_kept | apply State.onFlash_kept | apply done_kept | apply answer_kept
                            | apply refuse_kept | apply cxlCmd_kept | apply beginActivation_kept | apply Answers.next)
    | split

theorem endActivation_kept {qs : Keep} (rc t0 : Nat) (back : Bool) (s : State) (hs : Kept qs s) : Kept qs (endActivation rc t0 back s) := by
  unfold endActivation
  repeat' first
    | with_reducible (first | assumption | apply State.setFld_kept | apply State.setBit_kept | apply State.onMgmt_kept | apply State.setCond_kept
                            | apply answer_kept)
    | split

theorem execFwActivationHandover_kept {qs : Keep} (s : State) (hs : Kept qs s) : Answers qs (execFwActivationHandover s) := by
  unfold execFwActivationHandover
  repeat' first
    | with_reducible (first | assumption | apply State.onFlash_kept | apply done_kept | apply firmwareStarts_kept | apply endActivation_kept
                            | apply Answers.next)
    | split

theorem execFwActivationTimeout_kept {qs : Keep} (failed : Bool) (s : State) (hs : Kept qs s) : Answers qs (execFwActivationTimeout failed s) := by
  unfold execFwActivationTimeout
  repeat' first
    | with_reducible (first | assumption | intro _ | apply State.until_kept | apply done_kept | apply firmwareStarts_kept | apply endActivation_kept
                            | apply Answers.next)
    | (extract_lets +onlyGivenNames x; refine Kept.cut (qs := qs) x ?_ fun hx => ?_; subst x; rotate_left; clear_value x; rotate_left)
    | split

theorem vendorByOpcode_kept {qs : Keep} (via : CmdPath) (op : Nat) (s : State) (hs : Kept qs s) : Kept qs (vendorByOpcode via op s) := by
  unfold vendorByOpcode
  repeat' first
    | with_reducible (first | assumption | apply refuse_kept)
    | split

theorem pldmReply_kept {qs : Keep} (r : PldmRequest) (t : State) (ht : Kept qs t) : Kept qs (pldmReply r t) := by
  unfold pldmReply
  repeat' first
    | with_reducible (first | assumption | apply State.spent_kept | apply answer_kept | apply vendorByOpcode_kept)
    | split
    | exact Kept.same ‹_› rfl rfl rfl rfl

theorem execPldmRequest_kept {qs : Keep} (r : PldmRequest) (s : State) (hs : Kept qs s) : Answers qs (execPldmRequest r s) := by
  unfold execPldmRequest
  repeat' first
    | with_reducible (first | assumption | intro _ | apply done_kept | apply cxlCmd_kept | apply pldmReply_kept | apply Answers.next)
    | split

theorem execNewCapacityRequest_kept {qs : Keep} (ld : Fin 16) (n : Nat) (s : State) (hs : Kept qs s) : Answers qs (execNewCapacityRequest ld n s) :=
    by
  unfold execNewCapacityRequest
  repeat' first
    | with_reducible (first | assumption | intro _ | apply forAll_kept | apply done_kept | apply answer_kept | apply offer_kept | apply cxlCmd_kept
                            | apply Answers.next)
    | (extract_lets +onlyGivenNames x; subst x)
    | split

end Sys2Proof.Machine
end

