-- ==== Sys2Proof/Laws/KeptPmu.lean ====
section
/-! SUPPORT. What the operations of Machine/Pmu.lean keep: the queue, and the canonical form of the stores. -/
namespace Sys2Proof.Machine

open Sys2Proof

theorem execPmuEvent_kept {qs : Keep} (o : Occurrence) (s : State) (hs : Kept qs s) : Answers qs (execPmuEvent o s) := by
  unfold execPmuEvent
  repeat' first
    | with_reducible (first | assumption | apply State.occur_kept | apply Answers.next)
    | split

theorem latchWindow_kept {qs : Keep} (s : State) (hs : Kept qs s) : Kept qs (latchWindow s) := by
  unfold latchWindow
  with_reducible repeat' first | assumption | intro _ | apply State.setBit_kept | apply State.wrap_kept | apply State.setPair_kept
                               | apply State.onPmu_kept | apply forAll_kept

theorem execPmuWindowBoundary_kept {qs : Keep} (s : State) (hs : Kept qs s) : Answers qs (execPmuWindowBoundary s) := by
  unfold execPmuWindowBoundary
  with_reducible repeat' first | assumption | apply State.advance_kept | apply latchWindow_kept | apply Answers.next

theorem restartWindow_kept {qs : Keep} (fix : Bool) (v : Nat) (s : State) (hs : Kept qs s) : Kept qs (restartWindow fix v s) := by
  unfold restartWindow
  repeat' first
    | with_reducible (first | assumption | apply State.setFld_kept | apply State.onPmu_kept)
    | split

theorem execPmuWindowRestart_kept {qs : Keep} (p : Path) (fix : Bool) (v : BitVec 32) (s : State) (hs : Kept qs s) : Answers qs
    (execPmuWindowRestart p fix v s) := by
  unfold execPmuWindowRestart
  repeat' first
    | with_reducible (first | assumption | apply State.accessFault_kept | apply done_kept | apply restartWindow_kept | apply Answers.next)
    | split

theorem writePmuCtl_kept {qs : Keep} (v : BitVec 32) (s : State) (hs : Kept qs s) : Kept qs (writePmuCtl v s) := by
  unfold writePmuCtl
  repeat' first
    | with_reducible (first | assumption | intro _ | apply State.setReg_kept | apply State.setBit_kept | apply State.setPair_kept
                            | apply State.onPmu_kept | apply forAll_kept)
    | (extract_lets +onlyGivenNames x; refine Kept.cut (qs := qs) x ?_ fun hx => ?_; subst x; rotate_left; clear_value x; rotate_left)
    | split

theorem execPmuClearAll_kept {qs : Keep} (p : Path) (v : BitVec 32) (s : State) (hs : Kept qs s) : Answers qs (execPmuClearAll p v s) := by
  unfold execPmuClearAll
  repeat' first
    | with_reducible (first | assumption | apply State.accessFault_kept | apply done_kept | apply writePmuCtl_kept | apply Answers.next)
    | split

end Sys2Proof.Machine
end

