-- ==== Sys2Proof/Laws/KeptPower.lean ====
section
/-! SUPPORT. What the operations of Machine/Power.lean keep: the queue, and the canonical form of the stores. -/
namespace Sys2Proof.Machine

open Sys2Proof

theorem execLatencyToleranceWrite_kept {qs : Keep} (_p : Path) (h : Fin 4) (v : BitVec 32) (s : State) (hs : Kept qs s) : Answers qs
    (execLatencyToleranceWrite _p h v s) := by
  unfold execLatencyToleranceWrite
  repeat' first
    | with_reducible (first | assumption | apply State.setFld_kept | apply recheckAllowed_kept | apply Answers.next)
    | split

theorem execDomainPowerDown_kept {qs : Keep} (d : Fin 144) (s0 : State) (hs0 : Kept qs s0) : Answers qs (execDomainPowerDown d s0) := by
  unfold execDomainPowerDown
  repeat' first
    | with_reducible (first | assumption | intro _ | apply forAll_kept | apply State.until_kept | apply gateDomain_kept | apply Kept.foldl
                            | apply Answers.next)
    | (extract_lets +onlyGivenNames x; subst x)
    | split

theorem execDomainPowerUp_kept {qs : Keep} (d : Fin 144) (s : State) (hs : Kept qs s) : Answers qs (execDomainPowerUp d s) := by
  unfold execDomainPowerUp
  with_reducible repeat' first | assumption | apply wakeDomain_kept | apply Answers.next

theorem execDozeEntry_kept {qs : Keep} (s : State) (hs : Kept qs s) : Answers qs (execDozeEntry s) := by
  unfold execDozeEntry
  repeat' first
    | with_reducible (first | assumption | intro _ | apply State.until_kept | apply dozeDown_kept | apply Answers.next)
    | (extract_lets +onlyGivenNames x; refine Kept.cut (qs := qs) x ?_ fun hx => ?_; subst x; rotate_left; clear_value x; rotate_left)
    | split

theorem execDozeExit_kept {qs : Keep} (s : State) (hs : Kept qs s) : Answers qs (execDozeExit s) := by
  unfold execDozeExit
  repeat' first
    | with_reducible (first | assumption | apply serveWake_kept | apply Answers.next)
    | split

theorem execKeepEntry_kept {qs : Keep} (s : State) (hs : Kept qs s) : Answers qs (execKeepEntry s) := by
  unfold execKeepEntry
  repeat' first
    | with_reducible (first | assumption | intro _ | apply State.until_kept | apply dozeUp_kept | apply keepBegin_kept | apply Answers.next)
    | (extract_lets +onlyGivenNames x; first | (refine Kept.cut (qs := qs) x ?_ fun hx => ?_; subst x; rotate_left; clear_value x; rotate_left) | subst x)
    | split

theorem execKeepReleasesDone_kept {qs : Keep} (s : State) (hs : Kept qs s) : Answers qs (execKeepReleasesDone s) := by
  unfold execKeepReleasesDone
  repeat' first
    | with_reducible (first | assumption | apply keepDown_kept | apply Answers.next)
    | split

theorem execKeepExit_kept {qs : Keep} (s : State) (hs : Kept qs s) : Answers qs (execKeepExit s) := by
  unfold execKeepExit
  repeat' first
    | with_reducible (first | assumption | apply serveWake_kept | apply Answers.next)
    | split

theorem execWake_kept {qs : Keep} (src : Fin 9) (inst : BitVec 8) (s : State) (hs : Kept qs s) : Answers qs (execWake src inst s) := by
  unfold execWake
  repeat' first
    | with_reducible (first | assumption | apply takeWake_kept | apply Answers.next)
    | split

theorem execMaintenanceBurst_kept {qs : Keep} (s : State) (hs : Kept qs s) : Answers qs (execMaintenanceBurst s) := by
  unfold execMaintenanceBurst
  repeat' first
    | with_reducible (first | assumption | apply State.onPwr_kept | apply State.until_kept | apply takeWake_kept | apply serveWake_kept
                            | apply Answers.next)
    | split

theorem execRegulatorAck_kept {qs : Keep} (rail : Fin 4) (s : State) (hs : Kept qs s) : Answers qs (execRegulatorAck rail s) := by
  unfold execRegulatorAck
  with_reducible repeat' first | assumption | apply ackVoltage_kept | apply railsDone_kept | apply Answers.next

theorem execVoltageAckTimeout_kept {qs : Keep} (rail : Fin 4) (repeatAck inWindow : Bool) (s : State) (hs : Kept qs s) : Answers qs
    (execVoltageAckTimeout rail repeatAck inWindow s) := by
  unfold execVoltageAckTimeout
  repeat' first
    | with_reducible (first | assumption | apply State.setFld_kept | apply State.count_kept | apply State.report_kept | apply State.until_kept
                            | apply ackVoltage_kept | apply railsDone_kept | apply done_kept | apply Answers.next)
    | split

theorem execVcoreTrim_kept {qs : Keep} (mv : Nat) (s : State) (hs : Kept qs s) : Answers qs (execVcoreTrim mv s) := by
  unfold execVcoreTrim
  repeat' first
    | with_reducible (first | assumption | apply requestVoltage_kept | apply Answers.next)
    | split

end Sys2Proof.Machine
end

