-- ==== Sys2Proof/Laws/KeptRegisters.lean ====
section
/-! SUPPORT. What the operations of Machine/Registers.lean keep: the queue, and the canonical form of the stores. -/
namespace Sys2Proof.Machine

open Sys2Proof

theorem dozeToTrim_kept {qs : Keep} (d : Nat) (s : State) (hs : Kept qs s) : Kept qs (dozeToTrim d s) := by
  unfold dozeToTrim
  repeat' first
    | with_reducible (first | assumption | intro _ | apply State.setFld_kept | apply State.count_kept | apply State.onNoc_kept
                            | apply State.setCond_kept | apply forAll_kept | apply endKeepTime_kept | apply channelsWake_kept
                            | refine Kept.pending (qs := qs) ?_ | refine Kept.regs (qs := qs) ?_ | refine Kept.lines (qs := qs) ?_
                            | refine Kept.stitches (qs := qs) ?_)
    | (extract_lets +onlyGivenNames x; subst x)
    | split
    | dsimp only
    | (with_reducible refine Kept.of_parts ?_ ?_ ?_ ?_ <;> dsimp only)

theorem wakeForAccess_kept {qs : Keep} (d : Nat) (s : State) (hs : Kept qs s) : Kept qs (wakeForAccess d s) := by
  unfold wakeForAccess
  repeat' first
    | with_reducible (first | assumption | intro _ | apply ackVoltage_kept | apply railsDone_kept | apply takeWake_kept | apply serveWake_kept
                            | apply dozeToTrim_kept)
    | (extract_lets +onlyGivenNames x; refine Kept.cut (qs := qs) x ?_ fun hx => ?_; subst x; rotate_left; clear_value x; rotate_left)
    | split

theorem wakeBlockAt_kept {qs : Keep} (a : Nat) (s : State) (hs : Kept qs s) : Kept qs (wakeBlockAt a s) := by
  unfold wakeBlockAt
  repeat' first
    | with_reducible (first | assumption | apply wakeForAccess_kept)
    | split

theorem commitDecoder_kept {qs : Keep} (k n : Nat) (s : State) (hs : Kept qs s) : Kept qs (commitDecoder k n s) := by
  unfold commitDecoder
  repeat' first
    | with_reducible (first | assumption | intro _ | apply State.updLd_kept)
    | (extract_lets +onlyGivenNames x; subst x)
    | split

theorem writeDecoder_kept {qs : Keep} (k n o v : Nat) (s : State) (hs : Kept qs s) : Kept qs (writeDecoder k n o v s) := by
  unfold writeDecoder
  repeat' first
    | with_reducible (first | assumption | apply State.updLd_kept | apply commitDecoder_kept)
    | split

theorem readCxl_kept {qs : Keep} (p : Path) (a : Nat) (s : State) (hs : Kept qs s) : Kept qs (readCxl p a s).2 := by
  unfold readCxl
  repeat' first
    | with_reducible (first | assumption | intro _ | apply State.spent_kept)
    | (extract_lets +onlyGivenNames x; subst x)
    | split

theorem writeCxl_kept {qs : Keep} (p : Path) (a : Nat) (v : Word) (s : State) (hs : Kept qs s) : Kept qs (writeCxl p a v s) := by
  unfold writeCxl
  repeat' first
    | with_reducible (first | assumption | intro _ | apply State.accessFault_kept | apply writeDecoder_kept)
    | (extract_lets +onlyGivenNames x; subst x)
    | split

theorem readWord_kept {qs : Keep} (p : Path) (a : Nat) (s : State) (hs : Kept qs s) : Kept qs (readWord p a s).2 := by
  unfold readWord
  repeat' first
    | with_reducible (first | assumption | apply State.updPath_kept | apply readCxl_kept)
    | split

theorem readSized_kept {qs : Keep} (p : Path) (off : Nat) (size : AccSize) (s : State) (hs : Kept qs s) : Kept qs (readSized p off size s).2 := by
  unfold readSized
  repeat' first
    | with_reducible (first | assumption | apply readWord_kept)
    | split

theorem readAccess_kept {qs : Keep} (p : Path) (off : Nat) (size : AccSize) (s : State) (hs : Kept qs s) : Kept qs (readAccess p off size s) := by
  unfold readAccess
  repeat' first
    | with_reducible (first | assumption | apply State.emit_kept | apply State.report_kept | apply wakeBlockAt_kept | apply readSized_kept)
    | split

theorem storeMasked_kept {qs : Keep} (r : Reg.Row) (a v skip : Nat) (s : State) (hs : Kept qs s) : Kept qs (storeMasked r a v skip s) := by
  unfold storeMasked
  with_reducible repeat' first | assumption | apply State.setReg_kept

theorem writeModes_kept {qs : Keep} (a v : Nat) (s : State) (hs : Kept qs s) : Kept qs (writeModes a v s) := by
  unfold writeModes
  with_reducible repeat' first | assumption | intro _ | apply writeMode_kept | apply Kept.foldl

theorem writeHpaCtl_kept {qs : Keep} (r : Reg.Row) (h v : Nat) (s : State) (hs : Kept qs s) : Kept qs (writeHpaCtl r h v s) := by
  unfold writeHpaCtl
  repeat' first
    | with_reducible (first | assumption | apply retryRate_kept | apply disableLink_kept | apply enableLink_kept | apply storeMasked_kept)
    | split

theorem writeRstCmd_kept {qs : Keep} (v : Nat) (s : State) (hs : Kept qs s) : Kept qs (writeRstCmd v s) := by
  unfold writeRstCmd
  repeat' first
    | with_reducible (first | assumption | intro _ | apply moduleSource_kept | apply rstCode_kept | apply commandLevel3_kept)
    | (extract_lets +onlyGivenNames x; subst x)
    | split

theorem writeInj_kept {qs : Keep} (r : Reg.Row) (v : Nat) (s : State) (hs : Kept qs s) : Kept qs (writeInj r v s) := by
  unfold writeInj
  repeat' first
    | with_reducible (first | assumption | apply armInjection_kept | apply storeMasked_kept)
    | split

theorem writeEffect_kept {qs : Keep} (p : Path) (r : Reg.Row) (a i v : Nat) (s : State) (hs : Kept qs s) : KeptOpt qs (writeEffect p r a i v s) := by
  unfold writeEffect
  repeat' first
    | with_reducible (first | assumption | apply State.setFld_kept | apply State.updPath_kept | apply settleDrain_kept | apply svcCommand_kept
                            | apply recheckAllowed_kept | apply supCommand_kept | apply latchMeasurement_kept | apply writeRingCfg_kept
                            | apply ringBell_kept | apply resumeRing_kept | apply clearWhenDone_kept | apply forceReport_kept
                            | apply writeRoute_kept | apply commandFlip_kept | apply restartWindow_kept | apply writePmuCtl_kept
                            | apply storeMasked_kept | apply writeHpaCtl_kept | apply writeRstCmd_kept | apply writeInj_kept | apply KeptOpt.ite
                            | exact KeptOpt.of_none | apply KeptOpt.of_some)
    | split

theorem writePair_kept {qs : Keep} (p : Path) (r : Reg.Row) (a v : Nat) (s : State) (hs : Kept qs s) : Kept qs (writePair p r a v s) := by
  unfold writePair
  with_reducible repeat' first | assumption | apply State.setReg_kept | apply State.updPath_kept | apply storeMasked_kept

theorem writeWord_kept {qs : Keep} (p : Path) (a : Nat) (v : Word) (s : State) (hs : Kept qs s) : Kept qs (writeWord p a v s) := by
  unfold writeWord
  repeat' first
    | with_reducible (first | assumption | apply State.accessFault_kept | apply State.updPath_kept | apply writeCxl_kept | apply storeMasked_kept
                            | apply writeModes_kept | apply writeEffect_kept | apply writePair_kept)
    | split
    | refine KeptOpt.of_eq ‹_ = some _› ?_

theorem writeAccess_kept {qs : Keep} (p : Path) (off : Nat) (size : AccSize) (v : BitVec 64) (s : State) (hs : Kept qs s) : Kept qs (writeAccess p
    off size v s) := by
  unfold writeAccess
  repeat' first
    | with_reducible (first | assumption | apply State.emit_kept | apply State.report_kept | apply State.accessFault_kept | apply wakeBlockAt_kept
                            | apply writeWord_kept)
    | split

theorem execRegisterWrite_kept {qs : Keep} (p : Path) (off : Nat) (size : AccSize) (v : BitVec 64) (s : State) (hs : Kept qs s) : Answers qs
    (execRegisterWrite p off size v s) := by
  unfold execRegisterWrite
  with_reducible repeat' first | assumption | apply done_kept | apply writeAccess_kept

theorem execLoHalfRead_kept {qs : Keep} (p : Path) (off : Nat) (size : AccSize) (s : State) (hs : Kept qs s) : Answers qs (execLoHalfRead p off size
    s) := by
  unfold execLoHalfRead
  with_reducible repeat' first | assumption | apply done_kept | apply readAccess_kept

theorem execHiHalfRead_kept {qs : Keep} (p : Path) (off : Nat) (s : State) (hs : Kept qs s) : Answers qs (execHiHalfRead p off s) := by
  unfold execHiHalfRead
  with_reducible repeat' first | assumption | apply done_kept | apply readAccess_kept

theorem execPairHiWrite_kept {qs : Keep} (p : Path) (off : Nat) (v : BitVec 32) (s : State) (hs : Kept qs s) : Answers qs (execPairHiWrite p off v
    s) := by
  unfold execPairHiWrite
  with_reducible repeat' first | assumption | apply done_kept | apply writeAccess_kept

theorem execSelectorWrite_kept {qs : Keep} (p : Path) (sel : Selector) (v : BitVec 32) (s : State) (hs : Kept qs s) : Answers qs (execSelectorWrite
    p sel v s) := by
  unfold execSelectorWrite
  with_reducible repeat' first | assumption | apply done_kept | apply writeAccess_kept

theorem execSleepingRegisterAccess_kept {qs : Keep} (p : Path) (off : Nat) (w : Option (BitVec 32)) (s : State) (hs : Kept qs s) : Answers qs
    (execSleepingRegisterAccess p off w s) := by
  unfold execSleepingRegisterAccess
  repeat' first
    | with_reducible (first | assumption | apply done_kept | apply readAccess_kept | apply writeAccess_kept | apply Answers.next)
    | split

theorem execFencedRegisterAccess_kept {qs : Keep} (p : Path) (off : Nat) (w : Option (BitVec 32)) (s : State) (hs : Kept qs s) : Answers qs
    (execFencedRegisterAccess p off w s) := by
  unfold execFencedRegisterAccess
  repeat' first
    | with_reducible (first | assumption | apply done_kept | apply readAccess_kept | apply writeAccess_kept | apply Answers.next)
    | split

end Sys2Proof.Machine
end

