-- ==== Sys2Proof/Laws/KeptResets.lean ====
section
/-! SUPPORT. What the operations of Machine/Resets.lean keep: the queue, and the canonical form of the stores. -/
namespace Sys2Proof.Machine

open Sys2Proof

theorem setStraps_kept {qs : Keep} (bootSrc clkMode : Nat) (s : State) (hs : Kept qs s) : Kept qs (setStraps bootSrc clkMode s) := by
  unfold setStraps
  with_reducible repeat' first | assumption | apply State.onRst_kept

theorem cutPulse_kept {qs : Keep} (s : State) (hs : Kept qs s) : Kept qs (cutPulse s) := by
  unfold cutPulse
  repeat' first
    | with_reducible (first | assumption | apply State.spent_kept | apply State.onFlash_kept)
    | split

theorem powerOnCells_kept {qs : Keep} (s : State) (hs : Kept qs s) : Kept qs (powerOnCells s) := by
  unfold powerOnCells
  with_reducible repeat' first | assumption | intro _ | apply State.setReg_kept | apply State.onRst_kept | apply forAll_kept

theorem execPowerOn_kept {qs : Keep} (bootSrc clkMode : Fin 4) (addr : Fin 8) (s : State) (hs : Kept qs s) : Answers qs (execPowerOn bootSrc clkMode
    addr s) := by
  unfold execPowerOn
  repeat' first
    | with_reducible (first | assumption | apply State.setFld_kept | apply State.onPwr_kept | apply State.onSup_kept | apply State.onRst_kept
                            | apply supplyLost_kept | apply setStraps_kept | apply cutPulse_kept | apply powerOnCells_kept | apply Answers.next)
    | split

theorem execPwrgdDeasserted_kept {qs : Keep} (bus : Nat) (s : State) (hs : Kept qs s) : Answers qs (execPwrgdDeasserted bus s) := by
  unfold execPwrgdDeasserted
  repeat' first
    | with_reducible (first | assumption | intro _ | apply State.setFld_kept | apply State.setBit_kept | apply State.onPwr_kept
                            | apply State.onSup_kept | apply forAll_kept | apply openSwitch_kept | apply supplyLost_kept | apply cutPulse_kept
                            | apply Answers.next)
    | (extract_lets +onlyGivenNames x; first | (refine Kept.cut (qs := qs) x ?_ fun hx => ?_; subst x; rotate_left; clear_value x; rotate_left) | subst x)
    | split

theorem mrstActs_kept {qs : Keep} (s : State) (hs : Kept qs s) : Kept qs (mrstActs s) := by
  unfold mrstActs
  repeat' first
    | with_reducible (first | assumption | apply State.setFld_kept | apply State.onRst_kept | apply moduleReset_kept)
    | split

theorem execMrstN_kept {qs : Keep} (e : PinEvent) (bootSrc clkMode : Fin 4) (s : State) (hs : Kept qs s) : Answers qs (execMrstN e bootSrc clkMode
    s) := by
  unfold execMrstN
  repeat' first
    | with_reducible (first | assumption | apply State.spent_kept | apply State.onRst_kept | apply done_kept | apply setStraps_kept
                            | apply mrstActs_kept | apply Answers.next)
    | split

theorem releaseHead_kept {qs : Keep} (h : Nat) (s : State) (hs : Kept qs s) : Kept qs (releaseHead h s) := by
  unfold releaseHead
  repeat' first
    | with_reducible (first | assumption | intro _ | apply State.updHead_kept)
    | (extract_lets +onlyGivenNames x; refine Kept.cut (qs := qs) x ?_ fun hx => ?_; subst x; rotate_left; clear_value x; rotate_left)
    | split

theorem perstActs_kept {qs : Keep} (h : Nat) (s : State) (hs : Kept qs s) : Kept qs (perstActs h s) := by
  unfold perstActs
  repeat' first
    | with_reducible (first | assumption | apply headSource_kept)
    | split

theorem setPerstPin_kept {qs : Keep} (p : Fin 4) (low : Bool) (s : State) (hs : Kept qs s) : Kept qs (setPerstPin p low s) := by
  unfold setPerstPin
  repeat' first
    | with_reducible (first | assumption | apply State.onRst_kept)
    | split
    | exact Kept.same ‹_› rfl rfl rfl rfl

theorem execPerst_kept {qs : Keep} (p : Fin 4) (e : PinEvent) (s : State) (hs : Kept qs s) : Answers qs (execPerst p e s) := by
  unfold execPerst
  repeat' first
    | with_reducible (first | assumption | intro _ | apply State.count_kept | apply State.spent_kept | apply State.updHead_kept | apply done_kept
                            | apply releaseHead_kept | apply perstActs_kept | apply setPerstPin_kept | apply Answers.next
                            | refine Kept.pending (qs := qs) ?_ | refine Kept.regs (qs := qs) ?_ | refine Kept.lines (qs := qs) ?_
                            | refine Kept.stitches (qs := qs) ?_)
    | (extract_lets +onlyGivenNames x; subst x)
    | split
    | dsimp only

theorem execHotReset_kept {qs : Keep} (h : Fin 4) (s : State) (hs : Kept qs s) : Answers qs (execHotReset h s) := by
  unfold execHotReset
  repeat' first
    | with_reducible (first | assumption | apply headSource_kept | apply done_kept | apply Answers.next)
    | split

theorem execFlr_kept {qs : Keep} (ld : Fin 16) (s : State) (hs : Kept qs s) : Answers qs (execFlr ld s) := by
  unfold execFlr
  repeat' first
    | with_reducible (first | assumption | apply ldSource_kept | apply done_kept | apply Answers.next)
    | split

theorem execCxlReset_kept {qs : Keep} (ld : Fin 16) (s : State) (hs : Kept qs s) : Answers qs (execCxlReset ld s) := by
  unfold execCxlReset
  repeat' first
    | with_reducible (first | assumption | apply ldSource_kept | apply done_kept | apply Answers.next)
    | split

theorem execRstCmdLevel3_kept {qs : Keep} (p : Path) (dom : BitVec 8) (s : State) (hs : Kept qs s) : Answers qs (execRstCmdLevel3 p dom s) := by
  unfold execRstCmdLevel3
  with_reducible repeat' first | assumption | apply plazaOnly_kept | apply commandLevel3_kept | apply done_kept

theorem execRstCmdLevel4_kept {qs : Keep} (p : Path) (s : State) (hs : Kept qs s) : Answers qs (execRstCmdLevel4 p s) := by
  unfold execRstCmdLevel4
  with_reducible repeat' first | assumption | intro _ | apply plazaOnly_kept | apply moduleSource_kept | apply rstCode_kept | apply done_kept

theorem execRstCmdLevel5_kept {qs : Keep} (p : Path) (s : State) (hs : Kept qs s) : Answers qs (execRstCmdLevel5 p s) := by
  unfold execRstCmdLevel5
  with_reducible repeat' first | assumption | intro _ | apply plazaOnly_kept | apply moduleSource_kept | apply rstCode_kept | apply done_kept

theorem execBlockIdleReached_kept {qs : Keep} (dom : Fin 144) (us : Fin 200) (s : State) (hs : Kept qs s) : Answers qs (execBlockIdleReached dom us
    s) := by
  unfold execBlockIdleReached
  repeat' first
    | with_reducible (first | assumption | apply State.setFld_kept | apply State.until_kept | apply assertBlockReset_kept | apply done_kept
                            | apply Answers.next)
    | split

theorem execIdleTimeout_kept {qs : Keep} (dom : Fin 144) (s : State) (hs : Kept qs s) : Answers qs (execIdleTimeout dom s) := by
  unfold execIdleTimeout
  repeat' first
    | with_reducible (first | assumption | apply State.setFld_kept | apply State.count_kept | apply State.until_kept | apply endWork_kept
                            | apply assertBlockReset_kept | apply done_kept | apply Answers.next)
    | split

theorem bootCheck_kept {qs : Keep} (s : State) (hs : Kept qs s) : Kept qs (bootCheck s) := by
  unfold bootCheck
  repeat' first
    | with_reducible (first | assumption | apply State.setFld_kept)
    | split

theorem noteTested_kept {qs : Keep} (d : Nat) (s : State) (hs : Kept qs s) : Kept qs (noteTested d s) := by
  unfold noteTested
  with_reducible repeat' first | assumption | apply State.onRst_kept

theorem execClockReleaseTimeout_kept {qs : Keep} (dom : Fin 144) (s : State) (hs : Kept qs s) : Answers qs (execClockReleaseTimeout dom s) := by
  unfold execClockReleaseTimeout
  repeat' first
    | with_reducible (first | assumption | intro _ | apply State.setBitOf_kept | apply State.report_kept | apply forAll_kept
                            | apply endBlockReset_kept | apply fenceBlock_kept | apply settle_kept | apply done_kept | apply bootCheck_kept
                            | apply noteTested_kept | apply Answers.next)
    | (extract_lets +onlyGivenNames x; refine Kept.cut (qs := qs) x ?_ fun hx => ?_; subst x; rotate_left; clear_value x; rotate_left)
    | split

theorem clockPassed_kept {qs : Keep} (d : Nat) (s : State) (hs : Kept qs s) : Kept qs (clockPassed d s) := by
  unfold clockPassed
  repeat' first
    | with_reducible (first | assumption | apply State.setBitOf_kept)
    | split
    | exact Kept.same ‹_› rfl rfl rfl rfl

theorem execSelfTestDone_kept {qs : Keep} (dom : Fin 144) (pass : Bool) (s : State) (hs : Kept qs s) : Answers qs (execSelfTestDone dom pass s) := by
  unfold execSelfTestDone
  repeat' first
    | with_reducible (first | assumption | intro _ | apply State.setFld_kept | apply State.setBit_kept | apply State.report_kept
                            | apply State.setCond_kept | apply forAll_kept | apply State.markFenced_kept | apply setSlotState_kept
                            | apply returnBlock_kept | apply endBlockReset_kept | apply settle_kept | apply done_kept | apply releaseChannel_kept
                            | apply bootCheck_kept | apply noteTested_kept | apply clockPassed_kept | apply Answers.next)
    | (extract_lets +onlyGivenNames x; first | (refine Kept.cut (qs := qs) x ?_ fun hx => ?_; subst x; rotate_left; clear_value x; rotate_left) | subst x)
    | split

theorem fusesLoaded_kept {qs : Keep} (s : State) (hs : Kept qs s) : Kept qs (fusesLoaded s) := by
  unfold fusesLoaded
  repeat' first
    | with_reducible (first | assumption | intro _ | apply State.setReg_kept | apply State.setFld_kept | apply State.setPair_kept
                            | apply State.onFuses_kept | apply State.setCond_kept | apply forAll_kept | apply requestVoltage_kept)
    | split

theorem execFuseLoadDone_kept {qs : Keep} (bad : Option (BitVec 8)) (s : State) (hs : Kept qs s) : Answers qs (execFuseLoadDone bad s) := by
  unfold execFuseLoadDone
  repeat' first
    | with_reducible (first | assumption | intro _ | apply State.setFld_kept | apply fire_kept | apply State.onRst_kept | apply fusesLoaded_kept
                            | apply Answers.next)
    | (extract_lets +onlyGivenNames x; first | (refine Kept.cut (qs := qs) x ?_ fun hx => ?_; subst x; rotate_left; clear_value x; rotate_left) | subst x)
    | split

theorem execFuseLoadHold_kept {qs : Keep} (s : State) (hs : Kept qs s) : Answers qs (execFuseLoadHold s) := by
  unfold execFuseLoadHold
  repeat' first
    | with_reducible (first | assumption | apply State.setFld_kept | apply State.report_kept | apply done_kept | apply Answers.next)
    | split

theorem takeStaged_kept {qs : Keep} (s : State) (hs : Kept qs s) : Kept qs (takeStaged s) := by
  unfold takeStaged
  repeat' first
    | with_reducible (first | assumption | apply State.onFlash_kept)
    | split

theorem execFirmwareBootDone_kept {qs : Keep} (ok : Bool) (s : State) (hs : Kept qs s) : Answers qs (execFirmwareBootDone ok s) := by
  unfold execFirmwareBootDone
  repeat' first
    | with_reducible (first | assumption | intro _ | apply done_kept | apply firmwareStarts_kept | apply takeStaged_kept | apply Answers.next)
    | (extract_lets +onlyGivenNames x; first | (refine Kept.cut (qs := qs) x ?_ fun hx => ?_; subst x; rotate_left; clear_value x; rotate_left) | subst x)
    | split

theorem execRecoveryFirmwareImage_kept {qs : Keep} (img : FwImage) (s : State) (hs : Kept qs s) : Answers qs (execRecoveryFirmwareImage img s) := by
  unfold execRecoveryFirmwareImage
  repeat' first
    | with_reducible (first | assumption | apply done_kept | apply firmwareStarts_kept | apply Answers.next)
    | split

theorem execLayoutLoadAttempt_kept {qs : Keep} (s : State) (hs : Kept qs s) : Answers qs (execLayoutLoadAttempt s) := by
  unfold execLayoutLoadAttempt
  repeat' first
    | with_reducible (first | assumption | apply done_kept | apply loadAttempt_kept | apply Answers.next)
    | split

theorem execHeadReady_kept {qs : Keep} (h : Fin 4) (s : State) (hs : Kept qs s) : Answers qs (execHeadReady h s) := by
  unfold execHeadReady
  repeat' first
    | with_reducible (first | assumption | intro _ | apply State.setFld_kept | apply State.emit_kept | apply State.updHead_kept | apply Answers.next)
    | (extract_lets +onlyGivenNames x; first | (refine Kept.cut (qs := qs) x ?_ fun hx => ?_; subst x; rotate_left; clear_value x; rotate_left) | subst x)
    | split

theorem execCtmInit_kept {qs : Keep} (s : State) (hs : Kept qs s) : Answers qs (execCtmInit s) := by
  unfold execCtmInit
  repeat' first
    | with_reducible (first | assumption | intro _ | apply done_kept | apply tryPopulation_kept | apply measure_kept | apply activateMemory_kept
                            | apply initFresh_kept | apply initRecovery_kept | apply Answers.next)
    | (extract_lets +onlyGivenNames x; first | (refine Kept.cut (qs := qs) x ?_ fun hx => ?_; subst x; rotate_left; clear_value x; rotate_left) | subst x)
    | split

theorem execNvPulseEnd_kept {qs : Keep} (s : State) (hs : Kept qs s) : Answers qs (execNvPulseEnd s) := by
  unfold execNvPulseEnd
  repeat' first
    | with_reducible (first | assumption | apply State.setFld_kept | apply State.onRst_kept | apply State.onFlash_kept | apply moduleReset_kept
                            | apply done_kept | apply applyJob_kept | apply Answers.next)
    | split

theorem execStatusResponderRead_kept {qs : Keep} (cmd : BitVec 8) (s : State) (hs : Kept qs s) : Answers qs (execStatusResponderRead cmd s) := by
  unfold execStatusResponderRead
  repeat' first
    | with_reducible (first | assumption | apply State.emit_kept | apply answer_kept | apply Answers.next)
    | split

theorem setCable_kept {qs : Keep} (c : Fin 2) (present : Bool) (s : State) (hs : Kept qs s) : Kept qs (setCable c present s) := by
  unfold setCable
  repeat' first
    | with_reducible (first | assumption | apply State.onRst_kept)
    | exact Kept.same ‹_› rfl rfl rfl rfl

theorem cableActs_kept {qs : Keep} (before : State) (s : State) (h : Nat) (hbefore : Kept qs before) (hs : Kept qs s) : Kept qs (cableActs before s
    h) := by
  unfold cableActs
  repeat' first
    | with_reducible (first | assumption | apply releaseHead_kept | apply perstActs_kept)
    | split

theorem execCablePresenceChange_kept {qs : Keep} (c : Fin 2) (present : Bool) (s : State) (hs : Kept qs s) : Answers qs (execCablePresenceChange c
    present s) := by
  unfold execCablePresenceChange
  repeat' first
    | with_reducible (first | assumption | intro _ | apply forAll_kept | apply done_kept | apply setCable_kept | apply cableActs_kept
                            | apply Answers.next)
    | (extract_lets +onlyGivenNames x; first | (refine Kept.cut (qs := qs) x ?_ fun hx => ?_; subst x; rotate_left; clear_value x; rotate_left) | subst x)
    | split
    | exact Kept.same ‹_› rfl rfl rfl rfl

end Sys2Proof.Machine
end

