-- ==== Sys2Proof/Laws/KeptSlices.lean ====
section
/-! SUPPORT. What the operations of Machine/Slices.lean keep: the queue, and the canonical form of the stores. -/
namespace Sys2Proof.Machine

open Sys2Proof

theorem pointer89_kept {qs : Keep} (sl : Nat) (rs : List Req) (s0 t : State) (r : Req) (u : State) (ht : Kept qs t) (hu : Kept qs u) : Kept qs
    (pointer89 sl rs s0 t r u) := by
  unfold pointer89
  repeat' first
    | with_reducible (first | assumption | intro _ | apply State.updSlice_kept)
    | (extract_lets +onlyGivenNames x; subst x)
    | split

theorem execSliceRequest_kept {qs : Keep} (sl : Fin 34) (ids : List Nat) (s : State) (hs : Kept qs s) : Answers qs (execSliceRequest sl ids s) := by
  unfold execSliceRequest
  repeat' first
    | with_reducible (first | assumption | intro _ | apply forAll_kept | apply State.deliver_kept | apply deliver_kept | apply done_kept
                            | apply pointer89_kept | apply Answers.next | refine Kept.pending (qs := qs) ?_ | refine Kept.regs (qs := qs) ?_
                            | refine Kept.lines (qs := qs) ?_ | refine Kept.stitches (qs := qs) ?_)
    | (extract_lets +onlyGivenNames x; first | (refine Kept.cut (qs := qs) x ?_ fun hx => ?_; subst x; rotate_left; clear_value x; rotate_left) | subst x)
    | split
    | dsimp only
    | (with_reducible refine Kept.of_parts ?_ ?_ ?_ ?_ <;> dsimp only)

theorem execBirspReceived_kept {qs : Keep} (sl : Fin 34) (la : Nat) (ld : Fin 16) (rsp : BiRsp) (s : State) (hs : Kept qs s) : Answers qs
    (execBirspReceived sl la ld rsp s) := by
  unfold execBirspReceived
  repeat' first
    | with_reducible (first | assumption | intro _ | apply State.count_kept | apply setFilter_kept | apply endRecall_kept | apply clearSnp_kept
                            | apply snoopAnswered_kept | apply finishReleases_kept | apply done_kept | apply Answers.next)
    | (extract_lets +onlyGivenNames x; subst x)
    | split

theorem timeoutLine_kept {qs : Keep} (sl la k : Nat) (s : State) (hs : Kept qs s) : Kept qs (timeoutLine sl la k s) := by
  unfold timeoutLine
  with_reducible repeat' first | assumption | apply State.count_kept | apply State.report_kept | apply mediaEvent_kept | apply poisonLine_kept
                               | apply setFilter_kept

theorem execSnoopTimeout_kept {qs : Keep} (sl : Fin 34) (la : Nat) (ld : Fin 16) (s : State) (hs : Kept qs s) : Answers qs (execSnoopTimeout sl la
    ld s) := by
  unfold execSnoopTimeout
  repeat' first
    | with_reducible (first | assumption | intro _ | apply State.until_kept | apply updTxn_kept | apply endRecall_kept | apply clearSnp_kept
                            | apply snoopAnswered_kept | apply finishReleases_kept | apply done_kept | apply timeoutLine_kept | apply Answers.next)
    | (extract_lets +onlyGivenNames x; first | (refine Kept.cut (qs := qs) x ?_ fun hx => ?_; subst x; rotate_left; clear_value x; rotate_left) | subst x)
    | split

theorem execTicketForfeit_kept {qs : Keep} (sl : Fin 34) (key : Nat) (s : State) (hs : Kept qs s) : Answers qs (execTicketForfeit sl key s) := by
  unfold execTicketForfeit
  repeat' first
    | with_reducible (first | assumption | intro _ | apply State.count_kept | apply State.until_kept | apply advanceTicket_kept | apply serve_kept
                            | apply Answers.next | refine Kept.pending (qs := qs) ?_ | refine Kept.regs (qs := qs) ?_
                            | refine Kept.lines (qs := qs) ?_ | refine Kept.stitches (qs := qs) ?_)
    | split
    | dsimp only
    | (with_reducible refine Kept.of_parts ?_ ?_ ?_ ?_ <;> dsimp only)

theorem execNackRetry_kept {qs : Keep} (id : Nat) (s : State) (hs : Kept qs s) : Answers qs (execNackRetry id s) := by
  unfold execNackRetry
  repeat' first
    | with_reducible (first | assumption | intro _ | apply State.deliver_kept | apply State.until_kept | apply deliver_kept | apply done_kept
                            | apply Answers.next | refine Kept.pending (qs := qs) ?_ | refine Kept.regs (qs := qs) ?_
                            | refine Kept.lines (qs := qs) ?_ | refine Kept.stitches (qs := qs) ?_)
    | split
    | dsimp only
    | (with_reducible refine Kept.of_parts ?_ ?_ ?_ ?_ <;> dsimp only)

theorem execLdTeardown_kept {qs : Keep} (h : Fin 4) (s : State) (hs : Kept qs s) : Answers qs (execLdTeardown h s) := by
  unfold execLdTeardown
  repeat' first
    | with_reducible (first | assumption | apply forAll_kept | apply tearDown_kept | apply finishReleases_kept | apply done_kept
                            | apply Answers.next)
    | split

theorem execSparePowerUpDone_kept {qs : Keep} (e : Fin 32) (s : State) (hs : Kept qs s) : Answers qs (execSparePowerUpDone e s) := by
  unfold execSparePowerUpDone
  repeat' first
    | with_reducible (first | assumption | apply updTakeover_kept | apply moveToSpare_kept | apply wakeDomain_kept | apply Answers.next)
    | split

theorem execSpareArrayLoadDone_kept {qs : Keep} (e : Fin 32) (s : State) (hs : Kept qs s) : Answers qs (execSpareArrayLoadDone e s) := by
  unfold execSpareArrayLoadDone
  repeat' first
    | with_reducible (first | assumption | apply State.updSlice_kept | apply updTakeover_kept | apply Answers.next)
    | split

theorem execBuddyEntryDrained_kept {qs : Keep} (e : Fin 32) (s : State) (hs : Kept qs s) : Answers qs (execBuddyEntryDrained e s) := by
  unfold execBuddyEntryDrained
  repeat' first
    | with_reducible (first | assumption | apply moveToSpare_kept | apply Answers.next)
    | split

end Sys2Proof.Machine
end

