-- ==== Sys2Proof/Laws/KeptSupply.lean ====
section
/-! SUPPORT. What the operations of Machine/Supply.lean keep: the queue, and the canonical form of the stores. -/
namespace Sys2Proof.Machine

open Sys2Proof

theorem execFeedPresent_kept {qs : Keep} (f : Fin 2) (mv : Nat) (s : State) (hs : Kept qs s) : Answers qs (execFeedPresent f mv s) := by
  unfold execFeedPresent
  repeat' first
    | with_reducible (first | assumption | intro _ | apply State.spent_kept | apply State.updChan_kept | apply startRamp_kept | apply Answers.next)
    | (extract_lets +onlyGivenNames x; subst x)
    | split

theorem execFeedAbsent_kept {qs : Keep} (f : Fin 2) (s : State) (hs : Kept qs s) : Answers qs (execFeedAbsent f s) := by
  unfold execFeedAbsent
  repeat' first
    | with_reducible (first | assumption | apply State.updChan_kept | apply openSwitch_kept | apply feedLost_kept | apply done_kept
                            | apply Answers.next)
    | split

theorem execFeedReverseTurnOff_kept {qs : Keep} (f : Fin 2) (mv : Nat) (s : State) (hs : Kept qs s) : Answers qs (execFeedReverseTurnOff f mv s) := by
  unfold execFeedReverseTurnOff
  repeat' first
    | with_reducible (first | assumption | apply State.updChan_kept | apply openSwitch_kept | apply feedLost_kept | apply done_kept
                            | apply Answers.next)
    | split

theorem execSwitchRampDone_kept {qs : Keep} (j : Fin 36) (s : State) (hs : Kept qs s) : Answers qs (execSwitchRampDone j s) := by
  unfold execSwitchRampDone
  repeat' first
    | with_reducible (first | assumption | apply State.setFld_kept | apply State.updChan_kept | apply Answers.next)
    | split

theorem execPgWindowEnd_kept {qs : Keep} (j : Fin 36) (s : State) (hs : Kept qs s) : Answers qs (execPgWindowEnd j s) := by
  unfold execPgWindowEnd
  repeat' first
    | with_reducible (first | assumption | intro _ | apply State.setFld_kept | apply State.onSup_kept | apply State.updChan_kept
                            | apply State.unexpose_kept | apply State.until_kept | apply updDimm_kept | apply setSlotState_kept | apply setPg_kept
                            | apply Answers.next)
    | (extract_lets +onlyGivenNames x; first | (refine Kept.cut (qs := qs) x ?_ fun hx => ?_; subst x; rotate_left; clear_value x; rotate_left) | subst x)
    | split

theorem execCurrentLimit_kept {qs : Keep} (j : Fin 36) (s : State) (hs : Kept qs s) : Answers qs (execCurrentLimit j s) := by
  unfold execCurrentLimit
  repeat' first
    | with_reducible (first | assumption | apply State.setFld_kept | apply State.updChan_kept | apply Answers.next)
    | split

theorem execFaultTimerClear_kept {qs : Keep} (j : Fin 36) (s : State) (hs : Kept qs s) : Answers qs (execFaultTimerClear j s) := by
  unfold execFaultTimerClear
  repeat' first
    | with_reducible (first | assumption | intro _ | apply State.setFld_kept | apply State.updChan_kept | apply Answers.next)
    | (extract_lets +onlyGivenNames x; refine Kept.cut (qs := qs) x ?_ fun hx => ?_; subst x; rotate_left; clear_value x; rotate_left)
    | split

theorem execFaultTimerExpiry_kept {qs : Keep} (j : Fin 36) (s : State) (hs : Kept qs s) : Answers qs (execFaultTimerExpiry j s) := by
  unfold execFaultTimerExpiry
  repeat' first
    | with_reducible (first | assumption | apply State.until_kept | apply trip_kept | apply done_kept | apply Answers.next)
    | split

theorem execFastTrip_kept {qs : Keep} (j : Fin 36) (s : State) (hs : Kept qs s) : Answers qs (execFastTrip j s) := by
  unfold execFastTrip
  repeat' first
    | with_reducible (first | assumption | apply trip_kept | apply done_kept | apply Answers.next)
    | split

theorem execOverVoltageOpen_kept {qs : Keep} (f : Fin 2) (mv : Nat) (s : State) (hs : Kept qs s) : Answers qs (execOverVoltageOpen f mv s) := by
  unfold execOverVoltageOpen
  repeat' first
    | with_reducible (first | assumption | intro _ | apply State.setFld_kept | apply State.spent_kept | apply State.updChan_kept
                            | apply openSwitch_kept | apply feedLost_kept | apply done_kept | apply Answers.next)
    | (extract_lets +onlyGivenNames x; first | (refine Kept.cut (qs := qs) x ?_ fun hx => ?_; subst x; rotate_left; clear_value x; rotate_left) | subst x)
    | split

theorem execOverVoltageReclose_kept {qs : Keep} (f : Fin 2) (mv : Nat) (s : State) (hs : Kept qs s) : Answers qs (execOverVoltageReclose f mv s) := by
  unfold execOverVoltageReclose
  repeat' first
    | with_reducible (first | assumption | apply State.updChan_kept | apply State.until_kept | apply startRamp_kept | apply Answers.next)
    | split

theorem execRetryTimer_kept {qs : Keep} (j : Fin 36) (s : State) (hs : Kept qs s) : Answers qs (execRetryTimer j s) := by
  unfold execRetryTimer
  repeat' first
    | with_reducible (first | assumption | apply State.setFld_kept | apply State.updChan_kept | apply State.until_kept | apply startRamp_kept
                            | apply Answers.next)
    | split

theorem execRetryAttemptTimeout_kept {qs : Keep} (j : Fin 36) (s : State) (hs : Kept qs s) : Answers qs (execRetryAttemptTimeout j s) := by
  unfold execRetryAttemptTimeout
  repeat' first
    | with_reducible (first | assumption | apply State.until_kept | apply openSwitch_kept | apply scheduleRetry_kept | apply Answers.next)
    | split

theorem execBandFall_kept {qs : Keep} (mv : Nat) (s : State) (hs : Kept qs s) : Answers qs (execBandFall mv s) := by
  unfold execBandFall
  repeat' first
    | with_reducible (first | assumption | intro _ | apply State.setFld_kept | apply State.spent_kept | apply State.report_kept
                            | apply State.onSup_kept | apply enterBand_kept | apply done_kept | apply Answers.next)
    | (extract_lets +onlyGivenNames x; first | (refine Kept.cut (qs := qs) x ?_ fun hx => ?_; subst x; rotate_left; clear_value x; rotate_left) | subst x)
    | split

theorem execBandRise_kept {qs : Keep} (mv : Nat) (s : State) (hs : Kept qs s) : Answers qs (execBandRise mv s) := by
  unfold execBandRise
  repeat' first
    | with_reducible (first | assumption | intro _ | apply State.setFld_kept | apply State.spent_kept | apply State.onSup_kept | apply takeWake_kept
                            | apply enterBand_kept | apply Answers.next)
    | (extract_lets +onlyGivenNames x; first | (refine Kept.cut (qs := qs) x ?_ fun hx => ?_; subst x; rotate_left; clear_value x; rotate_left) | subst x)
    | split

theorem execPowerCapUpdate_kept {qs : Keep} (vin : Nat) (s : State) (hs : Kept qs s) : Answers qs (execPowerCapUpdate vin s) := by
  unfold execPowerCapUpdate
  with_reducible repeat' first | assumption | apply State.onSup_kept | apply updateCap_kept | apply Answers.next

theorem execThrottleRaise_kept {qs : Keep} (pin : Nat) (s : State) (hs : Kept qs s) : Answers qs (execThrottleRaise pin s) := by
  unfold execThrottleRaise
  repeat' first
    | with_reducible (first | assumption | apply State.setFld_kept | apply State.onSup_kept | apply State.until_kept | apply setThrottle_kept
                            | apply Answers.next)
    | split

theorem execThrottleLower_kept {qs : Keep} (pin : Nat) (s : State) (hs : Kept qs s) : Answers qs (execThrottleLower pin s) := by
  unfold execThrottleLower
  repeat' first
    | with_reducible (first | assumption | apply State.setFld_kept | apply State.onSup_kept | apply State.until_kept | apply setThrottle_kept
                            | apply Answers.next)
    | split
    | exact Kept.same ‹_› rfl rfl rfl rfl

theorem execBusLowThrottle_kept {qs : Keep} (mv : Nat) (s : State) (hs : Kept qs s) : Answers qs (execBusLowThrottle mv s) := by
  unfold execBusLowThrottle
  repeat' first
    | with_reducible (first | assumption | apply State.setBit_kept | apply State.onSup_kept | apply setThrottle_kept | apply Answers.next)
    | split

theorem execPhaseFault_kept {qs : Keep} (ph : Fin 6) (s : State) (hs : Kept qs s) : Answers qs (execPhaseFault ph s) := by
  unfold execPhaseFault
  repeat' first
    | with_reducible (first | assumption | apply State.setBitOf_kept | apply State.report_kept | apply updateCap_kept | apply done_kept
                            | apply Answers.next)
    | split

theorem execPowerFailWarning_kept {qs : Keep} (vin : Nat) (s : State) (hs : Kept qs s) : Answers qs (execPowerFailWarning vin s) := by
  unfold execPowerFailWarning
  repeat' first
    | with_reducible (first | assumption | apply State.setFld_kept | apply State.spent_kept | apply State.onSup_kept | apply updateCap_kept
                            | apply Answers.next)
    | split

theorem execTripRecordWrite_kept {qs : Keep} (s : State) (hs : Kept qs s) : Answers qs (execTripRecordWrite s) := by
  unfold execTripRecordWrite
  repeat' first
    | with_reducible (first | assumption | apply State.onSup_kept | apply State.until_kept | apply record_kept | apply Kept.foldl
                            | apply Answers.next)
    | split

theorem dropout_kept {qs : Keep} (t : Nat) (s : State) (hs : Kept qs s) : Kept qs (dropout t s) := by
  unfold dropout
  with_reducible repeat' first | assumption | intro _ | apply State.count_kept | apply State.onSup_kept | apply State.updChan_kept
                               | apply forAll_kept

theorem freshInsertion_kept {qs : Keep} (s : State) (hs : Kept qs s) : Kept qs (freshInsertion s) := by
  unfold freshInsertion
  repeat' first
    | with_reducible (first | assumption | intro _ | apply State.setReg_kept | apply State.setFld_kept | apply State.setBit_kept
                            | apply State.onSup_kept | apply State.onFlt_kept | apply forAll_kept | apply State.unexpose_kept
                            | apply freshChannel_kept | apply record_kept)
    | (extract_lets +onlyGivenNames x; refine Kept.cut (qs := qs) x ?_ fun hx => ?_; subst x; rotate_left; clear_value x; rotate_left)
    | split

theorem execInputReturn_kept {qs : Keep} (f : Option (Fin 2)) (s : State) (hs : Kept qs s) : Answers qs (execInputReturn f s) := by
  unfold execInputReturn
  repeat' first
    | with_reducible (first | assumption | apply State.count_kept | apply State.onSup_kept | apply State.updChan_kept | apply freshChannel_kept
                            | apply dropout_kept | apply freshInsertion_kept | apply Answers.next)
    | split

theorem execMeasurementSample_kept {qs : Keep} (j : Fin 36) (mv cur : BitVec 16) (s : State) (hs : Kept qs s) : Answers qs (execMeasurementSample j
    mv cur s) := by
  unfold execMeasurementSample
  with_reducible repeat' first | assumption | apply State.updChan_kept | apply Answers.next

theorem execMeasurementSelect_kept {qs : Keep} (p : Path) (v : BitVec 32) (s : State) (hs : Kept qs s) : Answers qs (execMeasurementSelect p v s) :=
    by
  unfold execMeasurementSelect
  with_reducible repeat' first | assumption | intro _ | apply State.setFld_kept | apply plazaOnly_kept | apply latchMeasurement_kept
                               | apply done_kept

theorem execSupplyPowerOff_kept {qs : Keep} (p : Path) (j : Fin 64) (s : State) (hs : Kept qs s) : Answers qs (execSupplyPowerOff p j s) := by
  unfold execSupplyPowerOff
  with_reducible repeat' first | assumption | apply plazaOnly_kept | apply supPowerOff_kept | apply done_kept

theorem execSupplyPowerOn_kept {qs : Keep} (p : Path) (j : Fin 64) (s : State) (hs : Kept qs s) : Answers qs (execSupplyPowerOn p j s) := by
  unfold execSupplyPowerOn
  with_reducible repeat' first | assumption | apply plazaOnly_kept | apply supPowerOn_kept | apply done_kept

theorem execClearLatchOff_kept {qs : Keep} (p : Path) (j : Fin 64) (s : State) (hs : Kept qs s) : Answers qs (execClearLatchOff p j s) := by
  unfold execClearLatchOff
  with_reducible repeat' first | assumption | apply plazaOnly_kept | apply supClear_kept | apply done_kept

theorem execEjectorLatchOpen_kept {qs : Keep} (k : Fin 32) (s : State) (hs : Kept qs s) : Answers qs (execEjectorLatchOpen k s) := by
  unfold execEjectorLatchOpen
  repeat' first
    | with_reducible (first | assumption | intro _ | apply State.setFld_kept | apply State.count_kept | apply State.updChan_kept
                            | apply State.setSlotSt_kept | apply openSwitch_kept | apply trip_kept | apply done_kept | apply Answers.next)
    | (extract_lets +onlyGivenNames x; first | (refine Kept.cut (qs := qs) x ?_ fun hx => ?_; subst x; rotate_left; clear_value x; rotate_left) | subst x)
    | split

theorem execEjectorLatchClose_kept {qs : Keep} (k : Fin 32) (fitted : Bool) (s : State) (hs : Kept qs s) : Answers qs (execEjectorLatchClose k
    fitted s) := by
  unfold execEjectorLatchClose
  repeat' first
    | with_reducible (first | assumption | intro _ | apply State.setFld_kept | apply State.updDcc_kept | apply State.updChan_kept
                            | apply Answers.next)
    | (extract_lets +onlyGivenNames x; first | (refine Kept.cut (qs := qs) x ?_ fun hx => ?_; subst x; rotate_left; clear_value x; rotate_left) | subst x)
    | split

theorem execDischargeComplete_kept {qs : Keep} (k : Fin 32) (s : State) (hs : Kept qs s) : Answers qs (execDischargeComplete k s) := by
  unfold execDischargeComplete
  repeat' first
    | with_reducible (first | assumption | intro _ | apply State.setFld_kept | apply Answers.next)
    | (extract_lets +onlyGivenNames x; subst x)
    | split

theorem execDischargeTimeout_kept {qs : Keep} (k : Fin 32) (s : State) (hs : Kept qs s) : Answers qs (execDischargeTimeout k s) := by
  unfold execDischargeTimeout
  repeat' first
    | with_reducible (first | assumption | intro _ | apply State.setFld_kept | apply State.report_kept | apply State.until_kept | apply done_kept
                            | apply Answers.next)
    | (extract_lets +onlyGivenNames x; first | (refine Kept.cut (qs := qs) x ?_ fun hx => ?_; subst x; rotate_left; clear_value x; rotate_left) | subst x)
    | split

theorem execInletLimitUpdate_kept {qs : Keep} (t : Nat) (s : State) (hs : Kept qs s) : Answers qs (execInletLimitUpdate t s) := by
  unfold execInletLimitUpdate
  repeat' first
    | with_reducible (first | assumption | intro _ | apply State.onSup_kept | apply updateCap_kept | apply Answers.next)
    | (extract_lets +onlyGivenNames x; subst x)
    | split

theorem execTp7Overtemp_kept {qs : Keep} (s : State) (hs : Kept qs s) : Answers qs (execTp7Overtemp s) := by
  unfold execTp7Overtemp
  repeat' first
    | with_reducible (first | assumption | intro _ | apply State.onSup_kept | apply forAll_kept | apply openSwitch_kept | apply feedLost_kept
                            | apply done_kept | apply Answers.next)
    | split

end Sys2Proof.Machine
end

