-- ==== Sys2Proof/Laws/State.lean ====
section
/-! SUPPORT. The laws of State: what every update leaves alone, and what reading a register or a field gives after one was written. -/
namespace Sys2Proof.Machine

open Sys2Proof

/-! ### Every update, field by field -/

/-! `State.setReg` -/
@[simp] theorem State.setReg_clk (s : State) (a : Nat) (v : Word): (s.setReg a v).clk = s.clk := rfl
@[simp] theorem State.setReg_free (s : State) (a : Nat) (v : Word): (s.setReg a v).free = s.free := rfl
@[simp] theorem State.setReg_nextId (s : State) (a : Nat) (v : Word): (s.setReg a v).nextId = s.nextId := rfl
@[simp] theorem State.setReg_paths (s : State) (a : Nat) (v : Word): (s.setReg a v).paths = s.paths := rfl
@[simp] theorem State.setReg_flight (s : State) (a : Nat) (v : Word): (s.setReg a v).flight = s.flight := rfl
@[simp] theorem State.setReg_replies (s : State) (a : Nat) (v : Word): (s.setReg a v).replies = s.replies := rfl
@[simp] theorem State.setReg_out (s : State) (a : Nat) (v : Word): (s.setReg a v).out = s.out := rfl
@[simp] theorem State.setReg_heads (s : State) (a : Nat) (v : Word): (s.setReg a v).heads = s.heads := rfl
@[simp] theorem State.setReg_lds (s : State) (a : Nat) (v : Word): (s.setReg a v).lds = s.lds := rfl
@[simp] theorem State.setReg_slices (s : State) (a : Nat) (v : Word): (s.setReg a v).slices = s.slices := rfl
@[simp] theorem State.setReg_takeovers (s : State) (a : Nat) (v : Word): (s.setReg a v).takeovers = s.takeovers := rfl
@[simp] theorem State.setReg_dbLost (s : State) (a : Nat) (v : Word): (s.setReg a v).dbLost = s.dbLost := rfl
@[simp] theorem State.setReg_teardown (s : State) (a : Nat) (v : Word): (s.setReg a v).teardown = s.teardown := rfl
@[simp] theorem State.setReg_hot (s : State) (a : Nat) (v : Word): (s.setReg a v).hot = s.hot := rfl
@[simp] theorem State.setReg_cold (s : State) (a : Nat) (v : Word): (s.setReg a v).cold = s.cold := rfl
@[simp] theorem State.setReg_vault (s : State) (a : Nat) (v : Word): (s.setReg a v).vault = s.vault := rfl
@[simp] theorem State.setReg_flt (s : State) (a : Nat) (v : Word): (s.setReg a v).flt = s.flt := rfl
@[simp] theorem State.setReg_layout (s : State) (a : Nat) (v : Word): (s.setReg a v).layout = s.layout := rfl
@[simp] theorem State.setReg_flash (s : State) (a : Nat) (v : Word): (s.setReg a v).flash = s.flash := rfl
@[simp] theorem State.setReg_fuses (s : State) (a : Nat) (v : Word): (s.setReg a v).fuses = s.fuses := rfl
@[simp] theorem State.setReg_qos (s : State) (a : Nat) (v : Word): (s.setReg a v).qos = s.qos := rfl
@[simp] theorem State.setReg_noc (s : State) (a : Nat) (v : Word): (s.setReg a v).noc = s.noc := rfl
@[simp] theorem State.setReg_nme (s : State) (a : Nat) (v : Word): (s.setReg a v).nme = s.nme := rfl
@[simp] theorem State.setReg_dram (s : State) (a : Nat) (v : Word): (s.setReg a v).dram = s.dram := rfl
@[simp] theorem State.setReg_pwr (s : State) (a : Nat) (v : Word): (s.setReg a v).pwr = s.pwr := rfl
@[simp] theorem State.setReg_sup (s : State) (a : Nat) (v : Word): (s.setReg a v).sup = s.sup := rfl
@[simp] theorem State.setReg_clocks (s : State) (a : Nat) (v : Word): (s.setReg a v).clocks = s.clocks := rfl
@[simp] theorem State.setReg_rst (s : State) (a : Nat) (v : Word): (s.setReg a v).rst = s.rst := rfl
@[simp] theorem State.setReg_pmu (s : State) (a : Nat) (v : Word): (s.setReg a v).pmu = s.pmu := rfl
@[simp] theorem State.setReg_mgmt (s : State) (a : Nat) (v : Word): (s.setReg a v).mgmt = s.mgmt := rfl
@[simp] theorem State.setReg_pending (s : State) (a : Nat) (v : Word): (s.setReg a v).pending = s.pending := rfl

/-! `State.setFld` -/
@[simp] theorem State.setFld_clk (s : State) (f : Reg.FRef) (x : Nat): (s.setFld f x).clk = s.clk := rfl
@[simp] theorem State.setFld_free (s : State) (f : Reg.FRef) (x : Nat): (s.setFld f x).free = s.free := rfl
@[simp] theorem State.setFld_nextId (s : State) (f : Reg.FRef) (x : Nat): (s.setFld f x).nextId = s.nextId := rfl
@[simp] theorem State.setFld_paths (s : State) (f : Reg.FRef) (x : Nat): (s.setFld f x).paths = s.paths := rfl
@[simp] theorem State.setFld_flight (s : State) (f : Reg.FRef) (x : Nat): (s.setFld f x).flight = s.flight := rfl
@[simp] theorem State.setFld_replies (s : State) (f : Reg.FRef) (x : Nat): (s.setFld f x).replies = s.replies := rfl
@[simp] theorem State.setFld_out (s : State) (f : Reg.FRef) (x : Nat): (s.setFld f x).out = s.out := rfl
@[simp] theorem State.setFld_heads (s : State) (f : Reg.FRef) (x : Nat): (s.setFld f x).heads = s.heads := rfl
@[simp] theorem State.setFld_lds (s : State) (f : Reg.FRef) (x : Nat): (s.setFld f x).lds = s.lds := rfl
@[simp] theorem State.setFld_slices (s : State) (f : Reg.FRef) (x : Nat): (s.setFld f x).slices = s.slices := rfl
@[simp] theorem State.setFld_takeovers (s : State) (f : Reg.FRef) (x : Nat): (s.setFld f x).takeovers = s.takeovers := rfl
@[simp] theorem State.setFld_dbLost (s : State) (f : Reg.FRef) (x : Nat): (s.setFld f x).dbLost = s.dbLost := rfl
@[simp] theorem State.setFld_teardown (s : State) (f : Reg.FRef) (x : Nat): (s.setFld f x).teardown = s.teardown := rfl
@[simp] theorem State.setFld_hot (s : State) (f : Reg.FRef) (x : Nat): (s.setFld f x).hot = s.hot := rfl
@[simp] theorem State.setFld_cold (s : State) (f : Reg.FRef) (x : Nat): (s.setFld f x).cold = s.cold := rfl
@[simp] theorem State.setFld_vault (s : State) (f : Reg.FRef) (x : Nat): (s.setFld f x).vault = s.vault := rfl
@[simp] theorem State.setFld_flt (s : State) (f : Reg.FRef) (x : Nat): (s.setFld f x).flt = s.flt := rfl
@[simp] theorem State.setFld_layout (s : State) (f : Reg.FRef) (x : Nat): (s.setFld f x).layout = s.layout := rfl
@[simp] theorem State.setFld_flash (s : State) (f : Reg.FRef) (x : Nat): (s.setFld f x).flash = s.flash := rfl
@[simp] theorem State.setFld_fuses (s : State) (f : Reg.FRef) (x : Nat): (s.setFld f x).fuses = s.fuses := rfl
@[simp] theorem State.setFld_qos (s : State) (f : Reg.FRef) (x : Nat): (s.setFld f x).qos = s.qos := rfl
@[simp] theorem State.setFld_noc (s : State) (f : Reg.FRef) (x : Nat): (s.setFld f x).noc = s.noc := rfl
@[simp] theorem State.setFld_nme (s : State) (f : Reg.FRef) (x : Nat): (s.setFld f x).nme = s.nme := rfl
@[simp] theorem State.setFld_dram (s : State) (f : Reg.FRef) (x : Nat): (s.setFld f x).dram = s.dram := rfl
@[simp] theorem State.setFld_pwr (s : State) (f : Reg.FRef) (x : Nat): (s.setFld f x).pwr = s.pwr := rfl
@[simp] theorem State.setFld_sup (s : State) (f : Reg.FRef) (x : Nat): (s.setFld f x).sup = s.sup := rfl
@[simp] theorem State.setFld_clocks (s : State) (f : Reg.FRef) (x : Nat): (s.setFld f x).clocks = s.clocks := rfl
@[simp] theorem State.setFld_rst (s : State) (f : Reg.FRef) (x : Nat): (s.setFld f x).rst = s.rst := rfl
@[simp] theorem State.setFld_pmu (s : State) (f : Reg.FRef) (x : Nat): (s.setFld f x).pmu = s.pmu := rfl
@[simp] theorem State.setFld_mgmt (s : State) (f : Reg.FRef) (x : Nat): (s.setFld f x).mgmt = s.mgmt := rfl
@[simp] theorem State.setFld_pending (s : State) (f : Reg.FRef) (x : Nat): (s.setFld f x).pending = s.pending := rfl

/-! `State.setBit` -/
@[simp] theorem State.setBit_clk (s : State) (f : Reg.FRef) (b : Bool): (s.setBit f b).clk = s.clk := rfl
@[simp] theorem State.setBit_free (s : State) (f : Reg.FRef) (b : Bool): (s.setBit f b).free = s.free := rfl
@[simp] theorem State.setBit_nextId (s : State) (f : Reg.FRef) (b : Bool): (s.setBit f b).nextId = s.nextId := rfl
@[simp] theorem State.setBit_paths (s : State) (f : Reg.FRef) (b : Bool): (s.setBit f b).paths = s.paths := rfl
@[simp] theorem State.setBit_flight (s : State) (f : Reg.FRef) (b : Bool): (s.setBit f b).flight = s.flight := rfl
@[simp] theorem State.setBit_replies (s : State) (f : Reg.FRef) (b : Bool): (s.setBit f b).replies = s.replies := rfl
@[simp] theorem State.setBit_out (s : State) (f : Reg.FRef) (b : Bool): (s.setBit f b).out = s.out := rfl
@[simp] theorem State.setBit_heads (s : State) (f : Reg.FRef) (b : Bool): (s.setBit f b).heads = s.heads := rfl
@[simp] theorem State.setBit_lds (s : State) (f : Reg.FRef) (b : Bool): (s.setBit f b).lds = s.lds := rfl
@[simp] theorem State.setBit_slices (s : State) (f : Reg.FRef) (b : Bool): (s.setBit f b).slices = s.slices := rfl
@[simp] theorem State.setBit_takeovers (s : State) (f : Reg.FRef) (b : Bool): (s.setBit f b).takeovers = s.takeovers := rfl
@[simp] theorem State.setBit_dbLost (s : State) (f : Reg.FRef) (b : Bool): (s.setBit f b).dbLost = s.dbLost := rfl
@[simp] theorem State.setBit_teardown (s : State) (f : Reg.FRef) (b : Bool): (s.setBit f b).teardown = s.teardown := rfl
@[simp] theorem State.setBit_hot (s : State) (f : Reg.FRef) (b : Bool): (s.setBit f b).hot = s.hot := rfl
@[simp] theorem State.setBit_cold (s : State) (f : Reg.FRef) (b : Bool): (s.setBit f b).cold = s.cold := rfl
@[simp] theorem State.setBit_vault (s : State) (f : Reg.FRef) (b : Bool): (s.setBit f b).vault = s.vault := rfl
@[simp] theorem State.setBit_flt (s : State) (f : Reg.FRef) (b : Bool): (s.setBit f b).flt = s.flt := rfl
@[simp] theorem State.setBit_layout (s : State) (f : Reg.FRef) (b : Bool): (s.setBit f b).layout = s.layout := rfl
@[simp] theorem State.setBit_flash (s : State) (f : Reg.FRef) (b : Bool): (s.setBit f b).flash = s.flash := rfl
@[simp] theorem State.setBit_fuses (s : State) (f : Reg.FRef) (b : Bool): (s.setBit f b).fuses = s.fuses := rfl
@[simp] theorem State.setBit_qos (s : State) (f : Reg.FRef) (b : Bool): (s.setBit f b).qos = s.qos := rfl
@[simp] theorem State.setBit_noc (s : State) (f : Reg.FRef) (b : Bool): (s.setBit f b).noc = s.noc := rfl
@[simp] theorem State.setBit_nme (s : State) (f : Reg.FRef) (b : Bool): (s.setBit f b).nme = s.nme := rfl
@[simp] theorem State.setBit_dram (s : State) (f : Reg.FRef) (b : Bool): (s.setBit f b).dram = s.dram := rfl
@[simp] theorem State.setBit_pwr (s : State) (f : Reg.FRef) (b : Bool): (s.setBit f b).pwr = s.pwr := rfl
@[simp] theorem State.setBit_sup (s : State) (f : Reg.FRef) (b : Bool): (s.setBit f b).sup = s.sup := rfl
@[simp] theorem State.setBit_clocks (s : State) (f : Reg.FRef) (b : Bool): (s.setBit f b).clocks = s.clocks := rfl
@[simp] theorem State.setBit_rst (s : State) (f : Reg.FRef) (b : Bool): (s.setBit f b).rst = s.rst := rfl
@[simp] theorem State.setBit_pmu (s : State) (f : Reg.FRef) (b : Bool): (s.setBit f b).pmu = s.pmu := rfl
@[simp] theorem State.setBit_mgmt (s : State) (f : Reg.FRef) (b : Bool): (s.setBit f b).mgmt = s.mgmt := rfl
@[simp] theorem State.setBit_pending (s : State) (f : Reg.FRef) (b : Bool): (s.setBit f b).pending = s.pending := rfl

/-! `State.count` -/
@[simp] theorem State.count_clk (s : State) (f : Reg.FRef) (n : Nat): (s.count f n).clk = s.clk := rfl
@[simp] theorem State.count_free (s : State) (f : Reg.FRef) (n : Nat): (s.count f n).free = s.free := rfl
@[simp] theorem State.count_nextId (s : State) (f : Reg.FRef) (n : Nat): (s.count f n).nextId = s.nextId := rfl
@[simp] theorem State.count_paths (s : State) (f : Reg.FRef) (n : Nat): (s.count f n).paths = s.paths := rfl
@[simp] theorem State.count_flight (s : State) (f : Reg.FRef) (n : Nat): (s.count f n).flight = s.flight := rfl
@[simp] theorem State.count_replies (s : State) (f : Reg.FRef) (n : Nat): (s.count f n).replies = s.replies := rfl
@[simp] theorem State.count_out (s : State) (f : Reg.FRef) (n : Nat): (s.count f n).out = s.out := rfl
@[simp] theorem State.count_heads (s : State) (f : Reg.FRef) (n : Nat): (s.count f n).heads = s.heads := rfl
@[simp] theorem State.count_lds (s : State) (f : Reg.FRef) (n : Nat): (s.count f n).lds = s.lds := rfl
@[simp] theorem State.count_slices (s : State) (f : Reg.FRef) (n : Nat): (s.count f n).slices = s.slices := rfl
@[simp] theorem State.count_takeovers (s : State) (f : Reg.FRef) (n : Nat): (s.count f n).takeovers = s.takeovers := rfl
@[simp] theorem State.count_dbLost (s : State) (f : Reg.FRef) (n : Nat): (s.count f n).dbLost = s.dbLost := rfl
@[simp] theorem State.count_teardown (s : State) (f : Reg.FRef) (n : Nat): (s.count f n).teardown = s.teardown := rfl
@[simp] theorem State.count_hot (s : State) (f : Reg.FRef) (n : Nat): (s.count f n).hot = s.hot := rfl
@[simp] theorem State.count_cold (s : State) (f : Reg.FRef) (n : Nat): (s.count f n).cold = s.cold := rfl
@[simp] theorem State.count_vault (s : State) (f : Reg.FRef) (n : Nat): (s.count f n).vault = s.vault := rfl
@[simp] theorem State.count_flt (s : State) (f : Reg.FRef) (n : Nat): (s.count f n).flt = s.flt := rfl
@[simp] theorem State.count_layout (s : State) (f : Reg.FRef) (n : Nat): (s.count f n).layout = s.layout := rfl
@[simp] theorem State.count_flash (s : State) (f : Reg.FRef) (n : Nat): (s.count f n).flash = s.flash := rfl
@[simp] theorem State.count_fuses (s : State) (f : Reg.FRef) (n : Nat): (s.count f n).fuses = s.fuses := rfl
@[simp] theorem State.count_qos (s : State) (f : Reg.FRef) (n : Nat): (s.count f n).qos = s.qos := rfl
@[simp] theorem State.count_noc (s : State) (f : Reg.FRef) (n : Nat): (s.count f n).noc = s.noc := rfl
@[simp] theorem State.count_nme (s : State) (f : Reg.FRef) (n : Nat): (s.count f n).nme = s.nme := rfl
@[simp] theorem State.count_dram (s : State) (f : Reg.FRef) (n : Nat): (s.count f n).dram = s.dram := rfl
@[simp] theorem State.count_pwr (s : State) (f : Reg.FRef) (n : Nat): (s.count f n).pwr = s.pwr := rfl
@[simp] theorem State.count_sup (s : State) (f : Reg.FRef) (n : Nat): (s.count f n).sup = s.sup := rfl
@[simp] theorem State.count_clocks (s : State) (f : Reg.FRef) (n : Nat): (s.count f n).clocks = s.clocks := rfl
@[simp] theorem State.count_rst (s : State) (f : Reg.FRef) (n : Nat): (s.count f n).rst = s.rst := rfl
@[simp] theorem State.count_pmu (s : State) (f : Reg.FRef) (n : Nat): (s.count f n).pmu = s.pmu := rfl
@[simp] theorem State.count_mgmt (s : State) (f : Reg.FRef) (n : Nat): (s.count f n).mgmt = s.mgmt := rfl
@[simp] theorem State.count_pending (s : State) (f : Reg.FRef) (n : Nat): (s.count f n).pending = s.pending := rfl

/-! `State.wrap` -/
@[simp] theorem State.wrap_clk (s : State) (f : Reg.FRef) (n : Nat): (s.wrap f n).clk = s.clk := rfl
@[simp] theorem State.wrap_free (s : State) (f : Reg.FRef) (n : Nat): (s.wrap f n).free = s.free := rfl
@[simp] theorem State.wrap_nextId (s : State) (f : Reg.FRef) (n : Nat): (s.wrap f n).nextId = s.nextId := rfl
@[simp] theorem State.wrap_paths (s : State) (f : Reg.FRef) (n : Nat): (s.wrap f n).paths = s.paths := rfl
@[simp] theorem State.wrap_flight (s : State) (f : Reg.FRef) (n : Nat): (s.wrap f n).flight = s.flight := rfl
@[simp] theorem State.wrap_replies (s : State) (f : Reg.FRef) (n : Nat): (s.wrap f n).replies = s.replies := rfl
@[simp] theorem State.wrap_out (s : State) (f : Reg.FRef) (n : Nat): (s.wrap f n).out = s.out := rfl
@[simp] theorem State.wrap_heads (s : State) (f : Reg.FRef) (n : Nat): (s.wrap f n).heads = s.heads := rfl
@[simp] theorem State.wrap_lds (s : State) (f : Reg.FRef) (n : Nat): (s.wrap f n).lds = s.lds := rfl
@[simp] theorem State.wrap_slices (s : State) (f : Reg.FRef) (n : Nat): (s.wrap f n).slices = s.slices := rfl
@[simp] theorem State.wrap_takeovers (s : State) (f : Reg.FRef) (n : Nat): (s.wrap f n).takeovers = s.takeovers := rfl
@[simp] theorem State.wrap_dbLost (s : State) (f : Reg.FRef) (n : Nat): (s.wrap f n).dbLost = s.dbLost := rfl
@[simp] theorem State.wrap_teardown (s : State) (f : Reg.FRef) (n : Nat): (s.wrap f n).teardown = s.teardown := rfl
@[simp] theorem State.wrap_hot (s : State) (f : Reg.FRef) (n : Nat): (s.wrap f n).hot = s.hot := rfl
@[simp] theorem State.wrap_cold (s : State) (f : Reg.FRef) (n : Nat): (s.wrap f n).cold = s.cold := rfl
@[simp] theorem State.wrap_vault (s : State) (f : Reg.FRef) (n : Nat): (s.wrap f n).vault = s.vault := rfl
@[simp] theorem State.wrap_flt (s : State) (f : Reg.FRef) (n : Nat): (s.wrap f n).flt = s.flt := rfl
@[simp] theorem State.wrap_layout (s : State) (f : Reg.FRef) (n : Nat): (s.wrap f n).layout = s.layout := rfl
@[simp] theorem State.wrap_flash (s : State) (f : Reg.FRef) (n : Nat): (s.wrap f n).flash = s.flash := rfl
@[simp] theorem State.wrap_fuses (s : State) (f : Reg.FRef) (n : Nat): (s.wrap f n).fuses = s.fuses := rfl
@[simp] theorem State.wrap_qos (s : State) (f : Reg.FRef) (n : Nat): (s.wrap f n).qos = s.qos := rfl
@[simp] theorem State.wrap_noc (s : State) (f : Reg.FRef) (n : Nat): (s.wrap f n).noc = s.noc := rfl
@[simp] theorem State.wrap_nme (s : State) (f : Reg.FRef) (n : Nat): (s.wrap f n).nme = s.nme := rfl
@[simp] theorem State.wrap_dram (s : State) (f : Reg.FRef) (n : Nat): (s.wrap f n).dram = s.dram := rfl
@[simp] theorem State.wrap_pwr (s : State) (f : Reg.FRef) (n : Nat): (s.wrap f n).pwr = s.pwr := rfl
@[simp] theorem State.wrap_sup (s : State) (f : Reg.FRef) (n : Nat): (s.wrap f n).sup = s.sup := rfl
@[simp] theorem State.wrap_clocks (s : State) (f : Reg.FRef) (n : Nat): (s.wrap f n).clocks = s.clocks := rfl
@[simp] theorem State.wrap_rst (s : State) (f : Reg.FRef) (n : Nat): (s.wrap f n).rst = s.rst := rfl
@[simp] theorem State.wrap_pmu (s : State) (f : Reg.FRef) (n : Nat): (s.wrap f n).pmu = s.pmu := rfl
@[simp] theorem State.wrap_mgmt (s : State) (f : Reg.FRef) (n : Nat): (s.wrap f n).mgmt = s.mgmt := rfl
@[simp] theorem State.wrap_pending (s : State) (f : Reg.FRef) (n : Nat): (s.wrap f n).pending = s.pending := rfl

/-! `State.setBitOf` -/
@[simp] theorem State.setBitOf_clk (s : State) (f : Reg.FRef) (i : Nat) (b : Bool): (s.setBitOf f i b).clk = s.clk := rfl
@[simp] theorem State.setBitOf_free (s : State) (f : Reg.FRef) (i : Nat) (b : Bool): (s.setBitOf f i b).free = s.free := rfl
@[simp] theorem State.setBitOf_nextId (s : State) (f : Reg.FRef) (i : Nat) (b : Bool): (s.setBitOf f i b).nextId = s.nextId := rfl
@[simp] theorem State.setBitOf_paths (s : State) (f : Reg.FRef) (i : Nat) (b : Bool): (s.setBitOf f i b).paths = s.paths := rfl
@[simp] theorem State.setBitOf_flight (s : State) (f : Reg.FRef) (i : Nat) (b : Bool): (s.setBitOf f i b).flight = s.flight := rfl
@[simp] theorem State.setBitOf_replies (s : State) (f : Reg.FRef) (i : Nat) (b : Bool): (s.setBitOf f i b).replies = s.replies := rfl
@[simp] theorem State.setBitOf_out (s : State) (f : Reg.FRef) (i : Nat) (b : Bool): (s.setBitOf f i b).out = s.out := rfl
@[simp] theorem State.setBitOf_heads (s : State) (f : Reg.FRef) (i : Nat) (b : Bool): (s.setBitOf f i b).heads = s.heads := rfl
@[simp] theorem State.setBitOf_lds (s : State) (f : Reg.FRef) (i : Nat) (b : Bool): (s.setBitOf f i b).lds = s.lds := rfl
@[simp] theorem State.setBitOf_slices (s : State) (f : Reg.FRef) (i : Nat) (b : Bool): (s.setBitOf f i b).slices = s.slices := rfl
@[simp] theorem State.setBitOf_takeovers (s : State) (f : Reg.FRef) (i : Nat) (b : Bool): (s.setBitOf f i b).takeovers = s.takeovers := rfl
@[simp] theorem State.setBitOf_dbLost (s : State) (f : Reg.FRef) (i : Nat) (b : Bool): (s.setBitOf f i b).dbLost = s.dbLost := rfl
@[simp] theorem State.setBitOf_teardown (s : State) (f : Reg.FRef) (i : Nat) (b : Bool): (s.setBitOf f i b).teardown = s.teardown := rfl
@[simp] theorem State.setBitOf_hot (s : State) (f : Reg.FRef) (i : Nat) (b : Bool): (s.setBitOf f i b).hot = s.hot := rfl
@[simp] theorem State.setBitOf_cold (s : State) (f : Reg.FRef) (i : Nat) (b : Bool): (s.setBitOf f i b).cold = s.cold := rfl
@[simp] theorem State.setBitOf_vault (s : State) (f : Reg.FRef) (i : Nat) (b : Bool): (s.setBitOf f i b).vault = s.vault := rfl
@[simp] theorem State.setBitOf_flt (s : State) (f : Reg.FRef) (i : Nat) (b : Bool): (s.setBitOf f i b).flt = s.flt := rfl
@[simp] theorem State.setBitOf_layout (s : State) (f : Reg.FRef) (i : Nat) (b : Bool): (s.setBitOf f i b).layout = s.layout := rfl
@[simp] theorem State.setBitOf_flash (s : State) (f : Reg.FRef) (i : Nat) (b : Bool): (s.setBitOf f i b).flash = s.flash := rfl
@[simp] theorem State.setBitOf_fuses (s : State) (f : Reg.FRef) (i : Nat) (b : Bool): (s.setBitOf f i b).fuses = s.fuses := rfl
@[simp] theorem State.setBitOf_qos (s : State) (f : Reg.FRef) (i : Nat) (b : Bool): (s.setBitOf f i b).qos = s.qos := rfl
@[simp] theorem State.setBitOf_noc (s : State) (f : Reg.FRef) (i : Nat) (b : Bool): (s.setBitOf f i b).noc = s.noc := rfl
@[simp] theorem State.setBitOf_nme (s : State) (f : Reg.FRef) (i : Nat) (b : Bool): (s.setBitOf f i b).nme = s.nme := rfl
@[simp] theorem State.setBitOf_dram (s : State) (f : Reg.FRef) (i : Nat) (b : Bool): (s.setBitOf f i b).dram = s.dram := rfl
@[simp] theorem State.setBitOf_pwr (s : State) (f : Reg.FRef) (i : Nat) (b : Bool): (s.setBitOf f i b).pwr = s.pwr := rfl
@[simp] theorem State.setBitOf_sup (s : State) (f : Reg.FRef) (i : Nat) (b : Bool): (s.setBitOf f i b).sup = s.sup := rfl
@[simp] theorem State.setBitOf_clocks (s : State) (f : Reg.FRef) (i : Nat) (b : Bool): (s.setBitOf f i b).clocks = s.clocks := rfl
@[simp] theorem State.setBitOf_rst (s : State) (f : Reg.FRef) (i : Nat) (b : Bool): (s.setBitOf f i b).rst = s.rst := rfl
@[simp] theorem State.setBitOf_pmu (s : State) (f : Reg.FRef) (i : Nat) (b : Bool): (s.setBitOf f i b).pmu = s.pmu := rfl
@[simp] theorem State.setBitOf_mgmt (s : State) (f : Reg.FRef) (i : Nat) (b : Bool): (s.setBitOf f i b).mgmt = s.mgmt := rfl
@[simp] theorem State.setBitOf_pending (s : State) (f : Reg.FRef) (i : Nat) (b : Bool): (s.setBitOf f i b).pending = s.pending := rfl

/-! `State.setPair` -/
@[simp] theorem State.setPair_clk (s : State) (lo hi v : Nat): (s.setPair lo hi v).clk = s.clk := rfl
@[simp] theorem State.setPair_free (s : State) (lo hi v : Nat): (s.setPair lo hi v).free = s.free := rfl
@[simp] theorem State.setPair_nextId (s : State) (lo hi v : Nat): (s.setPair lo hi v).nextId = s.nextId := rfl
@[simp] theorem State.setPair_paths (s : State) (lo hi v : Nat): (s.setPair lo hi v).paths = s.paths := rfl
@[simp] theorem State.setPair_flight (s : State) (lo hi v : Nat): (s.setPair lo hi v).flight = s.flight := rfl
@[simp] theorem State.setPair_replies (s : State) (lo hi v : Nat): (s.setPair lo hi v).replies = s.replies := rfl
@[simp] theorem State.setPair_out (s : State) (lo hi v : Nat): (s.setPair lo hi v).out = s.out := rfl
@[simp] theorem State.setPair_heads (s : State) (lo hi v : Nat): (s.setPair lo hi v).heads = s.heads := rfl
@[simp] theorem State.setPair_lds (s : State) (lo hi v : Nat): (s.setPair lo hi v).lds = s.lds := rfl
@[simp] theorem State.setPair_slices (s : State) (lo hi v : Nat): (s.setPair lo hi v).slices = s.slices := rfl
@[simp] theorem State.setPair_takeovers (s : State) (lo hi v : Nat): (s.setPair lo hi v).takeovers = s.takeovers := rfl
@[simp] theorem State.setPair_dbLost (s : State) (lo hi v : Nat): (s.setPair lo hi v).dbLost = s.dbLost := rfl
@[simp] theorem State.setPair_teardown (s : State) (lo hi v : Nat): (s.setPair lo hi v).teardown = s.teardown := rfl
@[simp] theorem State.setPair_hot (s : State) (lo hi v : Nat): (s.setPair lo hi v).hot = s.hot := rfl
@[simp] theorem State.setPair_cold (s : State) (lo hi v : Nat): (s.setPair lo hi v).cold = s.cold := rfl
@[simp] theorem State.setPair_vault (s : State) (lo hi v : Nat): (s.setPair lo hi v).vault = s.vault := rfl
@[simp] theorem State.setPair_flt (s : State) (lo hi v : Nat): (s.setPair lo hi v).flt = s.flt := rfl
@[simp] theorem State.setPair_layout (s : State) (lo hi v : Nat): (s.setPair lo hi v).layout = s.layout := rfl
@[simp] theorem State.setPair_flash (s : State) (lo hi v : Nat): (s.setPair lo hi v).flash = s.flash := rfl
@[simp] theorem State.setPair_fuses (s : State) (lo hi v : Nat): (s.setPair lo hi v).fuses = s.fuses := rfl
@[simp] theorem State.setPair_qos (s : State) (lo hi v : Nat): (s.setPair lo hi v).qos = s.qos := rfl
@[simp] theorem State.setPair_noc (s : State) (lo hi v : Nat): (s.setPair lo hi v).noc = s.noc := rfl
@[simp] theorem State.setPair_nme (s : State) (lo hi v : Nat): (s.setPair lo hi v).nme = s.nme := rfl
@[simp] theorem State.setPair_dram (s : State) (lo hi v : Nat): (s.setPair lo hi v).dram = s.dram := rfl
@[simp] theorem State.setPair_pwr (s : State) (lo hi v : Nat): (s.setPair lo hi v).pwr = s.pwr := rfl
@[simp] theorem State.setPair_sup (s : State) (lo hi v : Nat): (s.setPair lo hi v).sup = s.sup := rfl
@[simp] theorem State.setPair_clocks (s : State) (lo hi v : Nat): (s.setPair lo hi v).clocks = s.clocks := rfl
@[simp] theorem State.setPair_rst (s : State) (lo hi v : Nat): (s.setPair lo hi v).rst = s.rst := rfl
@[simp] theorem State.setPair_pmu (s : State) (lo hi v : Nat): (s.setPair lo hi v).pmu = s.pmu := rfl
@[simp] theorem State.setPair_mgmt (s : State) (lo hi v : Nat): (s.setPair lo hi v).mgmt = s.mgmt := rfl
@[simp] theorem State.setPair_pending (s : State) (lo hi v : Nat): (s.setPair lo hi v).pending = s.pending := rfl

/-! `State.wrapPair` -/
@[simp] theorem State.wrapPair_clk (s : State) (lo hi n : Nat): (s.wrapPair lo hi n).clk = s.clk := rfl
@[simp] theorem State.wrapPair_free (s : State) (lo hi n : Nat): (s.wrapPair lo hi n).free = s.free := rfl
@[simp] theorem State.wrapPair_nextId (s : State) (lo hi n : Nat): (s.wrapPair lo hi n).nextId = s.nextId := rfl
@[simp] theorem State.wrapPair_paths (s : State) (lo hi n : Nat): (s.wrapPair lo hi n).paths = s.paths := rfl
@[simp] theorem State.wrapPair_flight (s : State) (lo hi n : Nat): (s.wrapPair lo hi n).flight = s.flight := rfl
@[simp] theorem State.wrapPair_replies (s : State) (lo hi n : Nat): (s.wrapPair lo hi n).replies = s.replies := rfl
@[simp] theorem State.wrapPair_out (s : State) (lo hi n : Nat): (s.wrapPair lo hi n).out = s.out := rfl
@[simp] theorem State.wrapPair_heads (s : State) (lo hi n : Nat): (s.wrapPair lo hi n).heads = s.heads := rfl
@[simp] theorem State.wrapPair_lds (s : State) (lo hi n : Nat): (s.wrapPair lo hi n).lds = s.lds := rfl
@[simp] theorem State.wrapPair_slices (s : State) (lo hi n : Nat): (s.wrapPair lo hi n).slices = s.slices := rfl
@[simp] theorem State.wrapPair_takeovers (s : State) (lo hi n : Nat): (s.wrapPair lo hi n).takeovers = s.takeovers := rfl
@[simp] theorem State.wrapPair_dbLost (s : State) (lo hi n : Nat): (s.wrapPair lo hi n).dbLost = s.dbLost := rfl
@[simp] theorem State.wrapPair_teardown (s : State) (lo hi n : Nat): (s.wrapPair lo hi n).teardown = s.teardown := rfl
@[simp] theorem State.wrapPair_hot (s : State) (lo hi n : Nat): (s.wrapPair lo hi n).hot = s.hot := rfl
@[simp] theorem State.wrapPair_cold (s : State) (lo hi n : Nat): (s.wrapPair lo hi n).cold = s.cold := rfl
@[simp] theorem State.wrapPair_vault (s : State) (lo hi n : Nat): (s.wrapPair lo hi n).vault = s.vault := rfl
@[simp] theorem State.wrapPair_flt (s : State) (lo hi n : Nat): (s.wrapPair lo hi n).flt = s.flt := rfl
@[simp] theorem State.wrapPair_layout (s : State) (lo hi n : Nat): (s.wrapPair lo hi n).layout = s.layout := rfl
@[simp] theorem State.wrapPair_flash (s : State) (lo hi n : Nat): (s.wrapPair lo hi n).flash = s.flash := rfl
@[simp] theorem State.wrapPair_fuses (s : State) (lo hi n : Nat): (s.wrapPair lo hi n).fuses = s.fuses := rfl
@[simp] theorem State.wrapPair_qos (s : State) (lo hi n : Nat): (s.wrapPair lo hi n).qos = s.qos := rfl
@[simp] theorem State.wrapPair_noc (s : State) (lo hi n : Nat): (s.wrapPair lo hi n).noc = s.noc := rfl
@[simp] theorem State.wrapPair_nme (s : State) (lo hi n : Nat): (s.wrapPair lo hi n).nme = s.nme := rfl
@[simp] theorem State.wrapPair_dram (s : State) (lo hi n : Nat): (s.wrapPair lo hi n).dram = s.dram := rfl
@[simp] theorem State.wrapPair_pwr (s : State) (lo hi n : Nat): (s.wrapPair lo hi n).pwr = s.pwr := rfl
@[simp] theorem State.wrapPair_sup (s : State) (lo hi n : Nat): (s.wrapPair lo hi n).sup = s.sup := rfl
@[simp] theorem State.wrapPair_clocks (s : State) (lo hi n : Nat): (s.wrapPair lo hi n).clocks = s.clocks := rfl
@[simp] theorem State.wrapPair_rst (s : State) (lo hi n : Nat): (s.wrapPair lo hi n).rst = s.rst := rfl
@[simp] theorem State.wrapPair_pmu (s : State) (lo hi n : Nat): (s.wrapPair lo hi n).pmu = s.pmu := rfl
@[simp] theorem State.wrapPair_mgmt (s : State) (lo hi n : Nat): (s.wrapPair lo hi n).mgmt = s.mgmt := rfl
@[simp] theorem State.wrapPair_pending (s : State) (lo hi n : Nat): (s.wrapPair lo hi n).pending = s.pending := rfl

/-! `State.setTime` -/
@[simp] theorem State.setTime_clk (s : State) (t : Nat): (s.setTime t).clk = s.clk := rfl
@[simp] theorem State.setTime_free (s : State) (t : Nat): (s.setTime t).free = s.free := rfl
@[simp] theorem State.setTime_nextId (s : State) (t : Nat): (s.setTime t).nextId = s.nextId := rfl
@[simp] theorem State.setTime_paths (s : State) (t : Nat): (s.setTime t).paths = s.paths := rfl
@[simp] theorem State.setTime_flight (s : State) (t : Nat): (s.setTime t).flight = s.flight := rfl
@[simp] theorem State.setTime_replies (s : State) (t : Nat): (s.setTime t).replies = s.replies := rfl
@[simp] theorem State.setTime_out (s : State) (t : Nat): (s.setTime t).out = s.out := rfl
@[simp] theorem State.setTime_heads (s : State) (t : Nat): (s.setTime t).heads = s.heads := rfl
@[simp] theorem State.setTime_lds (s : State) (t : Nat): (s.setTime t).lds = s.lds := rfl
@[simp] theorem State.setTime_slices (s : State) (t : Nat): (s.setTime t).slices = s.slices := rfl
@[simp] theorem State.setTime_takeovers (s : State) (t : Nat): (s.setTime t).takeovers = s.takeovers := rfl
@[simp] theorem State.setTime_dbLost (s : State) (t : Nat): (s.setTime t).dbLost = s.dbLost := rfl
@[simp] theorem State.setTime_teardown (s : State) (t : Nat): (s.setTime t).teardown = s.teardown := rfl
@[simp] theorem State.setTime_hot (s : State) (t : Nat): (s.setTime t).hot = s.hot := rfl
@[simp] theorem State.setTime_cold (s : State) (t : Nat): (s.setTime t).cold = s.cold := rfl
@[simp] theorem State.setTime_vault (s : State) (t : Nat): (s.setTime t).vault = s.vault := rfl
@[simp] theorem State.setTime_flt (s : State) (t : Nat): (s.setTime t).flt = s.flt := rfl
@[simp] theorem State.setTime_layout (s : State) (t : Nat): (s.setTime t).layout = s.layout := rfl
@[simp] theorem State.setTime_flash (s : State) (t : Nat): (s.setTime t).flash = s.flash := rfl
@[simp] theorem State.setTime_fuses (s : State) (t : Nat): (s.setTime t).fuses = s.fuses := rfl
@[simp] theorem State.setTime_qos (s : State) (t : Nat): (s.setTime t).qos = s.qos := rfl
@[simp] theorem State.setTime_noc (s : State) (t : Nat): (s.setTime t).noc = s.noc := rfl
@[simp] theorem State.setTime_nme (s : State) (t : Nat): (s.setTime t).nme = s.nme := rfl
@[simp] theorem State.setTime_dram (s : State) (t : Nat): (s.setTime t).dram = s.dram := rfl
@[simp] theorem State.setTime_pwr (s : State) (t : Nat): (s.setTime t).pwr = s.pwr := rfl
@[simp] theorem State.setTime_sup (s : State) (t : Nat): (s.setTime t).sup = s.sup := rfl
@[simp] theorem State.setTime_clocks (s : State) (t : Nat): (s.setTime t).clocks = s.clocks := rfl
@[simp] theorem State.setTime_rst (s : State) (t : Nat): (s.setTime t).rst = s.rst := rfl
@[simp] theorem State.setTime_pmu (s : State) (t : Nat): (s.setTime t).pmu = s.pmu := rfl
@[simp] theorem State.setTime_mgmt (s : State) (t : Nat): (s.setTime t).mgmt = s.mgmt := rfl
@[simp] theorem State.setTime_pending (s : State) (t : Nat): (s.setTime t).pending = s.pending := rfl

/-! `State.spent` -/
@[simp] theorem State.spent_clk (s : State) : (s.spent).clk = s.clk := rfl
@[simp] theorem State.spent_nextId (s : State) : (s.spent).nextId = s.nextId := rfl
@[simp] theorem State.spent_regs (s : State) : (s.spent).regs = s.regs := rfl
@[simp] theorem State.spent_paths (s : State) : (s.spent).paths = s.paths := rfl
@[simp] theorem State.spent_flight (s : State) : (s.spent).flight = s.flight := rfl
@[simp] theorem State.spent_replies (s : State) : (s.spent).replies = s.replies := rfl
@[simp] theorem State.spent_out (s : State) : (s.spent).out = s.out := rfl
@[simp] theorem State.spent_heads (s : State) : (s.spent).heads = s.heads := rfl
@[simp] theorem State.spent_lds (s : State) : (s.spent).lds = s.lds := rfl
@[simp] theorem State.spent_slices (s : State) : (s.spent).slices = s.slices := rfl
@[simp] theorem State.spent_takeovers (s : State) : (s.spent).takeovers = s.takeovers := rfl
@[simp] theorem State.spent_dbLost (s : State) : (s.spent).dbLost = s.dbLost := rfl
@[simp] theorem State.spent_teardown (s : State) : (s.spent).teardown = s.teardown := rfl
@[simp] theorem State.spent_hot (s : State) : (s.spent).hot = s.hot := rfl
@[simp] theorem State.spent_cold (s : State) : (s.spent).cold = s.cold := rfl
@[simp] theorem State.spent_vault (s : State) : (s.spent).vault = s.vault := rfl
@[simp] theorem State.spent_flt (s : State) : (s.spent).flt = s.flt := rfl
@[simp] theorem State.spent_layout (s : State) : (s.spent).layout = s.layout := rfl
@[simp] theorem State.spent_flash (s : State) : (s.spent).flash = s.flash := rfl
@[simp] theorem State.spent_fuses (s : State) : (s.spent).fuses = s.fuses := rfl
@[simp] theorem State.spent_qos (s : State) : (s.spent).qos = s.qos := rfl
@[simp] theorem State.spent_noc (s : State) : (s.spent).noc = s.noc := rfl
@[simp] theorem State.spent_nme (s : State) : (s.spent).nme = s.nme := rfl
@[simp] theorem State.spent_dram (s : State) : (s.spent).dram = s.dram := rfl
@[simp] theorem State.spent_pwr (s : State) : (s.spent).pwr = s.pwr := rfl
@[simp] theorem State.spent_sup (s : State) : (s.spent).sup = s.sup := rfl
@[simp] theorem State.spent_clocks (s : State) : (s.spent).clocks = s.clocks := rfl
@[simp] theorem State.spent_rst (s : State) : (s.spent).rst = s.rst := rfl
@[simp] theorem State.spent_pmu (s : State) : (s.spent).pmu = s.pmu := rfl
@[simp] theorem State.spent_mgmt (s : State) : (s.spent).mgmt = s.mgmt := rfl
@[simp] theorem State.spent_pending (s : State) : (s.spent).pending = s.pending := rfl
@[simp] theorem State.spent_reg (s : State)  (at_ : Nat) : (s.spent ).reg at_ = s.reg at_ := rfl
@[simp] theorem State.spent_fld (s : State)  (g : Reg.FRef) : (s.spent ).fld g = s.fld g := rfl
@[simp] theorem State.spent_on (s : State)  (g : Reg.FRef) : (s.spent ).on g = s.on g := rfl

/-! `State.emit` -/
@[simp] theorem State.emit_clk (s : State) (o : Out): (s.emit o).clk = s.clk := rfl
@[simp] theorem State.emit_free (s : State) (o : Out): (s.emit o).free = s.free := rfl
@[simp] theorem State.emit_nextId (s : State) (o : Out): (s.emit o).nextId = s.nextId := rfl
@[simp] theorem State.emit_regs (s : State) (o : Out): (s.emit o).regs = s.regs := rfl
@[simp] theorem State.emit_paths (s : State) (o : Out): (s.emit o).paths = s.paths := rfl
@[simp] theorem State.emit_flight (s : State) (o : Out): (s.emit o).flight = s.flight := rfl
@[simp] theorem State.emit_replies (s : State) (o : Out): (s.emit o).replies = s.replies := rfl
@[simp] theorem State.emit_heads (s : State) (o : Out): (s.emit o).heads = s.heads := rfl
@[simp] theorem State.emit_lds (s : State) (o : Out): (s.emit o).lds = s.lds := rfl
@[simp] theorem State.emit_slices (s : State) (o : Out): (s.emit o).slices = s.slices := rfl
@[simp] theorem State.emit_takeovers (s : State) (o : Out): (s.emit o).takeovers = s.takeovers := rfl
@[simp] theorem State.emit_dbLost (s : State) (o : Out): (s.emit o).dbLost = s.dbLost := rfl
@[simp] theorem State.emit_teardown (s : State) (o : Out): (s.emit o).teardown = s.teardown := rfl
@[simp] theorem State.emit_hot (s : State) (o : Out): (s.emit o).hot = s.hot := rfl
@[simp] theorem State.emit_cold (s : State) (o : Out): (s.emit o).cold = s.cold := rfl
@[simp] theorem State.emit_vault (s : State) (o : Out): (s.emit o).vault = s.vault := rfl
@[simp] theorem State.emit_flt (s : State) (o : Out): (s.emit o).flt = s.flt := rfl
@[simp] theorem State.emit_layout (s : State) (o : Out): (s.emit o).layout = s.layout := rfl
@[simp] theorem State.emit_flash (s : State) (o : Out): (s.emit o).flash = s.flash := rfl
@[simp] theorem State.emit_fuses (s : State) (o : Out): (s.emit o).fuses = s.fuses := rfl
@[simp] theorem State.emit_qos (s : State) (o : Out): (s.emit o).qos = s.qos := rfl
@[simp] theorem State.emit_noc (s : State) (o : Out): (s.emit o).noc = s.noc := rfl
@[simp] theorem State.emit_nme (s : State) (o : Out): (s.emit o).nme = s.nme := rfl
@[simp] theorem State.emit_dram (s : State) (o : Out): (s.emit o).dram = s.dram := rfl
@[simp] theorem State.emit_pwr (s : State) (o : Out): (s.emit o).pwr = s.pwr := rfl
@[simp] theorem State.emit_sup (s : State) (o : Out): (s.emit o).sup = s.sup := rfl
@[simp] theorem State.emit_clocks (s : State) (o : Out): (s.emit o).clocks = s.clocks := rfl
@[simp] theorem State.emit_rst (s : State) (o : Out): (s.emit o).rst = s.rst := rfl
@[simp] theorem State.emit_pmu (s : State) (o : Out): (s.emit o).pmu = s.pmu := rfl
@[simp] theorem State.emit_mgmt (s : State) (o : Out): (s.emit o).mgmt = s.mgmt := rfl
@[simp] theorem State.emit_pending (s : State) (o : Out): (s.emit o).pending = s.pending := rfl
@[simp] theorem State.emit_reg (s : State) (o : Out) (at_ : Nat) : (s.emit o).reg at_ = s.reg at_ := rfl
@[simp] theorem State.emit_fld (s : State) (o : Out) (g : Reg.FRef) : (s.emit o).fld g = s.fld g := rfl
@[simp] theorem State.emit_on (s : State) (o : Out) (g : Reg.FRef) : (s.emit o).on g = s.on g := rfl

/-! `State.report` -/
@[simp] theorem State.report_clk (s : State) (src inst : Nat) (info : List Nat): (s.report src inst info).clk = s.clk := rfl
@[simp] theorem State.report_free (s : State) (src inst : Nat) (info : List Nat): (s.report src inst info).free = s.free := rfl
@[simp] theorem State.report_nextId (s : State) (src inst : Nat) (info : List Nat): (s.report src inst info).nextId = s.nextId := rfl
@[simp] theorem State.report_regs (s : State) (src inst : Nat) (info : List Nat): (s.report src inst info).regs = s.regs := rfl
@[simp] theorem State.report_paths (s : State) (src inst : Nat) (info : List Nat): (s.report src inst info).paths = s.paths := rfl
@[simp] theorem State.report_flight (s : State) (src inst : Nat) (info : List Nat): (s.report src inst info).flight = s.flight := rfl
@[simp] theorem State.report_replies (s : State) (src inst : Nat) (info : List Nat): (s.report src inst info).replies = s.replies := rfl
@[simp] theorem State.report_out (s : State) (src inst : Nat) (info : List Nat): (s.report src inst info).out = s.out := rfl
@[simp] theorem State.report_heads (s : State) (src inst : Nat) (info : List Nat): (s.report src inst info).heads = s.heads := rfl
@[simp] theorem State.report_lds (s : State) (src inst : Nat) (info : List Nat): (s.report src inst info).lds = s.lds := rfl
@[simp] theorem State.report_slices (s : State) (src inst : Nat) (info : List Nat): (s.report src inst info).slices = s.slices := rfl
@[simp] theorem State.report_takeovers (s : State) (src inst : Nat) (info : List Nat): (s.report src inst info).takeovers = s.takeovers := rfl
@[simp] theorem State.report_dbLost (s : State) (src inst : Nat) (info : List Nat): (s.report src inst info).dbLost = s.dbLost := rfl
@[simp] theorem State.report_teardown (s : State) (src inst : Nat) (info : List Nat): (s.report src inst info).teardown = s.teardown := rfl
@[simp] theorem State.report_hot (s : State) (src inst : Nat) (info : List Nat): (s.report src inst info).hot = s.hot := rfl
@[simp] theorem State.report_cold (s : State) (src inst : Nat) (info : List Nat): (s.report src inst info).cold = s.cold := rfl
@[simp] theorem State.report_vault (s : State) (src inst : Nat) (info : List Nat): (s.report src inst info).vault = s.vault := rfl
@[simp] theorem State.report_layout (s : State) (src inst : Nat) (info : List Nat): (s.report src inst info).layout = s.layout := rfl
@[simp] theorem State.report_flash (s : State) (src inst : Nat) (info : List Nat): (s.report src inst info).flash = s.flash := rfl
@[simp] theorem State.report_fuses (s : State) (src inst : Nat) (info : List Nat): (s.report src inst info).fuses = s.fuses := rfl
@[simp] theorem State.report_qos (s : State) (src inst : Nat) (info : List Nat): (s.report src inst info).qos = s.qos := rfl
@[simp] theorem State.report_noc (s : State) (src inst : Nat) (info : List Nat): (s.report src inst info).noc = s.noc := rfl
@[simp] theorem State.report_nme (s : State) (src inst : Nat) (info : List Nat): (s.report src inst info).nme = s.nme := rfl
@[simp] theorem State.report_dram (s : State) (src inst : Nat) (info : List Nat): (s.report src inst info).dram = s.dram := rfl
@[simp] theorem State.report_pwr (s : State) (src inst : Nat) (info : List Nat): (s.report src inst info).pwr = s.pwr := rfl
@[simp] theorem State.report_sup (s : State) (src inst : Nat) (info : List Nat): (s.report src inst info).sup = s.sup := rfl
@[simp] theorem State.report_clocks (s : State) (src inst : Nat) (info : List Nat): (s.report src inst info).clocks = s.clocks := rfl
@[simp] theorem State.report_rst (s : State) (src inst : Nat) (info : List Nat): (s.report src inst info).rst = s.rst := rfl
@[simp] theorem State.report_pmu (s : State) (src inst : Nat) (info : List Nat): (s.report src inst info).pmu = s.pmu := rfl
@[simp] theorem State.report_mgmt (s : State) (src inst : Nat) (info : List Nat): (s.report src inst info).mgmt = s.mgmt := rfl
@[simp] theorem State.report_pending (s : State) (src inst : Nat) (info : List Nat): (s.report src inst info).pending = s.pending := rfl
@[simp] theorem State.report_reg (s : State) (src inst : Nat) (info : List Nat) (at_ : Nat) : (s.report src inst info).reg at_ = s.reg at_ := rfl
@[simp] theorem State.report_fld (s : State) (src inst : Nat) (info : List Nat) (g : Reg.FRef) : (s.report src inst info).fld g = s.fld g := rfl
@[simp] theorem State.report_on (s : State) (src inst : Nat) (info : List Nat) (g : Reg.FRef) : (s.report src inst info).on g = s.on g := rfl

/-! `State.reportInj` -/
@[simp] theorem State.reportInj_clk (s : State) (src inst : Nat) (info : List Nat): (s.reportInj src inst info).clk = s.clk := rfl
@[simp] theorem State.reportInj_free (s : State) (src inst : Nat) (info : List Nat): (s.reportInj src inst info).free = s.free := rfl
@[simp] theorem State.reportInj_nextId (s : State) (src inst : Nat) (info : List Nat): (s.reportInj src inst info).nextId = s.nextId := rfl
@[simp] theorem State.reportInj_regs (s : State) (src inst : Nat) (info : List Nat): (s.reportInj src inst info).regs = s.regs := rfl
@[simp] theorem State.reportInj_paths (s : State) (src inst : Nat) (info : List Nat): (s.reportInj src inst info).paths = s.paths := rfl
@[simp] theorem State.reportInj_flight (s : State) (src inst : Nat) (info : List Nat): (s.reportInj src inst info).flight = s.flight := rfl
@[simp] theorem State.reportInj_replies (s : State) (src inst : Nat) (info : List Nat): (s.reportInj src inst info).replies = s.replies := rfl
@[simp] theorem State.reportInj_out (s : State) (src inst : Nat) (info : List Nat): (s.reportInj src inst info).out = s.out := rfl
@[simp] theorem State.reportInj_heads (s : State) (src inst : Nat) (info : List Nat): (s.reportInj src inst info).heads = s.heads := rfl
@[simp] theorem State.reportInj_lds (s : State) (src inst : Nat) (info : List Nat): (s.reportInj src inst info).lds = s.lds := rfl
@[simp] theorem State.reportInj_slices (s : State) (src inst : Nat) (info : List Nat): (s.reportInj src inst info).slices = s.slices := rfl
@[simp] theorem State.reportInj_takeovers (s : State) (src inst : Nat) (info : List Nat): (s.reportInj src inst info).takeovers = s.takeovers := rfl
@[simp] theorem State.reportInj_dbLost (s : State) (src inst : Nat) (info : List Nat): (s.reportInj src inst info).dbLost = s.dbLost := rfl
@[simp] theorem State.reportInj_teardown (s : State) (src inst : Nat) (info : List Nat): (s.reportInj src inst info).teardown = s.teardown := rfl
@[simp] theorem State.reportInj_hot (s : State) (src inst : Nat) (info : List Nat): (s.reportInj src inst info).hot = s.hot := rfl
@[simp] theorem State.reportInj_cold (s : State) (src inst : Nat) (info : List Nat): (s.reportInj src inst info).cold = s.cold := rfl
@[simp] theorem State.reportInj_vault (s : State) (src inst : Nat) (info : List Nat): (s.reportInj src inst info).vault = s.vault := rfl
@[simp] theorem State.reportInj_layout (s : State) (src inst : Nat) (info : List Nat): (s.reportInj src inst info).layout = s.layout := rfl
@[simp] theorem State.reportInj_flash (s : State) (src inst : Nat) (info : List Nat): (s.reportInj src inst info).flash = s.flash := rfl
@[simp] theorem State.reportInj_fuses (s : State) (src inst : Nat) (info : List Nat): (s.reportInj src inst info).fuses = s.fuses := rfl
@[simp] theorem State.reportInj_qos (s : State) (src inst : Nat) (info : List Nat): (s.reportInj src inst info).qos = s.qos := rfl
@[simp] theorem State.reportInj_noc (s : State) (src inst : Nat) (info : List Nat): (s.reportInj src inst info).noc = s.noc := rfl
@[simp] theorem State.reportInj_nme (s : State) (src inst : Nat) (info : List Nat): (s.reportInj src inst info).nme = s.nme := rfl
@[simp] theorem State.reportInj_dram (s : State) (src inst : Nat) (info : List Nat): (s.reportInj src inst info).dram = s.dram := rfl
@[simp] theorem State.reportInj_pwr (s : State) (src inst : Nat) (info : List Nat): (s.reportInj src inst info).pwr = s.pwr := rfl
@[simp] theorem State.reportInj_sup (s : State) (src inst : Nat) (info : List Nat): (s.reportInj src inst info).sup = s.sup := rfl
@[simp] theorem State.reportInj_clocks (s : State) (src inst : Nat) (info : List Nat): (s.reportInj src inst info).clocks = s.clocks := rfl
@[simp] theorem State.reportInj_rst (s : State) (src inst : Nat) (info : List Nat): (s.reportInj src inst info).rst = s.rst := rfl
@[simp] theorem State.reportInj_pmu (s : State) (src inst : Nat) (info : List Nat): (s.reportInj src inst info).pmu = s.pmu := rfl
@[simp] theorem State.reportInj_mgmt (s : State) (src inst : Nat) (info : List Nat): (s.reportInj src inst info).mgmt = s.mgmt := rfl
@[simp] theorem State.reportInj_pending (s : State) (src inst : Nat) (info : List Nat): (s.reportInj src inst info).pending = s.pending := rfl
@[simp] theorem State.reportInj_reg (s : State) (src inst : Nat) (info : List Nat) (at_ : Nat) : (s.reportInj src inst info).reg at_ = s.reg at_ := rfl
@[simp] theorem State.reportInj_fld (s : State) (src inst : Nat) (info : List Nat) (g : Reg.FRef) : (s.reportInj src inst info).fld g = s.fld g := rfl
@[simp] theorem State.reportInj_on (s : State) (src inst : Nat) (info : List Nat) (g : Reg.FRef) : (s.reportInj src inst info).on g = s.on g := rfl

/-! `State.accessFault` -/
@[simp] theorem State.accessFault_clk (s : State) : (s.accessFault).clk = s.clk := rfl
@[simp] theorem State.accessFault_free (s : State) : (s.accessFault).free = s.free := rfl
@[simp] theorem State.accessFault_nextId (s : State) : (s.accessFault).nextId = s.nextId := rfl
@[simp] theorem State.accessFault_regs (s : State) : (s.accessFault).regs = s.regs := rfl
@[simp] theorem State.accessFault_paths (s : State) : (s.accessFault).paths = s.paths := rfl
@[simp] theorem State.accessFault_flight (s : State) : (s.accessFault).flight = s.flight := rfl
@[simp] theorem State.accessFault_replies (s : State) : (s.accessFault).replies = s.replies := rfl
@[simp] theorem State.accessFault_out (s : State) : (s.accessFault).out = s.out := rfl
@[simp] theorem State.accessFault_heads (s : State) : (s.accessFault).heads = s.heads := rfl
@[simp] theorem State.accessFault_lds (s : State) : (s.accessFault).lds = s.lds := rfl
@[simp] theorem State.accessFault_slices (s : State) : (s.accessFault).slices = s.slices := rfl
@[simp] theorem State.accessFault_takeovers (s : State) : (s.accessFault).takeovers = s.takeovers := rfl
@[simp] theorem State.accessFault_dbLost (s : State) : (s.accessFault).dbLost = s.dbLost := rfl
@[simp] theorem State.accessFault_teardown (s : State) : (s.accessFault).teardown = s.teardown := rfl
@[simp] theorem State.accessFault_hot (s : State) : (s.accessFault).hot = s.hot := rfl
@[simp] theorem State.accessFault_cold (s : State) : (s.accessFault).cold = s.cold := rfl
@[simp] theorem State.accessFault_vault (s : State) : (s.accessFault).vault = s.vault := rfl
@[simp] theorem State.accessFault_layout (s : State) : (s.accessFault).layout = s.layout := rfl
@[simp] theorem State.accessFault_flash (s : State) : (s.accessFault).flash = s.flash := rfl
@[simp] theorem State.accessFault_fuses (s : State) : (s.accessFault).fuses = s.fuses := rfl
@[simp] theorem State.accessFault_qos (s : State) : (s.accessFault).qos = s.qos := rfl
@[simp] theorem State.accessFault_noc (s : State) : (s.accessFault).noc = s.noc := rfl
@[simp] theorem State.accessFault_nme (s : State) : (s.accessFault).nme = s.nme := rfl
@[simp] theorem State.accessFault_dram (s : State) : (s.accessFault).dram = s.dram := rfl
@[simp] theorem State.accessFault_pwr (s : State) : (s.accessFault).pwr = s.pwr := rfl
@[simp] theorem State.accessFault_sup (s : State) : (s.accessFault).sup = s.sup := rfl
@[simp] theorem State.accessFault_clocks (s : State) : (s.accessFault).clocks = s.clocks := rfl
@[simp] theorem State.accessFault_rst (s : State) : (s.accessFault).rst = s.rst := rfl
@[simp] theorem State.accessFault_pmu (s : State) : (s.accessFault).pmu = s.pmu := rfl
@[simp] theorem State.accessFault_mgmt (s : State) : (s.accessFault).mgmt = s.mgmt := rfl
@[simp] theorem State.accessFault_pending (s : State) : (s.accessFault).pending = s.pending := rfl
@[simp] theorem State.accessFault_reg (s : State)  (at_ : Nat) : (s.accessFault ).reg at_ = s.reg at_ := rfl
@[simp] theorem State.accessFault_fld (s : State)  (g : Reg.FRef) : (s.accessFault ).fld g = s.fld g := rfl
@[simp] theorem State.accessFault_on (s : State)  (g : Reg.FRef) : (s.accessFault ).on g = s.on g := rfl

/-! `State.onPwr` -/
@[simp] theorem State.onPwr_clk (s : State) (f : Power → Power): (s.onPwr f).clk = s.clk := rfl
@[simp] theorem State.onPwr_free (s : State) (f : Power → Power): (s.onPwr f).free = s.free := rfl
@[simp] theorem State.onPwr_nextId (s : State) (f : Power → Power): (s.onPwr f).nextId = s.nextId := rfl
@[simp] theorem State.onPwr_regs (s : State) (f : Power → Power): (s.onPwr f).regs = s.regs := rfl
@[simp] theorem State.onPwr_paths (s : State) (f : Power → Power): (s.onPwr f).paths = s.paths := rfl
@[simp] theorem State.onPwr_flight (s : State) (f : Power → Power): (s.onPwr f).flight = s.flight := rfl
@[simp] theorem State.onPwr_replies (s : State) (f : Power → Power): (s.onPwr f).replies = s.replies := rfl
@[simp] theorem State.onPwr_out (s : State) (f : Power → Power): (s.onPwr f).out = s.out := rfl
@[simp] theorem State.onPwr_heads (s : State) (f : Power → Power): (s.onPwr f).heads = s.heads := rfl
@[simp] theorem State.onPwr_lds (s : State) (f : Power → Power): (s.onPwr f).lds = s.lds := rfl
@[simp] theorem State.onPwr_slices (s : State) (f : Power → Power): (s.onPwr f).slices = s.slices := rfl
@[simp] theorem State.onPwr_takeovers (s : State) (f : Power → Power): (s.onPwr f).takeovers = s.takeovers := rfl
@[simp] theorem State.onPwr_dbLost (s : State) (f : Power → Power): (s.onPwr f).dbLost = s.dbLost := rfl
@[simp] theorem State.onPwr_teardown (s : State) (f : Power → Power): (s.onPwr f).teardown = s.teardown := rfl
@[simp] theorem State.onPwr_hot (s : State) (f : Power → Power): (s.onPwr f).hot = s.hot := rfl
@[simp] theorem State.onPwr_cold (s : State) (f : Power → Power): (s.onPwr f).cold = s.cold := rfl
@[simp] theorem State.onPwr_vault (s : State) (f : Power → Power): (s.onPwr f).vault = s.vault := rfl
@[simp] theorem State.onPwr_flt (s : State) (f : Power → Power): (s.onPwr f).flt = s.flt := rfl
@[simp] theorem State.onPwr_layout (s : State) (f : Power → Power): (s.onPwr f).layout = s.layout := rfl
@[simp] theorem State.onPwr_flash (s : State) (f : Power → Power): (s.onPwr f).flash = s.flash := rfl
@[simp] theorem State.onPwr_fuses (s : State) (f : Power → Power): (s.onPwr f).fuses = s.fuses := rfl
@[simp] theorem State.onPwr_qos (s : State) (f : Power → Power): (s.onPwr f).qos = s.qos := rfl
@[simp] theorem State.onPwr_noc (s : State) (f : Power → Power): (s.onPwr f).noc = s.noc := rfl
@[simp] theorem State.onPwr_nme (s : State) (f : Power → Power): (s.onPwr f).nme = s.nme := rfl
@[simp] theorem State.onPwr_dram (s : State) (f : Power → Power): (s.onPwr f).dram = s.dram := rfl
@[simp] theorem State.onPwr_sup (s : State) (f : Power → Power): (s.onPwr f).sup = s.sup := rfl
@[simp] theorem State.onPwr_clocks (s : State) (f : Power → Power): (s.onPwr f).clocks = s.clocks := rfl
@[simp] theorem State.onPwr_rst (s : State) (f : Power → Power): (s.onPwr f).rst = s.rst := rfl
@[simp] theorem State.onPwr_pmu (s : State) (f : Power → Power): (s.onPwr f).pmu = s.pmu := rfl
@[simp] theorem State.onPwr_mgmt (s : State) (f : Power → Power): (s.onPwr f).mgmt = s.mgmt := rfl
@[simp] theorem State.onPwr_pending (s : State) (f : Power → Power): (s.onPwr f).pending = s.pending := rfl
@[simp] theorem State.onPwr_reg (s : State) (f : Power → Power) (at_ : Nat) : (s.onPwr f).reg at_ = s.reg at_ := rfl
@[simp] theorem State.onPwr_fld (s : State) (f : Power → Power) (g : Reg.FRef) : (s.onPwr f).fld g = s.fld g := rfl
@[simp] theorem State.onPwr_on (s : State) (f : Power → Power) (g : Reg.FRef) : (s.onPwr f).on g = s.on g := rfl

/-! `State.onSup` -/
@[simp] theorem State.onSup_clk (s : State) (f : Supply → Supply): (s.onSup f).clk = s.clk := rfl
@[simp] theorem State.onSup_free (s : State) (f : Supply → Supply): (s.onSup f).free = s.free := rfl
@[simp] theorem State.onSup_nextId (s : State) (f : Supply → Supply): (s.onSup f).nextId = s.nextId := rfl
@[simp] theorem State.onSup_regs (s : State) (f : Supply → Supply): (s.onSup f).regs = s.regs := rfl
@[simp] theorem State.onSup_paths (s : State) (f : Supply → Supply): (s.onSup f).paths = s.paths := rfl
@[simp] theorem State.onSup_flight (s : State) (f : Supply → Supply): (s.onSup f).flight = s.flight := rfl
@[simp] theorem State.onSup_replies (s : State) (f : Supply → Supply): (s.onSup f).replies = s.replies := rfl
@[simp] theorem State.onSup_out (s : State) (f : Supply → Supply): (s.onSup f).out = s.out := rfl
@[simp] theorem State.onSup_heads (s : State) (f : Supply → Supply): (s.onSup f).heads = s.heads := rfl
@[simp] theorem State.onSup_lds (s : State) (f : Supply → Supply): (s.onSup f).lds = s.lds := rfl
@[simp] theorem State.onSup_slices (s : State) (f : Supply → Supply): (s.onSup f).slices = s.slices := rfl
@[simp] theorem State.onSup_takeovers (s : State) (f : Supply → Supply): (s.onSup f).takeovers = s.takeovers := rfl
@[simp] theorem State.onSup_dbLost (s : State) (f : Supply → Supply): (s.onSup f).dbLost = s.dbLost := rfl
@[simp] theorem State.onSup_teardown (s : State) (f : Supply → Supply): (s.onSup f).teardown = s.teardown := rfl
@[simp] theorem State.onSup_hot (s : State) (f : Supply → Supply): (s.onSup f).hot = s.hot := rfl
@[simp] theorem State.onSup_cold (s : State) (f : Supply → Supply): (s.onSup f).cold = s.cold := rfl
@[simp] theorem State.onSup_vault (s : State) (f : Supply → Supply): (s.onSup f).vault = s.vault := rfl
@[simp] theorem State.onSup_flt (s : State) (f : Supply → Supply): (s.onSup f).flt = s.flt := rfl
@[simp] theorem State.onSup_layout (s : State) (f : Supply → Supply): (s.onSup f).layout = s.layout := rfl
@[simp] theorem State.onSup_flash (s : State) (f : Supply → Supply): (s.onSup f).flash = s.flash := rfl
@[simp] theorem State.onSup_fuses (s : State) (f : Supply → Supply): (s.onSup f).fuses = s.fuses := rfl
@[simp] theorem State.onSup_qos (s : State) (f : Supply → Supply): (s.onSup f).qos = s.qos := rfl
@[simp] theorem State.onSup_noc (s : State) (f : Supply → Supply): (s.onSup f).noc = s.noc := rfl
@[simp] theorem State.onSup_nme (s : State) (f : Supply → Supply): (s.onSup f).nme = s.nme := rfl
@[simp] theorem State.onSup_dram (s : State) (f : Supply → Supply): (s.onSup f).dram = s.dram := rfl
@[simp] theorem State.onSup_pwr (s : State) (f : Supply → Supply): (s.onSup f).pwr = s.pwr := rfl
@[simp] theorem State.onSup_clocks (s : State) (f : Supply → Supply): (s.onSup f).clocks = s.clocks := rfl
@[simp] theorem State.onSup_rst (s : State) (f : Supply → Supply): (s.onSup f).rst = s.rst := rfl
@[simp] theorem State.onSup_pmu (s : State) (f : Supply → Supply): (s.onSup f).pmu = s.pmu := rfl
@[simp] theorem State.onSup_mgmt (s : State) (f : Supply → Supply): (s.onSup f).mgmt = s.mgmt := rfl
@[simp] theorem State.onSup_pending (s : State) (f : Supply → Supply): (s.onSup f).pending = s.pending := rfl
@[simp] theorem State.onSup_reg (s : State) (f : Supply → Supply) (at_ : Nat) : (s.onSup f).reg at_ = s.reg at_ := rfl
@[simp] theorem State.onSup_fld (s : State) (f : Supply → Supply) (g : Reg.FRef) : (s.onSup f).fld g = s.fld g := rfl
@[simp] theorem State.onSup_on (s : State) (f : Supply → Supply) (g : Reg.FRef) : (s.onSup f).on g = s.on g := rfl

/-! `State.onRst` -/
@[simp] theorem State.onRst_clk (s : State) (f : Resets → Resets): (s.onRst f).clk = s.clk := rfl
@[simp] theorem State.onRst_free (s : State) (f : Resets → Resets): (s.onRst f).free = s.free := rfl
@[simp] theorem State.onRst_nextId (s : State) (f : Resets → Resets): (s.onRst f).nextId = s.nextId := rfl
@[simp] theorem State.onRst_regs (s : State) (f : Resets → Resets): (s.onRst f).regs = s.regs := rfl
@[simp] theorem State.onRst_paths (s : State) (f : Resets → Resets): (s.onRst f).paths = s.paths := rfl
@[simp] theorem State.onRst_flight (s : State) (f : Resets → Resets): (s.onRst f).flight = s.flight := rfl
@[simp] theorem State.onRst_replies (s : State) (f : Resets → Resets): (s.onRst f).replies = s.replies := rfl
@[simp] theorem State.onRst_out (s : State) (f : Resets → Resets): (s.onRst f).out = s.out := rfl
@[simp] theorem State.onRst_heads (s : State) (f : Resets → Resets): (s.onRst f).heads = s.heads := rfl
@[simp] theorem State.onRst_lds (s : State) (f : Resets → Resets): (s.onRst f).lds = s.lds := rfl
@[simp] theorem State.onRst_slices (s : State) (f : Resets → Resets): (s.onRst f).slices = s.slices := rfl
@[simp] theorem State.onRst_takeovers (s : State) (f : Resets → Resets): (s.onRst f).takeovers = s.takeovers := rfl
@[simp] theorem State.onRst_dbLost (s : State) (f : Resets → Resets): (s.onRst f).dbLost = s.dbLost := rfl
@[simp] theorem State.onRst_teardown (s : State) (f : Resets → Resets): (s.onRst f).teardown = s.teardown := rfl
@[simp] theorem State.onRst_hot (s : State) (f : Resets → Resets): (s.onRst f).hot = s.hot := rfl
@[simp] theorem State.onRst_cold (s : State) (f : Resets → Resets): (s.onRst f).cold = s.cold := rfl
@[simp] theorem State.onRst_vault (s : State) (f : Resets → Resets): (s.onRst f).vault = s.vault := rfl
@[simp] theorem State.onRst_flt (s : State) (f : Resets → Resets): (s.onRst f).flt = s.flt := rfl
@[simp] theorem State.onRst_layout (s : State) (f : Resets → Resets): (s.onRst f).layout = s.layout := rfl
@[simp] theorem State.onRst_flash (s : State) (f : Resets → Resets): (s.onRst f).flash = s.flash := rfl
@[simp] theorem State.onRst_fuses (s : State) (f : Resets → Resets): (s.onRst f).fuses = s.fuses := rfl
@[simp] theorem State.onRst_qos (s : State) (f : Resets → Resets): (s.onRst f).qos = s.qos := rfl
@[simp] theorem State.onRst_noc (s : State) (f : Resets → Resets): (s.onRst f).noc = s.noc := rfl
@[simp] theorem State.onRst_nme (s : State) (f : Resets → Resets): (s.onRst f).nme = s.nme := rfl
@[simp] theorem State.onRst_dram (s : State) (f : Resets → Resets): (s.onRst f).dram = s.dram := rfl
@[simp] theorem State.onRst_pwr (s : State) (f : Resets → Resets): (s.onRst f).pwr = s.pwr := rfl
@[simp] theorem State.onRst_sup (s : State) (f : Resets → Resets): (s.onRst f).sup = s.sup := rfl
@[simp] theorem State.onRst_clocks (s : State) (f : Resets → Resets): (s.onRst f).clocks = s.clocks := rfl
@[simp] theorem State.onRst_pmu (s : State) (f : Resets → Resets): (s.onRst f).pmu = s.pmu := rfl
@[simp] theorem State.onRst_mgmt (s : State) (f : Resets → Resets): (s.onRst f).mgmt = s.mgmt := rfl
@[simp] theorem State.onRst_pending (s : State) (f : Resets → Resets): (s.onRst f).pending = s.pending := rfl
@[simp] theorem State.onRst_reg (s : State) (f : Resets → Resets) (at_ : Nat) : (s.onRst f).reg at_ = s.reg at_ := rfl
@[simp] theorem State.onRst_fld (s : State) (f : Resets → Resets) (g : Reg.FRef) : (s.onRst f).fld g = s.fld g := rfl
@[simp] theorem State.onRst_on (s : State) (f : Resets → Resets) (g : Reg.FRef) : (s.onRst f).on g = s.on g := rfl

/-! `State.onClocks` -/
@[simp] theorem State.onClocks_clk (s : State) (f : Clocks → Clocks): (s.onClocks f).clk = s.clk := rfl
@[simp] theorem State.onClocks_free (s : State) (f : Clocks → Clocks): (s.onClocks f).free = s.free := rfl
@[simp] theorem State.onClocks_nextId (s : State) (f : Clocks → Clocks): (s.onClocks f).nextId = s.nextId := rfl
@[simp] theorem State.onClocks_regs (s : State) (f : Clocks → Clocks): (s.onClocks f).regs = s.regs := rfl
@[simp] theorem State.onClocks_paths (s : State) (f : Clocks → Clocks): (s.onClocks f).paths = s.paths := rfl
@[simp] theorem State.onClocks_flight (s : State) (f : Clocks → Clocks): (s.onClocks f).flight = s.flight := rfl
@[simp] theorem State.onClocks_replies (s : State) (f : Clocks → Clocks): (s.onClocks f).replies = s.replies := rfl
@[simp] theorem State.onClocks_out (s : State) (f : Clocks → Clocks): (s.onClocks f).out = s.out := rfl
@[simp] theorem State.onClocks_heads (s : State) (f : Clocks → Clocks): (s.onClocks f).heads = s.heads := rfl
@[simp] theorem State.onClocks_lds (s : State) (f : Clocks → Clocks): (s.onClocks f).lds = s.lds := rfl
@[simp] theorem State.onClocks_slices (s : State) (f : Clocks → Clocks): (s.onClocks f).slices = s.slices := rfl
@[simp] theorem State.onClocks_takeovers (s : State) (f : Clocks → Clocks): (s.onClocks f).takeovers = s.takeovers := rfl
@[simp] theorem State.onClocks_dbLost (s : State) (f : Clocks → Clocks): (s.onClocks f).dbLost = s.dbLost := rfl
@[simp] theorem State.onClocks_teardown (s : State) (f : Clocks → Clocks): (s.onClocks f).teardown = s.teardown := rfl
@[simp] theorem State.onClocks_hot (s : State) (f : Clocks → Clocks): (s.onClocks f).hot = s.hot := rfl
@[simp] theorem State.onClocks_cold (s : State) (f : Clocks → Clocks): (s.onClocks f).cold = s.cold := rfl
@[simp] theorem State.onClocks_vault (s : State) (f : Clocks → Clocks): (s.onClocks f).vault = s.vault := rfl
@[simp] theorem State.onClocks_flt (s : State) (f : Clocks → Clocks): (s.onClocks f).flt = s.flt := rfl
@[simp] theorem State.onClocks_layout (s : State) (f : Clocks → Clocks): (s.onClocks f).layout = s.layout := rfl
@[simp] theorem State.onClocks_flash (s : State) (f : Clocks → Clocks): (s.onClocks f).flash = s.flash := rfl
@[simp] theorem State.onClocks_fuses (s : State) (f : Clocks → Clocks): (s.onClocks f).fuses = s.fuses := rfl
@[simp] theorem State.onClocks_qos (s : State) (f : Clocks → Clocks): (s.onClocks f).qos = s.qos := rfl
@[simp] theorem State.onClocks_noc (s : State) (f : Clocks → Clocks): (s.onClocks f).noc = s.noc := rfl
@[simp] theorem State.onClocks_nme (s : State) (f : Clocks → Clocks): (s.onClocks f).nme = s.nme := rfl
@[simp] theorem State.onClocks_dram (s : State) (f : Clocks → Clocks): (s.onClocks f).dram = s.dram := rfl
@[simp] theorem State.onClocks_pwr (s : State) (f : Clocks → Clocks): (s.onClocks f).pwr = s.pwr := rfl
@[simp] theorem State.onClocks_sup (s : State) (f : Clocks → Clocks): (s.onClocks f).sup = s.sup := rfl
@[simp] theorem State.onClocks_rst (s : State) (f : Clocks → Clocks): (s.onClocks f).rst = s.rst := rfl
@[simp] theorem State.onClocks_pmu (s : State) (f : Clocks → Clocks): (s.onClocks f).pmu = s.pmu := rfl
@[simp] theorem State.onClocks_mgmt (s : State) (f : Clocks → Clocks): (s.onClocks f).mgmt = s.mgmt := rfl
@[simp] theorem State.onClocks_pending (s : State) (f : Clocks → Clocks): (s.onClocks f).pending = s.pending := rfl
@[simp] theorem State.onClocks_reg (s : State) (f : Clocks → Clocks) (at_ : Nat) : (s.onClocks f).reg at_ = s.reg at_ := rfl
@[simp] theorem State.onClocks_fld (s : State) (f : Clocks → Clocks) (g : Reg.FRef) : (s.onClocks f).fld g = s.fld g := rfl
@[simp] theorem State.onClocks_on (s : State) (f : Clocks → Clocks) (g : Reg.FRef) : (s.onClocks f).on g = s.on g := rfl

/-! `State.onMgmt` -/
@[simp] theorem State.onMgmt_clk (s : State) (f : Mgmt → Mgmt): (s.onMgmt f).clk = s.clk := rfl
@[simp] theorem State.onMgmt_free (s : State) (f : Mgmt → Mgmt): (s.onMgmt f).free = s.free := rfl
@[simp] theorem State.onMgmt_nextId (s : State) (f : Mgmt → Mgmt): (s.onMgmt f).nextId = s.nextId := rfl
@[simp] theorem State.onMgmt_regs (s : State) (f : Mgmt → Mgmt): (s.onMgmt f).regs = s.regs := rfl
@[simp] theorem State.onMgmt_paths (s : State) (f : Mgmt → Mgmt): (s.onMgmt f).paths = s.paths := rfl
@[simp] theorem State.onMgmt_flight (s : State) (f : Mgmt → Mgmt): (s.onMgmt f).flight = s.flight := rfl
@[simp] theorem State.onMgmt_replies (s : State) (f : Mgmt → Mgmt): (s.onMgmt f).replies = s.replies := rfl
@[simp] theorem State.onMgmt_out (s : State) (f : Mgmt → Mgmt): (s.onMgmt f).out = s.out := rfl
@[simp] theorem State.onMgmt_heads (s : State) (f : Mgmt → Mgmt): (s.onMgmt f).heads = s.heads := rfl
@[simp] theorem State.onMgmt_lds (s : State) (f : Mgmt → Mgmt): (s.onMgmt f).lds = s.lds := rfl
@[simp] theorem State.onMgmt_slices (s : State) (f : Mgmt → Mgmt): (s.onMgmt f).slices = s.slices := rfl
@[simp] theorem State.onMgmt_takeovers (s : State) (f : Mgmt → Mgmt): (s.onMgmt f).takeovers = s.takeovers := rfl
@[simp] theorem State.onMgmt_dbLost (s : State) (f : Mgmt → Mgmt): (s.onMgmt f).dbLost = s.dbLost := rfl
@[simp] theorem State.onMgmt_teardown (s : State) (f : Mgmt → Mgmt): (s.onMgmt f).teardown = s.teardown := rfl
@[simp] theorem State.onMgmt_hot (s : State) (f : Mgmt → Mgmt): (s.onMgmt f).hot = s.hot := rfl
@[simp] theorem State.onMgmt_cold (s : State) (f : Mgmt → Mgmt): (s.onMgmt f).cold = s.cold := rfl
@[simp] theorem State.onMgmt_vault (s : State) (f : Mgmt → Mgmt): (s.onMgmt f).vault = s.vault := rfl
@[simp] theorem State.onMgmt_flt (s : State) (f : Mgmt → Mgmt): (s.onMgmt f).flt = s.flt := rfl
@[simp] theorem State.onMgmt_layout (s : State) (f : Mgmt → Mgmt): (s.onMgmt f).layout = s.layout := rfl
@[simp] theorem State.onMgmt_flash (s : State) (f : Mgmt → Mgmt): (s.onMgmt f).flash = s.flash := rfl
@[simp] theorem State.onMgmt_fuses (s : State) (f : Mgmt → Mgmt): (s.onMgmt f).fuses = s.fuses := rfl
@[simp] theorem State.onMgmt_qos (s : State) (f : Mgmt → Mgmt): (s.onMgmt f).qos = s.qos := rfl
@[simp] theorem State.onMgmt_noc (s : State) (f : Mgmt → Mgmt): (s.onMgmt f).noc = s.noc := rfl
@[simp] theorem State.onMgmt_nme (s : State) (f : Mgmt → Mgmt): (s.onMgmt f).nme = s.nme := rfl
@[simp] theorem State.onMgmt_dram (s : State) (f : Mgmt → Mgmt): (s.onMgmt f).dram = s.dram := rfl
@[simp] theorem State.onMgmt_pwr (s : State) (f : Mgmt → Mgmt): (s.onMgmt f).pwr = s.pwr := rfl
@[simp] theorem State.onMgmt_sup (s : State) (f : Mgmt → Mgmt): (s.onMgmt f).sup = s.sup := rfl
@[simp] theorem State.onMgmt_clocks (s : State) (f : Mgmt → Mgmt): (s.onMgmt f).clocks = s.clocks := rfl
@[simp] theorem State.onMgmt_rst (s : State) (f : Mgmt → Mgmt): (s.onMgmt f).rst = s.rst := rfl
@[simp] theorem State.onMgmt_pmu (s : State) (f : Mgmt → Mgmt): (s.onMgmt f).pmu = s.pmu := rfl
@[simp] theorem State.onMgmt_pending (s : State) (f : Mgmt → Mgmt): (s.onMgmt f).pending = s.pending := rfl
@[simp] theorem State.onMgmt_reg (s : State) (f : Mgmt → Mgmt) (at_ : Nat) : (s.onMgmt f).reg at_ = s.reg at_ := rfl
@[simp] theorem State.onMgmt_fld (s : State) (f : Mgmt → Mgmt) (g : Reg.FRef) : (s.onMgmt f).fld g = s.fld g := rfl
@[simp] theorem State.onMgmt_on (s : State) (f : Mgmt → Mgmt) (g : Reg.FRef) : (s.onMgmt f).on g = s.on g := rfl

/-! `State.onFlt` -/
@[simp] theorem State.onFlt_clk (s : State) (f : Collector → Collector): (s.onFlt f).clk = s.clk := rfl
@[simp] theorem State.onFlt_free (s : State) (f : Collector → Collector): (s.onFlt f).free = s.free := rfl
@[simp] theorem State.onFlt_nextId (s : State) (f : Collector → Collector): (s.onFlt f).nextId = s.nextId := rfl
@[simp] theorem State.onFlt_regs (s : State) (f : Collector → Collector): (s.onFlt f).regs = s.regs := rfl
@[simp] theorem State.onFlt_paths (s : State) (f : Collector → Collector): (s.onFlt f).paths = s.paths := rfl
@[simp] theorem State.onFlt_flight (s : State) (f : Collector → Collector): (s.onFlt f).flight = s.flight := rfl
@[simp] theorem State.onFlt_replies (s : State) (f : Collector → Collector): (s.onFlt f).replies = s.replies := rfl
@[simp] theorem State.onFlt_out (s : State) (f : Collector → Collector): (s.onFlt f).out = s.out := rfl
@[simp] theorem State.onFlt_heads (s : State) (f : Collector → Collector): (s.onFlt f).heads = s.heads := rfl
@[simp] theorem State.onFlt_lds (s : State) (f : Collector → Collector): (s.onFlt f).lds = s.lds := rfl
@[simp] theorem State.onFlt_slices (s : State) (f : Collector → Collector): (s.onFlt f).slices = s.slices := rfl
@[simp] theorem State.onFlt_takeovers (s : State) (f : Collector → Collector): (s.onFlt f).takeovers = s.takeovers := rfl
@[simp] theorem State.onFlt_dbLost (s : State) (f : Collector → Collector): (s.onFlt f).dbLost = s.dbLost := rfl
@[simp] theorem State.onFlt_teardown (s : State) (f : Collector → Collector): (s.onFlt f).teardown = s.teardown := rfl
@[simp] theorem State.onFlt_hot (s : State) (f : Collector → Collector): (s.onFlt f).hot = s.hot := rfl
@[simp] theorem State.onFlt_cold (s : State) (f : Collector → Collector): (s.onFlt f).cold = s.cold := rfl
@[simp] theorem State.onFlt_vault (s : State) (f : Collector → Collector): (s.onFlt f).vault = s.vault := rfl
@[simp] theorem State.onFlt_layout (s : State) (f : Collector → Collector): (s.onFlt f).layout = s.layout := rfl
@[simp] theorem State.onFlt_flash (s : State) (f : Collector → Collector): (s.onFlt f).flash = s.flash := rfl
@[simp] theorem State.onFlt_fuses (s : State) (f : Collector → Collector): (s.onFlt f).fuses = s.fuses := rfl
@[simp] theorem State.onFlt_qos (s : State) (f : Collector → Collector): (s.onFlt f).qos = s.qos := rfl
@[simp] theorem State.onFlt_noc (s : State) (f : Collector → Collector): (s.onFlt f).noc = s.noc := rfl
@[simp] theorem State.onFlt_nme (s : State) (f : Collector → Collector): (s.onFlt f).nme = s.nme := rfl
@[simp] theorem State.onFlt_dram (s : State) (f : Collector → Collector): (s.onFlt f).dram = s.dram := rfl
@[simp] theorem State.onFlt_pwr (s : State) (f : Collector → Collector): (s.onFlt f).pwr = s.pwr := rfl
@[simp] theorem State.onFlt_sup (s : State) (f : Collector → Collector): (s.onFlt f).sup = s.sup := rfl
@[simp] theorem State.onFlt_clocks (s : State) (f : Collector → Collector): (s.onFlt f).clocks = s.clocks := rfl
@[simp] theorem State.onFlt_rst (s : State) (f : Collector → Collector): (s.onFlt f).rst = s.rst := rfl
@[simp] theorem State.onFlt_pmu (s : State) (f : Collector → Collector): (s.onFlt f).pmu = s.pmu := rfl
@[simp] theorem State.onFlt_mgmt (s : State) (f : Collector → Collector): (s.onFlt f).mgmt = s.mgmt := rfl
@[simp] theorem State.onFlt_pending (s : State) (f : Collector → Collector): (s.onFlt f).pending = s.pending := rfl
@[simp] theorem State.onFlt_reg (s : State) (f : Collector → Collector) (at_ : Nat) : (s.onFlt f).reg at_ = s.reg at_ := rfl
@[simp] theorem State.onFlt_fld (s : State) (f : Collector → Collector) (g : Reg.FRef) : (s.onFlt f).fld g = s.fld g := rfl
@[simp] theorem State.onFlt_on (s : State) (f : Collector → Collector) (g : Reg.FRef) : (s.onFlt f).on g = s.on g := rfl

/-! `State.onHot` -/
@[simp] theorem State.onHot_clk (s : State) (f : HotTier → HotTier): (s.onHot f).clk = s.clk := rfl
@[simp] theorem State.onHot_free (s : State) (f : HotTier → HotTier): (s.onHot f).free = s.free := rfl
@[simp] theorem State.onHot_nextId (s : State) (f : HotTier → HotTier): (s.onHot f).nextId = s.nextId := rfl
@[simp] theorem State.onHot_regs (s : State) (f : HotTier → HotTier): (s.onHot f).regs = s.regs := rfl
@[simp] theorem State.onHot_paths (s : State) (f : HotTier → HotTier): (s.onHot f).paths = s.paths := rfl
@[simp] theorem State.onHot_flight (s : State) (f : HotTier → HotTier): (s.onHot f).flight = s.flight := rfl
@[simp] theorem State.onHot_replies (s : State) (f : HotTier → HotTier): (s.onHot f).replies = s.replies := rfl
@[simp] theorem State.onHot_out (s : State) (f : HotTier → HotTier): (s.onHot f).out = s.out := rfl
@[simp] theorem State.onHot_heads (s : State) (f : HotTier → HotTier): (s.onHot f).heads = s.heads := rfl
@[simp] theorem State.onHot_lds (s : State) (f : HotTier → HotTier): (s.onHot f).lds = s.lds := rfl
@[simp] theorem State.onHot_slices (s : State) (f : HotTier → HotTier): (s.onHot f).slices = s.slices := rfl
@[simp] theorem State.onHot_takeovers (s : State) (f : HotTier → HotTier): (s.onHot f).takeovers = s.takeovers := rfl
@[simp] theorem State.onHot_dbLost (s : State) (f : HotTier → HotTier): (s.onHot f).dbLost = s.dbLost := rfl
@[simp] theorem State.onHot_teardown (s : State) (f : HotTier → HotTier): (s.onHot f).teardown = s.teardown := rfl
@[simp] theorem State.onHot_cold (s : State) (f : HotTier → HotTier): (s.onHot f).cold = s.cold := rfl
@[simp] theorem State.onHot_vault (s : State) (f : HotTier → HotTier): (s.onHot f).vault = s.vault := rfl
@[simp] theorem State.onHot_flt (s : State) (f : HotTier → HotTier): (s.onHot f).flt = s.flt := rfl
@[simp] theorem State.onHot_layout (s : State) (f : HotTier → HotTier): (s.onHot f).layout = s.layout := rfl
@[simp] theorem State.onHot_flash (s : State) (f : HotTier → HotTier): (s.onHot f).flash = s.flash := rfl
@[simp] theorem State.onHot_fuses (s : State) (f : HotTier → HotTier): (s.onHot f).fuses = s.fuses := rfl
@[simp] theorem State.onHot_qos (s : State) (f : HotTier → HotTier): (s.onHot f).qos = s.qos := rfl
@[simp] theorem State.onHot_noc (s : State) (f : HotTier → HotTier): (s.onHot f).noc = s.noc := rfl
@[simp] theorem State.onHot_nme (s : State) (f : HotTier → HotTier): (s.onHot f).nme = s.nme := rfl
@[simp] theorem State.onHot_dram (s : State) (f : HotTier → HotTier): (s.onHot f).dram = s.dram := rfl
@[simp] theorem State.onHot_pwr (s : State) (f : HotTier → HotTier): (s.onHot f).pwr = s.pwr := rfl
@[simp] theorem State.onHot_sup (s : State) (f : HotTier → HotTier): (s.onHot f).sup = s.sup := rfl
@[simp] theorem State.onHot_clocks (s : State) (f : HotTier → HotTier): (s.onHot f).clocks = s.clocks := rfl
@[simp] theorem State.onHot_rst (s : State) (f : HotTier → HotTier): (s.onHot f).rst = s.rst := rfl
@[simp] theorem State.onHot_pmu (s : State) (f : HotTier → HotTier): (s.onHot f).pmu = s.pmu := rfl
@[simp] theorem State.onHot_mgmt (s : State) (f : HotTier → HotTier): (s.onHot f).mgmt = s.mgmt := rfl
@[simp] theorem State.onHot_pending (s : State) (f : HotTier → HotTier): (s.onHot f).pending = s.pending := rfl
@[simp] theorem State.onHot_reg (s : State) (f : HotTier → HotTier) (at_ : Nat) : (s.onHot f).reg at_ = s.reg at_ := rfl
@[simp] theorem State.onHot_fld (s : State) (f : HotTier → HotTier) (g : Reg.FRef) : (s.onHot f).fld g = s.fld g := rfl
@[simp] theorem State.onHot_on (s : State) (f : HotTier → HotTier) (g : Reg.FRef) : (s.onHot f).on g = s.on g := rfl

/-! `State.onCold` -/
@[simp] theorem State.onCold_clk (s : State) (f : ColdTier → ColdTier): (s.onCold f).clk = s.clk := rfl
@[simp] theorem State.onCold_free (s : State) (f : ColdTier → ColdTier): (s.onCold f).free = s.free := rfl
@[simp] theorem State.onCold_nextId (s : State) (f : ColdTier → ColdTier): (s.onCold f).nextId = s.nextId := rfl
@[simp] theorem State.onCold_regs (s : State) (f : ColdTier → ColdTier): (s.onCold f).regs = s.regs := rfl
@[simp] theorem State.onCold_paths (s : State) (f : ColdTier → ColdTier): (s.onCold f).paths = s.paths := rfl
@[simp] theorem State.onCold_flight (s : State) (f : ColdTier → ColdTier): (s.onCold f).flight = s.flight := rfl
@[simp] theorem State.onCold_replies (s : State) (f : ColdTier → ColdTier): (s.onCold f).replies = s.replies := rfl
@[simp] theorem State.onCold_out (s : State) (f : ColdTier → ColdTier): (s.onCold f).out = s.out := rfl
@[simp] theorem State.onCold_heads (s : State) (f : ColdTier → ColdTier): (s.onCold f).heads = s.heads := rfl
@[simp] theorem State.onCold_lds (s : State) (f : ColdTier → ColdTier): (s.onCold f).lds = s.lds := rfl
@[simp] theorem State.onCold_slices (s : State) (f : ColdTier → ColdTier): (s.onCold f).slices = s.slices := rfl
@[simp] theorem State.onCold_takeovers (s : State) (f : ColdTier → ColdTier): (s.onCold f).takeovers = s.takeovers := rfl
@[simp] theorem State.onCold_dbLost (s : State) (f : ColdTier → ColdTier): (s.onCold f).dbLost = s.dbLost := rfl
@[simp] theorem State.onCold_teardown (s : State) (f : ColdTier → ColdTier): (s.onCold f).teardown = s.teardown := rfl
@[simp] theorem State.onCold_hot (s : State) (f : ColdTier → ColdTier): (s.onCold f).hot = s.hot := rfl
@[simp] theorem State.onCold_vault (s : State) (f : ColdTier → ColdTier): (s.onCold f).vault = s.vault := rfl
@[simp] theorem State.onCold_flt (s : State) (f : ColdTier → ColdTier): (s.onCold f).flt = s.flt := rfl
@[simp] theorem State.onCold_layout (s : State) (f : ColdTier → ColdTier): (s.onCold f).layout = s.layout := rfl
@[simp] theorem State.onCold_flash (s : State) (f : ColdTier → ColdTier): (s.onCold f).flash = s.flash := rfl
@[simp] theorem State.onCold_fuses (s : State) (f : ColdTier → ColdTier): (s.onCold f).fuses = s.fuses := rfl
@[simp] theorem State.onCold_qos (s : State) (f : ColdTier → ColdTier): (s.onCold f).qos = s.qos := rfl
@[simp] theorem State.onCold_noc (s : State) (f : ColdTier → ColdTier): (s.onCold f).noc = s.noc := rfl
@[simp] theorem State.onCold_nme (s : State) (f : ColdTier → ColdTier): (s.onCold f).nme = s.nme := rfl
@[simp] theorem State.onCold_dram (s : State) (f : ColdTier → ColdTier): (s.onCold f).dram = s.dram := rfl
@[simp] theorem State.onCold_pwr (s : State) (f : ColdTier → ColdTier): (s.onCold f).pwr = s.pwr := rfl
@[simp] theorem State.onCold_sup (s : State) (f : ColdTier → ColdTier): (s.onCold f).sup = s.sup := rfl
@[simp] theorem State.onCold_clocks (s : State) (f : ColdTier → ColdTier): (s.onCold f).clocks = s.clocks := rfl
@[simp] theorem State.onCold_rst (s : State) (f : ColdTier → ColdTier): (s.onCold f).rst = s.rst := rfl
@[simp] theorem State.onCold_pmu (s : State) (f : ColdTier → ColdTier): (s.onCold f).pmu = s.pmu := rfl
@[simp] theorem State.onCold_mgmt (s : State) (f : ColdTier → ColdTier): (s.onCold f).mgmt = s.mgmt := rfl
@[simp] theorem State.onCold_pending (s : State) (f : ColdTier → ColdTier): (s.onCold f).pending = s.pending := rfl
@[simp] theorem State.onCold_reg (s : State) (f : ColdTier → ColdTier) (at_ : Nat) : (s.onCold f).reg at_ = s.reg at_ := rfl
@[simp] theorem State.onCold_fld (s : State) (f : ColdTier → ColdTier) (g : Reg.FRef) : (s.onCold f).fld g = s.fld g := rfl
@[simp] theorem State.onCold_on (s : State) (f : ColdTier → ColdTier) (g : Reg.FRef) : (s.onCold f).on g = s.on g := rfl

/-! `State.onVault` -/
@[simp] theorem State.onVault_clk (s : State) (f : Vault → Vault): (s.onVault f).clk = s.clk := rfl
@[simp] theorem State.onVault_free (s : State) (f : Vault → Vault): (s.onVault f).free = s.free := rfl
@[simp] theorem State.onVault_nextId (s : State) (f : Vault → Vault): (s.onVault f).nextId = s.nextId := rfl
@[simp] theorem State.onVault_regs (s : State) (f : Vault → Vault): (s.onVault f).regs = s.regs := rfl
@[simp] theorem State.onVault_paths (s : State) (f : Vault → Vault): (s.onVault f).paths = s.paths := rfl
@[simp] theorem State.onVault_flight (s : State) (f : Vault → Vault): (s.onVault f).flight = s.flight := rfl
@[simp] theorem State.onVault_replies (s : State) (f : Vault → Vault): (s.onVault f).replies = s.replies := rfl
@[simp] theorem State.onVault_out (s : State) (f : Vault → Vault): (s.onVault f).out = s.out := rfl
@[simp] theorem State.onVault_heads (s : State) (f : Vault → Vault): (s.onVault f).heads = s.heads := rfl
@[simp] theorem State.onVault_lds (s : State) (f : Vault → Vault): (s.onVault f).lds = s.lds := rfl
@[simp] theorem State.onVault_slices (s : State) (f : Vault → Vault): (s.onVault f).slices = s.slices := rfl
@[simp] theorem State.onVault_takeovers (s : State) (f : Vault → Vault): (s.onVault f).takeovers = s.takeovers := rfl
@[simp] theorem State.onVault_dbLost (s : State) (f : Vault → Vault): (s.onVault f).dbLost = s.dbLost := rfl
@[simp] theorem State.onVault_teardown (s : State) (f : Vault → Vault): (s.onVault f).teardown = s.teardown := rfl
@[simp] theorem State.onVault_hot (s : State) (f : Vault → Vault): (s.onVault f).hot = s.hot := rfl
@[simp] theorem State.onVault_cold (s : State) (f : Vault → Vault): (s.onVault f).cold = s.cold := rfl
@[simp] theorem State.onVault_flt (s : State) (f : Vault → Vault): (s.onVault f).flt = s.flt := rfl
@[simp] theorem State.onVault_layout (s : State) (f : Vault → Vault): (s.onVault f).layout = s.layout := rfl
@[simp] theorem State.onVault_flash (s : State) (f : Vault → Vault): (s.onVault f).flash = s.flash := rfl
@[simp] theorem State.onVault_fuses (s : State) (f : Vault → Vault): (s.onVault f).fuses = s.fuses := rfl
@[simp] theorem State.onVault_qos (s : State) (f : Vault → Vault): (s.onVault f).qos = s.qos := rfl
@[simp] theorem State.onVault_noc (s : State) (f : Vault → Vault): (s.onVault f).noc = s.noc := rfl
@[simp] theorem State.onVault_nme (s : State) (f : Vault → Vault): (s.onVault f).nme = s.nme := rfl
@[simp] theorem State.onVault_dram (s : State) (f : Vault → Vault): (s.onVault f).dram = s.dram := rfl
@[simp] theorem State.onVault_pwr (s : State) (f : Vault → Vault): (s.onVault f).pwr = s.pwr := rfl
@[simp] theorem State.onVault_sup (s : State) (f : Vault → Vault): (s.onVault f).sup = s.sup := rfl
@[simp] theorem State.onVault_clocks (s : State) (f : Vault → Vault): (s.onVault f).clocks = s.clocks := rfl
@[simp] theorem State.onVault_rst (s : State) (f : Vault → Vault): (s.onVault f).rst = s.rst := rfl
@[simp] theorem State.onVault_pmu (s : State) (f : Vault → Vault): (s.onVault f).pmu = s.pmu := rfl
@[simp] theorem State.onVault_mgmt (s : State) (f : Vault → Vault): (s.onVault f).mgmt = s.mgmt := rfl
@[simp] theorem State.onVault_pending (s : State) (f : Vault → Vault): (s.onVault f).pending = s.pending := rfl
@[simp] theorem State.onVault_reg (s : State) (f : Vault → Vault) (at_ : Nat) : (s.onVault f).reg at_ = s.reg at_ := rfl
@[simp] theorem State.onVault_fld (s : State) (f : Vault → Vault) (g : Reg.FRef) : (s.onVault f).fld g = s.fld g := rfl
@[simp] theorem State.onVault_on (s : State) (f : Vault → Vault) (g : Reg.FRef) : (s.onVault f).on g = s.on g := rfl

/-! `State.onNoc` -/
@[simp] theorem State.onNoc_clk (s : State) (f : Noc → Noc): (s.onNoc f).clk = s.clk := rfl
@[simp] theorem State.onNoc_free (s : State) (f : Noc → Noc): (s.onNoc f).free = s.free := rfl
@[simp] theorem State.onNoc_nextId (s : State) (f : Noc → Noc): (s.onNoc f).nextId = s.nextId := rfl
@[simp] theorem State.onNoc_regs (s : State) (f : Noc → Noc): (s.onNoc f).regs = s.regs := rfl
@[simp] theorem State.onNoc_paths (s : State) (f : Noc → Noc): (s.onNoc f).paths = s.paths := rfl
@[simp] theorem State.onNoc_flight (s : State) (f : Noc → Noc): (s.onNoc f).flight = s.flight := rfl
@[simp] theorem State.onNoc_replies (s : State) (f : Noc → Noc): (s.onNoc f).replies = s.replies := rfl
@[simp] theorem State.onNoc_out (s : State) (f : Noc → Noc): (s.onNoc f).out = s.out := rfl
@[simp] theorem State.onNoc_heads (s : State) (f : Noc → Noc): (s.onNoc f).heads = s.heads := rfl
@[simp] theorem State.onNoc_lds (s : State) (f : Noc → Noc): (s.onNoc f).lds = s.lds := rfl
@[simp] theorem State.onNoc_slices (s : State) (f : Noc → Noc): (s.onNoc f).slices = s.slices := rfl
@[simp] theorem State.onNoc_takeovers (s : State) (f : Noc → Noc): (s.onNoc f).takeovers = s.takeovers := rfl
@[simp] theorem State.onNoc_dbLost (s : State) (f : Noc → Noc): (s.onNoc f).dbLost = s.dbLost := rfl
@[simp] theorem State.onNoc_teardown (s : State) (f : Noc → Noc): (s.onNoc f).teardown = s.teardown := rfl
@[simp] theorem State.onNoc_hot (s : State) (f : Noc → Noc): (s.onNoc f).hot = s.hot := rfl
@[simp] theorem State.onNoc_cold (s : State) (f : Noc → Noc): (s.onNoc f).cold = s.cold := rfl
@[simp] theorem State.onNoc_vault (s : State) (f : Noc → Noc): (s.onNoc f).vault = s.vault := rfl
@[simp] theorem State.onNoc_flt (s : State) (f : Noc → Noc): (s.onNoc f).flt = s.flt := rfl
@[simp] theorem State.onNoc_layout (s : State) (f : Noc → Noc): (s.onNoc f).layout = s.layout := rfl
@[simp] theorem State.onNoc_flash (s : State) (f : Noc → Noc): (s.onNoc f).flash = s.flash := rfl
@[simp] theorem State.onNoc_fuses (s : State) (f : Noc → Noc): (s.onNoc f).fuses = s.fuses := rfl
@[simp] theorem State.onNoc_qos (s : State) (f : Noc → Noc): (s.onNoc f).qos = s.qos := rfl
@[simp] theorem State.onNoc_nme (s : State) (f : Noc → Noc): (s.onNoc f).nme = s.nme := rfl
@[simp] theorem State.onNoc_dram (s : State) (f : Noc → Noc): (s.onNoc f).dram = s.dram := rfl
@[simp] theorem State.onNoc_pwr (s : State) (f : Noc → Noc): (s.onNoc f).pwr = s.pwr := rfl
@[simp] theorem State.onNoc_sup (s : State) (f : Noc → Noc): (s.onNoc f).sup = s.sup := rfl
@[simp] theorem State.onNoc_clocks (s : State) (f : Noc → Noc): (s.onNoc f).clocks = s.clocks := rfl
@[simp] theorem State.onNoc_rst (s : State) (f : Noc → Noc): (s.onNoc f).rst = s.rst := rfl
@[simp] theorem State.onNoc_pmu (s : State) (f : Noc → Noc): (s.onNoc f).pmu = s.pmu := rfl
@[simp] theorem State.onNoc_mgmt (s : State) (f : Noc → Noc): (s.onNoc f).mgmt = s.mgmt := rfl
@[simp] theorem State.onNoc_pending (s : State) (f : Noc → Noc): (s.onNoc f).pending = s.pending := rfl
@[simp] theorem State.onNoc_reg (s : State) (f : Noc → Noc) (at_ : Nat) : (s.onNoc f).reg at_ = s.reg at_ := rfl
@[simp] theorem State.onNoc_fld (s : State) (f : Noc → Noc) (g : Reg.FRef) : (s.onNoc f).fld g = s.fld g := rfl
@[simp] theorem State.onNoc_on (s : State) (f : Noc → Noc) (g : Reg.FRef) : (s.onNoc f).on g = s.on g := rfl

/-! `State.onNme` -/
@[simp] theorem State.onNme_clk (s : State) (f : Nme → Nme): (s.onNme f).clk = s.clk := rfl
@[simp] theorem State.onNme_free (s : State) (f : Nme → Nme): (s.onNme f).free = s.free := rfl
@[simp] theorem State.onNme_nextId (s : State) (f : Nme → Nme): (s.onNme f).nextId = s.nextId := rfl
@[simp] theorem State.onNme_regs (s : State) (f : Nme → Nme): (s.onNme f).regs = s.regs := rfl
@[simp] theorem State.onNme_paths (s : State) (f : Nme → Nme): (s.onNme f).paths = s.paths := rfl
@[simp] theorem State.onNme_flight (s : State) (f : Nme → Nme): (s.onNme f).flight = s.flight := rfl
@[simp] theorem State.onNme_replies (s : State) (f : Nme → Nme): (s.onNme f).replies = s.replies := rfl
@[simp] theorem State.onNme_out (s : State) (f : Nme → Nme): (s.onNme f).out = s.out := rfl
@[simp] theorem State.onNme_heads (s : State) (f : Nme → Nme): (s.onNme f).heads = s.heads := rfl
@[simp] theorem State.onNme_lds (s : State) (f : Nme → Nme): (s.onNme f).lds = s.lds := rfl
@[simp] theorem State.onNme_slices (s : State) (f : Nme → Nme): (s.onNme f).slices = s.slices := rfl
@[simp] theorem State.onNme_takeovers (s : State) (f : Nme → Nme): (s.onNme f).takeovers = s.takeovers := rfl
@[simp] theorem State.onNme_dbLost (s : State) (f : Nme → Nme): (s.onNme f).dbLost = s.dbLost := rfl
@[simp] theorem State.onNme_teardown (s : State) (f : Nme → Nme): (s.onNme f).teardown = s.teardown := rfl
@[simp] theorem State.onNme_hot (s : State) (f : Nme → Nme): (s.onNme f).hot = s.hot := rfl
@[simp] theorem State.onNme_cold (s : State) (f : Nme → Nme): (s.onNme f).cold = s.cold := rfl
@[simp] theorem State.onNme_vault (s : State) (f : Nme → Nme): (s.onNme f).vault = s.vault := rfl
@[simp] theorem State.onNme_flt (s : State) (f : Nme → Nme): (s.onNme f).flt = s.flt := rfl
@[simp] theorem State.onNme_layout (s : State) (f : Nme → Nme): (s.onNme f).layout = s.layout := rfl
@[simp] theorem State.onNme_flash (s : State) (f : Nme → Nme): (s.onNme f).flash = s.flash := rfl
@[simp] theorem State.onNme_fuses (s : State) (f : Nme → Nme): (s.onNme f).fuses = s.fuses := rfl
@[simp] theorem State.onNme_qos (s : State) (f : Nme → Nme): (s.onNme f).qos = s.qos := rfl
@[simp] theorem State.onNme_noc (s : State) (f : Nme → Nme): (s.onNme f).noc = s.noc := rfl
@[simp] theorem State.onNme_dram (s : State) (f : Nme → Nme): (s.onNme f).dram = s.dram := rfl
@[simp] theorem State.onNme_pwr (s : State) (f : Nme → Nme): (s.onNme f).pwr = s.pwr := rfl
@[simp] theorem State.onNme_sup (s : State) (f : Nme → Nme): (s.onNme f).sup = s.sup := rfl
@[simp] theorem State.onNme_clocks (s : State) (f : Nme → Nme): (s.onNme f).clocks = s.clocks := rfl
@[simp] theorem State.onNme_rst (s : State) (f : Nme → Nme): (s.onNme f).rst = s.rst := rfl
@[simp] theorem State.onNme_pmu (s : State) (f : Nme → Nme): (s.onNme f).pmu = s.pmu := rfl
@[simp] theorem State.onNme_mgmt (s : State) (f : Nme → Nme): (s.onNme f).mgmt = s.mgmt := rfl
@[simp] theorem State.onNme_pending (s : State) (f : Nme → Nme): (s.onNme f).pending = s.pending := rfl
@[simp] theorem State.onNme_reg (s : State) (f : Nme → Nme) (at_ : Nat) : (s.onNme f).reg at_ = s.reg at_ := rfl
@[simp] theorem State.onNme_fld (s : State) (f : Nme → Nme) (g : Reg.FRef) : (s.onNme f).fld g = s.fld g := rfl
@[simp] theorem State.onNme_on (s : State) (f : Nme → Nme) (g : Reg.FRef) : (s.onNme f).on g = s.on g := rfl

/-! `State.onDram` -/
@[simp] theorem State.onDram_clk (s : State) (f : Dram → Dram): (s.onDram f).clk = s.clk := rfl
@[simp] theorem State.onDram_free (s : State) (f : Dram → Dram): (s.onDram f).free = s.free := rfl
@[simp] theorem State.onDram_nextId (s : State) (f : Dram → Dram): (s.onDram f).nextId = s.nextId := rfl
@[simp] theorem State.onDram_regs (s : State) (f : Dram → Dram): (s.onDram f).regs = s.regs := rfl
@[simp] theorem State.onDram_paths (s : State) (f : Dram → Dram): (s.onDram f).paths = s.paths := rfl
@[simp] theorem State.onDram_flight (s : State) (f : Dram → Dram): (s.onDram f).flight = s.flight := rfl
@[simp] theorem State.onDram_replies (s : State) (f : Dram → Dram): (s.onDram f).replies = s.replies := rfl
@[simp] theorem State.onDram_out (s : State) (f : Dram → Dram): (s.onDram f).out = s.out := rfl
@[simp] theorem State.onDram_heads (s : State) (f : Dram → Dram): (s.onDram f).heads = s.heads := rfl
@[simp] theorem State.onDram_lds (s : State) (f : Dram → Dram): (s.onDram f).lds = s.lds := rfl
@[simp] theorem State.onDram_slices (s : State) (f : Dram → Dram): (s.onDram f).slices = s.slices := rfl
@[simp] theorem State.onDram_takeovers (s : State) (f : Dram → Dram): (s.onDram f).takeovers = s.takeovers := rfl
@[simp] theorem State.onDram_dbLost (s : State) (f : Dram → Dram): (s.onDram f).dbLost = s.dbLost := rfl
@[simp] theorem State.onDram_teardown (s : State) (f : Dram → Dram): (s.onDram f).teardown = s.teardown := rfl
@[simp] theorem State.onDram_hot (s : State) (f : Dram → Dram): (s.onDram f).hot = s.hot := rfl
@[simp] theorem State.onDram_cold (s : State) (f : Dram → Dram): (s.onDram f).cold = s.cold := rfl
@[simp] theorem State.onDram_vault (s : State) (f : Dram → Dram): (s.onDram f).vault = s.vault := rfl
@[simp] theorem State.onDram_flt (s : State) (f : Dram → Dram): (s.onDram f).flt = s.flt := rfl
@[simp] theorem State.onDram_layout (s : State) (f : Dram → Dram): (s.onDram f).layout = s.layout := rfl
@[simp] theorem State.onDram_flash (s : State) (f : Dram → Dram): (s.onDram f).flash = s.flash := rfl
@[simp] theorem State.onDram_fuses (s : State) (f : Dram → Dram): (s.onDram f).fuses = s.fuses := rfl
@[simp] theorem State.onDram_qos (s : State) (f : Dram → Dram): (s.onDram f).qos = s.qos := rfl
@[simp] theorem State.onDram_noc (s : State) (f : Dram → Dram): (s.onDram f).noc = s.noc := rfl
@[simp] theorem State.onDram_nme (s : State) (f : Dram → Dram): (s.onDram f).nme = s.nme := rfl
@[simp] theorem State.onDram_pwr (s : State) (f : Dram → Dram): (s.onDram f).pwr = s.pwr := rfl
@[simp] theorem State.onDram_sup (s : State) (f : Dram → Dram): (s.onDram f).sup = s.sup := rfl
@[simp] theorem State.onDram_clocks (s : State) (f : Dram → Dram): (s.onDram f).clocks = s.clocks := rfl
@[simp] theorem State.onDram_rst (s : State) (f : Dram → Dram): (s.onDram f).rst = s.rst := rfl
@[simp] theorem State.onDram_pmu (s : State) (f : Dram → Dram): (s.onDram f).pmu = s.pmu := rfl
@[simp] theorem State.onDram_mgmt (s : State) (f : Dram → Dram): (s.onDram f).mgmt = s.mgmt := rfl
@[simp] theorem State.onDram_pending (s : State) (f : Dram → Dram): (s.onDram f).pending = s.pending := rfl
@[simp] theorem State.onDram_reg (s : State) (f : Dram → Dram) (at_ : Nat) : (s.onDram f).reg at_ = s.reg at_ := rfl
@[simp] theorem State.onDram_fld (s : State) (f : Dram → Dram) (g : Reg.FRef) : (s.onDram f).fld g = s.fld g := rfl
@[simp] theorem State.onDram_on (s : State) (f : Dram → Dram) (g : Reg.FRef) : (s.onDram f).on g = s.on g := rfl

/-! `State.onQos` -/
@[simp] theorem State.onQos_clk (s : State) (f : Qos → Qos): (s.onQos f).clk = s.clk := rfl
@[simp] theorem State.onQos_free (s : State) (f : Qos → Qos): (s.onQos f).free = s.free := rfl
@[simp] theorem State.onQos_nextId (s : State) (f : Qos → Qos): (s.onQos f).nextId = s.nextId := rfl
@[simp] theorem State.onQos_regs (s : State) (f : Qos → Qos): (s.onQos f).regs = s.regs := rfl
@[simp] theorem State.onQos_paths (s : State) (f : Qos → Qos): (s.onQos f).paths = s.paths := rfl
@[simp] theorem State.onQos_flight (s : State) (f : Qos → Qos): (s.onQos f).flight = s.flight := rfl
@[simp] theorem State.onQos_replies (s : State) (f : Qos → Qos): (s.onQos f).replies = s.replies := rfl
@[simp] theorem State.onQos_out (s : State) (f : Qos → Qos): (s.onQos f).out = s.out := rfl
@[simp] theorem State.onQos_heads (s : State) (f : Qos → Qos): (s.onQos f).heads = s.heads := rfl
@[simp] theorem State.onQos_lds (s : State) (f : Qos → Qos): (s.onQos f).lds = s.lds := rfl
@[simp] theorem State.onQos_slices (s : State) (f : Qos → Qos): (s.onQos f).slices = s.slices := rfl
@[simp] theorem State.onQos_takeovers (s : State) (f : Qos → Qos): (s.onQos f).takeovers = s.takeovers := rfl
@[simp] theorem State.onQos_dbLost (s : State) (f : Qos → Qos): (s.onQos f).dbLost = s.dbLost := rfl
@[simp] theorem State.onQos_teardown (s : State) (f : Qos → Qos): (s.onQos f).teardown = s.teardown := rfl
@[simp] theorem State.onQos_hot (s : State) (f : Qos → Qos): (s.onQos f).hot = s.hot := rfl
@[simp] theorem State.onQos_cold (s : State) (f : Qos → Qos): (s.onQos f).cold = s.cold := rfl
@[simp] theorem State.onQos_vault (s : State) (f : Qos → Qos): (s.onQos f).vault = s.vault := rfl
@[simp] theorem State.onQos_flt (s : State) (f : Qos → Qos): (s.onQos f).flt = s.flt := rfl
@[simp] theorem State.onQos_layout (s : State) (f : Qos → Qos): (s.onQos f).layout = s.layout := rfl
@[simp] theorem State.onQos_flash (s : State) (f : Qos → Qos): (s.onQos f).flash = s.flash := rfl
@[simp] theorem State.onQos_fuses (s : State) (f : Qos → Qos): (s.onQos f).fuses = s.fuses := rfl
@[simp] theorem State.onQos_noc (s : State) (f : Qos → Qos): (s.onQos f).noc = s.noc := rfl
@[simp] theorem State.onQos_nme (s : State) (f : Qos → Qos): (s.onQos f).nme = s.nme := rfl
@[simp] theorem State.onQos_dram (s : State) (f : Qos → Qos): (s.onQos f).dram = s.dram := rfl
@[simp] theorem State.onQos_pwr (s : State) (f : Qos → Qos): (s.onQos f).pwr = s.pwr := rfl
@[simp] theorem State.onQos_sup (s : State) (f : Qos → Qos): (s.onQos f).sup = s.sup := rfl
@[simp] theorem State.onQos_clocks (s : State) (f : Qos → Qos): (s.onQos f).clocks = s.clocks := rfl
@[simp] theorem State.onQos_rst (s : State) (f : Qos → Qos): (s.onQos f).rst = s.rst := rfl
@[simp] theorem State.onQos_pmu (s : State) (f : Qos → Qos): (s.onQos f).pmu = s.pmu := rfl
@[simp] theorem State.onQos_mgmt (s : State) (f : Qos → Qos): (s.onQos f).mgmt = s.mgmt := rfl
@[simp] theorem State.onQos_pending (s : State) (f : Qos → Qos): (s.onQos f).pending = s.pending := rfl
@[simp] theorem State.onQos_reg (s : State) (f : Qos → Qos) (at_ : Nat) : (s.onQos f).reg at_ = s.reg at_ := rfl
@[simp] theorem State.onQos_fld (s : State) (f : Qos → Qos) (g : Reg.FRef) : (s.onQos f).fld g = s.fld g := rfl
@[simp] theorem State.onQos_on (s : State) (f : Qos → Qos) (g : Reg.FRef) : (s.onQos f).on g = s.on g := rfl

/-! `State.onLayout` -/
@[simp] theorem State.onLayout_clk (s : State) (f : Layout → Layout): (s.onLayout f).clk = s.clk := rfl
@[simp] theorem State.onLayout_free (s : State) (f : Layout → Layout): (s.onLayout f).free = s.free := rfl
@[simp] theorem State.onLayout_nextId (s : State) (f : Layout → Layout): (s.onLayout f).nextId = s.nextId := rfl
@[simp] theorem State.onLayout_regs (s : State) (f : Layout → Layout): (s.onLayout f).regs = s.regs := rfl
@[simp] theorem State.onLayout_paths (s : State) (f : Layout → Layout): (s.onLayout f).paths = s.paths := rfl
@[simp] theorem State.onLayout_flight (s : State) (f : Layout → Layout): (s.onLayout f).flight = s.flight := rfl
@[simp] theorem State.onLayout_replies (s : State) (f : Layout → Layout): (s.onLayout f).replies = s.replies := rfl
@[simp] theorem State.onLayout_out (s : State) (f : Layout → Layout): (s.onLayout f).out = s.out := rfl
@[simp] theorem State.onLayout_heads (s : State) (f : Layout → Layout): (s.onLayout f).heads = s.heads := rfl
@[simp] theorem State.onLayout_lds (s : State) (f : Layout → Layout): (s.onLayout f).lds = s.lds := rfl
@[simp] theorem State.onLayout_slices (s : State) (f : Layout → Layout): (s.onLayout f).slices = s.slices := rfl
@[simp] theorem State.onLayout_takeovers (s : State) (f : Layout → Layout): (s.onLayout f).takeovers = s.takeovers := rfl
@[simp] theorem State.onLayout_dbLost (s : State) (f : Layout → Layout): (s.onLayout f).dbLost = s.dbLost := rfl
@[simp] theorem State.onLayout_teardown (s : State) (f : Layout → Layout): (s.onLayout f).teardown = s.teardown := rfl
@[simp] theorem State.onLayout_hot (s : State) (f : Layout → Layout): (s.onLayout f).hot = s.hot := rfl
@[simp] theorem State.onLayout_cold (s : State) (f : Layout → Layout): (s.onLayout f).cold = s.cold := rfl
@[simp] theorem State.onLayout_vault (s : State) (f : Layout → Layout): (s.onLayout f).vault = s.vault := rfl
@[simp] theorem State.onLayout_flt (s : State) (f : Layout → Layout): (s.onLayout f).flt = s.flt := rfl
@[simp] theorem State.onLayout_flash (s : State) (f : Layout → Layout): (s.onLayout f).flash = s.flash := rfl
@[simp] theorem State.onLayout_fuses (s : State) (f : Layout → Layout): (s.onLayout f).fuses = s.fuses := rfl
@[simp] theorem State.onLayout_qos (s : State) (f : Layout → Layout): (s.onLayout f).qos = s.qos := rfl
@[simp] theorem State.onLayout_noc (s : State) (f : Layout → Layout): (s.onLayout f).noc = s.noc := rfl
@[simp] theorem State.onLayout_nme (s : State) (f : Layout → Layout): (s.onLayout f).nme = s.nme := rfl
@[simp] theorem State.onLayout_dram (s : State) (f : Layout → Layout): (s.onLayout f).dram = s.dram := rfl
@[simp] theorem State.onLayout_pwr (s : State) (f : Layout → Layout): (s.onLayout f).pwr = s.pwr := rfl
@[simp] theorem State.onLayout_sup (s : State) (f : Layout → Layout): (s.onLayout f).sup = s.sup := rfl
@[simp] theorem State.onLayout_clocks (s : State) (f : Layout → Layout): (s.onLayout f).clocks = s.clocks := rfl
@[simp] theorem State.onLayout_rst (s : State) (f : Layout → Layout): (s.onLayout f).rst = s.rst := rfl
@[simp] theorem State.onLayout_pmu (s : State) (f : Layout → Layout): (s.onLayout f).pmu = s.pmu := rfl
@[simp] theorem State.onLayout_mgmt (s : State) (f : Layout → Layout): (s.onLayout f).mgmt = s.mgmt := rfl
@[simp] theorem State.onLayout_pending (s : State) (f : Layout → Layout): (s.onLayout f).pending = s.pending := rfl
@[simp] theorem State.onLayout_reg (s : State) (f : Layout → Layout) (at_ : Nat) : (s.onLayout f).reg at_ = s.reg at_ := rfl
@[simp] theorem State.onLayout_fld (s : State) (f : Layout → Layout) (g : Reg.FRef) : (s.onLayout f).fld g = s.fld g := rfl
@[simp] theorem State.onLayout_on (s : State) (f : Layout → Layout) (g : Reg.FRef) : (s.onLayout f).on g = s.on g := rfl

/-! `State.onFlash` -/
@[simp] theorem State.onFlash_clk (s : State) (f : Flash → Flash): (s.onFlash f).clk = s.clk := rfl
@[simp] theorem State.onFlash_free (s : State) (f : Flash → Flash): (s.onFlash f).free = s.free := rfl
@[simp] theorem State.onFlash_nextId (s : State) (f : Flash → Flash): (s.onFlash f).nextId = s.nextId := rfl
@[simp] theorem State.onFlash_regs (s : State) (f : Flash → Flash): (s.onFlash f).regs = s.regs := rfl
@[simp] theorem State.onFlash_paths (s : State) (f : Flash → Flash): (s.onFlash f).paths = s.paths := rfl
@[simp] theorem State.onFlash_flight (s : State) (f : Flash → Flash): (s.onFlash f).flight = s.flight := rfl
@[simp] theorem State.onFlash_replies (s : State) (f : Flash → Flash): (s.onFlash f).replies = s.replies := rfl
@[simp] theorem State.onFlash_out (s : State) (f : Flash → Flash): (s.onFlash f).out = s.out := rfl
@[simp] theorem State.onFlash_heads (s : State) (f : Flash → Flash): (s.onFlash f).heads = s.heads := rfl
@[simp] theorem State.onFlash_lds (s : State) (f : Flash → Flash): (s.onFlash f).lds = s.lds := rfl
@[simp] theorem State.onFlash_slices (s : State) (f : Flash → Flash): (s.onFlash f).slices = s.slices := rfl
@[simp] theorem State.onFlash_takeovers (s : State) (f : Flash → Flash): (s.onFlash f).takeovers = s.takeovers := rfl
@[simp] theorem State.onFlash_dbLost (s : State) (f : Flash → Flash): (s.onFlash f).dbLost = s.dbLost := rfl
@[simp] theorem State.onFlash_teardown (s : State) (f : Flash → Flash): (s.onFlash f).teardown = s.teardown := rfl
@[simp] theorem State.onFlash_hot (s : State) (f : Flash → Flash): (s.onFlash f).hot = s.hot := rfl
@[simp] theorem State.onFlash_cold (s : State) (f : Flash → Flash): (s.onFlash f).cold = s.cold := rfl
@[simp] theorem State.onFlash_vault (s : State) (f : Flash → Flash): (s.onFlash f).vault = s.vault := rfl
@[simp] theorem State.onFlash_flt (s : State) (f : Flash → Flash): (s.onFlash f).flt = s.flt := rfl
@[simp] theorem State.onFlash_layout (s : State) (f : Flash → Flash): (s.onFlash f).layout = s.layout := rfl
@[simp] theorem State.onFlash_fuses (s : State) (f : Flash → Flash): (s.onFlash f).fuses = s.fuses := rfl
@[simp] theorem State.onFlash_qos (s : State) (f : Flash → Flash): (s.onFlash f).qos = s.qos := rfl
@[simp] theorem State.onFlash_noc (s : State) (f : Flash → Flash): (s.onFlash f).noc = s.noc := rfl
@[simp] theorem State.onFlash_nme (s : State) (f : Flash → Flash): (s.onFlash f).nme = s.nme := rfl
@[simp] theorem State.onFlash_dram (s : State) (f : Flash → Flash): (s.onFlash f).dram = s.dram := rfl
@[simp] theorem State.onFlash_pwr (s : State) (f : Flash → Flash): (s.onFlash f).pwr = s.pwr := rfl
@[simp] theorem State.onFlash_sup (s : State) (f : Flash → Flash): (s.onFlash f).sup = s.sup := rfl
@[simp] theorem State.onFlash_clocks (s : State) (f : Flash → Flash): (s.onFlash f).clocks = s.clocks := rfl
@[simp] theorem State.onFlash_rst (s : State) (f : Flash → Flash): (s.onFlash f).rst = s.rst := rfl
@[simp] theorem State.onFlash_pmu (s : State) (f : Flash → Flash): (s.onFlash f).pmu = s.pmu := rfl
@[simp] theorem State.onFlash_mgmt (s : State) (f : Flash → Flash): (s.onFlash f).mgmt = s.mgmt := rfl
@[simp] theorem State.onFlash_pending (s : State) (f : Flash → Flash): (s.onFlash f).pending = s.pending := rfl
@[simp] theorem State.onFlash_reg (s : State) (f : Flash → Flash) (at_ : Nat) : (s.onFlash f).reg at_ = s.reg at_ := rfl
@[simp] theorem State.onFlash_fld (s : State) (f : Flash → Flash) (g : Reg.FRef) : (s.onFlash f).fld g = s.fld g := rfl
@[simp] theorem State.onFlash_on (s : State) (f : Flash → Flash) (g : Reg.FRef) : (s.onFlash f).on g = s.on g := rfl

/-! `State.onFuses` -/
@[simp] theorem State.onFuses_clk (s : State) (f : Fuses → Fuses): (s.onFuses f).clk = s.clk := rfl
@[simp] theorem State.onFuses_free (s : State) (f : Fuses → Fuses): (s.onFuses f).free = s.free := rfl
@[simp] theorem State.onFuses_nextId (s : State) (f : Fuses → Fuses): (s.onFuses f).nextId = s.nextId := rfl
@[simp] theorem State.onFuses_regs (s : State) (f : Fuses → Fuses): (s.onFuses f).regs = s.regs := rfl
@[simp] theorem State.onFuses_paths (s : State) (f : Fuses → Fuses): (s.onFuses f).paths = s.paths := rfl
@[simp] theorem State.onFuses_flight (s : State) (f : Fuses → Fuses): (s.onFuses f).flight = s.flight := rfl
@[simp] theorem State.onFuses_replies (s : State) (f : Fuses → Fuses): (s.onFuses f).replies = s.replies := rfl
@[simp] theorem State.onFuses_out (s : State) (f : Fuses → Fuses): (s.onFuses f).out = s.out := rfl
@[simp] theorem State.onFuses_heads (s : State) (f : Fuses → Fuses): (s.onFuses f).heads = s.heads := rfl
@[simp] theorem State.onFuses_lds (s : State) (f : Fuses → Fuses): (s.onFuses f).lds = s.lds := rfl
@[simp] theorem State.onFuses_slices (s : State) (f : Fuses → Fuses): (s.onFuses f).slices = s.slices := rfl
@[simp] theorem State.onFuses_takeovers (s : State) (f : Fuses → Fuses): (s.onFuses f).takeovers = s.takeovers := rfl
@[simp] theorem State.onFuses_dbLost (s : State) (f : Fuses → Fuses): (s.onFuses f).dbLost = s.dbLost := rfl
@[simp] theorem State.onFuses_teardown (s : State) (f : Fuses → Fuses): (s.onFuses f).teardown = s.teardown := rfl
@[simp] theorem State.onFuses_hot (s : State) (f : Fuses → Fuses): (s.onFuses f).hot = s.hot := rfl
@[simp] theorem State.onFuses_cold (s : State) (f : Fuses → Fuses): (s.onFuses f).cold = s.cold := rfl
@[simp] theorem State.onFuses_vault (s : State) (f : Fuses → Fuses): (s.onFuses f).vault = s.vault := rfl
@[simp] theorem State.onFuses_flt (s : State) (f : Fuses → Fuses): (s.onFuses f).flt = s.flt := rfl
@[simp] theorem State.onFuses_layout (s : State) (f : Fuses → Fuses): (s.onFuses f).layout = s.layout := rfl
@[simp] theorem State.onFuses_flash (s : State) (f : Fuses → Fuses): (s.onFuses f).flash = s.flash := rfl
@[simp] theorem State.onFuses_qos (s : State) (f : Fuses → Fuses): (s.onFuses f).qos = s.qos := rfl
@[simp] theorem State.onFuses_noc (s : State) (f : Fuses → Fuses): (s.onFuses f).noc = s.noc := rfl
@[simp] theorem State.onFuses_nme (s : State) (f : Fuses → Fuses): (s.onFuses f).nme = s.nme := rfl
@[simp] theorem State.onFuses_dram (s : State) (f : Fuses → Fuses): (s.onFuses f).dram = s.dram := rfl
@[simp] theorem State.onFuses_pwr (s : State) (f : Fuses → Fuses): (s.onFuses f).pwr = s.pwr := rfl
@[simp] theorem State.onFuses_sup (s : State) (f : Fuses → Fuses): (s.onFuses f).sup = s.sup := rfl
@[simp] theorem State.onFuses_clocks (s : State) (f : Fuses → Fuses): (s.onFuses f).clocks = s.clocks := rfl
@[simp] theorem State.onFuses_rst (s : State) (f : Fuses → Fuses): (s.onFuses f).rst = s.rst := rfl
@[simp] theorem State.onFuses_pmu (s : State) (f : Fuses → Fuses): (s.onFuses f).pmu = s.pmu := rfl
@[simp] theorem State.onFuses_mgmt (s : State) (f : Fuses → Fuses): (s.onFuses f).mgmt = s.mgmt := rfl
@[simp] theorem State.onFuses_pending (s : State) (f : Fuses → Fuses): (s.onFuses f).pending = s.pending := rfl
@[simp] theorem State.onFuses_reg (s : State) (f : Fuses → Fuses) (at_ : Nat) : (s.onFuses f).reg at_ = s.reg at_ := rfl
@[simp] theorem State.onFuses_fld (s : State) (f : Fuses → Fuses) (g : Reg.FRef) : (s.onFuses f).fld g = s.fld g := rfl
@[simp] theorem State.onFuses_on (s : State) (f : Fuses → Fuses) (g : Reg.FRef) : (s.onFuses f).on g = s.on g := rfl

/-! `State.onPmu` -/
@[simp] theorem State.onPmu_clk (s : State) (f : Pmu → Pmu): (s.onPmu f).clk = s.clk := rfl
@[simp] theorem State.onPmu_free (s : State) (f : Pmu → Pmu): (s.onPmu f).free = s.free := rfl
@[simp] theorem State.onPmu_nextId (s : State) (f : Pmu → Pmu): (s.onPmu f).nextId = s.nextId := rfl
@[simp] theorem State.onPmu_regs (s : State) (f : Pmu → Pmu): (s.onPmu f).regs = s.regs := rfl
@[simp] theorem State.onPmu_paths (s : State) (f : Pmu → Pmu): (s.onPmu f).paths = s.paths := rfl
@[simp] theorem State.onPmu_flight (s : State) (f : Pmu → Pmu): (s.onPmu f).flight = s.flight := rfl
@[simp] theorem State.onPmu_replies (s : State) (f : Pmu → Pmu): (s.onPmu f).replies = s.replies := rfl
@[simp] theorem State.onPmu_out (s : State) (f : Pmu → Pmu): (s.onPmu f).out = s.out := rfl
@[simp] theorem State.onPmu_heads (s : State) (f : Pmu → Pmu): (s.onPmu f).heads = s.heads := rfl
@[simp] theorem State.onPmu_lds (s : State) (f : Pmu → Pmu): (s.onPmu f).lds = s.lds := rfl
@[simp] theorem State.onPmu_slices (s : State) (f : Pmu → Pmu): (s.onPmu f).slices = s.slices := rfl
@[simp] theorem State.onPmu_takeovers (s : State) (f : Pmu → Pmu): (s.onPmu f).takeovers = s.takeovers := rfl
@[simp] theorem State.onPmu_dbLost (s : State) (f : Pmu → Pmu): (s.onPmu f).dbLost = s.dbLost := rfl
@[simp] theorem State.onPmu_teardown (s : State) (f : Pmu → Pmu): (s.onPmu f).teardown = s.teardown := rfl
@[simp] theorem State.onPmu_hot (s : State) (f : Pmu → Pmu): (s.onPmu f).hot = s.hot := rfl
@[simp] theorem State.onPmu_cold (s : State) (f : Pmu → Pmu): (s.onPmu f).cold = s.cold := rfl
@[simp] theorem State.onPmu_vault (s : State) (f : Pmu → Pmu): (s.onPmu f).vault = s.vault := rfl
@[simp] theorem State.onPmu_flt (s : State) (f : Pmu → Pmu): (s.onPmu f).flt = s.flt := rfl
@[simp] theorem State.onPmu_layout (s : State) (f : Pmu → Pmu): (s.onPmu f).layout = s.layout := rfl
@[simp] theorem State.onPmu_flash (s : State) (f : Pmu → Pmu): (s.onPmu f).flash = s.flash := rfl
@[simp] theorem State.onPmu_fuses (s : State) (f : Pmu → Pmu): (s.onPmu f).fuses = s.fuses := rfl
@[simp] theorem State.onPmu_qos (s : State) (f : Pmu → Pmu): (s.onPmu f).qos = s.qos := rfl
@[simp] theorem State.onPmu_noc (s : State) (f : Pmu → Pmu): (s.onPmu f).noc = s.noc := rfl
@[simp] theorem State.onPmu_nme (s : State) (f : Pmu → Pmu): (s.onPmu f).nme = s.nme := rfl
@[simp] theorem State.onPmu_dram (s : State) (f : Pmu → Pmu): (s.onPmu f).dram = s.dram := rfl
@[simp] theorem State.onPmu_pwr (s : State) (f : Pmu → Pmu): (s.onPmu f).pwr = s.pwr := rfl
@[simp] theorem State.onPmu_sup (s : State) (f : Pmu → Pmu): (s.onPmu f).sup = s.sup := rfl
@[simp] theorem State.onPmu_clocks (s : State) (f : Pmu → Pmu): (s.onPmu f).clocks = s.clocks := rfl
@[simp] theorem State.onPmu_rst (s : State) (f : Pmu → Pmu): (s.onPmu f).rst = s.rst := rfl
@[simp] theorem State.onPmu_mgmt (s : State) (f : Pmu → Pmu): (s.onPmu f).mgmt = s.mgmt := rfl
@[simp] theorem State.onPmu_pending (s : State) (f : Pmu → Pmu): (s.onPmu f).pending = s.pending := rfl
@[simp] theorem State.onPmu_reg (s : State) (f : Pmu → Pmu) (at_ : Nat) : (s.onPmu f).reg at_ = s.reg at_ := rfl
@[simp] theorem State.onPmu_fld (s : State) (f : Pmu → Pmu) (g : Reg.FRef) : (s.onPmu f).fld g = s.fld g := rfl
@[simp] theorem State.onPmu_on (s : State) (f : Pmu → Pmu) (g : Reg.FRef) : (s.onPmu f).on g = s.on g := rfl

/-! `State.updHead` -/
@[simp] theorem State.updHead_clk (s : State) (k : Nat) (f : Head → Head): (s.updHead k f).clk = s.clk := rfl
@[simp] theorem State.updHead_free (s : State) (k : Nat) (f : Head → Head): (s.updHead k f).free = s.free := rfl
@[simp] theorem State.updHead_nextId (s : State) (k : Nat) (f : Head → Head): (s.updHead k f).nextId = s.nextId := rfl
@[simp] theorem State.updHead_regs (s : State) (k : Nat) (f : Head → Head): (s.updHead k f).regs = s.regs := rfl
@[simp] theorem State.updHead_paths (s : State) (k : Nat) (f : Head → Head): (s.updHead k f).paths = s.paths := rfl
@[simp] theorem State.updHead_flight (s : State) (k : Nat) (f : Head → Head): (s.updHead k f).flight = s.flight := rfl
@[simp] theorem State.updHead_replies (s : State) (k : Nat) (f : Head → Head): (s.updHead k f).replies = s.replies := rfl
@[simp] theorem State.updHead_out (s : State) (k : Nat) (f : Head → Head): (s.updHead k f).out = s.out := rfl
@[simp] theorem State.updHead_lds (s : State) (k : Nat) (f : Head → Head): (s.updHead k f).lds = s.lds := rfl
@[simp] theorem State.updHead_slices (s : State) (k : Nat) (f : Head → Head): (s.updHead k f).slices = s.slices := rfl
@[simp] theorem State.updHead_takeovers (s : State) (k : Nat) (f : Head → Head): (s.updHead k f).takeovers = s.takeovers := rfl
@[simp] theorem State.updHead_dbLost (s : State) (k : Nat) (f : Head → Head): (s.updHead k f).dbLost = s.dbLost := rfl
@[simp] theorem State.updHead_teardown (s : State) (k : Nat) (f : Head → Head): (s.updHead k f).teardown = s.teardown := rfl
@[simp] theorem State.updHead_hot (s : State) (k : Nat) (f : Head → Head): (s.updHead k f).hot = s.hot := rfl
@[simp] theorem State.updHead_cold (s : State) (k : Nat) (f : Head → Head): (s.updHead k f).cold = s.cold := rfl
@[simp] theorem State.updHead_vault (s : State) (k : Nat) (f : Head → Head): (s.updHead k f).vault = s.vault := rfl
@[simp] theorem State.updHead_flt (s : State) (k : Nat) (f : Head → Head): (s.updHead k f).flt = s.flt := rfl
@[simp] theorem State.updHead_layout (s : State) (k : Nat) (f : Head → Head): (s.updHead k f).layout = s.layout := rfl
@[simp] theorem State.updHead_flash (s : State) (k : Nat) (f : Head → Head): (s.updHead k f).flash = s.flash := rfl
@[simp] theorem State.updHead_fuses (s : State) (k : Nat) (f : Head → Head): (s.updHead k f).fuses = s.fuses := rfl
@[simp] theorem State.updHead_qos (s : State) (k : Nat) (f : Head → Head): (s.updHead k f).qos = s.qos := rfl
@[simp] theorem State.updHead_noc (s : State) (k : Nat) (f : Head → Head): (s.updHead k f).noc = s.noc := rfl
@[simp] theorem State.updHead_nme (s : State) (k : Nat) (f : Head → Head): (s.updHead k f).nme = s.nme := rfl
@[simp] theorem State.updHead_dram (s : State) (k : Nat) (f : Head → Head): (s.updHead k f).dram = s.dram := rfl
@[simp] theorem State.updHead_pwr (s : State) (k : Nat) (f : Head → Head): (s.updHead k f).pwr = s.pwr := rfl
@[simp] theorem State.updHead_sup (s : State) (k : Nat) (f : Head → Head): (s.updHead k f).sup = s.sup := rfl
@[simp] theorem State.updHead_clocks (s : State) (k : Nat) (f : Head → Head): (s.updHead k f).clocks = s.clocks := rfl
@[simp] theorem State.updHead_rst (s : State) (k : Nat) (f : Head → Head): (s.updHead k f).rst = s.rst := rfl
@[simp] theorem State.updHead_pmu (s : State) (k : Nat) (f : Head → Head): (s.updHead k f).pmu = s.pmu := rfl
@[simp] theorem State.updHead_mgmt (s : State) (k : Nat) (f : Head → Head): (s.updHead k f).mgmt = s.mgmt := rfl
@[simp] theorem State.updHead_pending (s : State) (k : Nat) (f : Head → Head): (s.updHead k f).pending = s.pending := rfl
@[simp] theorem State.updHead_reg (s : State) (k : Nat) (f : Head → Head) (at_ : Nat) : (s.updHead k f).reg at_ = s.reg at_ := rfl
@[simp] theorem State.updHead_fld (s : State) (k : Nat) (f : Head → Head) (g : Reg.FRef) : (s.updHead k f).fld g = s.fld g := rfl
@[simp] theorem State.updHead_on (s : State) (k : Nat) (f : Head → Head) (g : Reg.FRef) : (s.updHead k f).on g = s.on g := rfl

/-! `State.updLd` -/
@[simp] theorem State.updLd_clk (s : State) (k : Nat) (f : Ld → Ld): (s.updLd k f).clk = s.clk := rfl
@[simp] theorem State.updLd_free (s : State) (k : Nat) (f : Ld → Ld): (s.updLd k f).free = s.free := rfl
@[simp] theorem State.updLd_nextId (s : State) (k : Nat) (f : Ld → Ld): (s.updLd k f).nextId = s.nextId := rfl
@[simp] theorem State.updLd_regs (s : State) (k : Nat) (f : Ld → Ld): (s.updLd k f).regs = s.regs := rfl
@[simp] theorem State.updLd_paths (s : State) (k : Nat) (f : Ld → Ld): (s.updLd k f).paths = s.paths := rfl
@[simp] theorem State.updLd_flight (s : State) (k : Nat) (f : Ld → Ld): (s.updLd k f).flight = s.flight := rfl
@[simp] theorem State.updLd_replies (s : State) (k : Nat) (f : Ld → Ld): (s.updLd k f).replies = s.replies := rfl
@[simp] theorem State.updLd_out (s : State) (k : Nat) (f : Ld → Ld): (s.updLd k f).out = s.out := rfl
@[simp] theorem State.updLd_heads (s : State) (k : Nat) (f : Ld → Ld): (s.updLd k f).heads = s.heads := rfl
@[simp] theorem State.updLd_slices (s : State) (k : Nat) (f : Ld → Ld): (s.updLd k f).slices = s.slices := rfl
@[simp] theorem State.updLd_takeovers (s : State) (k : Nat) (f : Ld → Ld): (s.updLd k f).takeovers = s.takeovers := rfl
@[simp] theorem State.updLd_dbLost (s : State) (k : Nat) (f : Ld → Ld): (s.updLd k f).dbLost = s.dbLost := rfl
@[simp] theorem State.updLd_teardown (s : State) (k : Nat) (f : Ld → Ld): (s.updLd k f).teardown = s.teardown := rfl
@[simp] theorem State.updLd_hot (s : State) (k : Nat) (f : Ld → Ld): (s.updLd k f).hot = s.hot := rfl
@[simp] theorem State.updLd_cold (s : State) (k : Nat) (f : Ld → Ld): (s.updLd k f).cold = s.cold := rfl
@[simp] theorem State.updLd_vault (s : State) (k : Nat) (f : Ld → Ld): (s.updLd k f).vault = s.vault := rfl
@[simp] theorem State.updLd_flt (s : State) (k : Nat) (f : Ld → Ld): (s.updLd k f).flt = s.flt := rfl
@[simp] theorem State.updLd_layout (s : State) (k : Nat) (f : Ld → Ld): (s.updLd k f).layout = s.layout := rfl
@[simp] theorem State.updLd_flash (s : State) (k : Nat) (f : Ld → Ld): (s.updLd k f).flash = s.flash := rfl
@[simp] theorem State.updLd_fuses (s : State) (k : Nat) (f : Ld → Ld): (s.updLd k f).fuses = s.fuses := rfl
@[simp] theorem State.updLd_qos (s : State) (k : Nat) (f : Ld → Ld): (s.updLd k f).qos = s.qos := rfl
@[simp] theorem State.updLd_noc (s : State) (k : Nat) (f : Ld → Ld): (s.updLd k f).noc = s.noc := rfl
@[simp] theorem State.updLd_nme (s : State) (k : Nat) (f : Ld → Ld): (s.updLd k f).nme = s.nme := rfl
@[simp] theorem State.updLd_dram (s : State) (k : Nat) (f : Ld → Ld): (s.updLd k f).dram = s.dram := rfl
@[simp] theorem State.updLd_pwr (s : State) (k : Nat) (f : Ld → Ld): (s.updLd k f).pwr = s.pwr := rfl
@[simp] theorem State.updLd_sup (s : State) (k : Nat) (f : Ld → Ld): (s.updLd k f).sup = s.sup := rfl
@[simp] theorem State.updLd_clocks (s : State) (k : Nat) (f : Ld → Ld): (s.updLd k f).clocks = s.clocks := rfl
@[simp] theorem State.updLd_rst (s : State) (k : Nat) (f : Ld → Ld): (s.updLd k f).rst = s.rst := rfl
@[simp] theorem State.updLd_pmu (s : State) (k : Nat) (f : Ld → Ld): (s.updLd k f).pmu = s.pmu := rfl
@[simp] theorem State.updLd_mgmt (s : State) (k : Nat) (f : Ld → Ld): (s.updLd k f).mgmt = s.mgmt := rfl
@[simp] theorem State.updLd_pending (s : State) (k : Nat) (f : Ld → Ld): (s.updLd k f).pending = s.pending := rfl
@[simp] theorem State.updLd_reg (s : State) (k : Nat) (f : Ld → Ld) (at_ : Nat) : (s.updLd k f).reg at_ = s.reg at_ := rfl
@[simp] theorem State.updLd_fld (s : State) (k : Nat) (f : Ld → Ld) (g : Reg.FRef) : (s.updLd k f).fld g = s.fld g := rfl
@[simp] theorem State.updLd_on (s : State) (k : Nat) (f : Ld → Ld) (g : Reg.FRef) : (s.updLd k f).on g = s.on g := rfl

/-! `State.updSlice` -/
@[simp] theorem State.updSlice_clk (s : State) (k : Nat) (f : Slice → Slice): (s.updSlice k f).clk = s.clk := rfl
@[simp] theorem State.updSlice_free (s : State) (k : Nat) (f : Slice → Slice): (s.updSlice k f).free = s.free := rfl
@[simp] theorem State.updSlice_nextId (s : State) (k : Nat) (f : Slice → Slice): (s.updSlice k f).nextId = s.nextId := rfl
@[simp] theorem State.updSlice_regs (s : State) (k : Nat) (f : Slice → Slice): (s.updSlice k f).regs = s.regs := rfl
@[simp] theorem State.updSlice_paths (s : State) (k : Nat) (f : Slice → Slice): (s.updSlice k f).paths = s.paths := rfl
@[simp] theorem State.updSlice_flight (s : State) (k : Nat) (f : Slice → Slice): (s.updSlice k f).flight = s.flight := rfl
@[simp] theorem State.updSlice_replies (s : State) (k : Nat) (f : Slice → Slice): (s.updSlice k f).replies = s.replies := rfl
@[simp] theorem State.updSlice_out (s : State) (k : Nat) (f : Slice → Slice): (s.updSlice k f).out = s.out := rfl
@[simp] theorem State.updSlice_heads (s : State) (k : Nat) (f : Slice → Slice): (s.updSlice k f).heads = s.heads := rfl
@[simp] theorem State.updSlice_lds (s : State) (k : Nat) (f : Slice → Slice): (s.updSlice k f).lds = s.lds := rfl
@[simp] theorem State.updSlice_takeovers (s : State) (k : Nat) (f : Slice → Slice): (s.updSlice k f).takeovers = s.takeovers := rfl
@[simp] theorem State.updSlice_dbLost (s : State) (k : Nat) (f : Slice → Slice): (s.updSlice k f).dbLost = s.dbLost := rfl
@[simp] theorem State.updSlice_teardown (s : State) (k : Nat) (f : Slice → Slice): (s.updSlice k f).teardown = s.teardown := rfl
@[simp] theorem State.updSlice_hot (s : State) (k : Nat) (f : Slice → Slice): (s.updSlice k f).hot = s.hot := rfl
@[simp] theorem State.updSlice_cold (s : State) (k : Nat) (f : Slice → Slice): (s.updSlice k f).cold = s.cold := rfl
@[simp] theorem State.updSlice_vault (s : State) (k : Nat) (f : Slice → Slice): (s.updSlice k f).vault = s.vault := rfl
@[simp] theorem State.updSlice_flt (s : State) (k : Nat) (f : Slice → Slice): (s.updSlice k f).flt = s.flt := rfl
@[simp] theorem State.updSlice_layout (s : State) (k : Nat) (f : Slice → Slice): (s.updSlice k f).layout = s.layout := rfl
@[simp] theorem State.updSlice_flash (s : State) (k : Nat) (f : Slice → Slice): (s.updSlice k f).flash = s.flash := rfl
@[simp] theorem State.updSlice_fuses (s : State) (k : Nat) (f : Slice → Slice): (s.updSlice k f).fuses = s.fuses := rfl
@[simp] theorem State.updSlice_qos (s : State) (k : Nat) (f : Slice → Slice): (s.updSlice k f).qos = s.qos := rfl
@[simp] theorem State.updSlice_noc (s : State) (k : Nat) (f : Slice → Slice): (s.updSlice k f).noc = s.noc := rfl
@[simp] theorem State.updSlice_nme (s : State) (k : Nat) (f : Slice → Slice): (s.updSlice k f).nme = s.nme := rfl
@[simp] theorem State.updSlice_dram (s : State) (k : Nat) (f : Slice → Slice): (s.updSlice k f).dram = s.dram := rfl
@[simp] theorem State.updSlice_pwr (s : State) (k : Nat) (f : Slice → Slice): (s.updSlice k f).pwr = s.pwr := rfl
@[simp] theorem State.updSlice_sup (s : State) (k : Nat) (f : Slice → Slice): (s.updSlice k f).sup = s.sup := rfl
@[simp] theorem State.updSlice_clocks (s : State) (k : Nat) (f : Slice → Slice): (s.updSlice k f).clocks = s.clocks := rfl
@[simp] theorem State.updSlice_rst (s : State) (k : Nat) (f : Slice → Slice): (s.updSlice k f).rst = s.rst := rfl
@[simp] theorem State.updSlice_pmu (s : State) (k : Nat) (f : Slice → Slice): (s.updSlice k f).pmu = s.pmu := rfl
@[simp] theorem State.updSlice_mgmt (s : State) (k : Nat) (f : Slice → Slice): (s.updSlice k f).mgmt = s.mgmt := rfl
@[simp] theorem State.updSlice_pending (s : State) (k : Nat) (f : Slice → Slice): (s.updSlice k f).pending = s.pending := rfl
@[simp] theorem State.updSlice_reg (s : State) (k : Nat) (f : Slice → Slice) (at_ : Nat) : (s.updSlice k f).reg at_ = s.reg at_ := rfl
@[simp] theorem State.updSlice_fld (s : State) (k : Nat) (f : Slice → Slice) (g : Reg.FRef) : (s.updSlice k f).fld g = s.fld g := rfl
@[simp] theorem State.updSlice_on (s : State) (k : Nat) (f : Slice → Slice) (g : Reg.FRef) : (s.updSlice k f).on g = s.on g := rfl

/-! `State.updDcc` -/
@[simp] theorem State.updDcc_clk (s : State) (k : Nat) (f : Dcc → Dcc): (s.updDcc k f).clk = s.clk := rfl
@[simp] theorem State.updDcc_free (s : State) (k : Nat) (f : Dcc → Dcc): (s.updDcc k f).free = s.free := rfl
@[simp] theorem State.updDcc_nextId (s : State) (k : Nat) (f : Dcc → Dcc): (s.updDcc k f).nextId = s.nextId := rfl
@[simp] theorem State.updDcc_regs (s : State) (k : Nat) (f : Dcc → Dcc): (s.updDcc k f).regs = s.regs := rfl
@[simp] theorem State.updDcc_paths (s : State) (k : Nat) (f : Dcc → Dcc): (s.updDcc k f).paths = s.paths := rfl
@[simp] theorem State.updDcc_flight (s : State) (k : Nat) (f : Dcc → Dcc): (s.updDcc k f).flight = s.flight := rfl
@[simp] theorem State.updDcc_replies (s : State) (k : Nat) (f : Dcc → Dcc): (s.updDcc k f).replies = s.replies := rfl
@[simp] theorem State.updDcc_out (s : State) (k : Nat) (f : Dcc → Dcc): (s.updDcc k f).out = s.out := rfl
@[simp] theorem State.updDcc_heads (s : State) (k : Nat) (f : Dcc → Dcc): (s.updDcc k f).heads = s.heads := rfl
@[simp] theorem State.updDcc_lds (s : State) (k : Nat) (f : Dcc → Dcc): (s.updDcc k f).lds = s.lds := rfl
@[simp] theorem State.updDcc_slices (s : State) (k : Nat) (f : Dcc → Dcc): (s.updDcc k f).slices = s.slices := rfl
@[simp] theorem State.updDcc_takeovers (s : State) (k : Nat) (f : Dcc → Dcc): (s.updDcc k f).takeovers = s.takeovers := rfl
@[simp] theorem State.updDcc_dbLost (s : State) (k : Nat) (f : Dcc → Dcc): (s.updDcc k f).dbLost = s.dbLost := rfl
@[simp] theorem State.updDcc_teardown (s : State) (k : Nat) (f : Dcc → Dcc): (s.updDcc k f).teardown = s.teardown := rfl
@[simp] theorem State.updDcc_hot (s : State) (k : Nat) (f : Dcc → Dcc): (s.updDcc k f).hot = s.hot := rfl
@[simp] theorem State.updDcc_cold (s : State) (k : Nat) (f : Dcc → Dcc): (s.updDcc k f).cold = s.cold := rfl
@[simp] theorem State.updDcc_vault (s : State) (k : Nat) (f : Dcc → Dcc): (s.updDcc k f).vault = s.vault := rfl
@[simp] theorem State.updDcc_flt (s : State) (k : Nat) (f : Dcc → Dcc): (s.updDcc k f).flt = s.flt := rfl
@[simp] theorem State.updDcc_layout (s : State) (k : Nat) (f : Dcc → Dcc): (s.updDcc k f).layout = s.layout := rfl
@[simp] theorem State.updDcc_flash (s : State) (k : Nat) (f : Dcc → Dcc): (s.updDcc k f).flash = s.flash := rfl
@[simp] theorem State.updDcc_fuses (s : State) (k : Nat) (f : Dcc → Dcc): (s.updDcc k f).fuses = s.fuses := rfl
@[simp] theorem State.updDcc_qos (s : State) (k : Nat) (f : Dcc → Dcc): (s.updDcc k f).qos = s.qos := rfl
@[simp] theorem State.updDcc_noc (s : State) (k : Nat) (f : Dcc → Dcc): (s.updDcc k f).noc = s.noc := rfl
@[simp] theorem State.updDcc_nme (s : State) (k : Nat) (f : Dcc → Dcc): (s.updDcc k f).nme = s.nme := rfl
@[simp] theorem State.updDcc_pwr (s : State) (k : Nat) (f : Dcc → Dcc): (s.updDcc k f).pwr = s.pwr := rfl
@[simp] theorem State.updDcc_sup (s : State) (k : Nat) (f : Dcc → Dcc): (s.updDcc k f).sup = s.sup := rfl
@[simp] theorem State.updDcc_clocks (s : State) (k : Nat) (f : Dcc → Dcc): (s.updDcc k f).clocks = s.clocks := rfl
@[simp] theorem State.updDcc_rst (s : State) (k : Nat) (f : Dcc → Dcc): (s.updDcc k f).rst = s.rst := rfl
@[simp] theorem State.updDcc_pmu (s : State) (k : Nat) (f : Dcc → Dcc): (s.updDcc k f).pmu = s.pmu := rfl
@[simp] theorem State.updDcc_mgmt (s : State) (k : Nat) (f : Dcc → Dcc): (s.updDcc k f).mgmt = s.mgmt := rfl
@[simp] theorem State.updDcc_pending (s : State) (k : Nat) (f : Dcc → Dcc): (s.updDcc k f).pending = s.pending := rfl
@[simp] theorem State.updDcc_reg (s : State) (k : Nat) (f : Dcc → Dcc) (at_ : Nat) : (s.updDcc k f).reg at_ = s.reg at_ := rfl
@[simp] theorem State.updDcc_fld (s : State) (k : Nat) (f : Dcc → Dcc) (g : Reg.FRef) : (s.updDcc k f).fld g = s.fld g := rfl
@[simp] theorem State.updDcc_on (s : State) (k : Nat) (f : Dcc → Dcc) (g : Reg.FRef) : (s.updDcc k f).on g = s.on g := rfl

/-! `State.updGroup` -/
@[simp] theorem State.updGroup_clk (s : State) (k : Nat) (f : Group → Group): (s.updGroup k f).clk = s.clk := rfl
@[simp] theorem State.updGroup_free (s : State) (k : Nat) (f : Group → Group): (s.updGroup k f).free = s.free := rfl
@[simp] theorem State.updGroup_nextId (s : State) (k : Nat) (f : Group → Group): (s.updGroup k f).nextId = s.nextId := rfl
@[simp] theorem State.updGroup_regs (s : State) (k : Nat) (f : Group → Group): (s.updGroup k f).regs = s.regs := rfl
@[simp] theorem State.updGroup_paths (s : State) (k : Nat) (f : Group → Group): (s.updGroup k f).paths = s.paths := rfl
@[simp] theorem State.updGroup_flight (s : State) (k : Nat) (f : Group → Group): (s.updGroup k f).flight = s.flight := rfl
@[simp] theorem State.updGroup_replies (s : State) (k : Nat) (f : Group → Group): (s.updGroup k f).replies = s.replies := rfl
@[simp] theorem State.updGroup_out (s : State) (k : Nat) (f : Group → Group): (s.updGroup k f).out = s.out := rfl
@[simp] theorem State.updGroup_heads (s : State) (k : Nat) (f : Group → Group): (s.updGroup k f).heads = s.heads := rfl
@[simp] theorem State.updGroup_lds (s : State) (k : Nat) (f : Group → Group): (s.updGroup k f).lds = s.lds := rfl
@[simp] theorem State.updGroup_slices (s : State) (k : Nat) (f : Group → Group): (s.updGroup k f).slices = s.slices := rfl
@[simp] theorem State.updGroup_takeovers (s : State) (k : Nat) (f : Group → Group): (s.updGroup k f).takeovers = s.takeovers := rfl
@[simp] theorem State.updGroup_dbLost (s : State) (k : Nat) (f : Group → Group): (s.updGroup k f).dbLost = s.dbLost := rfl
@[simp] theorem State.updGroup_teardown (s : State) (k : Nat) (f : Group → Group): (s.updGroup k f).teardown = s.teardown := rfl
@[simp] theorem State.updGroup_hot (s : State) (k : Nat) (f : Group → Group): (s.updGroup k f).hot = s.hot := rfl
@[simp] theorem State.updGroup_cold (s : State) (k : Nat) (f : Group → Group): (s.updGroup k f).cold = s.cold := rfl
@[simp] theorem State.updGroup_vault (s : State) (k : Nat) (f : Group → Group): (s.updGroup k f).vault = s.vault := rfl
@[simp] theorem State.updGroup_flt (s : State) (k : Nat) (f : Group → Group): (s.updGroup k f).flt = s.flt := rfl
@[simp] theorem State.updGroup_layout (s : State) (k : Nat) (f : Group → Group): (s.updGroup k f).layout = s.layout := rfl
@[simp] theorem State.updGroup_flash (s : State) (k : Nat) (f : Group → Group): (s.updGroup k f).flash = s.flash := rfl
@[simp] theorem State.updGroup_fuses (s : State) (k : Nat) (f : Group → Group): (s.updGroup k f).fuses = s.fuses := rfl
@[simp] theorem State.updGroup_qos (s : State) (k : Nat) (f : Group → Group): (s.updGroup k f).qos = s.qos := rfl
@[simp] theorem State.updGroup_noc (s : State) (k : Nat) (f : Group → Group): (s.updGroup k f).noc = s.noc := rfl
@[simp] theorem State.updGroup_nme (s : State) (k : Nat) (f : Group → Group): (s.updGroup k f).nme = s.nme := rfl
@[simp] theorem State.updGroup_pwr (s : State) (k : Nat) (f : Group → Group): (s.updGroup k f).pwr = s.pwr := rfl
@[simp] theorem State.updGroup_sup (s : State) (k : Nat) (f : Group → Group): (s.updGroup k f).sup = s.sup := rfl
@[simp] theorem State.updGroup_clocks (s : State) (k : Nat) (f : Group → Group): (s.updGroup k f).clocks = s.clocks := rfl
@[simp] theorem State.updGroup_rst (s : State) (k : Nat) (f : Group → Group): (s.updGroup k f).rst = s.rst := rfl
@[simp] theorem State.updGroup_pmu (s : State) (k : Nat) (f : Group → Group): (s.updGroup k f).pmu = s.pmu := rfl
@[simp] theorem State.updGroup_mgmt (s : State) (k : Nat) (f : Group → Group): (s.updGroup k f).mgmt = s.mgmt := rfl
@[simp] theorem State.updGroup_pending (s : State) (k : Nat) (f : Group → Group): (s.updGroup k f).pending = s.pending := rfl
@[simp] theorem State.updGroup_reg (s : State) (k : Nat) (f : Group → Group) (at_ : Nat) : (s.updGroup k f).reg at_ = s.reg at_ := rfl
@[simp] theorem State.updGroup_fld (s : State) (k : Nat) (f : Group → Group) (g : Reg.FRef) : (s.updGroup k f).fld g = s.fld g := rfl
@[simp] theorem State.updGroup_on (s : State) (k : Nat) (f : Group → Group) (g : Reg.FRef) : (s.updGroup k f).on g = s.on g := rfl

/-! `State.updChan` -/
@[simp] theorem State.updChan_clk (s : State) (k : Nat) (f : Channel → Channel): (s.updChan k f).clk = s.clk := rfl
@[simp] theorem State.updChan_free (s : State) (k : Nat) (f : Channel → Channel): (s.updChan k f).free = s.free := rfl
@[simp] theorem State.updChan_nextId (s : State) (k : Nat) (f : Channel → Channel): (s.updChan k f).nextId = s.nextId := rfl
@[simp] theorem State.updChan_regs (s : State) (k : Nat) (f : Channel → Channel): (s.updChan k f).regs = s.regs := rfl
@[simp] theorem State.updChan_paths (s : State) (k : Nat) (f : Channel → Channel): (s.updChan k f).paths = s.paths := rfl
@[simp] theorem State.updChan_flight (s : State) (k : Nat) (f : Channel → Channel): (s.updChan k f).flight = s.flight := rfl
@[simp] theorem State.updChan_replies (s : State) (k : Nat) (f : Channel → Channel): (s.updChan k f).replies = s.replies := rfl
@[simp] theorem State.updChan_out (s : State) (k : Nat) (f : Channel → Channel): (s.updChan k f).out = s.out := rfl
@[simp] theorem State.updChan_heads (s : State) (k : Nat) (f : Channel → Channel): (s.updChan k f).heads = s.heads := rfl
@[simp] theorem State.updChan_lds (s : State) (k : Nat) (f : Channel → Channel): (s.updChan k f).lds = s.lds := rfl
@[simp] theorem State.updChan_slices (s : State) (k : Nat) (f : Channel → Channel): (s.updChan k f).slices = s.slices := rfl
@[simp] theorem State.updChan_takeovers (s : State) (k : Nat) (f : Channel → Channel): (s.updChan k f).takeovers = s.takeovers := rfl
@[simp] theorem State.updChan_dbLost (s : State) (k : Nat) (f : Channel → Channel): (s.updChan k f).dbLost = s.dbLost := rfl
@[simp] theorem State.updChan_teardown (s : State) (k : Nat) (f : Channel → Channel): (s.updChan k f).teardown = s.teardown := rfl
@[simp] theorem State.updChan_hot (s : State) (k : Nat) (f : Channel → Channel): (s.updChan k f).hot = s.hot := rfl
@[simp] theorem State.updChan_cold (s : State) (k : Nat) (f : Channel → Channel): (s.updChan k f).cold = s.cold := rfl
@[simp] theorem State.updChan_vault (s : State) (k : Nat) (f : Channel → Channel): (s.updChan k f).vault = s.vault := rfl
@[simp] theorem State.updChan_flt (s : State) (k : Nat) (f : Channel → Channel): (s.updChan k f).flt = s.flt := rfl
@[simp] theorem State.updChan_layout (s : State) (k : Nat) (f : Channel → Channel): (s.updChan k f).layout = s.layout := rfl
@[simp] theorem State.updChan_flash (s : State) (k : Nat) (f : Channel → Channel): (s.updChan k f).flash = s.flash := rfl
@[simp] theorem State.updChan_fuses (s : State) (k : Nat) (f : Channel → Channel): (s.updChan k f).fuses = s.fuses := rfl
@[simp] theorem State.updChan_qos (s : State) (k : Nat) (f : Channel → Channel): (s.updChan k f).qos = s.qos := rfl
@[simp] theorem State.updChan_noc (s : State) (k : Nat) (f : Channel → Channel): (s.updChan k f).noc = s.noc := rfl
@[simp] theorem State.updChan_nme (s : State) (k : Nat) (f : Channel → Channel): (s.updChan k f).nme = s.nme := rfl
@[simp] theorem State.updChan_dram (s : State) (k : Nat) (f : Channel → Channel): (s.updChan k f).dram = s.dram := rfl
@[simp] theorem State.updChan_pwr (s : State) (k : Nat) (f : Channel → Channel): (s.updChan k f).pwr = s.pwr := rfl
@[simp] theorem State.updChan_clocks (s : State) (k : Nat) (f : Channel → Channel): (s.updChan k f).clocks = s.clocks := rfl
@[simp] theorem State.updChan_rst (s : State) (k : Nat) (f : Channel → Channel): (s.updChan k f).rst = s.rst := rfl
@[simp] theorem State.updChan_pmu (s : State) (k : Nat) (f : Channel → Channel): (s.updChan k f).pmu = s.pmu := rfl
@[simp] theorem State.updChan_mgmt (s : State) (k : Nat) (f : Channel → Channel): (s.updChan k f).mgmt = s.mgmt := rfl
@[simp] theorem State.updChan_pending (s : State) (k : Nat) (f : Channel → Channel): (s.updChan k f).pending = s.pending := rfl
@[simp] theorem State.updChan_reg (s : State) (k : Nat) (f : Channel → Channel) (at_ : Nat) : (s.updChan k f).reg at_ = s.reg at_ := rfl
@[simp] theorem State.updChan_fld (s : State) (k : Nat) (f : Channel → Channel) (g : Reg.FRef) : (s.updChan k f).fld g = s.fld g := rfl
@[simp] theorem State.updChan_on (s : State) (k : Nat) (f : Channel → Channel) (g : Reg.FRef) : (s.updChan k f).on g = s.on g := rfl

/-! `State.updRing` -/
@[simp] theorem State.updRing_clk (s : State) (k : Nat) (f : Ring → Ring): (s.updRing k f).clk = s.clk := rfl
@[simp] theorem State.updRing_free (s : State) (k : Nat) (f : Ring → Ring): (s.updRing k f).free = s.free := rfl
@[simp] theorem State.updRing_nextId (s : State) (k : Nat) (f : Ring → Ring): (s.updRing k f).nextId = s.nextId := rfl
@[simp] theorem State.updRing_regs (s : State) (k : Nat) (f : Ring → Ring): (s.updRing k f).regs = s.regs := rfl
@[simp] theorem State.updRing_paths (s : State) (k : Nat) (f : Ring → Ring): (s.updRing k f).paths = s.paths := rfl
@[simp] theorem State.updRing_flight (s : State) (k : Nat) (f : Ring → Ring): (s.updRing k f).flight = s.flight := rfl
@[simp] theorem State.updRing_replies (s : State) (k : Nat) (f : Ring → Ring): (s.updRing k f).replies = s.replies := rfl
@[simp] theorem State.updRing_out (s : State) (k : Nat) (f : Ring → Ring): (s.updRing k f).out = s.out := rfl
@[simp] theorem State.updRing_heads (s : State) (k : Nat) (f : Ring → Ring): (s.updRing k f).heads = s.heads := rfl
@[simp] theorem State.updRing_lds (s : State) (k : Nat) (f : Ring → Ring): (s.updRing k f).lds = s.lds := rfl
@[simp] theorem State.updRing_slices (s : State) (k : Nat) (f : Ring → Ring): (s.updRing k f).slices = s.slices := rfl
@[simp] theorem State.updRing_takeovers (s : State) (k : Nat) (f : Ring → Ring): (s.updRing k f).takeovers = s.takeovers := rfl
@[simp] theorem State.updRing_dbLost (s : State) (k : Nat) (f : Ring → Ring): (s.updRing k f).dbLost = s.dbLost := rfl
@[simp] theorem State.updRing_teardown (s : State) (k : Nat) (f : Ring → Ring): (s.updRing k f).teardown = s.teardown := rfl
@[simp] theorem State.updRing_hot (s : State) (k : Nat) (f : Ring → Ring): (s.updRing k f).hot = s.hot := rfl
@[simp] theorem State.updRing_cold (s : State) (k : Nat) (f : Ring → Ring): (s.updRing k f).cold = s.cold := rfl
@[simp] theorem State.updRing_vault (s : State) (k : Nat) (f : Ring → Ring): (s.updRing k f).vault = s.vault := rfl
@[simp] theorem State.updRing_flt (s : State) (k : Nat) (f : Ring → Ring): (s.updRing k f).flt = s.flt := rfl
@[simp] theorem State.updRing_layout (s : State) (k : Nat) (f : Ring → Ring): (s.updRing k f).layout = s.layout := rfl
@[simp] theorem State.updRing_flash (s : State) (k : Nat) (f : Ring → Ring): (s.updRing k f).flash = s.flash := rfl
@[simp] theorem State.updRing_fuses (s : State) (k : Nat) (f : Ring → Ring): (s.updRing k f).fuses = s.fuses := rfl
@[simp] theorem State.updRing_qos (s : State) (k : Nat) (f : Ring → Ring): (s.updRing k f).qos = s.qos := rfl
@[simp] theorem State.updRing_noc (s : State) (k : Nat) (f : Ring → Ring): (s.updRing k f).noc = s.noc := rfl
@[simp] theorem State.updRing_dram (s : State) (k : Nat) (f : Ring → Ring): (s.updRing k f).dram = s.dram := rfl
@[simp] theorem State.updRing_pwr (s : State) (k : Nat) (f : Ring → Ring): (s.updRing k f).pwr = s.pwr := rfl
@[simp] theorem State.updRing_sup (s : State) (k : Nat) (f : Ring → Ring): (s.updRing k f).sup = s.sup := rfl
@[simp] theorem State.updRing_clocks (s : State) (k : Nat) (f : Ring → Ring): (s.updRing k f).clocks = s.clocks := rfl
@[simp] theorem State.updRing_rst (s : State) (k : Nat) (f : Ring → Ring): (s.updRing k f).rst = s.rst := rfl
@[simp] theorem State.updRing_pmu (s : State) (k : Nat) (f : Ring → Ring): (s.updRing k f).pmu = s.pmu := rfl
@[simp] theorem State.updRing_mgmt (s : State) (k : Nat) (f : Ring → Ring): (s.updRing k f).mgmt = s.mgmt := rfl
@[simp] theorem State.updRing_pending (s : State) (k : Nat) (f : Ring → Ring): (s.updRing k f).pending = s.pending := rfl
@[simp] theorem State.updRing_reg (s : State) (k : Nat) (f : Ring → Ring) (at_ : Nat) : (s.updRing k f).reg at_ = s.reg at_ := rfl
@[simp] theorem State.updRing_fld (s : State) (k : Nat) (f : Ring → Ring) (g : Reg.FRef) : (s.updRing k f).fld g = s.fld g := rfl
@[simp] theorem State.updRing_on (s : State) (k : Nat) (f : Ring → Ring) (g : Reg.FRef) : (s.updRing k f).on g = s.on g := rfl

/-! `State.updCinch` -/
@[simp] theorem State.updCinch_clk (s : State) (k : Nat) (f : Cinch → Cinch): (s.updCinch k f).clk = s.clk := rfl
@[simp] theorem State.updCinch_free (s : State) (k : Nat) (f : Cinch → Cinch): (s.updCinch k f).free = s.free := rfl
@[simp] theorem State.updCinch_nextId (s : State) (k : Nat) (f : Cinch → Cinch): (s.updCinch k f).nextId = s.nextId := rfl
@[simp] theorem State.updCinch_regs (s : State) (k : Nat) (f : Cinch → Cinch): (s.updCinch k f).regs = s.regs := rfl
@[simp] theorem State.updCinch_paths (s : State) (k : Nat) (f : Cinch → Cinch): (s.updCinch k f).paths = s.paths := rfl
@[simp] theorem State.updCinch_flight (s : State) (k : Nat) (f : Cinch → Cinch): (s.updCinch k f).flight = s.flight := rfl
@[simp] theorem State.updCinch_replies (s : State) (k : Nat) (f : Cinch → Cinch): (s.updCinch k f).replies = s.replies := rfl
@[simp] theorem State.updCinch_out (s : State) (k : Nat) (f : Cinch → Cinch): (s.updCinch k f).out = s.out := rfl
@[simp] theorem State.updCinch_heads (s : State) (k : Nat) (f : Cinch → Cinch): (s.updCinch k f).heads = s.heads := rfl
@[simp] theorem State.updCinch_lds (s : State) (k : Nat) (f : Cinch → Cinch): (s.updCinch k f).lds = s.lds := rfl
@[simp] theorem State.updCinch_slices (s : State) (k : Nat) (f : Cinch → Cinch): (s.updCinch k f).slices = s.slices := rfl
@[simp] theorem State.updCinch_takeovers (s : State) (k : Nat) (f : Cinch → Cinch): (s.updCinch k f).takeovers = s.takeovers := rfl
@[simp] theorem State.updCinch_dbLost (s : State) (k : Nat) (f : Cinch → Cinch): (s.updCinch k f).dbLost = s.dbLost := rfl
@[simp] theorem State.updCinch_teardown (s : State) (k : Nat) (f : Cinch → Cinch): (s.updCinch k f).teardown = s.teardown := rfl
@[simp] theorem State.updCinch_hot (s : State) (k : Nat) (f : Cinch → Cinch): (s.updCinch k f).hot = s.hot := rfl
@[simp] theorem State.updCinch_cold (s : State) (k : Nat) (f : Cinch → Cinch): (s.updCinch k f).cold = s.cold := rfl
@[simp] theorem State.updCinch_vault (s : State) (k : Nat) (f : Cinch → Cinch): (s.updCinch k f).vault = s.vault := rfl
@[simp] theorem State.updCinch_flt (s : State) (k : Nat) (f : Cinch → Cinch): (s.updCinch k f).flt = s.flt := rfl
@[simp] theorem State.updCinch_layout (s : State) (k : Nat) (f : Cinch → Cinch): (s.updCinch k f).layout = s.layout := rfl
@[simp] theorem State.updCinch_flash (s : State) (k : Nat) (f : Cinch → Cinch): (s.updCinch k f).flash = s.flash := rfl
@[simp] theorem State.updCinch_fuses (s : State) (k : Nat) (f : Cinch → Cinch): (s.updCinch k f).fuses = s.fuses := rfl
@[simp] theorem State.updCinch_noc (s : State) (k : Nat) (f : Cinch → Cinch): (s.updCinch k f).noc = s.noc := rfl
@[simp] theorem State.updCinch_nme (s : State) (k : Nat) (f : Cinch → Cinch): (s.updCinch k f).nme = s.nme := rfl
@[simp] theorem State.updCinch_dram (s : State) (k : Nat) (f : Cinch → Cinch): (s.updCinch k f).dram = s.dram := rfl
@[simp] theorem State.updCinch_pwr (s : State) (k : Nat) (f : Cinch → Cinch): (s.updCinch k f).pwr = s.pwr := rfl
@[simp] theorem State.updCinch_sup (s : State) (k : Nat) (f : Cinch → Cinch): (s.updCinch k f).sup = s.sup := rfl
@[simp] theorem State.updCinch_clocks (s : State) (k : Nat) (f : Cinch → Cinch): (s.updCinch k f).clocks = s.clocks := rfl
@[simp] theorem State.updCinch_rst (s : State) (k : Nat) (f : Cinch → Cinch): (s.updCinch k f).rst = s.rst := rfl
@[simp] theorem State.updCinch_pmu (s : State) (k : Nat) (f : Cinch → Cinch): (s.updCinch k f).pmu = s.pmu := rfl
@[simp] theorem State.updCinch_mgmt (s : State) (k : Nat) (f : Cinch → Cinch): (s.updCinch k f).mgmt = s.mgmt := rfl
@[simp] theorem State.updCinch_pending (s : State) (k : Nat) (f : Cinch → Cinch): (s.updCinch k f).pending = s.pending := rfl
@[simp] theorem State.updCinch_reg (s : State) (k : Nat) (f : Cinch → Cinch) (at_ : Nat) : (s.updCinch k f).reg at_ = s.reg at_ := rfl
@[simp] theorem State.updCinch_fld (s : State) (k : Nat) (f : Cinch → Cinch) (g : Reg.FRef) : (s.updCinch k f).fld g = s.fld g := rfl
@[simp] theorem State.updCinch_on (s : State) (k : Nat) (f : Cinch → Cinch) (g : Reg.FRef) : (s.updCinch k f).on g = s.on g := rfl

/-! `State.updPath` -/
@[simp] theorem State.updPath_clk (s : State) (k : Nat) (f : PathState → PathState): (s.updPath k f).clk = s.clk := rfl
@[simp] theorem State.updPath_free (s : State) (k : Nat) (f : PathState → PathState): (s.updPath k f).free = s.free := rfl
@[simp] theorem State.updPath_nextId (s : State) (k : Nat) (f : PathState → PathState): (s.updPath k f).nextId = s.nextId := rfl
@[simp] theorem State.updPath_regs (s : State) (k : Nat) (f : PathState → PathState): (s.updPath k f).regs = s.regs := rfl
@[simp] theorem State.updPath_flight (s : State) (k : Nat) (f : PathState → PathState): (s.updPath k f).flight = s.flight := rfl
@[simp] theorem State.updPath_replies (s : State) (k : Nat) (f : PathState → PathState): (s.updPath k f).replies = s.replies := rfl
@[simp] theorem State.updPath_out (s : State) (k : Nat) (f : PathState → PathState): (s.updPath k f).out = s.out := rfl
@[simp] theorem State.updPath_heads (s : State) (k : Nat) (f : PathState → PathState): (s.updPath k f).heads = s.heads := rfl
@[simp] theorem State.updPath_lds (s : State) (k : Nat) (f : PathState → PathState): (s.updPath k f).lds = s.lds := rfl
@[simp] theorem State.updPath_slices (s : State) (k : Nat) (f : PathState → PathState): (s.updPath k f).slices = s.slices := rfl
@[simp] theorem State.updPath_takeovers (s : State) (k : Nat) (f : PathState → PathState): (s.updPath k f).takeovers = s.takeovers := rfl
@[simp] theorem State.updPath_dbLost (s : State) (k : Nat) (f : PathState → PathState): (s.updPath k f).dbLost = s.dbLost := rfl
@[simp] theorem State.updPath_teardown (s : State) (k : Nat) (f : PathState → PathState): (s.updPath k f).teardown = s.teardown := rfl
@[simp] theorem State.updPath_hot (s : State) (k : Nat) (f : PathState → PathState): (s.updPath k f).hot = s.hot := rfl
@[simp] theorem State.updPath_cold (s : State) (k : Nat) (f : PathState → PathState): (s.updPath k f).cold = s.cold := rfl
@[simp] theorem State.updPath_vault (s : State) (k : Nat) (f : PathState → PathState): (s.updPath k f).vault = s.vault := rfl
@[simp] theorem State.updPath_flt (s : State) (k : Nat) (f : PathState → PathState): (s.updPath k f).flt = s.flt := rfl
@[simp] theorem State.updPath_layout (s : State) (k : Nat) (f : PathState → PathState): (s.updPath k f).layout = s.layout := rfl
@[simp] theorem State.updPath_flash (s : State) (k : Nat) (f : PathState → PathState): (s.updPath k f).flash = s.flash := rfl
@[simp] theorem State.updPath_fuses (s : State) (k : Nat) (f : PathState → PathState): (s.updPath k f).fuses = s.fuses := rfl
@[simp] theorem State.updPath_qos (s : State) (k : Nat) (f : PathState → PathState): (s.updPath k f).qos = s.qos := rfl
@[simp] theorem State.updPath_noc (s : State) (k : Nat) (f : PathState → PathState): (s.updPath k f).noc = s.noc := rfl
@[simp] theorem State.updPath_nme (s : State) (k : Nat) (f : PathState → PathState): (s.updPath k f).nme = s.nme := rfl
@[simp] theorem State.updPath_dram (s : State) (k : Nat) (f : PathState → PathState): (s.updPath k f).dram = s.dram := rfl
@[simp] theorem State.updPath_pwr (s : State) (k : Nat) (f : PathState → PathState): (s.updPath k f).pwr = s.pwr := rfl
@[simp] theorem State.updPath_sup (s : State) (k : Nat) (f : PathState → PathState): (s.updPath k f).sup = s.sup := rfl
@[simp] theorem State.updPath_clocks (s : State) (k : Nat) (f : PathState → PathState): (s.updPath k f).clocks = s.clocks := rfl
@[simp] theorem State.updPath_rst (s : State) (k : Nat) (f : PathState → PathState): (s.updPath k f).rst = s.rst := rfl
@[simp] theorem State.updPath_pmu (s : State) (k : Nat) (f : PathState → PathState): (s.updPath k f).pmu = s.pmu := rfl
@[simp] theorem State.updPath_mgmt (s : State) (k : Nat) (f : PathState → PathState): (s.updPath k f).mgmt = s.mgmt := rfl
@[simp] theorem State.updPath_pending (s : State) (k : Nat) (f : PathState → PathState): (s.updPath k f).pending = s.pending := rfl
@[simp] theorem State.updPath_reg (s : State) (k : Nat) (f : PathState → PathState) (at_ : Nat) : (s.updPath k f).reg at_ = s.reg at_ := rfl
@[simp] theorem State.updPath_fld (s : State) (k : Nat) (f : PathState → PathState) (g : Reg.FRef) : (s.updPath k f).fld g = s.fld g := rfl
@[simp] theorem State.updPath_on (s : State) (k : Nat) (f : PathState → PathState) (g : Reg.FRef) : (s.updPath k f).on g = s.on g := rfl

/-! `State.clearSram` -/
@[simp] theorem State.clearSram_clk (s : State) (d : Nat): (s.clearSram d).clk = s.clk := rfl
@[simp] theorem State.clearSram_free (s : State) (d : Nat): (s.clearSram d).free = s.free := rfl
@[simp] theorem State.clearSram_nextId (s : State) (d : Nat): (s.clearSram d).nextId = s.nextId := rfl
@[simp] theorem State.clearSram_regs (s : State) (d : Nat): (s.clearSram d).regs = s.regs := rfl
@[simp] theorem State.clearSram_paths (s : State) (d : Nat): (s.clearSram d).paths = s.paths := rfl
@[simp] theorem State.clearSram_flight (s : State) (d : Nat): (s.clearSram d).flight = s.flight := rfl
@[simp] theorem State.clearSram_replies (s : State) (d : Nat): (s.clearSram d).replies = s.replies := rfl
@[simp] theorem State.clearSram_out (s : State) (d : Nat): (s.clearSram d).out = s.out := rfl
@[simp] theorem State.clearSram_heads (s : State) (d : Nat): (s.clearSram d).heads = s.heads := rfl
@[simp] theorem State.clearSram_lds (s : State) (d : Nat): (s.clearSram d).lds = s.lds := rfl
@[simp] theorem State.clearSram_slices (s : State) (d : Nat): (s.clearSram d).slices = s.slices := rfl
@[simp] theorem State.clearSram_takeovers (s : State) (d : Nat): (s.clearSram d).takeovers = s.takeovers := rfl
@[simp] theorem State.clearSram_dbLost (s : State) (d : Nat): (s.clearSram d).dbLost = s.dbLost := rfl
@[simp] theorem State.clearSram_teardown (s : State) (d : Nat): (s.clearSram d).teardown = s.teardown := rfl
@[simp] theorem State.clearSram_hot (s : State) (d : Nat): (s.clearSram d).hot = s.hot := rfl
@[simp] theorem State.clearSram_cold (s : State) (d : Nat): (s.clearSram d).cold = s.cold := rfl
@[simp] theorem State.clearSram_vault (s : State) (d : Nat): (s.clearSram d).vault = s.vault := rfl
@[simp] theorem State.clearSram_layout (s : State) (d : Nat): (s.clearSram d).layout = s.layout := rfl
@[simp] theorem State.clearSram_flash (s : State) (d : Nat): (s.clearSram d).flash = s.flash := rfl
@[simp] theorem State.clearSram_fuses (s : State) (d : Nat): (s.clearSram d).fuses = s.fuses := rfl
@[simp] theorem State.clearSram_qos (s : State) (d : Nat): (s.clearSram d).qos = s.qos := rfl
@[simp] theorem State.clearSram_noc (s : State) (d : Nat): (s.clearSram d).noc = s.noc := rfl
@[simp] theorem State.clearSram_nme (s : State) (d : Nat): (s.clearSram d).nme = s.nme := rfl
@[simp] theorem State.clearSram_dram (s : State) (d : Nat): (s.clearSram d).dram = s.dram := rfl
@[simp] theorem State.clearSram_pwr (s : State) (d : Nat): (s.clearSram d).pwr = s.pwr := rfl
@[simp] theorem State.clearSram_sup (s : State) (d : Nat): (s.clearSram d).sup = s.sup := rfl
@[simp] theorem State.clearSram_clocks (s : State) (d : Nat): (s.clearSram d).clocks = s.clocks := rfl
@[simp] theorem State.clearSram_rst (s : State) (d : Nat): (s.clearSram d).rst = s.rst := rfl
@[simp] theorem State.clearSram_pmu (s : State) (d : Nat): (s.clearSram d).pmu = s.pmu := rfl
@[simp] theorem State.clearSram_mgmt (s : State) (d : Nat): (s.clearSram d).mgmt = s.mgmt := rfl
@[simp] theorem State.clearSram_pending (s : State) (d : Nat): (s.clearSram d).pending = s.pending := rfl
@[simp] theorem State.clearSram_reg (s : State) (d : Nat) (at_ : Nat) : (s.clearSram d).reg at_ = s.reg at_ := rfl
@[simp] theorem State.clearSram_fld (s : State) (d : Nat) (g : Reg.FRef) : (s.clearSram d).fld g = s.fld g := rfl
@[simp] theorem State.clearSram_on (s : State) (d : Nat) (g : Reg.FRef) : (s.clearSram d).on g = s.on g := rfl

/-! `State.setCond` -/
@[simp] theorem State.setCond_clk (s : State) (d : Nat) (c : DomCond): (s.setCond d c).clk = s.clk := by
  unfold State.setCond; split <;> rfl
@[simp] theorem State.setCond_free (s : State) (d : Nat) (c : DomCond): (s.setCond d c).free = s.free := by
  unfold State.setCond; split <;> rfl
@[simp] theorem State.setCond_nextId (s : State) (d : Nat) (c : DomCond): (s.setCond d c).nextId = s.nextId := by
  unfold State.setCond; split <;> rfl
@[simp] theorem State.setCond_regs (s : State) (d : Nat) (c : DomCond): (s.setCond d c).regs = s.regs := by
  unfold State.setCond; split <;> rfl
@[simp] theorem State.setCond_paths (s : State) (d : Nat) (c : DomCond): (s.setCond d c).paths = s.paths := by
  unfold State.setCond; split <;> rfl
@[simp] theorem State.setCond_flight (s : State) (d : Nat) (c : DomCond): (s.setCond d c).flight = s.flight := by
  unfold State.setCond; split <;> rfl
@[simp] theorem State.setCond_replies (s : State) (d : Nat) (c : DomCond): (s.setCond d c).replies = s.replies := by
  unfold State.setCond; split <;> rfl
@[simp] theorem State.setCond_out (s : State) (d : Nat) (c : DomCond): (s.setCond d c).out = s.out := by
  unfold State.setCond; split <;> rfl
@[simp] theorem State.setCond_heads (s : State) (d : Nat) (c : DomCond): (s.setCond d c).heads = s.heads := by
  unfold State.setCond; split <;> rfl
@[simp] theorem State.setCond_lds (s : State) (d : Nat) (c : DomCond): (s.setCond d c).lds = s.lds := by
  unfold State.setCond; split <;> rfl
@[simp] theorem State.setCond_slices (s : State) (d : Nat) (c : DomCond): (s.setCond d c).slices = s.slices := by
  unfold State.setCond; split <;> rfl
@[simp] theorem State.setCond_takeovers (s : State) (d : Nat) (c : DomCond): (s.setCond d c).takeovers = s.takeovers := by
  unfold State.setCond; split <;> rfl
@[simp] theorem State.setCond_dbLost (s : State) (d : Nat) (c : DomCond): (s.setCond d c).dbLost = s.dbLost := by
  unfold State.setCond; split <;> rfl
@[simp] theorem State.setCond_teardown (s : State) (d : Nat) (c : DomCond): (s.setCond d c).teardown = s.teardown := by
  unfold State.setCond; split <;> rfl
@[simp] theorem State.setCond_hot (s : State) (d : Nat) (c : DomCond): (s.setCond d c).hot = s.hot := by
  unfold State.setCond; split <;> rfl
@[simp] theorem State.setCond_cold (s : State) (d : Nat) (c : DomCond): (s.setCond d c).cold = s.cold := by
  unfold State.setCond; split <;> rfl
@[simp] theorem State.setCond_vault (s : State) (d : Nat) (c : DomCond): (s.setCond d c).vault = s.vault := by
  unfold State.setCond; split <;> rfl
@[simp] theorem State.setCond_layout (s : State) (d : Nat) (c : DomCond): (s.setCond d c).layout = s.layout := by
  unfold State.setCond; split <;> rfl
@[simp] theorem State.setCond_flash (s : State) (d : Nat) (c : DomCond): (s.setCond d c).flash = s.flash := by
  unfold State.setCond; split <;> rfl
@[simp] theorem State.setCond_fuses (s : State) (d : Nat) (c : DomCond): (s.setCond d c).fuses = s.fuses := by
  unfold State.setCond; split <;> rfl
@[simp] theorem State.setCond_qos (s : State) (d : Nat) (c : DomCond): (s.setCond d c).qos = s.qos := by
  unfold State.setCond; split <;> rfl
@[simp] theorem State.setCond_noc (s : State) (d : Nat) (c : DomCond): (s.setCond d c).noc = s.noc := by
  unfold State.setCond; split <;> rfl
@[simp] theorem State.setCond_nme (s : State) (d : Nat) (c : DomCond): (s.setCond d c).nme = s.nme := by
  unfold State.setCond; split <;> rfl
@[simp] theorem State.setCond_dram (s : State) (d : Nat) (c : DomCond): (s.setCond d c).dram = s.dram := by
  unfold State.setCond; split <;> rfl
@[simp] theorem State.setCond_sup (s : State) (d : Nat) (c : DomCond): (s.setCond d c).sup = s.sup := by
  unfold State.setCond; split <;> rfl
@[simp] theorem State.setCond_clocks (s : State) (d : Nat) (c : DomCond): (s.setCond d c).clocks = s.clocks := by
  unfold State.setCond; split <;> rfl
@[simp] theorem State.setCond_rst (s : State) (d : Nat) (c : DomCond): (s.setCond d c).rst = s.rst := by
  unfold State.setCond; split <;> rfl
@[simp] theorem State.setCond_pmu (s : State) (d : Nat) (c : DomCond): (s.setCond d c).pmu = s.pmu := by
  unfold State.setCond; split <;> rfl
@[simp] theorem State.setCond_mgmt (s : State) (d : Nat) (c : DomCond): (s.setCond d c).mgmt = s.mgmt := by
  unfold State.setCond; split <;> rfl
@[simp] theorem State.setCond_pending (s : State) (d : Nat) (c : DomCond): (s.setCond d c).pending = s.pending := by
  unfold State.setCond; split <;> rfl
@[simp] theorem State.setCond_reg (s : State) (d : Nat) (c : DomCond) (at_ : Nat) : (s.setCond d c).reg at_ = s.reg at_ := by
  unfold State.setCond; split <;> rfl
@[simp] theorem State.setCond_fld (s : State) (d : Nat) (c : DomCond) (g : Reg.FRef) : (s.setCond d c).fld g = s.fld g := by
  unfold State.setCond; split <;> rfl
@[simp] theorem State.setCond_on (s : State) (d : Nat) (c : DomCond) (g : Reg.FRef) : (s.setCond d c).on g = s.on g := by
  unfold State.setCond; split <;> rfl
@[simp] theorem State.cond_setCond_same (s : State) (d : Nat) (c : DomCond) : (s.setCond d c).cond d = c := by
  unfold State.setCond; split <;> simp [State.cond, State.clearSram]
/-! ### Registers -/

@[simp] theorem State.reg_setReg_same (s : State) (a : Nat) (v : Word) : (s.setReg a v).reg a = v := by
  simp [State.reg, State.setReg]

theorem State.reg_setReg_ne (s : State) {a b : Nat} (v : Word) (h : b ≠ a) : (s.setReg a v).reg b = s.reg b := by
  simp [State.reg, State.setReg, SMap.get_put_ne _ _ _ v h]

/-! ### Fields of a word -/

/-- A field lies inside a 32-bit register. -/
def inWord (f : Reg.FRef) : Prop := f.lo + f.w ≤ 32

/-- Two fields of one word share no bit. -/
def apart (f g : Reg.FRef) : Prop := f.lo + f.w ≤ g.lo ∨ g.lo + g.w ≤ f.lo

theorem split_word (v l w : Nat) : v = (v / 2 ^ l / 2 ^ w * 2 ^ w + v / 2 ^ l % 2 ^ w) * 2 ^ l + v % 2 ^ l := by
  have h1 := Nat.div_add_mod v (2 ^ l)
  have h2 := Nat.div_add_mod (v / 2 ^ l) (2 ^ w)
  calc v = 2 ^ l * (v / 2 ^ l) + v % 2 ^ l := h1.symm
    _ = (v / 2 ^ l / 2 ^ w * 2 ^ w + v / 2 ^ l % 2 ^ w) * 2 ^ l + v % 2 ^ l := by rw [Nat.mul_comm (v / 2 ^ l / 2 ^ w), h2, Nat.mul_comm]

/-- The number that `withField` makes. -/
theorem withField_eq (v : Word) (f : Reg.FRef) (x : Nat) (h : inWord f) :
    (withField v f x).toNat = (v.toNat / 2 ^ f.lo / 2 ^ f.w * 2 ^ f.w + x % 2 ^ f.w) * 2 ^ f.lo + v.toNat % 2 ^ f.lo := by
  have hs := split_word v.toNat f.lo f.w
  have hp : 0 < 2 ^ f.lo := Nat.two_pow_pos _
  have hw : 0 < 2 ^ f.w := Nat.two_pow_pos _
  have hx : x % 2 ^ f.w < 2 ^ f.w := Nat.mod_lt _ hw
  have hr : v.toNat % 2 ^ f.lo < 2 ^ f.lo := Nat.mod_lt _ hp
  have hv : v.toNat < 2 ^ 32 := v.isLt
  have h32 : (2 : Nat) ^ 32 = 2 ^ (32 - f.lo - f.w) * 2 ^ f.w * 2 ^ f.lo := by
    rw [← Nat.pow_add, ← Nat.pow_add]; congr 1; unfold inWord at h; omega
  obtain ⟨q, hq⟩ : ∃ q, q = v.toNat / 2 ^ f.lo / 2 ^ f.w := ⟨_, rfl⟩
  rw [← hq] at hs ⊢
  have hqlt : q < 2 ^ (32 - f.lo - f.w) := by
    rw [hq, Nat.div_div_eq_div_mul]
    apply (Nat.div_lt_iff_lt_mul (Nat.mul_pos hp hw)).mpr
    rw [Nat.mul_comm (2 ^ f.lo), ← Nat.mul_assoc, ← h32]; exact hv
  have hbound : (q * 2 ^ f.w + x % 2 ^ f.w) * 2 ^ f.lo + v.toNat % 2 ^ f.lo < 2 ^ 32 := by
    have h1 : q * 2 ^ f.w + x % 2 ^ f.w < 2 ^ (32 - f.lo - f.w) * 2 ^ f.w := by
      calc q * 2 ^ f.w + x % 2 ^ f.w < q * 2 ^ f.w + 2 ^ f.w := by omega
        _ = (q + 1) * 2 ^ f.w := by rw [Nat.add_mul, Nat.one_mul]
        _ ≤ _ := Nat.mul_le_mul_right _ hqlt
    calc _ < (q * 2 ^ f.w + x % 2 ^ f.w) * 2 ^ f.lo + 2 ^ f.lo := by omega
      _ = (q * 2 ^ f.w + x % 2 ^ f.w + 1) * 2 ^ f.lo := by rw [Nat.add_mul _ 1, Nat.one_mul]
      _ ≤ 2 ^ (32 - f.lo - f.w) * 2 ^ f.w * 2 ^ f.lo := Nat.mul_le_mul_right _ h1
      _ = 2 ^ 32 := h32.symm
  unfold withField fieldOf
  rw [BitVec.toNat_ofNat]
  have he : v.toNat - v.toNat / 2 ^ f.lo % 2 ^ f.w * 2 ^ f.lo + x % 2 ^ f.w * 2 ^ f.lo =
      (q * 2 ^ f.w + x % 2 ^ f.w) * 2 ^ f.lo + v.toNat % 2 ^ f.lo := by
    rw [Nat.add_mul] at hs ⊢
    omega
  rw [he, Nat.mod_eq_of_lt hbound]

/-- Reading the field that was written. -/
theorem fieldOf_withField_same (v : Word) (f : Reg.FRef) (x : Nat) (h : inWord f) : fieldOf (withField v f x) f = x % 2 ^ f.w := by
  have hp : 0 < 2 ^ f.lo := Nat.two_pow_pos _
  have hr : v.toNat % 2 ^ f.lo < 2 ^ f.lo := Nat.mod_lt _ hp
  rw [fieldOf, withField_eq v f x h, Nat.mul_comm _ (2 ^ f.lo), Nat.mul_add_div hp, Nat.div_eq_of_lt hr, Nat.add_zero, Nat.mul_comm, Nat.mul_add_mod,
    Nat.mod_mod]

/-- Writing a field leaves the others of its word alone. -/
theorem fieldOf_withField_apart (v : Word) (f g : Reg.FRef) (x : Nat) (h : inWord f) (hd : apart f g) : fieldOf (withField v f x) g = fieldOf v g := by
  have hp : 0 < 2 ^ f.lo := Nat.two_pow_pos _
  have hw : 0 < 2 ^ f.w := Nat.two_pow_pos _
  have hr : v.toNat % 2 ^ f.lo < 2 ^ f.lo := Nat.mod_lt _ hp
  have hx : x % 2 ^ f.w < 2 ^ f.w := Nat.mod_lt _ hw
  unfold fieldOf
  rw [withField_eq v f x h]
  rcases hd with hd | hd
  · have hg : (2 : Nat) ^ g.lo = 2 ^ f.lo * 2 ^ f.w * 2 ^ (g.lo - f.lo - f.w) := by
      rw [← Nat.pow_add, ← Nat.pow_add]; congr 1; omega
    rw [hg, ← Nat.div_div_eq_div_mul, ← Nat.div_div_eq_div_mul, ← Nat.div_div_eq_div_mul, ← Nat.div_div_eq_div_mul]
    congr 2
    rw [Nat.mul_comm _ (2 ^ f.lo), Nat.mul_add_div hp, Nat.div_eq_of_lt hr, Nat.add_zero, Nat.mul_comm, Nat.mul_add_div hw, Nat.div_eq_of_lt hx, Nat.add_zero]
  · have hm : ∀ n : Nat, n / 2 ^ g.lo % 2 ^ g.w = n % 2 ^ f.lo % (2 ^ g.lo * 2 ^ g.w) / 2 ^ g.lo := by
      intro n
      rw [Nat.mod_mod_of_dvd, Nat.mod_mul_right_div_self]
      rw [← Nat.pow_add]; exact Nat.pow_dvd_pow 2 hd
    rw [hm, hm v.toNat, Nat.mul_comm _ (2 ^ f.lo), Nat.mul_add_mod, Nat.mod_mod]

/-! ### Fields of a state -/

theorem State.fld_setFld_same (s : State) (f : Reg.FRef) (x : Nat) (h : inWord f) : (s.setFld f x).fld f = x % 2 ^ f.w := by
  simp [State.fld, State.setFld, fieldOf_withField_same _ f x h]

theorem State.fld_setReg_ne (s : State) {a : Nat} (v : Word) (g : Reg.FRef) (h : g.addr ≠ a) : (s.setReg a v).fld g = s.fld g := by
  simp [State.fld, State.reg_setReg_ne s v h]

theorem State.fld_setFld_ne (s : State) (f g : Reg.FRef) (x : Nat) (h : g.addr ≠ f.addr) : (s.setFld f x).fld g = s.fld g := by
  simp [State.setFld, State.fld_setReg_ne s _ g h]

theorem State.fld_setFld_apart (s : State) (f g : Reg.FRef) (x : Nat) (h : inWord f) (ha : g.addr = f.addr) (hd : apart f g) :
    (s.setFld f x).fld g = s.fld g := by
  simp [State.fld, State.setFld, ha, fieldOf_withField_apart _ f g x h hd]

theorem State.reg_setFld_ne (s : State) (f : Reg.FRef) (x : Nat) {b : Nat} (h : b ≠ f.addr) : (s.setFld f x).reg b = s.reg b := by
  simp [State.setFld, State.reg_setReg_ne s _ h]

/-- A field never holds more than its width. -/
theorem State.fld_lt (s : State) (f : Reg.FRef) : s.fld f < 2 ^ f.w := Nat.mod_lt _ (Nat.two_pow_pos _)

theorem State.on_eq (s : State) (f : Reg.FRef) : s.on f = (s.fld f != 0) := rfl

end Sys2Proof.Machine
end

