-- ==== Sys2Proof/Laws/Settle.lean ====
section
/-! SUPPORT. What follows a command's own effect: in a calm state, nothing. -/
namespace Sys2Proof.Machine

open Sys2Proof

theorem settle_of_empty (s : State) (h : s.flt.inbox = []) : settle s = s := by
  unfold settle
  rw [h]

theorem settleN_empty (n : Nat) (s : State) (h : s.flt.inbox = []) : settleN n s = s := by
  cases n with
  | zero => rfl
  | succ n => unfold settleN; rw [h]

/-- What makes a state calm. -/
theorem calm_iff (s : State) : calm s = true ↔
    s.hot.damaged = [] ∧ s.waitingLines = [] ∧ s.flt.inbox = [] ∧ (s.flt.exposures.any fun e => e.src == 0x0B) = false := by
  simp [calm, and_assoc]

/-- A state in which nothing waits stays as it is. -/
theorem settled_of_calm (s : State) (h : calm s = true) : settled s = s := by
  obtain ⟨hd, hw, hi, he⟩ := (calm_iff s).1 h
  have hm : resumeMoves s = s := by rw [resumeMoves, hd]; rfl
  have hl : resumeLines s = s := by rw [resumeLines, hw]; rfl
  rw [settled, hm, hl, settle_of_empty s hi, mirrored, he]
  simp

/-- A meaning whose own effect leaves a calm state answers it. -/
theorem done_of_calm (s : State) (h : calm s = true) : done s = .next s := by
  rw [done, settled_of_calm s h]

end Sys2Proof.Machine
end

