-- ==== Sys2Proof/Machine/Indicators.lean ====
section
/-! DEFINITION. The indicators of the sockets and of the module's front edge (R408, R509, R510): each shows a function of the state. -/
namespace Sys2Proof.Machine

open Sys2Proof

/-- What a powered slot's indicator shows in slot state `st` (Table 13.7). The table has no row for a powered slot in STATE 0: it is taken as dark (log entry 122). -/
def poweredLamp (st : Nat) : Lamp :=
  if st = 3 then .green
  else if [1, 2, 4, 5, 8].contains st then .greenBlink
  else if [6, 7, 9, 10].contains st then .amberBlink
  else .off

/-- The indicator of slot `z` of channel `ch` (R408, R509, Table 13.7), from SUP_CH_STS and DCC_SLOT.STATE: latch-off is STATE 5 of the slot channel, discharging STATE 6, and
powered is taken as ramp, qualifying or on (log entry 122). -/
def State.slotLamp (s : State) (ch z : Nat) : Lamp :=
  let j := slotChan ch z
  if s.supSt j = 5 then .off
  else if s.supSt j = 6 then .amberBlink
  else if s.conducts j then poweredLamp (s.slotState ch z)
  else if s.on (Reg.SUP_CH_STS_SAFE j) then .amber
  else .off

/-- The PWR indicator (R510): blinking in Doze and Keep, steady in Full and Trim while PWRGD is high, off otherwise. -/
def State.pwrLamp (s : State) : Lamp :=
  if 2 ≤ s.fld Reg.PWR_STS_STATE then .greenBlink
  else if s.on Reg.SUP_STS_PWRGD then .green
  else .off

/-- The FLT indicator (R510): lit while the module drives FAULT_N low. -/
def State.fltLamp (s : State) : Lamp := if s.faultN then .amber else .off

end Sys2Proof.Machine
end

