-- ==== Sys2Proof/Tests/Slice0.lean ====
section
/-! SUPPORT. Tests: small states, ill-formed commands, the spec's worked examples, and for each clause of each statement a state and operands that meet
its hypotheses together. -/

open Sys2Proof Sys2Proof.Machine

section Slice0Tests
set_option Elab.async false

/-- The machine at reset with the fields of `l` set. -/
def wset (l : List (Reg.FRef × Nat)) : State := l.foldl (fun s e => s.setFld e.1 e.2) State.reset
/-- Head 0 with its link up and LD 0 presented, and 1 GiB of static memory of LD 0 decoded at HPA 0. -/
def wHead : State :=
  let s := wset [(Reg.HPA_CFG_PRESENT 0, 1), (Reg.HPA_LINK_STS_UP 0, 1), (Reg.HPA_LINK_STS_CXL_MEM 0, 1), (Reg.HPA_LD_ACT_LD_ACTIVE 0, 1)]
  { s with layout := { s.layout with lds := [{ staticGib := 1 }] } }
/-- `wHead` with LD 0's memory active and decoded, in the state `Active`. -/
def wHost : State := wHead.updLd 0 fun d => { d with memActive := true, decoders := [{ base := 0, size := gib, committed := true }] }
/-- A request of head 0. -/
def wReq (id : Nat) (k : ReqKind) : Req := { id := id, agent := .host 0 0, port := 0, kind := k, gpn := 3, line := 5, tag := 9 }
/-- `wHead` with one entry in the pen of head 0. -/
def wPen (e : PenEntry) : State := wHead.updHead 0 fun x => { x with pen := [e], link := .up }
/-- `wPen` with the reply `k` to its request under way. -/
def wReply (e : PenEntry) (k : ReplyKind) : State := { wPen e with replies := [{ req := e.req, kind := k }] }
/-- `wHead` with a dynamic extent of GiB 1 of LD 0, accepted or only offered. -/
def wDc (acc : Bool) : State :=
  { wHead.updLd 0 fun d => { d with extents := [{ gib := 1, accepted := acc }] } with layout := { wHead.layout with lds := [{ staticGib := 1, dcGib := 4 }] } }
/-- A cold tier with room: head 0 and LD 0 with 1 GiB static and 4 GiB dynamic memory, and the ledger window of both. -/
def wOffer : State :=
  let s := wset [(Reg.HPA_CFG_PRESENT 0, 1), (Reg.HPA_LINK_STS_UP 0, 1), (Reg.HPA_LD_ACT_LD_ACTIVE 0, 1), (Reg.CTM_STS_READY, 1), (Reg.CTM_CAP_VMAX, 64),
    (Reg.CTM_CAP_GUAR, 64), (Reg.CTM_LWIN_SLOTS 0, 8), (Reg.CTM_DIST_STS_STAGE, 0), (Reg.CTM_DIST_STS_FROZEN, 0)]
  { s with layout := { s.layout with lds := [{ head := some 0, staticGib := 1, dcGib := 4 }] },
           cold := { s.cold with nSeg := 100000, nSlots := 64 } }
/-- A request of page 3 taken from the grid; the home slice of page 3 is slice 3. -/
def wFly (k : ReqKind) : State := { wHead with flight := [wReq 7 k] }
/-- An open transaction of slice 3 that awaits the answers of LDs `ks` for line 5 of page 3, which the filter lists as shared by LDs 0 and 1. -/
def wTxn (ks : List Nat) : State :=
  wHead.updSlice 3 fun y =>
    { y with txns := [{ req := { wReq 7 .read with db := true, mval := .any }, phase := .snoop, snoops := ks }]
             filter := [(197, { state := 1, holders := 3, la := 197, snp := true })] }
/-- A takeover of entry 2 by spare 32 at step `n`. -/
def wTake (n : Nat) : State := { State.reset with takeovers := [{ entry := 2, failed := 2, spare := some 32, step := n }] }
/-- The map block of pages 0 to 255 cached, with `m` as the entry of page 3; LD 0's ledger window holds 8 slots. -/
def wPage (m : MapEntry) : State :=
  let s := wset [(Reg.CTM_LWIN_SLOTS 0, 8), (Reg.CTM_STS_READY, 1)]
  { s with hot := { s.hot with tags := [(0, { valid := true, block := 0 })], entries := [(3, m.pack)] } }
/-- `wPage` with an open transaction 7 of slice 3 for line 5 of page 3. -/
def wPageTxn (m : MapEntry) (k : ReqKind) (ph : TxnPhase) : State :=
  (wPage m).updSlice 3 fun x => { x with txns := [{ req := wReq 7 k, phase := ph, slot := some 0 }] }
/-- `wPage` with a frame descriptor. -/
def wFrame (m : MapEntry) (d : FrameDesc) : State := updDesc m.frame (fun _ => d) (wPage m)
/-- Page 3 with a fill of frame 16 whose data has come. -/
def wFill : State :=
  let s := setLine 16 0 77 (wFrame { state := 3, scnt := 3, frame := 16 } { kind := 1, gpn := 3, valid := 1, fill := true })
  { s with hot := { s.hot with fills := [{ gpn := 3, frame := 16, source := .cold 4 }] },
           cold := { s.cold with jobs := [{ id := 4, gpn := 3, img := {}, use := .fill, result := some (.lines [5, 6, 7] 0) }] } }
/-- Page 3 clean in shed frame 7340032 or 7340033, with SHED_LOW above what the stack has free. -/
def wShed (st : Nat) : State :=
  (wFrame { state := 2, scnt := 3, frame := 7340032 + st } { kind := 1, gpn := 3, valid := 32 })|>.setFld Reg.HTM_TIER_CFG_SHED_LOW 255 |>.setFld Reg.HTM_TIER_CFG_SHED_HIGH 255
/-- `wPage` with a read job 4 for the image of page 3. -/
def wJob (m : MapEntry) (j : ReadJob) : State := (wPage m).onCold fun c => { c with jobs := [j], dimmGib := 256, nSeg := 262144 }
/-- `wPage` with an operation on page 3. -/
def wOp (m : MapEntry) (o : PageOp) : State := (wPage m).onCold fun c => { c with ops := [o], nSeg := 262144, nLedger := 16 }
/-- The cold tier of `wOffer` at a distress stage, with extent 1 of LD 0 accepted and `used` stitches charged. -/
def wStage (st used : Nat) : State :=
  let s := wOffer.setFld Reg.CTM_DIST_STS_STAGE st
  (s.updLd 0 fun d => { d with extents := [{ gib := 1, accepted := true }] }).onCold fun c => { c with used := [(1, (1, used))] }
/-- Segment 40 sealed with no live stitch, garbage collection in the mode of `m`, and no segment free. -/
def wGc (m : Nat) : State :=
  (wset [(Reg.CTM_STS_READY, 1), (Reg.CTM_GC_CFG_MODE, m), (Reg.CTM_GC_CFG_MODE_ACT, m), (Reg.CTM_GC_CFG_HIGH, 1), (Reg.CTM_GC_CFG_LOW, 1)]).onCold fun c =>
    { c with segs := [(40, { st := .sealed, live := 5 })], nSeg := 17, nLedger := 16 }
/-- A key vault with a root key of LD 0. -/
def wVault (m : MapEntry) : State := (wPage m).onVault fun v => { v with roots := [(0, some 5)] }
/-- The first stitch of page 3's image of zeros under that vault's key. -/
def wStitch : Stitch := 4646335899408201091612303644239931475141476115099994740477949249218359347083322285946183906977173507882614869983233#2048
/-- A fill's read job for that image, its one stitch arrived. -/
def wImgJob : ReadJob :=
  { id := 4, gpn := 3, img := { seam := 69637, spos := 0, scnt := 1, wcnt := 1 }, use := .fill, stitcher := some 5,
    needs := [(69637, dataCh 69637 0)], got := [(69637, dataCh 69637 0, some wStitch)] }
def wImg : State := (wVault {}).onCold fun c => { c with jobs := [wImgJob], dimmGib := 256, nSeg := 262144 }
/-- A relocation of page 3 whose image has been read. -/
def wApp : State :=
  (wOp { state := 1, scnt := 2 } { gpn := 3, kind := .relocation, snap := 0, phase := .ready, image := List.replicate 300 1, stitcher := some 2 })
/-- `wApp` with the image placed. -/
def wPlaced : State := ((placeImage (streamKey 2 true) 3 (List.replicate 300 1) (useDomain none 44 (useSlot 3 wApp))).getD ({}, {})).2
/-- A re-encryption of slot 5 in a tier that is ready. -/
def wReenc (r : Reenc) : State := ((wset [(Reg.CTM_STS_READY, 1)]).onVault fun v => { v with reenc := [r], epochs := [(5, { epoch := 1, reenc := true })] }).onCold fun c => { c with nLedger := 400, nSeg := 262144, nSlots := 64 }
/-- Firmware runs, and LD 0 of head 0 has 4 GiB of static and 4 GiB of dynamic memory. -/
def wQos : State :=
  let s := wset ([(Reg.MGT_STS_FW_RUN, 1), (Reg.HPA_CFG_PRESENT 0, 1), (Reg.HPA_CFG_LD_MASK 0, 1), (Reg.DCC_POP_RATE 0, 5)] ++
    (List.range 16).map fun c => (Reg.DCC_SLOT_STATE c 0, 2))
  { s with layout := { s.layout with safe := false, lds := [{ head := some 0, staticGib := 4, dcGib := 4 }] } }
/-- A request for 100 MB/s of reads of LD 0 within 1 ms. -/
def wAsk : CinchRequest := { ld := 0, cls := 1, pin := false, baseGib := 0, lenGib := 0, readMbs := 100, writeMbs := 0, bound := 1000000, allow := 1000000, rsvd := false }
/-- `wQos` with cinch `c` in slot `i`. -/
def wCinch (i : Nat) (c : Cinch) : State := wQos.updCinch i fun _ => c
/-- A packet of class `c` for endpoint `d` from endpoint 16. -/
def wPkt (c : PktClass) (d : Nat) : Packet :=
  { cls := c, lane := 0, be := true, svc := 0, repoch := false, hint := 0, len := 1, retry := false, opc := 0, tepoch := 0, dst := d, src := 16, mport := 3,
    tag := 5, dl := 0, bnd := 0, far := false }
/-- `p` alone in the grid, in the input buffer of port `i` of crossing `c`. -/
def wBuf (c i : Nat) (p : Packet) : State := { State.reset with noc := { State.reset.noc with bufs := [(bufKey c i p, [{ pkt := p, at_ := 0 }])] } }
/-- `p` waiting at endpoint `e`. -/
def wOut (e : Nat) (p : Packet) : State := { State.reset with noc := { State.reset.noc with outs := [(e, [{ pkt := p, at_ := 0 }])] } }
/-- LD 0 with 1 GiB of static memory, active, and page 3 of it dirty in frames 16 and 17 with every line valid. -/
def wLd0 : State :=
  let s := updDesc 17 (fun _ => { kind := 2, gpn := 3, partner := some 16, valid := BitVec.allOnes 64 })
    (wFrame { state := 3, frame := 16 } { kind := 1, gpn := 3, partner := some 17, valid := BitVec.allOnes 64, dirty := 1, noimg := true })
  { (s.updLd 0 fun d => { d with memActive := true }) with layout := { s.layout with lds := [{ head := some 0, staticGib := 1 }] } }
/-- `wLd0` with ring 7 of LD 0 enabled at page 3, and a NOP with TAG 0xBEEF as its first descriptor. -/
def wRing : State :=
  let s := ((wLd0.setFld (Reg.NMR_CFG_EN 7) 1).setFld (Reg.NMR_TAIL_TAIL 7) 1).setFld (Reg.NME_STS_READY 0) 1
  setLine 16 0 0x0000BEEF00000000 { s with nme := { rings := [(7, { dbase := 12288 })] } }
/-- `wLd0` with descriptor 4 of ring 7 ended and its record due at line 1 of page 3. -/
def wDone : State :=
  { wLd0.setFld (Reg.NMR_HEAD_HEAD 7) 4 with
    nme := { rings := [(7, { cbase := 12288 })]
             running := [{ ring := 7, idx := 4, eng := 0, d := { tag := 77 }, fetched := true, started := true, ended := some ⟨0, 0, 64⟩ }] } }
/-- `wLd0` with descriptor 0 of ring 7 begun. -/
def wRun (d : Descriptor) : State :=
  { wLd0 with nme := { rings := [(7, {})], running := [{ ring := 7, idx := 0, eng := 0, d := d, fetched := true, started := true }] } }
/-- Descriptor `d` as `wRun` holds it. -/
def wX (d : Descriptor) : Running := { ring := 7, idx := 0, eng := 0, d := d, fetched := true, started := true }
/-- `wLd0` with a Reed–Solomon descriptor of one data block and one check block; the block at page 3 holds 55. -/
def wRs (o : Nat) : State :=
  setLine 16 0 55 (wRun (if o = 6 then { opc := 6, src := 12288, dst := 12352, len := 64, aux := 64, imm := 257 }
    else { opc := 7, src := 12224, dst := 0, len := 64, aux := 64, imm := 18446744073709551873 }))
/-- Channel `ch` with its DIMM of 256 GiB in slot 0 in service, and read job `j`. -/
def wDcc (ch : Nat) (j : ReadJob) : State :=
  (wset [(Reg.DCC_STS_READY ch, 1), (Reg.DCC_SLOT_STATE ch 0, 3)]).onCold fun c => { c with jobs := [j], dimmGib := 256, nSeg := 262144 }
/-- An idle module in Full that may sleep: a count of the keep clock has just ended, no head is present, and channel 3 serves. -/
def wIdle : State :=
  let s := wset [(Reg.PWR_CFG_MAX_STATE, 3), (Reg.PWR_STS_STATE, 0), (Reg.CLK_CAL_VALID, 1), (Reg.CTM_STS_READY, 1), (Reg.CTM_STS_GC_ACTIVE, 0),
    (Reg.CTM_DIST_STS_STAGE, 0), (Reg.RST_STS_LEVEL, 0), (Reg.RST_STS_PHASE, 0), (Reg.DCC_STS_READY 3, 1), (Reg.PWR_CFG_DOZE_IDLE, 1), (Reg.PWR_CFG_KEEP_IDLE, 1)]
  { s with clocks := { s.clocks with calAt := some 0 } }
/-- Voltage requests `l` outstanding during `m`. -/
def wReqs (l : List VoltReq) (m : PowerMove) : State := { State.reset with pwr := { State.reset.pwr with reqs := l, move := m } }
/-- Source `src` at Level 2, and LD 0 of head 0 with a committed decoder and an interrupt pending. -/
def wFlr (src : Nat) : State :=
  let s := wset [(Reg.HPA_CFG_PRESENT 0, 1), (Reg.HPA_CFG_LD_MASK 0, 1), (Reg.RST_MAP_FUSE src, 2)]
  { (s.updLd 0 fun d => { d with msixPending := 3, decoders := [{ base := 0, size := 1, committed := true }] }) with
    layout := { s.layout with lds := [{ head := some 0, staticGib := 1 }] } }
/-- A Level 3 reset under way. -/
def wBlock (b : BlockReset) : State := { wset [(Reg.RST_STS_BLOCK_RST, 1)] with rst := { State.reset.rst with blocks := [b] } }
/-- A Level 5 start-up in phase `p`. -/
def wPhase (p : Nat) : State := wset [(Reg.SUP_STS_PWRGD, 1), (Reg.RST_STS_PHASE, p), (Reg.RST_STS_LEVEL, 5), (Reg.SUP_STS_BAND, 0)]
/-- The management firmware runs and takes commands. -/
def wMgr : State := wset [(Reg.MGT_STS_FW_RUN, 1)]
/-- `wMgr` with firmware in slot 2. -/
def wFw : State := wMgr.onFlash fun f => { f with fw := [{}, { image := some ⟨7, 3, 0⟩ }] }
/-- A layout image without sections. -/
def wImage : LayoutImage := { formOk := true, layoutId := 1, ver := 2, svn := 3, key := 0, amendment := false, base := 0, seq := 0, sections := [] }
/-- `wPage` with the block of pages 0 to 255 modified in the map cache, and a ledger key. -/
def wGroup : State := ((wPage {}).onVault fun v => { v with ledgerKey := some 7 }).onHot fun h => { h with tags := [(0, { valid := true, modified := true, block := 0 })] }

/-! ### Ill-formed commands, one for each check of WellFormed -/

/-- A packet whose lane does not fit its field. -/
def badPacket : Packet := { wPkt .req 19 with lane := 4 }

theorem test_wf_misaligned_access : Instr.wf (.registerWrite .plaza 2 .w32 0) = false := by decide
theorem test_wf_access_beyond_bar2 : Instr.wf (.loHalfRead .plaza 0x1000000 .w32) = false := by decide
theorem test_wf_hi_half_misaligned : Instr.wf (.hiHalfRead .plaza 6) = false := by decide
theorem test_wf_pair_write_misaligned : Instr.wf (.pairHiWrite .plaza 1 0) = false := by decide
theorem test_wf_sleeping_access_misaligned : Instr.wf (.sleepingRegisterAccess .plaza 3 none) = false := by decide
theorem test_wf_fenced_access_misaligned : Instr.wf (.fencedRegisterAccess .plaza 3 none) = false := by decide
theorem test_wf_read_not_a_line : Instr.wf (.hostMemRead 0 0 32 .any 0 {}) = false := by decide
theorem test_wf_write_tag_too_wide : Instr.wf (.hostMemWrite 0 0 0 .any 65536 0 0 false {}) = false := by decide
theorem test_wf_atomic_beyond_bar4 : Instr.wf (.bar4AtomicOp 0 0x40000000 0 none) = false := by decide
theorem test_wf_link_width : Instr.wf (.linkTrainingDone 0 { rates := 1, flit := true, lopt := false, switch := false, ide := false, ptm := false, cxlVer := 3, cxlMem := true } 5 0) = false := by decide
theorem test_wf_extent_number : Instr.wf (.addCapacityOffer 0 4194304 none) = false := by decide
theorem test_wf_request_twice : Instr.wf (.sliceRequest 0 [7, 7]) = false := by decide
theorem test_wf_cinch_class : Instr.wf (.requestCinch .fmApi { wAsk with cls := 8 }) = false := by decide
theorem test_wf_cinch_id : Instr.wf (.releaseCinch .fmApi 4294967296) = false := by decide
theorem test_wf_confirm_id : Instr.wf (.confirmCinch .fmApi 4294967296 true) = false := by decide
theorem test_wf_packet : Instr.wf (.packetForward 0 4 (some { port := 0, pkt := badPacket }) 0) = false := by decide
theorem test_wf_spd : Instr.wf (.spdReadDone 0 0 { capGib := 0 }) = false := by decide
theorem test_wf_pmic : Instr.wf (.pmicReading 0 0 [1] [] false) = false := by decide
theorem test_wf_failed_ranks : Instr.wf (.channelTrainingDone 0 [(0, 1), (0, 1)]) = false := by decide
theorem test_wf_nine_groups : Instr.wf (.stackTrainingDone 0 (List.replicate 9 0)) = false := by decide
theorem test_wf_detail_word : Instr.wf (.faultReport 0 0 [4294967296]) = false := by decide
theorem test_wf_scrub_bits : Instr.wf (.sramScrubVisit none 0 0 [(1, 1), (1, 1)] (.scrub false)) = false := by decide
theorem test_wf_feed_voltage : Instr.wf (.feedPresent 0 65536) = false := by decide
theorem test_wf_over_voltage : Instr.wf (.overVoltageOpen 0 65536) = false := by decide
theorem test_wf_band_fall : Instr.wf (.bandFall 65536) = false := by decide
theorem test_wf_band_rise : Instr.wf (.bandRise 65536) = false := by decide
theorem test_wf_cap_update : Instr.wf (.powerCapUpdate 65536) = false := by decide
theorem test_wf_power_fail : Instr.wf (.powerFailWarning 65536) = false := by decide
theorem test_wf_event_block : Instr.wf (.pmuEvent { block := 11, inst := 0, event := 0 }) = false := by decide
theorem test_wf_tier_range : Instr.wf (.tierPages .fmApi 0 64 4096 true) = false := by decide
theorem test_wf_patrol_range : Instr.wf (.patrolRange .fmApi 5 4) = false := by decide
theorem test_wf_accepts : Instr.wf (.registerWrite .plaza 0xFFFFFC .w32 0) = true := by decide

/-! ### The spec's worked examples -/

/-- 18, "Finding four registers". -/
theorem test_register_addresses :
    Reg.DCC_SLOT 14 1 = 0x13800C ∧ Reg.NMR_TAIL 9 = 0x14812C ∧ Reg.HSL_STS 7 = 0xC7000 := by decide
/-- 18, the same example: IDG_PATH read by head H1 through LD3. -/
theorem test_path_of_reader :
    (match exec (.loHalfRead (.head 1 3) Reg.IDG_PATH .w32) State.reset with | .next t => t.out | _ => []) = [.regRead (.head 1 3) Reg.IDG_PATH 0x13] := by
  decide +kernel
/-- 01, "One cold read": the slice index of page 0x0001_2345_6789, its home and its buddy under the safe layout. -/
theorem test_slice_of_page :
    remapIndex 0x123456789 = 7 ∧ State.reset.remap 7 = 7 ∧ State.reset.buddyOf 7 = 6 := by decide +kernel
/-- LD 3 as 02, "From host address to page", decodes it. -/
def wDecoder : State :=
  let s := State.reset.updLd 3 fun d => { d with decoders := [{ base := 0x100000000000, size := 0x10000000000, ways := 2, gran := 4096, committed := true }] }
  { s with layout := { s.layout with lds := [{}, {}, {}, { head := some 1, staticGib := 512, pageBase := 0x120000000 }] } }
/-- 02, "From host address to page". -/
theorem test_host_address_to_page :
    wDecoder.dpaOf 3 0x1068ACF13140 = some 0x3456789140 ∧ wDecoder.gpnOf 3 0x3456789140 = 0x123456789 := by decide +kernel
/-- 05, "A write-back that spans two seams": the channels of its stitches. -/
theorem test_channels_of_seams :
    ([11, 12, 13].map (dataCh 1230897170)) = [13, 14, 15] ∧ ((List.range 9).map (dataCh 1230897171)) = [0, 1, 2, 5, 6, 7, 8, 9, 10] := by decide +kernel
/-- 14, "A 600 s sleep, then a correction": the slew that Set Timestamp starts. -/
theorem test_slew_of_timestamp :
    (stampTime (600000900000 - 900000) (State.reset.setTime 600000900000)).fld Reg.TIME_SLEW_REM_NS = 0xDBBA0 := by decide +kernel
/-- 13, below R392: at 9.0 V the cap is 675 W. -/
theorem test_power_cap :
    (match exec (.powerCapUpdate 9000) (wset [(Reg.SUP_STS_BAND, 1), (Reg.SUP_STS_PHASE_OK, 63)]) with | .next t => t.fld Reg.SUP_CAP_PCAP_W | _ => 0) = 675 := by decide +kernel
/-- FIPS 197, C.3 key on a block of zeros: the check of a root key (Table 16.6). -/
theorem test_root_key_check :
    keyCheck 0x1F1E1D1C1B1A191817161514131211100F0E0D0C0B0A09080706050403020100 = 0xB60090F2 := by decide +kernel
/-- CRC-32C of the nine digits, the check value of its definition. -/
theorem test_crc32c : Crypto.crc32c [49, 50, 51, 52, 53, 54, 55, 56, 57] = 0xE3069283 := by decide +kernel

/-! ### What the statements over whole states rest on -/

theorem wit_StepRunsFront : ∃ (c : Instr) (q : List Instr) (s : State), s.pending = c :: q :=
  ⟨.heatEpoch [], [.excessWindow], { State.reset with pending := [.heatEpoch [], .excessWindow] }, rfl⟩
theorem wit_IdleStepCountsTime : ∃ s : State, s.pending = [] ∧ s.fld Reg.TIME_STATUS_SOURCE ≠ 1 ∧ s.clocks.slewRem = 0 :=
  ⟨State.reset, by decide +kernel⟩
theorem wit_EveryStepKeepsCanonical : ∃ s t : State, Canonical s ∧ step s = .next t :=
  ⟨{ wHead with pending := [.heatEpoch []] }, (match step { wHead with pending := [.heatEpoch []] } with | .next t => t | _ => State.reset),
    by unfold Canonical; decide +kernel, by rfl⟩

theorem wit_ScratchTakesEveryPath_1 : ∃ a : Nat, ∃ s : State, calm s = true ∧ (a = Reg.IDG_SCRATCH ∨ a = Reg.IDG_STICKY) :=
  ⟨Reg.IDG_STICKY, State.reset, by decide +kernel⟩

theorem wit_ScratchTakesEveryPath_2 : ∃ a : Nat, ∃ s : State, calm s = true ∧ a ∈ [Reg.IDG_ID, Reg.IDG_PART, Reg.IDG_SERIAL_LO, Reg.IDG_SERIAL_HI,
    Reg.IDG_MAP, Reg.IDG_PATH] :=
  ⟨Reg.IDG_PATH, State.reset, by decide +kernel⟩

theorem wit_ScratchTakesEveryPath_3 : ∃ s : State, calm s = true :=
  ⟨State.reset, by decide +kernel⟩

theorem wit_AccessesDroppedOrWoken_1 : ∃ z : AccSize, (z = .w8 ∨ z = .w16) :=
  ⟨.w16, by decide +kernel⟩

theorem wit_AccessesDroppedOrWoken_2 : ∃ a : Nat, a ∈ [Reg.RST_CMD, Reg.CLK_CFG, Reg.SUP_CFG, Reg.SUP_CMD, Reg.FLT_CFG, Reg.FLT_INJ] :=
  ⟨Reg.FLT_INJ, by decide +kernel⟩

theorem wit_AccessesDroppedOrWoken_3 : ∃ a : Nat, ∃ s : State, calm s = true ∧ a % 4 = 0 ∧ a < 0x10000 ∧ 0x20 ≤ a :=
  ⟨0xFFFC, State.reset, by decide +kernel⟩

theorem wit_AccessesDroppedOrWoken_4 : ∃ a : Nat, ∃ d : Nat, ∃ s : State, a % 4 = 0 ∧ s.regBlocked a = some d :=
  ⟨Reg.CTM_STS, 117, State.reset.markFenced .ctm, by decide +kernel⟩

theorem wit_AccessesDroppedOrWoken_5 : ∃ a : Nat, ∃ d : Nat, ∃ s : State, a % 4 = 0 ∧ s.regBlocked a = some d :=
  ⟨Reg.CTM_STS, 117, State.reset.markFenced .ctm, by decide +kernel⟩

theorem wit_AccessesDroppedOrWoken_6 : ∃ n : Fin 8, ∃ s : State, s.domFenced (122 + n) = true :=
  ⟨7, State.reset.markFenced (.engine 7), by decide +kernel⟩

theorem wit_AccessesDroppedOrWoken_7 : ∃ n : Fin 8, ∃ s : State, s.domFenced (122 + n) = true :=
  ⟨0, State.reset.markFenced (.engine 0), by decide +kernel⟩

theorem wit_AccessesDroppedOrWoken_8 : ∃ n : Fin 8, ∃ s : State, calm s = true ∧ s.domFenced (122 + n) = false ∧ s.cond (122 + n) = .retained ∧ s.on
    Reg.PWR_STS_FORCED = false ∧ s.fld Reg.RST_STS_LEVEL = 0 ∧ s.fld Reg.PWR_STS_STATE < 2 ∧ s.pwr.move = .none ∧ s.pwr.downs = [] :=
  ⟨3, (wset [(Reg.RST_STS_LEVEL, 0)]).setCond 125 .retained, by decide +kernel⟩

theorem wit_PairsReadAndWritten_1 : ∃ a : Nat, ∃ s : State, calm s = true ∧ isLo a = true ∧ s.regBlocked a = none ∧ wakeBlockAt a s = s :=
  ⟨Reg.TIME_NS_LO, State.reset, by decide +kernel⟩

theorem wit_PairsReadAndWritten_2 : ∃ p : Path, ∃ a : Nat, ∃ v : Word, ∃ s : State, calm s = true ∧ isLo a = true ∧ s.regBlocked (a + 4) = none ∧
    wakeBlockAt (a + 4) s = s ∧ SMap.get none (s.path (Path.key p)).latch a = some v :=
  ⟨.plaza, Reg.TIME_NS_LO, 7, State.reset.updPath 4 fun x => { x with latch := [(Reg.TIME_NS_LO, some 7)] }, by decide +kernel⟩

theorem wit_PairsReadAndWritten_3 : ∃ p : Path, ∃ a : Nat, ∃ s : State, calm s = true ∧ isLo a = true ∧ s.regBlocked (a + 4) = none ∧ wakeBlockAt (a
    + 4) s = s ∧ SMap.get none (s.path (Path.key p)).latch a = none :=
  ⟨.plaza, Reg.TIME_NS_LO, State.reset, by decide +kernel⟩

theorem wit_PairsReadAndWritten_4 : ∃ s : State, calm s = true :=
  ⟨State.reset, by decide +kernel⟩

theorem wit_PairsReadAndWritten_5 : ∃ i : Fin 96, ∃ x : Word, ∃ s : State, calm s = true ∧ SMap.get none (s.path 4).held (Reg.PMU_CTR_LO i) = some x
    :=
  ⟨0, 9, State.reset.updPath 4 fun x => { x with held := [(Reg.PMU_CTR_LO 0, some 9)] }, by decide +kernel⟩

theorem wit_SelectorPerPath_1 : ∃ s : State, calm s = true :=
  ⟨State.reset, by decide +kernel⟩

theorem wit_SelectorPerPath_2 : ∃ s : State, calm s = true ∧ s.domFenced 134 = false :=
  ⟨State.reset, by decide +kernel⟩

theorem wit_SelectorPerPath_3 : ∃ s : State, calm s = true ∧ s.domFenced 142 = false :=
  ⟨State.reset, by decide +kernel⟩

theorem wit_SelectorPerPath_4 : ∃ s : State, calm s = true :=
  ⟨State.reset.updPath 1 fun x => { x with qosCsel := 63 }, by decide +kernel⟩

theorem wit_SelectorPerPath_5 : ∃ s : State, calm s = true ∧ s.domFenced 134 = false :=
  ⟨State.reset.updPath 1 fun x => { x with cryEpochSel := 63 }, by decide +kernel⟩

theorem wit_SelectorPerPath_6 : ∃ s : State, calm s = true ∧ s.domFenced 142 = false :=
  ⟨State.reset.updPath 1 fun x => { x with nocMpSel := 63 }, by decide +kernel⟩

theorem wit_HostAccessEntersThePen_1 : ∃ h : Fin 4, ∃ ld : Fin 16, ∃ hpa : Nat, ∃ a : Nat, ∃ s : State, hostReady h ld s = true ∧ s.dpaOf ld hpa =
    some a ∧ s.reachable ld a = true :=
  ⟨0, 0, 0x3FFFFFC0, 0x3FFFFFC0, wHost, by decide +kernel⟩

theorem wit_HostAccessEntersThePen_2 : ∃ h : Fin 4, ∃ ld : Fin 16, ∃ hpa : Nat, ∃ a : Nat, ∃ s : State, hostReady h ld s = true ∧ s.dpaOf ld hpa =
    some a ∧ s.reachable ld a = true ∧ s.isFrozen ld a = false :=
  ⟨0, 0, 64, 64, wHost, by decide +kernel⟩

theorem wit_AccessOutsideCapacity_1 : ∃ h : Fin 4, ∃ ld : Fin 16, ∃ hpa : Nat, ∃ s : State, hostReady h ld s = true ∧ (s.dpaOf ld hpa).any
    (s.reachable ld) = false :=
  ⟨0, 0, 0x40000000, wHost, by decide +kernel⟩

theorem wit_AccessOutsideCapacity_2 : ∃ h : Fin 4, ∃ ld : Fin 16, ∃ hpa : Nat, ∃ a : Nat, ∃ s : State, hostReady h ld s = true ∧ s.dpaOf ld hpa =
    some a ∧ s.reachable ld a = false :=
  ⟨0, 0, 64, 64, wHost.updLd 0 fun d => { d with memActive := false }, by decide +kernel⟩

theorem wit_Bar4TakesAtomics_1 : ∃ h : Fin 4, ∃ x : Nat, ∃ op : AtomicKind × Nat × BitVec 128 × BitVec 128, ∃ o : AtomicOp, ∃ s : State, serving s =
    true ∧ s.takes h = true ∧ bar4Op x op = some o ∧ s.on (Reg.HSC_AWIN_EN h) = true ∧ s.bitOf (Reg.HPA_CFG_LD_MASK h) (s.fld (Reg.HSC_AWIN_LD h)) =
    true ∧ s.reachable (s.fld (Reg.HSC_AWIN_LD h)) (s.fld (Reg.HSC_AWIN_DPA_GIB h) * gib + x) = true ∧ s.isFrozen (s.fld (Reg.HSC_AWIN_LD h)) (s.fld
    (Reg.HSC_AWIN_DPA_GIB h) * gib + x) = false :=
  ⟨0, 0x48, (.fetchAdd, 8, 1, 0), { op := .fetchAdd, off := 8, bytes := 8, operand := 1, compare := 0 }, (wHost.setFld (Reg.HSC_AWIN_EN 0) 1).setFld
    (Reg.HPA_CFG_LD_MASK 0) 1, by decide +kernel⟩

theorem wit_Bar4TakesAtomics_3 : ∃ h : Fin 4, ∃ x : Nat, ∃ op : Option (AtomicKind × Nat × BitVec 128 × BitVec 128), ∃ s : State, s.takes h = true ∧
    op.bind (bar4Op x) = none :=
  ⟨0, 4, some (.swap, 8, 1, 0), wHost, by decide +kernel⟩

theorem wit_Bar4TakesAtomics_4 : ∃ h : Fin 4, ∃ s : State, s.takes h = true ∧ ((s.on (Reg.HSC_AWIN_EN h) = false ∨ s.bitOf (Reg.HPA_CFG_LD_MASK h)
    (s.fld (Reg.HSC_AWIN_LD h)) = false)) :=
  ⟨0, wHost, by decide +kernel⟩

theorem wit_PenEntriesLeave_1 : ∃ h : Fin 4, ∃ id : Nat, ∃ e : PenEntry, ∃ r : Reply, ∃ s1 : State, ∃ s : State, calm s = true ∧ s.penEntry h id =
    some e ∧ takeReply id (fun r => r.req.ofHead h && r.kind == .accepted) s = some (r, s1) ∧ ((∀ k : Fin 16, (s.ld k).releasing = [])) :=
  ⟨0, 7, { req := wReq 7 .read, phase := .injected }, { req := wReq 7 .read, kind := .accepted }, wPen { req := wReq 7 .read, phase := .injected },
    wReply { req := wReq 7 .read, phase := .injected } .accepted, by decide +kernel⟩

theorem wit_PenEntriesLeave_2 : ∃ h : Fin 4, ∃ id : Nat, ∃ e : PenEntry, ∃ s : State, s.penEntry h id = some e ∧ e.phase = .backoff ∧ s.frozenPage
    e.req = false :=
  ⟨0, 7, { req := { wReq 7 .read with nacks := 2 }, phase := .backoff }, wPen { req := { wReq 7 .read with nacks := 2 }, phase := .backoff },
    by decide +kernel⟩

theorem wit_PenEntriesLeave_3 : ∃ h : Fin 4, ∃ id : Nat, ∃ e : PenEntry, ∃ s : State, s.penEntry h id = some e ∧ e.phase = .backoff ∧ e.req.kind =
    .write ∧ s.frozenPage e.req = true ∧ ((∀ k : Fin 16, (s.ld k).releasing = [])) :=
  ⟨0, 7, { req := wReq 7 .write, phase := .backoff }, ((wPen { req := wReq 7 .write, phase := .backoff }).setFld (Reg.CTM_LWIN_SLOTS 0) 8).updLd 0
    fun d => { d with extents := [{ gib := 0, accepted := true, frozen := true }] }, by decide +kernel⟩

theorem wit_PenEntriesLeave_4 : ∃ h : Fin 4, ∃ id : Nat, ∃ r : Reply, ∃ s1 : State, ∃ e : PenEntry, ∃ b : Nat, ∃ k : Option Nat, ∃ s : State,
    takeReply id (fun r => r.req.ofHead h && r.kind != .accepted) s = some (r, s1) ∧ r.kind = .nack b k ∧ s1.penEntry h id = some e :=
  ⟨0, 7, { req := wReq 7 .read, kind := .nack 0 none }, wPen { req := wReq 7 .read }, { req := wReq 7 .read }, 0, none, wReply
    { req := wReq 7 .read } (.nack 0 none), by decide +kernel⟩

theorem wit_PenEntriesLeave_5 : ∃ h : Fin 4, ∃ id : Nat, ∃ r : Reply, ∃ s1 : State, ∃ v : Line, ∃ p : Bool, ∃ s : State, takeReply id (fun r =>
    r.req.ofHead h && r.kind != .accepted) s = some (r, s1) ∧ r.kind = .data v p ∧ s1.oldEpoch h r.req.epoch = false ∧ (s1.head h).insecure = false :=
  ⟨0, 7, { req := wReq 7 .read, kind := .data 5 true }, wPen { req := wReq 7 .read }, 5, true, wReply { req := wReq 7 .read } (.data 5 true),
    by decide +kernel⟩

theorem wit_PenEntriesLeave_6 : ∃ h : Fin 4, ∃ id : Nat, ∃ r : Reply, ∃ s1 : State, ∃ s : State, takeReply id (fun r => r.req.ofHead h && r.kind !=
    .accepted) s = some (r, s1) ∧ r.kind = .done ∧ s1.oldEpoch h r.req.epoch = false ∧ (s1.head h).insecure = false :=
  ⟨0, 7, { req := wReq 7 .write, kind := .done }, wPen { req := wReq 7 .write }, wReply { req := wReq 7 .write } .done, by decide +kernel⟩

theorem wit_PenEntriesLeave_7 : ∃ h : Fin 4, ∃ id : Nat, ∃ r : Reply, ∃ s1 : State, ∃ v : Line, ∃ p : Bool, ∃ s : State, takeReply id (fun r =>
    r.req.ofHead h && r.kind != .accepted) s = some (r, s1) ∧ r.kind = .data v p ∧ (s1.oldEpoch h r.req.epoch = true ∨ (s1.head h).insecure = true) :=
  ⟨0, 7, { req := { wReq 7 .read with epoch := 3 }, kind := .data 5 true }, wPen { req := { wReq 7 .read with epoch := 3 } }, 5, true, wReply
    { req := { wReq 7 .read with epoch := 3 } } (.data 5 true), by decide +kernel⟩

theorem wit_PenAgeLimit_1 : ∃ h : Fin 4, ∃ id : Nat, ∃ e : PenEntry, ∃ s : State, s.penEntry h id = some e ∧ e.req.kind = .read ∧ s.acceptedReply id
    = false ∧ ((∀ k : Fin 16, (s.ld k).releasing = [])) :=
  ⟨0, 7, { req := wReq 7 .read, phase := .injected }, wPen { req := wReq 7 .read, phase := .injected }, by decide +kernel⟩

theorem wit_PenAgeLimit_2 : ∃ h : Fin 4, ∃ id : Nat, ∃ e : PenEntry, ∃ s : State, s.penEntry h id = some e ∧ e.req.kind = .write ∧ e.expired = false
    ∧ s.acceptedReply id = false :=
  ⟨0, 7, { req := wReq 7 .write, phase := .injected }, wPen { req := wReq 7 .write, phase := .injected }, by decide +kernel⟩

theorem wit_LinkTrains_1 : ∃ h : Fin 4, ∃ s : State, s.headLive h = true ∧ (s.head h).link = .measuring ∧ (s.head h).epochDue = false :=
  ⟨0, wHead.updHead 0 fun x => { x with link := .measuring }, by decide +kernel⟩

theorem wit_LinkTrains_2 : ∃ h : Fin 4, ∃ q : Partner, ∃ width : Nat, ∃ r : Nat, ∃ s : State, serving s = true ∧ s.headLive h = true ∧ ((s.head
    h).link = .training ∨ (s.head h).link = .up) ∧ s.headClock h = true ∧ q.flit = true ∧ powWidth (Nat.min width (s.maxWidth h)) ≠ 0 ∧ bestRate
    (Nat.min (if s.fld (Reg.HPA_CABLE_RATE_LIMIT h) = 0 then 1 else s.fld (Reg.HPA_CABLE_RATE_LIMIT h)) (Nat.min (s.rateMax h) (s.head h).rateCap))
    q.rates = some r :=
  ⟨0, { rates := 0b1011, flit := true, lopt := true, switch := true, ide := true, ptm := false, cxlVer := 2, cxlMem := true }, 16, 2,
    (((wHead.updHead 0 fun x => { x with link := .training }).setFld (Reg.HPA_CABLE_RATE_LIMIT 0) 3).setFld (Reg.HPA_CFG_LD_MASK 0) 0x8003),
    by decide +kernel⟩

theorem wit_LinkTrains_3 : ∃ h : Fin 4, ∃ q : Partner, ∃ s : State, s.headLive h = true ∧ (s.head h).link = .training ∧ s.linkUp h = false ∧
    s.headClock h = true ∧ (q.flit = false ∨ q.rates = 0) :=
  ⟨0, { rates := 15, flit := false, lopt := false, switch := false, ide := false, ptm := false, cxlVer := 2, cxlMem := true }, (wHead.setFld
    (Reg.HPA_LINK_STS_UP 0) 0).updHead 0 fun x => { x with link := .training }, by decide +kernel⟩

theorem wit_LinkTrains_4 : ∃ h : Fin 4, ∃ s : State, s.headLive h = true ∧ s.on (Reg.HPA_CTL_LINK_EN h) = false ∧ s.perstHeld h = false :=
  ⟨0, ((wHead.setFld (Reg.HPA_CTL_LINK_EN 0) 0).updHead 0 fun x => { x with link := .disabled }).onRst fun r => { r with lowPins := [] },
    by decide +kernel⟩

theorem wit_LinkFails_1 : ∃ h : Fin 4, ∃ s : State, s.headLive h = true ∧ s.linkUp h = true :=
  ⟨0, wHead, by decide +kernel⟩

theorem wit_LinkFails_2 : ∃ h : Fin 4, ∃ s : State, s.headLive h = true ∧ s.linkUp h = true ∧ s.fld (Reg.HPA_CTL_FALLBACK_THR h) ≠ 0 ∧ s.fld
    (Reg.HPA_CTL_FALLBACK_THR h) < ((s.head h).recov.filter fun x => decide (s.clk < x + sec)).length ∧ 1 < s.fld (Reg.HPA_LINK_STS_RATE h) :=
  ⟨0, ((wHead.setFld (Reg.HPA_LINK_STS_RATE 0) 3).setFld (Reg.HPA_CTL_FALLBACK_THR 0) 1).updHead 0 fun x => { x with recov := [0, 0] },
    by decide +kernel⟩

theorem wit_LinkFails_3 : ∃ h : Fin 4, ∃ s : State, s.headLive h = true ∧ s.linkUp h = true :=
  ⟨0, wHead.setFld (Reg.HPA_LINK_STS_CAP_ERR 0) 1, by decide +kernel⟩

theorem wit_LinkFails_4 : ∃ h : Fin 4, ∃ s : State, s.headLive h = true ∧ s.linkUp h = true ∧ s.effLevel 3 < 2 :=
  ⟨0, wHead.updHead 0 fun x => { x with pen := [{ req := wReq 7 .read }, { req := wReq 8 .write }], memKey := { rx := some 5 }, hostViral := true },
    by decide +kernel⟩

theorem wit_LinkFails_5 : ∃ h : Fin 4, ∃ s : State, calm s = true ∧ s.headLive h = true ∧ s.on (Reg.HPA_CTL_LINK_EN h) = true ∧ s.effLevel 3 < 2 :=
  ⟨0, wHead.updHead 0 fun x => { x with link := .up }, by decide +kernel⟩

theorem wit_LinkFails_6 : ∃ h : Fin 4, ∃ s : State, s.headLive h = true ∧ s.linkUp h = true :=
  ⟨0, wHead, by decide +kernel⟩

theorem wit_IdeKeysOncePerReset_1 : ∃ h : Fin 4, ∃ dir : IdeDir, ∃ s : State, s.headLive h = true ∧ ((s.head h).memKey.get dir).isNone = true :=
  ⟨0, .tx, wHead.updHead 0 fun x => { x with memKey := { rx := some 5 } }, by decide +kernel⟩

theorem wit_IdeKeysOncePerReset_2 : ∃ h : Fin 4, ∃ dir : IdeDir, ∃ s : State, s.headLive h = true ∧ ((s.head h).ioKey.get dir).isNone = true :=
  ⟨0, .tx, wHead.updHead 0 fun x => { x with ioKey := { rx := some 5 } }, by decide +kernel⟩

theorem wit_IdeKeysOncePerReset_3 : ∃ h : Fin 4, ∃ dir : IdeDir, ∃ s : State, s.headLive h = true ∧ ((s.head h).memKey.get dir).isSome = true :=
  ⟨0, .rx, wHead.updHead 0 fun x => { x with memKey := { rx := some 5 } }, by decide +kernel⟩

theorem wit_IdeKeysOncePerReset_4 : ∃ h : Fin 4, ∃ dir : IdeDir, ∃ s : State, s.headLive h = true ∧ ((s.head h).ioKey.get dir).isSome = true :=
  ⟨0, .rx, wHead.updHead 0 fun x => { x with ioKey := { rx := some 5 } }, by decide +kernel⟩

theorem wit_IdeKeysOncePerReset_5 : ∃ h : Fin 4, ∃ s : State, s.headLive h = true ∧ s.fld (Reg.HPA_IDE_STS_MEM_STATE h) = 1 :=
  ⟨0, (wHead.setFld (Reg.HPA_IDE_STS_MEM_STATE 0) 1).updHead 0 fun x => { x with rekey := [.mem, .io] }, by decide +kernel⟩

theorem wit_IdeKeysOncePerReset_6 : ∃ h : Fin 4, ∃ s : State, s.headLive h = true ∧ s.fld (Reg.HPA_IDE_STS_IO_STATE h) = 1 :=
  ⟨0, (wHead.setFld (Reg.HPA_IDE_STS_IO_STATE 0) 1).updHead 0 fun x => { x with rekey := [.mem, .io] }, by decide +kernel⟩

theorem wit_IdeKeysOncePerReset_7 : ∃ h : Fin 4, ∃ s : State, s.headLive h = true ∧ s.fld (Reg.HPA_IDE_STS_MEM_STATE h) = 2 :=
  ⟨0, wHead.setFld (Reg.HPA_IDE_STS_MEM_STATE 0) 2, by decide +kernel⟩

theorem wit_IdeKeysOncePerReset_8 : ∃ h : Fin 4, ∃ s : State, s.headLive h = true ∧ s.fld (Reg.HPA_IDE_STS_IO_STATE h) = 2 :=
  ⟨0, wHead.setFld (Reg.HPA_IDE_STS_IO_STATE 0) 2, by decide +kernel⟩

theorem wit_DynamicCapacity_1 : ∃ ld : Fin 16, ∃ g : Nat, ∃ s : State, s.offersAllowed ≠ 0 ∧ s.mayOffer ld g false = true :=
  ⟨0, 4, wOffer, by decide +kernel⟩

theorem wit_DynamicCapacity_2 : ∃ ld : Fin 16, ∃ g : Nat, ∃ key : Nat, ∃ p : Nat, ∃ s : State, s.offersAllowed ≠ 0 ∧ s.mayOffer ld g true = true ∧
    s.domainOf key = none ∧ s.freeShareBlock = some p :=
  ⟨0, 4, 9, 1572864, let s := wOffer.setFld (Reg.CTM_LWIN_SLOTS 16) 2;
    { s with layout := { s.layout with lds := [{ head := some 0, staticGib := 1, dcGib := 4, db := [(0, 8)] }], share := some (1572864, 2) } },
    by decide +kernel⟩

theorem wit_DynamicCapacity_3 : ∃ ld : Fin 16, ∃ g : Nat, ∃ share : Option Nat, ∃ s : State, (s.offersAllowed = 0 ∨ s.mayOffer ld g share.isSome =
    false) :=
  ⟨0, 0, none, wOffer, by decide +kernel⟩

theorem wit_DynamicCapacity_4 : ∃ ld : Fin 16, ∃ g : Nat, ∃ e : Extent, ∃ s : State, (s.ld ld).extents.find? (fun x => x.gib == g && !x.accepted) =
    some e :=
  ⟨0, 1, { gib := 1 }, wDc false, by decide +kernel⟩

theorem wit_DynamicCapacity_5 : ∃ ld : Fin 16, ∃ g : Nat, ∃ e : Extent, ∃ s : State, calm s = true ∧ (s.ld ld).extents.find? (fun x => x.gib == g) =
    some e ∧ e.accepted = true ∧ e.share = none ∧ (s.ld ld).releasing = [] ∧ s.releaseReady ld (s.extentBase ld e) false = false :=
  ⟨0, 1, { gib := 1, accepted := true }, (wDc true).updHead 0 fun x => { x with pen := [{ req := { wReq 7 .write with gpn := 262144 } }] },
    by decide +kernel⟩

theorem wit_DynamicCapacity_6 : ∃ ld : Fin 16, ∃ g : Nat, ∃ e : Extent, ∃ s : State, calm s = true ∧ (s.ld ld).extents.find? (fun x => x.gib == g) =
    some e ∧ e.accepted = true ∧ e.share = none ∧ e.frozen = false ∧ (s.ld ld).releasing = [] ∧ s.releaseReady ld (s.extentBase ld e) false = true ∧
    ((s.slotOf (s.extentBase ld e)).all fun k => (SMap.get (0, 0) s.cold.used k).1 == 0) = true :=
  ⟨0, 1, { gib := 1, accepted := true }, wDc true, by decide +kernel⟩

theorem wit_DynamicCapacity_7 : ∃ ld : Fin 16, ∃ g : Nat, ∃ key : Nat, ∃ e : Extent, ∃ d : ShareDomain, ∃ s : State, calm s = true ∧ (s.ld
    ld).extents.find? (fun x => x.gib == g) = some e ∧ e.accepted = true ∧ e.share = some key ∧ e.frozen = false ∧ (s.ld ld).releasing = [] ∧
    s.domainOf key = some d ∧ (d.members.filter (· != (ld.val, g))).isEmpty = false ∧ s.releaseReady ld d.firstPage true = true :=
  ⟨0, 1, 9, { gib := 1, accepted := true, share := some 9 }, { key := 9, firstPage := 1572864, members := [(0, 1), (1, 1)] }, ((wDc true).updLd 0 fun
    x => { x with extents := [{ gib := 1, accepted := true, share := some 9 }] }).onCold fun c =>
    { c with domains := [{ key := 9, firstPage := 1572864, members := [(0, 1), (1, 1)] }] }, by decide +kernel⟩

theorem wit_SliceTakesRequests_1 : ∃ sl : Fin 34, ∃ r : Req, ∃ h : Nat, ∃ k : Nat, ∃ s : State, calm s = true ∧ s.fld Reg.PWR_STS_STATE < 2 ∧
    s.flight = [r] ∧ s.home r.gpn = sl.val ∧ r.agent = .host h k ∧ (r.kind = .read ∨ r.kind = .write) ∧ r.db = false ∧ r.retry = false ∧ s.entryHeld
    (remapIndex r.gpn) = false ∧ s.refuses sl r = none ∧ s.sramEntry sl r.gpn = none ∧ s.filterLost r = false ∧ s.keyless r.gpn = false :=
  ⟨3, wReq 7 .read, 0, 0, (wFly .read).setFld Reg.PWR_STS_STATE 0, by decide +kernel⟩

theorem wit_SliceTakesRequests_2 : ∃ sl : Fin 34, ∃ r : Req, ∃ h : Nat, ∃ k : Nat, ∃ why : Nat, ∃ s : State, calm s = true ∧ s.fld Reg.PWR_STS_STATE
    < 2 ∧ s.flight = [r] ∧ s.home r.gpn = sl.val ∧ r.agent = .host h k ∧ (r.kind = .read ∨ r.kind = .write) ∧ r.db = false ∧ r.retry = false ∧
    s.entryHeld (remapIndex r.gpn) = false ∧ s.refuses sl r = some why ∧ s.filterLost r = false ∧ r.nacks < 3 ∧ r.ticket = none :=
  ⟨3, wReq 7 .read, 0, 0, 0, (wFly .read).updSlice 3 fun x => { x with txns := [{ req := wReq 6 .write }] }, by decide +kernel⟩

theorem wit_SliceTakesRequests_3 : ∃ sl : Fin 34, ∃ r : Req, ∃ h : Nat, ∃ k : Nat, ∃ why : Nat, ∃ s : State, calm s = true ∧ s.fld Reg.PWR_STS_STATE
    < 2 ∧ s.flight = [r] ∧ s.home r.gpn = sl.val ∧ r.agent = .host h k ∧ (r.kind = .read ∨ r.kind = .write) ∧ r.db = false ∧ r.retry = false ∧
    s.entryHeld (remapIndex r.gpn) = false ∧ s.refuses sl r = some why ∧ s.filterLost r = false ∧ r.nacks = 3 ∧ r.ticket = none :=
  ⟨3, { wReq 7 .read with nacks := 3 }, 0, 0, 0,
    { (wFly .read).updSlice 3 fun x => { x with txns := [{ req := wReq 6 .write }] } with flight := [{ wReq 7 .read with nacks := 3 }] },
    by decide +kernel⟩

theorem wit_TicketsAndRetries_1 : ∃ sl : Fin 34, ∃ key : Nat, ∃ x : Ticket, ∃ s : State, s.ticketAt sl key = some x :=
  ⟨0, 5, { key := 5, issue := 3, serve := 1, since := 4 }, State.reset.updSlice 0 fun x =>
    { x with tickets := [{ key := 5, issue := 3, serve := 1, since := 4 }, { key := 6, issue := 1, serve := 0, since := 0 }] }, by decide +kernel⟩

theorem wit_TicketsAndRetries_2 : ∃ r : Req, ∃ s : State, calm s = true ∧ s.flight = [r] ∧ r.nackAt ≠ 0 ∧ r.nacks = 1 ∧ r.agent = .plaza ∧ r.kind =
    .pageOp .distress ∧ r.retry = false ∧ s.entryHeld (remapIndex r.gpn) = false ∧ s.refuses (s.home r.gpn) r = none ∧ s.filterLost r = false ∧ r.db
    = false :=
  ⟨{ wReq 7 (.pageOp .distress) with agent := .plaza, nackAt := 5, nacks := 1 },
    { State.reset with flight := [{ wReq 7 (.pageOp .distress) with agent := .plaza, nackAt := 5, nacks := 1 }] }, by decide +kernel⟩

theorem wit_SnoopsAnswered_1 : ∃ sl : Fin 34, ∃ la : Nat, ∃ ld : Fin 16, ∃ x : Txn, ∃ s : State, calm s = true ∧ (s.slice sl).fenced = false ∧
    (s.filter la).state = 1 ∧ ((∀ k : Fin 16, (s.ld k).releasing = [])) ∧ s.awaiting sl la ld = some (x, false) ∧ (x.snoops.filter (· !=
    ld.val)).isEmpty = false :=
  ⟨3, 197, 1, { req := { wReq 7 .read with db := true, mval := .any }, phase := .snoop, snoops := [0, 1] }, wTxn [0, 1], by decide +kernel⟩

theorem wit_SnoopsAnswered_2 : ∃ sl : Fin 34, ∃ la : Nat, ∃ ld : Fin 16, ∃ s : State, (s.slice sl).fenced = false ∧ (s.filter la).state = 3 ∧
    (s.filter la).silent.getLsbD ld = true :=
  ⟨3, 197, 1, State.reset.updSlice 3 fun x => { x with filter := [(197, { state := 3, silent := 2, la := 197 })] }, by decide +kernel⟩

theorem wit_SnoopsAnswered_3 : ∃ sl : Fin 34, ∃ s : State, (s.slice sl).fenced = true :=
  ⟨3, State.reset.updSlice 3 fun x => { x with fenced := true }, by decide +kernel⟩

theorem wit_SnoopsAnswered_4 : ∃ sl : Fin 34, ∃ la : Nat, ∃ ld : Fin 16, ∃ x : Txn, ∃ s : State, ((∀ k : Fin 16, (s.ld k).releasing = [])) ∧
    s.awaiting sl la ld = some (x, false) ∧ s.txn sl x.req.id = some x ∧ (x.snoops.filter (· != ld.val)).isEmpty = false :=
  ⟨3, 197, 1, { req := { wReq 7 .read with db := true, mval := .any }, phase := .snoop, snoops := [0, 1] }, wTxn [0, 1], by decide +kernel⟩

theorem wit_SpareTakesTheEntry_1 : ∃ e : Fin 32, ∃ x : Takeover, ∃ sp : Nat, ∃ s : State, s.takeover e = some x ∧ x.spare = some sp ∧ x.step = 4 ∧
    x.double = false ∧ s.pwr.downs = [] ∧ s.domFenced (8 + sp) = false ∧ s.tableCond 0 (8 + sp) = .on :=
  ⟨2, { entry := 2, failed := 2, spare := some 32, step := 4 }, 32, wTake 4, by decide +kernel⟩

theorem wit_SpareTakesTheEntry_2 : ∃ e : Fin 32, ∃ x : Takeover, ∃ sp : Nat, ∃ s : State, s.takeover e = some x ∧ x.spare = some sp ∧ x.step = 5 :=
  ⟨2, { entry := 2, failed := 2, spare := some 32, step := 5 }, 32, (wTake 5).updSlice 3 fun y =>
    { y with mirror := [(128, { state := 1, la := 128 })] }, by decide +kernel⟩

theorem wit_SpareTakesTheEntry_3 : ∃ e : Fin 32, ∃ x : Takeover, ∃ sp : Nat, ∃ s : State, s.takeover e = some x ∧ x.spare = some sp ∧ sp < 64 ∧
    x.step = 7 ∧ s.noc.flipping = false ∧ ((s.slice (s.buddyOf e)).txns.any fun y => remapIndex y.req.gpn == e.val) = false :=
  ⟨2, { entry := 2, failed := 2, spare := some 32, step := 7 }, 32, wTake 7, by decide +kernel⟩

theorem wit_SpareTakesTheEntry_4 : ∃ h : Fin 4, ∃ s : State, s.teardown.contains h.val = true ∧ s.oldWrites h = false ∧ (s.slices.all fun e =>
    e.2.txns.isEmpty) = true ∧ ((∀ k : Fin 16, (s.ld k).releasing = [])) :=
  ⟨1, { State.reset with teardown := [0, 1, 2] }, by decide +kernel⟩

theorem wit_MapEntryArrives_1 : ∃ p : Nat, ∃ sl : Nat, ∃ s : State, s.entrySlice p = sl ∧ (s.awaitEntry sl p).isEmpty = false ∧ s.wayOf (p / 256) =
    none :=
  ⟨3, 3, State.reset.updSlice 3 fun x => { x with txns := [{ req := wReq 7 .read, phase := .map }] }, by decide +kernel⟩

theorem wit_MapEntryArrives_2 : ∃ p : Nat, ∃ id : Nat, ∃ w : Nat, ∃ sl : Nat, ∃ x : Txn, ∃ s : State, calm s = true ∧ s.entrySlice p = sl ∧
    s.awaitEntry sl p = [id] ∧ s.txn sl id = some x ∧ x.req.gpn = p ∧ x.req.kind = .read ∧ x.req.agent = .host 0 0 ∧ s.wayOf (p / 256) = some w ∧
    entryOk (SMap.get zeroEntry s.hot.entries p) = true ∧ (s.entry p).state = 0 ∧ s.marks p = 0 ∧ s.on Reg.FLT_INJ_ARM = false :=
  ⟨3, 7, 0, 3, { req := wReq 7 .read, phase := .map, slot := some 0 }, wPageTxn {} .read .map, by decide +kernel⟩

theorem wit_MapEntryArrives_3 : ∃ p : Nat, ∃ w : Nat, ∃ sl : Nat, ∃ err : BitVec 128, ∃ s : State, s.entrySlice p = sl ∧ (s.awaitEntry sl p).isEmpty
    = false ∧ s.wayOf (p / 256) = some w ∧ entryOk (SMap.get zeroEntry s.hot.entries p ^^^ err) = false :=
  ⟨3, 0, 3, 4, wPageTxn {} .read .map, by decide +kernel⟩

theorem wit_MapEntryArrives_4 : ∃ p : Nat, ∃ id : Nat, ∃ w : Nat, ∃ sl : Nat, ∃ x : Txn, ∃ s : State, calm s = true ∧ s.entrySlice p = sl ∧
    s.awaitEntry sl p = [id] ∧ s.txn sl id = some x ∧ x.req.gpn = p ∧ x.req.kind = .read ∧ x.req.agent = .host 0 0 ∧ s.wayOf (p / 256) = some w ∧
    (s.entry p).state = 0 ∧ s.marks p = 0 ∧ s.on Reg.FLT_INJ_ARM = false :=
  ⟨3, 7, 0, 3, { req := wReq 7 .read, phase := .map, slot := some 0 }, wPageTxn {} .read .map, by decide +kernel⟩

theorem wit_HotLineAccess_1 : ∃ id : Nat, ∃ sl : Nat, ∃ p : Nat, ∃ k : Nat, ∃ x : Txn, ∃ v : Line, ∃ bad : Bool, ∃ s : State, calm s = true ∧
    s.sliceOfTxn id = some sl ∧ s.txn sl id = some x ∧ x.phase = .frame ∧ x.slot = some k ∧ (((s.group k).rq ++ (s.group k).wq).any fun a => a.id ==
    id) = false ∧ x.req.kind = .read ∧ x.val = none ∧ x.req.agent = .host 0 0 ∧ x.req.gpn = p ∧ 2 ≤ (s.entry p).state ∧ s.hot.inject = [] ∧ s.lineAt
    p (s.entry p).frame x.req.line = .line v bad :=
  ⟨7, 3, 3, 0, { req := wReq 7 .read, phase := .frame, slot := some 0 }, 9, false, setLine 16 5 9 (updDesc 16 (fun _ =>
    { kind := 1, gpn := 3, valid := 32 }) (wPageTxn { state := 2, scnt := 1, frame := 16 } .read .frame)), by decide +kernel⟩

theorem wit_HotLineAccess_2 : ∃ id : Nat, ∃ sl : Nat, ∃ p : Nat, ∃ k : Nat, ∃ x : Txn, ∃ v : Line, ∃ bad : Bool, ∃ s : State, s.sliceOfTxn id = some
    sl ∧ s.txn sl id = some x ∧ x.phase = .frame ∧ x.slot = some k ∧ (((s.group k).rq ++ (s.group k).wq).any fun a => a.id == id) = false ∧
    x.req.kind = .read ∧ x.val = none ∧ x.req.agent = .host 0 0 ∧ x.req.gpn = p ∧ 2 ≤ (s.entry p).state ∧ s.hot.inject = [] ∧ s.lineAt p (s.entry
    p).frame x.req.line = .line v bad :=
  ⟨7, 3, 3, 0, { req := wReq 7 .read, phase := .frame, slot := some 0 }, 9, false, setLine 16 5 9 (updDesc 16 (fun _ =>
    { kind := 1, gpn := 3, valid := 32 }) (wPageTxn { state := 2, scnt := 1, frame := 16 } .read .frame)), by decide +kernel⟩

theorem wit_HotLineAccess_3 : ∃ id : Nat, ∃ sl : Nat, ∃ p : Nat, ∃ k : Nat, ∃ mf : Nat, ∃ x : Txn, ∃ s : State, calm s = true ∧ s.sliceOfTxn id =
    some sl ∧ s.txn sl id = some x ∧ x.phase = .frame ∧ x.slot = some k ∧ (((s.group k).rq ++ (s.group k).wq).any fun a => a.id == id) = false ∧
    x.req.kind = .write ∧ x.val = none ∧ x.req.agent = .host 0 0 ∧ x.req.gpn = p ∧ x.req.line < 64 ∧ x.req.mask = BitVec.allOnes 64 ∧ (s.entry
    p).state = 3 ∧ (s.desc (s.entry p).frame).partner = some mf ∧ mf ≠ (s.entry p).frame ∧ s.hot.inject = [] ∧ s.on Reg.FLT_INJ_ARM = false :=
  ⟨7, 3, 3, 0, 17, { req := { wReq 7 .write with data := 11, mask := BitVec.allOnes 64 }, phase := .frame, slot := some 0 }, updDesc 16 (fun _ =>
    { kind := 1, gpn := 3, partner := some 17 }) ((wPage { state := 3, frame := 16 }).updSlice 3 fun y =>
    { y with txns := [{ req := { wReq 7 .write with data := 11, mask := BitVec.allOnes 64 }, phase := .frame, slot := some 0 }] }), by decide +kernel⟩

theorem wit_HotLineAccess_4 : ∃ id : Nat, ∃ sl : Nat, ∃ p : Nat, ∃ x : Txn, ∃ s : State, calm s = true ∧ s.sliceOfTxn id = some sl ∧ s.txn sl id =
    some x ∧ x.phase = .frames ∧ x.req.gpn = p ∧ (s.entry p).state = 3 ∧ (s.desc (s.entry p).frame).partner.isSome = true ∧ (s.group (groupKey
    (s.entry p).frame)).wq.length < 512 :=
  ⟨7, 3, 3, { req := wReq 7 .write, phase := .frames, slot := some 0 }, updDesc 16 (fun _ => { kind := 1, gpn := 3, partner := some 17 }) (wPageTxn
    { state := 3, frame := 16 } .write .frames), by decide +kernel⟩

theorem wit_FillsAndCleaning_1 : ∃ p : Nat, ∃ id : Nat, ∃ fl : Fill, ∃ ls : List Line, ∃ pm : BitVec 64, ∃ s : State, calm s = true ∧ s.fillOf p =
    some fl ∧ fl.gpn = p ∧ fl.source = .cold id ∧ fl.masks = [] ∧ (s.job id).bind ReadJob.result = some (.lines ls pm) ∧ (s.desc fl.frame).partner =
    none ∧ (s.slices.all fun e => e.2.txns.isEmpty) = true :=
  ⟨3, 4, { gpn := 3, frame := 16, source := .cold 4 }, [5, 6, 7], 0, wFill, by decide +kernel⟩

theorem wit_FillsAndCleaning_2 : ∃ p : Nat, ∃ s : State, calm s = true ∧ (s.entry p).state = 3 ∧ s.cleanNow p = true ∧ s.counterSpent p = false ∧
    (s.desc (s.entry p).frame).partner = none ∧ s.single = false ∧ s.dirtyHigh < s.dirtyPages ∧ s.mayOpen p = true ∧ (s.hot.desc.any fun e =>
    e.2.kind == 1 && (s.entry e.2.gpn).frame == e.1 && s.cleanNow e.2.gpn && decide (s.dirtyAge (s.desc (s.entry p).frame) < s.dirtyAge e.2)) = false
    :=
  ⟨3, (wFrame { state := 3, frame := 16 } { kind := 1, gpn := 3, dirty := 5, noimg := true, valid := 5 }).setFld Reg.HTM_DIRTY_CFG_HIGH_WM 0,
    by decide +kernel⟩

theorem wit_FillsAndCleaning_3 : ∃ p : Nat, ∃ s : State, calm s = true ∧ (s.entry p).state = 3 ∧ s.cleanNow p = true ∧ s.counterSpent p = false ∧
    (s.desc (s.entry p).frame).partner = none ∧ s.single = false ∧ s.dirtyPages ≤ s.dirtyHigh ∧ s.mayOpen p = true ∧ (s.hot.desc.any fun e =>
    e.2.kind == 1 && (s.entry e.2.gpn).frame == e.1 && s.cleanNow e.2.gpn && decide (s.dirtyAge (s.desc (s.entry p).frame) < s.dirtyAge e.2)) = false
    :=
  ⟨3, wFrame { state := 3, frame := 16 } { kind := 1, gpn := 3, dirty := 5, noimg := true, valid := 5 }, by decide +kernel⟩

theorem wit_FillsAndCleaning_4 : ∃ p : Nat, ∃ s : State, calm s = true ∧ (s.entry p).state = 3 ∧ s.cleanNow p = true ∧ s.counterSpent p = true ∧
    s.single = false ∧ s.dirtyHigh < s.dirtyPages ∧ (s.hot.desc.any fun e => e.2.kind == 1 && (s.entry e.2.gpn).frame == e.1 && s.cleanNow e.2.gpn &&
    decide (s.dirtyAge (s.desc (s.entry p).frame) < s.dirtyAge e.2)) = false :=
  ⟨3, (wFrame { state := 3, frame := 16, scnt := 1, wcnt := 16777215 } { kind := 1, gpn := 3, dirty := 5, noimg := true, valid := 5 }).setFld
    Reg.HTM_DIRTY_CFG_HIGH_WM 0, by decide +kernel⟩

theorem wit_FramesReleased_1 : ∃ st : Fin 2, ∃ p : Nat, ∃ f : Nat, ∃ w : Nat, ∃ s : State, calm s = true ∧ s.on Reg.HTM_TIER_CFG_MODE_ACT = false ∧
    s.switching 0 = false ∧ s.freeShedCount st < s.shedLow ∧ s.cleanShed st = [(f, p)] ∧ s.hot.desc = [(f, s.desc f)] ∧ s.wayOf (p / 256) = some w ∧
    (s.entry p).state = 2 ∧ (s.entry p).frame = f ∧ (s.entry p).pin = false ∧ s.mayOpen p = true ∧ s.writeOpen p = false ∧ s.marks p = 0 ∧
    s.hot.pinWait = [] :=
  ⟨0, 3, 7340032, 0, wShed 0, by decide +kernel⟩

theorem wit_FramesReleased_2 : ∃ st : Fin 2, ∃ p : Nat, ∃ f : Nat, ∃ w : Nat, ∃ s : State, calm s = true ∧ s.on Reg.HTM_TIER_CFG_MODE_ACT = true ∧
    s.switching 0 = false ∧ s.freeShedCount st < 65536 ∧ s.shedReleasing st = false ∧ s.cleanShed st = [(f, p)] ∧ s.hot.desc.all (fun e => e.1 == f
    || e.2.kind == 3) = true ∧ s.wayOf (p / 256) = some w ∧ (s.entry p).state = 2 ∧ (s.entry p).frame = f ∧ (s.entry p).pin = false ∧ s.mayOpen p =
    true ∧ s.writeOpen p = false ∧ s.marks p = 0 ∧ s.hot.pinWait = [] :=
  ⟨1, 3, 7340033, 0, (((wShed 1).setFld (Reg.HTC_STS_FENCED 1) 1).setFld Reg.HTM_TIER_CFG_MODE 1).setFld Reg.HTM_TIER_CFG_MODE_ACT 1,
    by decide +kernel⟩

theorem wit_FramesReleased_3 : ∃ st : Fin 2, ∃ s : State, (s.on Reg.HTM_TIER_CFG_MODE_ACT = true ∨ (s.shedLow ≤ s.freeShedCount st ∧ s.shedReleasing
    st = false)) ∧ s.pinsWait st = false :=
  ⟨0, State.reset, by decide +kernel⟩

theorem wit_FramesReleased_4 : ∃ st : Fin 2, ∃ s : State, (s.on Reg.HTM_TIER_CFG_MODE_ACT = false ∨ (65536 ≤ s.freeShedCount st ∧ s.shedReleasing st
    = false)) :=
  ⟨0, State.reset, by decide +kernel⟩

theorem wit_PinsMovesAndPatrol_1 : ∃ p : Nat, ∃ w : Nat, ∃ s : State, calm s = true ∧ (s.slotOf p).isSome = true ∧ s.wayOf (p / 256) = some w ∧
    s.pageServed p = true :=
  ⟨3, 0, wPage { state := 1, scnt := 3 }, by decide +kernel⟩

theorem wit_PinsMovesAndPatrol_2 : ∃ p : Nat, ∃ w : Nat, ∃ f : Nat, ∃ s : State, calm s = true ∧ (s.slotOf p).isSome = true ∧ s.wayOf (p / 256) =
    some w ∧ s.mayOpen p = true ∧ (s.entry p).state = 1 ∧ (s.entry p).scnt ≠ 0 ∧ s.shedFor p = some f :=
  ⟨3, 0, 7340033, wPage { state := 1, scnt := 3 }, by decide +kernel⟩

theorem wit_PinsMovesAndPatrol_3 : ∃ p : Nat, ∃ w : Nat, ∃ s : State, calm s = true ∧ (s.slotOf p).isSome = true ∧ s.wayOf (p / 256) = some w ∧
    s.mayOpen p = true ∧ (s.entry p).state = 1 ∧ (s.entry p).scnt ≠ 0 ∧ s.shedFor p = none ∧ s.hot.pinWait.contains p = false :=
  ⟨3, 0, (((wPage { state := 1, scnt := 3 }).setFld (Reg.HTC_STS_GRP_FENCED 0) 255).setFld (Reg.HTC_STS_GRP_FENCED 1) 255).onHot fun h =>
    { h with tags := [(2097152, { valid := true, block := 0 })] }, by decide +kernel⟩

theorem wit_PinsMovesAndPatrol_4 : ∃ p : Nat, ∃ w : Nat, ∃ s : State, calm s = true ∧ (s.slotOf p).isSome = true ∧ s.wayOf (p / 256) = some w ∧
    s.pageServed p = true :=
  ⟨3, 0, (wPage { state := 1, scnt := 3, pin := true }).onHot fun h => { h with pinWait := [3, 4] }, by decide +kernel⟩

theorem wit_PinsMovesAndPatrol_5 : ∃ st : Fin 2, ∃ p : Nat, ∃ nf : Nat, ∃ s : State, calm s = true ∧ (s.entry p).state = 2 ∧ (s.entry p).frame % 2 =
    st.val ∧ isKeepFrame (s.entry p).frame = true ∧ s.mayOpen p = true ∧ s.fillOf p = none ∧ s.shedFor p = some nf :=
  ⟨0, 3, 7340033, setLine 16 5 9 (wFrame { state := 2, scnt := 3, frame := 16 } { kind := 1, gpn := 3, valid := 32 }), by decide +kernel⟩

theorem wit_PinsMovesAndPatrol_6 : ∃ p : Nat, ∃ w : Nat, ∃ nf : Nat, ∃ o : PageOp, ∃ s : State, calm s = true ∧ s.wayOf (p / 256) = some w ∧ s.opOf p
    = some o ∧ o.kind = .move ∧ o.phase = .opened ∧ o.frame = some nf ∧ o.written = false ∧ (s.entry p).state = 2 ∧ nf ≠ (s.entry p).frame ∧ nf < 2 ^
    25 ∧ s.fillOf p = none ∧ s.marks p = 0 :=
  ⟨3, 0, 7340033, { gpn := 3, kind := .move, snap := 0, frame := some 7340033 }, setLine 16 5 9 (updDesc 16 (fun _ =>
    { kind := 1, gpn := 3, valid := 32 }) (wOp { state := 2, scnt := 3, frame := 16 }
    { gpn := 3, kind := .move, snap := 0, frame := some 7340033 })), by decide +kernel⟩

theorem wit_PinsMovesAndPatrol_7 : ∃ s : State, calm s = true :=
  ⟨{ wFrame { state := 3, frame := 16 } { kind := 1, gpn := 3 } with clk := 5 }, by decide +kernel⟩

theorem wit_PinsMovesAndPatrol_8 : ∃ st : Fin 2, ∃ s : State, s.on (Reg.HTC_STS_READY st) = true ∧ s.hot.patrol.length = 2 :=
  ⟨1, wset [(Reg.HTC_STS_READY 1, 1)], by decide +kernel⟩

theorem wit_PinsMovesAndPatrol_9 : ∃ st : Fin 2, ∃ s : State, s.on (Reg.HTC_STS_READY st) = true ∧ s.hot.patrol.length = 2 :=
  ⟨1, wset [(Reg.HTC_STS_READY 1, 1)], by decide +kernel⟩

theorem wit_ImagesRead_1 : ∃ id : Nat, ∃ n : Nat, ∃ j : ReadJob, ∃ s : State, s.job id = some j ∧ j.stitcher = none ∧ s.stitcherFor j.img.seam = some
    n ∧ s.cond (42 + n) = .on ∧ j.use = .fill ∧ (s.cold.jobs.any fun k => k.stitcher.isNone && s.stitcherFor k.img.seam == some n && decide
    (s.jobRank k < s.jobRank j)) = false :=
  ⟨4, 5, { id := 4, gpn := 3, img := { seam := 69637, spos := 2, scnt := 3 }, use := .fill }, (wJob {}
    { id := 4, gpn := 3, img := { seam := 69637, spos := 2, scnt := 3 }, use := .fill }).setCond 47 .on, by decide +kernel⟩

theorem wit_ImagesRead_2 : ∃ id : Nat, ∃ sl : Nat, ∃ x : Nat, ∃ j : ReadJob, ∃ y : Txn, ∃ s : State, calm s = true ∧ s.job id = some j ∧ j.stitcher =
    none ∧ s.stitcherFor j.img.seam = none ∧ j.use = .txn ∧ (s.slices.flatMap fun e => (e.2.txns.filter fun z => z.job == some id).map fun z => (e.1,
    z.req.id)) = [(sl, x)] ∧ s.txn sl x = some y ∧ y.req.kind = .read ∧ y.req.agent = .host 0 0 :=
  ⟨4, 3, 7, { id := 4, gpn := 3, img := { seam := 69637, scnt := 3 }, use := .txn }, { req := wReq 7 .read, phase := .cold, job := some 4 }, (forAll
    (List.range 16) (wJob {} { id := 4, gpn := 3, img := { seam := 69637, scnt := 3 }, use := .txn }) fun t n => t.setFld (Reg.CTM_STCH_FENCED n)
    1).updSlice 3 fun x => { x with txns := [{ req := wReq 7 .read, phase := .cold, job := some 4 }] }, by decide +kernel⟩

theorem wit_ImagesRead_3 : ∃ id : Nat, ∃ n : Nat, ∃ j : ReadJob, ∃ b : List Nat, ∃ ls : List Line, ∃ pm : BitVec 64, ∃ s : State, calm s = true ∧
    s.job id = some j ∧ j.id = id ∧ j.stitcher = some n ∧ j.result = none ∧ (j.needs.any fun p => !(j.got.any fun g => g.1 == p.1 && g.2.1 == p.2)) =
    false ∧ s.jobShort j = [] ∧ j.use = .fill ∧ s.vault.badCopies = [] ∧ s.readImage j = .page b ls pm none :=
  ⟨4, 5, wImgJob, stitchBytes [wStitch], List.replicate 64 0, 0, wImg, by decide +kernel⟩

theorem wit_ImagesRead_4 : ∃ id : Nat, ∃ n : Nat, ∃ sl : Nat, ∃ x : Nat, ∃ j : ReadJob, ∃ b : List Nat, ∃ ls : List Line, ∃ pm : BitVec 64, ∃ y :
    Txn, ∃ s : State, calm s = true ∧ s.job id = some j ∧ j.id = id ∧ j.stitcher = some n ∧ j.result = none ∧ (j.needs.any fun p => !(j.got.any fun g
    => g.1 == p.1 && g.2.1 == p.2)) = false ∧ s.jobShort j = [] ∧ j.use = .txn ∧ s.vault.badCopies = [] ∧ s.readImage j = .page b ls pm none ∧
    (s.slices.flatMap fun e => (e.2.txns.filter fun z => z.job == some id).map fun z => (e.1, z.req.id)) = [(sl, x)] ∧ s.txn sl x = some y ∧
    y.req.kind = .read ∧ y.req.agent = .host 0 0 ∧ y.phase = .cold :=
  ⟨4, 5, 3, 7, { wImgJob with use := .txn }, stitchBytes [wStitch], List.replicate 64 0, 0, { req := wReq 7 .read, phase := .cold, job := some 4 },
    (wImg.onCold fun c => { c with jobs := [{ wImgJob with use := .txn }] }).updSlice 3 fun x =>
    { x with txns := [{ req := wReq 7 .read, phase := .cold, job := some 4 }] }, by decide +kernel⟩

theorem wit_ImagesRead_5 : ∃ id : Nat, ∃ n : Nat, ∃ j : ReadJob, ∃ s : State, s.job id = some j ∧ j.stitcher = some n ∧ j.result = none ∧
    (j.needs.any fun p => !(j.got.any fun g => g.1 == p.1 && g.2.1 == p.2)) = false ∧ s.jobShort j = [] ∧ s.vault.badCopies = [] ∧ s.readImage j =
    .tag :=
  ⟨4, 5, { wImgJob with got := [(69637, dataCh 69637 0, some (wStitch ^^^ 2 ^ 300))] }, wImg.onCold fun c =>
    { c with jobs := [{ wImgJob with got := [(69637, dataCh 69637 0, some (wStitch ^^^ 2 ^ 300))] }] }, by decide +kernel⟩

theorem wit_ImagesRead_6 : ∃ id : Nat, ∃ n : Nat, ∃ j : ReadJob, ∃ s : State, s.job id = some j ∧ j.stitcher = some n ∧ j.result = none ∧
    (j.needs.any fun p => !(j.got.any fun g => g.1 == p.1 && g.2.1 == p.2)) = false ∧ s.jobShort j = [] ∧ s.vault.badCopies = [] ∧ s.readImage j =
    .lost :=
  ⟨4, 5, { id := 4, gpn := 3, img := { seam := 69637, scnt := 3 }, use := .fill, stitcher := some 5, needs := [(69637, 0), (69637, 1), (69637, 2), (69637, 3), (69637, 4), (69637, 5), (69637, 6), (69637, 7), (69637, 8), (69637, 9), (69637, 10), (69637, 11), (69637, 12), (69637, 13), (69637, 14), (69637, 15)], got := [(69637, 0, none), (69637, 1, none), (69637, 2, none), (69637, 3, some 0), (69637, 4, some 0), (69637, 5, some 0), (69637, 6, some 0), (69637, 7, some 0), (69637, 8, some 0), (69637, 9, some 0), (69637, 10, some 0), (69637, 11, some 0), (69637, 12, some 0), (69637, 13, some 0), (69637, 14, some 0), (69637, 15, some 0)] }, wJob {} { id := 4, gpn := 3, img := { seam := 69637, scnt := 3 }, use := .fill, stitcher := some 5, needs := [(69637, 0), (69637, 1), (69637, 2), (69637, 3), (69637, 4), (69637, 5), (69637, 6), (69637, 7), (69637, 8), (69637, 9), (69637, 10), (69637, 11), (69637, 12), (69637, 13), (69637, 14), (69637, 15)], got := [(69637, 0, none), (69637, 1, none), (69637, 2, none), (69637, 3, some 0), (69637, 4, some 0), (69637, 5, some 0), (69637, 6, some 0), (69637, 7, some 0), (69637, 8, some 0), (69637, 9, some 0), (69637, 10, some 0), (69637, 11, some 0), (69637, 12, some 0), (69637, 13, some 0), (69637, 14, some 0), (69637, 15, some 0)] }, by decide +kernel⟩

theorem wit_ImagesAppendedAndCommitted_1 : ∃ st : Fin 16, ∃ p : Nat, ∃ o : PageOp, ∃ img : List Nat, ∃ c : Image, ∃ loc : Image, ∃ s1 : State, ∃ s :
    State, s.opOf p = some o ∧ o.stitcher = some st.val ∧ s.on (Reg.CTM_STCH_FENCED st) = false ∧ s.on Reg.CTM_STS_READY = true ∧ s.outranked o =
    false ∧ s.opImage o = some (img, c) ∧ placeImage (streamKey st (o.kind == .relocation)) p img (useDomain none (42 + st) (usePage p (useSlot p
    s))) = some (loc, s1) :=
  ⟨2, 3, { gpn := 3, kind := .relocation, snap := 0, phase := .ready, image := List.replicate 300 1, stitcher := some 2 }, List.replicate 300 1, {},
    { seam := 65536, spos := 0, scnt := 2 }, wPlaced, wApp, by decide +kernel⟩

theorem wit_ImagesAppendedAndCommitted_2 : ∃ st : Fin 16, ∃ g : Nat, ∃ s : State, (s.stream (streamKey st false)).bufs.isEmpty = false ∧ (s.stream
    (streamKey st false)).bufs.length < 14 ∧ (s.stream (streamKey st false)).seg = some g :=
  ⟨2, 17, (wOp {} { gpn := 9, kind := .poison, snap := 0 }).onCold fun c =>
    { c with streams := [(4, { seg := some 17, seam := 69632, bufs := [1, 2], gpns := [3], firstAt := 0 })] }, by decide +kernel⟩

theorem wit_ImagesAppendedAndCommitted_3 : ∃ p : Nat, ∃ w : Nat, ∃ o : PageOp, ∃ s : State, calm s = true ∧ s.opOf p = some o ∧ o.kind = .relocation
    ∧ o.phase = .placed ∧ s.imageStored o.loc = true ∧ s.journalFull = false ∧ s.wayOf (p / 256) = some w ∧ (s.entry p).seam = (unpackEntry
    o.snap).seam ∧ (s.entry p).spos = (unpackEntry o.snap).spos ∧ o.loc.seam < 2 ^ 32 ∧ o.loc.spos < 16 ∧ o.loc.scnt < 32 :=
  ⟨3, 0, { gpn := 3, kind := .relocation, snap := ({ state := 1, seam := 70000, spos := 2, scnt := 3 } : MapEntry).pack, phase := .placed, loc := { seam := 80000, spos := 4, scnt := 3 } }, wOp { state := 1, seam := 70000, spos := 2, scnt := 3 } { gpn := 3, kind := .relocation, snap := ({ state := 1, seam := 70000, spos := 2, scnt := 3 } : MapEntry).pack, phase := .placed, loc := { seam := 80000, spos := 4, scnt := 3 } }, by decide +kernel⟩

theorem wit_ImagesAppendedAndCommitted_4 : ∃ p : Nat, ∃ o : PageOp, ∃ s : State, calm s = true ∧ s.opOf p = some o ∧ o.kind = .relocation ∧ o.phase =
    .placed ∧ s.imageStored o.loc = true ∧ s.journalFull = false ∧ ((s.entry p).seam ≠ (unpackEntry o.snap).seam ∨ (s.entry p).spos ≠ (unpackEntry
    o.snap).spos) :=
  ⟨3, { gpn := 3, kind := .relocation, snap := 0, phase := .placed, loc := { seam := 80000, spos := 4, scnt := 3 } }, wOp
    { state := 1, seam := 70000, spos := 2, scnt := 3 }
    { gpn := 3, kind := .relocation, snap := 0, phase := .placed, loc := { seam := 80000, spos := 4, scnt := 3 } }, by decide +kernel⟩

theorem wit_ImagesAppendedAndCommitted_5 : ∃ p : Nat, ∃ w : Nat, ∃ mf : Nat, ∃ o : PageOp, ∃ s : State, calm s = true ∧ s.opOf p = some o ∧ o.kind =
    .writeback ∧ o.phase = .placed ∧ o.written = false ∧ s.imageStored o.loc = true ∧ s.journalFull = false ∧ s.wayOf (p / 256) = some w ∧ (s.entry
    p).state = 3 ∧ (s.desc (s.entry p).frame).dirty = 0 ∧ (s.desc (s.entry p).frame).partner = some mf ∧ mf ≠ (s.entry p).frame ∧
    s.hot.hints.contains p = false ∧ s.marks p = 0 ∧ o.loc.seam < 2 ^ 32 ∧ o.loc.spos < 16 ∧ o.loc.scnt < 32 ∧ o.loc.wcnt < 0xF00000 :=
  ⟨3, 0, 17, { gpn := 3, kind := .writeback, snap := 0, phase := .placed, loc := { seam := 80000, spos := 4, scnt := 3, wcnt := 9 } }, updDesc 17
    (fun _ => { kind := 2, gpn := 3, partner := some 16, valid := 32 }) (updDesc 16 (fun _ =>
    { kind := 1, gpn := 3, partner := some 17, valid := 32, wb := true }) (wOp { state := 3, frame := 16 }
    { gpn := 3, kind := .writeback, snap := 0, phase := .placed, loc := { seam := 80000, spos := 4, scnt := 3, wcnt := 9 } })), by decide +kernel⟩

theorem wit_ImagesAppendedAndCommitted_6 : ∃ p : Nat, ∃ w : Nat, ∃ id : Nat, ∃ f : Nat, ∃ o : PageOp, ∃ ls : List Line, ∃ pm : BitVec 64, ∃ s :
    State, calm s = true ∧ s.opOf p = some o ∧ o.kind = .promotion ∧ o.phase = .reading id ∧ o.frame = some f ∧ (s.job id).bind ReadJob.result = some
    (.lines ls pm) ∧ s.wayOf (p / 256) = some w ∧ (s.entry p).state = 1 ∧ (s.entry p).pin = false ∧ f < 2 ^ 25 :=
  ⟨3, 0, 4, 7340033, { gpn := 3, kind := .promotion, snap := 0, phase := .reading 4, frame := some 7340033 }, [5, 6, 7], 0, (wOp
    { state := 1, seam := 70000, spos := 2, scnt := 3 }
    { gpn := 3, kind := .promotion, snap := 0, phase := .reading 4, frame := some 7340033 }).onCold fun c =>
    { c with jobs := [{ id := 4, gpn := 3, img := {}, use := .op, result := some (.lines [5, 6, 7] 0) }] }, by decide +kernel⟩

theorem wit_ImagesAppendedAndCommitted_7 : ∃ p : Nat, ∃ o : PageOp, ∃ s : State, s.opOf p = some o ∧ o.kind = .discard ∧ s.journalFull = true :=
  ⟨3, { gpn := 3, kind := .discard, snap := 0 }, (wOp {} { gpn := 3, kind := .discard, snap := 0 }).onCold fun c => { c with nLedger := 0 },
    by decide +kernel⟩

theorem wit_ImagesAppendedAndCommitted_8 : ∃ p : Nat, ∃ w : Nat, ∃ o : PageOp, ∃ s : State, calm s = true ∧ s.opOf p = some o ∧ o.kind = .release ∧
    (s.cold.ops.filter fun x => x.gpn == p) = [o] ∧ s.wayOf (p / 256) = some w ∧ (s.entry p).state = 2 ∧ (s.entry p).pin = false ∧ s.writeOpen p =
    false ∧ s.marks p = 0 :=
  ⟨3, 0, { gpn := 3, kind := .release, snap := 0 }, wOp { state := 2, scnt := 3, frame := 16 } { gpn := 3, kind := .release, snap := 0 },
    by decide +kernel⟩

theorem wit_JournalAndLedger_1 : ∃ e : Nat × BitVec 256, ∃ l : List (Nat × BitVec 256), ∃ k : BitVec 256, ∃ s : State, s.journalWaiting = e :: l ∧
    l.length < 111 ∧ s.vault.ledgerKey = some k ∧ s.vault.badCopies = [] ∧ s.journalHead - s.journalTail < s.journalSeams :=
  ⟨(5, 1#256), [], 7, { State.reset with cold := { journal := [(5, 1#256)], nLedger := 16, nSeg := 262144 }, vault := { ledgerKey := some 7 } },
    by decide +kernel⟩

theorem wit_JournalAndLedger_2 : ∃ s : State, s.journalSeams ≤ s.journalHead - s.journalTail :=
  ⟨{ State.reset with cold := { journal := [(5, 1#256)], nLedger := 0, nSeg := 262144 }, vault := { ledgerKey := some 7 } }, by decide +kernel⟩

theorem wit_JournalAndLedger_3 : ∃ g : Nat, ∃ s : State, calm s = true ∧ s.groupTarget g = (g, none) ∧ (s.cold.groups.any fun x => x.group == g) =
    false ∧ s.mayWriteGroup g = true ∧ ((s.modifiedBlocks g).all fun m => checkRoot (m.1 / 128) s == s) = true :=
  ⟨0, wGroup, by decide +kernel⟩

theorem wit_JournalAndLedger_4 : ∃ g : Nat, ∃ x : GroupRun, ∃ s : State, calm s = true ∧ s.groupTarget g = (g, none) ∧ s.cold.groups = [x] ∧ x.group
    = g ∧ x.step = 1 :=
  ⟨0, { group := 0, top := 0, step := 1, blocks := [{ block := 0, page := 0, plain := [], cnt := 1 }] }, wGroup.onCold (fun c =>
    { c with groups := [{ group := 0, top := 0, step := 1, blocks := [{ block := 0, page := 0, plain := [], cnt := 1 }] }] }) |>.onVault fun v =>
    { v with updates := [{ block := 0, oldCnt := 0, newCnt := 1, oldTag := 0, newTag := 0, root := 0, oldRoot := 0 }] }, by decide +kernel⟩

theorem wit_JournalAndLedger_5 : ∃ g : Nat, ∃ x : GroupRun, ∃ s : State, calm s = true ∧ s.groupTarget g = (g, none) ∧ s.cold.groups = [x] ∧ x.group
    = g ∧ x.step = 3 :=
  ⟨0, { group := 0, top := 0, step := 3, blocks := [{ block := 0, page := 0, plain := [], cnt := 1 }] }, wGroup.onCold (fun c =>
    { c with groups := [{ group := 0, top := 0, step := 3, blocks := [{ block := 0, page := 0, plain := [], cnt := 1 }] }] }) |>.onVault fun v =>
    { v with updates := [{ block := 0, oldCnt := 0, newCnt := 1, oldTag := 0, newTag := 0, root := 0, oldRoot := 0 }] }, by decide +kernel⟩

theorem wit_JournalAndLedger_6 : ∃ g : Nat, ∃ s : State, calm s = true ∧ s.groupTarget g = (g, none) ∧ (s.cold.groups.any fun x => x.group == g) =
    false ∧ s.mayWriteGroup g = true ∧ ((s.modifiedBlocks g).all fun m => checkRoot (m.1 / 128) s == s) = true :=
  ⟨0, wGroup, by decide +kernel⟩

theorem wit_JournalAndLedger_7 : ∃ s : State, calm s = true ∧ s.on Reg.CTM_STS_RECOVERING = true ∧ s.fld Reg.RST_STS_LEVEL ≠ 4 ∧ s.vault.badCopies =
    [] ∧ s.vault.updates = [] ∧ s.cold.discarding = [] ∧ checkJournal ((List.range (s.journalHead - s.journalTail)).map (s.journalTail + ·)) s =
    (true, s) :=
  ⟨wset [(Reg.CTM_STS_RECOVERING, 1), (Reg.RST_STS_LEVEL, 0)], by decide +kernel⟩

theorem wit_JournalAndLedger_8 : ∃ s : State, s.on Reg.CTM_STS_RECOVERING = true ∧ s.vault.badCopies = [] ∧ (checkJournal ((List.range (s.journalHead
    - s.journalTail)).map (s.journalTail + ·)) s).1 = false :=
  ⟨{ wset [(Reg.CTM_STS_RECOVERING, 1)] with cold := { journal := [(5, journalRecord 1 3 1 { seam := 70000, scnt := 1 } {})], jpos := [(1, 1)], jseam := 1, drained := 1, nLedger := 16, nSeg := 262144 }, vault := { ledgerKey := some 7 } }, by decide +kernel⟩

theorem wit_CapacityDistress_1 : ∃ s : State, s.on Reg.CTM_STS_READY = true ∧ s.fld Reg.CTM_DIST_STS_STAGE = 0 ∧ s.freeStitches < (s.wmDistress *
    gibStitches : Nat) ∧ s.newestExtents.isEmpty = false :=
  ⟨wStage 0 3390000000, by decide +kernel⟩

theorem wit_CapacityDistress_2 : ∃ s : State, s.on Reg.CTM_STS_READY = true ∧ 1 ≤ s.fld Reg.CTM_DIST_STS_STAGE ∧ (2 * s.wmDistress * gibStitches :
    Nat) ≤ s.freeStitches :=
  ⟨wStage 2 5, by decide +kernel⟩

theorem wit_CapacityDistress_3 : ∃ s : State, s.on Reg.CTM_STS_READY = true ∧ s.fld Reg.CTM_DIST_STS_STAGE = 1 ∧ s.freeStitches < 0 ∧ s.tackLeft ≠ 0
    :=
  ⟨wStage 1 6000000000, by decide +kernel⟩

theorem wit_CapacityDistress_4 : ∃ s : State, s.on Reg.CTM_STS_READY = true ∧ (s.fld Reg.CTM_DIST_STS_STAGE = 1 ∨ s.fld Reg.CTM_DIST_STS_STAGE = 2) ∧
    s.freeStitches < 0 ∧ s.tackLeft = 0 :=
  ⟨(wStage 2 6000000000).setFld Reg.CTM_TACK_DIMMS 0, by decide +kernel⟩

theorem wit_CapacityDistress_5 : ∃ b : Nat, ∃ s : State, s.borrowable = some b ∧ s.fld Reg.CTM_DIST_STS_STAGE = 2 ∧ s.freeStitches < 0 ∧ s.fld
    Reg.CTM_TACK_BORROWED < 7 :=
  ⟨1, wStage 2 6000000000, by decide +kernel⟩

theorem wit_CapacityDistress_6 : ∃ b : Nat, ∃ s : State, ((List.range 4).find? fun i => s.on (Reg.DCM_BLK_BORROWED i)) = some b ∧ (s.wmDistress *
    gibStitches : Nat) + s.stepStitches < s.freeStitches ∧ (s.cold.segs.filter fun e => decide (s.blockFirst b ≤ e.1) && decide (e.1 < s.blockFirst b
    + s.blockSegs) && e.2.st != .free).isEmpty = true ∧ s.fld Reg.CTM_TACK_BORROWED ≠ 0 :=
  ⟨1, (((wStage 0 5).setFld Reg.CTM_TACK_DIMMS 2).setFld Reg.CTM_TACK_BORROWED 1).setFld (Reg.DCM_BLK_BORROWED 1) 1, by decide +kernel⟩

theorem wit_CapacityDistress_7 : ∃ s : State, (s.fld Reg.CTM_DIST_STS_STAGE = 1 ∨ s.fld Reg.CTM_DIST_STS_STAGE = 2) ∧ s.freeStitches < (s.wmDistress
    * gibStitches : Nat) :=
  ⟨wStage 1 3500000000, by decide +kernel⟩

theorem wit_CapacityDistress_8 : ∃ s : State, (s.fld Reg.CTM_DIST_STS_STAGE = 1 ∨ s.fld Reg.CTM_DIST_STS_STAGE = 2) ∧ (s.wmDistress * gibStitches :
    Nat) ≤ s.freeStitches :=
  ⟨wStage 1 5, by decide +kernel⟩

theorem wit_CapacityDistress_9 : ∃ k : Nat, ∃ g : Nat, ∃ e : Extent, ∃ s : State, calm s = true ∧ s.fld Reg.CTM_DIST_STS_STAGE = 3 ∧ s.freeStitches <
    (s.wmDistress * gibStitches : Nat) ∧ s.newestExtents.find? (fun x => !x.2.2.frozen) = some (k, g, e) ∧ e.share = none ∧ ((∀ i : Fin 16, (s.ld
    i).releasing = [])) ∧ ((∀ h : Fin 4, (s.head h).pen = [])) :=
  ⟨0, 1, { gib := 1, accepted := true }, wStage 3 3500000000, by decide +kernel⟩

theorem wit_GarbageCollection_1 : ∃ g : Nat, ∃ s : State, s.on Reg.CTM_GC_CFG_MODE_ACT = false ∧ s.switching 1 = false ∧ s.on Reg.CTM_STS_READY =
    true ∧ s.freeSegs < s.gcLow ∧ s.pickVictim = some g ∧ ((s.writtenSeams g).flatMap s.liveIn) = [] :=
  ⟨40, (wGc 0).setFld Reg.CTM_GC_CFG_HIGH 2, by decide +kernel⟩

theorem wit_GarbageCollection_2 : ∃ g : Nat, ∃ p : Nat, ∃ s : State, s.on Reg.CTM_GC_CFG_MODE_ACT = false ∧ s.switching 1 = false ∧ s.on
    Reg.CTM_STS_READY = true ∧ s.freeSegs < s.gcLow ∧ s.pickVictim = some g ∧ ((s.writtenSeams g).flatMap s.liveIn).eraseDups = [p] ∧ s.mayOpen p =
    true :=
  ⟨17, 3, ((((wPage { state := 1, seam := 69637, spos := 0, scnt := 1 }).setFld Reg.CTM_GC_CFG_HIGH 2).setFld Reg.CTM_GC_CFG_LOW 1).setFld
    (Reg.DCC_SLOT_STATE 0 0) 3).onCold fun c =>
    { c with segs := [(17, { st := .sealed, live := 1 })], nSeg := 17, nLedger := 16, dimmGib := 256, stitches := [(16 * 69637 + dataCh 69637 0, wStitch)] }, by decide +kernel⟩

theorem wit_GarbageCollection_3 : ∃ g : Nat, ∃ s : State, s.on Reg.CTM_GC_CFG_MODE_ACT = true ∧ s.switching 1 = false ∧ s.on Reg.CTM_STS_READY = true
    ∧ s.on Reg.CTM_STS_GC_ACTIVE = false ∧ s.freeSegs < s.gcCrit ∧ s.pickVictim = some g ∧ ((s.writtenSeams g).flatMap s.liveIn) = [] :=
  ⟨40, wGc 1, by decide +kernel⟩

theorem wit_GarbageCollection_4 : ∃ s : State, (s.on Reg.CTM_GC_CFG_MODE_ACT = true ∨ (s.gcLow ≤ s.freeSegs ∧ s.on Reg.CTM_STS_GC_ACTIVE = false)) :=
  ⟨wGc 1, by decide +kernel⟩

theorem wit_GarbageCollection_5 : ∃ s : State, (s.on Reg.CTM_GC_CFG_MODE_ACT = false ∨ (s.gcCrit ≤ s.freeSegs ∧ s.on Reg.CTM_STS_GC_ACTIVE = false))
    :=
  ⟨wGc 0, by decide +kernel⟩

theorem wit_GarbageCollection_6 : ∃ g : Nat, ∃ s : State, ((s.segment g).st = .sealed ∨ (s.segment g).st = .victim) ∧ (s.segment g).live = 0 ∧
    (s.slices.any fun e => e.2.txns.any fun t => (unpackEntry t.snap).image.scnt != 0 && segOf (unpackEntry t.snap).image.seam == g) = false ∧
    (s.cold.jobs.any fun j => segOf j.img.seam == g || j.needs.any fun p => segOf p.1 == g) = false ∧ (s.cold.writes.any fun w => segOf w.seam == g)
    = false ∧ s.uncommitted g = false ∧ s.on Reg.CTM_GC_CFG_MODE_ACT = false :=
  ⟨40, (wGc 0).onCold fun c => { c with segs := [(40, { st := .sealed, live := 0 }), (41, { st := .sealed, live := 9 })], victims := [40] },
    by decide +kernel⟩

theorem wit_GarbageCollection_7 : ∃ g : Nat, ∃ s : State, (s.segment g).live ≠ 0 :=
  ⟨40, wGc 0, by decide +kernel⟩

theorem wit_KeysComeFromTheWindow_1 : ∃ k : Fin 16, ∃ s : State, s.kpHost = false ∧ s.windowOpen k = true ∧ s.on Reg.RST_STS_MEM_ACTIVE = true ∧
    s.hasRoot k = false ∧ s.on Reg.CRY_STS_TRNG_OK = true :=
  ⟨3, wset [(Reg.CRY_INJ_WIN_OPEN, 8), (Reg.RST_STS_MEM_ACTIVE, 1), (Reg.CRY_STS_TRNG_OK, 1)], by decide +kernel⟩

theorem wit_KeysComeFromTheWindow_2 : ∃ k : Fin 16, ∃ s : State, s.kpHost = false ∧ s.windowOpen k = true ∧ s.on Reg.RST_STS_MEM_ACTIVE = true ∧
    s.hasRoot k = false ∧ s.on Reg.CRY_STS_TRNG_OK = false :=
  ⟨3, wset [(Reg.CRY_INJ_WIN_OPEN, 8), (Reg.RST_STS_MEM_ACTIVE, 1), (Reg.CRY_STS_TRNG_OK, 0)], by decide +kernel⟩

theorem wit_KeysComeFromTheWindow_3 : ∃ k : Fin 16, ∃ s : State, s.kpHost = false ∧ s.windowOpen k = true ∧ s.on Reg.RST_STS_MEM_ACTIVE = true ∧
    s.hasRoot k = true :=
  ⟨3, (wset [(Reg.CRY_INJ_WIN_OPEN, 8), (Reg.RST_STS_MEM_ACTIVE, 1)]).onVault fun v => { v with roots := [(3, some 5)] }, by decide +kernel⟩

theorem wit_KeysComeFromTheWindow_4 : ∃ k : Fin 16, ∃ s : State, (s.kpHost = true ∨ s.windowOpen k = false) :=
  ⟨3, wset [(Reg.CRY_INJ_WIN_OPEN, 8), (Reg.RST_STS_MEM_ACTIVE, 1), (Reg.CRY_KP_CFG_MODE, 1), (Reg.CRY_KP_CFG_MODE_ACT, 1)], by decide +kernel⟩

theorem wit_KeysComeFromTheWindow_6 : ∃ k : Nat, ∃ s : State, s.on Reg.RST_STS_MEM_ACTIVE = false ∧ s.vault.withheld = [k] ∧ s.vault.ledgerWithheld =
    true :=
  ⟨3, { State.reset with vault := { State.reset.vault with withheld := [3], ledgerWithheld := true } }, by decide +kernel⟩

theorem wit_ReencryptionWalksTheSlot_1 : ∃ k : Nat, ∃ r : Reenc, ∃ j : Nat, ∃ s : State, (s.vault.reenc.find? fun r => !r.active) = some r ∧ r.slot =
    k ∧ ((List.range 4).find? fun j => !s.on (Reg.CRY_REENC_SLOT_VALID j)) = some j ∧ s.reencActive < s.reencMax ∧ s.on Reg.CTM_STS_READY = true ∧
    s.journalFull = false ∧ k < 256 :=
  ⟨5, { slot := 5 }, 0, (wReenc { slot := 5 }), by decide +kernel⟩

theorem wit_ReencryptionWalksTheSlot_2 : ∃ k : Nat, ∃ r : Reenc, ∃ s : State, s.reencOf k = some r ∧ r.active = true ∧ r.next = Nat.min pagesPerGib
    ((r.done + 1) * 16384) ∧ s.on Reg.CTM_STS_READY = true :=
  ⟨5, { slot := 5, active := true, done := 15, next := 262144 }, wReenc { slot := 5, active := true, done := 15, next := 262144 }, by decide +kernel⟩

theorem wit_ReencryptionWalksTheSlot_3 : ∃ k : Nat, ∃ p : Nat, ∃ i : Nat, ∃ r : Reenc, ∃ s : State, calm s = true ∧ s.reencOf k = some r ∧ r.active =
    true ∧ s.on Reg.CTM_STS_READY = true ∧ ((List.range (Nat.min pagesPerGib ((r.done + 1) * 16384) - r.next)).find? fun i => s.stale k (s.slotFirst
    k + r.next + i)) = some i ∧ p = s.slotFirst k + r.next + i ∧ (s.entry p).state < 3 ∧ s.mayOpen p = true :=
  ⟨0, 3, 3, { slot := 0, active := true }, (wPage { state := 1, scnt := 1, seam := 69637 }).onVault fun v =>
    { v with reenc := [{ slot := 0, active := true }], epochs := [(0, { epoch := 1, reenc := true })] }, by decide +kernel⟩

theorem wit_ReencryptionWalksTheSlot_4 : ∃ k : Nat, ∃ r : Reenc, ∃ j : Nat, ∃ s : State, s.reencOf k = some r ∧ r.active = true ∧ r.done < 16 ∧
    r.next = (r.done + 1) * 16384 ∧ s.journalFull = false ∧ s.reencReg k = some j ∧ j < 4 :=
  ⟨5, { slot := 5, active := true, done := 2, next := 49152 }, 0, (wReenc { slot := 5, active := true, done := 2, next := 49152 }).setFld
    (Reg.CRY_REENC_SLOT_VALID 0) 1 |>.setFld (Reg.CRY_REENC_SLOT_SLOT 0) 5, by decide +kernel⟩

theorem wit_ReencryptionWalksTheSlot_6 : ∃ s : State, s.rst.overwrite = true ∧ ((List.range 16).all fun c => s.on (Reg.DCC_STS_READY c) || s.on
    (Reg.DCC_STS_FENCED c)) = true :=
  ⟨{ ((List.range 16).foldl (fun s c => s.setFld (Reg.DCC_STS_READY c) 1) State.reset) with rst := { State.reset.rst with overwrite := true }, cold := { State.reset.cold with stitches := [(16, 7)] } }, by decide +kernel⟩

theorem wit_CinchesAreAskedFor_1 : ∃ via : CmdPath, ∃ r : CinchRequest, ∃ s : State, anyLdPath via = true ∧ plazaTakes s = true ∧ s.switching 7 =
    false ∧ (s.ruleCode (ownLd via) r == 8) = true :=
  ⟨.mailbox 0, { wAsk with readMbs := 0 }, wset [(Reg.MGT_STS_FW_RUN, 1)], by decide +kernel⟩

theorem wit_CinchesAreAskedFor_2 : ∃ via : CmdPath, ∃ r : CinchRequest, ∃ s : State, anyLdPath via = true ∧ plazaTakes s = true ∧ s.switching 7 =
    false ∧ s.ruleCode (ownLd via) r ≠ 8 ∧ s.ruleCode (ownLd via) r ≠ 0 :=
  ⟨.mailbox 0, { wAsk with baseGib := 7, lenGib := 2 }, wQos, by decide +kernel⟩

theorem wit_CinchesAreAskedFor_3 : ∃ via : CmdPath, ∃ r : CinchRequest, ∃ s : State, anyLdPath via = true ∧ plazaTakes s = true ∧ s.switching 7 =
    false ∧ s.ruleCode (ownLd via) r = 0 ∧ (s.modelCode { askedCinch r with via := via }).1 ≠ 0 :=
  ⟨.mailbox 0, { wAsk with bound := 5 }, wQos, by decide +kernel⟩

theorem wit_CinchesAreAskedFor_4 : ∃ via : CmdPath, ∃ r : CinchRequest, ∃ i : Fin 64, ∃ s : State, anyLdPath via = true ∧ plazaTakes s = true ∧
    s.switching 7 = false ∧ s.ruleCode (ownLd via) r = 0 ∧ s.modelCode { askedCinch r with via := via } = (0, 0) ∧ ((List.range 64).find? fun i =>
    !(s.slotsHeld.any fun e => e.1 == i)) = some i.val ∧ s.on Reg.QOS_ADM_CFG_MODE_ACT = false ∧ s.fld Reg.PWR_STS_STATE < 2 :=
  ⟨.mailbox 0, { wAsk with pin := true, lenGib := 1 }, 0, wQos, by decide +kernel⟩

theorem wit_CinchesAreAskedFor_5 : ∃ via : CmdPath, ∃ r : CinchRequest, ∃ i : Fin 64, ∃ s : State, anyLdPath via = true ∧ plazaTakes s = true ∧
    s.switching 7 = false ∧ s.ruleCode (ownLd via) r = 0 ∧ s.modelCode { askedCinch r with via := via } = (0, 0) ∧ ((List.range 64).find? fun i =>
    !(s.slotsHeld.any fun e => e.1 == i)) = some i.val ∧ s.on Reg.QOS_ADM_CFG_MODE_ACT = true :=
  ⟨.mailbox 0, wAsk, 0, (wQos.setFld Reg.QOS_ADM_CFG_MODE_ACT 1).setFld Reg.QOS_ADM_CFG_MODE 1, by decide +kernel⟩

theorem wit_CinchesAreAskedFor_6 : ∃ via : CmdPath, ∃ id : Nat, ∃ i : Fin 64, ∃ s : State, s.mgrPath via = true ∧ s.mgmt.mgrBusy = false ∧ plazaTakes
    s = true ∧ s.cinchNamed id Cinch.waiting = some i.val ∧ s.fld Reg.PWR_STS_STATE < 2 :=
  ⟨.sideband, 2, 2, wCinch 2 { ld := 0, readMbs := 100, waiting := true }, by decide +kernel⟩

theorem wit_CinchesAreAskedFor_7 : ∃ via : CmdPath, ∃ id : Nat, ∃ i : Fin 64, ∃ s : State, s.mgrPath via = true ∧ s.mgmt.mgrBusy = false ∧ plazaTakes
    s = true ∧ s.cinchNamed id Cinch.waiting = some i.val :=
  ⟨.sideband, 2, 2, wCinch 2 { ld := 0, readMbs := 100, waiting := true }, by decide +kernel⟩

theorem wit_CinchesAreAskedFor_8 : ∃ i : Fin 64, ∃ s : State, (s.cinch i).waiting = true :=
  ⟨2, wCinch 2 { ld := 0, readMbs := 100, waiting := true, due := 500 }, by decide +kernel⟩

theorem wit_CinchesAreAskedFor_9 : ∃ via : CmdPath, ∃ id : Nat, ∃ i : Fin 64, ∃ s : State, s.cinchNamed id (fun c => c.st != .free) = some i.val ∧
    ldPath (s.cinch i).ld via = true ∧ plazaTakes s = true ∧ (s.cinch i).pin = false :=
  ⟨.mailbox 0, 2, 2, wCinch 2 { st := .active, ld := 0, readMbs := 100 }, by decide +kernel⟩

theorem wit_CinchesAreAskedFor_10 : ∃ via : CmdPath, ∃ id : Nat, ∃ i : Fin 64, ∃ s : State, s.cinchNamed id (fun c => c.st != .free) = some i.val ∧
    ldPath (s.cinch i).ld via = true ∧ plazaTakes s = true ∧ (s.cinch i).pin = true :=
  ⟨.mailbox 0, 2, 2, wCinch 2 { st := .active, ld := 0, readMbs := 100, pin := true }, by decide +kernel⟩

theorem wit_CinchesComeAndGo_1 : ∃ i : Fin 64, ∃ s : State, (s.cinch i).st = .pinning ∧ s.rangeHot (s.cinch i) = true ∧ (s.cinch i).pin = false :=
  ⟨2, wCinch 2 { st := .pinning, ld := 0, readMbs := 100 }, by decide +kernel⟩

theorem wit_CinchesComeAndGo_2 : ∃ i : Fin 64, ∃ s : State, (s.cinch i).st = .pinning ∧ s.rangeHot (s.cinch i) = true ∧ (s.cinch i).pin = true :=
  ⟨2, wCinch 2 { st := .pinning, ld := 0, readMbs := 100, pin := true }, by decide +kernel⟩

theorem wit_CinchesComeAndGo_3 : ∃ i : Fin 64, ∃ s : State, ((s.cinch i).st ≠ .pinning ∨ s.rangeHot (s.cinch i) = false) :=
  ⟨2, wCinch 2 { st := .active, ld := 0, readMbs := 100 }, by decide +kernel⟩

theorem wit_CinchesComeAndGo_4 : ∃ s : State, s.supplyLow = false ∧ s.checkCode (s.liveCinches.map Prod.snd) = 0 :=
  ⟨wCinch 2 { st := .active, ld := 0, readMbs := 100, bound := 5000 }, by decide +kernel⟩

theorem wit_CinchesComeAndGo_5 : ∃ i : Fin 64, ∃ c : Cinch, ∃ s : State, s.supplyLow = true ∧ s.liveCinches = [(i.val, c)] :=
  ⟨2, { st := .active, ld := 0, readMbs := 100, bound := 5000 }, (wCinch 2 { st := .active, ld := 0, readMbs := 100, bound := 5000 }).setFld
    Reg.SUP_STS_BAND 1, by decide +kernel⟩

theorem wit_CinchesComeAndGo_6 : ∃ i : Fin 64, ∃ n : Nat, ∃ s : State, s.qos.passSince = [(i.val, n)] ∧ s.qos.demoted = [i.val] ∧ (s.cinch i).pin =
    false ∧ s.supplyLow = false ∧ s.checkCode (s.liveCinches.map Prod.snd ++ [s.cinch i]) = 0 :=
  ⟨2, 7, let s := wCinch 2 { st := .demoted, ld := 0, readMbs := 100, bound := 5000 };
    { s with qos := { s.qos with demoted := [2], passSince := [(2, 7)] } }, by decide +kernel⟩

theorem wit_CinchesComeAndGo_7 : ∃ s : State, s.qos.excess = [(1, { on := true, run := 9 })] :=
  ⟨{ State.reset with qos := { State.reset.qos with excess := [(1, { on := true, run := 9 })] } }, by decide +kernel⟩

theorem wit_CinchesComeAndGo_8 : ∃ b : Nat, ∃ r : Nat, ∃ s : State, s.qos.excess = [(1, { bytes := b, run := r })] ∧ b ≠ 0 ∧ zeroAsOne (s.fld
    Reg.QOS_HOLD_CFG_HOLD_MS) * 10 = r :=
  ⟨64, 100, { State.reset.setFld Reg.QOS_HOLD_CFG_HOLD_MS 10 with qos := { State.reset.qos with excess := [(1, { bytes := 64, run := 100 })] } },
    by decide +kernel⟩

theorem wit_PacketsMoveOn_1 : ∃ c : Fin 48, ∃ o : Fin 4, ∃ k : Nat, ∃ port : Nat, ∃ k' : Nat, ∃ p : Packet, ∃ q : Packet, ∃ s : State, s.noc.failed =
    [] ∧ s.noc.down = [] ∧ s.candidates c = [(k, port, p)] ∧ s.outputOf c p = o.val ∧ s.hop c o p = some (k', q) ∧ s.bufRoom k' q = true ∧ k ≠ k' ∧
    s.armed 6 c = false :=
  ⟨9, 1, bufKey 9 4 (wPkt .req 22), 4, bufKey 10 3 (wPkt .req 22), wPkt .req 22, wPkt .req 22, wBuf 9 4 (wPkt .req 22), by decide +kernel⟩

theorem wit_PacketsMoveOn_2 : ∃ c : Fin 48, ∃ o : Fin 4, ∃ k : Nat, ∃ port : Nat, ∃ k' : Nat, ∃ p : Packet, ∃ q : Packet, ∃ n : Fin 5, ∃ s : State,
    calm s = true ∧ s.noc.failed = [] ∧ s.noc.down = [] ∧ s.candidates c = [(k, port, p)] ∧ s.outputOf c p = o.val ∧ s.hop c o p = some (k', q) ∧
    s.bufRoom k' q = true ∧ k ≠ k' ∧ s.armed 6 c = false ∧ n.val < 4 :=
  ⟨9, 1, bufKey 9 4 (wPkt .req 22), 4, bufKey 10 3 (wPkt .req 22), wPkt .req 22, wPkt .req 22, 3, wBuf 9 4 (wPkt .req 22), by decide +kernel⟩

theorem wit_PacketsMoveOn_3 : ∃ c : Fin 48, ∃ o : Fin 4, ∃ k : Nat, ∃ port : Nat, ∃ k' : Nat, ∃ p : Packet, ∃ q : Packet, ∃ s : State, s.noc.failed =
    [] ∧ s.noc.down = [] ∧ s.candidates c = [(k, port, p)] ∧ s.outputOf c p = o.val ∧ s.hop c o p = some (k', q) ∧ s.bufRoom k' q = true ∧ k ≠ k' :=
  ⟨9, 1, bufKey 9 4 (wPkt .req 22), 4, bufKey 10 3 (wPkt .req 22), wPkt .req 22, wPkt .req 22, wBuf 9 4 (wPkt .req 22), by decide +kernel⟩

theorem wit_PacketsMoveOn_4 : ∃ c : Fin 48, ∃ o : Fin 4, ∃ k : Nat, ∃ port : Nat, ∃ k' : Nat, ∃ p : Packet, ∃ q : Packet, ∃ s : State, s.noc.failed =
    [] ∧ s.noc.down = [4 * c.val + o.val] ∧ s.candidates c = [(k, port, p)] ∧ s.outputOf c p = o.val ∧ s.hop c o p = some (k', q) :=
  ⟨9, 1, bufKey 9 4 (wPkt .req 22), 4, bufKey 10 3 (wPkt .req 22), wPkt .req 22, wPkt .req 22, let s := wBuf 9 4 (wPkt .req 22);
    { s with noc := { s.noc with down := [37] } }, by decide +kernel⟩

theorem wit_PacketsMoveOn_5 : ∃ c : Fin 48, ∃ o : Fin 3, ∃ k : Nat, ∃ port : Nat, ∃ ep : Nat, ∃ p : Packet, ∃ s : State, calm s = true ∧ s.noc.failed
    = [] ∧ s.noc.down = [] ∧ s.candidates c = [(k, port, p)] ∧ s.outputOf c p = 4 + o.val ∧ epAt c o = some ep ∧ s.isFenced (s.epOwner ep) = false ∧
    s.noc.closed = [] :=
  ⟨9, 1, bufKey 9 0 (wPkt .req 19), 0, 19, wPkt .req 19, wBuf 9 0 (wPkt .req 19), by decide +kernel⟩

theorem wit_PacketsMoveOn_6 : ∃ c : Fin 48, ∃ o : Fin 3, ∃ k : Nat, ∃ port : Nat, ∃ ep : Nat, ∃ p : Packet, ∃ s : State, s.noc.failed = [] ∧
    s.noc.down = [] ∧ s.candidates c = [(k, port, p)] ∧ s.outputOf c p = 4 + o.val ∧ epAt c o = some ep ∧ s.isFenced (s.epOwner ep) = false ∧ p.cls =
    .req ∧ s.noc.closed.contains (s.epOwner ep).dom = true ∧ (SMap.get [] s.noc.gates ep).length < 16 ∧ (s.pwr.downs.any fun d => d.1 == (s.epOwner
    ep).dom) = false ∧ s.cond (s.epOwner ep).dom ≠ .on :=
  ⟨9, 1, bufKey 9 0 (wPkt .req 19), 0, 19, wPkt .req 19, let s := wBuf 9 0 (wPkt .req 19); { s with noc := { s.noc with closed := [17] } }.setCond 17
    .retained, by decide +kernel⟩

theorem wit_PacketsMoveOn_7 : ∃ c : Fin 48, ∃ o : Fin 3, ∃ k : Nat, ∃ port : Nat, ∃ p : Packet, ∃ s : State, s.noc.failed = [] ∧ s.candidates c =
    [(k, port, p)] ∧ s.outputOf c p = 7 ∧ epPort p.dst = o.val ∧ p.cls ≠ .req :=
  ⟨9, 1, bufKey 9 0 (wPkt .rsp 19), 0, wPkt .rsp 19, setRoute false false 9 19 7 (wBuf 9 0 (wPkt .rsp 19)), by decide +kernel⟩

theorem wit_PacketsMoveOn_8 : ∃ c : Fin 48, ∃ o : Fin 3, ∃ k : Nat, ∃ port : Nat, ∃ p : Packet, ∃ s : State, s.noc.failed = [] ∧ s.candidates c =
    [(k, port, p)] ∧ s.outputOf c p = 7 ∧ epPort p.dst = o.val ∧ p.cls = .req ∧ k ≠ bufKey c 4 { p with cls := .rsp } :=
  ⟨9, 1, bufKey 9 0 (wPkt .req 19), 0, wPkt .req 19, setRoute false false 9 19 7 (wBuf 9 0 (wPkt .req 19)), by decide +kernel⟩

theorem wit_PacketsMoveOn_9 : ∃ c : Fin 48, ∃ o : Fin 7, ∃ i : PacketIn, ∃ ep : Nat, ∃ e : Nat, ∃ k : Nat, ∃ p : Packet, ∃ s : State, s.noc.failed =
    [] ∧ s.noc.bufs = [] ∧ epAt c i.port = some ep ∧ p = s.stamped i.pkt i.start i.bound ∧ e = s.injectEp ep p ∧ k = bufKey (epCrossing e) (4 +
    epPort e) { p with repoch := s.noc.epoch, src := e } ∧ s.bufRoom k { p with repoch := s.noc.epoch, src := e } = true ∧ (epCrossing e ≠ c.val ∨
    s.leavesBy c o { p with repoch := s.noc.epoch, src := e } = false) :=
  ⟨9, 0, { port := 1, pkt := wPkt .rsp 22, start := 0, bound := 0 }, 19, 19, bufKey 9 5 (wPkt .rsp 22), wPkt .rsp 22, State.reset.onNoc fun n =>
    { n with epoch := false }, by decide +kernel⟩

theorem wit_PacketsMoveOn_10 : ∃ c : Fin 48, ∃ o : Fin 3, ∃ ep : Nat, ∃ q : Queued, ∃ rest : List Queued, ∃ err : BitVec 128, ∃ s : State, epAt c o =
    some ep ∧ SMap.get [] s.noc.outs ep = q :: rest ∧ s.armed 7 ep = false ∧ err ≠ 0 ∧ headerHolds (packHeader q.pkt ^^^ err) = false :=
  ⟨9, 1, 19, { pkt := wPkt .rsp 19, at_ := 0 }, [], 4, wOut 19 (wPkt .rsp 19), by decide +kernel⟩

theorem wit_PacketsMoveOn_11 : ∃ c : Fin 48, ∃ o : Fin 3, ∃ ep : Nat, ∃ n : Nat, ∃ q : Queued, ∃ rest : List Queued, ∃ s : State, epAt c o = some ep
    ∧ SMap.get [] s.noc.outs ep = q :: rest ∧ s.armed 7 ep = false ∧ q.pkt.cls = .rsp ∧ q.pkt.tepoch ≠ s.epEpoch ep ∧ s.epOwner ep = .slice n :=
  ⟨9, 1, 19, 9, { pkt := { wPkt .rsp 19 with tepoch := 1 }, at_ := 0 }, [], wOut 19 { wPkt .rsp 19 with tepoch := 1 }, by decide +kernel⟩

theorem wit_PacketsMoveOn_12 : ∃ c : Fin 48, ∃ o : Fin 3, ∃ ep : Nat, ∃ h : Nat, ∃ q : Queued, ∃ rest : List Queued, ∃ s : State, epAt c o = some ep
    ∧ SMap.get [] s.noc.outs ep = q :: rest ∧ s.armed 7 ep = false ∧ q.pkt.cls = .rsp ∧ q.pkt.tepoch ≠ s.epEpoch ep ∧ s.epOwner ep = .head h :=
  ⟨16, 1, 33, 0, { pkt := { wPkt .rsp 33 with tepoch := 1 }, at_ := 0 }, [], wOut 33 { wPkt .rsp 33 with tepoch := 1 }, by decide +kernel⟩

theorem wit_PacketsMoveOn_13 : ∃ c : Fin 48, ∃ o : Fin 3, ∃ ep : Nat, ∃ q : Queued, ∃ rest : List Queued, ∃ s : State, epAt c o = some ep ∧ SMap.get
    [] s.noc.outs ep = q :: rest ∧ s.armed 7 ep = false ∧ (q.pkt.cls = .rsp → q.pkt.tepoch = s.epEpoch ep) :=
  ⟨9, 1, 19, { pkt := wPkt .req 19, at_ := 0 }, [], wOut 19 (wPkt .req 19), by decide +kernel⟩

theorem wit_GridFailures_1 : ∃ r : Req, ∃ s : State, s.flight = [r] ∧ r.nackAt = 0 ∧ ((∀ h : Fin 4, s.penEntry h r.id = none)) :=
  ⟨{ wReq 7 .read with t0 := 50 }, { State.reset with flight := [{ wReq 7 .read with t0 := 50 }] }, by decide +kernel⟩

theorem wit_GridFailures_2 : ∃ h : Fin 4, ∃ id : Nat, ∃ e : PenEntry, ∃ s : State, s.flight = [] ∧ s.penEntry h id = some e ∧ ((∀ g : Fin 4, g ≠ h →
    s.penEntry g id = none)) ∧ e.phase = .injected ∧ s.answered id = false :=
  ⟨0, 7, { req := wReq 7 .read, phase := .injected }, wPen { req := wReq 7 .read, phase := .injected }, by decide +kernel⟩

theorem wit_GridFailures_3 : ∃ c : Fin 48, ∃ d : Fin 4, ∃ n : Nat, ∃ s : State, neighbour c d = some n ∧ s.noc.down = [] ∧ s.noc.failed = [] :=
  ⟨9, 1, 10, State.reset, by decide +kernel⟩

theorem wit_GridFailures_4 : ∃ c : Fin 48, ∃ d : Fin 4, ∃ n : Nat, ∃ x : Nat, ∃ s : State, neighbour c d = some n ∧ s.noc.down = [x] ∧ x ≠ 4 * n +
    opposite d ∧ s.noc.failed = [] ∧ s.streetsDown c = 1 ∧ s.streetsDown n = 0 :=
  ⟨9, 1, 10, 33, State.reset.onNoc fun n => { n with down := [33] }, by decide +kernel⟩

theorem wit_GridFailures_5 : ∃ c : Fin 48, ∃ d : Fin 4, ∃ s : State, neighbour c d = none ∧ s.noc.failed = [] :=
  ⟨0, 3, State.reset, by decide +kernel⟩

theorem wit_RoutesChangeTogether_1 : ∃ s : State, calm s = true ∧ s.on Reg.NOC_RT_CTL_BUSY = false ∧ s.on Reg.NOC_RT_ADDR_INJ = false ∧ s.fld
    Reg.NOC_RT_ADDR_NODE < 48 ∧ s.fld Reg.NOC_RT_ADDR_ENTRY < 98 :=
  ⟨wset [(Reg.NOC_RT_ADDR_NODE, 9), (Reg.NOC_RT_ADDR_ENTRY, 20), (Reg.NOC_RT_CTL_CHECK_FAIL, 1)], by decide +kernel⟩

theorem wit_RoutesChangeTogether_3 : ∃ s : State, calm s = true ∧ s.on Reg.NOC_RT_CTL_BUSY = false :=
  ⟨State.reset, by decide +kernel⟩

theorem wit_RoutesChangeTogether_4 : ∃ c : Fin 48, ∃ d : Fin 48, ∃ s : State, s.noc.flipping = true ∧ s.noc.declared.contains c.val = false ∧
    s.drainedAt c = true ∧ d ≠ c ∧ s.noc.declared.contains d.val = false ∧ s.noc.failed = [] :=
  ⟨9, 40, { State.reset with noc := { State.reset.noc with flipping := true, declared := (List.range 48).filter fun x => x != 9 && x != 40 } },
    by decide +kernel⟩

theorem wit_RoutesChangeTogether_5 : ∃ c : Fin 48, ∃ s : State, s.noc.flipping = true ∧ s.noc.declared = (List.range 48).filter (· != c.val) ∧
    s.drainedAt c = true :=
  ⟨9, { State.reset with noc := { State.reset.noc with flipping := true, declared := (List.range 48).filter fun x => x != 9 } }, by decide +kernel⟩

theorem wit_RoutesChangeTogether_6 : ∃ n : Nat, ∃ s : State, s.noc.guard = some n ∧ s.takeovers = [] :=
  ⟨7000, { wset [(Reg.NOC_RT_CTL_BUSY, 1)] with noc := { State.reset.noc with flipping := true, guard := some 7000 } }, by decide +kernel⟩

theorem wit_RingsTakeDescriptors_1 : ∃ h : Fin 4, ∃ k : Fin 16, ∃ r : Fin 256, ∃ s : State, s.ringPath (.head h k) r = false :=
  ⟨0, 1, 7, State.reset, by decide +kernel⟩

theorem wit_RingsTakeDescriptors_2 : ∃ h : Fin 4, ∃ k : Fin 16, ∃ r : Fin 256, ∃ s : State, s.ringPath (.head h k) r = false :=
  ⟨0, 1, 7, State.reset, by decide +kernel⟩

theorem wit_RingsTakeDescriptors_3 : ∃ h : Fin 4, ∃ k : Fin 16, ∃ r : Fin 256, ∃ s : State, s.ringPath (.head h k) r = false :=
  ⟨0, 1, 7, State.reset, by decide +kernel⟩

theorem wit_RingsTakeDescriptors_4 : ∃ p : Path, ∃ r : Fin 256, ∃ v : BitVec 32, ∃ s : State, s.ringPath p r = true ∧ v.getLsbD 31 = true ∧ s.on
    (Reg.NMR_CFG_EN r) = false :=
  ⟨.head 0 2, 7, 0x80010000, wset [(Reg.NMR_CFG_OWNED 7, 1), (Reg.NMR_CFG_LD 7, 2), (Reg.NMR_DBASE_DPA_64K 7, 5), (Reg.NMR_TAIL_TAIL 7, 9)],
    by decide +kernel⟩

theorem wit_RingsTakeDescriptors_5 : ∃ p : Path, ∃ r : Fin 256, ∃ v : BitVec 32, ∃ s : State, s.ringPath p r = true ∧ v.getLsbD 31 = false ∧ s.on
    (Reg.NMR_CFG_EN r) = true :=
  ⟨.plaza, 7, 0, { wset [(Reg.NMR_CFG_EN 7, 1)] with nme := { rings := [(7, { stamps := [(0, 5)] })], running := [{ ring := 7, idx := 0, eng := 0 }] } }, by decide +kernel⟩

theorem wit_RingsTakeDescriptors_6 : ∃ p : Path, ∃ r : Fin 256, ∃ v : BitVec 32, ∃ n : Nat, ∃ s : State, calm s = true ∧ s.ringPath p r = true ∧ s.on
    (Reg.NMR_CFG_EN r) = true ∧ (s.ring r).entries = n ∧ 0 < n ∧ n ≤ 65536 ∧ s.ringN r + (v.toNat % 65536 % n + n - s.fld (Reg.NMR_TAIL_TAIL r)) % n
    ≤ n - 1 ∧ s.cond (122 + s.fld (Reg.NMR_STS_ENG_ACT r)) = .on :=
  ⟨.plaza, 7, 5, 64, (wset [(Reg.NMR_CFG_EN 7, 1), (Reg.NMR_TAIL_TAIL 7, 62), (Reg.NMR_HEAD_HEAD 7, 60)]).setCond 122 .on, by decide +kernel⟩

theorem wit_RingsTakeDescriptors_7 : ∃ p : Path, ∃ r : Fin 256, ∃ v : BitVec 32, ∃ n : Nat, ∃ s : State, s.ringPath p r = true ∧ s.on (Reg.NMR_CFG_EN
    r) = true ∧ (s.ring r).entries = n ∧ 0 < n ∧ n ≤ 65536 ∧ n - 1 < s.ringN r + (v.toNat % 65536 % n + n - s.fld (Reg.NMR_TAIL_TAIL r)) % n ∧ s.on
    (Reg.NMR_STS_HALTED r) = false ∧ s.cond (122 + s.fld (Reg.NMR_STS_ENG_ACT r)) = .on :=
  ⟨.plaza, 7, 61, 64, (wset [(Reg.NMR_CFG_EN 7, 1), (Reg.NMR_TAIL_TAIL 7, 62), (Reg.NMR_HEAD_HEAD 7, 60)]).setCond 122 .on, by decide +kernel⟩

theorem wit_RingsTakeDescriptors_8 : ∃ p : Path, ∃ r : Fin 256, ∃ s : State, s.ringPath p r = true :=
  ⟨.plaza, 7, wset [(Reg.NMR_STS_HALTED 7, 1), (Reg.NMR_STS_LAST_ERR 7, 9)], by decide +kernel⟩

theorem wit_DescriptorsComeAndGo_1 : ∃ n : Fin 8, ∃ r : Nat, ∃ v : Line, ∃ s : State, calm s = true ∧ s.isFenced (.engine n) = false ∧ s.on
    (Reg.NME_STS_READY n) = true ∧ s.supplyLow = false ∧ s.nme.running = [] ∧ s.pickRing n = some r ∧ r < 256 ∧ s.reachable (s.fld (Reg.NMR_CFG_LD
    r)) (s.descAddr r (s.ring r).start) = true ∧ s.lineNow (s.gpnOf (s.fld (Reg.NMR_CFG_LD r)) (s.descAddr r (s.ring r).start)) (s.descAddr r (s.ring
    r).start % 4096 / 64) = some (v, false) ∧ s.lineFree (s.engineReq n (s.fld (Reg.NMR_CFG_LD r)) (s.descAddr r (s.ring r).start) 0 .read 0 0 false)
    = true ∧ (parseDescriptor v).fence = false ∧ paramCode
    { ring := r, idx := (s.ring r).start, eng := n, d := parseDescriptor v, fetched := true, started := true } = 0 ∧ ((destRanges
    { ring := r, idx := (s.ring r).start, eng := n, d := parseDescriptor v, fetched := true, started := true }).any (s.touchesFrozen (s.fld
    (Reg.NMR_CFG_LD r)))) = false ∧ ((parseDescriptor v).opc ≠ 7 ∨ (Running.erased
    { ring := r, idx := (s.ring r).start, eng := n, d := parseDescriptor v, fetched := true, started := true }).length ≤ Running.m
    { ring := r, idx := (s.ring r).start, eng := n, d := parseDescriptor v, fetched := true, started := true }) :=
  ⟨0, 7, 0x0000BEEF00000000, wRing, by decide +kernel⟩

theorem wit_DescriptorsComeAndGo_2 : ∃ n : Fin 8, ∃ r : Nat, ∃ v : Line, ∃ s : State, calm s = true ∧ s.isFenced (.engine n) = false ∧ s.on
    (Reg.NME_STS_READY n) = true ∧ s.supplyLow = false ∧ s.nme.running = [] ∧ s.pickRing n = some r ∧ r < 256 ∧ s.reachable (s.fld (Reg.NMR_CFG_LD
    r)) (s.descAddr r (s.ring r).start) = true ∧ s.lineNow (s.gpnOf (s.fld (Reg.NMR_CFG_LD r)) (s.descAddr r (s.ring r).start)) (s.descAddr r (s.ring
    r).start % 4096 / 64) = some (v, false) ∧ s.lineFree (s.engineReq n (s.fld (Reg.NMR_CFG_LD r)) (s.descAddr r (s.ring r).start) 0 .read 0 0 false)
    = true ∧ (parseDescriptor v).fence = false ∧ paramCode
    { ring := r, idx := (s.ring r).start, eng := n, d := parseDescriptor v, fetched := true, started := true } = 0x20 :=
  ⟨0, 7, 0x0000BEEF00000055, setLine 16 0 0x0000BEEF00000055 wRing, by decide +kernel⟩

theorem wit_DescriptorsComeAndGo_3 : ∃ r : Fin 256, ∃ i : Nat, ∃ t0 : Nat, ∃ n : Nat, ∃ s : State, s.nme.running = [] ∧ (s.ring r).stamps = [(i, t0)]
    ∧ (s.ring r).start = i ∧ (s.ring r).entries = n ∧ 1 < n ∧ i < n ∧ s.fld (Reg.NMR_TAIL_TAIL r) = (i + 1) % n :=
  ⟨7, 3, 100, 64, { wset [(Reg.NMR_TAIL_TAIL 7, 4)] with nme := { rings := [(7, { start := 3, stamps := [(3, 100)] })] } }, by decide +kernel⟩

theorem wit_DescriptorsComeAndGo_4 : ∃ r : Fin 256, ∃ x : Running, ∃ e : Ending, ∃ s1 : State, ∃ a : Nat, ∃ n : Nat, ∃ s : State, calm s = true ∧
    s.run r (s.fld (Reg.NMR_HEAD_HEAD r)) = some x ∧ x.ring = r.val ∧ x.idx = s.fld (Reg.NMR_HEAD_HEAD r) ∧ x.ended = some e ∧ x.waits = none ∧ a =
    (s.ring r).cbase + 16 * x.idx ∧ engineWrites x (s.fld (Reg.NMR_CFG_LD r)) a (lineOf (List.replicate (a % 64) 0 ++ recordBytes x e (s.on
    (Reg.NMR_STS_PHASE r)))) (BitVec.ofNat 64 (65535 * 2 ^ (a % 64))) s = some s1 ∧ s1.nme = s.nme ∧ calm s1 = true ∧ (s.ring r).entries = n ∧ x.idx
    + 1 < n ∧ n ≤ 65536 ∧ halting e.status = false ∧ x.d.intr = false ∧ e.status < 0x10 ∧ x.eng < 8 :=
  ⟨7, { ring := 7, idx := 4, eng := 0, d := { tag := 77 }, fetched := true, started := true, ended := some ⟨0, 0, 64⟩ }, ⟨0, 0, 64⟩, (engineWrites
    { ring := 7, idx := 4, eng := 0 } 0 12352 (lineOf (recordBytes { ring := 7, idx := 4, eng := 0, d := { tag := 77 } } ⟨0, 0, 64⟩ false)) 65535
    wDone).getD State.reset, 12352, 64, wDone, by decide +kernel⟩

theorem wit_DescriptorsComeAndGo_5 : ∃ r : Fin 256, ∃ x : Running, ∃ e : Ending, ∃ s1 : State, ∃ a : Nat, ∃ n : Nat, ∃ s : State, calm s = true ∧
    s.run r (s.fld (Reg.NMR_HEAD_HEAD r)) = some x ∧ x.ring = r.val ∧ x.idx = s.fld (Reg.NMR_HEAD_HEAD r) ∧ x.ended = some e ∧ x.waits = none ∧ a =
    (s.ring r).cbase + 16 * x.idx ∧ engineWrites x (s.fld (Reg.NMR_CFG_LD r)) a (lineOf (List.replicate (a % 64) 0 ++ recordBytes x e (s.on
    (Reg.NMR_STS_PHASE r)))) (BitVec.ofNat 64 (65535 * 2 ^ (a % 64))) s = some s1 ∧ s1.nme = s.nme ∧ s1.on (Reg.NMR_STS_PHASE r) = s.on
    (Reg.NMR_STS_PHASE r) ∧ calm s1 = true ∧ (s.ring r).entries = n ∧ x.idx + 1 = n ∧ n ≤ 65536 ∧ halting e.status = false ∧ x.d.intr = false ∧
    e.status < 0x10 ∧ x.eng < 8 :=
  ⟨7, { ring := 7, idx := 4, eng := 0, d := { tag := 77 }, fetched := true, started := true, ended := some ⟨0, 0, 64⟩ }, ⟨0, 0, 64⟩, (engineWrites
    { ring := 7, idx := 4, eng := 0 } 0 12352 (lineOf (recordBytes { ring := 7, idx := 4, eng := 0, d := { tag := 77 } } ⟨0, 0, 64⟩ false)) 65535
    (wDone.updRing 7 fun q => { q with entries := 5 })).getD State.reset, 12352, 5, wDone.updRing 7 fun q => { q with entries := 5 },
    by decide +kernel⟩

theorem wit_DescriptorsComeAndGo_6 : ∃ r : Fin 256, ∃ x : Running, ∃ e : Ending, ∃ s1 : State, ∃ a : Nat, ∃ n : Nat, ∃ h : Nat, ∃ s : State, calm s =
    true ∧ s.run r (s.fld (Reg.NMR_HEAD_HEAD r)) = some x ∧ x.ring = r.val ∧ x.idx = s.fld (Reg.NMR_HEAD_HEAD r) ∧ x.ended = some e ∧ x.waits = none
    ∧ a = (s.ring r).cbase + 16 * x.idx ∧ engineWrites x (s.fld (Reg.NMR_CFG_LD r)) a (lineOf (List.replicate (a % 64) 0 ++ recordBytes x e (s.on
    (Reg.NMR_STS_PHASE r)))) (BitVec.ofNat 64 (65535 * 2 ^ (a % 64))) s = some s1 ∧ s1.nme = s.nme ∧ s1.fld (Reg.NMR_CFG_LD r) = s.fld
    (Reg.NMR_CFG_LD r) ∧ s1.fld (Reg.NMR_CFG_VEC r) = s.fld (Reg.NMR_CFG_VEC r) ∧ calm s1 = true ∧ (s.ring r).entries = n ∧ x.idx + 1 < n ∧ n ≤ 65536
    ∧ halting e.status = false ∧ x.d.intr = true ∧ s1.headOf (s1.fld (Reg.NMR_CFG_LD r)) = some h ∧ s1.linkUp h = true ∧ s1.out = s.out ∧ e.status <
    0x10 ∧ x.eng < 8 :=
  ⟨7, { ring := 7, idx := 4, eng := 0, d := { tag := 77, intr := true }, fetched := true, started := true, ended := some ⟨0, 0, 64⟩ }, ⟨0, 0, 64⟩,
    (engineWrites { ring := 7, idx := 4, eng := 0 } 0 12352 (lineOf (recordBytes { ring := 7, idx := 4, eng := 0, d := { tag := 77, intr := true } }
    ⟨0, 0, 64⟩ false)) 65535 ({ wDone.setFld (Reg.HPA_LINK_STS_UP 0) 1 |>.setFld (Reg.HPA_CFG_LD_MASK 0) 1 with nme := { rings := [(7, { cbase := 12288 })], running := [{ ring := 7, idx := 4, eng := 0, d := { tag := 77, intr := true }, fetched := true, started := true, ended := some ⟨0, 0, 64⟩ }] } })).getD State.reset, 12352, 64, 0, { wDone.setFld (Reg.HPA_LINK_STS_UP 0) 1 |>.setFld (Reg.HPA_CFG_LD_MASK 0) 1 with nme := { rings := [(7, { cbase := 12288 })], running := [{ ring := 7, idx := 4, eng := 0, d := { tag := 77, intr := true }, fetched := true, started := true, ended := some ⟨0, 0, 64⟩ }] } }, by decide +kernel⟩

theorem wit_EnginesMoveData_1 : ∃ r : Fin 256, ∃ i : Nat, ∃ x : Running, ∃ s : State, s.run r i = some x ∧ x.atStart = true ∧ x.d.opc = 0 :=
  ⟨7, 0, wX {}, wRun {}, by decide +kernel⟩

theorem wit_EnginesMoveData_2 : ∃ r : Fin 256, ∃ i : Nat, ∃ x : Running, ∃ v : Line, ∃ s1 : State, ∃ s2 : State, ∃ s : State, s.run r i = some x ∧
    x.atStart = true ∧ x.d.opc = 1 ∧ x.d.len = 64 ∧ engineReads x (s.fld (Reg.NMR_CFG_LD r)) x.d.src s = some ((v, false), s1) ∧ engineWrites x
    (s1.fld (Reg.NMR_CFG_LD r)) x.d.dst v allBytes s1 = some s2 :=
  ⟨7, 0, wX { opc := 1, src := 12288, dst := 12352, len := 64 }, 55, ((engineReads (wX {}) 0 12288 (setLine 16 0 55 (wRun
    { opc := 1, src := 12288, dst := 12352, len := 64 }))).map Prod.snd).getD State.reset, (engineWrites (wX {}) 0 12352 55 allBytes (((engineReads
    (wX {}) 0 12288 (setLine 16 0 55 (wRun { opc := 1, src := 12288, dst := 12352, len := 64 }))).map Prod.snd).getD State.reset)).getD State.reset,
    setLine 16 0 55 (wRun { opc := 1, src := 12288, dst := 12352, len := 64 }), by decide +kernel⟩

theorem wit_EnginesMoveData_3 : ∃ r : Fin 256, ∃ i : Nat, ∃ k : Nat, ∃ x : Running, ∃ s : State, s.run r i = some x ∧ x.atStart = true ∧ x.d.opc = 1
    ∧ 64 ≤ x.d.len ∧ k = s.fld (Reg.NMR_CFG_LD r) ∧ s.reachable k x.d.src = true ∧ engineReads x k x.d.src s = none :=
  ⟨7, 0, 0, wX { opc := 1, src := 12288, dst := 12352, len := 64 }, putEntry 3 { state := 1, scnt := 3, seam := 69637 } (wRun
    { opc := 1, src := 12288, dst := 12352, len := 64 }), by decide +kernel⟩

theorem wit_EnginesMoveData_4 : ∃ r : Fin 256, ∃ i : Nat, ∃ x : Running, ∃ s1 : State, ∃ s : State, s.run r i = some x ∧ x.atStart = true ∧ x.d.opc =
    2 ∧ x.d.len = 64 ∧ engineWrites x (s.fld (Reg.NMR_CFG_LD r)) x.d.dst (patternLine x.d.imm) allBytes s = some s1 :=
  ⟨7, 0, wX { opc := 2, dst := 12352, len := 64, imm := 7 }, (engineWrites (wX {}) 0 12352 (patternLine 7) allBytes (wRun
    { opc := 2, dst := 12352, len := 64, imm := 7 })).getD State.reset, wRun { opc := 2, dst := 12352, len := 64, imm := 7 }, by decide +kernel⟩

theorem wit_EnginesMoveData_5 : ∃ r : Fin 256, ∃ i : Nat, ∃ k : Nat, ∃ p : Nat, ∃ x : Running, ∃ s : State, s.run r i = some x ∧ x.atStart = true ∧
    x.d.opc = 3 ∧ x.d.len = 4096 ∧ x.d.dst % 4096 = 0 ∧ k = s.fld (Reg.NMR_CFG_LD r) ∧ p = s.gpnOf k x.d.dst ∧ s.reachable k x.d.dst = true ∧
    s.isFrozen k x.d.dst = false ∧ s.heldLine x.eng k x.d.dst = none ∧ s.mayOpen p = true ∧ ((s.slice (s.home p)).txns.any fun y => y.req.gpn == p) =
    false ∧ s.fld Reg.PWR_STS_STATE < 2 :=
  ⟨7, 0, 0, 3, wX { opc := 3, dst := 12288, len := 4096 }, wRun { opc := 3, dst := 12288, len := 4096 }, by decide +kernel⟩

theorem wit_EnginesMoveData_6 : ∃ r : Fin 256, ∃ i : Nat, ∃ p : Nat, ∃ x : Running, ∃ s : State, s.run r i = some x ∧ x.atStart = true ∧ x.d.opc = 10
    ∧ x.d.aux = 1 ∧ x.d.len = 4096 ∧ p = s.gpnOf (s.fld (Reg.NMR_CFG_LD r)) x.d.src ∧ s.inCapacity (s.fld (Reg.NMR_CFG_LD r)) x.d.src = true ∧
    s.switching 0 = false ∧ (s.entry p).pin = false ∧ (s.entry p).state = 2 ∧ s.mayOpen p = true :=
  ⟨7, 0, 3, wX { opc := 10, aux := 1, src := 12288, len := 4096 }, putEntry 3 { state := 2, scnt := 3, frame := 16 } (wRun
    { opc := 10, aux := 1, src := 12288, len := 4096 }), by decide +kernel⟩

theorem wit_EnginesMoveData_7 : ∃ r : Fin 256, ∃ i : Nat, ∃ p : Nat, ∃ x : Running, ∃ s : State, s.run r i = some x ∧ x.atStart = true ∧ x.d.opc = 10
    ∧ x.d.aux = 1 ∧ x.d.len = 4096 ∧ p = s.gpnOf (s.fld (Reg.NMR_CFG_LD r)) x.d.src ∧ s.inCapacity (s.fld (Reg.NMR_CFG_LD r)) x.d.src = true ∧
    s.switching 0 = false ∧ (s.entry p).pin = true :=
  ⟨7, 0, 3, wX { opc := 10, aux := 1, src := 12288, len := 4096 }, putEntry 3 { state := 2, scnt := 3, frame := 16, pin := true } (wRun
    { opc := 10, aux := 1, src := 12288, len := 4096 }), by decide +kernel⟩

theorem wit_EnginesMoveData_8 : ∃ r : Fin 256, ∃ i : Nat, ∃ p : Nat, ∃ f : Nat, ∃ x : Running, ∃ s : State, s.run r i = some x ∧ x.atStart = true ∧
    x.d.opc = 10 ∧ x.d.aux = 0 ∧ x.d.len = 4096 ∧ p = s.gpnOf (s.fld (Reg.NMR_CFG_LD r)) x.d.src ∧ s.inCapacity (s.fld (Reg.NMR_CFG_LD r)) x.d.src =
    true ∧ s.switching 0 = false ∧ (s.entry p).state = 1 ∧ (s.entry p).scnt ≠ 0 ∧ s.mayOpen p = true ∧ s.shedFor p = some f :=
  ⟨7, 0, 3, 7340033, wX { opc := 10, aux := 0, src := 12288, len := 4096 }, putEntry 3 { state := 1, scnt := 3, seam := 69637 } (wRun
    { opc := 10, aux := 0, src := 12288, len := 4096 }), by decide +kernel⟩

theorem wit_EnginesMoveData_9 : ∃ r : Fin 256, ∃ i : Nat, ∃ p : Nat, ∃ x : Running, ∃ s : State, s.run r i = some x ∧ x.atStart = true ∧ x.d.opc = 10
    ∧ x.d.aux = 0 ∧ x.d.len = 4096 ∧ p = s.gpnOf (s.fld (Reg.NMR_CFG_LD r)) x.d.src ∧ s.inCapacity (s.fld (Reg.NMR_CFG_LD r)) x.d.src = true ∧
    s.switching 0 = false ∧ (s.entry p).state = 1 ∧ (s.entry p).scnt ≠ 0 ∧ s.shedFor p = none :=
  ⟨7, 0, 3, wX { opc := 10, aux := 0, src := 12288, len := 4096 }, (((putEntry 3 { state := 1, scnt := 3, seam := 69637 } (wRun
    { opc := 10, aux := 0, src := 12288, len := 4096 })).setFld (Reg.HTC_STS_GRP_FENCED 0) 255).setFld (Reg.HTC_STS_GRP_FENCED 1) 255).onHot fun h =>
    { h with tags := [(2097152, { valid := true, block := 0 })] }, by decide +kernel⟩

theorem wit_EnginesCompute_1 : ∃ r : Fin 256, ∃ i : Nat, ∃ x : Running, ∃ v : Line, ∃ s1 : State, ∃ s : State, s.run r i = some x ∧ x.atStart = true
    ∧ x.d.opc = 4 ∧ 0 < x.d.len ∧ x.d.src % 64 + x.d.len ≤ 64 ∧ engineReads x (s.fld (Reg.NMR_CFG_LD r)) (x.d.src / 64 * 64) s = some ((v, false),
    s1) :=
  ⟨7, 0, wX { opc := 4, src := 12290, len := 9 }, 55, ((engineReads (wX {}) 0 12288 (setLine 16 0 55 (wRun
    { opc := 4, src := 12290, len := 9 }))).map Prod.snd).getD State.reset, setLine 16 0 55 (wRun { opc := 4, src := 12290, len := 9 }),
    by decide +kernel⟩

theorem wit_EnginesCompute_2 : ∃ r : Fin 256, ∃ i : Nat, ∃ x : Running, ∃ v : Line, ∃ s1 : State, ∃ s2 : State, ∃ s : State, s.run r i = some x ∧
    x.atStart = true ∧ x.d.opc = 5 ∧ 0 < x.d.len ∧ x.d.src % 64 + x.d.len ≤ 64 ∧ engineReads x (s.fld (Reg.NMR_CFG_LD r)) (x.d.src / 64 * 64) s =
    some ((v, false), s1) ∧ engineWrites x (s1.fld (Reg.NMR_CFG_LD r)) x.d.res (lineOf (List.replicate (x.d.res % 64) 0 ++ Crypto.sha256 (sliceBytes
    v (x.d.src % 64) x.d.len))) (BitVec.ofNat 64 ((2 ^ 32 - 1) * 2 ^ (x.d.res % 64))) s1 = some s2 :=
  ⟨7, 0, wX { opc := 5, src := 12290, len := 9, res := 12384 }, 55, ((engineReads (wX {}) 0 12288 (setLine 16 0 55 (wRun
    { opc := 5, src := 12290, len := 9, res := 12384 }))).map Prod.snd).getD State.reset, (engineWrites (wX {}) 0 12384 (lineOf (List.replicate 32 0
    ++ Crypto.sha256 (sliceBytes 55 2 9))) (BitVec.ofNat 64 ((2 ^ 32 - 1) * 2 ^ 32)) (((engineReads (wX {}) 0 12288 (setLine 16 0 55 (wRun
    { opc := 5, src := 12290, len := 9, res := 12384 }))).map Prod.snd).getD State.reset)).getD State.reset, setLine 16 0 55 (wRun
    { opc := 5, src := 12290, len := 9, res := 12384 }), by decide +kernel⟩

theorem wit_EnginesCompute_3 : ∃ r : Fin 256, ∃ i : Nat, ∃ x : Running, ∃ v : Line, ∃ s1 : State, ∃ s2 : State, ∃ s : State, s.run r i = some x ∧
    x.atStart = true ∧ x.d.opc = 6 ∧ x.k = 1 ∧ x.m = 1 ∧ x.d.mat = false ∧ x.d.len = 64 ∧ engineReads x (s.fld (Reg.NMR_CFG_LD r)) x.d.src s = some
    ((v, false), s1) ∧ engineWrites x (s1.fld (Reg.NMR_CFG_LD r)) x.d.dst (combine [Crypto.gfInv rsPoly 1] [v]) allBytes s1 = some s2 :=
  ⟨7, 0, wX { opc := 6, src := 12288, dst := 12352, len := 64, aux := 64, imm := 257 }, 55, ((engineReads (wX {}) 0 12288 (wRs 6)).map Prod.snd).getD
    State.reset, (engineWrites (wX {}) 0 12352 (combine [Crypto.gfInv rsPoly 1] [55]) allBytes (((engineReads (wX {}) 0 12288 (wRs 6)).map
    Prod.snd).getD State.reset)).getD State.reset, wRs 6, by decide +kernel⟩

theorem wit_EnginesCompute_4 : ∃ r : Fin 256, ∃ i : Nat, ∃ x : Running, ∃ v : Line, ∃ s1 : State, ∃ s2 : State, ∃ m : List Nat, ∃ s : State, s.run r
    i = some x ∧ x.atStart = true ∧ x.d.opc = 7 ∧ x.k = 1 ∧ x.m = 1 ∧ x.d.mat = false ∧ x.d.len = 64 ∧ x.erased = [0] ∧ x.rebuild = some [m] ∧
    engineReads x (s.fld (Reg.NMR_CFG_LD r)) (x.d.src + x.d.aux) s = some ((v, false), s1) ∧ engineWrites x (s1.fld (Reg.NMR_CFG_LD r)) x.d.src
    (combine m [v]) allBytes s1 = some s2 :=
  ⟨7, 0, wX { opc := 7, src := 12224, dst := 0, len := 64, aux := 64, imm := 18446744073709551873 }, 55, ((engineReads (wX {}) 0 12288 (wRs 7)).map
    Prod.snd).getD State.reset, (engineWrites (wX {}) 0 12224 (combine [1] [55]) allBytes (((engineReads (wX {}) 0 12288 (wRs 7)).map Prod.snd).getD
    State.reset)).getD State.reset, [1], wRs 7, by decide +kernel⟩

theorem wit_EnginesCompute_5 : ∃ r : Fin 256, ∃ i : Nat, ∃ x : Running, ∃ v : Line, ∃ w : Line, ∃ s1 : State, ∃ s2 : State, ∃ s : State, s.run r i =
    some x ∧ x.atStart = true ∧ x.d.opc = 8 ∧ 0 < x.d.len ∧ x.d.src % 64 + x.d.len ≤ 64 ∧ x.d.dst % 64 + x.d.len ≤ 64 ∧ engineReads x (s.fld
    (Reg.NMR_CFG_LD r)) (x.d.src / 64 * 64) s = some ((v, false), s1) ∧ engineReads x (s1.fld (Reg.NMR_CFG_LD r)) (x.d.dst / 64 * 64) s1 = some ((w,
    false), s2) :=
  ⟨7, 0, wX { opc := 8, src := 12288, dst := 12352, len := 20 }, 55, 0, ((engineReads (wX {}) 0 12288 (setLine 16 0 55 (wRun
    { opc := 8, src := 12288, dst := 12352, len := 20 }))).map Prod.snd).getD State.reset, ((engineReads (wX {}) 0 12352 (((engineReads (wX {}) 0
    12288 (setLine 16 0 55 (wRun { opc := 8, src := 12288, dst := 12352, len := 20 }))).map Prod.snd).getD State.reset)).map Prod.snd).getD
    State.reset, setLine 16 0 55 (wRun { opc := 8, src := 12288, dst := 12352, len := 20 }), by decide +kernel⟩

theorem wit_EnginesCompute_6 : ∃ r : Fin 256, ∃ i : Nat, ∃ k : Nat, ∃ e : Nat, ∃ a : Nat, ∃ x : Running, ∃ v : Line, ∃ s1 : State, ∃ s2 : State, ∃ s
    : State, s.run r i = some x ∧ x.atStart = true ∧ x.d.opc = 9 ∧ x.d.aux ≤ 6 ∧ x.d.len = 16 ∧ x.d.src % 16 = 0 ∧ engineReads x (s.fld
    (Reg.NMR_CFG_LD r)) x.d.src s = some ((v, false), s1) ∧ e = v.toNat / 256 ^ (x.d.src % 64) % 2 ^ 128 ∧ a = e % 2 ^ 64 ∧ a % (batchOp x.d.aux).2 =
    0 ∧ k = s1.fld (Reg.NMR_CFG_LD r) ∧ s1.reachable k a = true ∧ s1.isFrozen k a = false ∧ fastAtomic (s1.engineReq x.eng k a 0 (.atomic
    { op := (batchOp x.d.aux).1, off := a % 64, bytes := (batchOp x.d.aux).2, operand := BitVec.ofNat 128 (e / 2 ^ 64), compare := 0 } false) 0 0
    false) { op := (batchOp x.d.aux).1, off := a % 64, bytes := (batchOp x.d.aux).2, operand := BitVec.ofNat 128 (e / 2 ^ 64), compare := 0 } s1 =
    some (false, s2) :=
  ⟨7, 0, 0, 12360 + 5 * 2 ^ 64, 12360, wX { opc := 9, src := 12288, len := 16 }, BitVec.ofNat 512 (12360 + 5 * 2 ^ 64), ((engineReads (wX {}) 0 12288
    (setLine 16 0 (BitVec.ofNat 512 (12360 + 5 * 2 ^ 64)) (wRun { opc := 9, src := 12288, len := 16 }))).map Prod.snd).getD State.reset, ((fastAtomic
    ((((engineReads (wX {}) 0 12288 (setLine 16 0 (BitVec.ofNat 512 (12360 + 5 * 2 ^ 64)) (wRun { opc := 9, src := 12288, len := 16 }))).map
    Prod.snd).getD State.reset).engineReq 0 0 12360 0 (.atomic { op := .add, off := 8, bytes := 8, operand := 5, compare := 0 } false) 0 0 false)
    { op := .add, off := 8, bytes := 8, operand := 5, compare := 0 } (((engineReads (wX {}) 0 12288 (setLine 16 0 (BitVec.ofNat 512 (12360 + 5 * 2 ^
    64)) (wRun { opc := 9, src := 12288, len := 16 }))).map Prod.snd).getD State.reset)).map Prod.snd).getD State.reset, setLine 16 0 (BitVec.ofNat
    512 (12360 + 5 * 2 ^ 64)) (wRun { opc := 9, src := 12288, len := 16 }), by decide +kernel⟩

theorem wit_DimmsAreMeasured_1 : ∃ ch : Fin 16, ∃ z : Fin 2, ∃ s : State, s.slotPowered ch z = true ∧ (s.dimm ch z).failing = [] ∧ (s.dcc
    ch).slots.length = 2 :=
  ⟨3, 1, wset [(Reg.SUP_CH_STS_STATE 11, 3)], by decide +kernel⟩

theorem wit_DimmsAreMeasured_2 : ∃ ch : Fin 16, ∃ z : Fin 2, ∃ k : DimmReading, ∃ t0 : Nat, ∃ s : State, s.slotPowered ch z = true ∧ (s.dimm ch
    z).failing = [(k, t0)] :=
  ⟨3, 1, .spd, 5, updDimm 3 1 (fun d => { d with failing := [(.spd, 5)] }) (wset [(Reg.SUP_CH_STS_STATE 11, 3)]), by decide +kernel⟩

theorem wit_DimmsAreMeasured_3 : ∃ ch : Fin 16, ∃ z : Fin 2, ∃ k : DimmReading, ∃ t0 : Nat, ∃ st : Nat, ∃ s : State, (s.dcc ch).slots.length = 2 ∧
    (s.dimm ch z).failing = [(k, t0)] ∧ (s.dimm ch z).prev = some st :=
  ⟨3, 1, .spd, 5, 6, updDimm 3 1 (fun d => { d with failing := [(.spd, 5)], prev := some 6 }) (wset [(Reg.DCC_SLOT_STATE 3 1, 1)]), by decide +kernel⟩

theorem wit_DimmsAreMeasured_4 : ∃ ch : Fin 16, ∃ z : Fin 2, ∃ k : DimmReading, ∃ t0 : Nat, ∃ s : State, (s.dcc ch).slots.length = 2 ∧ (s.dimm ch
    z).failing = [(k, t0)] ∧ (s.dimm ch z).prev = none ∧ s.slotState ch z = 3 ∧ s.twoDpc = false ∧ s.fld Reg.RST_STS_PHASE = 0 :=
  ⟨3, 0, .spd, 5, (updDimm 3 0 (fun d => { d with failing := [(.spd, 5)] }) (wset [(Reg.DCC_SLOT_STATE 3 0, 3), (Reg.RST_STS_PHASE, 0)])),
    by decide +kernel⟩

theorem wit_DimmsAreMeasured_5 : ∃ ch : Fin 16, ∃ z : Fin 2, ∃ s : State, calm s = true ∧ (s.dcc ch).slots.length = 2 ∧ s.slotPowered ch z = true ∧
    (s.dimm ch z).fitted = true ∧ s.slotState ch z = 1 ∧ (s.dimm ch z).prev = none ∧ s.dram.checked = true :=
  ⟨3, 1, let s := wset [(Reg.SUP_CH_STS_STATE 11, 3), (Reg.DCC_SLOT_STATE 3 1, 1)]; { s with dram := { s.dram with checked := true } },
    by decide +kernel⟩

theorem wit_DimmsAreMeasured_6 : ∃ ch : Fin 16, ∃ a : Fin 255, ∃ b : Fin 255, ∃ s : State, calm s = true ∧ (s.dcc ch).slots.length = 2 ∧ a.val < 100
    ∧ b.val < 100 :=
  ⟨3, 90, 40, State.reset, by decide +kernel⟩

theorem wit_DimmsAreMeasured_7 : ∃ ch : Fin 16, ∃ z : Fin 2, ∃ a : Fin 255, ∃ s : State, (s.dcc ch).slots.length = 2 ∧ 100 ≤ a.val ∧ s.slotState ch z
    = 3 ∧ s.twoDpc = false ∧ s.fld Reg.RST_STS_PHASE = 0 :=
  ⟨3, 0, 100, wset [(Reg.DCC_SLOT_STATE 3 0, 3), (Reg.RST_STS_PHASE, 0)], by decide +kernel⟩

theorem wit_DimmsAreMeasured_8 : ∃ ch : Fin 16, ∃ s : State, calm s = true ∧ (s.dcc ch).slots.length = 2 :=
  ⟨3, State.reset, by decide +kernel⟩

theorem wit_DimmsAreMeasured_9 : ∃ ch : Fin 16, ∃ z : Fin 2, ∃ s : State, (s.dcc ch).slots.length = 2 ∧ s.slotState ch z = 3 ∧ s.twoDpc = false ∧
    s.fld Reg.RST_STS_PHASE = 0 :=
  ⟨3, 0, wset [(Reg.DCC_SLOT_STATE 3 0, 3), (Reg.RST_STS_PHASE, 0)], by decide +kernel⟩

theorem wit_DimmsAreMeasured_10 : ∃ c : Fin 256, ∃ s : State, calm s = true ∧ c.val < 105 :=
  ⟨96, State.reset, by decide +kernel⟩

theorem wit_DimmsAreMeasured_11 : ∃ st : Fin 2, ∃ c : Fin 256, ∃ s : State, 105 ≤ c.val ∧ s.isFenced (.stack st) = false :=
  ⟨1, 105, State.reset, by decide +kernel⟩

theorem wit_ChannelsServeTheirQueues_1 : ∃ ch : Fin 16, ∃ id : Nat, ∃ seam : Nat, ∃ j : ReadJob, ∃ s : State, s.job id = some j ∧ j.needs.contains
    (seam, ch.val) = true ∧ j.got = [] ∧ (s.dcc ch).rq = [] ∧ (s.dcc ch).wq = [] ∧ (s.dcc ch).stopped = false ∧ (s.rawStitch ch seam).isSome = true :=
  ⟨3, 4, 70000, { id := 4, gpn := 3, img := {}, use := .op, needs := [(70000, 3)] }, wDcc 3
    { id := 4, gpn := 3, img := {}, use := .op, needs := [(70000, 3)] }, by decide +kernel⟩

theorem wit_ChannelsServeTheirQueues_2 : ∃ ch : Fin 16, ∃ id : Nat, ∃ seam : Nat, ∃ j : ReadJob, ∃ w : WriteEntry, ∃ s : State, s.job id = some j ∧
    j.needs.contains (seam, ch.val) = true ∧ j.got = [] ∧ (s.dcc ch).rq = [] ∧ (s.dcc ch).wq = [w] ∧ w.seam = seam ∧ (s.dcc ch).stopped = false ∧
    (s.rawStitch ch seam).isSome = true :=
  ⟨3, 4, 70000, { id := 4, gpn := 3, img := {}, use := .op, needs := [(70000, 3)] }, { seam := 70000, data := 99, at_ := 0 }, (wDcc 3
    { id := 4, gpn := 3, img := {}, use := .op, needs := [(70000, 3)] }).updDcc 3 fun d =>
    { d with wq := [{ seam := 70000, data := 99, at_ := 0 }] }, by decide +kernel⟩

theorem wit_ChannelsServeTheirQueues_3 : ∃ ch : Fin 16, ∃ seam : Nat, ∃ w : StitchWrite, ∃ s : State, s.cold.writes = [w] ∧ w.seam = seam ∧ w.ch =
    ch.val ∧ s.writable ch seam = true ∧ (s.dcc ch).stopped = false ∧ s.slotState ch (s.slotOfSeam seam) ≠ 2 ∧ (s.dcc ch).wq = [] ∧ 1 < s.wqHigh ch :=
  ⟨3, 70000, { seam := 70000, ch := 3, data := 99 }, (wDcc 3 { id := 4, gpn := 3, img := {}, use := .op }).onCold fun c =>
    { c with writes := [{ seam := 70000, ch := 3, data := 99 }] }, by decide +kernel⟩

theorem wit_ChannelsServeTheirQueues_4 : ∃ ch : Fin 16, ∃ seam : Nat, ∃ w : StitchWrite, ∃ e : WriteEntry, ∃ s : State, s.cold.writes = [w] ∧ w.seam
    = seam ∧ w.ch = ch.val ∧ s.writable ch seam = true ∧ (s.dcc ch).stopped = false ∧ s.slotState ch (s.slotOfSeam seam) ≠ 2 ∧ (s.dcc ch).wq = [e] ∧
    e.seam = seam :=
  ⟨3, 70000, { seam := 70000, ch := 3, data := 99 }, { seam := 70000, data := 5, at_ := 0 }, ((wDcc 3
    { id := 4, gpn := 3, img := {}, use := .op }).onCold fun c => { c with writes := [{ seam := 70000, ch := 3, data := 99 }] }).updDcc 3 fun d =>
    { d with wq := [{ seam := 70000, data := 5, at_ := 0 }] }, by decide +kernel⟩

theorem wit_ChannelsServeTheirQueues_5 : ∃ ch : Fin 16, ∃ busy : List Nat, ∃ e : WriteEntry, ∃ s : State, calm s = true ∧ s.on Reg.CLK_STS_HOLDOVER =
    false ∧ (s.dcc ch).stopped = false ∧ s.on Reg.FLT_INJ_ARM = false ∧ s.nextColumn ch busy = some (.write e) :=
  ⟨3, [], { seam := 70000, data := 99, at_ := 0 }, ((wDcc 3 { id := 4, gpn := 3, img := {}, use := .op }).setFld (Reg.DCC_STS_DRAIN 3) 1).updDcc 3
    fun d => { d with wq := [{ seam := 70000, data := 99, at_ := 0 }] }, by decide +kernel⟩

theorem wit_ChannelsServeTheirQueues_6 : ∃ ch : Fin 16, ∃ busy : List Nat, ∃ e : ReadEntry, ∃ row : Bool, ∃ miss : Bool, ∃ j : ReadJob, ∃ s : State,
    calm s = true ∧ s.on Reg.CLK_STS_HOLDOVER = false ∧ (s.dcc ch).stopped = false ∧ s.armed 3 ch = false ∧ (s.dcc ch).inject = [] ∧ s.nextColumn ch
    busy = some (.read e row miss) ∧ s.job e.job = some j :=
  ⟨3, [], { job := 4, seam := 70000, cls := 1, openHint := true, at_ := 0 }, false, true,
    { id := 4, gpn := 3, img := {}, use := .op, needs := [(70000, 3)] }, (wDcc 3
    { id := 4, gpn := 3, img := {}, use := .op, needs := [(70000, 3)] }).updDcc 3 fun d =>
    { d with rq := [{ job := 4, seam := 70000, cls := 1, openHint := true, at_ := 0 }] }, by decide +kernel⟩

theorem wit_ChannelsServeTheirQueues_7 : ∃ st : Fin 2, ∃ g : Fin 8, ∃ busy : List Nat, ∃ a : LineAccess, ∃ s : State, s.on Reg.CLK_STS_HOLDOVER =
    false ∧ s.dram.stackRetrain ≠ some (8 * st.val + g.val) ∧ (s.group (8 * st.val + g.val)).rq = [a] ∧ (s.group (8 * st.val + g.val)).wq = [] ∧
    busy.contains a.bank = false :=
  ⟨1, 2, [3], { id := 7, write := false, cls := 1, row := 2, bank := 4, at_ := 0 }, State.reset.updGroup 10 fun x =>
    { x with rq := [{ id := 7, write := false, cls := 1, row := 2, bank := 4, at_ := 0 }] }, by decide +kernel⟩

theorem wit_ChannelsServeTheirQueues_8 : ∃ ch : Fin 16, ∃ bank : Nat, ∃ o : OpenRow, ∃ s : State, (s.dcc ch).rows = [o] ∧ o.bank = bank :=
  ⟨3, 5, { bank := 5, row := 7, at_ := 10 }, State.reset.updDcc 3 fun d => { d with rows := [{ bank := 5, row := 7, at_ := 10 }] }, by decide +kernel⟩

theorem wit_ChannelsServeTheirQueues_9 : ∃ ch : Fin 16, ∃ id : Nat, ∃ seam : Nat, ∃ r : ReadEntry, ∃ j : ReadJob, ∃ s : State, (s.dcc ch).rq = [r] ∧
    r.job = id ∧ r.seam = seam ∧ s.job id = some j :=
  ⟨3, 4, 70000, { job := 4, seam := 70000, cls := 1, openHint := true, at_ := 0 },
    { id := 4, gpn := 3, img := {}, use := .op, needs := [(70000, 3)] }, (wDcc 3
    { id := 4, gpn := 3, img := {}, use := .op, needs := [(70000, 3)] }).updDcc 3 fun d =>
    { d with rq := [{ job := 4, seam := 70000, cls := 1, openHint := true, at_ := 0 }] }, by decide +kernel⟩

theorem wit_ChannelsServeTheirQueues_10 : ∃ ch : Fin 16, ∃ s : State, s.on (Reg.DCC_STS_SR ch) = false ∧ (s.dcc ch).rq.any (fun r => r.cls == 0) =
    true ∧ (s.dcc ch).due = [] ∧ (s.dcc ch).ahead = [] :=
  ⟨3, State.reset.updDcc 3 fun d => { d with rq := [{ job := 4, seam := 70000, cls := 0, openHint := true, at_ := 0 }] }, by decide +kernel⟩

theorem wit_ChannelsServeTheirQueues_11 : ∃ ch : Fin 16, ∃ s : State, s.on Reg.CLK_STS_HOLDOVER = false ∧ s.on (Reg.DCC_STS_SR ch) = false ∧ (s.dcc
    ch).rq = [] ∧ (s.dcc ch).wq = [] ∧ (s.dcc ch).due = [] ∧ (s.dcc ch).ahead = [] :=
  ⟨3, State.reset.updDcc 3 fun d => { d with rows := [{ bank := 5, row := 7, at_ := 10 }] }, by decide +kernel⟩

theorem wit_ChannelsServeTheirQueues_12 : ∃ ch : Fin 16, ∃ s : State, s.on (Reg.DCC_STS_READY ch) = true ∧ s.on (Reg.DCC_STS_SR ch) = false ∧ (s.dcc
    ch).rq = [] ∧ (s.dcc ch).wq = [] :=
  ⟨3, (wset [(Reg.DCC_STS_READY 3, 1)]).updDcc 3 fun d => { d with rows := [{ bank := 5, row := 7, at_ := 10 }] }, by decide +kernel⟩

theorem wit_ChannelsServeTheirQueues_13 : ∃ ch : Fin 16, ∃ s : State, s.on (Reg.DCC_STS_SR ch) = true :=
  ⟨3, (wset [(Reg.DCC_STS_SR 3, 1)]), by decide +kernel⟩

theorem wit_TrainingAndPatrol_1 : ∃ ch : Fin 16, ∃ s : State, calm s = true ∧ s.on (Reg.DCC_STS_TRAINING ch) = true ∧ s.on (Reg.DCC_STS_FENCED ch) =
    false ∧ (s.dcc ch).held = none ∧ (s.dcc ch).fast = false ∧ s.on Reg.DCM_MODE_TRAIN_ACT = false ∧ s.slotState ch 0 = 2 ∧ s.slotState ch 1 = 0 ∧
    (s.dimm ch 0).prev = none ∧ s.fenceRecord ch (some 0) = none ∧ s.dram.dcm.slots = [] ∧ s.fld Reg.RST_STS_PHASE = 0 :=
  ⟨3, wset [(Reg.DCC_STS_TRAINING 3, 1), (Reg.DCC_SLOT_STATE 3 0, 2), (Reg.DCM_MODE_TRAIN_ACT, 0), (Reg.RST_STS_PHASE, 0)], by decide +kernel⟩

theorem wit_TrainingAndPatrol_2 : ∃ ch : Fin 16, ∃ s : State, s.on (Reg.DCC_STS_TRAINING ch) = true ∧ (s.dcc ch).held = none ∧ (s.dcc ch).fast =
    false ∧ s.on Reg.DCM_MODE_TRAIN_ACT = true :=
  ⟨3, wset [(Reg.DCC_STS_TRAINING 3, 1), (Reg.DCC_SLOT_STATE 3 0, 2), (Reg.DCM_MODE_TRAIN_ACT, 1)], by decide +kernel⟩

theorem wit_TrainingAndPatrol_3 : ∃ ch : Fin 16, ∃ s : State, s.on (Reg.DCC_STS_TRAINING ch) = true ∧ (s.dcc ch).held = none ∧ (s.dcc ch).fast = true
    :=
  ⟨3, (wset [(Reg.DCC_STS_TRAINING 3, 1), (Reg.DCC_SLOT_STATE 3 0, 2)]).updDcc 3 fun d => { d with fast := true }, by decide +kernel⟩

theorem wit_TrainingAndPatrol_4 : ∃ ch : Fin 16, ∃ s : State, (s.dcc ch).held = some [] ∧ s.slotState ch 0 = 2 ∧ s.slotState ch 1 = 0 ∧ (s.dimm ch
    0).prev = none ∧ s.fenceRecord ch (some 0) = none ∧ s.dram.dcm.slots = [] ∧ s.on (Reg.DCC_STS_FENCED ch) = false ∧ s.fld Reg.RST_STS_PHASE = 0 :=
  ⟨3, (wset [(Reg.DCC_STS_TRAINING 3, 1), (Reg.DCC_SLOT_STATE 3 0, 2), (Reg.RST_STS_PHASE, 0)]).updDcc 3 fun d =>
    { d with held := some [], heldAt := 7 }, by decide +kernel⟩

theorem wit_TrainingAndPatrol_5 : ∃ st : Fin 2, ∃ lanes : List Nat, ∃ s : State, calm s = true ∧ s.on (Reg.HTC_PHY_STS_TRAINED st) = false ∧
    s.isFenced (.stack st) = false ∧ s.fld Reg.RST_STS_PHASE = 5 ∧ s.dram.stackHeld = [] ∧ s.on Reg.DCM_MODE_TRAIN_ACT = false ∧ ((List.range 8).all
    fun g => decide (lanes.getD g 0 ≤ 4)) = true :=
  ⟨1, [1, 0, 4], wset [(Reg.RST_STS_PHASE, 5), (Reg.DCM_MODE_TRAIN_ACT, 0)], by decide +kernel⟩

theorem wit_TrainingAndPatrol_6 : ∃ ch : Fin 16, ∃ x : RankMargin, ∃ y : RankMargin, ∃ s : State, s.on (Reg.DCC_STS_READY ch) = true ∧ s.switching 4
    = false ∧ s.on Reg.DCM_MODE_TRAIN_ACT = false ∧ s.fld Reg.DCM_TRAIN_CFG_MARGIN_H ≠ 0 ∧ s.dram.stackRetrain = none ∧ s.dram.dcm.retrainQ = [] ∧
    ((List.range 16).all fun c => (s.dcc c).retrain.isEmpty) = true ∧ s.fld Reg.DCM_TRAIN_CFG_MARGIN_MIN ≤ Nat.min x.rd x.wr ∧ s.fld
    Reg.DCM_TRAIN_CFG_MARGIN_MIN ≤ Nat.min y.rd y.wr ∧ Nat.max x.rd x.wr < 256 ∧ Nat.max y.rd y.wr < 256 :=
  ⟨3, { slot := 0, rank := 1, rd := 40, wr := 30 }, { slot := 0, rank := 0, rd := 41, wr := 29 }, wset [(Reg.DCC_STS_READY 3, 1),
    (Reg.DCM_TRAIN_CFG_MARGIN_MIN, 20), (Reg.DCM_TRAIN_CFG_MARGIN_H, 24)], by decide +kernel⟩

theorem wit_TrainingAndPatrol_7 : ∃ ch : Fin 16, ∃ x : RankMargin, ∃ s : State, s.on (Reg.DCC_STS_READY ch) = true ∧ s.switching 4 = false ∧ s.on
    Reg.DCM_MODE_TRAIN_ACT = false ∧ s.fld Reg.DCM_TRAIN_CFG_MARGIN_H ≠ 0 ∧ s.dram.stackRetrain = none ∧ s.dram.dcm.retrainQ = [] ∧ ((List.range
    16).all fun c => (s.dcc c).retrain.isEmpty) = true ∧ (s.dcc ch).rq = [] ∧ Nat.min x.rd x.wr < s.fld Reg.DCM_TRAIN_CFG_MARGIN_MIN :=
  ⟨3, { slot := 0, rank := 1, rd := 14, wr := 30 }, wset [(Reg.DCC_STS_READY 3, 1), (Reg.DCM_TRAIN_CFG_MARGIN_MIN, 20), (Reg.DCM_TRAIN_CFG_MARGIN_H,
    24)], by decide +kernel⟩

theorem wit_TrainingAndPatrol_8 : ∃ ch : Fin 16, ∃ m : RankMargin, ∃ s : State, calm s = true ∧ (s.dcc ch).retrain = [(m.slot.val, m.rank.val)] ∧
    s.dram.dcm.retrainQ = [] ∧ s.fld Reg.DCM_TRAIN_CFG_MARGIN_MIN ≤ 2 * m.rd ∧ s.fld Reg.DCM_TRAIN_CFG_MARGIN_MIN ≤ 2 * m.wr :=
  ⟨3, { slot := 0, rank := 1, rd := 24, wr := 30 }, (wset [(Reg.DCC_STS_RETRAIN 3, 1), (Reg.DCM_TRAIN_CFG_MARGIN_MIN, 20)]).updDcc 3 fun d =>
    { d with retrain := [(0, 1)] }, by decide +kernel⟩

theorem wit_TrainingAndPatrol_9 : ∃ ch : Fin 16, ∃ m : RankMargin, ∃ s : State, s.failable ch m.slot = true ∧ s.bitOf (Reg.DCC_SLOT_RET ch m.slot)
    m.rank = false ∧ (s.dcc ch).retrain = [(m.slot.val, m.rank.val)] ∧ s.dram.dcm.retrainQ = [] ∧ 2 * m.rd < s.fld Reg.DCM_TRAIN_CFG_MARGIN_MIN :=
  ⟨3, { slot := 0, rank := 1, rd := 9, wr := 30 }, (wset [(Reg.DCC_STS_RETRAIN 3, 1), (Reg.DCM_TRAIN_CFG_MARGIN_MIN, 20), (Reg.DCC_SLOT_STATE 3 0,
    3), (Reg.DCC_SLOT_RANKS 3 0, 1)]).updDcc 3 fun d => { d with retrain := [(0, 1)] }, by decide +kernel⟩

theorem wit_TrainingAndPatrol_10 : ∃ st : Fin 2, ∃ m : RankMargin, ∃ s : State, s.dram.stackRetrain = some (8 * st.val + 4 * m.slot.val + m.rank.val)
    ∧ s.dram.dcm.retrainQ = [] ∧ 2 * m.rd < s.fld Reg.DCM_TRAIN_CFG_MARGIN_MIN :=
  ⟨1, { slot := 0, rank := 1, rd := 9, wr := 30 }, (wset [(Reg.DCM_TRAIN_CFG_MARGIN_MIN, 20)]).onDram fun d => { d with stackRetrain := some 9 },
    by decide +kernel⟩

theorem wit_TrainingAndPatrol_11 : ∃ s : State, calm s = true ∧ s.patrols = true ∧ s.on Reg.DCM_MODE_PATROL_ACT = false ∧ s.fld
    Reg.DCM_PATROL_STS_CURSOR + 1 < s.cold.nSeg * 4096 ∧ s.cold.nSeg ≤ 1048576 ∧ s.segState (segOf (s.fld Reg.DCM_PATROL_STS_CURSOR)) = .free :=
  ⟨(wset [(Reg.CTM_STS_READY, 1), (Reg.DCM_PATROL_STS_CURSOR, 81920)]).onCold fun c => { c with nSeg := 262144, nLedger := 16, dimmGib := 256 },
    by decide +kernel⟩

theorem wit_TrainingAndPatrol_12 : ∃ s : State, calm s = true ∧ s.patrols = true ∧ s.on Reg.DCM_MODE_PATROL_ACT = false ∧ s.fld
    Reg.DCM_PATROL_STS_CURSOR + 1 = s.cold.nSeg * 4096 ∧ s.segState (segOf (s.fld Reg.DCM_PATROL_STS_CURSOR)) = .free :=
  ⟨(wset [(Reg.CTM_STS_READY, 1), (Reg.CTM_TACK_DIMMS, 0), (Reg.DCM_PATROL_STS_CURSOR, 409599)]).onCold fun c =>
    { c with nSeg := 100, nLedger := 16, dimmGib := 256 }, by decide +kernel⟩

theorem wit_TrainingAndPatrol_13 : ∃ seam : Nat, ∃ s : State, s.patrols = true ∧ s.on Reg.DCM_MODE_PATROL_ACT = true ∧ seam < s.cold.nSeg * 4096 ∧
    s.segState (segOf seam) = .free :=
  ⟨81920, (wset [(Reg.CTM_STS_READY, 1), (Reg.DCM_MODE_PATROL_ACT, 1), (Reg.DCM_MODE_PATROL_MODE, 1)]).onCold fun c =>
    { c with nSeg := 262144, nLedger := 16, dimmGib := 256 }, by decide +kernel⟩

theorem wit_RepairRebuildService_1 : ∃ ch : Fin 16, ∃ z : Fin 2, ∃ rank : Fin 4, ∃ bank : Nat, ∃ row : Nat, ∃ s : State, zeroAsOne (s.fld
    (Reg.DCC_ERR_CFG_PPR_THR ch)) ≤ ((s.recentUe ch).filter fun u => u.z == z.val && u.rank == rank.val && u.bank == bank && u.row == row).length :=
  ⟨3, 0, 1, 5, 9, ((wDcc 3 { id := 4, gpn := 3, img := {}, use := .op }).setFld (Reg.DCC_ERR_CFG_PPR_THR 3) 1).updDcc 3 fun d =>
    { d with ueLog := [{ at_ := 0, z := 0, rank := 1, bank := 5, row := 9 }] }, by decide +kernel⟩

theorem wit_RepairRebuildService_2 : ∃ ch : Fin 16, ∃ z : Fin 2, ∃ rank : Fin 4, ∃ s : State, s.failable ch z = true ∧ s.bitOf (Reg.DCC_SLOT_RET ch
    z) rank = false ∧ zeroAsOne (s.fld (Reg.DCC_ERR_CFG_UE_THR ch)) ≤ ((s.recentUe ch).filter fun u => u.z == z.val && u.rank == rank.val).length :=
  ⟨3, 0, 1, ((wDcc 3 { id := 4, gpn := 3, img := {}, use := .op }).setFld (Reg.DCC_ERR_CFG_UE_THR 3) 1).updDcc 3 fun d =>
    { d with ueLog := [{ at_ := 0, z := 0, rank := 1, bank := 5, row := 9 }] }, by decide +kernel⟩

theorem wit_RepairRebuildService_3 : ∃ b : Fin 4, ∃ s : State, calm s = true ∧ s.patrols = true ∧ s.on (Reg.DCM_BLK_VALID b) = true ∧ s.fld
    (Reg.DCM_BLK_OP b) = 1 ∧ s.fld (Reg.DCM_BLK_DONE b) + 1 < s.slotUnits ∧ s.fld (Reg.DCM_BLK_DONE b) < 8191 ∧ ((s.unitSegs (s.fld (Reg.DCM_BLK_SLOT
    b)) (s.fld (Reg.DCM_BLK_DONE b))).all fun g => !s.visits g) = true :=
  ⟨1, (wset [(Reg.CTM_STS_READY, 1), (Reg.DCM_BLK_VALID 1, 1), (Reg.DCM_BLK_OP 1, 1), (Reg.DCM_BLK_CH 1, 3), (Reg.DCM_BLK_DONE 1, 5)]).onCold fun c
    => { c with nSeg := 262144, nLedger := 16, dimmGib := 256 }, by decide +kernel⟩

theorem wit_RepairRebuildService_4 : ∃ b : Fin 4, ∃ seg : Nat, ∃ s : State, calm s = true ∧ s.on (Reg.DCM_BLK_VALID b) = true ∧ s.fld (Reg.DCM_BLK_OP
    b) = 3 ∧ (s.needsCover b).contains seg = true ∧ s.visits seg = true ∧ s.inRange b seg = true ∧ s.writtenSeams seg = [] ∧ s.cold.stitches = [] :=
  ⟨1, 40, (wset [(Reg.DCM_BLK_VALID 1, 1), (Reg.DCM_BLK_OP 1, 3), (Reg.DCM_BLK_CH 1, 3), (Reg.DCC_SLOT_STATE 3 0, 7)]).onCold fun c =>
    { c with nSeg := 262144, nLedger := 0, dimmGib := 256, segs := [(40, { st := .sealed })] }, by decide +kernel⟩

theorem wit_RepairRebuildService_5 : ∃ ch : Fin 16, ∃ z : Fin 2, ∃ b : Nat, ∃ s : State, s.slotState ch z = 3 ∧ s.serviceRuns ch = false ∧ s.blockOf
    ch z = none ∧ s.freeBlock z = some b ∧ b < 4 :=
  ⟨3, 0, 0, (wset [(Reg.DCC_SLOT_STATE 3 0, 3), (Reg.CTM_TACK_DIMMS, 4)]).onCold fun c => { c with nSeg := 524288, nLedger := 0, dimmGib := 256 },
    by decide +kernel⟩

theorem wit_RepairRebuildService_6 : ∃ ch : Fin 16, ∃ z : Fin 2, ∃ b : Nat, ∃ s : State, calm s = true ∧ s.slotState ch z = 5 ∧ s.blockOf ch z = some
    b ∧ s.cold.nLedger = 0 ∧ s.cold.segs = [] ∧ (s.dcc ch).rq = [] ∧ (s.dcc ch).wq = [] :=
  ⟨3, 0, 1, (wset [(Reg.DCC_SLOT_STATE 3 0, 5), (Reg.DCM_BLK_VALID 1, 1), (Reg.DCM_BLK_OP 1, 3), (Reg.DCM_BLK_CH 1, 3)]).onCold fun c =>
    { c with nSeg := 524288, nLedger := 0, dimmGib := 256 }, by decide +kernel⟩

theorem wit_RepairRebuildService_7 : ∃ ch : Fin 16, ∃ z : Fin 2, ∃ s : State, calm s = true ∧ [6, 7, 10].contains (s.slotState ch z) = true ∧
    s.slotPowered ch z = true ∧ s.serviceRuns ch = false ∧ (s.dcc ch).slots.length = 2 :=
  ⟨3, 1, wset [(Reg.DCC_SLOT_STATE 3 1, 7), (Reg.SUP_CH_STS_STATE 11, 3)], by decide +kernel⟩

theorem wit_RepairRebuildService_8 : ∃ ch : Fin 16, ∃ z : Fin 2, ∃ b : Nat, ∃ s : State, [4, 5].contains (s.slotState ch z) = true ∧ s.blockOf ch z =
    some b ∧ s.dram.dcm.pend = [] :=
  ⟨3, 0, 1, (wset [(Reg.DCC_SLOT_STATE 3 0, 4), (Reg.DCM_BLK_VALID 1, 1), (Reg.DCM_BLK_OP 1, 2), (Reg.DCM_BLK_CH 1, 3)]).onCold fun c =>
    { c with nSeg := 524288, nLedger := 0, dimmGib := 256 }, by decide +kernel⟩

theorem wit_RepairRebuildService_9 : ∃ h : Fin 4, ∃ k : Fin 16, ∃ ch : Fin 16, ∃ z : Fin 2, ∃ c : Instr, [Instr.evacuate (.head h k) ch z,
    .fenceForService (.head h k) ch z, .slotReturn (.head h k) ch z, .cancelEvacuation (.head h k) ch z].contains c = true :=
  ⟨0, 0, 3, 0, .fenceForService (.head 0 0) 3 0, by decide +kernel⟩

theorem wit_FaultsAreJudged_1 : ∃ src : BitVec 8, ∃ s : State, calm s = true ∧ knownSource src.toNat = true ∧ s.eff src.toNat = 0 ∧ s.fld
    Reg.RST_STS_LEVEL = 0 :=
  ⟨0x01, wset [(Reg.FLT_REACT_ACT 1, 0), (Reg.FLT_REACT_FLOOR 1, 0), (Reg.RST_STS_LEVEL, 0)], by decide +kernel⟩

theorem wit_FaultsAreJudged_2 : ∃ src : BitVec 8, ∃ s : State, calm s = true ∧ knownSource src.toNat = false ∧ s.fld Reg.RST_STS_LEVEL = 0 :=
  ⟨0x36, wset [(Reg.RST_STS_LEVEL, 0)], by decide +kernel⟩

theorem wit_FaultsAreJudged_3 : ∃ src : BitVec 8, ∃ s : State, calm s = true ∧ s.fld Reg.RST_STS_LEVEL = 0 ∧ [0x01, 0x18, 0x2F].contains src.toNat =
    true ∧ s.eff src.toNat = 1 ∧ s.asks src.toNat = false ∧ s.on Reg.FLT_FIRST_VALID = false :=
  ⟨0x18, wset [(Reg.FLT_REACT_ACT 0x18, 1), (Reg.FLT_REACT_FLOOR 0x18, 0), (Reg.RST_STS_LEVEL, 0)], by decide +kernel⟩

theorem wit_FaultsAreJudged_4 : ∃ s : State, s.on Reg.FLT_FIRST_VALID = true ∧ s.on Reg.FLT_FIRST_DONE = false ∧ s.effective = true ∧ s.effectNs
    (s.fld Reg.FLT_FIRST_SRC) = 0 :=
  ⟨wset [(Reg.FLT_FIRST_VALID, 1), (Reg.FLT_FIRST_SRC, 7)], by decide +kernel⟩

theorem wit_FaultsAreJudged_5 : ∃ src : BitVec 8, ∃ inst : BitVec 8, ∃ d : Decision, ∃ s : State, s.waiting src.toNat inst.toNat = some d ∧ s.eff
    src.toNat ≤ s.fld (Reg.FLT_REACT_FLOOR d.report.src) :=
  ⟨0x18, 1, { report := { src := 0x18, inst := 1 }, due := 99 }, let s := wset [(Reg.FLT_REACT_ACT 0x18, 1), (Reg.FLT_REACT_FLOOR 0x18, 1)];
    { s with flt := { s.flt with awaiting := [{ report := { src := 0x18, inst := 1 }, due := 99 }] } }, by decide +kernel⟩

theorem wit_FaultsAreJudged_6 : ∃ src : BitVec 8, ∃ inst : BitVec 8, ∃ d : Decision, ∃ s : State, s.waiting src.toNat inst.toNat = some d ∧ src.toNat
    ≠ 0x23 ∧ s.eff src.toNat = 2 ∧ s.fld (Reg.FLT_REACT_FLOOR d.report.src) < 2 ∧ s.on Reg.FLT_FIRST_VALID = true ∧ s.fld Reg.FLT_FIRST_SRC =
    src.toNat ∧ s.fld Reg.FLT_FIRST_INST = inst.toNat :=
  ⟨0x18, 1, { report := { src := 0x18, inst := 1 }, due := 99 }, let s := wset [(Reg.FLT_REACT_ACT 0x18, 2), (Reg.FLT_REACT_FLOOR 0x18, 1),
    (Reg.FLT_FIRST_VALID, 1), (Reg.FLT_FIRST_SRC, 0x18), (Reg.FLT_FIRST_INST, 1)];
    { s with flt := { s.flt with awaiting := [{ report := { src := 0x18, inst := 1 }, due := 99 }] } }, by decide +kernel⟩

theorem wit_FaultsAreJudged_7 : ∃ src : BitVec 8, ∃ inst : BitVec 8, ∃ d : Decision, ∃ e : Nat, ∃ s : State, s.waiting src.toNat inst.toNat = some d
    ∧ src.toNat ≠ 0x23 ∧ s.eff src.toNat = 4 ∧ s.fld (Reg.FLT_REACT_FLOOR d.report.src) < 4 ∧ s.blocksOf d.report = [Block.engine e] :=
  ⟨0x13, 3, { report := { src := 0x13, inst := 3 }, due := 99 }, 3, let s := wset [(Reg.FLT_REACT_ACT 0x13, 4), (Reg.FLT_REACT_FLOOR 0x13, 1)];
    { s with flt := { s.flt with awaiting := [{ report := { src := 0x13, inst := 3 }, due := 99 }] } }, by decide +kernel⟩

theorem wit_FaultsAreJudged_8 : ∃ dom : Fin 144, ∃ n : Nat, ∃ s : State, s.flt.returnAt = [(blockOfDomain dom, n)] ∧ s.isFenced (blockOfDomain dom) =
    true ∧ s.on Reg.FLT_CFG_MODE_ACT = false ∧ s.on Reg.FLT_CFG_RETURN_EN = true ∧ s.flt.returned = [] ∧ s.rst.blocks = [] ∧ 122 ≤ dom.val ∧ dom.val
    < 130 ∧ s.effLevel 7 < 4 :=
  ⟨124, 77, let s := wset [(Reg.FLT_CFG_RETURN_EN, 1)]; { s with flt := { s.flt with fenced := [.engine 2], returnAt := [(.engine 2, 77)] } },
    by decide +kernel⟩

theorem wit_FaultRegistersAndInjection_1 : ∃ s : State, calm s = true ∧ s.on Reg.FLT_FIRST_VALID = true ∧ s.on Reg.FLT_FIRST_DONE = true :=
  ⟨wset [(Reg.FLT_FIRST_VALID, 1), (Reg.FLT_FIRST_DONE, 1), (Reg.FLT_FIRST_SRC, 7)], by decide +kernel⟩

theorem wit_FaultRegistersAndInjection_2 : ∃ s : State, calm s = true ∧ s.on Reg.FLT_FIRST_DONE = false :=
  ⟨wset [(Reg.FLT_FIRST_VALID, 1), (Reg.FLT_FIRST_SRC, 7)], by decide +kernel⟩

theorem wit_FaultRegistersAndInjection_3 : ∃ s : State, calm s = true :=
  ⟨wset [(Reg.FLT_SSTS_PEND 7, 1), (Reg.FLT_SSTS_OVF 7, 1)], by decide +kernel⟩

theorem wit_FaultRegistersAndInjection_4 : ∃ src : BitVec 8, ∃ inst : BitVec 8, ∃ s : State, s.lifeCycle ≠ 3 ∧ knownSource (src.toNat % 64) = true ∧
    s.eff (src.toNat % 64) < 6 ∧ s.noInstance (src.toNat % 64) inst.toNat = false :=
  ⟨0x18, 1, wset [(Reg.FLT_REACT_ACT 0x18, 1), (Reg.FLT_REACT_FLOOR 0x18, 0), (Reg.HPA_CFG_PRESENT 1, 1)], by decide +kernel⟩

theorem wit_FaultRegistersAndInjection_5 : ∃ s : State, calm s = true ∧ s.lifeCycle = 3 :=
  ⟨{ State.reset with fuses := { State.reset.fuses with loaded := true, lc := 3 } }, by decide +kernel⟩

theorem wit_FaultRegistersAndInjection_6 : ∃ tgt : BitVec 4, ∃ inst : BitVec 8, ∃ s : State, calm s = true ∧ 1 ≤ tgt.toNat ∧ tgt.toNat ≤ 8 ∧
    s.lifeCycle < 2 ∧ s.noTarget tgt.toNat inst.toNat = false :=
  ⟨3, 5, { State.reset with fuses := { State.reset.fuses with loaded := true, lc := 1 } }, by decide +kernel⟩

theorem wit_FaultRegistersAndInjection_7 : ∃ h : Fin 4, ∃ k : Fin 16, ∃ src : BitVec 8, ∃ inst : BitVec 8, ∃ bit : BitVec 8, ∃ tgt : BitVec 4, ∃ n :
    Fin 64, ∃ ovf : Bool, ∃ c : Instr, [Instr.firstErrorClear (.head h k), .sourcePendClear (.head h k) n ovf, .forceReport (.head h k) src inst,
    .armInjection (.head h k) tgt inst bit].contains c = true :=
  ⟨0, 0, 7, 3, 1, 3, 7, true, .armInjection (.head 0 0) 3 3 1, by decide +kernel⟩

theorem wit_FaultRegistersAndInjection_8 : ∃ dom : Fin 144, ∃ array : Nat, ∃ blk : Nat, ∃ b : Nat, ∃ s : State, calm s = true ∧ s.sramPowered dom =
    true ∧ s.sramBad (dom.val * 2 ^ 32 + (array % 65536 + blk % 65536 * 65536)) = [] ∧ b ≠ 0 :=
  ⟨20, 0, 3, 5, State.reset.setCond 20 .on, by decide +kernel⟩

theorem wit_FaultRegistersAndInjection_9 : ∃ dom : Fin 144, ∃ array : Nat, ∃ blk : Nat, ∃ s : State, calm s = true ∧ s.sramPowered dom = true ∧
    s.sramBad (dom.val * 2 ^ 32 + (array % 65536 + blk % 65536 * 65536)) = [] :=
  ⟨20, 0, 3, State.reset.setCond 20 .on, by decide +kernel⟩

theorem wit_FaultRegistersAndInjection_10 : ∃ dom : Fin 144, ∃ array : Nat, ∃ blk : Nat, ∃ s : State, s.sramPowered dom = true ∧ s.sramBad (dom.val *
    2 ^ 32 + (array % 65536 + blk % 65536 * 65536)) = [] :=
  ⟨20, 0, 3, State.reset.setCond 20 .on, by decide +kernel⟩

theorem wit_FaultRegistersAndInjection_11 : ∃ dom : Fin 144, ∃ array : Nat, ∃ blk : Nat, ∃ b : Nat, ∃ w : Fin 64, ∃ s : State, s.sramPowered dom =
    true ∧ s.sramBad (dom.val * 2 ^ 32 + (array % 65536 + blk % 65536 * 65536)) = [(w.val, b)] :=
  ⟨20, 0, 3, 5, 7, setSramBad (20 * 2 ^ 32 + 196608) [(7, 5)] (State.reset.setCond 20 .on), by decide +kernel⟩

theorem wit_FaultRegistersAndInjection_12 : ∃ dom : Fin 144, ∃ array : Nat, ∃ blk : Nat, ∃ b : Nat, ∃ w : Fin 64, ∃ s : State, s.sramPowered dom =
    true ∧ s.sramBad (dom.val * 2 ^ 32 + (array % 65536 + blk % 65536 * 65536)) = [(w.val, b)] :=
  ⟨20, 0, 3, 5, 7, setSramBad (20 * 2 ^ 32 + 196608) [(7, 5)] (State.reset.setCond 20 .on), by decide +kernel⟩

theorem wit_PowerStatesAndDomains_1 : ∃ h : Fin 4, ∃ s : State, s.present h = true ∧ s.fld Reg.PWR_STS_STATE < 2 :=
  ⟨1, wset [(Reg.HPA_CFG_PRESENT 1, 1)], by decide +kernel⟩

theorem wit_PowerStatesAndDomains_2 : ∃ h : Fin 4, ∃ s : State, s.present h = false :=
  ⟨1, State.reset, by decide +kernel⟩

theorem wit_PowerStatesAndDomains_3 : ∃ d : Fin 144, ∃ c : DomCond, ∃ s : State, s.trimGroup d = [d.val] ∧ s.gateTarget d = some c ∧
    s.noc.closed.contains d.val = false :=
  ⟨44, .retained, (wset [(Reg.PWR_CFG_MAX_STATE, 1), (Reg.PWR_STS_STATE, 0)]).setCond 44 .on, by decide +kernel⟩

theorem wit_PowerStatesAndDomains_4 : ∃ d : Fin 144, ∃ s : State, s.pwr.downs = [] ∧ s.domFenced d = false ∧ s.tableCond 0 d = .on ∧ s.cond d =
    .retained :=
  ⟨44, State.reset.setCond 44 .retained, by decide +kernel⟩

theorem wit_PowerStatesAndDomains_5 : ∃ d : Fin 144, ∃ a : Nat, ∃ s : State, s.pwr.downs = [(d.val, a)] ∧ s.clk < a + 60 :=
  ⟨44, 0, let s := State.reset.setCond 44 .retained; { s with pwr := { s.pwr with downs := [(44, 0)] } }, by decide +kernel⟩

theorem wit_PowerStatesAndDomains_6 : ∃ s : State, (s.until (s.pwr.idleSince + s.dozeIdle)).mayEnter 2 = true ∧ s.fld Reg.PWR_STS_STATE = 0 ∧
    s.domFenced 42 = false ∧ s.on (Reg.DCC_STS_READY 3) = true :=
  ⟨wIdle, by decide +kernel⟩

theorem wit_PowerStatesAndDomains_7 : ∃ w : Nat, ∃ s : State, s.fld Reg.PWR_STS_STATE = 2 ∧ s.pwr.wake = some w :=
  ⟨5, let s := wset [(Reg.PWR_STS_STATE, 2)]; { s with pwr := { s.pwr with wake := some 5 } }, by decide +kernel⟩

theorem wit_PowerStatesAndDomains_8 : ∃ s : State, (s.until (s.pwr.idleSince + s.keepIdle)).mayEnter 3 = true ∧ s.fld Reg.PWR_STS_STATE = 0 :=
  ⟨wIdle, by decide +kernel⟩

theorem wit_PowerStatesAndDomains_9 : ∃ s : State, (s.until (s.pwr.idleSince + s.keepIdle)).mayEnter 3 = true ∧ s.fld Reg.PWR_STS_STATE = 2 :=
  ⟨wIdle.setFld Reg.PWR_STS_STATE 2, by decide +kernel⟩

theorem wit_PowerStatesAndDomains_10 : ∃ s : State, s.pwr.move = .keepReleasing :=
  ⟨{ State.reset with pwr := { State.reset.pwr with move := .keepReleasing } }, by decide +kernel⟩

theorem wit_PowerStatesAndDomains_11 : ∃ w : Nat, ∃ s : State, s.fld Reg.PWR_STS_STATE = 3 ∧ s.pwr.wake = some w ∧ s.pwr.move = .none :=
  ⟨5, let s := wset [(Reg.PWR_STS_STATE, 3)]; { s with pwr := { s.pwr with wake := some 5 } }, by decide +kernel⟩

theorem wit_PowerStatesAndDomains_12 : ∃ src : Fin 9, ∃ s : State, src.val ≠ 0 ∧ (src.val ≠ 6 ∨ s.allowed < s.fld Reg.PWR_STS_STATE) ∧ s.on
    Reg.PWR_STS_FORCED = false ∧ s.pwr.move = .none ∧ 2 ≤ s.fld Reg.PWR_STS_STATE ∧ s.pwr.wake = none :=
  ⟨5, wset [(Reg.PWR_STS_STATE, 2)], by decide +kernel⟩

theorem wit_PowerStatesAndDomains_13 : ∃ s : State, s.fld Reg.PWR_STS_STATE = 2 ∧ s.on Reg.PWR_STS_FORCED = false ∧ s.pwr.move = .none ∧ s.pwr.wake =
    none :=
  ⟨wset [(Reg.PWR_STS_STATE, 2)], by decide +kernel⟩

theorem wit_PowerStatesAndDomains_14 : ∃ s : State, s.fld Reg.PWR_STS_STATE = 3 ∧ s.on Reg.PWR_STS_FORCED = false ∧ s.pwr.move = .none ∧ s.pwr.wake =
    none :=
  ⟨wset [(Reg.PWR_STS_STATE, 3)], by decide +kernel⟩

theorem wit_RailsFollowTheRegulator_1 : ∃ s : State, s.fld Reg.PWR_STS_STATE = 0 ∧ s.pwr.move = .none :=
  ⟨State.reset, by decide +kernel⟩

theorem wit_RailsFollowTheRegulator_2 : ∃ rail : Fin 4, ∃ r : VoltReq, ∃ s : State, s.pwr.reqs = [r] ∧ r.rail = rail.val ∧ s.pwr.move = .none ∧
    s.pwr.rails.length = 4 :=
  ⟨2, { rail := 2, mv := 1100, at_ := 0 }, wReqs [{ rail := 2, mv := 1100, at_ := 0 }] .none, by decide +kernel⟩

theorem wit_RailsFollowTheRegulator_3 : ∃ rail : Fin 4, ∃ r : VoltReq, ∃ s : State, s.pwr.reqs = [r] ∧ r.rail = rail.val ∧ s.pwr.move = .keepRails :=
  ⟨1, { rail := 1, mv := 650, at_ := 0 }, wReqs [{ rail := 1, mv := 650, at_ := 0 }] .keepRails, by decide +kernel⟩

theorem wit_RailsFollowTheRegulator_4 : ∃ rail : Fin 4, ∃ r : VoltReq, ∃ s : State, s.pwr.reqs = [r] ∧ r.rail = rail.val ∧ s.pwr.move = .none :=
  ⟨2, { rail := 2, mv := 1100, at_ := 0 }, wReqs [{ rail := 2, mv := 1100, at_ := 0 }] .none, by decide +kernel⟩

theorem wit_RailsFollowTheRegulator_5 : ∃ rail : Fin 4, ∃ r : VoltReq, ∃ s : State, s.pwr.reqs = [r] ∧ r.rail = rail.val :=
  ⟨2, { rail := 2, mv := 1100, at_ := 0 }, wReqs [{ rail := 2, mv := 1100, at_ := 0 }] .none, by decide +kernel⟩

theorem wit_SupplyChannelsSwitch_1 : ∃ f : Fin 2, ∃ mv : Nat, ∃ s : State, s.sup.overtemp = false ∧ s.supSt f = 7 ∧ s.sup.lostAt = none ∧ s.fld
    Reg.SUP_STS_BAND < 3 ∧ 3000 ≤ mv :=
  ⟨1, 12000, wset [(Reg.SUP_CH_STS_STATE 1, 7), (Reg.SUP_STS_BAND, 0)], by decide +kernel⟩

theorem wit_SupplyChannelsSwitch_2 : ∃ f : Fin 2, ∃ s : State, s.supSt f = 3 ∧ s.on (Reg.SUP_CH_STS_PG f) = true :=
  ⟨1, wset [(Reg.SUP_CH_STS_STATE 1, 3), (Reg.SUP_CH_STS_PG 1, 1)], by decide +kernel⟩

theorem wit_SupplyChannelsSwitch_3 : ∃ f : Fin 2, ∃ mv : Nat, ∃ s : State, s.conducts f = true ∧ mv < s.sup.vin ∧ 3000 ≤ mv :=
  ⟨1, 11000, let s := wset [(Reg.SUP_CH_STS_STATE 1, 3)]; { s with sup := { s.sup with vin := 12000 } }, by decide +kernel⟩

theorem wit_SupplyChannelsSwitch_4 : ∃ j : Fin 36, ∃ s : State, s.supSt j = 1 ∧ (s.chan j).ramped = false :=
  ⟨7, wset [(Reg.SUP_CH_STS_STATE 7, 1)], by decide +kernel⟩

theorem wit_SupplyChannelsSwitch_5 : ∃ j : Fin 36, ∃ n : Nat, ∃ s : State, (s.chan j).winAt = some n ∧ s.supSt j = 2 ∧ (s.chan j).ftInWin = false ∧
    isSlot j = true :=
  ⟨7, 50, (wset [(Reg.SUP_CH_STS_STATE 7, 2)]).updChan 7 fun c => { c with winAt := some 50 }, by decide +kernel⟩

theorem wit_SupplyChannelsSwitch_6 : ∃ f : Fin 2, ∃ n : Nat, ∃ s : State, (s.chan f).winAt = some n ∧ s.supSt f = 2 ∧ (s.chan f).ftInWin = false ∧
    s.on Reg.SUP_STS_PWRGD = false :=
  ⟨1, 50, (wset [(Reg.SUP_CH_STS_STATE 1, 2), (Reg.SUP_STS_PWRGD, 0)]).updChan 1 fun c => { c with winAt := some 50 }, by decide +kernel⟩

theorem wit_SupplyChannelsSwitch_7 : ∃ j : Fin 36, ∃ n : Nat, ∃ s : State, (s.chan j).winAt = some n ∧ s.supSt j = 2 ∧ (s.chan j).ftInWin = true :=
  ⟨7, 50, (wset [(Reg.SUP_CH_STS_STATE 7, 2)]).updChan 7 fun c => { c with winAt := some 50, ftInWin := true }, by decide +kernel⟩

theorem wit_SupplyChannelsSwitch_8 : ∃ j : Fin 36, ∃ s : State, s.conducts j = true ∧ isSwitched j = true ∧ s.on (Reg.SUP_CH_STS_FT_RUN j) = false :=
  ⟨7, wset [(Reg.SUP_CH_STS_STATE 7, 3)], by decide +kernel⟩

theorem wit_SupplyChannelsSwitch_9 : ∃ j : Fin 36, ∃ s : State, s.on (Reg.SUP_CH_STS_FT_RUN j) = true ∧ s.supSt j = 3 :=
  ⟨7, wset [(Reg.SUP_CH_STS_STATE 7, 3), (Reg.SUP_CH_STS_FT_RUN 7, 1)], by decide +kernel⟩

theorem wit_SupplyChannelsSwitch_10 : ∃ f : Fin 2, ∃ n : Nat, ∃ s : State, (s.chan f).ftAt = some n ∧ s.on (Reg.SUP_CH_STS_FT_RUN f) = true ∧ s.fld
    (Reg.SUP_CH_CFG_MODE f) = 0 :=
  ⟨1, 5, (wset [(Reg.SUP_CH_STS_STATE 1, 3), (Reg.SUP_CH_STS_FT_RUN 1, 1), (Reg.SUP_CH_CFG_MODE 1, 0)]).updChan 1 fun c => { c with ftAt := some 5 },
    by decide +kernel⟩

theorem wit_SupplyChannelsSwitch_11 : ∃ k : Fin 32, ∃ j : Nat, ∃ n : Nat, ∃ s : State, j = 4 + k.val ∧ (s.chan j).ftAt = some n ∧ s.on
    (Reg.SUP_CH_STS_FT_RUN j) = true ∧ s.slotSt j = 0 ∧ s.fld (Reg.SUP_CH_CFG_MODE j) = 1 ∧ s.retryLeft j = 0 :=
  ⟨3, 7, 5, (wset [(Reg.SUP_CH_STS_STATE 7, 3), (Reg.SUP_CH_STS_FT_RUN 7, 1), (Reg.SUP_CH_CFG_MODE 7, 1), (Reg.SUP_CH_CFG_RETRIES 7, 0)]).updChan 7
    fun c => { c with ftAt := some 5 }, by decide +kernel⟩

theorem wit_SupplyChannelsSwitch_12 : ∃ k : Fin 32, ∃ j : Nat, ∃ s : State, j = 4 + k.val ∧ s.conducts j = true ∧ s.slotSt j = 0 ∧ s.fld
    (Reg.SUP_CH_CFG_MODE j) = 1 ∧ s.retryLeft j = 0 :=
  ⟨3, 7, wset [(Reg.SUP_CH_STS_STATE 7, 3), (Reg.SUP_CH_CFG_MODE 7, 1), (Reg.SUP_CH_CFG_RETRIES 7, 0)], by decide +kernel⟩

theorem wit_SupplyChannelsSwitch_13 : ∃ f : Fin 2, ∃ mv : Nat, ∃ s : State, s.conducts f = true ∧ 19000 ≤ mv :=
  ⟨1, 19000, wset [(Reg.SUP_CH_STS_STATE 1, 3)], by decide +kernel⟩

theorem wit_SupplyChannelsSwitch_14 : ∃ f : Fin 2, ∃ mv : Nat, ∃ n : Nat, ∃ s : State, (s.chan f).ovAt = some n ∧ s.supSt f = 0 ∧ mv < 18300 :=
  ⟨1, 12000, 5, (wset [(Reg.SUP_CH_STS_STATE 1, 0)]).updChan 1 fun c => { c with ovAt := some 5 }, by decide +kernel⟩

theorem wit_SupplyChannelsSwitch_15 : ∃ j : Fin 36, ∃ n : Nat, ∃ s : State, (s.chan j).nextAt = some n ∧ s.supSt j = 4 ∧ s.fld (Reg.SUP_CH_CFG_MODE
    j) = 1 :=
  ⟨7, 5, (wset [(Reg.SUP_CH_STS_STATE 7, 4), (Reg.SUP_CH_CFG_MODE 7, 1)]).updChan 7 fun c => { c with nextAt := some 5 }, by decide +kernel⟩

theorem wit_SupplyChannelsSwitch_16 : ∃ j : Fin 36, ∃ s : State, (s.chan j).retrying = true ∧ [1, 2].contains (s.supSt j) = true ∧ isSlot j = true ∧
    s.fld (Reg.SUP_CH_CFG_MODE j) = 0 :=
  ⟨7, (wset [(Reg.SUP_CH_STS_STATE 7, 1), (Reg.SUP_CH_CFG_MODE 7, 0)]).updChan 7 fun c => { c with retrying := true, rampAt := 5 }, by decide +kernel⟩

theorem wit_SupplyChannelsSwitch_17 : ∃ k : Fin 32, ∃ j : Nat, ∃ s : State, j = 4 + k.val ∧ s.conducts j = true ∧ s.slotSt j = 6 :=
  ⟨3, 7, wset [(Reg.SUP_CH_STS_STATE 7, 3), (Reg.DCC_SLOT_STATE 1 1, 6), (Reg.SUP_CH_STS_LATCH 7, 1)], by decide +kernel⟩

theorem wit_SupplyChannelsSwitch_18 : ∃ k : Fin 32, ∃ j : Nat, ∃ s : State, j = 4 + k.val ∧ s.supSt j = 5 ∧ s.on (Reg.SUP_CH_STS_LATCH j) = false :=
  ⟨3, 7, wset [(Reg.SUP_CH_STS_STATE 7, 5), (Reg.SUP_CH_STS_LATCH 7, 0)], by decide +kernel⟩

theorem wit_SupplyChannelsSwitch_19 : ∃ k : Fin 32, ∃ j : Nat, ∃ s : State, j = 4 + k.val ∧ s.supSt j = 6 :=
  ⟨3, 7, wset [(Reg.SUP_CH_STS_STATE 7, 6)], by decide +kernel⟩

theorem wit_SupplyChannelsSwitch_20 : ∃ k : Fin 32, ∃ j : Nat, ∃ s : State, j = 4 + k.val ∧ s.supSt j = 6 ∧ s.on (Reg.SUP_CH_STS_SAFE j) = false :=
  ⟨3, 7, wset [(Reg.SUP_CH_STS_STATE 7, 6), (Reg.SUP_CH_STS_SAFE 7, 0)], by decide +kernel⟩

theorem wit_SupplyChannelsSwitch_21 : ∃ j : Fin 64, ∃ s : State, calm s = true ∧ isSlot j = true ∧ s.conducts j = true ∧ [0, 6, 7, 9].contains
    (s.slotSt j) = true :=
  ⟨7, wset [(Reg.SUP_CH_STS_STATE 7, 3), (Reg.DCC_SLOT_STATE 1 1, 6)], by decide +kernel⟩

theorem wit_SupplyChannelsSwitch_22 : ∃ j : Fin 64, ∃ s : State, calm s = true ∧ isSlot j = true ∧ s.supSt j = 0 ∧ [0, 7, 9, 10].contains (s.slotSt
    j) = true ∧ s.on (Reg.SUP_CH_STS_LATCH j) = true ∧ s.fld Reg.SUP_STS_BAND ≠ 2 :=
  ⟨7, wset [(Reg.SUP_CH_STS_STATE 7, 0), (Reg.DCC_SLOT_STATE 1 1, 10), (Reg.SUP_CH_STS_LATCH 7, 1), (Reg.SUP_STS_BAND, 0)], by decide +kernel⟩

theorem wit_SupplyChannelsSwitch_23 : ∃ j : Fin 64, ∃ s : State, calm s = true ∧ isSlot j = true ∧ s.supSt j = 5 :=
  ⟨7, wset [(Reg.SUP_CH_STS_STATE 7, 5)], by decide +kernel⟩

theorem wit_SupplyChannelsSwitch_24 : ∃ f : Fin 2, ∃ j : Fin 64, ∃ s : State, calm s = true ∧ j.val = f.val ∧ s.supSt j = 5 :=
  ⟨1, 1, wset [(Reg.SUP_CH_STS_STATE 1, 5)], by decide +kernel⟩

theorem wit_SupplyChannelsSwitch_25 : ∃ h : Fin 4, ∃ k : Fin 16, ∃ j : Fin 64, ∃ v : BitVec 32, ∃ c : Instr, [Instr.supplyPowerOff (.head h k) j,
    .supplyPowerOn (.head h k) j, .clearLatchOff (.head h k) j, .measurementSelect (.head h k) v].contains c = true :=
  ⟨0, 0, 7, 5, .supplyPowerOn (.head 0 0) 7, by decide +kernel⟩

theorem wit_InputIsWatched_1 : ∃ mv : Nat, ∃ s : State, s.fld Reg.SUP_STS_BAND = 0 ∧ 6900 < mv ∧ mv ≤ 10550 :=
  ⟨9000, wset [(Reg.SUP_STS_BAND, 0)], by decide +kernel⟩

theorem wit_InputIsWatched_2 : ∃ mv : Nat, ∃ s : State, s.fld Reg.SUP_STS_BAND < 3 ∧ mv ≤ 4350 :=
  ⟨4000, wset [(Reg.SUP_STS_BAND, 1)], by decide +kernel⟩

theorem wit_InputIsWatched_3 : ∃ mv : Nat, ∃ s : State, s.fld Reg.SUP_STS_BAND = 1 ∧ 10800 ≤ mv ∧ s.on Reg.PWR_STS_FORCED = false :=
  ⟨12000, wset [(Reg.SUP_STS_BAND, 1)], by decide +kernel⟩

theorem wit_InputIsWatched_5 : ∃ pin : Nat, ∃ s : State, 95 * s.fld Reg.SUP_CAP_PCAP_W < 100 * pin ∧ s.fld Reg.SUP_STS_THROTTLE < 7 :=
  ⟨990, wset [(Reg.SUP_CAP_PCAP_W, 990), (Reg.SUP_STS_THROTTLE, 2)], by decide +kernel⟩

theorem wit_InputIsWatched_6 : ∃ pin : Nat, ∃ s : State, 100 * pin < 85 * s.fld Reg.SUP_CAP_PCAP_W ∧ s.fld Reg.SUP_STS_BAND < 2 ∧ pin < 65536 ∧ 1000
    * pin ≤ 76 * s.sup.vin :=
  ⟨500, (wset [(Reg.SUP_CAP_PCAP_W, 990), (Reg.SUP_STS_THROTTLE, 2)]).onSup fun p => { p with vin := 12000 }, by decide +kernel⟩

theorem wit_InputIsWatched_8 : ∃ ph : Fin 6, ∃ s : State, s.bitOf Reg.SUP_STS_PHASE_OK ph = true :=
  ⟨2, wset [(Reg.SUP_STS_PHASE_OK, 63)], by decide +kernel⟩

theorem wit_InputIsWatched_9 : ∃ mv : Nat, ∃ s : State, mv ≤ 4350 ∧ s.sup.lostAt = none :=
  ⟨4000, wset [(Reg.SUP_STS_BAND, 1)] |> fun s => { s with sup := { s.sup with lostAt := none } }, by decide +kernel⟩

theorem wit_InputIsWatched_10 : ∃ n : Nat, ∃ s : State, s.sup.lostAt = some n :=
  ⟨5, let s := wset [(Reg.SUP_CH_STS_TRIPS 0, 2)]; { s with sup := { s.sup with lostAt := some 5 } }, by decide +kernel⟩

theorem wit_InputIsWatched_11 : ∃ n : Nat, ∃ s : State, s.sup.lostAt = some n ∧ s.clk ≤ n + 200 * ms :=
  ⟨0, { State.reset with sup := { State.reset.sup with lostAt := some 0 } }, by decide +kernel⟩

theorem wit_InputIsWatched_12 : ∃ n : Nat, ∃ a : Nat, ∃ b : Nat, ∃ sl : Nat, ∃ l : Bool, ∃ s : State, s.sup.lostAt = some n ∧ n + 200 * ms < s.clk ∧
    s.sup.record = some (a, b, sl, l) ∧ a < 256 ∧ b < 256 :=
  ⟨0, 2, 0, 1, false, { State.reset with clk := 10 ^ 9, sup := { State.reset.sup with lostAt := some 0, record := some (2, 0, 1, false) } },
    by decide +kernel⟩

theorem wit_InputIsWatched_13 : ∃ f : Fin 2, ∃ n : Nat, ∃ s : State, s.sup.feedLostAt[f.val]? = some (some n) ∧ s.clk ≤ n + 200 * ms :=
  ⟨1, 0, { State.reset with sup := { State.reset.sup with feedLostAt := [none, some 0] } }, by decide +kernel⟩

theorem wit_InputIsWatched_15 : ∃ v : BitVec 32, ∃ s : State, calm s = true ∧ v.toNat % 64 < 36 :=
  ⟨7, State.reset.updChan 7 fun c => { c with sampleMv := 1100, sampleCur := 300, energy := 5 }, by decide +kernel⟩

theorem wit_InputIsWatched_16 : ∃ a : Nat, ∃ s : State, inletLimit a < s.sup.inletCap :=
  ⟨400, { State.reset with sup := { State.reset.sup with inletCap := 800 } }, by decide +kernel⟩

theorem wit_InputIsWatched_17 : ∃ s : State, s.supSt 0 = 3 ∧ s.supSt 1 = 7 :=
  ⟨wset [(Reg.SUP_CH_STS_STATE 0, 3), (Reg.SUP_CH_STS_STATE 1, 7)], by decide +kernel⟩

theorem wit_TimeAndCounters_1 : ∃ r : Fin 3, ∃ q : Fin 3, ∃ s : State, s.refGood r = true ∧ s.fld Reg.CLK_STS_CORE_SRC = r.val ∧ ((s.refOrder.filter
    (· != r.val)).find? s.refGood) = some q.val ∧ s.commonClock = false :=
  ⟨2, 0, wset [(Reg.CLK_STS_MODE, 1), (Reg.CLK_STS_REF_OK, 5), (Reg.CLK_STS_CORE_SRC, 2)], by decide +kernel⟩

theorem wit_TimeAndCounters_2 : ∃ r : Fin 3, ∃ s : State, s.refGood r = false ∧ s.fld Reg.CLK_STS_CORE_SRC = 3 ∧ s.commonClock = false :=
  ⟨2, wset [(Reg.CLK_STS_MODE, 1), (Reg.CLK_STS_CORE_SRC, 3), (Reg.CLK_STS_FREE_RUN, 1)], by decide +kernel⟩

theorem wit_TimeAndCounters_3 : ∃ s : State, s.on Reg.CLK_STS_HOLDOVER = true ∧ s.clocks.sleepStart = none :=
  ⟨wset [(Reg.CLK_STS_HOLDOVER, 1), (Reg.CLK_STS_CORE_SRC, 2)], by decide +kernel⟩

theorem wit_TimeAndCounters_4 : ∃ n : Nat, ∃ s : State, s.on Reg.CLK_CFG_FAILBACK = true ∧ s.refOrder = [2, 0, 1] ∧ s.fld Reg.CLK_STS_CORE_SRC = 0 ∧
    s.refGood 2 = true ∧ s.clocks.refGoodAt.getD 2 none = some n :=
  ⟨9, let s := wset [(Reg.CLK_CFG_FAILBACK, 1), (Reg.CLK_STS_MODE, 1), (Reg.CLK_STS_REF_OK, 5), (Reg.CLK_STS_CORE_SRC, 0)];
    { s with clocks := { s.clocks with refGoodAt := [none, none, some 9] } }, by decide +kernel⟩

theorem wit_TimeAndCounters_5 : ∃ s : State, s.on Reg.CLK_STS_KEEP_FAIL = false ∧ s.fld Reg.TIME_STATUS_SOURCE = 0 :=
  ⟨wset [(Reg.TIME_STATUS_SOURCE, 0)], by decide +kernel⟩

theorem wit_TimeAndCounters_6 : ∃ d : Fin 101, ∃ s : State, ((s.on Reg.CLK_STS_HOLDOVER = false ∨ (4 ≤ d.val ∧ d.val < 8))) :=
  ⟨50, wset [(Reg.CLK_STS_HOLDOVER, 0)], by decide +kernel⟩

theorem wit_TimeAndCounters_7 : ∃ n : Nat, ∃ s : State, s.fld Reg.CLK_STS_CORE_SRC < 3 ∧ s.refGood (s.fld Reg.CLK_STS_CORE_SRC) = true ∧ s.on
    Reg.CLK_STS_KEEP_FAIL = false ∧ s.clocks.calAt = some n :=
  ⟨3, let s := wset [(Reg.CLK_STS_REF_OK, 5), (Reg.CLK_STS_CORE_SRC, 0)]; { s with clocks := { s.clocks with calAt := some 3 } }, by decide +kernel⟩

theorem wit_TimeAndCounters_8 : ∃ via : CmdPath, ∃ v : BitVec 64, ∃ s : State, cxlPath via = true ∧ plazaTakes s = true ∧ s.fld Reg.PWR_STS_STATE = 0
    ∧ s.time ≤ v.toNat :=
  ⟨.mailbox 0, 123456789012345, wset [(Reg.MGT_STS_FW_RUN, 1)], by decide +kernel⟩

theorem wit_TimeAndCounters_9 : ∃ via : CmdPath, ∃ v : BitVec 64, ∃ s : State, cxlPath via = true ∧ plazaTakes s = true ∧ s.fld Reg.PWR_STS_STATE = 0
    ∧ v.toNat < s.time ∧ s.time < v.toNat + 2 ^ 32 :=
  ⟨.mailbox 0, 5, (wset [(Reg.MGT_STS_FW_RUN, 1)]).setTime 1000, by decide +kernel⟩

theorem wit_TimeAndCounters_10 : ∃ s : State, s.on Reg.TIME_STATUS_SLEWING = true :=
  ⟨let s := wset [(Reg.TIME_STATUS_SLEWING, 1)]; { s with clocks := { s.clocks with slewRem := 3 } }, by decide +kernel⟩

theorem wit_TimeAndCounters_11 : ∃ h : Fin 4, ∃ s : State, s.present h = true ∧ s.linkUp h = true :=
  ⟨0, wHead, by decide +kernel⟩

theorem wit_TimeAndCounters_12 : ∃ h : Fin 4, ∃ s : State, ((s.present h = false ∨ s.linkUp h = false)) :=
  ⟨1, State.reset, by decide +kernel⟩

theorem wit_TimeAndCounters_13 : ∃ o : Occurrence, ∃ i : Fin 96, ∃ s : State, s.cond (occDomain o) = .on ∧ s.on Reg.PMU_CTL_FREEZE = false ∧
    s.pmu.pick = none ∧ ((List.range 96).filter fun j => s.counts j o) = [i.val] ∧ s.ctr i + o.n < 2 ^ 48 :=
  ⟨{ block := 2, inst := 5, event := 1, n := 3 }, 17, (wset [(Reg.PMU_GRP_BLOCK 2, 2), (Reg.PMU_GRP_INST 2, 5), (Reg.PMU_EVT_EN 17, 1),
    (Reg.PMU_EVT_EVENT 17, 1)]).setCond 13 .on, by decide +kernel⟩

theorem wit_TimeAndCounters_14 : ∃ s : State, s.fld Reg.TIME_STATUS_SOURCE ≠ 1 ∧ s.clocks.slewRem = 0 ∧ s.time + s.window < 2 ^ 64 ∧ s.pmu.winStart ≤
    s.time ∧ s.time ≤ (s.pmu.winStart / s.window + 1) * s.window :=
  ⟨{ State.reset with pmu := { State.reset.pmu with acc := [(4, 640)] } }, by decide +kernel⟩

theorem wit_TimeAndCounters_17 : ∃ p : Path, ∃ fix : Bool, ∃ v : BitVec 32, ∃ c : Instr, ∃ s : State, s.pmuPath p = false ∧ [Instr.pmuWindowRestart p
    fix v, .pmuClearAll p v].contains c = true :=
  ⟨.head 0 0, true, 3, .pmuClearAll (.head 0 0) 3, State.reset, by decide +kernel⟩

theorem wit_TimeAndCounters_18 : ∃ v : BitVec 32, v.getLsbD 1 = true :=
  ⟨3, by decide +kernel⟩

theorem wit_ResetsReach_1 : ∃ s : State, (s.on Reg.SUP_STS_FEED_A_PG || s.on Reg.SUP_STS_FEED_B_PG) = true ∧ s.rst.pulse = none :=
  ⟨wset [(Reg.SUP_STS_FEED_A_PG, 1)], by decide +kernel⟩

theorem wit_ResetsReach_2 : ∃ bus : Nat, ∃ s : State, s.on Reg.SUP_STS_PWRGD = true ∧ (((s.on Reg.SUP_STS_FEED_A_PG || s.on Reg.SUP_STS_FEED_B_PG) =
    false ∨ bus < 11400 ∨ 12600 < bus)) ∧ s.rst.pulse = none :=
  ⟨3000, wset [(Reg.SUP_STS_PWRGD, 1), (Reg.SUP_CH_STS_STATE 6, 3), (Reg.SUP_STS_FEED_A_PG, 0), (Reg.SUP_STS_FEED_B_PG, 0)], by decide +kernel⟩

theorem wit_ResetsReach_3 : ∃ ns : Nat, ∃ s : State, 1200 ≤ ns ∧ s.effLevel 1 = 5 ∧ s.on Reg.RST_STS_HOLD = false ∧ s.rst.pulse = none ∧ s.fld
    Reg.RST_STS_LEVEL = 0 :=
  ⟨1300, wset [(Reg.RST_STS_LEVEL, 0), (Reg.RST_MAP_FUSE 1, 5)], by decide +kernel⟩

theorem wit_ResetsReach_4 : ∃ s : State, s.rst.mrstLow = false ∧ s.effLevel 1 = 5 ∧ s.on Reg.RST_STS_HOLD = false ∧ s.rst.pulse = none ∧ s.fld
    Reg.RST_STS_LEVEL = 0 :=
  ⟨wset [(Reg.RST_STS_LEVEL, 0), (Reg.RST_MAP_FUSE 1, 5)], by decide +kernel⟩

theorem wit_ResetsReach_5 : ∃ s : State, s.rst.mrstLow = true :=
  ⟨{ State.reset with rst := { State.reset.rst with mrstLow := true } }, by decide +kernel⟩

theorem wit_ResetsReach_6 : ∃ p : Fin 4, ∃ h : Fin 4, ∃ ns : Nat, ∃ s : State, s.heardBy p = some h ∧ ns < 1000 :=
  ⟨2, 0, 800, State.reset, by decide +kernel⟩

theorem wit_ResetsReach_7 : ∃ p : Fin 4, ∃ s : State, s.heardBy p = none :=
  ⟨1, State.reset, by decide +kernel⟩

theorem wit_ResetsReach_8 : ∃ p : Fin 4, ∃ h : Fin 4, ∃ s : State, s.heardBy p = some h ∧ s.present h = true ∧ s.perstHeld h = false ∧ s.effLevel 2 =
    1 :=
  ⟨0, 0, (wHead.setFld (Reg.RST_MAP_FUSE 2) 1).onRst fun r => { r with lowPins := [] }, by decide +kernel⟩

theorem wit_ResetsReach_9 : ∃ p : Fin 4, ∃ h : Fin 4, ∃ ns : Nat, ∃ s : State, s.heardBy p = some h ∧ s.present h = true ∧ s.perstHeld h = false ∧
    s.effLevel 2 = 1 ∧ 1200 ≤ ns :=
  ⟨0, 0, 1200, (wHead.setFld (Reg.RST_MAP_FUSE 2) 1).onRst fun r => { r with lowPins := [] }, by decide +kernel⟩

theorem wit_ResetsReach_10 : ∃ p : Fin 4, ∃ h : Fin 4, ∃ s : State, s.heardBy p = some h ∧ s.perstHeld h = true ∧ (setPerstPin p false s).perstHeld h
    = false :=
  ⟨2, 0, State.reset.onRst fun r => { r with lowPins := [2] }, by decide +kernel⟩

theorem wit_ResetsReach_11 : ∃ p : Fin 4, ∃ h : Fin 4, ∃ s : State, s.heardBy p = some h ∧ (setPerstPin p false s).perstHeld h = true :=
  ⟨2, 0, State.reset, by decide +kernel⟩

theorem wit_ResetsReach_12 : ∃ h : Fin 4, ∃ s : State, s.present h = true ∧ s.effLevel 4 = 1 :=
  ⟨0, wHead.setFld (Reg.RST_MAP_FUSE 4) 1, by decide +kernel⟩

theorem wit_ResetsReach_13 : ∃ k : Fin 16, ∃ s : State, (s.headOf k).isSome = true ∧ s.effLevel 5 = 2 :=
  ⟨0, wFlr 5, by decide +kernel⟩

theorem wit_ResetsReach_14 : ∃ k : Fin 16, ∃ s : State, (s.headOf k).isSome = true ∧ s.effLevel 6 = 2 :=
  ⟨0, wFlr 6, by decide +kernel⟩

theorem wit_ResetsReach_15 : ∃ d : BitVec 8, ∃ s : State, resettable d.toNat = true ∧ s.rst.blocks = [] ∧ s.domFenced d.toNat = false ∧ s.cond
    d.toNat = .on ∧ s.effLevel 8 = 3 :=
  ⟨42, (wset [(Reg.RST_MAP_FUSE 8, 3)]).setCond 42 .on, by decide +kernel⟩

theorem wit_ResetsReach_16 : ∃ d : BitVec 8, ∃ s : State, calm s = true ∧ resettable d.toNat = true ∧ (domStitchers d.toNat).isEmpty = true ∧
    s.rst.blocks = [] ∧ s.domFenced d.toNat = false ∧ s.cond d.toNat = .on ∧ s.effLevel 8 = 3 :=
  ⟨124, (wset [(Reg.RST_MAP_FUSE 8, 3)]).setCond 124 .on, by decide +kernel⟩

theorem wit_ResetsReach_17 : ∃ s : State, s.effLevel 0x0B = 4 ∧ s.on Reg.RST_STS_HOLD = false ∧ s.rst.pulse = none ∧ s.fld Reg.RST_STS_LEVEL = 0 :=
  ⟨wset [(Reg.RST_STS_LEVEL, 0), (Reg.RST_MAP_FUSE 0x0B, 4)], by decide +kernel⟩

theorem wit_ResetsReach_18 : ∃ s : State, s.effLevel 0x0D = 5 ∧ s.on Reg.RST_STS_HOLD = false ∧ s.rst.pulse = none ∧ s.fld Reg.RST_STS_LEVEL = 0 :=
  ⟨wset [(Reg.RST_STS_LEVEL, 0), (Reg.RST_MAP_FUSE 0x0D, 5)], by decide +kernel⟩

theorem wit_ResetsReach_19 : ∃ h : Fin 4, ∃ k : Fin 16, ∃ d : BitVec 8, ∃ c : Instr, [Instr.rstCmdLevel3 (.head h k) d, .rstCmdLevel4 (.head h k),
    .rstCmdLevel5 (.head h k)].contains c = true :=
  ⟨0, 0, 124, .rstCmdLevel5 (.head 0 0), by decide +kernel⟩

theorem wit_ResetsReach_20 : ∃ dom : Fin 144, ∃ b : BlockReset, ∃ s : State, s.rst.blocks = [b] ∧ b.dom = dom.val ∧ b.released = false ∧ s.idleBlock
    dom = true ∧ 122 ≤ dom.val ∧ dom.val < 130 :=
  ⟨124, { dom := 124, src := 8, at_ := 5 }, wBlock { dom := 124, src := 8, at_ := 5 }, by decide +kernel⟩

theorem wit_ResetsReach_21 : ∃ dom : Fin 144, ∃ b : BlockReset, ∃ s : State, s.rst.blocks = [b] ∧ b.dom = dom.val ∧ b.released = false ∧ 122 ≤
    dom.val ∧ dom.val < 130 :=
  ⟨124, { dom := 124, src := 8, at_ := 5 }, wBlock { dom := 124, src := 8, at_ := 5 }, by decide +kernel⟩

theorem wit_ResetsReach_22 : ∃ dom : Fin 144, ∃ b : BlockReset, ∃ s : State, calm s = true ∧ s.rst.blocks = [b] ∧ b.dom = dom.val ∧ b.released = true
    ∧ 122 ≤ dom.val ∧ dom.val < 130 ∧ s.domFenced dom = false :=
  ⟨124, { dom := 124, src := 8, at_ := 5, released := true }, wBlock { dom := 124, src := 8, at_ := 5, released := true }, by decide +kernel⟩

theorem wit_ResetsReach_23 : ∃ dom : Fin 144, ∃ b : BlockReset, ∃ s : State, calm s = true ∧ s.rst.blocks = [b] ∧ b.dom = dom.val ∧ b.released = true
    ∧ 122 ≤ dom.val ∧ dom.val < 130 ∧ s.domFenced dom = false ∧ s.eff 0x34 = 4 ∧ s.asks 0x34 = false ∧ s.on Reg.FLT_FIRST_VALID = false ∧ s.fld
    Reg.RST_STS_LEVEL = 0 :=
  ⟨124, { dom := 124, src := 8, at_ := 5, released := true }, ((wBlock { dom := 124, src := 8, at_ := 5, released := true }).setFld
    (Reg.FLT_REACT_ACT 0x34) 4).setFld Reg.RST_STS_LEVEL 0, by decide +kernel⟩

theorem wit_ResetsReach_24 : ∃ dom : Fin 144, ∃ s : State, s.rst.blocks = [] ∧ s.rst.mrstLow = false ∧ s.rst.released.contains dom.val = false ∧
    s.fld Reg.RST_STS_PHASE = 2 ∧ bootDomains.contains dom.val = true ∧ s.pwr.reqs = [] :=
  ⟨117, (wset [(Reg.RST_STS_PHASE, 2)]).onRst fun r => { r with mrstLow := false, released := [] }, by decide +kernel⟩

theorem wit_ResetsReach_25 : ∃ dom : Fin 144, ∃ c : Nat, ∃ b : BlockReset, ∃ s : State, clockOf dom = some c ∧ calm s = true ∧ s.rst.blocks = [b] ∧
    b.dom = dom.val ∧ b.released = true ∧ 42 ≤ dom.val ∧ dom.val < 58 ∧ s.domFenced dom = false ∧ s.eff 0x27 = 4 ∧ s.asks 0x27 = false ∧ s.on
    Reg.FLT_FIRST_VALID = false ∧ s.fld Reg.RST_STS_LEVEL = 0 :=
  ⟨44, (clockOf 44).getD 0, { dom := 44, src := 8, at_ := 5, released := true }, ((wBlock { dom := 44, src := 8, at_ := 5, released := true }).setFld
    (Reg.FLT_REACT_ACT 0x27) 4).setFld Reg.RST_STS_LEVEL 0, by decide +kernel⟩

theorem wit_ResetsReach_26 : ∃ dom : Fin 144, ∃ c : Nat, ∃ s : State, clockOf dom = some c ∧ s.releasing dom = true ∧ s.rst.blocks = [] ∧
    (s.domainBlocks dom).all s.isFenced = true ∧ s.fld Reg.RST_STS_PHASE = 5 ∧ s.eff 0x27 = 0 ∧ calm s = true ∧ s.fld Reg.RST_STS_LEVEL = 0 :=
  ⟨20, 26, let s := wset [(Reg.RST_STS_PHASE, 5), (Reg.RST_STS_LEVEL, 0), (Reg.FLT_REACT_ACT 0x27, 0), (Reg.FLT_REACT_FLOOR 0x27, 0)];
    { s with flt := { s.flt with fenced := [.slice 12] } }, by decide +kernel⟩

theorem wit_ResetsReach_27 : ∃ p : NvPulse, ∃ s : State, s.rst.pulse = some p ∧ s.rst.deferred = none ∧ s.flash.job = none :=
  ⟨{ kind := 1, unit := 3, at_ := 0 }, { State.reset with rst := { State.reset.rst with pulse := some { kind := 1, unit := 3, at_ := 0 } } },
    by decide +kernel⟩

theorem wit_ResetsReach_28 : ∃ p : NvPulse, ∃ src : Nat, ∃ inst : Nat, ∃ at_ : Nat, ∃ s : State, s.rst.pulse = some p ∧ s.rst.deferred = some (src,
    inst, 5, at_) ∧ src < 16 ∧ s.on Reg.RST_STS_HOLD = false ∧ s.fld Reg.RST_STS_LEVEL = 0 :=
  ⟨{ kind := 1, unit := 3, at_ := 0 }, 0x0D, 0, 0,
    { State.reset with rst := { State.reset.rst with pulse := some { kind := 1, unit := 3, at_ := 0 }, deferred := some (0x0D, 0, 5, 0) } }|>.setFld
    Reg.RST_STS_LEVEL 0, by decide +kernel⟩

theorem wit_StartUpSteps_1 : ∃ s : State, s.inPhase 1 = true ∧ s.rst.fuseFails = [] ∧ s.on Reg.FLT_INJ_ARM = false :=
  ⟨wPhase 1, by decide +kernel⟩

theorem wit_StartUpSteps_2 : ∃ s : State, s.inPhase 1 = true ∧ s.rst.fuseFails = [] ∧ s.on Reg.FLT_INJ_ARM = false :=
  ⟨wPhase 1, by decide +kernel⟩

theorem wit_StartUpSteps_3 : ∃ s : State, s.inPhase 1 = true ∧ 3 ≤ s.rst.fuseFails.length :=
  ⟨let s := wPhase 1; { s with rst := { s.rst with fuseFails := [1, 2, 3] } }, by decide +kernel⟩

theorem wit_StartUpSteps_4 : ∃ img : FwImage, ∃ s : State, s.inPhase 3 = true ∧ s.coreReady = true ∧ s.mgmt.act = none ∧ s.on Reg.MGT_STS_FW_RUN =
    false ∧ s.fld Reg.RST_BOOT_BOOT_SRC = 0 ∧ s.flash.staged = 0 ∧ s.fwImage s.flash.runSlot = some img ∧ s.flash.cut = none :=
  ⟨⟨7, 3, 0⟩, (wPhase 3).onFlash fun f => { f with runSlot := 1, fw := [{ image := some ⟨7, 3, 0⟩ }, {}] }, by decide +kernel⟩

theorem wit_StartUpSteps_6 : ∃ s : State, s.inPhase 3 = true ∧ s.coreReady = true ∧ s.fld Reg.RST_BOOT_BOOT_SRC = 2 ∧ s.on Reg.MGT_STS_FW_RUN = false
    ∧ s.flash.cut = none ∧ calm s = true ∧ s.flash.report = false :=
  ⟨(wPhase 3).setFld Reg.RST_BOOT_BOOT_SRC 2, by decide +kernel⟩

theorem wit_StartUpSteps_7 : ∃ s : State, s.inPhase 4 = true ∧ s.on Reg.MGT_STS_FW_RUN = true ∧ 3 ≤ s.fld Reg.RST_BOOT_LAYOUT_TRIES :=
  ⟨((wPhase 4).setFld Reg.MGT_STS_FW_RUN 1).setFld Reg.RST_BOOT_LAYOUT_TRIES 3, by decide +kernel⟩

theorem wit_StartUpSteps_8 : ∃ h : Fin 4, ∃ s : State, s.headLive h = true ∧ s.perstHeld h = false ∧ (s.head h).ready = false ∧ s.layout.committed =
    true :=
  ⟨0, let s := (wHead.onRst fun r => { r with lowPins := [] }); { s with layout := { s.layout with committed := true } }, by decide +kernel⟩

theorem wit_StartUpSteps_9 : ∃ s : State, s.inPhase 5 = true ∧ s.dram.checked = true ∧ s.fld Reg.SUP_STS_BAND = 0 ∧ s.on Reg.CTM_STS_READY = true :=
  ⟨let s := (wPhase 5).setFld Reg.CTM_STS_READY 1; { s with dram := { s.dram with checked := true } }, by decide +kernel⟩

theorem wit_StartUpSteps_10 : ∃ c : BitVec 8, ∃ s : State, s.on Reg.SUP_STS_PWRGD = true ∧ [0, 1, 8].contains c.toNat = true :=
  ⟨8, wPhase 1, by decide +kernel⟩

theorem wit_StartUpSteps_11 : ∃ c : BitVec 8, ∃ s : State, ((s.on Reg.SUP_STS_PWRGD = false ∨ [0, 1, 8].contains c.toNat = false)) :=
  ⟨2, wPhase 1, by decide +kernel⟩

theorem wit_StartUpSteps_12 : ∃ c : Fin 2, ∃ b : Bool, ∃ s : State, s.rst.cables.length = 2 ∧ ((∀ k : Fin 4, (setCable c b s).perstHeld k =
    s.perstHeld k)) :=
  ⟨1, true, State.reset, by decide +kernel⟩

theorem wit_StartUpSteps_13 : ∃ c : Fin 2, ∃ b : Bool, ∃ h : Fin 4, ∃ s : State, s.perstHeld h = false ∧ (setCable c b s).perstHeld h = true ∧ ((∀ k
    : Fin 4, k ≠ h → (setCable c b s).perstHeld k = s.perstHeld k)) ∧ s.present h = true ∧ s.effLevel 2 = 1 :=
  ⟨0, true, 0, (wHead.setFld (Reg.RST_MAP_FUSE 2) 1).onRst fun r => { r with lowPins := [0], cables := [false, true] }, by decide +kernel⟩

theorem wit_StartUpSteps_14 : ∃ c : Fin 2, ∃ b : Bool, ∃ h : Fin 4, ∃ s : State, s.perstHeld h = true ∧ (setCable c b s).perstHeld h = false ∧ ((∀ k
    : Fin 4, k ≠ h → (setCable c b s).perstHeld k = s.perstHeld k)) :=
  ⟨0, false, 0, State.reset.onRst fun r => { r with lowPins := [0] }, by decide +kernel⟩

theorem wit_LayoutCommands_1 : ∃ via : CmdPath, ∃ s : State, anyLdPath via = true ∧ plazaTakes s = true :=
  ⟨.fmApi, wMgr, by decide +kernel⟩

theorem wit_LayoutCommands_2 : ∃ via : CmdPath, ∃ a : Transfer LayoutImage, ∃ slot : Fin 2, ∃ img : LayoutImage, ∃ f : Fin 8, ∃ host : Bool, ∃ c :
    Instr, ∃ s : State, [Instr.transferLayout via a, .selectLayoutSlot via slot, .amendLayout via img, .raiseLayoutMinimumVersion via,
    .setFunctionMode via f host].contains c = true ∧ s.mgrPath via = true ∧ s.mgmt.mgrBusy = true :=
  ⟨.sideband, .initiate, 1, wImage, 5, true, .setFunctionMode .sideband 5 true, wMgr.onMgmt fun m => { m with mgrBusy := true }, by decide +kernel⟩

theorem wit_LayoutCommands_3 : ∃ via : CmdPath, ∃ a : Transfer LayoutImage, ∃ slot : Fin 2, ∃ img : LayoutImage, ∃ f : Fin 8, ∃ host : Bool, ∃ c :
    Instr, ∃ s : State, [Instr.transferLayout via a, .selectLayoutSlot via slot, .amendLayout via img, .raiseLayoutMinimumVersion via,
    .setFunctionMode via f host].contains c = true ∧ s.mgrPath via = false :=
  ⟨.mailbox 4, .abort, 1, wImage, 5, true, .transferLayout (.mailbox 4) .abort, wMgr, by decide +kernel⟩

theorem wit_LayoutCommands_4 : ∃ via : CmdPath, ∃ s : State, s.mgrPath via = true ∧ s.mgmt.mgrBusy = false ∧ plazaTakes s = true ∧ s.flashFree = true
    ∧ s.flash.transfer = none :=
  ⟨.sideband, wMgr, by decide +kernel⟩

theorem wit_LayoutCommands_5 : ∃ via : CmdPath, ∃ n : Nat, ∃ b : Nat, ∃ s : State, s.mgrPath via = true ∧ s.mgmt.mgrBusy = false ∧ plazaTakes s =
    true ∧ s.flashFree = true ∧ s.flash.transfer = some b ∧ 0 < n ∧ n ≤ 4096 ∧ b + n ≤ 524288 :=
  ⟨.fmApi, 4096, 520192, wMgr.onFlash fun f => { f with transfer := some 520192 }, by decide +kernel⟩

theorem wit_LayoutCommands_6 : ∃ via : CmdPath, ∃ n : Nat, ∃ b : Nat, ∃ s : State, s.mgrPath via = true ∧ s.mgmt.mgrBusy = false ∧ plazaTakes s =
    true ∧ s.flash.transfer = some b ∧ (n = 0 ∨ 4096 < n ∨ 524288 < b + n) :=
  ⟨.fmApi, 4096, 520193, wMgr.onFlash fun f => { f with transfer := some 520193 }, by decide +kernel⟩

theorem wit_LayoutCommands_7 : ∃ via : CmdPath, ∃ b : Nat, ∃ s : State, s.mgrPath via = true ∧ s.mgmt.mgrBusy = false ∧ plazaTakes s = true ∧
    s.flashFree = true ∧ s.flash.transfer = some b :=
  ⟨.fmApi, 100, wMgr.onFlash fun f => { f with transfer := some 100 }, by decide +kernel⟩

theorem wit_LayoutCommands_8 : ∃ via : CmdPath, ∃ b : Nat, ∃ s : State, s.mgrPath via = true ∧ s.mgmt.mgrBusy = false ∧ plazaTakes s = true ∧
    s.flash.transfer = some b :=
  ⟨.fmApi, 100, wMgr.onFlash fun f => { f with transfer := some 100 }, by decide +kernel⟩

theorem wit_LayoutCommands_9 : ∃ via : CmdPath, ∃ b : Nat, ∃ s : State, s.mgrPath via = true ∧ s.mgmt.mgrBusy = false ∧ plazaTakes s = true ∧
    s.flash.transfer = some b :=
  ⟨.fmApi, 100, wMgr.onFlash fun f => { f with transfer := some 100 }, by decide +kernel⟩

theorem wit_LayoutCommands_10 : ∃ via : CmdPath, ∃ a : Transfer LayoutImage, ∃ s : State, s.mgrPath via = true ∧ s.mgmt.mgrBusy = false ∧ plazaTakes
    s = true ∧ s.flash.transfer = none ∧ a ≠ .initiate :=
  ⟨.fmApi, .more 64, wMgr, by decide +kernel⟩

theorem wit_LayoutCommands_11 : ∃ via : CmdPath, ∃ slot : Fin 2, ∃ s : State, s.mgrPath via = true ∧ s.mgmt.mgrBusy = false ∧ plazaTakes s = true ∧
    (s.flash.slots.getD slot {}).image = none :=
  ⟨.sideband, 1, wMgr, by decide +kernel⟩

theorem wit_LayoutCommands_12 : ∃ via : CmdPath, ∃ slot : Fin 2, ∃ img : LayoutImage, ∃ s : State, s.mgrPath via = true ∧ s.mgmt.mgrBusy = false ∧
    plazaTakes s = true ∧ (s.flash.slots.getD slot {}).image = some img :=
  ⟨.sideband, 1, wImage, wMgr.onFlash fun f => { f with slots := [{}, { image := some wImage }] }, by decide +kernel⟩

theorem wit_LayoutCommands_13 : ∃ via : CmdPath, ∃ s : State, s.mgrPath via = true ∧ s.mgmt.mgrBusy = false ∧ plazaTakes s = true ∧ s.flashFree =
    true :=
  ⟨.sideband, wMgr, by decide +kernel⟩

theorem wit_LayoutCommands_14 : ∃ via : CmdPath, ∃ img : LayoutImage, ∃ s : State, s.mgrPath via = true ∧ s.mgmt.mgrBusy = false ∧ plazaTakes s =
    true ∧ s.flashFree = true ∧ s.layout.image = some img :=
  ⟨.sideband, wImage, let s := wMgr; { s with layout := { s.layout with image := some wImage } }, by decide +kernel⟩

theorem wit_LayoutCommands_15 : ∃ via : CmdPath, ∃ s : State, s.mgrPath via = true ∧ s.mgmt.mgrBusy = false ∧ plazaTakes s = true ∧ s.layout.image =
    none :=
  ⟨.sideband, wMgr, by decide +kernel⟩

theorem wit_LayoutCommands_16 : ∃ via : CmdPath, ∃ s : State, s.mgrPath via = true ∧ s.mgmt.mgrBusy = false ∧ plazaTakes s = true :=
  ⟨.sideband, wMgr, by decide +kernel⟩

theorem wit_LayoutCommands_17 : ∃ f : Fin 8, ∃ s : State, s.switching f = true ∧ s.quiet f = true ∧ ((f.val = 4 → s.fld (modeFld 4) = 1)) ∧
    s.hot.held = [] ∧ s.qos.heldReq = [] :=
  ⟨6, wset [(Reg.FLT_CFG_MODE, 1), (Reg.FLT_CFG_MODE_ACT, 0)], by decide +kernel⟩

theorem wit_LayoutCommands_18 : ∃ f : Fin 8, ∃ s : State, s.switching f = false :=
  ⟨3, State.reset, by decide +kernel⟩

theorem wit_LayoutCommands_19 : ∃ f : Fin 8, ∃ s : State, calm s = true ∧ s.switching f = true ∧ s.quiet f = false ∧ f ≠ 4 :=
  ⟨6, let s := wset [(Reg.FLT_CFG_MODE, 1), (Reg.FLT_CFG_MODE_ACT, 0)];
    { s with flt := { s.flt with awaiting := [{ report := { src := 0x18, inst := 1 }, due := 99 }] } }, by decide +kernel⟩

theorem wit_ManagementCommands_1 : ∃ via : CmdPath, ∃ s : State, s.mgrPath via = true ∧ s.mgmt.mgrBusy = false ∧ plazaTakes s = true :=
  ⟨.sideband, wMgr, by decide +kernel⟩

theorem wit_ManagementCommands_2 : ∃ via : CmdPath, ∃ s : State, s.mgrPath via = true ∧ s.mgmt.mgrBusy = false ∧ plazaTakes s = true :=
  ⟨.sideband, ((wMgr.setFld Reg.FLT_FIRST_VALID 1).setFld Reg.FLT_FIRST_DONE 1).setFld (Reg.FLT_SSTS_PEND 7) 1, by decide +kernel⟩

theorem wit_ManagementCommands_3 : ∃ via : CmdPath, ∃ src : BitVec 8, ∃ inst : BitVec 8, ∃ code : BitVec 8, ∃ d : Decision, ∃ s : State, s.mgrPath
    via = true ∧ s.mgmt.mgrBusy = false ∧ plazaTakes s = true ∧ s.waiting src.toNat inst.toNat = some d ∧ d.report.src = src.toNat ∧ d.report.inst =
    inst.toNat ∧ s.fld (Reg.FLT_REACT_FLOOR src.toNat) = code.toNat ∧ code.toNat ≤ 7 :=
  ⟨.sideband, 0x18, 1, 1, { report := { src := 0x18, inst := 1 }, due := 99 }, let s := wMgr.setFld (Reg.FLT_REACT_FLOOR 0x18) 1;
    { s with flt := { s.flt with awaiting := [{ report := { src := 0x18, inst := 1 }, due := 99 }] } }, by decide +kernel⟩

theorem wit_ManagementCommands_4 : ∃ via : CmdPath, ∃ src : BitVec 8, ∃ inst : BitVec 8, ∃ code : BitVec 8, ∃ s : State, s.mgrPath via = true ∧
    s.mgmt.mgrBusy = false ∧ plazaTakes s = true ∧ code ≠ 0xFF ∧ ((s.waiting src.toNat inst.toNat = none ∨ code.toNat < s.fld (Reg.FLT_REACT_FLOOR
    src.toNat) ∨ 7 < code.toNat)) :=
  ⟨.sideband, 0x18, 1, 8, wMgr, by decide +kernel⟩

theorem wit_ManagementCommands_5 : ∃ via : CmdPath, ∃ src : BitVec 8, ∃ inst : BitVec 8, ∃ e : Nat, ∃ s : State, s.mgrPath via = true ∧
    s.mgmt.mgrBusy = false ∧ plazaTakes s = true ∧ s.returnable src.toNat inst.toNat = [Block.engine e] ∧ e < 8 ∧ s.effLevel 7 < 4 :=
  ⟨.sideband, 0x13, 2, 2, let s := wMgr.setFld Reg.FLT_CFG_MODE_ACT 1;
    { s with flt := { s.flt with fenced := [.engine 2], returnAt := [(.engine 2, 77)] } }, by decide +kernel⟩

theorem wit_ManagementCommands_6 : ∃ via : CmdPath, ∃ src : BitVec 8, ∃ inst : BitVec 8, ∃ s : State, s.mgrPath via = true ∧ s.mgmt.mgrBusy = false ∧
    plazaTakes s = true ∧ s.lifeCycle ≠ 3 ∧ knownSource (src.toNat % 64) = true ∧ s.eff (src.toNat % 64) < 6 ∧ s.noInstance (src.toNat % 64)
    inst.toNat = false :=
  ⟨.fmApi, 0x18, 1, ((wMgr.setFld (Reg.FLT_REACT_ACT 0x18) 1).setFld (Reg.FLT_REACT_FLOOR 0x18) 0).setFld (Reg.HPA_CFG_PRESENT 1) 1,
    by decide +kernel⟩

theorem wit_ManagementCommands_7 : ∃ via : CmdPath, ∃ tgt : BitVec 4, ∃ inst : BitVec 8, ∃ s : State, s.mgrPath via = true ∧ s.mgmt.mgrBusy = false ∧
    plazaTakes s = true ∧ 1 ≤ tgt.toNat ∧ tgt.toNat ≤ 8 ∧ s.lifeCycle < 2 ∧ s.noTarget tgt.toNat inst.toNat = false :=
  ⟨.fmApi, 3, 5, let s := wMgr; { s with fuses := { s.fuses with loaded := true, lc := 1 } }, by decide +kernel⟩

theorem wit_ManagementCommands_8 : ∃ via : CmdPath, ∃ ch : Fin 16, ∃ z : Fin 2, ∃ b : Nat, ∃ s : State, s.mgrPath via = true ∧ s.mgmt.mgrBusy = false
    ∧ plazaTakes s = true ∧ s.slotState ch z = 3 ∧ s.serviceRuns ch = false ∧ s.blockOf ch z = none ∧ s.freeBlock z = some b ∧ b < 4 :=
  ⟨.sideband, 3, 0, 0, ((wMgr.setFld (Reg.DCC_SLOT_STATE 3 0) 3).setFld Reg.CTM_TACK_DIMMS 4).onCold fun c =>
    { c with nSeg := 524288, nLedger := 0, dimmGib := 256 }, by decide +kernel⟩

theorem wit_ManagementCommands_9 : ∃ via : CmdPath, ∃ ch : Fin 16, ∃ z : Fin 2, ∃ b : Nat, ∃ s : State, s.mgrPath via = true ∧ s.mgmt.mgrBusy = false
    ∧ plazaTakes s = true ∧ s.slotState ch z = 5 ∧ s.blockOf ch z = some b ∧ s.cold.nLedger = 0 ∧ s.cold.segs = [] ∧ (s.dcc ch).rq = [] ∧ (s.dcc
    ch).wq = [] :=
  ⟨.sideband, 3, 0, 1, ((((wMgr.setFld (Reg.DCC_SLOT_STATE 3 0) 5).setFld (Reg.DCM_BLK_VALID 1) 1).setFld (Reg.DCM_BLK_OP 1) 3).setFld
    (Reg.DCM_BLK_CH 1) 3).onCold fun c => { c with nSeg := 524288, nLedger := 0, dimmGib := 256 }, by decide +kernel⟩

theorem wit_ManagementCommands_10 : ∃ via : CmdPath, ∃ ch : Fin 16, ∃ z : Fin 2, ∃ s : State, s.mgrPath via = true ∧ s.mgmt.mgrBusy = false ∧
    plazaTakes s = true ∧ [6, 7, 10].contains (s.slotState ch z) = true ∧ s.slotPowered ch z = true ∧ s.serviceRuns ch = false :=
  ⟨.sideband, 3, 1, (wMgr.setFld (Reg.DCC_SLOT_STATE 3 1) 7).setFld (Reg.SUP_CH_STS_STATE 11) 3, by decide +kernel⟩

theorem wit_ManagementCommands_11 : ∃ via : CmdPath, ∃ ch : Fin 16, ∃ z : Fin 2, ∃ b : Nat, ∃ s : State, s.mgrPath via = true ∧ s.mgmt.mgrBusy =
    false ∧ plazaTakes s = true ∧ [4, 5].contains (s.slotState ch z) = true ∧ s.blockOf ch z = some b ∧ s.dram.dcm.pend = [] :=
  ⟨.sideband, 3, 0, 1, ((((wMgr.setFld (Reg.DCC_SLOT_STATE 3 0) 4).setFld (Reg.DCM_BLK_VALID 1) 1).setFld (Reg.DCM_BLK_OP 1) 2).setFld
    (Reg.DCM_BLK_CH 1) 3).onCold fun c => { c with nSeg := 524288, nLedger := 0, dimmGib := 256 }, by decide +kernel⟩

theorem wit_ManagementCommands_12 : ∃ via : CmdPath, ∃ ch : Fin 16, ∃ z : Fin 2, ∃ s : State, s.mgrPath via = true ∧ s.mgmt.mgrBusy = false ∧
    plazaTakes s = true ∧ s.slotState ch z ≠ 3 :=
  ⟨.sideband, 3, 1, wMgr.setFld (Reg.DCC_SLOT_STATE 3 1) 7, by decide +kernel⟩

theorem wit_ManagementCommands_13 : ∃ via : CmdPath, ∃ cmd : BitVec 3, ∃ s : State, s.mgrPath via = true ∧ s.mgmt.mgrBusy = false ∧ plazaTakes s =
    true ∧ (cmd.toNat = 0 ∨ 4 < cmd.toNat) :=
  ⟨.sideband, 7, wMgr, by decide +kernel⟩

theorem wit_ManagementCommands_14 : ∃ via : CmdPath, ∃ j : Fin 64, ∃ s : State, s.mgrPath via = true ∧ s.mgmt.mgrBusy = false ∧ plazaTakes s = true ∧
    isSlot j = true ∧ s.conducts j = true ∧ [0, 6, 7, 9].contains (s.slotSt j) = true :=
  ⟨.sideband, 7, wMgr.setFld (Reg.SUP_CH_STS_STATE 7) 3, by decide +kernel⟩

theorem wit_ManagementCommands_15 : ∃ via : CmdPath, ∃ j : Fin 64, ∃ s : State, s.mgrPath via = true ∧ s.mgmt.mgrBusy = false ∧ plazaTakes s = true ∧
    isSlot j = true ∧ s.supSt j = 0 ∧ [0, 7, 9, 10].contains (s.slotSt j) = true ∧ s.on (Reg.SUP_CH_STS_LATCH j) = true ∧ s.fld Reg.SUP_STS_BAND ≠ 2
    :=
  ⟨.sideband, 7, ((((wMgr.setFld (Reg.SUP_CH_STS_STATE 7) 0).setFld (Reg.DCC_SLOT_STATE 1 1) 10).setFld (Reg.SUP_CH_STS_LATCH 7) 1).setFld
    Reg.SUP_STS_BAND 0), by decide +kernel⟩

theorem wit_ManagementCommands_16 : ∃ via : CmdPath, ∃ j : Fin 64, ∃ s : State, s.mgrPath via = true ∧ s.mgmt.mgrBusy = false ∧ plazaTakes s = true ∧
    isSlot j = true ∧ s.supSt j = 5 :=
  ⟨.sideband, 7, wMgr.setFld (Reg.SUP_CH_STS_STATE 7) 5, by decide +kernel⟩

theorem wit_ManagementCommands_17 : ∃ via : CmdPath, ∃ cmd : BitVec 3, ∃ s : State, s.mgrPath via = true ∧ s.mgmt.mgrBusy = false ∧ plazaTakes s =
    true ∧ (cmd.toNat = 0 ∨ 3 < cmd.toNat) :=
  ⟨.sideband, 4, wMgr, by decide +kernel⟩

theorem wit_ManagementCommands_18 : ∃ via : CmdPath, ∃ ld : Fin 16, ∃ dpa : Nat, ∃ p : Nat, ∃ f : Nat, ∃ s : State, ldPath ld via = true ∧ plazaTakes
    s = true ∧ dpa % 4096 = 0 ∧ s.inCapacity ld dpa = true ∧ s.switching 0 = false ∧ p = s.gpnOf ld dpa ∧ (s.entry p).state = 1 ∧ (s.entry p).scnt ≠
    0 ∧ s.mayOpen p = true ∧ s.shedFor p = some f :=
  ⟨.mailbox 0, 0, 12288, 3, 7340033, putEntry 3 { state := 1, scnt := 3, seam := 69637 } (wLd0.setFld Reg.MGT_STS_FW_RUN 1), by decide +kernel⟩

theorem wit_ManagementCommands_19 : ∃ via : CmdPath, ∃ ld : Fin 16, ∃ dpa : Nat, ∃ s : State, ldPath ld via = true ∧ plazaTakes s = true ∧ dpa % 4096
    = 0 ∧ s.inCapacity ld dpa = true ∧ s.switching 0 = false ∧ (s.entry (s.gpnOf ld dpa)).state = 0 :=
  ⟨.mailbox 0, 0, 0x3FFFF000, let s := wMgr; { s with layout := { s.layout with lds := [{ staticGib := 1 }] } }, by decide +kernel⟩

theorem wit_ManagementCommands_20 : ∃ via : CmdPath, ∃ ld : Fin 16, ∃ dpa : Nat, ∃ len : Nat, ∃ s : State, ldPath ld via = true ∧ plazaTakes s = true
    ∧ dpa % 4096 = 0 ∧ len % 4096 = 0 ∧ 0 < len ∧ ((List.range (len / 4096)).all fun i => s.inCapacity ld (dpa + 4096 * i)) = true ∧ s.switching 0 =
    true :=
  ⟨.mailbox 0, 0, 0, 8192, let s := wMgr.setFld Reg.HTM_TIER_CFG_MODE 1; { s with layout := { s.layout with lds := [{ staticGib := 1 }] } },
    by decide +kernel⟩

theorem wit_ManagementCommands_21 : ∃ via : CmdPath, ∃ segs : List Nat, ∃ s : State, s.mgrPath via = true ∧ s.mgmt.mgrBusy = false ∧ plazaTakes s =
    true ∧ segs.length ≤ 64 ∧ (segs.any fun g => decide (s.cold.nSeg ≤ g)) = false ∧ s.on Reg.CTM_GC_CFG_MODE_ACT = true ∧ s.on Reg.CTM_STS_READY =
    false :=
  ⟨.sideband, [40], (wMgr.setFld Reg.CTM_GC_CFG_MODE_ACT 1).onCold fun c => { c with nSeg := 262144 }, by decide +kernel⟩

theorem wit_ManagementCommands_22 : ∃ via : CmdPath, ∃ s : State, s.mgrPath via = true ∧ s.mgmt.mgrBusy = false ∧ plazaTakes s = true ∧ s.on
    Reg.CTM_GC_CFG_MODE_ACT = false :=
  ⟨.sideband, wMgr, by decide +kernel⟩

theorem wit_ManagementCommands_23 : ∃ via : CmdPath, ∃ first : Nat, ∃ last : Nat, ∃ s : State, s.mgrPath via = true ∧ s.mgmt.mgrBusy = false ∧
    plazaTakes s = true ∧ first ≤ last ∧ last < s.cold.nSeg * 4096 ∧ s.on Reg.DCM_MODE_PATROL_ACT = true :=
  ⟨.sideband, 5, 5, (wMgr.setFld Reg.DCM_MODE_PATROL_ACT 1).onCold fun c => { c with nSeg := 1 }, by decide +kernel⟩

theorem wit_ManagementCommands_24 : ∃ via : CmdPath, ∃ ch : Fin 16, ∃ l : List (Nat × Nat), ∃ s : State, s.mgrPath via = true ∧ s.mgmt.mgrBusy =
    false ∧ plazaTakes s = true ∧ (s.dcc ch).held = some l :=
  ⟨.sideband, 3, [(0, 1)], wMgr.updDcc 3 fun d => { d with held := some [(0, 1)] }, by decide +kernel⟩

theorem wit_ManagementCommands_25 : ∃ via : CmdPath, ∃ st : Fin 2, ∃ h : Nat × Nat × List Nat, ∃ s : State, s.mgrPath via = true ∧ s.mgmt.mgrBusy =
    false ∧ plazaTakes s = true ∧ (s.dram.stackHeld.find? fun h => h.1 == st.val) = some h :=
  ⟨.sideband, 1, (1, 5, [0, 3]), let s := wMgr; { s with dram := { s.dram with stackHeld := [(1, 5, [0, 3])] } }, by decide +kernel⟩

theorem wit_ManagementCommands_26 : ∃ via : CmdPath, ∃ st : Fin 2, ∃ h : Nat × Nat × List Nat, ∃ s : State, s.mgrPath via = true ∧ s.mgmt.mgrBusy =
    false ∧ plazaTakes s = true ∧ (s.dram.stackHeld.find? fun h => h.1 == st.val) = some h :=
  ⟨.sideband, 1, (1, 5, [0, 3]), let s := wMgr; { s with dram := { s.dram with stackHeld := [(1, 5, [0, 3])] } }, by decide +kernel⟩

theorem wit_ManagementCommands_27 : ∃ via : CmdPath, ∃ ch : Fin 16, ∃ l : List (Nat × Nat), ∃ s : State, s.mgrPath via = true ∧ s.mgmt.mgrBusy =
    false ∧ plazaTakes s = true ∧ (s.dcc ch).held = some l ∧ s.fld Reg.RST_STS_PHASE ≠ 5 :=
  ⟨.sideband, 3, [(0, 1)], (wMgr.setFld Reg.RST_STS_PHASE 0).updDcc 3 fun d => { d with held := some [(0, 1)] }, by decide +kernel⟩

theorem wit_ManagementCommands_28 : ∃ via : CmdPath, ∃ ch : Fin 16, ∃ l : List (Nat × Nat), ∃ s : State, s.mgrPath via = true ∧ s.mgmt.mgrBusy =
    false ∧ plazaTakes s = true ∧ (s.dcc ch).held = some l ∧ s.fld Reg.RST_STS_PHASE ≠ 5 ∧ s.slotState ch 0 ≠ 2 ∧ s.slotState ch 1 ≠ 2 :=
  ⟨.sideband, 3, [(0, 1)], (wMgr.setFld Reg.RST_STS_PHASE 0).updDcc 3 fun d => { d with held := some [(0, 1)] }, by decide +kernel⟩

theorem wit_ManagementCommands_29 : ∃ via : CmdPath, ∃ ch : Fin 16, ∃ x : Nat, ∃ pass : Bool, ∃ c : Instr, ∃ s : State, s.mgrPath via = true ∧
    s.mgmt.mgrBusy = false ∧ plazaTakes s = true ∧ (s.dcc ch).held = none ∧ [Instr.getTrainingResults via (.channel ch), .commitTrainingSettings via
    (.channel ch) x pass].contains c = true :=
  ⟨.sideband, 3, 9, true, .getTrainingResults .sideband (.channel 3), wMgr, by decide +kernel⟩

theorem wit_ManagementCommands_30 : ∃ via : CmdPath, ∃ s : State, s.mgrPath via = true ∧ s.mgmt.mgrBusy = false ∧ plazaTakes s = true :=
  ⟨.sideband, wMgr, by decide +kernel⟩

theorem wit_ManagementCommands_31 : ∃ id : Nat, ∃ v : Nat, ∃ s : State, plazaTakes s = true ∧ s.sensor id = some v :=
  ⟨7, 0, wMgr, by decide +kernel⟩

theorem wit_ManagementCommands_32 : ∃ s : State, plazaTakes s = true :=
  ⟨wMgr, by decide +kernel⟩

theorem wit_ManagementCommands_33 : ∃ id : Nat, ∃ s : State, plazaTakes s = true ∧ s.sensor id = none :=
  ⟨250, wMgr, by decide +kernel⟩

theorem wit_ManagementCommands_34 : ∃ k : Fin 16, ∃ b : List Nat, ∃ s : State, plazaTakes s = true ∧ s.cdatBytes k = some b :=
  ⟨0, ((wOffer.setFld Reg.MGT_STS_FW_RUN 1).cdatBytes 0).getD [], wOffer.setFld Reg.MGT_STS_FW_RUN 1, by decide +kernel⟩

theorem wit_ManagementCommands_35 : ∃ o : LinkOption, ∃ x : DebugTarget, ∃ r : PldmRequest, ∃ s : State, plazaTakes s = true ∧
    [PldmRequest.advertised o, .debugAccess x, .measurements, .fmLdInfo, .fmLdAllocations, .fmQosControl].contains r = true :=
  ⟨.aer, .keyVault, .measurements, wMgr, by decide +kernel⟩

theorem wit_ManagementCommands_36 : ∃ op : BitVec 16, vendorOpcodes.contains op.toNat = false :=
  ⟨0xC0FF, by decide +kernel⟩

theorem wit_ManagementCommands_37 : ∃ n : Nat, ∃ s : State, plazaTakes s = true ∧ 0 < n ∧ s.offersAllowed < n :=
  ⟨1, wMgr, by decide +kernel⟩

theorem wit_ManagementCommands_38 : ∃ ld : Fin 16, ∃ g : Nat, ∃ s : State, plazaTakes s = true ∧ 1 ≤ s.offersAllowed ∧ (s.offerable ld).head? = some
    g :=
  ⟨0, 1, wOffer.setFld Reg.MGT_STS_FW_RUN 1, by decide +kernel⟩

theorem wit_ResetKeyAndFirmwareCommands_1 : ∃ via : CmdPath, ∃ dom : BitVec 8, ∃ s : State, s.mgrPath via = true ∧ s.mgmt.mgrBusy = false ∧
    plazaTakes s = true ∧ resettable dom.toNat = true ∧ s.rst.blocks = [] ∧ s.domFenced dom.toNat = false ∧ s.cond dom.toNat = .on ∧ s.effLevel 8 = 3
    :=
  ⟨.sideband, 42, (wMgr.setFld (Reg.RST_MAP_FUSE 8) 3).setCond 42 .on, by decide +kernel⟩

theorem wit_ResetKeyAndFirmwareCommands_2 : ∃ via : CmdPath, ∃ dom : BitVec 8, ∃ s : State, s.mgrPath via = true ∧ s.mgmt.mgrBusy = false ∧
    plazaTakes s = true ∧ resettable dom.toNat = true ∧ (domStitchers dom.toNat).isEmpty = true ∧ s.rst.blocks = [] ∧ s.domFenced dom.toNat = false ∧
    s.cond dom.toNat = .on ∧ s.effLevel 8 = 3 :=
  ⟨.sideband, 124, (wMgr.setFld (Reg.RST_MAP_FUSE 8) 3).setCond 124 .on, by decide +kernel⟩

theorem wit_ResetKeyAndFirmwareCommands_3 : ∃ via : CmdPath, ∃ dom : BitVec 8, ∃ s : State, s.mgrPath via = true ∧ s.mgmt.mgrBusy = false ∧
    plazaTakes s = true ∧ resettable dom.toNat = false :=
  ⟨.sideband, 134, wMgr, by decide +kernel⟩

theorem wit_ResetKeyAndFirmwareCommands_4 : ∃ via : CmdPath, ∃ dom : BitVec 8, ∃ s : State, s.mgrPath via = true ∧ s.mgmt.mgrBusy = false ∧
    plazaTakes s = true ∧ resettable dom.toNat = true ∧ (s.rst.blocks.any fun b => b.dom == dom.toNat) = true :=
  ⟨.sideband, 124, (wMgr.onRst fun r => { r with blocks := [{ dom := 124, src := 8, at_ := 5 }] }), by decide +kernel⟩

theorem wit_ResetKeyAndFirmwareCommands_5 : ∃ via : CmdPath, ∃ dom : BitVec 8, ∃ s : State, s.mgrPath via = true ∧ s.mgmt.mgrBusy = false ∧
    plazaTakes s = true ∧ resettable dom.toNat = true ∧ (s.rst.blocks.any fun b => b.dom == dom.toNat) = false ∧ (s.domFenced dom.toNat || s.cond
    dom.toNat == .off) = true :=
  ⟨.sideband, 124, wMgr.setCond 124 .off, by decide +kernel⟩

theorem wit_ResetKeyAndFirmwareCommands_6 : ∃ via : CmdPath, ∃ dom : BitVec 8, ∃ c : Instr, ∃ s : State, [Instr.blockReset via dom, .warmReset via,
    .coldReset via].contains c = true ∧ s.mgrPath via = false :=
  ⟨.mailbox 3, 124, .coldReset (.mailbox 3), wMgr, by decide +kernel⟩

theorem wit_ResetKeyAndFirmwareCommands_7 : ∃ via : CmdPath, ∃ s : State, s.mgrPath via = true ∧ s.mgmt.mgrBusy = false ∧ plazaTakes s = true ∧
    s.effLevel 0x0B = 4 ∧ s.on Reg.RST_STS_HOLD = false ∧ s.rst.pulse = none ∧ s.fld Reg.RST_STS_LEVEL = 0 :=
  ⟨.sideband, (wMgr.setFld Reg.RST_STS_LEVEL 0).setFld (Reg.RST_MAP_FUSE 0x0B) 4, by decide +kernel⟩

theorem wit_ResetKeyAndFirmwareCommands_8 : ∃ via : CmdPath, ∃ s : State, s.mgrPath via = true ∧ s.mgmt.mgrBusy = false ∧ plazaTakes s = true ∧
    s.effLevel 0x0D = 5 ∧ s.on Reg.RST_STS_HOLD = false ∧ s.rst.pulse = none ∧ s.fld Reg.RST_STS_LEVEL = 0 :=
  ⟨.fmApi, (wMgr.setFld Reg.RST_STS_LEVEL 0).setFld (Reg.RST_MAP_FUSE 0x0D) 5, by decide +kernel⟩

theorem wit_ResetKeyAndFirmwareCommands_9 : ∃ via : CmdPath, ∃ s : State, s.erasePath via = true ∧ plazaTakes s = true ∧ s.lcChanging = false ∧
    s.effLevel 0x0E = 5 ∧ s.on Reg.RST_STS_HOLD = false ∧ s.rst.pulse = none ∧ s.fld Reg.RST_STS_LEVEL = 0 :=
  ⟨.fmApi, (wMgr.setFld Reg.RST_STS_LEVEL 0).setFld (Reg.RST_MAP_FUSE 0x0E) 5, by decide +kernel⟩

theorem wit_ResetKeyAndFirmwareCommands_10 : ∃ via : CmdPath, ∃ s : State, s.erasePath via = true ∧ plazaTakes s = true ∧ s.lcChanging = false ∧
    s.effLevel 0x0E = 5 ∧ s.on Reg.RST_STS_HOLD = false ∧ s.rst.pulse = none ∧ s.fld Reg.RST_STS_LEVEL = 0 :=
  ⟨.mailbox 0, let s := (wMgr.setFld Reg.RST_STS_LEVEL 0).setFld (Reg.RST_MAP_FUSE 0x0E) 5; s.setFld (Reg.HPA_LD_ACT_LD_ACTIVE 0) 1,
    by decide +kernel⟩

theorem wit_ResetKeyAndFirmwareCommands_11 : ∃ via : CmdPath, ∃ c : Instr, ∃ s : State, [Instr.secureErase via, .sanitize via].contains c = true ∧
    s.erasePath via = false :=
  ⟨.sideband, .sanitize .sideband, wMgr, by decide +kernel⟩

theorem wit_ResetKeyAndFirmwareCommands_12 : ∃ via : CmdPath, ∃ c : Instr, ∃ s : State, [Instr.secureErase via, .sanitize via].contains c = true ∧
    s.erasePath via = true ∧ plazaTakes s = true ∧ s.lcChanging = true :=
  ⟨.fmApi, .sanitize .fmApi, wMgr.onFlash fun f => { f with job := some (.lifeCycle .retired) }, by decide +kernel⟩

theorem wit_ResetKeyAndFirmwareCommands_13 : ∃ via : CmdPath, ∃ ld : BitVec 8, ∃ key : BitVec 256, ∃ check : BitVec 32, ∃ s : State, spdmPath via =
    true ∧ s.injectPath ld.toNat via = true ∧ plazaTakes s = true ∧ ld.toNat < 16 ∧ s.windowOpen ld.toNat = true ∧ s.lifeCycle ≠ 3 ∧ keyCheck key =
    check.toNat :=
  ⟨.spdm none, 15, 0x1F1E1D1C1B1A191817161514131211100F0E0D0C0B0A09080706050403020100, 3053490418, wMgr.setBitOf Reg.CRY_INJ_WIN_OPEN 15 true,
    by decide +kernel⟩

theorem wit_ResetKeyAndFirmwareCommands_14 : ∃ via : CmdPath, ∃ ld : BitVec 8, ∃ key : BitVec 256, ∃ check : BitVec 32, ∃ s : State, spdmPath via =
    true ∧ s.injectPath ld.toNat via = true ∧ plazaTakes s = true ∧ ld.toNat < 16 ∧ ((s.windowOpen ld.toNat = false ∨ s.lifeCycle = 3 ∨ keyCheck key
    ≠ check.toNat)) :=
  ⟨.spdm (some 0), 15, 1, 2, wMgr.setFld (Reg.HPA_LD_ACT_LD_ACTIVE 0) 0x8000, by decide +kernel⟩

theorem wit_ResetKeyAndFirmwareCommands_15 : ∃ via : CmdPath, ∃ ld : BitVec 8, ∃ rsvd : BitVec 24, ∃ s : State, spdmPath via = true ∧ plazaTakes s =
    true ∧ ((16 ≤ ld.toNat ∨ (s.injectPath ld.toNat via = true ∧ rsvd ≠ 0))) :=
  ⟨.spdm none, 16, 0, wMgr, by decide +kernel⟩

theorem wit_ResetKeyAndFirmwareCommands_16 : ∃ via : CmdPath, ∃ ld : BitVec 8, ∃ s : State, ld.toNat < 16 ∧ s.injectPath ld.toNat via = false :=
  ⟨.spdm (some 1), 15, wMgr, by decide +kernel⟩

theorem wit_ResetKeyAndFirmwareCommands_17 : ∃ via : CmdPath, ∃ target : LifeCycle, ∃ s : State, spdmPath via = true ∧ plazaTakes s = true ∧
    lcAllowed s.lifeCycle (lcCode target) = true ∧ s.flashFree = true :=
  ⟨.spdm (some 2), .retired, wMgr, by decide +kernel⟩

theorem wit_ResetKeyAndFirmwareCommands_18 : ∃ via : CmdPath, ∃ target : LifeCycle, ∃ auth : Bool, ∃ s : State, spdmPath via = true ∧ plazaTakes s =
    true ∧ (auth = false ∨ lcAllowed s.lifeCycle (lcCode target) = false) :=
  ⟨.spdm none, .manufacture, true, wMgr, by decide +kernel⟩

theorem wit_ResetKeyAndFirmwareCommands_19 : ∃ via : CmdPath, spdmPath via = false :=
  ⟨.fmApi, by decide +kernel⟩

theorem wit_ResetKeyAndFirmwareCommands_20 : ∃ via : CmdPath, ∃ s : State, cxlPath via = true ∧ plazaTakes s = true :=
  ⟨.mailbox 3, wMgr, by decide +kernel⟩

theorem wit_ResetKeyAndFirmwareCommands_21 : ∃ via : CmdPath, ∃ s : State, cxlPath via = true ∧ plazaTakes s = true ∧ s.flashFree = true ∧
    s.mgmt.fwTransfer = none :=
  ⟨.mailbox 3, wMgr, by decide +kernel⟩

theorem wit_ResetKeyAndFirmwareCommands_22 : ∃ via : CmdPath, ∃ n : Nat, ∃ b : Nat, ∃ s : State, cxlPath via = true ∧ plazaTakes s = true ∧
    s.flashFree = true ∧ s.mgmt.fwTransfer = some b ∧ 0 < n :=
  ⟨.mailbox 3, 9, 100, wMgr.onMgmt fun m => { m with fwTransfer := some 100 }, by decide +kernel⟩

theorem wit_ResetKeyAndFirmwareCommands_23 : ∃ via : CmdPath, ∃ b : Nat, ∃ s : State, cxlPath via = true ∧ plazaTakes s = true ∧ s.flashFree = true ∧
    s.mgmt.fwTransfer = some b :=
  ⟨.mailbox 3, 100, wMgr.onMgmt fun m => { m with fwTransfer := some 100 }, by decide +kernel⟩

theorem wit_ResetKeyAndFirmwareCommands_24 : ∃ via : CmdPath, ∃ b : Nat, ∃ s : State, cxlPath via = true ∧ plazaTakes s = true ∧ s.mgmt.fwTransfer =
    some b :=
  ⟨.mailbox 3, 100, wMgr.onMgmt fun m => { m with fwTransfer := some 100 }, by decide +kernel⟩

theorem wit_ResetKeyAndFirmwareCommands_25 : ∃ via : CmdPath, ∃ a : Transfer FwImage, ∃ s : State, cxlPath via = true ∧ plazaTakes s = true ∧ a ≠
    .initiate ∧ s.mgmt.fwTransfer = none :=
  ⟨.mailbox 3, .abort, wMgr, by decide +kernel⟩

theorem wit_ResetKeyAndFirmwareCommands_26 : ∃ via : CmdPath, ∃ b : Nat, ∃ s : State, cxlPath via = true ∧ plazaTakes s = true ∧ s.mgmt.fwTransfer =
    some b :=
  ⟨.mailbox 3, 100, wMgr.onMgmt fun m => { m with fwTransfer := some 100 }, by decide +kernel⟩

theorem wit_ResetKeyAndFirmwareCommands_27 : ∃ via : CmdPath, ∃ slot : Fin 4, ∃ img : FwImage, ∃ s : State, cxlPath via = true ∧ plazaTakes s = true
    ∧ (slot.val = 1 ∨ slot.val = 2) ∧ s.fwImage slot = some img :=
  ⟨.mailbox 3, 2, ⟨7, 3, 0⟩, wFw, by decide +kernel⟩

theorem wit_ResetKeyAndFirmwareCommands_28 : ∃ via : CmdPath, ∃ slot : Fin 4, ∃ s : State, cxlPath via = true ∧ plazaTakes s = true ∧ (((slot.val ≠ 1
    ∧ slot.val ≠ 2) ∨ s.fwImage slot = none)) :=
  ⟨.mailbox 3, 3, wFw, by decide +kernel⟩

theorem wit_ResetKeyAndFirmwareCommands_29 : ∃ via : CmdPath, ∃ slot : Fin 4, ∃ img : FwImage, ∃ s : State, cxlPath via = true ∧ plazaTakes s = true
    ∧ (slot.val = 1 ∨ slot.val = 2) ∧ s.fwImage slot = some img ∧ (!s.on Reg.MGT_STS_STANDBY_OK || s.isFenced (.domain 131) || s.on Reg.MGT_STS_CORE)
    = true :=
  ⟨.mailbox 3, 2, ⟨7, 3, 0⟩, wFw, by decide +kernel⟩

theorem wit_ResetKeyAndFirmwareCommands_30 : ∃ via : CmdPath, ∃ slot : Fin 4, ∃ img : FwImage, ∃ s : State, cxlPath via = true ∧ plazaTakes s = true
    ∧ (slot.val = 1 ∨ slot.val = 2) ∧ s.fwImage slot = some img ∧ s.on Reg.MGT_STS_STANDBY_OK = true ∧ s.isFenced (.domain 131) = false ∧ s.on
    Reg.MGT_STS_CORE = false ∧ (s.hostAwaited || (List.range 8).any s.switching || s.mgmt.mgrBusy) = true :=
  ⟨.mailbox 3, 2, ⟨7, 3, 0⟩, (wFw.setFld Reg.MGT_STS_STANDBY_OK 1).onMgmt fun m => { m with mgrBusy := true }, by decide +kernel⟩

theorem wit_ResetKeyAndFirmwareCommands_31 : ∃ via : CmdPath, ∃ slot : Fin 4, ∃ img : FwImage, ∃ s : State, cxlPath via = true ∧ plazaTakes s = true
    ∧ (slot.val = 1 ∨ slot.val = 2) ∧ s.fwImage slot = some img ∧ s.on Reg.MGT_STS_STANDBY_OK = true ∧ s.isFenced (.domain 131) = false ∧ s.on
    Reg.MGT_STS_CORE = false ∧ s.hostAwaited = false ∧ ((List.range 8).any s.switching) = false ∧ s.mgmt.mgrBusy = false ∧ s.rst.blocks = [] ∧
    s.effLevel 0x0A = 3 :=
  ⟨.fmApi, 2, ⟨7, 3, 0⟩, (wFw.setFld Reg.MGT_STS_STANDBY_OK 1).setFld (Reg.RST_MAP_FUSE 0x0A) 3, by decide +kernel⟩

theorem wit_ResetKeyAndFirmwareCommands_32 : ∃ via : CmdPath, ∃ c : Instr, ∃ dom : BitVec 8, ∃ slot : Fin 4, ∃ online : Bool, ∃ a : Transfer FwImage,
    ∃ s : State, [Instr.blockReset via dom, .warmReset via, .coldReset via, .transferFw via a, .activateFw via slot online].contains c = true ∧
    s.mgrPath via = true ∧ s.fwBusy = true :=
  ⟨.fmApi, .coldReset .fmApi, 3, 2, true, .abort, wFw.setFld Reg.MGT_STS_ACTIVATING 1, by decide +kernel⟩

theorem wit_ResetKeyAndFirmwareCommands_33 : ∃ slot : Nat, ∃ t0 : Nat, ∃ img : FwImage, ∃ via : CmdPath, ∃ s : State, s.mgmt.act = some (slot, t0) ∧
    s.mgmt.actVia = some via ∧ s.fwImage slot = some img ∧ (s.rst.blocks.any fun b => b.dom == 130) = false ∧ s.isFenced .plazaPair = false ∧ s.on
    Reg.MGT_STS_FW_RUN = false ∧ s.fld Reg.RST_STS_PHASE = 0 :=
  ⟨2, 0, ⟨7, 3, 0⟩, .fmApi, ((wFw.setFld Reg.MGT_STS_FW_RUN 0).setFld Reg.RST_STS_PHASE 0).onMgmt fun m =>
    { m with act := some (2, 0), actVia := some .fmApi }, by decide +kernel⟩

theorem wit_ResetKeyAndFirmwareCommands_34 : ∃ slot : Nat, ∃ t0 : Nat, ∃ via : CmdPath, ∃ s : State, s.mgmt.act = some (slot, t0) ∧ s.mgmt.actVia =
    some via ∧ s.fld Reg.RST_STS_PHASE = 0 :=
  ⟨2, 0, .fmApi, ((wFw.setFld Reg.MGT_STS_FW_RUN 0).setFld Reg.RST_STS_PHASE 0).onMgmt fun m => { m with act := some (2, 0), actVia := some .fmApi },
    by decide +kernel⟩

theorem wit_ResetKeyAndFirmwareCommands_35 : ∃ c : Instr, ∃ failed : Bool, ∃ s : State, [Instr.fwActivationHandover, .fwActivationTimeout
    failed].contains c = true ∧ s.mgmt.act = none :=
  ⟨.fwActivationTimeout true, true, State.reset, by decide +kernel⟩

/-- The last unit of slot 5 re-encrypted. -/
def wFinal : State := (wReenc { slot := 5, active := true, done := 16, next := 262144 }).setFld (Reg.CRY_REENC_SLOT_VALID 0) 1 |>.setFld (Reg.CRY_REENC_SLOT_SLOT 0) 5

theorem wFinal_windows : ∀ w ∈ List.range 17, wFinal.fld (Reg.CTM_LWIN_SLOTS w) = 0 := by decide +kernel
theorem wFinal_tags : wFinal.hot.tags = [] := by decide +kernel
theorem wFinal_window (p : Nat) : wFinal.windowOf p = none := by
  unfold State.windowOf
  rw [List.find?_eq_none]
  intro w hw
  simp [wFinal_windows w hw]
theorem wFinal_entry (p : Nat) : wFinal.entry p = {} := by
  have h1 : wFinal.wayOf (p / 256) = none := by
    unfold State.wayOf
    rw [List.find?_eq_none]
    intro w _
    simp [State.mapTag, wFinal_tags]
  simp [State.entry, h1, State.mapBlock, State.slotOf, wFinal_window]
theorem wit_ReencryptionWalksTheSlot_5 : ∃ k : Nat, ∃ r : Reenc, ∃ j : Nat, ∃ s : State, s.reencOf k = some r ∧ r.active = true ∧ r.done = 16 ∧ r.again = false ∧ s.reencReg k = some j ∧ j < 4 ∧ (∀ p, s.stale k p = false) :=
  ⟨5, { slot := 5, active := true, done := 16, next := 262144 }, 0, wFinal, by decide +kernel, by decide, by decide, by decide, by decide +kernel, by decide,
    fun p => by simp [State.stale, wFinal_entry]⟩

end Slice0Tests
end

namespace Sys2Proof.Machine

open Sys2Proof

/-! ## PROOFS. The BAR2 accesses (00_scope.md) -/

/-! ### What leaves a calm state calm, and the frames -/

/-- Being calm is a matter of the hot tier, the slices and the fault collector. -/
theorem calm_congr {s t : State} (hhot : t.hot = s.hot) (hslices : t.slices = s.slices) (hflt : t.flt = s.flt) : calm t = calm s := by
  simp only [calm, State.waitingLines, State.fillOf, hhot, hslices, hflt]

@[simp] theorem calm_emit (s : State) (o : Out) : calm (s.emit o) = calm s := calm_congr rfl rfl rfl
@[simp] theorem calm_updPath (s : State) (k : Nat) (f : PathState → PathState) : calm (s.updPath k f) = calm s := calm_congr rfl rfl rfl
@[simp] theorem calm_setReg (s : State) (a : Nat) (v : Word) : calm (s.setReg a v) = calm s := calm_congr rfl rfl rfl

theorem sameMemory_of_tiers {s t : State} (hhot : t.hot = s.hot) (hcold : t.cold = s.cold) : sameMemory s t := by
  constructor
  · intro f l; simp only [State.stackLine, hhot]
  · intro seam ch; simp only [State.dimmStitch, hcold]

/-- A command that leaves the register store and both tiers alone writes no register. -/
theorem onlyRegs_nil {s t : State} (hregs : t.regs = s.regs) (hhot : t.hot = s.hot) (hcold : t.cold = s.cold) : onlyRegs [] s t :=
  ⟨fun a _ => by simp only [State.reg, hregs], sameMemory_of_tiers hhot hcold⟩

theorem fld_of_sameRegsBut {l : List Nat} {s t : State} (h : sameRegsBut l s t) {f : Reg.FRef} (hf : f.addr ∉ l) : t.fld f = s.fld f := by
  simp only [State.fld, h f.addr hf]

/-! ### The path state (R17, R18) -/

@[simp] theorem State.path_emit (s : State) (o : Out) (k : Nat) : (s.emit o).path k = s.path k := rfl

@[simp] theorem State.path_updPath_same (s : State) (k : Nat) (f : PathState → PathState) : (s.updPath k f).path k = f (s.path k) :=
  SMap.get_upd_same _ s.paths k f

theorem State.path_updPath_ne (s : State) {k j : Nat} (f : PathState → PathState) (h : j ≠ k) : (s.updPath k f).path j = s.path j :=
  SMap.get_upd_ne _ _ s.paths f h

/-! ### The rows of the register map -/

theorem place_eq_some {r : Reg.Row} {a i j : Nat} (h : r.place a = some (i, j)) :
    i < r.inst ∧ j < r.count ∧ a = r.base + (r.istride * i + r.stride * j) := by
  unfold Reg.Row.place at h
  split at h
  · simp at h
  · next hb =>
    simp only [Option.ite_none_right_eq_some, Bool.and_eq_true, decide_eq_true_eq, beq_iff_eq, Option.some.injEq, Prod.mk.injEq] at h
    obtain ⟨⟨⟨hi, hs⟩, hj⟩, rfl, rfl⟩ := h
    have hd := Nat.mul_div_cancel' (Nat.dvd_of_mod_eq_zero hs)
    have ha := Nat.div_add_mod (a - r.base) r.istride
    exact ⟨hi, hj, by omega⟩

/-- The row that holds an offset is one of the table's, at the place that it gives the offset. -/
theorem findRow_eq_some {a i j : Nat} {r : Reg.Row} {rs : List Reg.Row} (h : Reg.findRow a rs = some (r, i, j)) :
    r ∈ rs ∧ r.place a = some (i, j) := by
  induction rs with
  | nil => simp [Reg.findRow] at h
  | cons q rs ih =>
    unfold Reg.findRow at h
    split at h
    · next hq =>
      simp only [Option.some.injEq, Prod.mk.injEq] at h
      obtain ⟨rfl, rfl, rfl⟩ := h
      exact ⟨List.mem_cons_self, hq⟩
    · exact ⟨List.mem_cons_of_mem q (ih h).1, (ih h).2⟩

/-- The base of the row of an offset, with the place of the offset in it. -/
def rowPlace (a : Nat) : Option (Nat × Nat × Nat) := (Reg.findRow a Reg.rows).map fun x => (x.1.base, x.2)

/-- The RW, RWS and W1C masks of the row of an offset. -/
def rowMasks (a : Nat) : Option (Nat × Nat × Nat) := (Reg.findRow a Reg.rows).map fun x => (x.1.rw, x.1.rws, x.1.w1c)

theorem exists_findRow {a b i j : Nat} (h : rowPlace a = some (b, i, j)) : ∃ r, Reg.findRow a Reg.rows = some (r, i, j) ∧ r.base = b := by
  obtain ⟨⟨r, i', j'⟩, hr, he⟩ := Option.map_eq_some_iff.1 h
  simp only [Prod.mk.injEq] at he
  obtain ⟨hb, rfl, rfl⟩ := he
  exact ⟨r, hr, hb⟩

theorem rowMasks_eq {a i j : Nat} {r : Reg.Row} (hr : Reg.findRow a Reg.rows = some (r, i, j)) : rowMasks a = some (r.rw, r.rws, r.w1c) := by
  simp only [rowMasks, hr, Option.map_some]

/-! ### The pairs of R17 -/

/-- The offsets of the _LO registers. -/
def loOffsets : List Nat :=
  (Reg.rows.filter fun r => loBases.contains r.base).flatMap fun r =>
    (List.range r.inst).flatMap fun i => (List.range r.count).map fun j => r.base + (r.istride * i + r.stride * j)

theorem mem_loOffsets_of_isLo {a : Nat} (h : isLo a = true) : a ∈ loOffsets := by
  unfold isLo at h
  split at h
  · next r i j hr =>
    obtain ⟨hmem, hplace⟩ := findRow_eq_some hr
    obtain ⟨hi, hj, ha⟩ := place_eq_some hplace
    simp only [loOffsets, List.mem_flatMap, List.mem_filter, List.mem_map, List.mem_range]
    exact ⟨r, ⟨hmem, h⟩, i, hi, j, hj, ha.symm⟩
  · simp at h

/-- Every _LO register lies word-aligned outside the CXL blocks, and the register after it is no _LO register. -/
theorem loOffsets_facts : ∀ a ∈ loOffsets, a % 4 = 0 ∧ a + 4 < 0x800000 ∧ isLo (a + 4) = false := by decide +kernel

/-! ### Which blocks answer at once -/

/-- The block at `a` answers an access at once: it is neither fenced nor asleep. -/
def awakeAt (a : Nat) (s : State) : Prop := s.regBlocked a = none ∧ wakeBlockAt a s = s

theorem spareAt_of_lt {a : Nat} (s : State) (h : a < 0xC0000) : s.spareAt a = false := by
  simp [State.spareAt, show ¬ 0xC0000 ≤ a by omega]

theorem awakeAt_of_noDomain {a : Nat} {s : State} (hs : s.spareAt a = false) (hd : s.regDomain a = none) : awakeAt a s := by
  constructor
  · simp [State.regBlocked, hs, hd]
  · simp [wakeBlockAt, hs, hd]

/-- A block that answers in every power state is awake unless it is fenced. -/
theorem awakeAt_of_prompt {a d : Nat} {s : State} (hs : s.spareAt a = false) (hd : s.regDomain a = some (d, true))
    (hf : s.regFenced a d = false) : awakeAt a s := by
  constructor
  · simp [State.regBlocked, hs, hd, hf]
  · simp [wakeBlockAt, hs, hd]

/-- The identity block, the keep island, the PMU and the contract block always answer (R492, R493). -/
theorem awakeAt_keepIsland {a : Nat} (s : State) (h : a < 0x10000 ∨ 0x20000 ≤ a ∧ a < 0x70000) : awakeAt a s := by
  refine awakeAt_of_noDomain (spareAt_of_lt s (by omega)) ?_
  rcases h with h | ⟨h1, h2⟩ <;> simp (disch := omega) only [State.regDomain, if_neg, if_pos]

/-- A block that is not the CTM nor the DCM is fenced as its domain is. -/
theorem regFenced_eq_domFenced {a : Nat} (s : State) (d : Nat) (h : a < 0x90000 ∨ 0x104000 ≤ a) : s.regFenced a d = s.domFenced d := by
  rcases h with h | h
  · simp [State.regFenced, show ¬ 0x90000 ≤ a by omega, show ¬ 0x102000 ≤ a by omega]
  · simp [State.regFenced, show ¬ a < 0xA0000 by omega, show ¬ a < 0x104000 by omega]

theorem regDomain_grid {a : Nat} (s : State) (h1 : 0x70000 ≤ a) (h2 : a < 0x80000) : s.regDomain a = some (142, true) := by
  simp (disch := omega) only [State.regDomain, if_neg, if_pos]

theorem regDomain_vault {a : Nat} (s : State) (h1 : 0x80000 ≤ a) (h2 : a < 0x90000) : s.regDomain a = some (134, true) := by
  simp (disch := omega) only [State.regDomain, if_neg, if_pos]

theorem regDomain_engine (s : State) (n : Fin 8) : s.regDomain (Reg.NME_CFG n) = some (122 + n.val, false) := by
  have h1 : Reg.NME_CFG n = 0x140004 + 0x1000 * n := rfl
  simp (disch := omega) only [State.regDomain, if_neg, if_pos]
  congr 2
  omega

theorem awakeAt_grid {a : Nat} {s : State} (h1 : 0x70000 ≤ a) (h2 : a < 0x80000) (hf : s.domFenced 142 = false) : awakeAt a s :=
  awakeAt_of_prompt (spareAt_of_lt s (by omega)) (regDomain_grid s h1 h2) (by rw [regFenced_eq_domFenced s _ (by omega), hf])

theorem awakeAt_vault {a : Nat} {s : State} (h1 : 0x80000 ≤ a) (h2 : a < 0x90000) (hf : s.domFenced 134 = false) : awakeAt a s :=
  awakeAt_of_prompt (spareAt_of_lt s (by omega)) (regDomain_vault s h1 h2) (by rw [regFenced_eq_domFenced s _ (by omega), hf])

/-! ### An access in terms of its 32-bit word -/

theorem div_mul_of_aligned {a : Nat} (h : a % 4 = 0) : a / 4 * 4 = a := by omega

theorem readAccess_blocked (p : Path) {a d : Nat} (z : AccSize) {s : State} (ha : a % 4 = 0) (hb : s.regBlocked a = some d) :
    readAccess p a z s = (s.report 0x1F d).emit (.regRead p a (allOnes z)) := by
  simp only [readAccess, div_mul_of_aligned ha, hb]

theorem readAccess_w32 (p : Path) {a : Nat} {s : State} (ha : a % 4 = 0) (hb : s.regBlocked a = none) :
    readAccess p a .w32 s = (readWord p a (wakeBlockAt a s)).2.emit (.regRead p a (readWord p a (wakeBlockAt a s)).1.toNat) := by
  simp only [readAccess, readSized, div_mul_of_aligned ha, hb]

theorem writeAccess_narrow (p : Path) (off : Nat) {z : AccSize} (v : BitVec 64) (s : State) (hz : z = .w8 ∨ z = .w16) :
    writeAccess p off z v s = (s.report 0x1D 0).emit (.regDone p off) := by
  rcases hz with rfl | rfl <;> rfl

theorem writeAccess_blocked (p : Path) {a d : Nat} (v : BitVec 64) {s : State} (ha : a % 4 = 0) (hb : s.regBlocked a = some d) :
    writeAccess p a .w32 v s = (s.report 0x1F d).emit (.regDone p a) := by
  simp only [writeAccess, div_mul_of_aligned ha, hb]

theorem writeAccess_w32 (p : Path) {a : Nat} (v : BitVec 64) {s : State} (ha : a % 4 = 0) (h : awakeAt a s) :
    writeAccess p a .w32 v s = (writeWord p a (v.setWidth 32) s).emit (.regDone p a) := by
  simp only [writeAccess, div_mul_of_aligned ha, h.1, h.2]

/-- A write access to a block that is awake, whose word leaves a calm state, answers that state. -/
theorem done_writeAccess_w32 (p : Path) {a : Nat} (v : BitVec 64) {s t : State} (ha : a % 4 = 0) (h : awakeAt a s)
    (hw : writeWord p a (v.setWidth 32) s = t) (ht : calm t = true) : done (writeAccess p a .w32 v s) = .next (t.emit (.regDone p a)) := by
  rw [writeAccess_w32 p v ha h, hw, done_of_calm _ (by rw [calm_emit, ht])]

/-- The same of a read access, whose block is woken first. -/
theorem done_readAccess_w32 (p : Path) {a : Nat} {w : Word} {s t : State} (ha : a % 4 = 0) (hb : s.regBlocked a = none)
    (hr : readWord p a (wakeBlockAt a s) = (w, t)) (ht : calm t = true) : done (readAccess p a .w32 s) = .next (t.emit (.regRead p a w.toNat)) := by
  rw [readAccess_w32 p ha hb, hr, done_of_calm _ (by rw [calm_emit, ht])]

theorem done_readAccess_awake (p : Path) {a : Nat} {w : Word} {s t : State} (ha : a % 4 = 0) (h : awakeAt a s)
    (hr : readWord p a s = (w, t)) (ht : calm t = true) : done (readAccess p a .w32 s) = .next (t.emit (.regRead p a w.toNat)) :=
  done_readAccess_w32 p ha h.1 (by rw [h.2, hr]) ht

/-! ### A 32-bit write, by what the register map says of its offset -/

theorem isCxl_of_lt {a : Nat} (h : a < 0x800000) : isCxl a = false := by
  simp [isCxl, show ¬ 0x800000 ≤ a by omega]

theorem writeWord_unimplemented (p : Path) {a : Nat} (v : Word) (s : State) (ha : a < 0x800000) (hr : Reg.findRow a Reg.rows = none) :
    writeWord p a v s = s := by
  simp [writeWord, isCxl_of_lt ha, hr]

section
variable (p : Path) {a i j : Nat} {r : Reg.Row} (v : Word) {s : State}
variable (ha : a < 0xC0000) (hr : Reg.findRow a Reg.rows = some (r, i, j))
include ha hr

/-- A write below the slices' registers, once the row of its offset is known. -/
theorem writeWord_of_row : writeWord p a v s =
    if !s.mayWrite p a r.base i j then s.accessFault
    else if r.base = Reg.PMU_CTR_LO 0 then s.updPath (Path.key p) fun x => { x with held := SMap.put none x.held a (some v) }
    else if r.base = Reg.PMU_CTR_HI 0 then writePair p r a v.toNat s
    else (writeEffect p r a i v.toNat s).getD (writeModes a v.toNat (storeMasked r a v.toNat (modeBits a) s)) := by
  obtain ⟨-, -, hbase⟩ := place_eq_some (findRow_eq_some hr).2
  have hb : ¬ 0x160000 ≤ r.base := by omega
  simp only [writeWord, isCxl_of_lt (show a < 0x800000 by omega), hr, spareAt_of_lt s ha, hb, false_and, Bool.false_eq_true, if_false]
  cases writeEffect p r a i v.toNat s <;> rfl

theorem writeWord_refused (hm : s.mayWrite p a r.base i j = false) : writeWord p a v s = s.accessFault := by
  rw [writeWord_of_row p v ha hr, hm]
  rfl

theorem writeWord_held (hm : s.mayWrite p a r.base i j = true) (hb : r.base = Reg.PMU_CTR_LO 0) :
    writeWord p a v s = s.updPath (Path.key p) fun x => { x with held := SMap.put none x.held a (some v) } := by
  rw [writeWord_of_row p v ha hr, hm]
  simp [hb]

theorem writeWord_pair (hm : s.mayWrite p a r.base i j = true) (hb : r.base = Reg.PMU_CTR_HI 0) :
    writeWord p a v s = writePair p r a v.toNat s := by
  rw [writeWord_of_row p v ha hr, hm]
  simp [hb, Reg.PMU_CTR_LO, Reg.PMU_CTR_HI]

theorem writeWord_effect {t : State} (hm : s.mayWrite p a r.base i j = true) (hlo : r.base ≠ Reg.PMU_CTR_LO 0)
    (hhi : r.base ≠ Reg.PMU_CTR_HI 0) (ht : writeEffect p r a i v.toNat s = some t) : writeWord p a v s = t := by
  rw [writeWord_of_row p v ha hr, hm]
  simp [hlo, hhi, ht]

end

/-! ### A 32-bit read -/

section
variable (p : Path) {a : Nat} (s : State) (h : isLo a = true)
include h

theorem aligned_of_isLo : a % 4 = 0 := (loOffsets_facts a (mem_loOffsets_of_isLo h)).1

theorem lt_of_isLo : a + 4 < 0x800000 := (loOffsets_facts a (mem_loOffsets_of_isLo h)).2.1

theorem not_isLo_hi : isLo (a + 4) = false := (loOffsets_facts a (mem_loOffsets_of_isLo h)).2.2

theorem isHi_of_isLo : isHi (a + 4) = true := by simp [isHi, h]

/-- R17: a read of an _LO register latches the present high half on its path. -/
theorem readWord_lo : readWord p a s =
    (s.view p a, s.updPath (Path.key p) fun x => { x with latch := SMap.put none x.latch a (some (s.view p (a + 4))) }) := by
  have := lt_of_isLo h
  simp only [readWord, isCxl_of_lt (show a < 0x800000 by omega), h, Bool.false_eq_true, if_false, if_true]

/-- R17: a read of an _HI register returns the half that is latched on its path, once. -/
theorem readWord_hi_latched {v : Word} (hl : SMap.get none (s.path (Path.key p)).latch a = some v) : readWord p (a + 4) s =
    (v, s.updPath (Path.key p) fun x => { x with latch := SMap.put none x.latch a none }) := by
  simp only [readWord, isCxl_of_lt (lt_of_isLo h), not_isLo_hi h, isHi_of_isLo h, Nat.add_sub_cancel, hl, Bool.false_eq_true, if_false, if_true]

theorem readWord_hi_unlatched (hl : SMap.get none (s.path (Path.key p)).latch a = none) : readWord p (a + 4) s = (s.view p (a + 4), s) := by
  simp only [readWord, isCxl_of_lt (lt_of_isLo h), not_isLo_hi h, isHi_of_isLo h, Nat.add_sub_cancel, hl, Bool.false_eq_true, if_false, if_true]

end

theorem readWord_single (p : Path) {a : Nat} (s : State) (ha : a < 0x800000) (hlo : isLo a = false) (hhi : isHi a = false) :
    readWord p a s = (s.view p a, s) := by
  simp only [readWord, isCxl_of_lt ha, hlo, hhi, Bool.false_eq_true, if_false]

/-! ### The selectors (R18) -/

/-- The offset of a selector register. -/
def selOffset : Selector → Nat
  | .qosCsel => Reg.QOS_CSEL
  | .cryEpochSel => Reg.CRY_EPOCH_SEL
  | .nocMpSel => Reg.NOC_MP_SEL

/-- What a path holds of a selector. -/
def selOf : Selector → PathState → Nat
  | .qosCsel => PathState.qosCsel
  | .cryEpochSel => PathState.cryEpochSel
  | .nocMpSel => PathState.nocMpSel

/-- A path's selector set from the word written. -/
def setSel (sel : Selector) (v : Nat) (x : PathState) : PathState :=
  match sel with
  | .qosCsel => { x with qosCsel := v % 2 ^ Reg.QOS_CSEL_SLOT.w }
  | .cryEpochSel => { x with cryEpochSel := v % 2 ^ 16 }
  | .nocMpSel => { x with nocMpSel := v % 2 ^ 6 }

theorem selOffset_lt (sel : Selector) : selOffset sel < 0xC0000 := by cases sel <;> decide

theorem selOffset_aligned (sel : Selector) : selOffset sel % 4 = 0 := by cases sel <;> rfl

theorem findRow_selOffset (sel : Selector) : ∃ r, Reg.findRow (selOffset sel) Reg.rows = some (r, 0, 0) ∧ r.base = selOffset sel :=
  exists_findRow (by cases sel <;> decide +kernel)

theorem writeWord_selector (p : Path) (sel : Selector) (v : Word) (s : State) :
    writeWord p (selOffset sel) v s = s.updPath (Path.key p) (setSel sel v.toNat) := by
  obtain ⟨r, hr, hb⟩ := findRow_selOffset sel
  apply writeWord_effect p v (selOffset_lt sel) hr
  · rw [hb]; cases sel <;> rfl
  · rw [hb]; cases sel <;> decide
  · rw [hb]; cases sel <;> decide
  · cases sel <;> simp only [writeEffect, hb] <;> rfl

theorem view_selector (p : Path) (sel : Selector) (s : State) :
    s.view p (selOffset sel) = BitVec.ofNat 32 (selOf sel (s.path (Path.key p))) := by
  obtain ⟨r, hr, hb⟩ := findRow_selOffset sel
  simp only [State.view, hr, hb]
  cases sel <;> rfl

theorem readWord_selector (p : Path) (sel : Selector) (s : State) :
    readWord p (selOffset sel) s = (BitVec.ofNat 32 (selOf sel (s.path (Path.key p))), s) := by
  have := selOffset_lt sel
  rw [readWord_single p s (by omega) (by cases sel <;> decide +kernel) (by cases sel <;> decide +kernel), view_selector]

/-- How many values a selector takes. -/
def selSize : Selector → Nat
  | .qosCsel | .nocMpSel => 64
  | .cryEpochSel => 65536

theorem selOf_setSel (sel : Selector) (v : Nat) (x : PathState) : selOf sel (setSel sel v x) = v % selSize sel := by cases sel <;> rfl

section
variable {p : Path} (sel : Selector) {s : State} (hc : calm s = true) (h : awakeAt (selOffset sel) s)
include hc h

/-- A selector write through a path sets that path's selector and nothing else of the machine but its answer. -/
theorem exec_selectorWrite (v : BitVec 32) : ∃ t, exec (.selectorWrite p sel v) s = .next t ∧
    selOf sel (t.path (Path.key p)) = v.toNat % selSize sel ∧
    (∀ k, k ≠ Path.key p → t.path k = s.path k) ∧ onlyRegs [] s t := by
  have hx : exec (.selectorWrite p sel v) s = done (writeAccess p (selOffset sel) .w32 (v.setWidth 64) s) := by cases sel <;> rfl
  have hv : (v.setWidth 64).setWidth 32 = v := by bv_omega
  refine ⟨(s.updPath (Path.key p) (setSel sel v.toNat)).emit (.regDone p (selOffset sel)), ?_, ?_, ?_, onlyRegs_nil rfl rfl rfl⟩
  · rw [hx, done_writeAccess_w32 p _ (selOffset_aligned sel) h (writeWord_selector p sel _ s) (by rw [calm_updPath, hc]), hv]
  · rw [State.path_emit, State.path_updPath_same, selOf_setSel]
  · intro k hk
    rw [State.path_emit, State.path_updPath_ne s _ hk]

theorem exec_read_selector : ∃ t, exec (.loHalfRead p (selOffset sel) .w32) s = .next t ∧
    t.out = .regRead p (selOffset sel) (selOf sel (s.path (Path.key p)) % 2 ^ 32) :: s.out := by
  refine ⟨_, done_readAccess_awake p (selOffset_aligned sel) h (readWord_selector p sel s) hc, ?_⟩
  rw [BitVec.toNat_ofNat]
  rfl

end

theorem awakeAt_qosCsel (s : State) : awakeAt (selOffset .qosCsel) s := awakeAt_keepIsland s (by decide)

theorem awakeAt_cryEpochSel {s : State} (hf : s.domFenced 134 = false) : awakeAt (selOffset .cryEpochSel) s :=
  awakeAt_vault (by decide) (by decide) hf

theorem awakeAt_nocMpSel {s : State} (hf : s.domFenced 142 = false) : awakeAt (selOffset .nocMpSel) s :=
  awakeAt_grid (by decide) (by decide) hf

/-- Settles O9: each selector is an entry of the path's own state, which a write sets and a read returns. -/
theorem selectorPerPath : Obligations.SelectorPerPath :=
  ⟨fun _ v _ hc => exec_selectorWrite .qosCsel hc (awakeAt_qosCsel _) v,
   fun _ v _ hc hf => exec_selectorWrite .cryEpochSel hc (awakeAt_cryEpochSel hf) v,
   fun _ v _ hc hf => exec_selectorWrite .nocMpSel hc (awakeAt_nocMpSel hf) v,
   fun _ _ hc => exec_read_selector .qosCsel hc (awakeAt_qosCsel _),
   fun _ _ hc hf => exec_read_selector .cryEpochSel hc (awakeAt_cryEpochSel hf),
   fun _ _ hc hf => exec_read_selector .nocMpSel hc (awakeAt_nocMpSel hf)⟩

/-! ### Pairs (R17, R479) -/

/-- R17: a read of an _LO register answers it and leaves the high half latched on the path that read it. -/
theorem exec_loHalfRead (p : Path) {a : Nat} {s : State} (hc : calm s = true) (hlo : isLo a = true) (h : awakeAt a s) :
    ∃ t, exec (.loHalfRead p a .w32) s = .next t ∧ t.out = .regRead p a (s.view p a).toNat :: s.out ∧
      SMap.get none (t.path (Path.key p)).latch a = some (s.view p (a + 4)) ∧ onlyRegs [] s t ∧ (∀ k, k ≠ Path.key p → t.path k = s.path k) := by
  refine ⟨_, done_readAccess_awake p (aligned_of_isLo hlo) h (readWord_lo p s hlo) (by rw [calm_updPath, hc]), rfl, ?_,
    onlyRegs_nil rfl rfl rfl, fun k hk => ?_⟩
  · rw [State.path_emit, State.path_updPath_same, SMap.get_put_same]
  · rw [State.path_emit, State.path_updPath_ne s _ hk]

/-- R17: a read of an _HI register answers the half that its path latched, and the latch is empty after it. -/
theorem exec_hiHalfRead_latched (p : Path) {a : Nat} {v : Word} {s : State} (hc : calm s = true) (hlo : isLo a = true) (h : awakeAt (a + 4) s)
    (hl : SMap.get none (s.path (Path.key p)).latch a = some v) :
    ∃ t, exec (.hiHalfRead p (a + 4)) s = .next t ∧ t.out = .regRead p (a + 4) v.toNat :: s.out ∧
      SMap.get none (t.path (Path.key p)).latch a = none ∧ onlyRegs [] s t := by
  have ha := aligned_of_isLo hlo
  refine ⟨_, done_readAccess_awake p (show (a + 4) % 4 = 0 by omega) h (readWord_hi_latched p s hlo hl) (by rw [calm_updPath, hc]), rfl, ?_,
    onlyRegs_nil rfl rfl rfl⟩
  rw [State.path_emit, State.path_updPath_same, SMap.get_put_same]

theorem exec_hiHalfRead_unlatched (p : Path) {a : Nat} {s : State} (hc : calm s = true) (hlo : isLo a = true) (h : awakeAt (a + 4) s)
    (hl : SMap.get none (s.path (Path.key p)).latch a = none) :
    ∃ t, exec (.hiHalfRead p (a + 4)) s = .next t ∧ t.out = .regRead p (a + 4) (s.view p (a + 4)).toNat :: s.out ∧ onlyRegs [] s t := by
  have ha := aligned_of_isLo hlo
  exact ⟨_, done_readAccess_awake p (show (a + 4) % 4 = 0 by omega) h (readWord_hi_unlatched p s hlo hl) hc, rfl,
    onlyRegs_nil rfl rfl rfl⟩

theorem rowPlace_ctr : ∀ k : Fin 96, rowPlace (Reg.PMU_CTR_LO k) = some (Reg.PMU_CTR_LO 0, 0, k.val) ∧
    rowPlace (Reg.PMU_CTR_HI k) = some (Reg.PMU_CTR_HI 0, 0, k.val) ∧ rowMasks (Reg.PMU_CTR_HI k) = some (0xFFFF, 0, 0) := by decide +kernel

theorem findRow_ctrLo (i : Fin 96) : ∃ r, Reg.findRow (Reg.PMU_CTR_LO i) Reg.rows = some (r, 0, i.val) ∧ r.base = Reg.PMU_CTR_LO 0 :=
  exists_findRow (rowPlace_ctr i).1

theorem findRow_ctrHi (i : Fin 96) : ∃ r, Reg.findRow (Reg.PMU_CTR_HI i) Reg.rows = some (r, 0, i.val) ∧ r.base = Reg.PMU_CTR_HI 0 ∧
    r.rw = 0xFFFF ∧ r.rws = 0 ∧ r.w1c = 0 := by
  obtain ⟨-, hplace, hmasks⟩ := rowPlace_ctr i
  obtain ⟨r, hr, hb⟩ := exists_findRow hplace
  rw [rowMasks_eq hr] at hmasks
  simp only [Option.some.injEq, Prod.mk.injEq] at hmasks
  exact ⟨r, hr, hb, hmasks⟩

/-- The plaza may write the PMU's registers (R488). -/
theorem mayWrite_pmu {a b : Nat} (s : State) (i j : Nat) (ha : 0x50000 ≤ a ∧ a < 0x60000) (hb : 0x50000 ≤ b ∧ b < 0x60000) :
    s.mayWrite .plaza a b i j = true := by
  have hp : plazaReg a = false := by
    simp [plazaReg, Reg.NOC_RT_ADDR, Reg.NOC_RT_DATA, Reg.NOC_RT_CTL, Reg.DCM_SVC]
    omega
  simp [State.mayWrite, hp, hb, State.pmuPath]

/-- A store to a register whose low half is RW and whose high half is reserved. -/
theorem storeMasked_low16 {r : Reg.Row} (a v : Nat) (s : State) (hrw : r.rw = 0xFFFF) (hrws : r.rws = 0) (hw1c : r.w1c = 0) :
    storeMasked r a v 0 s = s.setReg a (BitVec.ofNat 32 ((s.reg a).toNat - (s.reg a).toNat % 2 ^ 16 + v % 2 ^ 16)) := by
  have hmask (x : Nat) : x &&& 65535 = x % 2 ^ 16 := Nat.and_two_pow_sub_one_eq_mod x 16
  simp [storeMasked, hrw, hrws, hw1c, hmask]

/-- R479: the pair written through its _HI half, with the _LO half that the path holds. -/
theorem writePair_ctr {p : Path} {i : Nat} {r : Reg.Row} {x : Word} (v : Nat) {s : State} (hrw : r.rw = 0xFFFF) (hrws : r.rws = 0)
    (hw1c : r.w1c = 0) (hx : SMap.get none (s.path (Path.key p)).held (Reg.PMU_CTR_LO i) = some x) :
    writePair p r (Reg.PMU_CTR_HI i) v s =
      ((s.updPath (Path.key p) fun y => { y with held := SMap.put none y.held (Reg.PMU_CTR_LO i) none }).setReg (Reg.PMU_CTR_LO i) x).setReg
        (Reg.PMU_CTR_HI i) (BitVec.ofNat 32 ((s.reg (Reg.PMU_CTR_HI i)).toNat - (s.reg (Reg.PMU_CTR_HI i)).toNat % 2 ^ 16 + v % 2 ^ 16)) := by
  have hlo : Reg.PMU_CTR_HI i - 4 = Reg.PMU_CTR_LO i := by simp only [Reg.PMU_CTR_HI, Reg.PMU_CTR_LO]; omega
  have hne : Reg.PMU_CTR_HI i ≠ Reg.PMU_CTR_LO i := by simp only [Reg.PMU_CTR_HI, Reg.PMU_CTR_LO]; omega
  simp only [writePair, hlo, hx, storeMasked_low16 _ _ _ hrw hrws hw1c, State.reg_setReg_ne _ _ hne, State.updPath_reg]

/-- The 48-bit value of a pair whose _HI half keeps its reserved bits. -/
theorem pair48_eq (x old v : Nat) (hx : x < 2 ^ 32) (hold : old < 2 ^ 32) :
    (x + 2 ^ 32 * ((old - old % 2 ^ 16 + v % 2 ^ 16) % 2 ^ 32)) % 2 ^ 48 = x + 2 ^ 32 * (v % 2 ^ 16) := by omega

/-- R17: a write to PMU_CTR_LO is held on the plaza's path, and no register changes. -/
theorem exec_write_ctrLo (i : Fin 96) (v : BitVec 64) {s : State} (hc : calm s = true) :
    ∃ t, exec (.registerWrite .plaza (Reg.PMU_CTR_LO i) .w32 v) s = .next t ∧
      SMap.get none (t.path 4).held (Reg.PMU_CTR_LO i) = some (v.setWidth 32) ∧ onlyRegs [] s t := by
  obtain ⟨r, hr, hb⟩ := findRow_ctrLo i
  have ha : Reg.PMU_CTR_LO i = 0x50800 + 8 * i.val := rfl
  have hw := writeWord_held .plaza (v.setWidth 32) (s := s) (by omega) hr (mayWrite_pmu s _ _ (by omega) (by rw [hb]; decide)) hb
  refine ⟨_, done_writeAccess_w32 .plaza v (by omega) (awakeAt_keepIsland s (by omega)) hw (by rw [calm_updPath, hc]), ?_, onlyRegs_nil rfl rfl rfl⟩
  rw [State.path_emit]
  simp only [Path.key, State.path_updPath_same, SMap.get_put_same]

/-- R479: the 48-bit value takes effect with the write of its _HI half. -/
theorem exec_pairHiWrite_ctr (i : Fin 96) (v : BitVec 32) {x : Word} {s : State} (hc : calm s = true)
    (hx : SMap.get none (s.path 4).held (Reg.PMU_CTR_LO i) = some x) :
    ∃ t, exec (.pairHiWrite .plaza (Reg.PMU_CTR_HI i) v) s = .next t ∧ t.ctr i % 2 ^ 48 = x.toNat + 2 ^ 32 * (v.toNat % 2 ^ 16) ∧
      onlyRegs [Reg.PMU_CTR_LO i, Reg.PMU_CTR_HI i] s t := by
  obtain ⟨r, hr, hb, hrw, hrws, hw1c⟩ := findRow_ctrHi i
  have ha : Reg.PMU_CTR_HI i = 0x50804 + 8 * i.val := rfl
  have hne : Reg.PMU_CTR_LO i ≠ Reg.PMU_CTR_HI i := by simp only [Reg.PMU_CTR_HI, Reg.PMU_CTR_LO]; omega
  have hv : ((v.setWidth 64).setWidth 32).toNat = v.toNat := by bv_omega
  have hw := writeWord_pair .plaza ((v.setWidth 64).setWidth 32) (s := s) (by omega) hr (mayWrite_pmu s _ _ (by omega) (by rw [hb]; decide)) hb
  rw [hv, writePair_ctr _ hrw hrws hw1c hx] at hw
  refine ⟨_, done_writeAccess_w32 .plaza (v.setWidth 64) (by omega) (awakeAt_keepIsland s (by omega)) hw (by simp [hc]), ?_, ?_, ?_⟩
  · simp only [State.ctr, State.pair, State.emit_reg, State.reg_setReg_ne _ _ hne, State.reg_setReg_same, BitVec.toNat_ofNat]
    exact pair48_eq _ _ _ x.isLt (BitVec.isLt _)
  · intro b hb
    simp only [List.mem_cons, List.not_mem_nil, or_false, not_or] at hb
    simp only [State.emit_reg, State.reg_setReg_ne _ _ hb.1, State.reg_setReg_ne _ _ hb.2, State.updPath_reg]
  · exact sameMemory_of_tiers rfl rfl

/-- Settles O8: the latch and the held half are entries of the path's own state under the _LO register's offset. -/
theorem pairsReadAndWritten : Obligations.PairsReadAndWritten :=
  ⟨fun p _ _ hc hlo hb hw => exec_loHalfRead p hc hlo ⟨hb, hw⟩,
   fun p _ _ _ hc hlo hb hw hl => exec_hiHalfRead_latched p hc hlo ⟨hb, hw⟩ hl,
   fun p _ _ hc hlo hb hw hl => exec_hiHalfRead_unlatched p hc hlo ⟨hb, hw⟩ hl,
   fun i v _ hc => exec_write_ctrLo i v hc,
   fun i v _ _ hc hx => exec_pairHiWrite_ctr i v hc hx⟩

/-! ### Writes that are dropped (R15, R16, Table 18.3) -/

/-- The registers of R16 that a head may not write. -/
def headClosed : List Nat := [Reg.RST_CMD, Reg.CLK_CFG, Reg.SUP_CFG, Reg.SUP_CMD, Reg.FLT_CFG, Reg.FLT_INJ]

theorem headClosed_facts : ∀ a ∈ headClosed, a % 4 = 0 ∧ 0x20000 ≤ a ∧ a < 0x70000 ∧ plazaReg a = true ∧ rowPlace a = some (a, 0, 0) := by
  decide +kernel

theorem writeWord_headClosed (h : Fin 4) (k : Fin 16) {a : Nat} (v : Word) (s : State) (ha : a ∈ headClosed) :
    writeWord (.head h k) a v s = s.accessFault := by
  obtain ⟨-, -, hlt, hp, hplace⟩ := headClosed_facts a ha
  obtain ⟨r, hr, -⟩ := exists_findRow hplace
  refine writeWord_refused _ v (by omega) hr ?_
  simp only [State.mayWrite, hp, if_true]
  rfl

theorem exec_write_headClosed (h : Fin 4) (k : Fin 16) (v : BitVec 64) {a : Nat} (s : State) (ha : a ∈ headClosed) :
    exec (.registerWrite (.head h k) a .w32 v) s = .next (settled ((s.report 0x1D 0).emit (.regDone (.head h k) a))) := by
  obtain ⟨h4, hge, hlt, -, -⟩ := headClosed_facts a ha
  have hw := writeAccess_w32 (.head h k) v h4 (awakeAt_keepIsland s (Or.inr ⟨hge, hlt⟩))
  rw [writeWord_headClosed h k _ s ha] at hw
  exact congrArg done hw

/-- The rows below the keep island's own blocks are those of IDG. -/
theorem rows_base : ∀ r ∈ Reg.rows, 0x10000 ≤ r.base ∨ r.inst = 1 ∧ r.count = 1 ∧ r.base < 0x20 := by decide +kernel

theorem findRow_above_IDG {a : Nat} (h1 : 0x20 ≤ a) (h2 : a < 0x10000) : Reg.findRow a Reg.rows = none := by
  rw [Option.eq_none_iff_forall_not_mem]
  rintro ⟨r, i, j⟩ hr
  obtain ⟨hmem, hplace⟩ := findRow_eq_some hr
  obtain ⟨hi, hj, ha⟩ := place_eq_some hplace
  rcases rows_base r hmem with hb | ⟨hinst, hcount, hb⟩
  · omega
  · obtain rfl : i = 0 := by omega
    obtain rfl : j = 0 := by omega
    omega

theorem exec_write_unimplemented (p : Path) (v : BitVec 64) {a : Nat} {s : State} (hc : calm s = true) (h4 : a % 4 = 0) (h1 : 0x20 ≤ a)
    (h2 : a < 0x10000) : ∃ t, exec (.registerWrite p a .w32 v) s = .next t ∧ t.out = .regDone p a :: s.out ∧ onlyRegs [] s t :=
  ⟨_, done_writeAccess_w32 p v h4 (awakeAt_keepIsland s (Or.inl h2)) (writeWord_unimplemented p _ s (by omega) (findRow_above_IDG h1 h2)) hc, rfl,
    onlyRegs_nil rfl rfl rfl⟩

/-! ### Accesses to a block that does not answer (R377) -/

theorem exec_blocked_read (p : Path) {a d : Nat} {s : State} (ha : a % 4 = 0) (hb : s.regBlocked a = some d) :
    exec (.fencedRegisterAccess p a none) s = .next (settled ((s.report 0x1F d).emit (.regRead p a 0xFFFFFFFF))) :=
  congrArg done (readAccess_blocked p .w32 ha hb)

theorem exec_blocked_write (p : Path) {a d : Nat} (v : BitVec 32) {s : State} (ha : a % 4 = 0) (hb : s.regBlocked a = some d) :
    exec (.fencedRegisterAccess p a (some v)) s = .next (settled ((s.report 0x1F d).emit (.regDone p a))) :=
  congrArg done (writeAccess_blocked p (v.setWidth 64) ha hb)

theorem NME_CFG_eq (n : Fin 8) : Reg.NME_CFG n = 0x140004 + 0x1000 * n.val := rfl

theorem NME_CFG_aligned (n : Fin 8) : Reg.NME_CFG n % 4 = 0 := by rw [NME_CFG_eq]; omega

theorem spareAt_engine (n : Fin 8) (s : State) : s.spareAt (Reg.NME_CFG n) = false := by
  have ha := NME_CFG_eq n
  simp [State.spareAt, show ¬ Reg.NME_CFG n < 0xE2000 by omega]

theorem regFenced_engine (n : Fin 8) (s : State) : s.regFenced (Reg.NME_CFG n) (122 + n) = s.domFenced (122 + n) :=
  regFenced_eq_domFenced s _ (by have ha := NME_CFG_eq n; omega)

theorem regBlocked_fencedEngine {n : Fin 8} {s : State} (hf : s.domFenced (122 + n) = true) :
    s.regBlocked (Reg.NME_CFG n) = some (122 + n.val) := by
  simp only [State.regBlocked, spareAt_engine, regDomain_engine, regFenced_engine, hf, Bool.false_eq_true, if_false, if_true]

/-! ### A gated engine woken by an access (R375) -/

/-- `t` holds what `s` holds in the registers but those of `l`, in both tiers, the slices and the collector, and has answered nothing more. -/
structure PowerFrame (l : List Nat) (s t : State) : Prop where
  regs : sameRegsBut l s t
  hot : t.hot = s.hot
  cold : t.cold = s.cold
  slices : t.slices = s.slices
  flt : t.flt = s.flt
  out : t.out = s.out

theorem PowerFrame.refl (l : List Nat) (s : State) : PowerFrame l s s := ⟨fun _ _ => rfl, rfl, rfl, rfl, rfl, rfl⟩

section
variable {l : List Nat} {s t : State} (h : PowerFrame l s t)
include h

theorem PowerFrame.withPwr (x : Power) : PowerFrame l s { t with pwr := x } := ⟨h.regs, h.hot, h.cold, h.slices, h.flt, h.out⟩

theorem PowerFrame.setFld {f : Reg.FRef} (x : Nat) (hf : f.addr ∈ l) : PowerFrame l s (t.setFld f x) :=
  ⟨fun a ha => (State.reg_setFld_ne t f x fun he : a = f.addr => ha (he ▸ hf)).trans (h.regs a ha), h.hot, h.cold, h.slices, h.flt, h.out⟩

theorem PowerFrame.setCondOn (d : Nat) : PowerFrame l s (t.setCond d .on) := by
  rw [State.setCond, if_neg (by decide)]
  exact h.withPwr _

theorem PowerFrame.openGates (d : Nat) : PowerFrame l s (openGates d t) := ⟨h.regs, h.hot, h.cold, h.slices, h.flt, h.out⟩

theorem PowerFrame.onlyRegs : onlyRegs l s t := ⟨h.regs, sameMemory_of_tiers h.hot h.cold⟩

theorem PowerFrame.calm (hc : calm s = true) : calm t = true := (calm_congr h.hot h.slices h.flt).trans hc

/-- Recording a wake writes PWR_LAST_WAKE alone. -/
theorem PowerFrame.noteWake (src inst : Nat) (hl : Reg.PWR_LAST_WAKE ∈ l) : PowerFrame l s (noteWake src inst t) := by
  unfold Machine.noteWake
  split
  · split
    · exact (h.setFld _ hl).setFld _ hl
    · exact h
  · exact (((h.setFld _ hl).setFld _ hl).setFld _ hl).withPwr _

end

theorem noteWake_pwr (src inst : Nat) (s : State) : ∃ w, (noteWake src inst s).pwr = { s.pwr with wake := w } := by
  unfold noteWake
  split
  · split
    · exact ⟨s.pwr.wake, by rw [State.setFld_pwr, State.setFld_pwr]⟩
    · exact ⟨s.pwr.wake, rfl⟩
  · exact ⟨some src, by simp only [State.setFld_pwr]⟩

/-- Table 12.2: an engine's domain is On in Trim unless it is fenced. -/
theorem tableCond_engine (n : Fin 8) {s : State} (hf : s.domFenced (122 + n) = false) : s.tableCond 0 (122 + n) = .on := by
  unfold State.tableCond
  rw [hf]
  simp (disch := omega) only [Bool.false_eq_true, if_false, if_neg, if_pos]

theorem upDomain_gatedEngine (n : Fin 8) {s : State} (hf : s.domFenced (122 + n) = false) (hcond : s.cond (122 + n) = .retained) :
    upDomain (122 + n) s = (s.setCond (122 + n) .on).count Reg.PWR_GATE_CNT_COUNT := by
  simp only [upDomain, hf, tableCond_engine n hf, hcond]
  rfl

/-- An engine's domain woken in Trim: the wake recorded, the domain restored, its gates open. -/
def engineWoken (n : Fin 8) (s : State) : State :=
  let s1 := openGates (122 + n) (((noteWake 2 (122 + n) s).setCond (122 + n) .on).count Reg.PWR_GATE_CNT_COUNT)
  { s1 with pwr := { s1.pwr with wake := none } }

theorem engineWoken_frame (n : Fin 8) (s : State) : PowerFrame [Reg.PWR_LAST_WAKE, Reg.PWR_GATE_CNT] s (engineWoken n s) :=
  (((((PowerFrame.refl _ s).noteWake 2 _ (by decide)).setCondOn _).setFld _ (by decide)).openGates _).withPwr _

theorem cond_engineWoken (n : Fin 8) (s : State) : (engineWoken n s).cond (122 + n) = .on :=
  State.cond_setCond_same (noteWake 2 (122 + n) s) (122 + n) .on

theorem move_engineWoken (n : Fin 8) (s : State) : (engineWoken n s).pwr.move = s.pwr.move := by
  obtain ⟨w, hw⟩ := noteWake_pwr 2 (122 + n) s
  have h : (engineWoken n s).pwr.move = ((noteWake 2 (122 + n) s).setCond (122 + n) .on).pwr.move := rfl
  rw [h, State.setCond, if_neg (by decide), hw]

section
variable {n : Fin 8} {s : State} (hf : s.domFenced (122 + n) = false) (hcond : s.cond (122 + n) = .retained)
  (hforced : s.on Reg.PWR_STS_FORCED = false) (hstate : s.fld Reg.PWR_STS_STATE < 2) (hmove : s.pwr.move = .none) (hdowns : s.pwr.downs = [])
include hf hcond hforced hstate hmove hdowns

theorem takeWake_gatedEngine : takeWake 2 (122 + n) (some (122 + n)) s = engineWoken n s := by
  obtain ⟨w, hw⟩ := noteWake_pwr 2 (122 + n) s
  have hflt : (noteWake 2 (122 + n) s).flt = s.flt := ((PowerFrame.refl [Reg.PWR_LAST_WAKE] s).noteWake 2 _ (by decide)).flt
  have hf' : (noteWake 2 (122 + n) s).domFenced (122 + n) = false := by rw [← hf, State.domFenced, State.domFenced, hflt]
  have hcond' : (noteWake 2 (122 + n) s).cond (122 + n) = .retained := by rw [← hcond, State.cond, State.cond, hw]
  have hup : wakeDomain (122 + n) (noteWake 2 (122 + n) s) =
      openGates (122 + n) (((noteWake 2 (122 + n) s).setCond (122 + n) .on).count Reg.PWR_GATE_CNT_COUNT) := by
    simp only [wakeDomain, hw, hdowns, List.find?_nil, upDomain_gatedEngine n hf' hcond']
  simp only [takeWake, hforced, hmove, hcond, hup, show ¬ 2 ≤ s.fld Reg.PWR_STS_STATE by omega, if_false, Bool.false_eq_true]
  rfl

/-- R375: in Trim the access restores the engine's domain and nothing more. -/
theorem wakeBlockAt_gatedEngine : wakeBlockAt (Reg.NME_CFG n) s = engineWoken n s := by
  have hframe := engineWoken_frame n s
  have hst : (engineWoken n s).fld Reg.PWR_STS_STATE = s.fld Reg.PWR_STS_STATE := fld_of_sameRegsBut hframe.regs (by decide)
  have h2 : ¬ s.fld Reg.PWR_STS_STATE = 2 := by omega
  have h3 : ¬ s.fld Reg.PWR_STS_STATE = 3 := by omega
  simp only [wakeBlockAt, spareAt_engine, regDomain_engine, hcond, wakeForAccess, takeWake_gatedEngine hf hcond hforced hstate hmove hdowns, hst, h2, h3,
    move_engineWoken, hmove, false_and, if_false, Bool.false_eq_true]
  rfl

end

theorem regBlocked_gatedEngine {n : Fin 8} {s : State} (hf : s.domFenced (122 + n) = false) (hforced : s.on Reg.PWR_STS_FORCED = false)
    (hlevel : s.fld Reg.RST_STS_LEVEL = 0) : s.regBlocked (Reg.NME_CFG n) = none := by
  simp only [State.regBlocked, spareAt_engine, regDomain_engine, regFenced_engine, hf, hforced, hlevel, bne_self_eq_false, Bool.or_self, Bool.and_false,
    Bool.false_eq_true, if_false]

theorem NME_CFG_facts : ∀ n : Fin 8, rowPlace (Reg.NME_CFG n) = some (Reg.NME_CFG 0, n.val, 0) ∧ isLo (Reg.NME_CFG n) = false ∧
    isHi (Reg.NME_CFG n) = false := by decide +kernel

theorem readWord_NME_CFG (p : Path) (n : Fin 8) (s : State) : readWord p (Reg.NME_CFG n) s = (s.reg (Reg.NME_CFG n), s) := by
  obtain ⟨hplace, hlo, hhi⟩ := NME_CFG_facts n
  obtain ⟨r, hr, hb⟩ := exists_findRow hplace
  have ha := NME_CFG_eq n
  rw [readWord_single p s (by omega) hlo hhi]
  simp only [State.view, hr, hb]
  rfl

theorem exec_read_gatedEngine (p : Path) {n : Fin 8} {s : State} (hc : calm s = true) (hf : s.domFenced (122 + n) = false)
    (hcond : s.cond (122 + n) = .retained) (hforced : s.on Reg.PWR_STS_FORCED = false) (hlevel : s.fld Reg.RST_STS_LEVEL = 0)
    (hstate : s.fld Reg.PWR_STS_STATE < 2) (hmove : s.pwr.move = .none) (hdowns : s.pwr.downs = []) :
    ∃ t, exec (.sleepingRegisterAccess p (Reg.NME_CFG n) none) s = .next t ∧ t.cond (122 + n) = .on ∧
      t.out = .regRead p (Reg.NME_CFG n) (s.reg (Reg.NME_CFG n)).toNat :: s.out ∧ onlyRegs [Reg.PWR_LAST_WAKE, Reg.PWR_GATE_CNT] s t := by
  have hframe := engineWoken_frame n s
  have ha := NME_CFG_eq n
  have hreg : (engineWoken n s).reg (Reg.NME_CFG n) = s.reg (Reg.NME_CFG n) :=
    hframe.regs _ (by simp only [Reg.PWR_LAST_WAKE, Reg.PWR_GATE_CNT, List.mem_cons, List.not_mem_nil, or_false]; omega)
  have hread : readWord p (Reg.NME_CFG n) (wakeBlockAt (Reg.NME_CFG n) s) = (s.reg (Reg.NME_CFG n), engineWoken n s) := by
    rw [wakeBlockAt_gatedEngine hf hcond hforced hstate hmove hdowns, readWord_NME_CFG, hreg]
  refine ⟨_, done_readAccess_w32 p (NME_CFG_aligned n) (regBlocked_gatedEngine hf hforced hlevel) hread (hframe.calm hc), cond_engineWoken n s, ?_,
    hframe.onlyRegs.1, hframe.onlyRegs.2⟩
  rw [← hframe.out]
  rfl

/-- Settles O7: the drops follow from Table 18.3 and from the block that does not answer, the read from the wake of the engine's domain. -/
theorem accessesDroppedOrWoken : Obligations.AccessesDroppedOrWoken :=
  ⟨fun p off v _ s hz => congrArg done (writeAccess_narrow p off v s hz),
   fun h k v _ s ha => exec_write_headClosed h k v s ha,
   fun p v _ _ hc h4 h2 h1 => exec_write_unimplemented p v hc h4 h1 h2,
   fun p _ _ _ ha hb => exec_blocked_read p ha hb,
   fun p _ _ v _ ha hb => exec_blocked_write p v ha hb,
   fun p n _ hf => exec_blocked_read p (NME_CFG_aligned n) (regBlocked_fencedEngine hf),
   fun p n v _ hf => exec_blocked_write p v (NME_CFG_aligned n) (regBlocked_fencedEngine hf),
   fun p _ _ hc hf hcond hforced hlevel hstate hmove hdowns => exec_read_gatedEngine p hc hf hcond hforced hlevel hstate hmove hdowns⟩

end Sys2Proof.Machine

namespace Sys2Proof

/-! ## PROOFS. The home slices and coherence (03_home_slices_and_coherence.md) -/

/-! ### What a sparse store lists -/

variable {α : Type}

theorem SMap.mem_of_get_ne {d : α} {m : SMap α} {x : Nat} (h : SMap.get d m x ≠ d) : (x, SMap.get d m x) ∈ m := by
  induction m with
  | nil => exact absurd rfl h
  | cons e m ih =>
    obtain ⟨k, v⟩ := e
    by_cases hk : x = k
    · simp [SMap.get, hk]
    · simp only [SMap.get, hk, if_false] at h ⊢
      exact List.mem_cons_of_mem _ (ih h)

theorem SMap.mem_put [DecidableEq α] {d : α} {m : SMap α} {x : Nat} {v : α} {e : Nat × α} (h : e ∈ SMap.put d m x v) :
    e = (x, v) ∨ e ∈ m := by
  simp only [SMap.put] at h
  split at h
  · exact .inr (List.mem_filter.1 h).1
  · exact (SMap.mem_insert h).imp_right fun h => (List.mem_filter.1 h).1

end Sys2Proof

namespace Sys2Proof.Machine

open Sys2Proof

/-! ### BAR4 (R99) -/

/-- R99: the widths, the alignment and the window that BAR4 takes. -/
theorem isSome_bar4Op (x n : Nat) (k : AtomicKind) (v c : BitVec 128) :
    (bar4Op x (k, n, v, c)).isSome = true ↔ (n = 4 ∨ n = 8 ∨ (k = .cas ∧ n = 16)) ∧ x % n = 0 ∧ x < gib := by
  delta bar4Op
  cases k <;> simp

theorem execBar4AtomicOp_unsupported {h : Fin 4} {x tag : Nat} {op : Option (AtomicKind × Nat × BitVec 128 × BitVec 128)} {s : State}
    (ht : s.takes h = true) (hno : op.bind (bar4Op x) = none) : execBar4AtomicOp h x tag op s = .next (s.emit (.unsupported h tag)) := by
  simp [execBar4AtomicOp, ht, hno]

theorem execBar4AtomicOp_closed {h : Fin 4} {x tag : Nat} {op : Option (AtomicKind × Nat × BitVec 128 × BitVec 128)} {s : State}
    (ht : s.takes h = true)
    (hno : s.on (Reg.HSC_AWIN_EN h) = false ∨ s.bitOf (Reg.HPA_CFG_LD_MASK h) (s.fld (Reg.HSC_AWIN_LD h)) = false) :
    execBar4AtomicOp h x tag op s = .next (s.emit (.unsupported h tag)) := by
  cases hop : op.bind (bar4Op x) with
  | none => exact execBar4AtomicOp_unsupported ht hop
  | some o =>
    have hc : (!s.on (Reg.HSC_AWIN_EN h) || !s.bitOf (Reg.HPA_CFG_LD_MASK h) (s.fld (Reg.HSC_AWIN_LD h))) = true := by
      rcases hno with hno | hno <;> simp [hno]
    simp only [execBar4AtomicOp, ht, hop, hc, if_true, Bool.not_true, Bool.false_eq_true, if_false]

/-! ### A request that a head takes into its pen (R60, R61) -/

theorem serving_iff (s : State) : serving s = true ↔
    s.fld Reg.PWR_STS_STATE < 2 ∧ s.pwr.move = .none ∧ s.flt.halt = false ∧ calm s = true := by
  simp [serving, and_assoc]

/-- In Active and Trim a data-path request restarts the idle time and wakes nothing. -/
theorem dataWake_awake {h : Nat} {s : State} (hst : s.fld Reg.PWR_STS_STATE < 2) (hm : s.pwr.move = .none) :
    ∃ p, dataWake h s = { s with pwr := p } := by
  simp only [dataWake, hst, hm, true_and, beq_self_eq_true, if_true]
  exact ⟨_, rfl⟩

/-- The grid and the heads are all that an injection from a pen changes. -/
theorem inject_eq (h id : Nat) (s : State) : ∃ fl hs, inject h id s = { s with flight := fl, heads := hs } := by
  unfold inject
  split
  · exact ⟨s.flight, s.heads, rfl⟩
  · exact ⟨_, _, rfl⟩

@[simp] theorem State.head_updHead_same (s : State) (h : Nat) (f : Head → Head) : (s.updHead h f).head h = f (s.head h) :=
  SMap.get_upd_same _ s.heads h f

theorem penReqs_updPen (h id : Nat) (f : PenEntry → PenEntry) (s : State) (hf : ∀ e, (f e).req = e.req) :
    (updPen h id f s).penReqs h = s.penReqs h := by
  simp only [State.penReqs, updPen, State.head_updHead_same, List.map_map]
  refine List.map_congr_left fun e _ => ?_
  simp only [Function.comp_apply, apply_ite PenEntry.req, hf, ite_self]

/-- An injected request keeps its place in the pen. -/
theorem penReqs_inject (h id : Nat) (s : State) : (inject h id s).penReqs h = s.penReqs h := by
  unfold inject
  split
  · rfl
  · exact penReqs_updPen h id _ _ fun _ => rfl

theorem penAdd_eq (h : Nat) (r : Req) (s : State) : ∃ fl hs, penAdd h r s = { s with flight := fl, heads := hs } := by
  unfold penAdd
  simp only
  split
  · exact ⟨_, _, rfl⟩
  · obtain ⟨fl, hs, he⟩ := inject_eq h r.id (s.updHead h fun x => { x with pen := x.pen ++ [{ req := r }] })
    exact ⟨fl, hs, he⟩

/-- A request that enters the pen is its newest. -/
theorem penReqs_penAdd (h : Nat) (r : Req) (s : State) : (penAdd h r s).penReqs h = s.penReqs h ++ [r] := by
  have hadd : (s.updHead h fun x => { x with pen := x.pen ++ [{ req := r }] }).penReqs h = s.penReqs h ++ [r] := by
    simp [State.penReqs]
  unfold penAdd
  simp only
  split
  · exact hadd
  · rw [penReqs_inject, hadd]

/-- R267, R268: taking a request in charges its cinch's rein, counts bytes and puts the request into the pen. -/
theorem takeIn_eq (h k a : Nat) (kind : ReqKind) (data : Line) (mask : BitVec 64) (poison : Bool) (m : MetaValue) (tag : Nat) (s : State) :
    ∃ r id qos pmu, takeIn h k a kind data mask poison m tag s = penAdd h r { s with nextId := id, qos := qos, pmu := pmu } ∧
      r.kind = kind ∧ r.gpn = s.gpnOf k a ∧ r.tag = tag := by
  unfold takeIn
  cases s.cinchFor k a <;> cases kind <;> exact ⟨_, _, _, _, rfl, rfl, rfl, rfl⟩

theorem request_atomic_reachable {h k a tag : Nat} {o : AtomicOp} {ret : Bool} {data : Line} {mask : BitVec 64} {poison : Bool} {m : MetaValue} {s : State}
    (hh : s.flt.halt = false) (hr : s.reachable k a = true) (hf : s.isFrozen k a = false) :
    request h k (some a) (.atomic o ret) data mask poison m tag s = takeIn h k a (.atomic o ret) data mask poison m tag s := by
  simp [request, hh, hr, hf]

/-- R99: an AtomicOp that BAR4 takes enters the pen. -/
theorem exec_bar4AtomicOp_taken {h : Fin 4} {x tag : Nat} {op : AtomicKind × Nat × BitVec 128 × BitVec 128} {o : AtomicOp} {s : State}
    (hs : serving s = true) (ht : s.takes h = true) (hop : bar4Op x op = some o) (hen : s.on (Reg.HSC_AWIN_EN h) = true)
    (hld : s.bitOf (Reg.HPA_CFG_LD_MASK h) (s.fld (Reg.HSC_AWIN_LD h)) = true)
    (hr : s.reachable (s.fld (Reg.HSC_AWIN_LD h)) (s.fld (Reg.HSC_AWIN_DPA_GIB h) * gib + x) = true)
    (hf : s.isFrozen (s.fld (Reg.HSC_AWIN_LD h)) (s.fld (Reg.HSC_AWIN_DPA_GIB h) * gib + x) = false) :
    ∃ t, exec (.bar4AtomicOp h x tag (some op)) s = .next t ∧ onlyRegs [] s t ∧ ∃ r, t.penReqs h = s.penReqs h ++ [r] ∧
      r.kind = .atomic o true ∧ r.gpn = s.gpnOf (s.fld (Reg.HSC_AWIN_LD h)) (s.fld (Reg.HSC_AWIN_DPA_GIB h) * gib + x) ∧ r.tag = tag := by
  obtain ⟨hst, hm, hh, hc⟩ := (serving_iff s).1 hs
  obtain ⟨p, hwake⟩ := dataWake_awake (h := h) hst hm
  obtain ⟨r, id, qos, pmu, htake, hkind, hgpn, htag⟩ := takeIn_eq h (s.fld (Reg.HSC_AWIN_LD h)) (s.fld (Reg.HSC_AWIN_DPA_GIB h) * gib + x)
    (.atomic o true) 0 0 false .invalid tag { s with pwr := p }
  obtain ⟨fl, hs, hadd⟩ := penAdd_eq h r { s with pwr := p, nextId := id, qos := qos, pmu := pmu }
  have hexec : exec (.bar4AtomicOp h x tag (some op)) s = done (penAdd h r { s with pwr := p, nextId := id, qos := qos, pmu := pmu }) := by
    rw [← htake, ← request_atomic_reachable (s := { s with pwr := p }) hh hr hf, ← hwake]
    simp [exec, execBar4AtomicOp, ht, hop, hen, hld]
  rw [hadd] at hexec
  exact ⟨_, hexec.trans (done_of_calm _ ((calm_congr rfl rfl rfl).trans hc)), onlyRegs_nil rfl rfl rfl, r,
    (congrArg (State.penReqs · h) hadd.symm).trans (penReqs_penAdd h r _), hkind, hgpn, htag⟩

/-- Settles O12. Clause 1 holds under the host's Viral too, which is the model's choice (log entry 91). -/
theorem bar4TakesAtomics : Obligations.Bar4TakesAtomics :=
  ⟨fun _ _ _ _ _ _ hs ht hop hen hld hr hf => exec_bar4AtomicOp_taken hs ht hop hen hld hr hf,
   isSome_bar4Op,
   fun _ _ _ _ _ ht hno => execBar4AtomicOp_unsupported ht hno,
   fun _ _ _ _ _ ht hno => execBar4AtomicOp_closed ht hno⟩

/-! ### Time that passes (R422) -/

theorem counted_eq (s : State) (n : Nat) : ∃ c, (s.counted n).2 = { s with clocks := c } := by
  unfold State.counted
  split
  · split
    · exact ⟨s.clocks, rfl⟩
    · exact ⟨_, rfl⟩
  · exact ⟨s.clocks, rfl⟩

/-- R422, R425: time that passes is counted, a running slew takes its part, and the rest goes to TIME_NS. -/
theorem advance_eq (s : State) {n : Nat} (hn : 0 < n) : ∃ u d,
    (u = (s.counted n).2 ∨ u = ((s.counted n).2.slewed (s.counted n).1).2) ∧ s.advance n = ({ u with clk := u.clk + n } : State).setTime d := by
  by_cases hrem : (s.counted n).2.clocks.slewRem = 0
  · refine ⟨_, (s.counted n).2.time + ((s.counted n).1 - 0), .inl rfl, ?_⟩
    simp only [State.advance, Nat.ne_of_gt hn, if_false, hrem, if_true]
  · refine ⟨_, ((s.counted n).2.slewed (s.counted n).1).2.time + ((s.counted n).1 - ((s.counted n).2.slewed (s.counted n).1).1), .inr rfl, ?_⟩
    simp only [State.advance, Nat.ne_of_gt hn, if_false, hrem]

/-- Between `s` and `t` time has passed and nothing else has happened: the clocks ran on, and the registers of module time with them. -/
structure Lapsed (s t : State) : Prop where
  rest : t = { s with regs := t.regs, clocks := t.clocks, clk := t.clk }
  regs : sameRegsBut timeRegs s t

theorem Lapsed.refl (s : State) : Lapsed s s := ⟨rfl, fun _ _ => rfl⟩

section
variable {s t : State} (h : Lapsed s t)
include h

theorem Lapsed.setReg {a : Nat} (v : Word) (ha : a ∈ timeRegs) : Lapsed s (t.setReg a v) :=
  ⟨congrArg (fun u => u.setReg a v) h.rest,
   fun b hb => (State.reg_setReg_ne t v fun he : b = a => hb (he ▸ ha)).trans (h.regs b hb)⟩

theorem Lapsed.setTime (n : Nat) : Lapsed s (t.setTime n) := (h.setReg _ (by decide)).setReg _ (by decide)

theorem Lapsed.withClocks (c : Clocks) (n : Nat) : Lapsed s { t with clocks := c, clk := n } :=
  ⟨congrArg (fun u : State => { u with clocks := c, clk := n }) h.rest, h.regs⟩

theorem Lapsed.counted (n : Nat) : Lapsed s (t.counted n).2 := by
  obtain ⟨c, hc⟩ := counted_eq t n
  rw [hc]
  exact h.withClocks c t.clk

theorem Lapsed.slewed (n : Nat) : Lapsed s (t.slewed n).2 := (h.withClocks _ t.clk).setReg _ (by decide)

theorem Lapsed.advance (n : Nat) : Lapsed s (t.advance n) := by
  rcases Nat.eq_zero_or_pos n with rfl | hn
  · exact h
  · obtain ⟨u, d, hu, he⟩ := advance_eq t hn
    rw [he]
    have hu : Lapsed s u := by
      rcases hu with rfl | rfl
      · exact h.counted n
      · exact (h.counted n).slewed _
    exact (hu.withClocks u.clocks _).setTime d

theorem Lapsed.slices : t.slices = s.slices := by rw [h.rest]
theorem Lapsed.hot : t.hot = s.hot := by rw [h.rest]
theorem Lapsed.cold : t.cold = s.cold := by rw [h.rest]
theorem Lapsed.flt : t.flt = s.flt := by rw [h.rest]
theorem Lapsed.flight : t.flight = s.flight := by rw [h.rest]
theorem Lapsed.takeovers : t.takeovers = s.takeovers := by rw [h.rest]
theorem Lapsed.slice (n : Nat) : t.slice n = s.slice n := by rw [State.slice, State.slice, h.slices]

end

theorem advance_clk (s : State) (n : Nat) : (s.advance n).clk = s.clk + n := by
  rcases Nat.eq_zero_or_pos n with rfl | hn
  · rfl
  · obtain ⟨u, d, hu, he⟩ := advance_eq s hn
    have hu : u.clk = s.clk := by
      obtain ⟨c, hc⟩ := counted_eq s n
      rw [hc] at hu
      rcases hu with rfl | rfl <;> rfl
    rw [he, State.setTime_clk, hu]

theorem lapsed_until (s : State) (n : Nat) : Lapsed s (s.until n) := (Lapsed.refl s).advance _

theorem le_until_clk (s : State) (n : Nat) : n ≤ (s.until n).clk := by
  rw [State.until, advance_clk]
  omega

/-- The registers of the slices and of their common part lie above those of module time. -/
theorem not_timeRegs_of_slice {a : Nat} (h : 0xC0000 ≤ a) : a ∉ timeRegs := by
  simp only [timeRegs, Reg.TIME_NS_LO, Reg.TIME_NS_HI, Reg.TIME_SLEW_REM, List.mem_cons, List.not_mem_nil, or_false]
  omega

/-! ### Counters -/

/-- A counter field reads its old value advanced, up to the greatest that it holds. -/
theorem State.fld_count_same (s : State) {f : Reg.FRef} (n : Nat) (h : inWord f) : (s.count f n).fld f = satAdd f.w (s.fld f) n := by
  rw [State.count, State.fld_setFld_same s f _ h, Nat.mod_eq_of_lt]
  have := Nat.two_pow_pos f.w
  have : satAdd f.w (s.fld f) n ≤ 2 ^ f.w - 1 := Nat.min_le_right _ _
  omega

/-! ### Tickets (R76, R77) -/

theorem State.slice_updSlice_same (s : State) (n : Nat) (f : Slice → Slice) : (s.updSlice n f).slice n = f (s.slice n) :=
  SMap.get_upd_same _ s.slices n f

/-- R77: at the end of its microsecond the holder loses the ticket, in the grid and in the pens. -/
theorem execTicketForfeit_eq {sl : Fin 34} {key : Nat} {x : Ticket} {s : State} (hx : s.ticketAt sl key = some x) :
    ∃ fl hs, execTicketForfeit sl key s =
      .next (advanceTicket sl key { (s.until (x.since + 1000)).count (Reg.HSL_TKT_STS_FORFEIT sl) with flight := fl, heads := hs }) := by
  unfold execTicketForfeit
  rw [hx]
  exact ⟨_, _, rfl⟩

theorem exec_ticketForfeit {sl : Fin 34} {key : Nat} {x : Ticket} {s : State} (hx : s.ticketAt sl key = some x) :
    ∃ t, exec (.ticketForfeit sl key) s = .next t ∧ x.since + 1000 ≤ t.clk ∧
      t.fld (Reg.HSL_TKT_STS_FORFEIT sl) = satAdd (Reg.HSL_TKT_STS_FORFEIT sl).w (s.fld (Reg.HSL_TKT_STS_FORFEIT sl)) 1 ∧
      (t.slice sl).tickets = (((s.slice sl).tickets.map fun y => if y.key = key then { y with serve := y.serve + 1, since := t.clk } else y).filter
        fun y => y.serve != y.issue) ∧ sameMemory s t := by
  obtain ⟨fl, hs, he⟩ := execTicketForfeit_eq hx
  have hl := lapsed_until s (x.since + 1000)
  have hclk := le_until_clk s (x.since + 1000)
  generalize s.until (x.since + 1000) = u at he hl hclk
  refine ⟨_, he, hclk, ?_, ?_, sameMemory_of_tiers hl.hot hl.cold⟩
  · have hsl : 0xC0000 ≤ (Reg.HSL_TKT_STS_FORFEIT sl).addr := by simp only [Reg.HSL_TKT_STS_FORFEIT, Reg.HSL_TKT_STS]; omega
    rw [← fld_of_sameRegsBut hl.regs (not_timeRegs_of_slice hsl)]
    exact u.fld_count_same 1 (show 16 + 16 ≤ 32 by omega)
  · rw [advanceTicket, State.slice_updSlice_same, ← hl.slice]
    rfl

/-! ### Transactions that wait for their turn, and tickets -/

/-- Every open transaction of a slice that is changed but for its line table is one of before. -/
theorem exists_mem_slices_of_updSlice {s : State} {n : Nat} {f : Slice → Slice} (hf : ∀ x, (f x).txns = x.txns) {e : Nat × Slice} {t : Txn}
    (he : e ∈ (s.updSlice n f).slices) (ht : t ∈ e.2.txns) : ∃ e' ∈ s.slices, t ∈ e'.2.txns := by
  rcases SMap.mem_put he with rfl | he
  · rw [hf] at ht
    refine ⟨(n, s.slice n), SMap.mem_of_get_ne fun hd => ?_, ht⟩
    rw [hd] at ht
    exact List.not_mem_nil ht
  · exact ⟨e, he, ht⟩

theorem waitingLines_eq_nil_iff (s : State) : s.waitingLines = [] ↔ ∀ e ∈ s.slices, ∀ t ∈ e.2.txns,
    (t.phase == .order || (t.phase == .victim && t.victim.isNone) || (t.phase == .fill && (s.fillOf t.req.gpn).isNone)) = false := by
  simp only [State.waitingLines, List.flatMap_eq_nil_iff, List.map_eq_nil_iff, List.filter_eq_nil_iff, Bool.not_eq_true]

/-- A slice changed but for its line table leaves a calm state calm. -/
theorem calm_updSlice {s : State} {n : Nat} {f : Slice → Slice} (hf : ∀ x, (f x).txns = x.txns) (h : calm s = true) :
    calm (s.updSlice n f) = true := by
  obtain ⟨hd, hw, hi, he⟩ := (calm_iff s).1 h
  refine (calm_iff _).2 ⟨hd, ?_, hi, he⟩
  rw [waitingLines_eq_nil_iff] at hw ⊢
  intro e he t ht
  obtain ⟨e', he', ht'⟩ := exists_mem_slices_of_updSlice hf he ht
  exact hw e' he' t ht'

/-! ### A page-level request granted (R75, R91) -/

theorem meter_eq (port n : Nat) (s : State) : ∃ q, (meter port n s).2 = { s with qos := q } := by
  unfold meter
  split
  · exact ⟨s.qos, rfl⟩
  · exact ⟨_, rfl⟩

/-- A distress poison opens without a read of the page's image. -/
theorem beginOp_distress (p port : Nat) (s : State) : ∃ q o, o.gpn = p ∧ o.kind = .distress ∧
    beginOp .distress p port none s = { s with qos := q, cold := { s.cold with ops := s.cold.ops ++ [o] } } := by
  obtain ⟨q, hq⟩ := meter_eq port 4096 s
  unfold beginOp
  simp only [reduceCtorEq, or_self, false_and, if_false, hq]
  exact ⟨_, _, rfl, rfl, rfl⟩

/-- Table 3.1: what a slice refuses a page-level request for is a matter of its own state, the page's operation and the ticket. -/
theorem refuses_pageOp_congr {s t : State} {sl : Nat} {r q : Req} {k : OpKind} (hr : r.kind = .pageOp k) (hq : q.kind = .pageOp k) (hg : q.gpn = r.gpn)
    (ht : q.ticket = r.ticket) (hs : t.slice sl = s.slice sl) (ho : t.cold = s.cold) : t.refuses sl q = s.refuses sl r := by
  simp only [State.refuses, hr, hq, hg, ht, hs, ho, State.ticketAt, Req.ticketKey, State.opOf]

/-- R91: a page-level request that nothing refuses is granted, a ticket that it holds is used up. -/
theorem deliver_pageOp {sl : Nat} {r : Req} {k : OpKind} {s : State} (hk : r.kind = .pageOp k) (hdb : r.db = false) (hretry : r.retry = false)
    (hheld : s.entryHeld (remapIndex r.gpn) = false) (hr : s.refuses sl r = none) :
    ∃ u, (u = s ∨ ∃ key, u = advanceTicket sl key s) ∧ deliver sl r s = sendReply r (u.opAnswer k r.gpn) (grantOp k r u) := by
  simp only [deliver, hheld, State.filterLost, State.lateWriteback, hdb, hretry, hr, hk, Bool.false_and, Bool.false_eq_true, if_false]
  refine ⟨_, ?_, rfl⟩
  split
  · split
    · exact .inr ⟨_, rfl⟩
    · exact .inl rfl
  · exact .inl rfl

theorem entryHeld_of_lapsed {s t : State} (h : Lapsed s t) (e : Nat) : t.entryHeld e = s.entryHeld e := by
  have hremap : t.remap e = s.remap e :=
    fld_of_sameRegsBut h.regs (not_timeRegs_of_slice (by simp only [Reg.HSC_REMAP_SLICE, Reg.HSC_REMAP]; omega))
  simp only [State.entryHeld, State.takeover, h.takeovers, hremap, h.slice]

/-- No delay of R75 is shorter than 16 ns. -/
theorem le_backoff (n : Nat) (ticket : Bool) : 16 ≤ backoff n ticket := by
  unfold backoff
  split
  · omega
  · split
    · omega
    · split <;> omega

/-- R75: an internal request goes to its slice once more when its delay, the same as that of a request in a pen, has passed. -/
theorem execNackRetry_eq {r : Req} {s : State} (hf : s.flight = [r]) (hn : r.nackAt ≠ 0) : execNackRetry r.id s =
    done (deliver (s.home r.gpn) { r with nackAt := 0 } { s.until (r.nackAt + backoff r.nacks r.ticket.isSome) with flight := [] }) := by
  have hfind : [r].find? (fun q => q.id == r.id && q.nackAt != 0) = some r :=
    List.find?_cons_of_pos (Bool.and_eq_true_iff.2 ⟨beq_self_eq_true _, bne_iff_ne.2 hn⟩)
  have hempty : [r].filter (fun q => q.id != r.id) = [] := by
    simp only [List.filter_cons, bne_self_eq_false, Bool.false_eq_true, if_false, List.filter_nil]
  simp only [execNackRetry, hf, hfind, (lapsed_until s _).flight, hempty, backoff]

theorem exec_nackRetry_distress {r : Req} {s : State} (hc : calm s = true) (hf : s.flight = [r]) (hn : r.nackAt ≠ 0) (ha : r.agent = .plaza)
    (hk : r.kind = .pageOp .distress) (hretry : r.retry = false) (hheld : s.entryHeld (remapIndex r.gpn) = false)
    (hr : s.refuses (s.home r.gpn) r = none) (hdb : r.db = false) :
    ∃ t, exec (.nackRetry r.id) s = .next t ∧ r.nackAt + 16 ≤ t.clk ∧ t.flight = [] ∧
      (t.cold.ops.map fun o => (o.gpn, o.kind)) = (s.cold.ops.map fun o => (o.gpn, o.kind)) ++ [(r.gpn, .distress)] ∧ sameMemory s t := by
  have he := execNackRetry_eq hf hn
  have hd := le_backoff r.nacks r.ticket.isSome
  have hl := lapsed_until s (r.nackAt + backoff r.nacks r.ticket.isSome)
  have hclk := le_until_clk s (r.nackAt + backoff r.nacks r.ticket.isSome)
  generalize s.until (r.nackAt + backoff r.nacks r.ticket.isSome) = u at he hl hclk
  obtain ⟨v, hv, hdel⟩ := deliver_pageOp (sl := s.home r.gpn) (r := { r with nackAt := 0 }) (s := { u with flight := [] }) hk hdb hretry
    ((entryHeld_of_lapsed hl _).trans hheld) ((refuses_pageOp_congr hk hk rfl rfl (hl.slice _) hl.cold).trans hr)
  have hcu : calm { u with flight := [] } = true := (calm_congr hl.hot hl.slices hl.flt).trans hc
  have hv : calm v = true ∧ v.clk = u.clk ∧ v.flight = [] ∧ v.hot = s.hot ∧ v.cold = s.cold := by
    rcases hv with rfl | ⟨key, rfl⟩
    · exact ⟨hcu, rfl, rfl, hl.hot, hl.cold⟩
    · exact ⟨calm_updSlice (fun _ => rfl) hcu, rfl, rfl, hl.hot, hl.cold⟩
  obtain ⟨hcv, hvclk, hvflight, hvhot, hvcold⟩ := hv
  obtain ⟨q, o, hgpn, hkind, hop⟩ := beginOp_distress r.gpn r.port v
  have hexec : exec (.nackRetry r.id) s = done { v with qos := q, cold := { v.cold with ops := v.cold.ops ++ [o] } } := by
    rw [← hop]
    exact he.trans (congrArg done (hdel.trans (by simp only [sendReply, ha, grantOp])))
  refine ⟨_, hexec.trans (done_of_calm _ ((calm_congr rfl rfl rfl).trans hcv)), ?_, hvflight, ?_, ?_, ?_⟩
  · show r.nackAt + 16 ≤ v.clk
    omega
  · simp only [List.map_append, List.map_cons, List.map_nil, hgpn, hkind, hvcold]
  · intro f l; simp only [State.stackLine, hvhot]
  · intro seam ch; simp only [State.dimmStitch, hvcold]

/-- Settles O20: time passes to the end of the microsecond, and to the end of the delay, and changes module time alone. -/
theorem ticketsAndRetries : Obligations.TicketsAndRetries :=
  ⟨fun _ _ _ _ hx => exec_ticketForfeit hx,
   fun _ _ hc hf hn _ ha hk hretry hheld hr _ hdb => exec_nackRetry_distress hc hf hn ha hk hretry hheld hr hdb⟩

/-! ### Two requests of one number (R73, R85)

The module gives each request a number of its own, but the statements are about every state and do not ask for that. Where two transactions of a
slice have one number, the slice goes on with the older one when it means the newer, and changes both. -/

/-- The transactions that slice `sl` holds after a command. -/
def txnsAfter (sl : Nat) : Res → List Txn
  | .next t => (t.slice sl).txns
  | _ => []

theorem txnsAfter_of_next {o : Res} {t : State} (sl : Nat) (h : o = .next t) : txnsAfter sl o = (t.slice sl).txns := by
  rw [h]
  rfl

/-- A read of line 5 of page 3 by LD 0 of head 0. The home slice of pages 3 and 34 is slice 3. -/
def page3Read : Req := { id := 7, agent := .host 0 0, port := 0, kind := .read, gpn := 3, line := 5 }

/-- A transaction of page 34 with the number of `page3Read`, awaiting no snoop any more, whose result is poison (R103). -/
def page34Txn : Txn := { req := { page3Read with gpn := 34 }, phase := .snoop, poisonResult := true }

/-- `page3Read` reaches slice 3, which holds `page34Txn`. -/
def twinRequest : State :=
  { (State.reset.setFld Reg.PWR_STS_STATE 0).updSlice 3 fun x => { x with txns := [page34Txn] } with flight := [page3Read] }

/-- The acceptance answers the older transaction with poison, and both close. -/
theorem txnsAfter_twinRequest : txnsAfter 3 (exec (.sliceRequest 3 [page3Read.id]) twinRequest) = [] := by decide +kernel

/-- Refutes O19: in `twinRequest` the slice accepts the read and holds no transaction afterwards. -/
theorem not_sliceTakesRequests : ¬ Obligations.SliceTakesRequests := by
  rintro ⟨haccept, -, -⟩
  obtain ⟨t, ht, -, -, hids, -⟩ := haccept 3 page3Read 0 0 twinRequest (by decide +kernel) (by decide +kernel) rfl (by decide +kernel) rfl (.inl rfl) rfl
    rfl (by decide +kernel) (by decide +kernel) (by decide +kernel) (by decide +kernel) (by decide +kernel)
  have hnone : (t.slice 3).txns = [] := (txnsAfter_of_next 3 ht).symm.trans txnsAfter_twinRequest
  have hids : (t.slice 3).txns.map (fun x => x.req.id) = [7, 7] := hids.trans (by decide +kernel)
  simp [hnone] at hids

/-- An HDM-DB read of line 5 of page 3 that snoops LDs 0 and 1. -/
def snoopingTxn : Txn := { req := { page3Read with db := true, mval := .any }, phase := .snoop, snoops := [0, 1] }

/-- Slice 3 holds a transaction of page 34 that awaits no snoop, and `snoopingTxn` with the same number. LDs 0 and 1 share its line, of line address
197. -/
def twinSnoops : State :=
  State.reset.updSlice 3 fun x =>
    { x with txns := [{ page34Txn with poisonResult := false }, snoopingTxn]
             filter := [(197, { state := 1, holders := 3, la := 197, snp := true })] }

/-- LD 1's response lets the older transaction go on to its map entry, and marks both so. -/
theorem txnsAfter_twinSnoops : (txnsAfter 3 (exec (.birspReceived 3 197 1 .invalid) twinSnoops)).map Txn.phase = [.map, .map] := by decide +kernel

/-- Refutes O21: in `twinSnoops` LD 1's response sends both transactions on to the map entry, where the statement lets neither change its phase. -/
theorem not_snoopsAnswered : ¬ Obligations.SnoopsAnswered := by
  rintro ⟨hanswer, -, -, -⟩
  obtain ⟨t, ht, -, htxns, -⟩ := hanswer 3 197 1 .invalid snoopingTxn twinSnoops (by decide +kernel) (by decide +kernel) (by decide +kernel)
    (by decide +kernel) (by decide +kernel) (by decide +kernel)
  have hafter : (t.slice 3).txns.map Txn.phase = [.map, .map] := by
    rw [← txnsAfter_of_next 3 ht]
    exact txnsAfter_twinSnoops
  have hstated : (t.slice 3).txns.map Txn.phase = [.snoop, .snoop] := (congrArg (List.map Txn.phase) htxns).trans (by decide +kernel)
  exact absurd (hafter.symm.trans hstated) (by decide)

/-! ### A takeover after a double failure (R110) -/

/-- R110: after a double failure there is no array to load, and the end of a load is no event. -/
theorem execSpareArrayLoadDone_double {e : Fin 32} {x : Takeover} {s : State} (hx : s.takeover e = some x) (hd : x.double = true) :
    execSpareArrayLoadDone e s = .next s := by
  unfold execSpareArrayLoadDone
  rw [hx]
  cases hsp : x.spare with
  | none => simp only [hsp]
  | some sp => simp only [hsp, hd, or_true, if_true]

/-- The takeover of entry 2, whose pair has failed, by spare 32, which is powered. -/
def doubleTakeover : Takeover := { entry := 2, failed := 2, spare := some 32, step := 5, double := true }

/-- It waits for the end of a route change that is under way (R300). -/
def waitingSpare : State := { State.reset with takeovers := [doubleTakeover], noc := { State.reset.noc with flipping := true } }

/-- Refutes O22: the clause about the load does not leave out a double failure, and in `waitingSpare` the takeover of entry 2 stays at step 5. -/
theorem not_spareTakesTheEntry : ¬ Obligations.SpareTakesTheEntry := by
  rintro ⟨-, hload, -, -⟩
  have hx : waitingSpare.takeover (2 : Fin 32) = some doubleTakeover := rfl
  obtain ⟨t, ht, hstep, -⟩ := hload 2 doubleTakeover 32 _ hx rfl rfl
  obtain rfl := Host.Outcome.next.inj ((execSpareArrayLoadDone_double hx rfl).symm.trans ht)
  rw [hx] at hstep
  exact absurd hstep (by decide)

end Sys2Proof.Machine
